-- ==== Sys2Proof/Word.lean ====
section
/-!
DEFINITION. Word.lean: the word types of the block and the indices of its units. Bit 0 is the least
significant bit and byte 0 the least significant byte of every value (R7).
-/
namespace Sys2Proof

/-- One byte. -/
abbrev Byte := BitVec 8
/-- A granule, a sync-page word or a control-page register: 8 bytes. -/
abbrev Dword := BitVec 64
/-- A 64 B line of a bank row or of a tier. -/
abbrev Line := BitVec 512
/-- A 48-bit global address (R116). -/
abbrev Ga := BitVec 48
/-- A 32 B record (R128, R285, R393). -/
abbrev Rec := BitVec 256
/-- A 16 B table entry (handle, window, wait registration, mirror region). -/
abbrev Quad := BitVec 128

/-- Hive h = 16y + x (R10). -/
abbrev HiveId := Fin 256
/-- Context ctx0 to ctx7 of a Hive. -/
abbrev CtxId := Fin 8
/-- DMA channel of a Hive (R144). -/
abbrev ChanId := Fin 16
/-- Main bank B0 to B63. -/
abbrev BankId := Fin 64
/-- Tier-1 stack behind T1Ck. -/
abbrev StackId := Fin 8
/-- Channel of a tier-1 stack (R247). -/
abbrev T1ChId := Fin 32
/-- Cartridge behind T2Qk. -/
abbrev CartId := Fin 4
/-- Fabric port FXPk. -/
abbrev FxpId := Fin 4
/-- CHIP_ID of a chip (R120). -/
abbrev ChipId := Fin 1024
/-- Scarab s: 0-255 the Hives, 256-263 the T1Cs, 264-267 the T2Qs (R205). -/
abbrev ScarabId := Fin 268
/-- Unit number u of R384. -/
abbrev UnitId := Fin 274
/-- A supply rail: 0 VDD_HIVE, 1 VDD_MESH, 2 VDD_EDGE, 3 VDD_AON (R366). -/
abbrev RailId := Fin 4

end Sys2Proof
end

