-- ==== Sys2Proof/Syntax.lean ====
section
/-!
DEFINITION. Syntax.lean: the commands of the block. One constructor of `Instr` per row of
spec/opcode_table.json, with the operands the outside world supplies; what an operand leaves unsaid is
taken from the state. A frame is given by its header fields (R132, R326) and its payload lines.
-/
namespace Sys2Proof

/-- What an access does to the bytes it names. -/
inductive AccKind where
  | read | write | acc | atomic | fetch
deriving DecidableEq, Repr, Inhabited

/-- One line (or one word of a line) of a port request: `mask` bit i covers byte i of the 64 B line that
holds `ga`. -/
structure LineReq where
  ga   : Ga
  mask : Dword
  data : Line
deriving DecidableEq, Repr, Inhabited

/-- A request of one Hive port (R56), with the sideband fields the port sets (R62). -/
structure PortReq where
  port     : Fin 7
  ctx      : CtxId
  chan     : ChanId
  kind     : AccKind
  code     : BitVec 4
  sched    : Bool
  qos      : Fin 8
  flow     : BitVec 12
  layer    : BitVec 16
  operator : BitVec 16
  lines    : List LineReq
deriving DecidableEq, Repr

/-- An access of the scalar core: 1, 2, 4 or 8 naturally aligned bytes (R32). -/
structure SxpReq where
  ctx      : CtxId
  kind     : AccKind
  aop      : BitVec 4
  ga       : Ga
  size     : Nat
  data     : Dword
  qos      : Fin 8
  layer    : BitVec 16
  operator : BitVec 16
deriving DecidableEq, Repr

/-- The places that arbitrate for themselves (R66): a main bank, a bank of an operand store, the sync-page
array and the mesh injection stage. -/
inductive Arbiter where
  | main (h : HiveId) (b : BankId)
  | mat (h : HiveId) (b : Fin 16)
  | vec (h : HiveId) (b : Fin 8)
  | sync (h : HiveId)
  | inject (h : HiveId)
deriving DecidableEq, Repr

/-- The path on which a register reaches its write: the control page of a context, an edge unit's page as a context of a Hive reaches it, or a
parameter. -/
inductive RegTarget where
  | page (h : HiveId) (c : CtxId) (off : BitVec 16)
  | edge (h : HiveId) (c : CtxId) (u : Fin 32) (off : BitVec 20)
  | param (p : BitVec 16) (idx : Nat)
deriving DecidableEq, Repr

/-- A YPP path (R423, R429): one MCTP source EID, or one mailbox slot. -/
inductive Path where
  | mctp (eid : BitVec 8)
  | mb (slot : Fin 3)
deriving DecidableEq, Repr

/-- How a LOAD or DROP of a handle slot arrives (R123): the staged entry of ctx0, or a YPP element. -/
inductive HandleSrc where
  | ctl
  | ypp (entry : Quad)
deriving DecidableEq, Repr

/-- Who writes a register that has both a control-page and a dictionary path (R50, R358). -/
inductive RegPath where
  | ctl
  | ypp
deriving DecidableEq, Repr

/-- A cross-chip frame (R132); its kind is the row it arrives by. -/
structure Frame where
  srcChip   : ChipId
  srcHive   : HiveId
  dstChip   : ChipId
  win       : Fin 32
  winGen    : BitVec 8
  qos       : Fin 8
  sched     : Bool
  relEpoch  : BitVec 8
  relPeriod : BitVec 16
  relPos    : BitVec 8
  op        : BitVec 4
  count     : BitVec 16
  ga        : Ga
  layer     : BitVec 16
  operator  : BitVec 16
  mask      : Dword
  dstHive   : HiveId
  payload   : List Line
deriving DecidableEq, Repr

/-- A mirror frame (R326). -/
structure MFrame where
  srcChip : ChipId
  region  : Fin 64
  lines   : BitVec 3
  op      : BitVec 4
  flags   : BitVec 7
  seq     : BitVec 48
  ack     : BitVec 48
  off     : BitVec 40
  mask    : Dword
  payload : List Line
deriving DecidableEq, Repr

/-- What the cx_cfg_ register reads of an attachment give (R268), or the step that failed. -/
structure AttachResult where
  failStep : Option (Fin 9)
  failVal  : BitVec 32
  serial   : Dword
  capacity : Dword
  budget   : Dword
  lifeUsed : BitVec 8
  ledger0  : Line
  ledger1  : Line
deriving DecidableEq, Repr

/-- What training and the mode registers of one stack report (R247, R254, R453). -/
structure TrainResult where
  failMask  : BitVec 32
  geometry  : Bool
  onDieEcc  : Bool
  timing    : List Nat
  refSlots  : Nat
deriving DecidableEq, Repr

/-- An input recorded or replayed under R348. -/
structure RecInput where
  kind  : BitVec 4
  unit  : BitVec 12
  tag   : BitVec 16
  hash  : BitVec 32
deriving DecidableEq, Repr

/-- The commands, one constructor per row of spec/opcode_table.json, in the table's order. -/
inductive Instr where
  | portRequest (h : HiveId) (r : PortReq)
  | sxpAccess (h : HiveId) (r : SxpReq)
  | registerWrite (t : RegTarget) (v : Dword)
  | mipInbound (x : Nat)
  | scoreboardStallEnd (x : Nat)
  | ringSlotStallEnd (x : Nat)
  | bankGrant (a : Arbiter)
  | requestExpire (x : Nat)
  | responseDeliver (x : Nat)
  | writeComplete (x : Nat)
  | flcFill (x : Nat)
  | flcWritebackDone (x : Nat)
  | flcFlush (h : HiveId) (c : CtxId) (cell : Ga)
  | flcInval (h : HiveId) (c : CtxId) (cell : Ga)
  | flcFlushAll (h : HiveId) (c : CtxId) (cell : Ga)
  | flcInvalAll (h : HiveId) (c : CtxId) (cell : Ga)
  | flcOpDone (h : HiveId) (c : CtxId)
  | bankOwnerWrite (p : RegPath) (c : CtxId) (h : HiveId) (b : BankId) (v : Byte)
  | handoverDrainEnd (h : HiveId) (b : BankId)
  | handoverClearEnd (h : HiveId) (b : BankId)
  | arbCommitGo (v : BitVec 32)
  | commitChecksDone
  | commitSwitch
  | commitNoEpoch
  | epochEdge
  | epochStart
  | epochEnd
  | routerForward (h : HiveId) (d : Fin 8)
  | fxpSchedRelease (x : Nat)
  | hiveIdleGate (h : HiveId)
  | hiveWakeEnd (h : HiveId)
  | powerIntentGate (h : HiveId) (j : Fin 16)
  | powerIntentWake (h : HiveId) (j : Fin 16)
  | regWindowBoundary
  | t1Slot (k : StackId) (c : T1ChId)
  | t1RefreshForced (k : StackId) (c : T1ChId) (half : Fin 2) (bank : Fin 16)
  | handleLoad (src : HandleSrc) (h : HiveId) (c : CtxId) (i : Fin 64)
  | handleDrop (src : RegPath) (h : HiveId) (c : CtxId) (i : Fin 64)
  | handleRead (h : HiveId) (c : CtxId) (i : Fin 64)
  | handleDrainEnd (h : HiveId) (c : CtxId) (i : Fin 64)
  | hierarchyModeWrite (v : Byte)
  | poolContribWrite (v : BitVec 16)
  | chipIdWrite (v : BitVec 16)
  | winOpen (h : HiveId) (c : CtxId) (w : Fin 32)
  | winClose (h : HiveId) (c : CtxId) (w : Fin 32)
  | winRevoke (h : HiveId) (c : CtxId) (w : Fin 32)
  | winForward (h : HiveId) (c : CtxId) (w : Fin 32)
  | winRead (h : HiveId) (c : CtxId) (w : Fin 32)
  | winCloseTimeout (h : HiveId) (w : Fin 32)
  | rwriteRecv (k : FxpId) (f : Frame)
  | raccRecv (k : FxpId) (f : Frame)
  | ratomicRecv (k : FxpId) (f : Frame)
  | rackRecv (k : FxpId) (f : Frame)
  | creditReqRecv (k : FxpId) (f : Frame)
  | creditGrantRecv (k : FxpId) (f : Frame)
  | creditReturnRecv (k : FxpId) (f : Frame)
  | closingRecv (k : FxpId) (f : Frame)
  | revokeRecv (k : FxpId) (f : Frame)
  | redirectRecv (k : FxpId) (f : Frame)
  | redirectAckRecv (k : FxpId) (f : Frame)
  | switchMarkRecv (k : FxpId) (f : Frame)
  | rackTimer (h : HiveId) (chip : ChipId) (hive : HiveId)
  | movePassEnd (h : HiveId)
  | ctxSave (h : HiveId) (c : CtxId) (ref : BitVec 16)
  | ctxSaveDone (h : HiveId)
  | ctxRestore (h : HiveId) (c : CtxId) (ref : BitVec 16)
  | fxDelivered (k : FxpId) (chip : ChipId) (idx : BitVec 48)
  | fxLost (k : FxpId) (chip : ChipId)
  | t1cFlush (k : StackId) (cell : Ga)
  | t1cFlushDone (k : StackId)
  | persist (k : CartId) (cell : Ga)
  | persistDone (k : CartId)
  | msync (cell : Ga)
  | chanEnable (h : HiveId) (k : ChanId)
  | chanDisable (h : HiveId) (k : ChanId)
  | ringTailWrite (h : HiveId) (k : ChanId) (v : BitVec 16)
  | descFetch (h : HiveId) (k : ChanId)
  | dmaTile (h : HiveId) (k : ChanId)
  | dmaFill (h : HiveId) (k : ChanId)
  | dmaCopy (h : HiveId) (k : ChanId)
  | dmaMove (h : HiveId) (k : ChanId)
  | dmaNop (h : HiveId) (k : ChanId)
  | boundWordReturn (h : HiveId) (k : ChanId)
  | dmaLinePresent (h : HiveId)
  | fillCmdRecv (x : Nat)
  | descComplete (h : HiveId) (k : ChanId)
  | chanResume (h : HiveId) (k : ChanId)
  | chanSkip (h : HiveId) (k : ChanId)
  | chanAbort (h : HiveId) (k : ChanId)
  | chanPause (h : HiveId) (k : ChanId)
  | chanContinue (h : HiveId) (k : ChanId)
  | chanDrainEnd (h : HiveId) (k : ChanId)
  | jobSubmit (h : HiveId) (c : CtxId) (target : BitVec 4)
  | jobQueueAccept (h : HiveId) (slot : Fin 256)
  | jobRelease (h : HiveId) (c : CtxId) (slot : Fin 256)
  | scarabJobStart (s : ScarabId)
  | scarabSliceReturn (s : ScarabId)
  | scarabJobComplete (s : ScarabId)
  | fence (h : HiveId) (c : CtxId)
  | fenceChip (h : HiveId) (c : CtxId) (chip : ChipId)
  | ringDeclare (h : HiveId) (c : CtxId) (i : Fin 16)
  | ringUndeclare (h : HiveId) (c : CtxId) (i : Fin 16)
  | ringRead (h : HiveId) (c : CtxId) (i : Fin 16)
  | ringTimeout (x : Nat)
  | wait (h : HiveId) (c : CtxId) (cond : Fin 8) (tmo : BitVec 24) (cell : BitVec 13)
  | waitdec (h : HiveId) (c : CtxId) (tmo : BitVec 24) (cell : BitVec 13)
  | waitCancel (h : HiveId) (c : CtxId) (reg : Fin 128)
  | releasePass (h : HiveId)
  | waitTimeout (h : HiveId) (n : Fin 128)
  | waitResultRead (h : HiveId) (c : CtxId)
  | barrierArrive (x : Nat)
  | outerRegionWrite (e : Fin 64) (v : Dword)
  | t1Request (x : Nat)
  | t1ReadData (k : StackId) (c : T1ChId) (half : Fin 2) (ecc : BitVec 4) (raw : Line)
  | t1ParityErr (k : StackId) (c : T1ChId) (bits : BitVec 2)
  | t1Cattrip (k : StackId)
  | t1RowIdlePrecharge (k : StackId) (c : T1ChId) (half : Fin 2) (bank : Fin 16)
  | pageBufferIdleClose (u : Fin 12) (page : Nat)
  | pageBufferCloseDone (u : Fin 12) (page : Nat)
  | outerDecodeDone (u : Fin 12)
  | t1EcsRead (k : StackId) (c : T1ChId)
  | t1MrrData (k : StackId) (c : T1ChId) (count : BitVec 16) (row : BitVec 16) (refSlots : Nat)
  | t2Request (x : Nat)
  | cxlResponse (k : CartId) (hdr : BitVec 32) (data : Line)
  | cartLinkLost (k : CartId) (linkUp present : Bool)
  | cartAttach (k : CartId)
  | cartAttachEnd (k : CartId) (r : AttachResult)
  | cartTrust (k : CartId)
  | cartDetach (k : CartId)
  | cartDetachDrop (k : CartId)
  | cartDetachEnd (k : CartId)
  | cartHealthPoll (k : CartId) (lifeUsed : Byte)
  | heatDecayEpoch (k : CartId)
  | promoteCandidate (k : CartId)
  | blockMoveDone (k : CartId) (block : Nat)
  | errTableAck (v : BitVec 9)
  | weevilScrubRead (h : HiveId)
  | weevilWriteback (h : HiveId)
  | weevilPageScrub (u : Fin 12) (flags : Dword) (raw : List Line)
  | scrubShortfall (u : ScarabId)
  | rowRepair (h : HiveId) (kind : Fin 3) (bank : BankId) (row : BitVec 10) (badSpares : BitVec 16)
  | retireGraceExpire (h : HiveId) (kind : Fin 3) (stripe : BitVec 10)
  | retireHiveStripe (h : HiveId) (loc : BitVec 48)
  | retireMatrixStripe (h : HiveId) (loc : BitVec 48)
  | retireVectorStripe (h : HiveId) (loc : BitVec 48)
  | retireT1Page (unit : BitVec 8) (loc : BitVec 48)
  | retireT1Bank (unit : BitVec 8) (loc : BitVec 48)
  | retireT2Page (unit : BitVec 8) (loc : BitVec 48)
  | repairMapWrite (idx : Nat) (v : BitVec 16)
  | manifestWrite (bytes : List Byte)
  | readRaw (target : BitVec 4) (unit : BitVec 8) (spare : BitVec 5) (loc : BitVec 39)
  | writeRaw (target : BitVec 4) (unit : BitVec 8) (spare : BitVec 5) (loc : BitVec 39)
  | testReadBlock (p : Path) (want : Nat)
  | testWriteBlock (p : Path) (bytes : List Byte)
  | pairJoin
  | pairLeave
  | mheartSend
  | heartbeatTimeout
  | mwriteRecv (f : MFrame)
  | maccRecv (f : MFrame)
  | mjournalRecv (f : MFrame)
  | mheartRecv (f : MFrame)
  | mackRecv (f : MFrame)
  | mfenceRecv (f : MFrame)
  | msetupRecv (f : MFrame)
  | mreqRecv (f : MFrame)
  | mretRecv (f : MFrame)
  | mirrorRegionWrite (i : Fin 64) (v : Quad)
  | mirrorReserveWrite (i : Fin 64) (v : Quad)
  | mirrorSeedRead (i : Fin 64)
  | mackTimer
  | mirrorLag
  | fenceAck
  | selfFenced
  | fenceTimeout
  | failoverReplayDone
  | mirrorRestorePassEnd (i : Fin 64)
  | journalEntryComplete (seq : BitVec 48)
  | journalTailWrite (v : Dword)
  | replayInput (i : RecInput)
  | estimatorWindowEnd (temps : List Nat)
  | railTelemetrySample (r : RailId) (mw : BitVec 20)
  | telemetryLost (r : RailId)
  | pwrDivergence
  | capUnmet
  | powerCapWrite (v : BitVec 16)
  | pwrDivAck
  | droopTrip (d : Fin 16)
  | droopReleaseStep
  | supplyWarning (r : RailId) (mv : Nat)
  | supplyRecovery (mv : Nat)
  | supplyStall
  | supplyReset (r : RailId)
  | temperPeriodEnd (slack : Nat)
  | temperStepUp (m : Fin 16) (slack : Nat)
  | hivePowerWrite (p : RegPath) (h : HiveId) (v : Dword)
  | domainDrainEnd (h : HiveId) (d : Fin 14)
  | domainWakeEnd (h : HiveId) (d : Fin 14)
  | snap
  | thaw
  | snapEdge
  | snapshotTake
  | traceLongExpire (u : UnitId) (x : Nat)
  | traceAppend (k : StackId)
  | appenderPadTimeout (k : StackId)
  | traceMark (h : HiveId) (c : CtxId) (v : Dword)
  | traceModeWrite (v : Byte)
  | triggerAction (i : Fin 4)
  | wfgBuild
  | wfgBuildDone
  | tsprobeSend (k : FxpId) (chip : ChipId)
  | tsprobeRecv (k : FxpId) (f : Frame)
  | tsyncEdge
  | quenchRequest
  | quenchCtlWrite (v : Byte)
  | quenchTake
  | quenchRefresh (k : StackId)
  | quenchUnitRead (p : Path) (u : UnitId) (off want : Nat)
  | quenchMemRead (p : Path) (want : Nat)
  | queueOccClear (idx : Nat) (v : Dword)
  | mctpMessage (eid : Byte) (tag : Fin 8) (bytes : List Byte)
  | yppRead (p : Path)
  | yppWrite (p : Path)
  | yppReadBlock (p : Path)
  | yppWriteBlock (p : Path)
  | yppCommit (p : Path)
  | yppDescribe (p : Path)
  | yppSubscribe (p : Path)
  | mbGo (s : Fin 3) (bytes : List Byte)
  | mbRspack (s : Fin 3)
  | mbEvack (s : Fin 3)
  | lifecycleChange (v : BitVec 2)
  | dbgAuthChange (v : Bool)
  | porAssert
  | porRelease (lifecycle : BitVec 2) (auth : Bool)
  | warmReset (fclkRan : Bool)
  | romCheckDone (ok : Bool)
  | imageBegin (size : BitVec 20)
  | imageData (v : Dword)
  | imageEnd (fwOk : Bool)
  | startGo (fclk : Bool)
  | startReload
  | startPhaseEnd
  | t1TrainDone (k : StackId) (r : TrainResult)
  | t1TrainTimeout (k : StackId)
  | cartAttachTimeout (k : CartId)
  | irqClear (v : Byte)
  | t2LinkRetrain (k : CartId) (gts : BitVec 7) (width : BitVec 5)
  | warmResetRelease
deriving DecidableEq, Repr

end Sys2Proof
end

