-- ==== Sys2Proof/Machine/Tbl.lean ====
section
/-!
DEFINITION. Tbl.lean: a sparse table. Keys rise strictly and no entry equals what an unlisted key reads
as, so equal tables are equal data. What an unlisted key reads as is the caller's argument `d`.
-/
namespace Sys2Proof.Machine

/-- A sparse table: (key, value) pairs in canonical form. -/
abbrev Tbl (α : Type) := List (Nat × α)

/-- The entry listed at a key. -/
def Tbl.find {α : Type} : Tbl α → Nat → Option α
  | [], _ => none
  | (j, v) :: t, k => if j = k then some v else Tbl.find t k

/-- The value at a key; an unlisted key reads as `d`. -/
def Tbl.get {α : Type} (t : Tbl α) (d : α) (k : Nat) : α := (Tbl.find t k).getD d

/-- Takes the entry of a key out. -/
def Tbl.erase {α : Type} (t : Tbl α) (k : Nat) : Tbl α := t.filter (fun e => e.1 ≠ k)

/-- Lists a value at a key, keeping the keys rising. -/
def Tbl.insert {α : Type} : Tbl α → Nat → α → Tbl α
  | [], k, v => [(k, v)]
  | (j, w) :: t, k, v =>
    if k < j then (k, v) :: (j, w) :: t
    else if k = j then (k, v) :: t
    else (j, w) :: Tbl.insert t k v

/-- Writes a value at a key; writing `d`, what an unlisted key reads as, takes the entry out. -/
def Tbl.set {α : Type} [DecidableEq α] (t : Tbl α) (d : α) (k : Nat) (v : α) : Tbl α :=
  if v = d then Tbl.erase t k else Tbl.insert t k v

/-- Rewrites the value at a key by a function. -/
def Tbl.upd {α : Type} [DecidableEq α] (t : Tbl α) (d : α) (k : Nat) (f : α → α) : Tbl α :=
  Tbl.set t d k (f (Tbl.get t d k))

/-- The keys listed rise strictly. -/
def Tbl.rising {α : Type} (t : Tbl α) : Bool :=
  decide (t.Pairwise (fun a b => a.1 < b.1))

/-- The canonical form: keys rise strictly and no entry equals what an unlisted key reads as. -/
def Tbl.wf {α : Type} [DecidableEq α] (t : Tbl α) (d : α) : Bool :=
  Tbl.rising t && t.all (fun e => e.2 ≠ d)

end Sys2Proof.Machine
end

