-- ==== Sys2Proof/Machine/Bits.lean ====
section
/-!
DEFINITION. Bits.lean: fields of words, bytes and granules of lines, byte lists, and CRC-32. Every field
map of the spec is written high:low, and so are these.
-/
namespace Sys2Proof.Machine

/-- Bits hi:lo of a number. -/
def fld (x hi lo : Nat) : Nat := (x / 2^lo) % 2^(hi + 1 - lo)

/-- A number with bits hi:lo replaced by `v`. -/
def setFld (x hi lo v : Nat) : Nat :=
  x - fld x hi lo * 2^lo + (v % 2^(hi + 1 - lo)) * 2^lo

/-- A word built from its fields (hi, lo, value); fields not given are 0 (R6). -/
def pack : List (Nat × Nat × Nat) → Nat
  | [] => 0
  | (hi, lo, v) :: t => (v % 2^(hi + 1 - lo)) * 2^lo + pack t

/-- A 32 B record built from its fields. -/
def recOf (fs : List (Nat × Nat × Nat)) : Rec := BitVec.ofNat 256 (pack fs)

/-- A 64-bit word built from its fields. -/
def dwordOf (fs : List (Nat × Nat × Nat)) : Dword := BitVec.ofNat 64 (pack fs)

/-- Bit `i` of a number. -/
def bit (x i : Nat) : Bool := x.testBit i

/-- One for true. -/
def b2n (b : Bool) : Nat := if b then 1 else 0

/-- Ceiling of a quotient. -/
def ceilDiv (a b : Nat) : Nat := (a + b - 1) / b

/-- A number held at a ceiling. -/
def sat (top x : Nat) : Nat := if top < x then top else x

/-- A two's complement number of `n` bits as an integer. -/
def sext (n x : Nat) : Int := if 2^(n - 1) ≤ x then (x : Int) - 2^n else x

/-- An integer as a two's complement number of `n` bits. -/
def toTwos (n : Nat) (x : Int) : Nat := (x % (2^n : Int)).toNat

/-- Number of set bits among the lowest `n`. -/
def popCount (n x : Nat) : Nat := (List.range n).foldl (fun a i => a + b2n (x.testBit i)) 0

/-- The lowest set bit among the lowest `n`. -/
def lowBit (n x : Nat) : Option Nat := (List.range n).find? (fun i => x.testBit i)

/-! ### Lines and bytes -/

/-- Byte `i` of a line. -/
def Line.byte (l : Line) (i : Nat) : Byte := BitVec.extractLsb' (8 * i) 8 l

/-- Granule `g` of a line. -/
def Line.gran (l : Line) (g : Nat) : Dword := BitVec.extractLsb' (64 * g) 64 l

/-- The bits of a line that a byte mask covers. -/
def maskLine (m : Dword) : Line :=
  BitVec.ofNat 512 ((List.range 64).foldl (fun a i => if m.getLsbD i then a + 255 * 2^(8 * i) else a) 0)

/-- A line with the bytes of a mask replaced. -/
def mergeLine (old new : Line) (m : Dword) : Line :=
  (old &&& ~~~(maskLine m)) ||| (new &&& maskLine m)

/-- A line with granule `g` replaced. -/
def Line.setGran (l : Line) (g : Nat) (d : Dword) : Line :=
  mergeLine l (BitVec.ofNat 512 (d.toNat * 2^(64 * g))) (BitVec.ofNat 64 (255 * 2^(8 * g)))

/-- All 64 bytes. -/
def fullMask : Dword := BitVec.ofNat 64 (2^64 - 1)

/-- A mask of `n` bytes from byte `i`. -/
def byteMask (i n : Nat) : Dword := BitVec.ofNat 64 ((2^n - 1) * 2^i)

/-- The mask covers part, but not all, of granule `g`. -/
def partGran (m : Dword) (g : Nat) : Bool :=
  let b := fld m.toNat (8 * g + 7) (8 * g)
  b ≠ 0 && b ≠ 255

/-- The mask covers part of at least one granule (R33). -/
def isPartial (m : Dword) : Bool := (List.range 8).any (partGran m)

/-- The line of a list of bytes, byte 0 lowest (R7). -/
def bytesNat : List Byte → Nat
  | [] => 0
  | b :: t => b.toNat + 256 * bytesNat t

/-- The `n` lowest bytes of a number, byte 0 first (R7). -/
def natBytes : Nat → Nat → List Byte
  | 0, _ => []
  | n + 1, x => BitVec.ofNat 8 x :: natBytes n (x / 256)

/-- `n` bytes of a list from byte `i`, zeros past its end. -/
def sliceBytes (bs : List Byte) (i n : Nat) : List Byte :=
  (List.range n).map (fun j => bs.getD (i + j) 0)

/-- The number that `n` bytes of a list from byte `i` spell. -/
def bytesAt (bs : List Byte) (i n : Nat) : Nat := bytesNat (sliceBytes bs i n)

/-! ### CRC-32 -/

/-- One bit of the CRC-32 register, reflected polynomial 0xEDB88320. -/
def crcBit (c : BitVec 32) : BitVec 32 :=
  if c.getLsbD 0 then (c >>> 1) ^^^ 0xEDB88320#32 else c >>> 1

/-- One byte into the CRC-32 register. -/
def crcByte (c : BitVec 32) (b : Byte) : BitVec 32 :=
  (List.range 8).foldl (fun c _ => crcBit c) (c ^^^ b.setWidth 32)

/-- The CRC-32 of a list of bytes: initial and final value all ones, bits reflected. The spec names CRC-32
without its constants: log entry 8. -/
def crc32 (bs : List Byte) : BitVec 32 := ~~~(bs.foldl crcByte (BitVec.ofNat 32 (2^32 - 1)))

/-- Nanoseconds in a microsecond, a millisecond and a second; the timestamp counts in nanoseconds. -/
def usNs : Nat := 1000
def msNs : Nat := 1000000
def secNs : Nat := 1000000000

/-! ### Lists kept as sets -/

/-- Adds a member once. -/
def addOnce (l : List Nat) (x : Nat) : List Nat := if l.contains x then l else l ++ [x]

/-- Takes a member out. -/
def without (l : List Nat) (x : Nat) : List Nat := l.filter (fun y => y ≠ x)

end Sys2Proof.Machine
end

