-- ==== Sys2Proof/Machine/State.lean ====
section
/-!
DEFINITION. State.lean: everything the spec gives the block, as plain data, the commands waiting at its
interfaces, and the state right after power-on reset is asserted. Registers whose field map the spec gives
as one word stand as bit vectors; bookkeeping that no software reads as a word stands as Nat, Bool or a
list.
-/
namespace Sys2Proof.Machine

/-! ### Transactions in flight (R413, R417) -/

/-- The stages of R417 in which a transaction stands, one constructor per stage code; `issueStall` is stage
0x02 while a handover, a fence, a MOVE, a far-line command or a held mirror write keeps a request at issue. -/
inductive Stage where
  | portInput | issueStall | scoreboard | ringStall | arbiter | bankFirst | bankSecond | returned
  | farLine | meshIf | injection | link | ejection | mipHeld
  | edgeIngress | controller | schedStaging | outstanding | pageBuffer | decoder | landed
  | fxpEgress | fxpRelease | mirrorQueue | supplyHold
deriving DecidableEq, Repr, Inhabited

/-- Where an address is served (R116); `hole` is the unpopulated end of a Hive's range, which its Hive refuses (R47). -/
inductive Loc where
  | row (h bank row : Nat)
  | mat (h bank row : Nat)
  | vec (h bank row : Nat)
  | sync (h word : Nat)
  | t1 (raw : Nat)
  | t2 (k raw : Nat)
  | page (h off : Nat)
  | hole (h : Nat)
  | edge (u off : Nat)
  | none
deriving DecidableEq, Repr, Inhabited

/-- What a transaction carries: a request, or the answer on its way back. -/
inductive Half where
  | request | answer
deriving DecidableEq, Repr, Inhabited

/-- How an access ended (R48, R284): data or completion; refused or uncorrectable with its code. -/
inductive Result where
  | ok
  | refused (code : Byte)
  | uncorr (code : Byte)
deriving DecidableEq, Repr, Inhabited

/-- What the issuer does with the answer. -/
inductive Purpose where
  | engine
  | scalar (off size : Nat)
  | flcFill (set way : Nat)
  | flcWriteback (cmdCtx : Nat)
  | ringFetch
  | boundWord (k : Nat)
  | dmaSrc (desc : Nat)
  | dmaDst (desc n : Nat)
  | completion
  | jobList (slot pos : Nat)
  | jobSlice (slot pos part : Nat)
  | jobOut (slot pos : Nat)
  | fill (desc n : Nat)
  | discarded
  | mirrorSeed (region : Nat)
  | window (win : Nat)
  | pageOp
  | placement (k block : Nat)
  | promoted (x : Nat)
  | run (cmd : Nat)
  | cellAdd
  | regAccess
  | journal (seq : Nat)
  | observe
deriving DecidableEq, Repr, Inhabited

/-- One transaction, as R417's in-flight entry names its fields: one line or word of a request. `seq` is its place in
its source's order (R212), `inp` the router input it came in by (R93), `by_` the party it waits for (R394), `win` the window (chip, Hive, window, generation) a WINDOW handle names
and `wbase` the first address under that handle; `chk` is one past the cycle of its first check against the scoreboard (R221), `noBe` tells that it
missed a slot and keeps be = 0 (R99), and `dxpTag` is its tag at DXP (R64). -/
structure Xact where
  id       : Nat := 0
  grp      : Nat := 0
  stage    : Stage := .portInput
  half     : Half := .request
  kind     : AccKind := .read
  code     : BitVec 4 := 0
  sched    : Bool := false
  qos      : Nat := 0
  ctx      : Nat := 0
  deadline : BitVec 16 := 0
  expired  : Option Nat := none
  flow     : BitVec 12 := 0
  ga       : Ga := 0
  mask     : Dword := 0
  data     : Line := 0
  tag      : Nat := 0
  srcUnit  : Nat := 0
  srcPort  : Nat := 0
  srcChan  : Nat := 0
  srcChip  : Option (Nat × Nat) := none
  layer    : BitVec 16 := 0
  operator : BitVec 16 := 0
  loc      : Loc := .none
  unit     : Nat := 0
  dest     : Nat := 0
  dir      : Nat := 0
  since    : Nat := 0
  ready    : Nat := 0
  born     : Nat := 0
  result   : Result := .ok
  purpose  : Purpose := .engine
  mesh     : Bool := false
  poison   : Bool := false
  seq      : Nat := 0
  inp      : Nat := 0
  by_      : Nat := 0
  win      : Option (Nat × Nat × Nat × Nat) := none
  wbase    : Nat := 0
  chk      : Nat := 0
  noBe     : Bool := false
  dxpTag   : Nat := 0
deriving DecidableEq, Repr

/-- What a port hands its master in a cycle (R64, R48): read data or a completion, poison, a failed write, or a trap
with its code. -/
structure Deliv where
  hive   : Nat
  port   : Nat
  chan   : Nat
  ctx    : Nat
  tag    : Nat
  ga     : Ga
  kind   : AccKind
  data   : Line
  poison : Bool
  code   : Byte
deriving DecidableEq, Repr

/-! ### Stored rows and words -/

/-- A stored row of a bank (R27, R28): 64 data bytes, the check byte of each granule (granule g in bits
8g+7:8g of `chk`) and the three valid cells. -/
structure Row where
  data  : Line := 0
  chk   : Dword := 0
  cells : BitVec 3 := 0
deriving DecidableEq, Repr

/-- A sync-page word with its check byte (R227). -/
structure Word8 where
  data : Dword := 0
  chk  : Byte := 0
deriving DecidableEq, Repr

/-- The stored memories: physical rows, sync-page words, raw tier-1 lines and raw tier-2 lines. -/
structure Mem where
  rows : Tbl Row := []
  sync : Tbl Word8 := []
  t1   : Tbl Line := []
  t2   : Tbl Line := []
deriving DecidableEq, Repr

/-! ### Clock, epochs, commits and regulation -/

/-- The clock root (R353, R354) and the counts it drives. `now` counts block cycles and `hnow` Hearth cycles; `fclk16` and `h16` hold the
sixteenths of an fclk_i period counted toward the next advance of the timestamp and of the Hearth; `tsLoad` is a load on its way, the
sixteenths left and its value (R410); `lag16` is R371's lag in sixteenths of a cycle. -/
structure Clk where
  now      : Nat := 0
  count0   : Nat := 0
  hnow     : Nat := 0
  ts       : Dword := 0
  fclk16   : Nat := 0
  h16      : Nat := 0
  tsLoad   : Option (Nat × Nat) := none
  rootOn   : Bool := false
  fclkOn   : Bool := false
  droop    : Nat := 0
  droopAt  : Nat := 0
  supply   : Nat := 0
  cap      : Nat := 0
  thermal  : Nat := 0
  lag16    : Nat := 0
deriving DecidableEq, Repr

/-- A commit in progress (R71, R89): the cycle of go, the cycle in which its checks ended, the YPP request it answers, and
the timestamp of that cycle. -/
structure Commit where
  goAt    : Nat
  checked : Option Nat
  req     : Option Nat
  at_     : Nat
deriving DecidableEq, Repr

/-- A SLOT_MISS record of the running epoch (R101): its first cause, its count and its greatest lateness. -/
structure Miss where
  epoch : BitVec 48 := 0
  cause : Nat := 0
  count : Nat := 0
  late  : Nat := 0
deriving DecidableEq, Repr

/-- Epochs, commits, regulation windows and SLOT_MISS bookkeeping. `demNext` holds the classes demoted from the next cycle on, `demSeen` those
demoted in this window (R111, R114). `mismatch` lists the mismatches logged in this period and `mmCount`
counts them per Hive (R98). -/
structure Sched where
  running   : Bool := false
  epoch     : BitVec 48 := 0
  start     : Nat := 0
  pendStart : List Nat := []
  wheel0    : Nat := 0
  commit    : Option Commit := none
  result    : Byte := 0
  effective : Tbl Nat := []
  reduced   : Tbl Nat := []
  voided    : List Nat := []
  winBytes  : Tbl Nat := []
  demoted   : List Nat := []
  demNext   : List Nat := []
  demSeen   : List Nat := []
  misses    : Tbl Miss := []
  mismatch  : List Nat := []
  mmCount   : Tbl Nat := []
  rebase    : Bool := false
deriving DecidableEq, Repr

/-! ### Hives -/

/-- The clock of a Hive (R103, R357): not yet released, LIVE, WARM, or waking until a cycle. -/
inductive HClock where
  | off | live | warm | waking (at_ : Nat)
deriving DecidableEq, Repr, Inhabited

/-- A power domain's state (R357). -/
inductive Dom where
  | on | ember | cold
deriving DecidableEq, Repr, Inhabited

/-- A domain in transition (R360, R361): draining, waiting to wake, or waking until a cycle. -/
inductive DomPhase where
  | idle | draining | queued | waking (at_ : Nat)
deriving DecidableEq, Repr, Inhabited

/-- One power domain: its state, its target and its phase. -/
structure Domain where
  st     : Dom := .cold
  target : Dom := .cold
  phase  : DomPhase := .idle
deriving DecidableEq, Repr

/-- A bank ownership entry with the handover in progress (R50, R52). -/
structure Owner where
  owner : Nat := 0
  next  : Nat := 0
  pend  : Bool := false
  clear : Bool := false
  since : Nat := 0
  clrAt : Option Nat := none
deriving DecidableEq, Repr

/-- A scoreboard entry (R219): a byte range of GA, its requester and its context. -/
structure SbEntry where
  id    : Nat
  hive  : Nat
  lo    : Nat
  hi    : Nat
  port  : Nat
  chan  : Nat
  desc  : Nat
  ctx   : Nat
  since : Nat
deriving DecidableEq, Repr

/-- A far-line cache way (R75): state is `valid = 0` for an empty way. -/
structure Way where
  used  : Bool := false
  tag   : BitVec 34 := 0
  valid : Dword := 0
  dirty : Dword := 0
  data  : Line := 0
  chk   : Dword := 0
  ctx   : Nat := 0
  cls   : Nat := 0
  fill  : Bool := false
deriving DecidableEq, Repr

/-- A far-line cache command running for a context (R79, R80); the transactions below number `no` were presented before its write. -/
structure FlcCmd where
  hive : Nat
  ctx  : Nat
  op   : Nat
  cell : Ga
  due  : Nat
  lost : Bool
  no   : Nat
deriving DecidableEq, Repr

/-- A LOAD or DROP in progress on a handle slot (R124): its new contents, the register, journal entry or YPP request it answers, and
whether a change of the pool drops the slot again (R45). -/
structure Drain where
  entry : Quad
  since : Nat
  ctl   : Bool
  jseq  : Option Nat
  again : Bool
  req   : Option Nat := none
deriving DecidableEq, Repr

/-- A MOVE running at its source Hive (R141): `dirty` and `todo` are line numbers of the Hive, `few` and `most` MOVE_FINAL_LINES and
MOVE_MAX_PASSES as they stood when it started (R143). -/
structure Move where
  hive  : Nat
  chan  : Nat
  desc  : Nat
  slot  : Nat
  src   : Nat
  dst   : Nat
  lines : Nat
  pass  : Nat
  final : Bool
  dirty : List Nat
  todo  : List Nat
  few   : Nat := 64
  most  : Nat := 4
deriving DecidableEq, Repr

/-- CTX_OP in progress (R142): `base` is where the image goes, `slot` the handle of ctx0 it lies under. -/
structure CtxJob where
  hive : Nat
  ctx  : Nat
  base : Nat
  slot : Nat
  lost : List Nat
deriving DecidableEq, Repr

/-- A slot ring (R223). -/
structure Ring where
  en       : Bool := false
  owner    : Nat := 0
  full     : BitVec 256 := 0
  tmo      : Nat := 0
  nslots   : Nat := 0
  lines    : Nat := 0
  base     : Nat := 0
  timeouts : BitVec 32 := 0
  by_      : Tbl Nat := []
deriving DecidableEq, Repr

/-- A wait registration (R229) with its arming order (R231). -/
structure WaitReg where
  state : Nat := 0
  ctx   : Nat := 0
  cond  : Nat := 0
  dec   : Bool := false
  cell  : Nat := 0
  tmo   : Nat := 0
  value : Dword := 0
  order : Nat := 0
  armed : Nat := 0
deriving DecidableEq, Repr

/-- A barrier cell (R234): MASK, ARRIVED, held arrivals, generation, when its first arrival counted, and of each held arrival its participant,
when it came and its source (R392). -/
structure Barrier where
  mask    : Dword := 0
  arrived : Dword := 0
  held    : Dword := 0
  gen     : BitVec 48 := 0
  first   : Nat := 0
  heldBy  : List (Nat × Nat × Nat) := []
deriving DecidableEq, Repr

/-- A release pass waiting on a cell, with the source whose change queued it (R228, R394). -/
structure Pass where
  cell : Nat
  src  : Nat
deriving DecidableEq, Repr

/-- Cross-chip lines of a context toward a chip: sent and acknowledged (R214, R215). -/
structure Sent where
  sent  : Nat := 0
  acked : Nat := 0
deriving DecidableEq, Repr

/-- A REMOTE_FENCE running for a context: the sent count each destination chip must reach (R214). -/
structure Fence where
  hive  : Nat
  ctx   : Nat
  need  : List (Nat × Nat)
  lost  : List Nat
  all   : Bool
  since : Nat
deriving DecidableEq, Repr

/-- A completed closing write of a slot whose source has earlier writes to the slot under way (R225): the ring's key, the slot, the write's
place in its source's order, its source and its party. -/
structure Closing where
  ring  : Nat
  slot  : Nat
  seq   : Nat
  src   : Nat × Nat × Nat × Nat
  party : Nat
deriving DecidableEq, Repr

/-- Hives: clocks, domains, ownership, scoreboard, far-line cache, handles, synchronisation. `cmdq` lists the CMD accesses of a context
that wait behind one which stalls (R56, R230, R232), `cmdTurn` the context whose access goes on now,
`granted` the arbiters that granted in this cycle, each with whether its winner was SCHED (R74), `ported` the ports that presented a request in it (R56),
`sbGone` the scoreboard entries released in it (R220). -/
structure Hives where
  clock    : Tbl HClock := []
  active   : Tbl Nat := []
  gatePend : List Nat := []
  dom      : Tbl Domain := []
  pwrPend  : List Nat := []
  pwrRes   : Tbl Nat := []
  owner    : Tbl Owner := []
  sb       : List SbEntry := []
  ways     : Tbl Way := []
  plru     : Tbl (BitVec 7) := []
  flcCmds  : List FlcCmd := []
  handles  : Tbl Quad := []
  drains   : Tbl Drain := []
  moves    : List Move := []
  ctxJobs  : List CtxJob := []
  rings    : Tbl Ring := []
  closing  : List Closing := []
  waits    : Tbl WaitReg := []
  armNo    : Nat := 0
  passes   : Tbl (List Pass) := []
  barriers : Tbl Barrier := []
  sent     : Tbl Sent := []
  fences   : List Fence := []
  events   : Tbl Byte := []
  faultReg : Tbl Rec := []
  pages    : Tbl Dword := []
  edge     : Tbl Dword := []
  lastRes  : Tbl Nat := []
  busy     : Tbl Nat := []
  outs     : List Deliv := []
  cmdq     : Tbl (List Instr) := []
  cmdTurn  : Option Nat := none
  granted  : List (Nat × Bool) := []
  ported   : List Nat := []
  sbGone   : List Nat := []
deriving DecidableEq, Repr

/-! ### Windows -/

/-- The state of an allotment at its sender (R136, R138, R139). -/
inductive AllotSt where
  | asked | held | closing | revoked | redirected
deriving DecidableEq, Repr, Inhabited

/-- A sender's allotment at a window (R136); `next` is the place a REDIRECT named (R139), `since` the cycle in which CLOSING came (R138). -/
structure Allot where
  hive   : Nat
  chip   : Nat
  dhive  : Nat
  win    : Nat
  gen    : Nat
  credit : Nat
  base   : Nat
  extent : Nat
  st     : AllotSt
  next   : Option (Nat × Nat × Nat × Nat) := none
  since  : Nat := 0
deriving DecidableEq, Repr

/-- A holder as its window sees it: credits granted and not yet returned, and whether it acknowledged a
REDIRECT or was marked (R136 to R139). -/
structure Holder where
  chip   : Nat
  hive   : Nat
  credit : Nat
  acked  : Bool
  marked : Bool
deriving DecidableEq, Repr

/-- The credit state of a window (R134, R136, R138); `sources` lists the sources that a REDIRECT brought, `newGen` and `newBase` are the generation
and the first line of the window that a FORWARD names, `tmo` WIN_CLOSE_TIMEOUT as it stood when the window left OPEN (R143), and `toMark` lists the
sources whose SWITCH_MARK waits for forwarded lines (R139). -/
structure WinX where
  free     : Nat := 0
  holders  : List Holder := []
  since    : Nat := 0
  jseq     : Option Nat := none
  ctlCtx   : Nat := 0
  sources  : List (Nat × Nat) := []
  sinceTs  : Nat := 0
  newGen   : Option Nat := none
  newBase  : Nat := 0
  tmo      : Nat := 0
  toMark   : List (Nat × Nat × Nat) := []
deriving DecidableEq, Repr

/-- A line held at a window: a direct line of an unmarked source at the new window, or at the old one a line that waits for credits to
be forwarded (R139, R140). -/
structure HeldLine where
  hive  : Nat
  win   : Nat
  kind  : AccKind
  frame : Frame
deriving DecidableEq, Repr

/-- Lines applied from a source Hive and not yet acknowledged (R133). -/
structure RackCnt where
  lines : Nat := 0
  since : Nat := 0
deriving DecidableEq, Repr

/-- Windows, allotments and acknowledgement counts; `unack` lists the contexts of a sender's unacknowledged lines per
window, oldest first (R133, R215). -/
structure Wins where
  table  : Tbl Quad := []
  extra  : Tbl WinX := []
  allots : List Allot := []
  held   : List HeldLine := []
  racks  : Tbl RackCnt := []
  unack  : Tbl (List Nat) := []
deriving DecidableEq, Repr

/-! ### DMA -/

/-- The phases of a fetched descriptor (R148, R156, R174). -/
inductive DPhase where
  | fetching | accepted | bounds | ready | issued | presented | complete
deriving DecidableEq, Repr, Inhabited

/-- A source line read for a descriptor: when it was valid, its bytes and how its read ended. -/
structure SrcLine where
  valid  : Nat
  data   : Line
  result : Result
deriving DecidableEq, Repr

/-- A descriptor between fetch and completion. `rd` and `wr` are the cursors (row in visit order, line of the
row); `wrN` counts destination lines presented; `open_` lists presented writes not yet complete or complete
out of order, with their completion. -/
structure Desc where
  idx    : Nat := 0
  w      : BitVec 512 := 0
  phase  : DPhase := .fetching
  bnd    : List (Nat × Nat) := []
  rdRow  : Nat := 0
  rdLine : Nat := 0
  wrRow  : Nat := 0
  wrLine : Nat := 0
  wrN    : Nat := 0
  src    : Tbl SrcLine := []
  open_  : List (Nat × Bool) := []
  skip   : List Nat := []
  resumed : Bool := false
  sb     : Nat := 0
  jseq   : Option Nat := none
  jwait  : Bool := false
  noAct  : Bool := false
deriving DecidableEq, Repr

/-- The channel states of R145. -/
inductive ChSt where
  | idle | run | halted | paused | draining
deriving DecidableEq, Repr, Inhabited

/-- A DMA channel block (R145) and its fetched descriptors. `tailPend` lists RING_TAIL writes that wait for the writes presented before them
(R147), each with the number the next transaction had; `fenceWait` tells that the next descriptor carries fence = 1 (R148). -/
structure Chan where
  en        : Bool := false
  lsize     : Nat := 2
  ringRef   : BitVec 16 := 0
  ringOff   : BitVec 36 := 0
  tail      : BitVec 16 := 0
  tailPend  : List (Nat × Nat) := []
  done      : BitVec 16 := 0
  st        : ChSt := .idle
  code      : Byte := 0
  desc      : BitVec 16 := 0
  failed    : BitVec 16 := 0
  fpRow     : BitVec 36 := 0
  fpLine    : BitVec 16 := 0
  faultDone : Dword := 0
  next      : BitVec 16 := 0
  pausing   : Bool := false
  fenceWait : Bool := false
  descs     : List Desc := []
deriving DecidableEq, Repr

/-! ### Scarab engines -/

/-- The states of a job slot (R197) before and after its queue. -/
inductive JSt where
  | free | waiting | queued | running | done | failed
deriving DecidableEq, Repr, Inhabited

/-- What a Scarab does next for a job, in index order (R192, R200, R201). -/
inductive RobKind where
  | zero | row | bagEnd | fault
deriving DecidableEq, Repr, Inhabited

/-- An entry of a Scarab's reorder buffer: its number, slice column, bag, index position, the GA of its row and the FP32 weight of its index. -/
structure Rob where
  no   : Nat
  kind : RobKind
  col  : Nat
  bag  : Nat
  pos  : Nat
  ga   : Nat
  wgt  : Dword
deriving DecidableEq, Repr

/-- A line of a job's output not yet presented: the index position it belongs to, its address, mask and data. -/
structure JOut where
  pos  : Nat
  ga   : Nat
  mask : Dword
  data : Line
deriving DecidableEq, Repr

/-- A job slot of a Hive (R195, R197) and the progress of its job: `refs` the handle entries resolved at submission (table, index, auxiliary,
weights, output, completion), the issue cursor `col`, `bag`, `idx`, the reorder buffer, the list lines read or asked for, the slice lines still to
request (their key and line address) and those read, the FP32 accumulators or, by 8-byte words, the rows held through a pass,
the bags or rows failed, and the output lines waiting and under way. -/
structure Job where
  st     : JSt := .free
  w      : BitVec 512 := 0
  ctx    : Nat := 0
  target : Nat := 0
  code   : Byte := 0
  pos    : BitVec 32 := 0
  fails  : BitVec 16 := 0
  sb     : Nat := 0
  refs   : List Nat := []
  col    : Nat := 0
  bag    : Nat := 0
  idx    : Nat := 0
  robNo  : Nat := 0
  rob    : List Rob := []
  lists  : Tbl SrcLine := []
  asked  : List Nat := []
  reads  : List (Nat × Nat) := []
  slices : Tbl SrcLine := []
  acc    : Tbl Dword := []
  bagN   : Nat := 0
  bad    : List Nat := []
  outQ   : List JOut := []
  outs   : Nat := 0
  readAll : Bool := false
  stop   : Bool := false
  acted  : Bool := false
deriving DecidableEq, Repr

/-! ### Tier 1 and tier 2 -/

/-- A page buffer of a T1C or T2Q (R257, R266): the lines it holds, those dirty, those written whole (R246). -/
structure PageBuf where
  unit   : Nat
  page   : Nat
  lines  : Tbl Line
  have_  : Dword
  dirty  : Dword
  whole  : Dword
  last   : Nat
  closing : Bool
  decode : Bool
deriving DecidableEq, Repr

/-- A page waiting for or in the outer decoder (R289, R291). -/
structure DecJob where
  unit    : Nat
  page    : Nat
  flagged : Dword
  raw     : Tbl Line
  req     : Option Nat
  due     : Nat
  walker  : Bool
deriving DecidableEq, Repr

/-- A bank of a stack as the T1C tracks it: the open row, its last hit, the refreshes owed (R252, R254). -/
structure T1Bank where
  row  : Option Nat := none
  hit  : Nat := 0
  act  : Nat := 0
  owed : Nat := 0
deriving DecidableEq, Repr

/-- A whole-page SCHED write sequence (R258). -/
structure SeqPage where
  unit : Nat
  page : Nat
  flow : BitVec 12
  next : Nat
  lines : Tbl Line
deriving DecidableEq, Repr

/-- Cartridge states (R269). -/
inductive CartSt where
  | absent | attaching | untrusted | trusted | detaching | detached | failed
deriving DecidableEq, Repr, Inhabited

/-- A cartridge slot (R268 to R276). `storeId` is the serial of the cartridge whose lines `mem.t2` lists, `store` the free value that names what
that cartridge brought. -/
structure Cart where
  st        : CartSt := .absent
  linkUp    : Bool := false
  present   : Bool := false
  serial    : Dword := 0
  capacity  : Dword := 0
  budget    : Dword := 0
  loaded    : Dword := 0
  ledger    : Dword := 0
  lifeUsed  : Byte := 0
  warned    : Bool := false
  ended     : Bool := false
  diverged  : Bool := false
  recSeq    : Dword := 0
  recAt     : Dword := 0
  attachAt  : Nat := 0
  step      : Nat := 0
  dropping  : Bool := false
  from_     : Dword := 0
  decay     : Nat := 0
  lastDecay : Nat := 0
  place     : Tbl Dword := []
  cached    : List Nat := []
  cands     : List Nat := []
  moving    : List (Nat × Nat) := []
  freeSlots : List Nat := []
  inval     : Nat := 0
  issued    : Nat := 0
  gts       : Nat := 0
  width     : Nat := 0
  dropped   : Nat := 0
  store     : Nat := 0
  storeId   : Dword := 0
deriving DecidableEq, Repr

/-- An edge command register in progress: FLUSH, PERSIST or MSYNC (R119, R267). -/
structure EdgeCmd where
  unit : Nat
  cell : Ga
  need : Nat
  pages : List Nat
deriving DecidableEq, Repr

/-- The two tiers; `heldPg` lists failed decodes whose poison a supply hold keeps from being written (R377). -/
structure Tiers where
  bufs     : List PageBuf := []
  decs     : List DecJob := []
  banks    : Tbl T1Bank := []
  seqs     : List SeqPage := []
  linkErrs : Tbl (List Nat) := []
  ecs      : Tbl Nat := []
  ready    : List Nat := []
  failedSt : List Nat := []
  carts    : Tbl Cart := []
  cmds     : List EdgeCmd := []
  heldPg   : List DecJob := []
  hpRst    : Bool := false
  trainReq : Bool := false
  cmdOut   : Tbl (BitVec 40) := []
deriving DecidableEq, Repr

/-! ### Fabric ports -/

/-- A frame an FXP sent and keeps until its delivery is reported (R415). -/
structure Retain where
  fxp   : Nat
  chip  : Nat
  idx   : Nat
  kind  : Byte
  frame : Frame
  ts    : Dword
deriving DecidableEq, Repr

/-- A mirror frame sent, kept like any other (R326, R415). -/
structure MRetain where
  idx   : Nat
  kind  : Byte
  frame : MFrame
deriving DecidableEq, Repr

/-- Fabric ports: send indices, received counts, the retransmit buffers, the chips reported lost, and by FXP and chip where frames went in this
interval and which probes it owes (R409). -/
structure Fxps where
  sendIdx : Tbl Nat := []
  recvCnt : Tbl Nat := []
  retain  : List Retain := []
  mretain : List MRetain := []
  lost    : List Nat := []
  recent  : List (Nat × Nat) := []
  probe   : List (Nat × Nat) := []
  probeAt : Nat := 0
deriving DecidableEq, Repr

/-! ### Integrity, repair and capacity -/

/-- A Weevil walker (R292 to R295): its place in its pass, when the pass began by the timestamp, the locations skipped, the segments this pass
visits first and those the next pass will, and the duration and the skipped locations of a pass that overran its time. -/
structure Walker where
  pos   : Nat := 0
  began : Nat := 0
  skip  : Nat := 0
  lead  : List Nat := []
  first : List Nat := []
  excess  : Option (Nat × Nat) := none
deriving DecidableEq, Repr

/-- A retirement that waits out its grace time (R302). -/
structure Grace where
  hive : Nat
  kind : Nat
  stripe : Nat
  due  : Nat
deriving DecidableEq, Repr

/-- A reserved extent (R308): kind, tier, GA base, length in bytes. -/
structure Extent where
  kind : Nat
  tier : Nat
  base : Nat
  len  : Nat
deriving DecidableEq, Repr

/-- A tier entry of the manifest (R308). -/
structure TierRet where
  kind : Nat
  pend : Bool
  unit : Nat
  loc  : Nat
deriving DecidableEq, Repr

/-- Logs, chip error table, walkers, repair map and manifest. `wbs` lists the places of rows and words that wait for the Weevil's
write-back (R293). -/
structure Err where
  log      : Tbl Rec := []
  table    : Tbl Rec := []
  head     : BitVec 9 := 0
  tail     : BitVec 9 := 0
  lost     : BitVec 16 := 0
  walkers  : Tbl Walker := []
  wbs      : List Nat := []
  repair   : Tbl (BitVec 16) := []
  graces   : List Grace := []
  stripes  : List Nat := []
  matStr   : List Nat := []
  vecStr   : List Nat := []
  tierRet  : List TierRet := []
  extents  : List Extent := []
  gen      : Dword := 0
  genLoad  : Dword := 0
  changed  : Bool := false
  retire   : Dword := 0
  chkCmd   : Dword := 0
  chkData  : BitVec 640 := 0
deriving DecidableEq, Repr

/-! ### Mirrored pairs, the journal, record and replay -/

/-- PAIR_STATE's states (R318), in the order of their codes. -/
inductive PairSt where
  | unpaired | joining | paired | solo | fenced | leaving | restoring | fenceWait
deriving DecidableEq, Repr, Inhabited

/-- A SYNC write or journal entry that waits for the MACK covering its frame (R21, R341). -/
inductive MWait where
  | write (x : Nat)
  | entry (seq : Nat)
  | setup (region : Nat)
  | last (region : Nat)
  | disable (region : Nat)
  | msync
  | leave
deriving DecidableEq, Repr

/-- A line or frame in a forward queue of an applying unit (R325), or sent and not yet acknowledged. -/
structure MSent where
  seq    : Nat
  lines  : Nat
  async  : Bool
  region : Nat
  at_    : Nat
deriving DecidableEq, Repr

/-- Progress of seeding or restoring a region (R322, R337). -/
structure MProg where
  next  : Nat := 0
  pass  : Nat := 0
  final : Bool := false
  dirty : List Nat := []
  todo  : List Nat := []
deriving DecidableEq, Repr

/-- The Mirror Unit. `prog` holds the seeding of region i at key i and the restore of reserve element i at key 64 + i (R322, R337);
`waits` what ends when the MACK covering a frame arrives; `flight` the sequenced frames not yet acknowledged. `joinGot` is the state
a JOIN MHEART of the partner told, `beatDue` and `lastHb` cycles of the heartbeat, `lossTs` and `fenceTs` timestamps; `replay` tells that the
copies are aliased and the lost member's journal is being replayed, `fresh` that no MJOURNAL of this pairing has come (R345); `heldOut` and
`heldIn` are frames that wait to go out, for a supply hold or for room in the window (R109, R377), and frames that a hold keeps from being taken. -/
structure Mirror where
  st       : PairSt := .unpaired
  cause    : Nat := 0
  region   : Tbl Quad := []
  reserve  : Tbl Quad := []
  prog     : Tbl MProg := []
  sendSeq  : Nat := 1
  expect   : Nat := 1
  ackSent  : Nat := 0
  ackSince : Nat := 0
  ackLines : Nat := 0
  waits    : List (Nat × MWait) := []
  flight   : List MSent := []
  throttle : Bool := false
  joinGot  : Option Nat := none
  joinSent : Bool := false
  beatDue  : Nat := 0
  lastHb   : Nat := 0
  lossCause : Nat := 0
  lossTs   : Nat := 0
  fenceReq : Bool := false
  fenceTs  : Nat := 0
  replay   : Bool := false
  fresh    : Bool := false
  heldOut  : List (Nat × MFrame) := []
  heldIn   : List (Nat × MFrame) := []
deriving DecidableEq, Repr

/-- A command whose journal entry is being written, and what follows when the write completes (R341). -/
inductive JNext where
  | host (cmd : Nat)
  | desc (h k idx : Nat)
  | handle (slot : Nat)
  | win (slot op : Nat)
  | none
deriving DecidableEq, Repr

/-- The journal manager (R339 to R345) and the record buffer (R347 to R350). `waiting` holds control-page commands that wait for room
in a full journal: their argument, Hive, context and what follows (R342). -/
structure Journal where
  own      : Tbl (BitVec 512) := []
  partner  : Tbl (BitVec 512) := []
  head     : Nat := 0
  tail     : Nat := 0
  fullSaid : Bool := false
  pending  : List (Nat × JNext) := []
  openFoot : Tbl Nat := []
  recState : Nat := 0
  recCount : Nat := 0
  recDiv   : Nat := 0
  recBuf   : List Quad := []
  repPos   : Nat := 0
  stopped  : Bool := false
  waiting  : List (Nat × Nat × Nat × JNext) := []
deriving DecidableEq, Repr

/-! ### Power, thermal, supply, margin -/

/-- The Hearth's power controller (R365 to R381). `winAt`, `epochAt` and `lastSmp` count Hearth cycles; `lastMw` is a rail's last sample
and `mean` its samples of this window, each weighted by the Hearth cycles it averages; `need` holds PWR_PHASE's words by 3φ + g, one that is not
listed C ÷ 3 for the C `cap0` of the start; `est` holds a group's last estimate as an integer over a power of two, in µW; `holdLim` is the
hold's SUPPLY_HOLD_US, `liveNs` the time of the Temper period, `marginAt` when the margin last changed. -/
structure Power where
  winAt    : Nat := 0
  epochAt  : Nat := 0
  events   : Tbl Nat := []
  lastMw   : Tbl Nat := []
  lastSmp  : Tbl Nat := []
  mean     : Tbl (Nat × Nat) := []
  scale    : Tbl (BitVec 32) := []
  need     : Tbl (BitVec 32) := []
  duty     : Tbl Nat := []
  cap0     : Nat := 250
  capNow   : Nat := 250
  capPend  : Option Nat := none
  pCtl     : Nat := 0
  pMeas    : Nat := 0
  pEst     : Nat := 0
  est      : Tbl (Int × Nat) := []
  over15   : Nat := 0
  capSaid  : Bool := false
  divRun   : Nat := 0
  divOk    : Nat := 0
  div      : Bool := false
  tlost    : List Nat := []
  hotSaid  : Bool := false
  hold     : Bool := false
  holdAt   : Nat := 0
  holdRail : Nat := 0
  holdMin  : Nat := 0
  holdLim  : Nat := 0
  stallSaid : Bool := false
  liveNs   : Nat := 0
  marginAt : Nat := 0
  droops   : Nat := 0
  warns    : Nat := 0
deriving DecidableEq, Repr

/-! ### Observation -/

/-- An appender (R398 to R403): its staging, the state of its sub-ring, the header's drop record, the drop record of cause APPENDER that goes
ahead of its next record, and the header as last written. -/
structure Appender where
  staged  : List Rec := []
  head    : Nat := 64
  wraps   : Nat := 0
  written : Nat := 0
  since   : Nat := 0
  full    : Bool := false
  drop    : Rec := 0
  lost    : Rec := 0
  hdr     : Line := 0
  hdrAt   : Nat := 0
deriving DecidableEq, Repr

/-- A unit's trace staging and its drop records of causes STAGING and LINK (R397). -/
structure Staging where
  recs : List Rec := []
  drop : Rec := 0
  link : Rec := 0
deriving DecidableEq, Repr

/-- The trace, its triggers, the rings of last events and the wait-for graph. `buffer` holds record i of sub-ring k at 2^32 k + i, `places` the
packets, each with its appender, that wait at a link (R397); `fires` lists a fired element, its cycle and its record; `longSaid` names the
open waits recorded already (R392). -/
structure Trace where
  mode     : Nat := 0
  frozen   : Bool := false
  dropSaid : Bool := false
  staging  : Tbl Staging := []
  apps     : Tbl Appender := []
  buffer   : Tbl Rec := []
  places   : Tbl (List (Nat × List Rec)) := []
  fires    : List (Nat × Nat × Nat) := []
  last64   : Tbl (List Rec) := []
  longSaid : List Nat := []
  wfg      : List Byte := []
  wfgBusy  : Nat := 0
  wfgAt    : Nat := 0
deriving DecidableEq, Repr

/-- Counters with their snapshot (R385, R390). -/
structure Count where
  cnt      : Tbl Nat := []
  snap     : Tbl Nat := []
  frozen   : Bool := false
  ignored  : Byte := 0
  time     : BitVec 48 := 0
  pend     : Option Nat := none
deriving DecidableEq, Repr

/-- The Quench controller (R411 to R418). -/
structure Quench where
  st      : Nat := 0
  source  : Nat := 0
  trig    : Nat := 0
  at_     : Nat := 0
  count   : BitVec 16 := 0
  ignored : BitVec 32 := 0
  out     : Bool := false
  ts      : Dword := 0
  elem2   : Dword := 0
  elem3   : Dword := 0
  memGa   : Dword := 0
  refAt   : Tbl Nat := []
deriving DecidableEq, Repr

/-! ### Management -/

/-- A YPP request held by the Hearth: its header, its payload, the tag it answers to and its journal entry; `go` tells that
it may execute, `ran` that it has, with the status and payload of its answer. -/
structure YReq where
  no      : Nat
  path    : Path
  tag     : Nat
  ic      : Bool
  op      : Nat
  priv    : Nat
  active  : Bool
  param   : Nat
  index   : Nat
  offset  : Nat
  want    : Nat
  reqId   : BitVec 32
  payload : List Byte
  jseq    : Option Nat
  go      : Bool
  ran     : Bool := false
  status  : Byte := 0
  ans     : List Byte := []
deriving DecidableEq, Repr

/-- A YPP response or EVENT on its way out: header fields and payload. -/
structure YMsg where
  path    : Path
  tag     : Nat
  ic      : Bool
  event   : Bool
  op      : Nat
  priv    : Nat
  status  : Byte
  param   : Nat
  index   : Nat
  reqId   : BitVec 32
  payload : List Byte
deriving DecidableEq, Repr

/-- A mailbox slot (R431): its state, its request buffer and its response buffer. -/
structure Slot where
  st   : Nat := 0
  req  : List Byte := []
  rsp  : List YMsg := []
deriving DecidableEq, Repr

/-- A subscriber (R433, R434): its path, its word, its event sequence number, its queue and what it lost. -/
structure Sub where
  path  : Path
  word  : Dword
  seq   : BitVec 32
  queue : List YMsg
  lost  : Nat
deriving DecidableEq, Repr

/-- The object dictionary, the management endpoint, the lifecycle, start-up and interrupts. -/
structure Mgmt where
  vals     : Tbl Nat := []
  active   : Tbl Nat := []
  shadow   : Tbl Nat := []
  blob     : Tbl (List Byte) := []
  reqs     : List YReq := []
  reqNo    : Nat := 0
  out      : List YMsg := []
  slots    : Tbl Slot := []
  subs     : List Sub := []
  life     : Nat := 0
  seen     : Nat := 0
  auth     : Bool := false
  changes  : BitVec 16 := 0
  wipe     : Bool := false
  denied   : List (Nat × Nat) := []
  phase    : Nat := 0
  step     : Nat := 0
  code     : Byte := 0
  pwr      : Bool := false
  auto     : Bool := false
  imgSt    : Nat := 0
  imgSize  : Nat := 0
  image    : List Byte := []
  version  : Dword := 0
  irqPend  : Byte := 0
  idWrote  : Bool := false
  kept     : Bool := false
  por      : Bool := true
  fw       : Bool := false
  wrst     : Bool := false
  goWait   : Bool := false
  reloadWait : Bool := false
  railLow  : Bool := false
  phaseAt  : Nat := 0
deriving DecidableEq, Repr

/-! ### The whole block -/

/-- The block. `pending` is the queue of commands, first in, first out; `flight` every transaction not yet
stored; `submits` lists job submissions that wait for a slot (Hive, context, target, job); `free` counts the free values drawn (the
model's own). -/
structure State where
  pending : List Instr := []
  flight  : List Xact := []
  nextId  : Nat := 1
  free    : Nat := 0
  clk     : Clk := {}
  sched   : Sched := {}
  mem     : Mem := {}
  hives   : Hives := {}
  wins    : Wins := {}
  chans   : Tbl Chan := []
  chTurn  : Tbl Nat := []
  jobs    : Tbl Job := []
  scarabs : Tbl (List Nat) := []
  submits : List (Nat × Nat × Nat × BitVec 512) := []
  tiers   : Tiers := {}
  fxps    : Fxps := {}
  err     : Err := {}
  mirror  : Mirror := {}
  journal : Journal := {}
  power   : Power := {}
  trace   : Trace := {}
  count   : Count := {}
  quench  : Quench := {}
  mgmt    : Mgmt := {}
deriving DecidableEq, Repr

/-- Why the block stops with a fault. -/
inductive Fault where
  /-- Raised by no command: no rule of the spec stops the block. Safe. -/
  | halted
deriving DecidableEq, Repr

/-- Why a command is refused. -/
inductive Refusal where
  /-- Raised only by an arm of `exec` whose command has no meaning yet. Safe. -/
  | notModelled (mnemonic : String)
deriving DecidableEq, Repr

/-- The block right after power-on reset: por_n_i is low, every parameter and register at its reset value,
nothing stored and nothing waiting (R449). -/
def State.reset : State := {}

end Sys2Proof.Machine
end

