-- ==== Sys2Proof/Machine/Ecc.lean ====
section
/-!
DEFINITION. Ecc.lean: the granule code of R279 to R281 and the valid cells of R28.
-/
namespace Sys2Proof.Machine

/-- The 8-bit columns h(0) to h(63) of R279: the first 56 values of weight three, then the first eight of
weight five. -/
def eccCols : List Nat :=
  ((List.range 256).filter (fun v => popCount 8 v = 3)).take 56 ++
    ((List.range 256).filter (fun v => popCount 8 v = 5)).take 8

/-- The check byte of a granule (R279). -/
def checkByte (d : Dword) : Byte :=
  (eccCols.zipIdx).foldl (fun a e => if d.getLsbD e.2 then a ^^^ BitVec.ofNat 8 e.1 else a) 0

/-- How a granule decodes (R280): the data returned and the syndrome, and whether it is usable. -/
inductive GranRes where
  | clean
  | corr (d : Dword) (synd : Byte)
  | bad (synd : Byte)
deriving DecidableEq, Repr

/-- The syndrome decode of R280. -/
def decodeGran (d : Dword) (c : Byte) : GranRes :=
  let s := c ^^^ checkByte d
  if s = 0 then .clean
  else if popCount 8 s.toNat = 1 then .corr d s
  else match eccCols.findIdx? (fun h => h = s.toNat) with
    | some i => .corr (d ^^^ BitVec.ofNat 64 (2^i)) s
    | none => .bad s

/-- The check byte of granule `g` of a row. -/
def Row.chkOf (r : Row) (g : Nat) : Byte := BitVec.extractLsb' (8 * g) 8 r.chk

/-- The check bytes of a line (R279). -/
def lineChk (l : Line) : Dword :=
  (List.range 8).foldl (fun a g => a ||| BitVec.ofNat 64 ((checkByte (Line.gran l g)).toNat * 2^(8 * g))) 0

/-- The check bytes of a line with those of some granules computed afresh; the others stay as they were stored. -/
def chkGrans (c : Dword) (l : Line) (gs : List Nat) : Dword :=
  gs.foldl (fun a g => BitVec.ofNat 64 (setFld a.toNat (8 * g + 7) (8 * g) (checkByte (Line.gran l g)).toNat)) c

/-- The valid bit, read by majority of its three cells (R28). -/
def Row.valid (r : Row) : Bool := decide (2 ≤ popCount 3 r.cells.toNat)

/-- The three cells disagree (R28). -/
def Row.split (r : Row) : Bool := r.cells ≠ 0 && r.cells ≠ 7

/-- A valid row with fresh check bytes. -/
def freshRow (l : Line) : Row := { data := l, chk := lineChk l, cells := 7 }

/-- What a decode of some granules of a row finds: the data returned, the granules in error, whether any is
uncorrectable, and the syndrome of the lowest granule in error. -/
structure RowRead where
  data  : Line
  gmask : Nat
  bad   : Bool
  synd  : Byte
deriving DecidableEq, Repr

/-- Takes one granule into a row decode. -/
def rowStep (r : Row) (a : RowRead) (g : Nat) : RowRead :=
  match decodeGran (Line.gran r.data g) (r.chkOf g) with
  | .clean => a
  | .corr d s => { data := Line.setGran a.data g d, gmask := a.gmask + 2^g, bad := a.bad,
                   synd := if a.gmask = 0 then s else a.synd }
  | .bad s => { a with gmask := a.gmask + 2^g, bad := true, synd := if a.gmask = 0 then s else a.synd }

/-- Decodes the granules of a list (R280); an access judges only the granules it reads. -/
def readGrans (r : Row) (gs : List Nat) : RowRead :=
  gs.foldl (rowStep r) { data := r.data, gmask := 0, bad := false, synd := 0 }

/-- The granules a byte mask touches. -/
def touched (m : Dword) : List Nat :=
  (List.range 8).filter (fun g => fld m.toNat (8 * g + 7) (8 * g) ≠ 0)

/-- All eight granules. -/
def allGrans : List Nat := List.range 8

end Sys2Proof.Machine
end

