-- ==== Sys2Proof/Machine/Fmt.lean ====
section
/-!
DEFINITION. Fmt.lean: number formats and their arithmetic, computed exactly and rounded once: the formats of
R168, conversion (R169 to R173), ACC (R179 to R182), the atomics of R188 and the reductions of R201.
-/
namespace Sys2Proof.Machine

/-- A decoded value: (−1)^neg × m × 2^e, an infinity, or a NaN with its payload aligned to 23 bits. -/
inductive Val where
  | fin (neg : Bool) (m : Nat) (e : Int)
  | inf (neg : Bool)
  | nan (neg : Bool) (pay : Nat)
deriving DecidableEq, Repr, Inhabited

/-- A floating-point format: exponent and mantissa bits, bias, greatest finite code, and whether all-ones
exponents are infinities and NaNs. -/
structure FFmt where
  ebits : Nat
  mbits : Nat
  bias  : Nat
  maxc  : Nat
  ieee  : Bool
deriving DecidableEq, Repr

def fp32 : FFmt := ⟨8, 23, 127, 0x7F7FFFFF, true⟩
def bf16 : FFmt := ⟨8, 7, 127, 0x7F7F, true⟩
def fp16 : FFmt := ⟨5, 10, 15, 0x7BFF, true⟩
def e4m3 : FFmt := ⟨4, 3, 7, 0x7E, false⟩
def e5m2 : FFmt := ⟨5, 2, 15, 0x7B, true⟩
def e3m2 : FFmt := ⟨3, 2, 3, 0x1F, false⟩
def e2m3 : FFmt := ⟨2, 3, 1, 0x1F, false⟩
def e2m1 : FFmt := ⟨2, 1, 1, 0x7, false⟩

/-- Bits of a code, its sign included. -/
def FFmt.width (f : FFmt) : Nat := 1 + f.ebits + f.mbits

/-- Two to an integer power as a quotient of naturals. -/
def pow2 (e : Int) : Nat × Nat := if 0 ≤ e then (2^e.toNat, 1) else (1, 2^(-e).toNat)

/-- num ÷ den to the nearest integer, ties to even. -/
def rne (num den : Nat) : Nat :=
  let q := num / den
  let r := num % den
  if 2 * r < den then q
  else if den < 2 * r then q + 1
  else if q % 2 = 0 then q else q + 1

/-- ⌊log2 (num ÷ den)⌋ for a positive quotient. -/
def flog2 (num den : Nat) : Int :=
  let d : Int := (Nat.log2 num : Int) - Nat.log2 den
  let p := pow2 d
  if den * p.1 ≤ num * p.2 then d else d - 1

/-- The exact value of a code (R170, R171). E4M3 alone of the formats without infinities has NaN codes, with
every other bit set. -/
def FFmt.decode (f : FFmt) (c : Nat) : Val :=
  let neg := bit c (f.ebits + f.mbits)
  let ex := fld c (f.ebits + f.mbits - 1) f.mbits
  let man := c % 2^f.mbits
  if f.ieee ∧ ex = 2^f.ebits - 1 then
    if man = 0 then .inf neg else .nan neg (man * 2^(23 - f.mbits))
  else if f.maxc = 0x7E ∧ c % 128 = 0x7F then .nan neg (7 * 2^20)
  else if ex = 0 then .fin neg man (1 - (f.bias : Int) - f.mbits)
  else .fin neg (2^f.mbits + man) ((ex : Int) - f.bias - f.mbits)

/-- The code, without its sign, to which a positive quotient rounds: nearest, ties to even, no bound. -/
def FFmt.round (f : FFmt) (num den : Nat) : Nat :=
  if num = 0 then 0
  else
    let qe := max (flog2 num den) (1 - (f.bias : Int)) - f.mbits
    let p := pow2 qe
    let q := rne (num * p.2) (den * p.1)
    if q < 2^f.mbits then q
    else (qe + f.mbits + f.bias).toNat * 2^f.mbits + (q - 2^f.mbits)

/-- The code of a quiet NaN (R170). -/
def FFmt.nanCode (f : FFmt) (pay : Nat) : Nat :=
  if f.maxc = 0x7E then 0x7F
  else if f.maxc = 0x7B then 0x7F
  else (2^f.ebits - 1) * 2^f.mbits + ((pay / 2^(23 - f.mbits)) ||| 2^(f.mbits - 1))

/-- The code of an overflow or of an infinity (R170). -/
def FFmt.infCode (f : FFmt) (sat : Bool) : Nat :=
  if sat then f.maxc
  else if f.ieee then (2^f.ebits - 1) * 2^f.mbits
  else if f.maxc = 0x7E then 0x7F
  else f.maxc

/-- A code with its sign. -/
def FFmt.signed (f : FFmt) (neg : Bool) (c : Nat) : Nat := if neg then c + 2^(f.ebits + f.mbits) else c

/-- A rounded quotient with its sign, bounded as R170 says. -/
def FFmt.encQ (f : FFmt) (sat neg : Bool) (num den : Nat) : Nat :=
  let c := f.round num den
  f.signed neg (if f.maxc < c then f.infCode sat else c)

/-- The code of a value (R170). -/
def FFmt.encode (f : FFmt) (sat : Bool) : Val → Nat
  | .fin neg m e => f.encQ sat neg (m * (pow2 e).1) (pow2 e).2
  | .inf neg => f.signed neg (f.infCode sat)
  | .nan neg pay => f.signed neg (f.nanCode pay)

/-! ### Exact arithmetic -/

/-- A finite value as an integer times two to the power `e0`, for `e0` at most its own exponent. -/
def Val.scaled (v : Val) (e0 : Int) : Int :=
  match v with
  | .fin neg m e => let x : Int := m * 2^(e - e0).toNat
    if neg then -x else x
  | _ => 0

/-- The exponent of a finite value. -/
def Val.expo : Val → Int
  | .fin _ _ e => e
  | _ => 0

/-- The sign of a value. -/
def Val.neg : Val → Bool
  | .fin n _ _ => n
  | .inf n => n
  | .nan n _ => n

/-- The NaN that infinities of opposite sign and an infinity times zero give, 0x7FC0_0000 (R182, R201). -/
def Val.defNan : Val := .nan false 0x400000

/-- An integer times 2^e as a value. -/
def Val.ofInt (x e : Int) : Val := .fin (decide (x < 0)) x.natAbs e

/-- The exact sum; the first operand's NaN comes first (R182). -/
def Val.add : Val → Val → Val
  | .nan n p, _ => .nan n p
  | _, .nan n p => .nan n p
  | .inf n, .inf k => if n = k then .inf n else Val.defNan
  | .inf n, _ => .inf n
  | _, .inf n => .inf n
  | a, b =>
    let e := min a.expo b.expo
    let x := a.scaled e + b.scaled e
    if x = 0 then .fin (a.neg && b.neg) 0 0 else Val.ofInt x e

/-- The exact product; the first operand's NaN comes first (R201). -/
def Val.mul : Val → Val → Val
  | .nan n p, _ => .nan n p
  | _, .nan n p => .nan n p
  | .inf n, .fin k m _ => if m = 0 then Val.defNan else .inf (xor n k)
  | .fin k m _, .inf n => if m = 0 then Val.defNan else .inf (xor n k)
  | .inf n, .inf k => .inf (xor n k)
  | .fin n m e, .fin k l d => .fin (xor n k) (m * l) (e + d)

/-- The sum of two binary32 words, rounded to nearest even (R181, R182). -/
def add32 (a b : Nat) : Nat := fp32.encode false ((fp32.decode a).add (fp32.decode b))

/-- The product of two binary32 words (R201). -/
def mul32 (a b : Nat) : Nat := fp32.encode false ((fp32.decode a).mul (fp32.decode b))

/-- A binary32 word divided by a positive count (R201). -/
def div32 (a n : Nat) : Nat :=
  match fp32.decode a with
  | .fin neg m e => fp32.encQ false neg (m * (pow2 e).1) (n * (pow2 e).2)
  | v => fp32.encode false v

/-- A value lies strictly below another, both finite or infinite. -/
def Val.lt : Val → Val → Bool
  | .nan _ _, _ => false
  | _, .nan _ _ => false
  | .inf n, .inf k => n && !k
  | .inf n, _ => n
  | _, .inf n => !n
  | a, b => let e := min a.expo b.expo; decide (a.scaled e < b.scaled e)

/-- One step of MAX (R201): a NaN stays, the first one met; max(+0, −0) is +0. -/
def max32 (a b : Nat) : Nat :=
  match fp32.decode a, fp32.decode b with
  | .nan n p, _ => fp32.encode false (.nan n p)
  | _, .nan n p => fp32.encode false (.nan n p)
  | x, y => if x.lt y then b else if y.lt x then a else if x.neg then b else a

/-! ### ACC and atomics -/

/-- A format pair code of R179. -/
def isPair (c : Nat) : Bool := 1 ≤ c && c ≤ 5

/-- Bytes of a stored element of a pair. -/
def pairStored (c : Nat) : Nat := if c = 2 ∨ c = 3 then 2 else 4

/-- Bytes of an incoming element of a pair. -/
def pairWire (c : Nat) : Nat := if c = 2 then 2 else 4

/-- The result of one element of a pair (R181). -/
def pairAdd (c stored inc : Nat) : Nat :=
  let w16 := fun x => fp32.encode false (bf16.decode x)
  let n16 := fun x => bf16.encode false (fp32.decode x)
  match c with
  | 1 => add32 stored inc
  | 2 => n16 (add32 (w16 stored) (w16 inc))
  | 3 => n16 (add32 (w16 stored) inc)
  | 4 => (stored + inc) % 2^32
  | _ =>
    let x := sext 32 stored + sext 32 inc
    if 2147483647 < x then 0x7FFFFFFF else if x < -2147483648 then 0x80000000 else toTwos 32 x

/-- Element `i` of `n` bytes in a line. -/
def Line.elem (l : Line) (n i : Nat) : Nat := fld l.toNat (8 * n * (i + 1) - 1) (8 * n * i)

/-- The row after an ACC line (R180, R181): each stored element whose bytes the mask covers wholly takes its sum. For
pair 0x3 the wire line covers 32 stored bytes, from byte `off` of the row. -/
def accLine (c : Nat) (stored wire : Line) (mask : Dword) (off : Nat) : Line :=
  let sb := pairStored c
  let n := 64 / pairWire c
  let first := if c = 3 then off / 2 else 0
  (List.range n).foldl (fun l j =>
    let k := first + j
    if fld mask.toNat (sb * k + sb - 1) (sb * k) = 2^sb - 1 then
      mergeLine l (BitVec.ofNat 512 (pairAdd c (Line.elem stored sb k) (Line.elem wire (pairWire c) j) * 2^(8 * sb * k)))
        (byteMask (sb * k) sb)
    else l) stored

/-- Bytes of the word an atomic works on (R188). -/
def atomSize (op : Nat) : Nat := if op = 2 ∨ op = 5 then 8 else 4

/-- An atomic's new value (R188). -/
def atomNew (op old arg : Nat) : Nat :=
  match op with
  | 1 => (old + arg) % 2^32
  | 2 => (old + arg) % 2^64
  | 3 => add32 old arg
  | 4 => arg % 2^32
  | _ => arg % 2^64

/-! ### Rows of elements -/

/-- Bits of an element of a format (R168). -/
def fmtBits (f : Nat) : Nat :=
  match f with
  | 1 => 32
  | 2 => 64
  | 3 => 32
  | 4 => 16
  | 5 => 16
  | 0xA => 6
  | 0xB => 6
  | 0xC => 4
  | 0xF => 4
  | _ => 8

/-- An MX format (R168). -/
def isMx (f : Nat) : Bool := 8 ≤ f && f ≤ 0xD

/-- A format with a per-row scale and bias (R168). -/
def isScaled (f : Nat) : Bool := f = 0xE || f = 0xF

/-- Bytes of a row of `n` elements (R168). -/
def rowBytes (f n : Nat) : Nat :=
  let d := ceilDiv (n * fmtBits f) 8
  if isMx f then d + n / 32 else if isScaled f then d + 4 else d

/-- The pair of formats is allowed (R169). -/
def fmtPairOk (a b : Nat) : Bool :=
  a = b || (3 ≤ a && 3 ≤ b && !(8 ≤ a && 8 ≤ b))

/-- The floating-point element format of a code. -/
def elemFmt (f : Nat) : FFmt :=
  match f with
  | 3 => fp32
  | 4 => bf16
  | 5 => fp16
  | 6 => e4m3
  | 7 => e5m2
  | 8 => e4m3
  | 9 => e5m2
  | 0xA => e3m2
  | 0xB => e2m3
  | _ => e2m1

/-- Element `i` of a row, as its bits. -/
def rowElem (f row i : Nat) : Nat := fld row (fmtBits f * (i + 1) - 1) (fmtBits f * i)

/-- The scale byte of element `i` of an MX row of `n` elements (R168). -/
def mxScale (f row n i : Nat) : Nat :=
  let d := ceilDiv (n * fmtBits f) 8
  fld row (8 * (d + i / 32) + 7) (8 * (d + i / 32))

/-- The FP16 scale and bias of an INT8S or INT4S row (R168). -/
def rowScale (f row n : Nat) : Val × Val :=
  let d := ceilDiv (n * fmtBits f) 8
  (fp16.decode (fld row (8 * d + 15) (8 * d)), fp16.decode (fld row (8 * d + 31) (8 * d + 16)))

/-- Element `i` of a row of `n`, decoded (R170 to R172). -/
def decodeElem (f row n i : Nat) : Val :=
  let c := rowElem f row i
  if f = 0xD then
    if mxScale f row n i = 255 then .nan false 0x400000
    else Val.ofInt (sext 8 c) ((mxScale f row n i : Int) - 127 - 6)
  else if isMx f then
    if mxScale f row n i = 255 then .nan false 0x400000
    else match (elemFmt f).decode c with
      | .fin s m e => .fin s m (e + (mxScale f row n i : Int) - 127)
      | v => v
  else if isScaled f then
    let sb := rowScale f row n
    fp32.decode (fp32.encode false (((sb.1).mul (Val.ofInt (sext (fmtBits f) c) 0)).add sb.2))
  else (elemFmt f).decode c

/-- The larger magnitude of a block so far, as a quotient. -/
def maxMag (a : Nat × Nat) (v : Val) : Nat × Nat :=
  match v with
  | .fin _ m e => let p := pow2 e
    if a.1 * p.2 < m * p.1 * a.2 then (m * p.1, p.2) else a
  | _ => a

/-- The greatest exponent of an MX element format (R171). -/
def mxEmax (f : Nat) : Int :=
  match f with
  | 8 => 8
  | 9 => 15
  | 0xA => 4
  | 0xB => 2
  | 0xC => 2
  | _ => 0

/-- A finite value. -/
def Val.isFin : Val → Bool
  | .fin _ _ _ => true
  | _ => false

/-- One block of an MX destination: its scale byte and its elements (R171). -/
def mxBlock (f : Nat) (vs : List Val) : Nat × List Nat :=
  if vs.any (fun v => !v.isFin) then (255, vs.map (fun _ => 0))
  else
    let a := vs.foldl maxMag (0, 1)
    if a.1 = 0 then (0, vs.map (fun _ => 0))
    else
      let e := max (-127) (min 127 (flog2 a.1 a.2 - mxEmax f))
      ((e + 127).toNat, vs.map (fun v =>
        match v with
        | .fin neg m x =>
          if f = 0xD then
            let p := pow2 (x - e + 6)
            let q := min 127 (rne (m * p.1) p.2)
            toTwos 8 (if neg then -(q : Int) else q)
          else (elemFmt f).encode true (.fin neg m (x - e))
        | _ => 0))

/-- An integer value of a quotient with a sign, rounded to nearest even. -/
def rneInt (neg : Bool) (num den : Nat) : Int := if neg then -(rne num den : Int) else rne num den

/-- Bits per element joined into a row. -/
def joinElems (bits : Nat) : List Nat → Nat
  | [] => 0
  | c :: t => c + 2^bits * joinElems bits t

/-- The least and greatest finite values of a row over a common exponent, none when it holds none. -/
def finRange (e0 : Int) (vs : List Val) : Option (Int × Int) :=
  vs.foldl (fun a v =>
    match v with
    | .fin _ _ _ =>
      let x := v.scaled e0
      match a with
      | none => some (x, x)
      | some (lo, hi) => some (min lo x, max hi x)
    | _ => a) none

/-- The FP16 code, rounded toward +∞, of a non-negative quotient, held at 65,504 (R172). -/
def fp16Up (num den : Nat) : Nat :=
  let c := fp16.round num den
  let p := match fp16.decode c with
    | .fin _ m e => (m * (pow2 e).1, (pow2 e).2)
    | _ => (1, 1)
  let c := if c ≤ fp16.maxc ∧ p.1 * den < num * p.2 then c + 1 else c
  if fp16.maxc < c then fp16.maxc else c

/-- One element of an INT8S or INT4S row (R172): (v − b) ÷ s exactly, rounded and clamped to ±Q. -/
def scaledElem (big : Int) (s b : Val) (v : Val) : Int :=
  match v with
  | .nan _ _ => 0
  | .inf neg => if neg then -big else big
  | .fin _ _ _ =>
    match v.add (Val.mul (.fin true 1 0) b), s with
    | .fin neg m e, .fin _ sm se =>
      if sm = 0 then 0
      else
        let p := pow2 (e - se)
        max (-big) (min big (rneInt neg (m * p.1) (sm * p.2)))
    | _, _ => 0

/-- An INT8S or INT4S row (R172). -/
def scaledRow (f : Nat) (vs : List Val) : Nat :=
  let big : Int := if f = 0xE then 127 else 7
  let e0 := vs.foldl (fun (a : Int) v => if v.isFin then min a v.expo else a) 0
  let sb := match finRange e0 vs with
    | none => (0, 0)
    | some (lo, hi) =>
      let p := pow2 (e0 - 1)
      let mid := lo + hi
      let bc := fp16.encQ true (decide (mid < 0)) (mid.natAbs * p.1) p.2
      let pe := pow2 e0
      let sc := fp16Up ((hi - lo).toNat * pe.1) (2 * big.toNat * pe.2)
      (sc, bc)
  let s := fp16.decode sb.1
  let b := fp16.decode sb.2
  let d := ceilDiv (vs.length * fmtBits f) 8
  joinElems (fmtBits f) (vs.map (fun v => toTwos (fmtBits f) (scaledElem big s b v)))
    + sb.1 * 2^(8 * d) + sb.2 * 2^(8 * d + 16)

/-- Cuts a list into blocks of `n`, at most `fuel` of them. -/
def blocksOf {α : Type} (n : Nat) : Nat → List α → List (List α)
  | 0, _ => []
  | fuel + 1, l => if l.isEmpty then [] else l.take n :: blocksOf n fuel (l.drop n)

/-- A row encoded from values (R170 to R172). -/
def encodeRow (f : Nat) (sat : Bool) (vs : List Val) : Nat :=
  if isMx f then
    let bl := (blocksOf 32 vs.length vs).map (mxBlock f)
    let d := ceilDiv (vs.length * fmtBits f) 8
    joinElems (fmtBits f) (bl.map (fun b => b.2)).flatten + joinElems 8 (bl.map (fun b => b.1)) * 2^(8 * d)
  else if isScaled f then scaledRow f vs
  else joinElems (fmtBits f) (vs.map ((elemFmt f).encode sat))

/-- The pad value of a floating-point or scaled destination: BF16, converted under R170 (R158). -/
def padVal (pad : Nat) : Val := bf16.decode pad

/-- The pad element of a raw destination (R158). -/
def padRaw (f pad : Nat) : Nat := if f = 0 then pad % 256 else toTwos (fmtBits f) (sext 16 pad)

/-- A destination row of `n` elements from a source row of which the first `e` elements are in bounds, the
rest padded (R157, R158, R169 to R172). `e = n` pads nothing. -/
def convertRow (sf df n e : Nat) (sat : Bool) (pad row : Nat) : Nat :=
  let elems := (List.range n).map (fun i => if i < e then decodeElem sf row n i else
    (if isMx df || isScaled df then padVal pad else (elemFmt df).decode ((elemFmt df).encode sat (padVal pad))))
  if sf = df then
    if e = n then row % 2^(8 * rowBytes df n)
    else if df < 3 then
      joinElems (fmtBits df) ((List.range n).map (fun i => if i < e then rowElem sf row i else padRaw df pad))
    else if isMx df then
      let d := ceilDiv (n * fmtBits df) 8
      let bl := (List.range (n / 32)).map (fun b =>
        if 32 * b + 32 ≤ e then
          (mxScale df row n (32 * b), (List.range 32).map (fun i => rowElem df row (32 * b + i)))
        else mxBlock df ((elems.drop (32 * b)).take 32))
      joinElems (fmtBits df) (bl.map (fun b => b.2)).flatten + joinElems 8 (bl.map (fun b => b.1)) * 2^(8 * d)
    else if isScaled df then scaledRow df elems
    else joinElems (fmtBits df) ((List.range n).map (fun i =>
      if i < e then rowElem sf row i else (elemFmt df).encode sat (padVal pad)))
  else encodeRow df sat elems

/-- Element `i` of a row as a binary32 word (R201). -/
def elem32 (f row n i : Nat) : Nat := fp32.encode false (decodeElem f row n i)

end Sys2Proof.Machine
end

