-- ==== Sys2Proof/Config.lean ====
section
/-!
DEFINITION. Config.lean: what an implementation or the surroundings fix and the spec does not state, each
an opaque constant that nothing in Lean can evaluate.
-/
namespace Sys2Proof.Config

/-- YPP_ENTERPRISE (P0004): Helgon's IANA enterprise number, which R435 calls fixed and does not give.
Log entry 5. -/
opaque yppEnterprise : BitVec 32

/-- The lines a cartridge holds before this block wrote them (R271): the number of the free value that names the cartridge's
contents, then the raw line number in the tier. Log entry 6. -/
opaque cartLine : Nat → Nat → BitVec 512

/-- A value the spec leaves open, drawn as number n of the run; every use names its log entry. -/
opaque freeNat : Nat → Nat

/-- The binary32 words the power controller forms by arithmetic whose rounding the spec does not state (R365,
R367, R369): the operation's code, then its operand words. Log entry 7. -/
opaque powerF32 : Nat → List Nat → BitVec 32

/-- The same controller's results in whole milliwatts (R365, R368). Log entry 7. -/
opaque powerMw : Nat → List Nat → Nat

/-- The codes by which a START_FAIL record names its cause and a T1_STACK_FAIL record its failed step (R452): the record's code, then which.
Log entry 46. -/
opaque causeCode : Nat → Nat → BitVec 32

end Sys2Proof.Config
end

