-- ==== Sys2Proof/Machine/Dict.lean ====
section
/-!
DEFINITION. Dict.lean: the object dictionary (R420 to R422): every parameter's number, type, access,
privilege, element count and size, default and accepted range, from the parameter tables of R55, R84,
R115, R143, R164, R205, R239, R278, R317, R352, R383, R419, R435, R442 and R457.
-/
namespace Sys2Proof.Machine

/-- Access classes (R422), in the code order of R432. -/
inductive Acc where
  | ro | rw | wo | rws
deriving DecidableEq, Repr

/-- One parameter as DESCRIBE reports it (R432). `size` 0 is a BLOB of variable size; `priv` 0 USER,
1 OPERATOR, 2 SERVICE. -/
structure PDesc where
  num   : Nat
  ty    : Nat
  acc   : Acc
  priv  : Nat
  eff   : Nat
  count : Nat
  size  : Nat
  dflt  : Nat
  lo    : Nat
  hi    : Nat
deriving DecidableEq, Repr

/-- Identity and configuration parameters (R435, R143, R457). -/
def dictA : List PDesc := [
  ⟨0x0000, 3, .ro, 0, 4, 1, 4, 0x53572768, 0, 0xFFFFFFFF⟩,
  ⟨0x0001, 3, .ro, 0, 4, 1, 4, 0x00010000, 0, 0xFFFFFFFF⟩,
  ⟨0x0002, 4, .ro, 0, 4, 1, 8, 0, 0, 2^64-1⟩,
  ⟨0x0003, 1, .ro, 0, 4, 1, 1, 1, 0, 255⟩,
  ⟨0x0004, 3, .ro, 0, 4, 1, 4, 0, 0, 0xFFFFFFFF⟩,
  ⟨0x0005, 2, .ro, 0, 4, 1, 2, 1024, 0, 65535⟩,
  ⟨0x0010, 2, .ro, 0, 4, 1, 2, 256, 0, 65535⟩,
  ⟨0x0011, 1, .ro, 0, 4, 2, 1, 16, 0, 255⟩,
  ⟨0x0012, 2, .ro, 0, 4, 4, 2, 64, 0, 65535⟩,
  ⟨0x0013, 2, .ro, 0, 4, 2, 2, 192, 0, 65535⟩,
  ⟨0x0020, 2, .ro, 0, 4, 3, 2, 8, 0, 65535⟩,
  ⟨0x0021, 2, .ro, 0, 4, 2, 2, 4, 0, 65535⟩,
  ⟨0x0022, 1, .ro, 0, 4, 1, 1, 4, 0, 255⟩,
  ⟨0x0023, 2, .ro, 0, 4, 1, 2, 268, 0, 65535⟩,
  ⟨0x0024, 2, .ro, 0, 4, 1, 2, 1024, 0, 65535⟩,
  ⟨0x0030, 4, .ro, 0, 4, 1, 8, 0x7F, 0, 2^64-1⟩,
  ⟨0x1000, 8, .rw, 1, 2, 1, 1, 0, 0, 1⟩,
  ⟨0x1001, 2, .rw, 1, 2, 1, 2, 0, 0, 512⟩,
  ⟨0x1010, 2, .rw, 1, 4, 1, 2, 0, 0, 1023⟩,
  ⟨0x1011, 3, .rw, 1, 0, 1, 4, 2000, 0, 0xFFFFFFFF⟩,
  ⟨0x1012, 3, .rw, 1, 4, 1, 4, 1000, 0, 0xFFFFFFFF⟩,
  ⟨0x1013, 1, .rw, 1, 2, 1024, 1, 0, 0, 3⟩,
  ⟨0x1014, 2, .rw, 1, 4, 1, 2, 64, 0, 65535⟩,
  ⟨0x1015, 1, .rw, 1, 4, 1, 1, 4, 1, 16⟩,
  ⟨0x1020, 4, .rw, 1, 4, 1, 8, 0, 0, 2^64-1⟩,
  ⟨0x1021, 3, .rws, 1, 1, 1, 4, 4608, 0, 0xFFFFFFFF⟩,
  ⟨0x1022, 1, .rw, 1, 0, 1, 1, 0, 0, 255⟩,
  ⟨0x1023, 1, .rw, 1, 0, 1, 1, 0xFF, 0, 255⟩,
  ⟨0x1024, 2, .rw, 1, 4, 1, 2, 10, 1, 1000⟩,
  ⟨0x1025, 2, .rw, 1, 4, 1, 2, 100, 10, 10000⟩,
  ⟨0x1100, 4, .rw, 1, 2, 64, 8, 0x320000000, 0, 2^64-1⟩,
  ⟨0x1105, 2, .ro, 1, 4, 10, 2, 0, 0, 65535⟩,
  ⟨0x1106, 1, .ro, 1, 4, 256, 1, 0, 0, 255⟩,
  ⟨0x1140, 9, .ro, 1, 4, 4, 32, 0, 0, 0⟩,
  ⟨0x1141, 4, .ro, 1, 3, 4, 8, 0, 0, 2^64-1⟩,
  ⟨0x1142, 4, .rw, 1, 4, 4, 8, 0, 0, 2^64-1⟩,
  ⟨0x1143, 2, .rw, 1, 0, 4, 2, 0, 0, 65535⟩,
  ⟨0x1144, 1, .ro, 1, 4, 4, 1, 0, 0, 255⟩,
  ⟨0x1150, 3, .rw, 1, 4, 1, 4, 100, 10, 100000⟩,
  ⟨0x1151, 1, .rw, 1, 0, 1, 1, 64, 1, 255⟩,
  ⟨0x1152, 1, .rw, 1, 0, 1, 1, 16, 0, 255⟩,
  ⟨0x1153, 4, .rw, 1, 4, 2, 8, 0, 0, 2^64-1⟩]

/-- Arbitration, schedules and regulation (R84, R115). -/
def dictB : List PDesc := [
  ⟨0x2000, 8, .rws, 1, 1, 1, 1, 0, 0, 1⟩,
  ⟨0x2001, 2, .rws, 1, 1, 1, 2, 8784, 1, 65535⟩,
  ⟨0x2002, 4, .ro, 1, 3, 1, 8, 0, 0, 2^64-1⟩,
  ⟨0x2003, 3, .rw, 1, 4, 1, 4, 10000, 1, 10000000⟩,
  ⟨0x2010, 1, .rws, 1, 1, 1, 1, 6, 0, 7⟩,
  ⟨0x2011, 2, .rws, 1, 1, 1, 2, 120, 0, 320⟩,
  ⟨0x2012, 2, .rws, 1, 1, 1, 2, 260, 1, 65535⟩,
  ⟨0x2100, 2, .rws, 1, 1, 8, 2, 64, 16, 16384⟩,
  ⟨0x2200, 3, .rws, 1, 1, 20672, 4, 0, 0, 0xFFFFFFFF⟩,
  ⟨0x2201, 3, .ro, 1, 4, 20672, 4, 0, 0, 0xFFFFFFFF⟩,
  ⟨0x2300, 1, .rws, 1, 1, 8, 1, 0, 0, 255⟩,
  ⟨0x2310, 2, .rws, 1, 1, 8, 2, 0, 0, 65535⟩,
  ⟨0x2400, 2, .ro, 1, 4, 1, 2, 0, 0, 65535⟩,
  ⟨0x2401, 3, .ro, 1, 4, 8, 4, 0, 0, 0xFFFFFFFF⟩,
  ⟨0x2500, 2, .rws, 1, 1, 262144, 2, 0, 0, 65535⟩,
  ⟨0x2600, 4, .ro, 1, 3, 516, 8, 0, 0, 2^64-1⟩,
  ⟨0x2FFF, 3, .rw, 1, 4, 1, 4, 0, 0, 0xFFFFFFFF⟩]

/-- Errors, repair and capacity (R317). -/
def dictC : List PDesc := [
  ⟨0x3000, 2, .rw, 1, 4, 286720, 2, 0, 0, 65535⟩,
  ⟨0x3100, 9, .rw, 1, 2, 1, 0, 0, 0, 0⟩,
  ⟨0x3102, 4, .rw, 1, 0, 1, 8, 0, 0, 2^64-1⟩,
  ⟨0x3103, 3, .rw, 1, 4, 1, 4, 1000, 0, 60000⟩,
  ⟨0x3104, 2, .rw, 1, 0, 1, 2, 3, 1, 65535⟩,
  ⟨0x3200, 3, .rw, 1, 1, 1, 4, 1000, 0, 100000⟩,
  ⟨0x3201, 3, .rw, 1, 1, 1, 4, 86400, 0, 2592000⟩,
  ⟨0x3202, 3, .rw, 1, 1, 1, 4, 604800, 0, 2592000⟩,
  ⟨0x3300, 9, .ro, 1, 3, 4288, 32, 0, 0, 0⟩,
  ⟨0x3400, 9, .ro, 1, 3, 256, 32, 0, 0, 0⟩,
  ⟨0x3401, 4, .rw, 1, 0, 1, 8, 0, 0, 2^64-1⟩,
  ⟨0x3500, 4, .ro, 1, 3, 2144, 8, 0, 0, 2^64-1⟩]

/-- Power, clocks and margins (R383). -/
def dictD : List PDesc := [
  ⟨0x4000, 2, .rw, 1, 4, 1, 2, 250, 40, 320⟩,
  ⟨0x4001, 4, .ro, 1, 4, 1, 8, 0, 0, 2^64-1⟩,
  ⟨0x4002, 7, .wo, 1, 0, 1, 1, 0, 0, 1⟩,
  ⟨0x4003, 1, .rw, 1, 4, 1, 1, 15, 1, 100⟩,
  ⟨0x4004, 2, .rw, 1, 4, 1, 2, 25, 0, 100⟩,
  ⟨0x4005, 1, .rw, 1, 4, 1, 1, 8, 1, 255⟩,
  ⟨0x4010, 6, .rw, 1, 4, 16, 4, 0x40866666, 0, 0xFFFFFFFF⟩,
  ⟨0x4011, 6, .rw, 1, 4, 8, 4, 0x41000000, 0, 0xFFFFFFFF⟩,
  ⟨0x4012, 6, .ro, 1, 4, 3, 4, 0x3F800000, 0, 0xFFFFFFFF⟩,
  ⟨0x4020, 1, .ro, 1, 4, 3, 1, 16, 4, 16⟩,
  ⟨0x4030, 2, .rw, 1, 4, 1, 2, 64, 1, 3584⟩,
  ⟨0x4040, 1, .rw, 2, 0, 1, 1, 8, 2, 30⟩,
  ⟨0x4041, 1, .rw, 2, 0, 1, 1, 8, 1, 15⟩,
  ⟨0x4050, 2, .rw, 1, 2, 4, 2, 0, 0, 65535⟩,
  ⟨0x4051, 2, .rw, 1, 4, 1, 2, 50, 10, 1000⟩,
  ⟨0x4060, 9, .ro, 1, 4, 1, 3072, 0, 0, 0⟩,
  ⟨0x4070, 1, .rw, 1, 2, 1, 1, 45, 15, 45⟩,
  ⟨0x4071, 2, .rw, 2, 4, 1, 2, 24, 1, 8760⟩,
  ⟨0x4072, 2, .rw, 2, 4, 1, 2, 25, 5, 200⟩,
  ⟨0x4073, 2, .rw, 2, 4, 1, 2, 16, 0, 65535⟩,
  ⟨0x4080, 1, .rw, 1, 4, 1, 1, 105, 70, 125⟩]

/-- Pairs, journal and record (R352). -/
def dictE : List PDesc := [
  ⟨0x5000, 2, .rw, 1, 4, 1, 2, 0xFFFF, 0, 0xFFFF⟩,
  ⟨0x5001, 4, .rw, 1, 0, 1, 8, 0, 0, 2^64-1⟩,
  ⟨0x5002, 2, .rw, 1, 4, 1, 2, 80, 1, 1000⟩,
  ⟨0x5003, 3, .rw, 1, 4, 1, 4, 16777216, 1048576, 67108864⟩,
  ⟨0x5100, 9, .rw, 1, 0, 64, 16, 0, 0, 0⟩,
  ⟨0x5200, 9, .rw, 1, 0, 64, 16, 0, 0, 0⟩,
  ⟨0x5300, 4, .rw, 1, 3, 2, 8, 0, 0, 2^64-1⟩,
  ⟨0x5301, 8, .rw, 1, 0, 1, 1, 0, 0, 1⟩,
  ⟨0x5302, 9, .ro, 1, 3, 65536, 64, 0, 0, 0⟩,
  ⟨0x5303, 9, .ro, 1, 3, 65536, 64, 0, 0, 0⟩,
  ⟨0x5500, 3, .rw, 2, 2, 1, 4, 0, 0, 0xFFFFFFFF⟩,
  ⟨0x5501, 4, .ro, 2, 3, 2, 8, 0, 0, 2^64-1⟩,
  ⟨0x5502, 4, .rw, 2, 2, 1, 8, 0, 0, 4294967296⟩]

/-- Observation and counters (R385, R419). -/
def dictF : List PDesc := [
  ⟨0x6000, 8, .rw, 1, 0, 1, 1, 0, 0, 2⟩,
  ⟨0x6001, 4, .rw, 1, 0, 1, 8, 0, 0, 2^64-1⟩,
  ⟨0x6002, 4, .rw, 1, 4, 1, 8, 0, 0, 1073741824⟩,
  ⟨0x6003, 4, .ro, 1, 4, 1, 8, 0, 0, 2^64-1⟩,
  ⟨0x6004, 4, .ro, 1, 3, 1, 8, 0, 0, 2^64-1⟩,
  ⟨0x6005, 9, .ro, 1, 4, 1, 0, 0, 0, 0⟩,
  ⟨0x6006, 4, .rw, 1, 0, 1, 8, 0x7FFE, 0, 2^64-1⟩,
  ⟨0x6007, 3, .rw, 1, 0, 1, 4, 65536, 1024, 0xFFFFFFFF⟩,
  ⟨0x6010, 4, .rw, 1, 0, 4, 8, 0x0000FFFFFFFF0000, 0, 2^64-1⟩,
  ⟨0x6040, 9, .ro, 1, 4, 274, 2048, 0, 0, 0⟩,
  ⟨0x6050, 9, .ro, 1, 4, 1, 0, 0, 0, 0⟩,
  ⟨0x6051, 4, .rw, 1, 0, 1, 8, 0, 0, 2^64-1⟩,
  ⟨0x6060, 4, .ro, 1, 3, 1, 8, 0, 0, 2^64-1⟩,
  ⟨0x6061, 8, .rw, 1, 0, 1, 1, 0, 0, 1⟩,
  ⟨0x6062, 2, .rw, 1, 4, 1, 2, 100, 10, 10000⟩,
  ⟨0x6063, 4, .rw, 1, 4, 1, 8, 0, 0, 2^64-1⟩,
  ⟨0x6100, 4, .ro, 1, 3, 82688, 8, 0, 0, 2^64-1⟩,
  ⟨0x6200, 4, .ro, 1, 3, 1072, 8, 0, 0, 2^64-1⟩,
  ⟨0x6300, 4, .ro, 1, 3, 64, 8, 0, 0, 2^64-1⟩,
  ⟨0x6310, 4, .ro, 1, 3, 32, 8, 0, 0, 2^64-1⟩,
  ⟨0x6400, 4, .ro, 1, 3, 8, 8, 0, 0, 2^64-1⟩,
  ⟨0x6500, 4, .ro, 1, 3, 8, 8, 0, 0, 2^64-1⟩,
  ⟨0x6600, 4, .rw, 1, 3, 8768, 8, 0, 0, 0⟩,
  ⟨0x6700, 4, .ro, 1, 3, 2192, 8, 0, 0, 2^64-1⟩,
  ⟨0x6800, 4, .ro, 1, 3, 32768, 8, 0, 0, 2^64-1⟩]

/-- Security and debug, the per-Hive arrays and service (R55, R84, R115, R143, R239, R317, R358, R442). -/
def dictG : List PDesc := [
  ⟨0x7000, 3, .ro, 0, 3, 1, 4, 0, 0, 0xFFFFFFFF⟩,
  ⟨0x7020, 9, .ro, 1, 3, 16, 16, 0, 0, 0⟩,
  ⟨0x7100, 4, .rw, 2, 0, 1, 8, 0, 0, 2^64-1⟩,
  ⟨0x7101, 9, .rw, 2, 4, 1, 80, 0, 0, 0⟩,
  ⟨0x7200, 1, .wo, 2, 0, 1, 1, 0, 1, 1⟩,
  ⟨0x7201, 4, .ro, 2, 4, 4, 8, 0, 0, 2^64-1⟩,
  ⟨0x7202, 9, .ro, 2, 4, 274, 0, 0, 0, 0⟩,
  ⟨0x7203, 4, .rw, 2, 4, 1, 8, 0, 0, 2^64-1⟩,
  ⟨0x7204, 9, .ro, 2, 4, 1, 0, 0, 0, 0⟩,
  ⟨0x8040, 1, .rw, 1, 4, 16384, 1, 0, 0, 255⟩,
  ⟨0x8100, 3, .rws, 1, 1, 8192, 4, 0x04203156, 0, 0xFFFFFFFF⟩,
  ⟨0x8200, 4, .ro, 1, 3, 8192, 8, 0, 0, 2^64-1⟩,
  ⟨0x8300, 1, .rw, 1, 4, 2048, 1, 0xFF, 0, 255⟩,
  ⟨0x8400, 4, .rws, 1, 1, 65536, 8, 0x003FFFFFFFFFFFFF, 0, 2^64-1⟩,
  ⟨0x8500, 2, .rws, 1, 1, 524288, 2, 0, 0, 65535⟩,
  ⟨0x8600, 3, .rws, 1, 1, 4096, 4, 0, 0, 0xFFFFFFFF⟩,
  ⟨0x8700, 9, .rw, 1, 4, 131072, 16, 0, 0, 0⟩,
  ⟨0x8800, 9, .ro, 1, 3, 8192, 16, 0, 0, 0⟩,
  ⟨0x8900, 1, .rw, 1, 4, 4096, 1, 0, 0, 7⟩,
  ⟨0x8A00, 9, .ro, 1, 3, 4096, 64, 0, 0, 0⟩,
  ⟨0x8B00, 9, .ro, 1, 3, 32768, 16, 0, 0, 0⟩,
  ⟨0x8C00, 4, .rw, 1, 4, 8192, 8, 0, 0, 2^64-1⟩,
  ⟨0x8D00, 4, .ro, 1, 3, 8192, 8, 0, 0, 2^64-1⟩,
  ⟨0x8E00, 4, .rw, 1, 0, 256, 8, 0x0008000008AAAAAA, 0, 2^64-1⟩,
  ⟨0xF000, 7, .rw, 2, 4, 1, 1, 0, 0, 1⟩,
  ⟨0xF001, 4, .rw, 2, 4, 1, 8, 0, 0, 2^64-1⟩,
  ⟨0xF002, 9, .rw, 2, 4, 1, 0, 0, 0, 0⟩]

/-- The object dictionary. -/
def dict : List PDesc := dictA ++ dictB ++ dictC ++ dictD ++ dictE ++ dictF ++ dictG

/-- The description of a parameter; none for an unassigned number (R420). -/
def pdesc (p : Nat) : Option PDesc := dict.find? (fun d => d.num = p)

/-- Element of a listed default, 0 past its end. -/
def nth (l : List Nat) (i : Nat) : Nat := l.getD i 0

/-- PWR_WEIGHT's defaults in binary32 (R365): 4.2, 5.4, 2.6, 8.7, 3.0, 18.0, 260.0, 12.0, 15.0, 20.0, 30.0. -/
def pwrWeightDefault : List Nat := [0x40866666, 0x40ACCCCD, 0x40266666, 0x410B3333, 0x40400000, 0x41900000,
  0x43820000, 0x41400000, 0x41700000, 0x41A00000, 0x41F00000]

/-- PWR_STATIC's defaults in binary32 (R365): 8.0, 0.4, 2.0, 0.12, 3.2, 0.5, 2.0, 150.0. -/
def pwrStaticDefault : List Nat := [0x41000000, 0x3ECCCCCD, 0x40000000, 0x3DF5C28F, 0x404CCCCD, 0x3F000000,
  0x40000000, 0x43160000]

/-- The value a parameter element holds at reset (R240, R365, R435 and the default columns). -/
def pdefault (p idx : Nat) : Nat :=
  match p with
  | 0x0004 => Config.yppEnterprise.toNat
  | 0x0012 => nth [64, 768, 16, 12] idx
  | 0x0013 => nth [192, 64] idx
  | 0x0020 => nth [8, 64, 32] idx
  | 0x0021 => nth [4, 384] idx
  | 0x1013 => idx % 4
  | 0x1100 =>
    if idx = 0 then 3 * 2^32 + 8192 * 2^16
    else if 32 ≤ idx ∧ idx ≤ 35 then 3 * 2^32 + 6144 * 2^16 + 6144 * (idx - 32)
    else 0
  | 0x2100 => nth [64, 128, 256, 512, 1024, 2048, 4096, 8192] idx
  | 0x4010 => nth pwrWeightDefault idx
  | 0x4011 => nth pwrStaticDefault idx
  | 0x8100 => if idx % 32 < 19 then 0x04203156 else 0
  | _ => match pdesc p with
    | some d => d.dflt
    | none => 0

/-- The table key of an element. -/
def pkey (p idx : Nat) : Nat := p * 2^24 + idx

/-- The value in force of a stored parameter element of class RW. -/
def State.pv (s : State) (p idx : Nat) : Nat := Tbl.get s.mgmt.vals (pdefault p idx) (pkey p idx)

/-- The value in force of a shadowed parameter element (R71). -/
def State.act (s : State) (p idx : Nat) : Nat := Tbl.get s.mgmt.active (pdefault p idx) (pkey p idx)

/-- The shadow of a shadowed parameter element (R71). -/
def State.shd (s : State) (p idx : Nat) : Nat := Tbl.get s.mgmt.shadow (pdefault p idx) (pkey p idx)

/-- Stores a value in force. -/
def State.setPv (s : State) (p idx v : Nat) : State :=
  { s with mgmt := { s.mgmt with vals := Tbl.set s.mgmt.vals (pdefault p idx) (pkey p idx) v } }

/-- Stores a shadow. -/
def State.setShd (s : State) (p idx v : Nat) : State :=
  { s with mgmt := { s.mgmt with shadow := Tbl.set s.mgmt.shadow (pdefault p idx) (pkey p idx) v } }

/-- Stores a shadowed value in force. -/
def State.setAct (s : State) (p idx v : Nat) : State :=
  { s with mgmt := { s.mgmt with active := Tbl.set s.mgmt.active (pdefault p idx) (pkey p idx) v } }

end Sys2Proof.Machine
end

