-- ==== Sys2Proof/Machine/Flags.lean ====
section
/-!
DEFINITION. Flags.lean: everything a step reports beside its effect: counters (R385), event lines (R447),
interrupts (R448), YPP events (R434), the chip error table (R287), fault registers and logs (R49, R286),
trace records and triggers (R392 to R406).
-/
namespace Sys2Proof.Machine

/-! ### Power and release of a Hive -/

/-- The domain of a Hive: d = 0 its logic, 1 to 12 its segments, 13 its operand stores (R357). -/
def State.domain (s : State) (h d : Nat) : Domain := Tbl.get s.hives.dom {} (14 * h + d)

/-- A domain is ON. -/
def State.domLive (s : State) (h d : Nat) : Bool := (s.domain h d).st = .on

/-- A domain serves new accesses: it is ON and not leaving ON (R360, R363). -/
def State.domOn (s : State) (h d : Nat) : Bool := s.domLive h d && (s.domain h d).phase ≠ .draining

/-- The clock of a Hive. -/
def State.clockOf (s : State) (h : Nat) : HClock := Tbl.get s.hives.clock .off h

/-- The Hive has been released and its logic is ON: LIVE, WARM or waking; WARM counts as LIVE (R357). -/
def State.hiveUp (s : State) (h : Nat) : Bool := s.clockOf h ≠ .off && s.domLive h 0

/-- A control-page write reaches a released Hive (R117, R453). -/
def State.ctlOpen (s : State) (h : Nat) : Bool := s.clk.rootOn && s.hiveUp h

/-- The CMD accesses of a context that wait. -/
def State.cmdWaits (s : State) (h c : Nat) : List Instr := Tbl.get s.hives.cmdq [] (8 * h + c)

/-- Stores them. -/
def State.setCmds (s : State) (h c : Nat) (l : List Instr) : State :=
  { s with hives := { s.hives with cmdq := Tbl.set s.hives.cmdq [] (8 * h + c) l } }

/-- A CMD access of a context: in order, so that it waits while an earlier one stalls (R56, R230, R232). -/
def State.cmd (s : State) (h c : Nat) (i : Instr) (go : State → State) : State :=
  if s.hives.cmdTurn = some (8 * h + c) then go { s with hives := { s.hives with cmdTurn := none } }
  else if (s.cmdWaits h c).isEmpty || !s.ctlOpen h then go s
  else s.setCmds h c (s.cmdWaits h c ++ [i])

/-- A CMD access stalls: it stands first among those that wait. -/
def State.cmdHold (s : State) (h c : Nat) (i : Instr) : State := s.setCmds h c (i :: s.cmdWaits h c)

/-- No Hive is LIVE, in the sense R357 gives every such condition. -/
def State.noHiveLive (s : State) : Bool := s.hives.clock.all (fun e => e.2 = .off || !s.domLive e.1 0)

/-- CHIP_ID (R120). -/
def State.chipId (s : State) : Nat := s.pv 0x1010 0

/-! ### Counters -/

/-- The Hive whose domain a counter element belongs to; none for a unit that is always ON. -/
def counterHive (p idx : Nat) : Option Nat :=
  let hive (u : Nat) := if u < 256 then some u else none
  match p with
  | 0x2600 => hive idx
  | 0x3500 => hive (idx / 8)
  | 0x6200 => hive (idx / 4)
  | 0x6600 => hive (idx / 32)
  | 0x6700 => hive (idx / 8)
  | 0x6800 => some (idx / 128)
  | 0x8200 => some (idx / 32)
  | 0x6100 => hive (idx / 32)
  | _ => none

/-- A unit whose domain is not ON counts nothing (R385). -/
def State.counts (s : State) (p idx : Nat) : Bool :=
  match counterHive p idx with
  | some h => s.domLive h 0
  | none => true

/-- The live value of a counter. -/
def State.counter (s : State) (p idx : Nat) : Nat := Tbl.get s.count.cnt 0 (pkey p idx)

/-- Sets the live value of a counter. -/
def State.setCounter (s : State) (p idx v : Nat) : State :=
  { s with count := { s.count with cnt := Tbl.set s.count.cnt 0 (pkey p idx) v } }

/-- Adds to a counter; counters wrap at 2^64 (R385). -/
def State.cadd (s : State) (p idx n : Nat) : State :=
  if s.counts p idx then s.setCounter p idx ((s.counter p idx + n) % 2^64) else s

/-- Raises a counter that holds a largest value (R387, R352). -/
def State.cmax (s : State) (p idx v : Nat) : State :=
  if s.counter p idx < v then s.setCounter p idx v else s

/-- Adds to an element of CTX_COUNT (R388). -/
def State.ctxAdd (s : State) (h c k n : Nat) : State := s.cadd 0x6800 (16 * (8 * h + c) + k) n

/-! ### Event lines, interrupts, YPP events -/

/-- Pulses bit `c` of event line `h` (R447); the line stays 0 while the Hive's logic is not ON. -/
def State.pulse (s : State) (h c : Nat) : State :=
  if s.domLive h 0 then
    { s with hives := { s.hives with
        events := Tbl.upd s.hives.events 0 h (fun b => b ||| BitVec.ofNat 8 (2^(c % 8))) } }
  else s

/-- Sets a pending bit of IRQ_PEND (R448). -/
def State.irq (s : State) (line : Nat) : State :=
  { s with mgmt := { s.mgmt with irqPend := s.mgmt.irqPend ||| BitVec.ofNat 8 (2^line) } }

/-- An EVENT for a subscriber, numbered next (R434). -/
def eventMsg (b : Sub) (param index : Nat) (status : Byte) (payload : List Byte) : YMsg :=
  { path := b.path, tag := 0, ic := false, event := true, op := 8, priv := 1, status := status,
    param := param, index := index, reqId := b.seq + 1, payload := payload }

/-- Appends an EVENT to a subscriber's queue of 64 (R434). -/
def Sub.push (b : Sub) (param index : Nat) (status : Byte) (payload : List Byte) : Sub :=
  { b with seq := b.seq + 1, queue := b.queue ++ [eventMsg b param index status payload] }

/-- The LOST notice a subscriber owes once its queue has room again (R434). -/
def Sub.settle (b : Sub) : Sub :=
  if b.lost = 0 ∨ 64 ≤ b.queue.length then b
  else { b.push 0 b.lost 0x0E [] with lost := 0 }

/-- Queues an EVENT, or discards and counts it when the queue is full (R434). -/
def Sub.offer (b : Sub) (param index : Nat) (payload : List Byte) : Sub :=
  let b := b.settle
  if 64 ≤ b.queue.length then { b with lost := b.lost + 1 } else b.push param index 0 payload

/-- Queues an EVENT for every subscriber whose word has bit `sel` set (R433). -/
def State.event (s : State) (sel param index : Nat) (payload : List Byte) : State :=
  { s with mgmt := { s.mgmt with
      subs := s.mgmt.subs.map (fun b => if b.word.getLsbD sel then b.offer param index payload else b) } }

/-- A notice of a parameter's change (R434). -/
def State.notice (s : State) (param index : Nat) (payload : List Byte) : State :=
  s.event (16 + param / 4096) param index payload

/-! ### Records -/

/-- The fields of a record whose layout the spec leaves open beyond its code (log entry 9). `unit` is the
unit number of R384. -/
structure RecF where
  code  : Nat
  unit  : Nat := 0
  ctx   : Nat := 0
  port  : Nat := 0xF
  chan  : Nat := 0
  obj   : Nat := 0
  late  : Nat := 0
  count : Nat := 0
  layer : Nat := 0
  oper  : Nat := 0
  aux   : Nat := 0
  ga    : Nat := 0
deriving DecidableEq, Repr

/-- The record of a code outside R128, R285 and R393: its code in bits 255:248 (R287), its layer and operator
where R285 and R393 have them. The rest of the layout is the model's: log entry 9. -/
def genRec (f : RecF) (ts : Dword) : Rec :=
  recOf [(255, 248, f.code), (247, 239, f.unit), (238, 236, f.ctx), (235, 232, f.port), (231, 224, f.chan),
    (223, 208, f.obj), (207, 192, f.late), (191, 176, f.count), (175, 160, f.layer), (159, 144, f.oper),
    (143, 112, f.aux), (111, 64, f.ga), (63, 0, ts.toNat)]

/-- The code or kind of a record. -/
def recCode (r : Rec) : Nat := fld r.toNat 255 248

/-- The layer and operator of a record laid out as R285, R393 or `genRec` have them; WAIT_TIMEOUT names none. -/
def recIds (r : Rec) : Nat × Nat := if recCode r = 0x32 then (0, 0) else (fld r.toNat 175 160, fld r.toNat 159 144)

/-- Keeps a record among the last 64 of unit `u` (R406). -/
def State.last64 (s : State) (u : Nat) (r : Rec) : State :=
  let l := Tbl.get s.trace.last64 [] u ++ [r]
  { s with trace := { s.trace with last64 := Tbl.set s.trace.last64 [] u (l.drop (l.length - 64)) } }

/-! ### Triggers -/

/-- TRIGGER element `i` (R404). -/
def State.trigger (s : State) (i : Nat) : Nat := s.pv 0x6010 i

/-- The layer and operator of a trigger element let a record through (R404). -/
def trigIds (t : Nat) (ids : Nat × Nat) : Bool :=
  (fld t 47 32 = 0xFFFF || fld t 47 32 = ids.1) && (fld t 31 16 = 0xFFFF || fld t 31 16 = ids.2)

/-- Fires trigger element `i`: fired is set, en clears, and the action is on its way (R404, R405). -/
def State.fire (s : State) (i : Nat) (r : Rec) : State :=
  let t := s.trigger i
  { s.setPv 0x6010 i (setFld (setFld t 63 63 0) 58 58 1) with
    trace := { s.trace with fires := s.trace.fires ++ [(i, s.clk.now, r.toNat)] } }

/-- Tests the armed triggers of a source against a record; `m` says which elements match. -/
def State.testTriggers (s : State) (src : Nat) (m : Nat → Bool) (r : Rec) : State :=
  (List.range 4).foldl (fun s i =>
    let t := s.trigger i
    if bit t 63 && fld t 60 59 = src && m t then s.fire i r else s) s

/-! ### The chip error table -/

/-- Slots of the unread records, oldest slot first (R287). -/
def State.unread (s : State) : List Nat :=
  (List.range ((s.err.head - s.err.tail).toNat)).map (fun j => (s.err.tail.toNat + j) % 256)

/-- The oldest unread ECC_CORR record, by timestamp (R287). -/
def State.oldestCorr (s : State) : Option Nat :=
  (s.unread.filter (fun i => recCode (Tbl.get s.err.table 0 i) = 0x46)).foldl (fun a i =>
    match a with
    | none => some i
    | some j => if fld (Tbl.get s.err.table 0 i).toNat 63 0 < fld (Tbl.get s.err.table 0 j).toNat 63 0
        then some i else a) none

/-- Stores a record in a slot of the table and announces it (R287, R434). -/
def State.tableStore (s : State) (slot : Nat) (r : Rec) : State :=
  ({ s with err := { s.err with table := Tbl.set s.err.table 0 slot r } }).event (recCode r / 16) 0x3400 slot
    (natBytes 32 r.toNat)

/-- The interrupt line a code raises when it enters the table (R448). -/
def codeIrq (code : Nat) (s : State) : State :=
  if code = 0x80 ∨ code = 0x81 ∨ code = 0x82 ∨ code = 0x84 ∨ code = 0x85 ∨ code = 0x86 then s.irq 6
  else if code = 0x91 ∨ code = 0x92 then s.irq 7
  else s

/-- Puts a record into the ring of the table, or over the oldest unread ECC_CORR record when it is full, or
drops it (R287). -/
def State.tableRing (s : State) (r : Rec) : State :=
  if s.unread.length < 256 then
    let t := s.tableStore (s.err.head.toNat % 256) r
    { t with err := { t.err with head := t.err.head + 1 } }
  else match s.oldestCorr with
    | some i => s.tableStore i r
    | none => { s with err := { s.err with lost := if s.err.lost = 0xFFFF then 0xFFFF else s.err.lost + 1 } }

/-- Sends a record to the chip error table: its interrupt, its EVENTs and the error-code triggers of R404, `ids` its layer and
operator. -/
def State.tableAdd (s : State) (r : Rec) (ids : Nat × Nat := recIds r) : State :=
  (codeIrq (recCode r) (s.tableRing r)).testTriggers 1
    (fun t => fld t 55 48 = recCode r && trigIds t ids) r

/-- Raises a code of the Hearth or of a unit without a fault register, in the chip error table. -/
def State.raise (s : State) (f : RecF) : State := s.tableAdd (genRec f s.clk.ts)

/-- Writes a fault record to the register of unit `u`, its last 64 events and the chip error table, and counts
it for its context (R49, R388 element 11, R406). -/
def State.faultAt (s : State) (u : Nat) (r : Rec) (ids : Nat × Nat := recIds r) : State :=
  ({ s with hives := { s.hives with faultReg := Tbl.set s.hives.faultReg 0 u r } }.last64 u r).tableAdd r ids

/-- A fault of an access: its record at unit `u`, and a pulse to the core of context `c` of Hive `h` that
issued it (R49, R447). -/
def State.faultAccess (s : State) (u h c : Nat) (r : Rec) (ids : Nat × Nat := recIds r) : State :=
  ((s.faultAt u r ids).ctxAdd h c 11 1).pulse h c

/-! ### Integrity logs -/

/-- An integrity event (R285). -/
structure Integ where
  code  : Nat
  kind  : Nat
  det   : Nat := 0
  gmask : Nat := 0
  synd  : Nat := 0
  port  : Nat := 0xF
  chan  : Nat := 0
  unit  : Nat
  ctx   : Nat := 0
  spare : Bool := false
  layer : Nat := 0
  oper  : Nat := 0
  loc   : Nat
deriving DecidableEq, Repr

/-- A correctable event. -/
def corrCode (code : Nat) : Bool := code = 0x46

/-- The record an event creates (R285). -/
def Integ.record (e : Integ) (ts : Dword) : Rec :=
  recOf [(255, 248, e.code), (247, 244, e.kind), (243, 240, e.det), (239, 232, e.gmask), (231, 224, e.synd),
    (223, 220, e.port), (219, 216, e.chan), (215, 207, e.unit), (206, 204, e.ctx), (203, 203, b2n e.spare),
    (191, 176, 1), (175, 160, e.layer), (159, 144, e.oper), (143, 104, e.loc), (103, 64, ts.toNat),
    (63, 0, ts.toNat)]

/-- The key of a record in a log (R286). -/
def recKey (r : Rec) : Nat × Nat := (fld r.toNat 247 244, fld r.toNat 143 104)

/-- A record after a matching event (R286 step 1). -/
def Integ.touch (e : Integ) (r : Rec) (ts : Dword) : Rec :=
  let n := r.toNat
  let n := setFld n 191 176 (sat 65535 (fld n 191 176 + 1))
  let n := setFld n 63 0 ts.toNat
  let n := setFld n 239 232 (fld n 239 232 ||| e.gmask)
  let n := if !corrCode e.code && corrCode (recCode r) then
      [(255, 248, e.code), (243, 240, e.det), (231, 224, e.synd), (223, 220, e.port), (219, 216, e.chan),
        (206, 204, e.ctx), (203, 203, b2n e.spare), (175, 160, e.layer), (159, 144, e.oper)].foldl
        (fun n f => setFld n f.1 f.2.1 f.2.2) n
    else n
  BitVec.ofNat 256 n

/-- The record of the log of unit `u` at place `n`. -/
def State.logRec (s : State) (u n : Nat) : Rec := Tbl.get s.err.log 0 (16 * u + n)

/-- Stores a record of a log. -/
def State.setLog (s : State) (u n : Nat) (r : Rec) : State :=
  { s with err := { s.err with log := Tbl.set s.err.log 0 (16 * u + n) r } }

/-- The better victim of two places: the lower `m`. -/
def lowerBy (m : Nat → Nat × Nat) (a : Option Nat) (i : Nat) : Option Nat :=
  match a with
  | none => some i
  | some j => if (m i).1 < (m j).1 ∨ ((m i).1 = (m j).1 ∧ (m i).2 < (m j).2) then some i else a

/-- The place an event of a new key takes in a full or part-full log (R286 steps 2 to 4), and whether a record
is replaced. -/
def State.logPlace (s : State) (e : Integ) : Option (Nat × Bool) :=
  let r := fun n => s.logRec e.unit n
  let last := fun n => fld (r n).toNat 63 0
  match (List.range 16).find? (fun n => r n = 0) with
  | some n => some (n, false)
  | none =>
    let corr := (List.range 16).filter (fun n => corrCode (recCode (r n)))
    if corr.isEmpty then
      if corrCode e.code then none
      else ((List.range 16).foldl (lowerBy (fun n => (last n, 0))) none).map (fun n => (n, true))
    else if corrCode e.code then
      (corr.foldl (lowerBy (fun n => (fld (r n).toNat 191 176, last n))) none).map (fun n => (n, true))
    else (corr.foldl (lowerBy (fun n => (last n, 0))) none).map (fun n => (n, true))

/-- Takes an event into the log of its unit and, as R287 says, into the chip error table (R286, R288). -/
def State.integrity (s : State) (e : Integ) : State :=
  let ts := s.clk.ts
  let s := s.cadd 0x3500 (8 * e.unit + (if corrCode e.code then 0 else 1)) 1
  match (List.range 16).find? (fun n => s.logRec e.unit n ≠ 0 && recKey (s.logRec e.unit n) = (e.kind, e.loc)) with
  | some n =>
    let r := e.touch (s.logRec e.unit n) ts
    let s := (s.setLog e.unit n r).last64 e.unit r
    if !corrCode e.code || fld r.toNat 191 176 = s.pv 0x3104 0 then s.tableAdd r else s
  | none =>
    let r := e.record ts
    match s.logPlace e with
    | some (n, rep) =>
      let s := (s.setLog e.unit n r).last64 e.unit r
      (if rep then s.cadd 0x3500 (8 * e.unit + 6) 1 else s).tableAdd r
    | none => s.cadd 0x3500 (8 * e.unit + 6) 1

/-- Firmware clears the record of a repaired or retired location (R286). -/
def State.clearLog (s : State) (u kind loc : Nat) : State :=
  match (List.range 16).find? (fun n => s.logRec u n ≠ 0 && recKey (s.logRec u n) = (kind, loc)) with
  | some n => s.setLog u n 0
  | none => s

/-! ### Trace records -/

/-- The party whose action ended a wait (R393, R394); unit 0x1FF names none. -/
structure Party where
  chip : Nat := 0
  unit : Nat := 0x1FF
  ctx  : Nat := 0
  port : Nat := 0xF
  chan : Nat := 0
deriving DecidableEq, Repr

/-- A party packed into a number, as passes, rings and waiting transactions keep it (R394). -/
def Party.packed (p : Party) : Nat :=
  pack [(9, 0, p.chip), (18, 10, p.unit), (21, 19, p.ctx), (25, 22, p.port), (29, 26, p.chan)]

/-- The party a number packs. -/
def unpackParty (n : Nat) : Party :=
  { chip := fld n 9 0, unit := fld n 18 10, ctx := fld n 21 19, port := fld n 25 22, chan := fld n 29 26 }

/-- The fields of a trace record (R393). -/
structure TraceF where
  kind  : Nat
  unit  : Nat
  ctx   : Nat := 0
  port  : Nat := 0xF
  chan  : Nat := 0
  src   : Party := {}
  open_ : Bool := false
  obj   : Nat := 0
  layer : Nat := 0
  oper  : Nat := 0
  wait  : Nat := 0
  aux   : Nat := 0
deriving DecidableEq, Repr

/-- A trace record (R393). -/
def TraceF.record (f : TraceF) (time : Nat) : Rec :=
  recOf [(255, 248, f.kind), (247, 239, f.unit), (238, 236, f.ctx), (235, 232, f.port), (231, 228, f.chan),
    (227, 218, f.src.chip), (217, 209, f.src.unit), (208, 206, f.src.ctx), (205, 202, f.src.port),
    (201, 198, f.src.chan), (192, 192, b2n f.open_), (191, 176, f.obj), (175, 160, f.layer),
    (159, 144, f.oper), (143, 112, sat (2^32 - 1) f.wait), (111, 64, f.aux), (63, 0, time)]

/-- The record leaves its unit for the trace buffer (R395). -/
def State.leaves (s : State) (f : TraceF) : Bool :=
  let t := s.pv 0x6006 0
  s.trace.mode ≠ 0 && bit (fld t 14 0) f.kind &&
    (0x0A < f.kind || f.open_ || fld t 31 16 * 16 ≤ f.wait)

/-- A drop record with one more record dropped (R402). -/
def dropInto (d : Rec) (u cause : Nat) (time : Nat) : Rec :=
  if d = 0 then recOf [(255, 248, 0x0F), (247, 239, u), (231, 224, cause), (191, 128, time), (127, 64, 1),
    (63, 0, time)]
  else BitVec.ofNat 256 (setFld (setFld d.toNat 127 64 (fld d.toNat 127 64 + 1)) 63 0 time)

/-- The first drop after a write of TRACE_MODE raises TRACE_DROP (R403). -/
def State.dropSaid (s : State) (u cause : Nat) : State :=
  if s.trace.dropSaid then s
  else { s with trace := { s.trace with dropSaid := true } }.raise { code := 0x90, unit := u, obj := cause }

/-- Puts a record into the staging of unit `u`, or drops it with cause STAGING (R397). -/
def State.stage (s : State) (u : Nat) (r : Rec) (time : Nat) : State :=
  let g := Tbl.get s.trace.staging {} u
  let put := fun (g : Staging) => { s with trace := { s.trace with staging := Tbl.set s.trace.staging {} u g } }
  if g.recs.length < 16 then put { g with recs := g.recs ++ [r] }
  else (put { g with drop := dropInto g.drop u 2 time }).dropSaid u 2

/-- A trace-record trigger element matches (R404). -/
def trigTrace (f : TraceF) (t : Nat) : Bool :=
  fld t 55 48 = f.kind && trigIds t (f.layer, f.oper) && fld t 15 0 * 16 ≤ f.wait

/-- Generates a trace record at its unit: triggers, the last 64 events, and the staging where R395 lets it leave
(R392). A Hive whose logic is not ON generates none (R441). -/
def State.traceAt (s : State) (f : TraceF) (time : Nat) : State :=
  if f.unit < 256 && !s.domLive f.unit 0 then s
  else
    let r := f.record time
    let s := (s.testTriggers 0 (trigTrace f) r).last64 f.unit r
    if s.leaves f then s.stage f.unit r time else s

/-- Generates a trace record now. -/
def State.traceGen (s : State) (f : TraceF) : State := s.traceAt f s.clk.ts.toNat

end Sys2Proof.Machine
end

