-- ==== Sys2Proof/Machine/Operands.lean ====
section
/-!
DEFINITION. Operands.lean: how an operand's address is found and checked: the global address map (R116), the
Hive layout (R26), the pool hash (R43), regions and raw offsets (R240 to R248), routes (R10 to R12), handles
(R121 to R128), ownership (R51) and the checks of the target Hive (R47, R363).
-/
namespace Sys2Proof.Machine

/-! ### Modes -/

/-- TIERED mode (R45). -/
def State.tiered (s : State) : Bool := s.pv 0x1000 0 = 1

/-- C stripes contributed to the pool, 0 in FLAT mode (R43, R45). -/
def State.poolC (s : State) : Nat := if s.tiered then s.pv 0x1001 0 else 0

/-- DETERMINISTIC mode (R85). -/
def State.determ (s : State) : Bool := s.act 0x2000 0 = 1

/-! ### Where an address is served -/

/-- Tier 1 and tier 2 in the address map (R116). -/
def t1Base : Nat := 0x008000000000
def t2Base : Nat := 0x010000000000
/-- Bytes of a cartridge's address range (R116). -/
def cartBytes : Nat := 384 * 2^30
/-- Bytes of a granule of a tier (R240). -/
def granBytes : Nat := 2^26

/-- A Hive-local address (R26, R37). -/
def hiveLoc (h l : Nat) : Loc :=
  let n := l / 64
  if l < 0x300000 then .row h (n % 64) (l / 4096)
  else if l < 0x330000 then .mat h ((n - 0xC000) % 16) ((n - 0xC000) / 16)
  else if l < 0x340000 then .vec h ((n - 0xCC00) % 8) ((n - 0xCC00) / 8)
  else .hole h

/-- The published stripe hash: pool offset to Hive and local address (R43). -/
def poolHash (c off : Nat) : Nat × Nat :=
  let st := off / 4096
  let q := st / 256
  let r := st % 256
  (((37 * r) % 256) ^^^ ((91 * q) % 256), (768 - c + q) * 4096 + off % 4096)

/-- An OUTER_REGION element: strength, first byte and bytes of raw space (R240). -/
def State.region (s : State) (e : Nat) : Nat × Nat × Nat :=
  let v := s.pv 0x1100 e
  (fld v 34 32, fld v 15 0 * granBytes, fld v 31 16 * granBytes)

/-- A region covers a raw byte offset. -/
def regionCovers (r : Nat × Nat × Nat) (off : Nat) : Bool := r.2.2 ≠ 0 && r.2.1 ≤ off && off < r.2.1 + r.2.2

/-- The region of a raw byte offset of a tier, strength OFF where none covers it (R241). -/
def regionBy (region : Nat → Nat × Nat × Nat) (tier off : Nat) : Nat × Nat × Nat :=
  match (List.range 32).find? (fun i => regionCovers (region (32 * (tier - 1) + i)) off) with
  | some i => region (32 * (tier - 1) + i)
  | none => (0, 0, 0)

/-- The region of a raw byte offset. -/
def State.regionAt (s : State) (tier off : Nat) : Nat × Nat × Nat := regionBy s.region tier off

/-- The raw offset of an offset within a tier; none in the unpopulated last 1/32 of a coded region (R242). -/
def State.rawOf (s : State) (tier off : Nat) : Option Nat :=
  let r := s.regionAt tier off
  if r.1 = 0 then some off
  else
    let l := (off - r.2.1) / 64
    if 62 * (r.2.2 / 4096) ≤ l then none
    else some (r.2.1 + (l / 62) * 4096 + (l % 62) * 64 + off % 64)

/-- Strength of the region that holds a raw byte offset. -/
def State.strength (s : State) (tier raw : Nat) : Nat := (s.regionAt tier raw).1

/-- The tier offset whose raw offset is a data line's (the inverse of R242). -/
def State.offOf (s : State) (tier raw : Nat) : Nat :=
  let r := s.regionAt tier raw
  if r.1 = 0 then raw
  else r.2.1 + (((raw - r.2.1) / 4096) * 62 + (raw % 4096) / 64) * 64 + raw % 64

/-- Where an address is served, for C stripes in the pool and the raw offset of an offset within a tier (R116 to R119). -/
def locateBy (c : Nat) (raw : Nat → Nat → Option Nat) (ga : Nat) : Loc :=
  if ga < 0x40000000 then hiveLoc (ga / 0x400000) (ga % 0x400000)
  else if ga < 0x60000000 then
    let off := ga - 0x40000000
    if off / 4096 < 256 * c then
      let p := poolHash c off
      hiveLoc p.1 p.2
    else .none
  else if t1Base ≤ ga ∧ ga < t2Base then
    match raw 1 (ga - t1Base) with
    | some r => .t1 r
    | none => .none
  else if t2Base ≤ ga ∧ ga < t2Base + 4 * cartBytes then
    match raw 2 (ga - t2Base) with
    | some r => .t2 (r / cartBytes) (r % cartBytes)
    | none => .none
  else if 0x0F0000000000 ≤ ga ∧ ga < 0x0F0010000000 then
    let o := ga - 0x0F0000000000
    .page (o / 0x100000) (o % 0x100000)
  else if 0x0F0040000000 ≤ ga ∧ ga < 0x0F0041000000 then
    let o := ga - 0x0F0040000000
    .sync (o / 0x10000) (o % 0x10000 / 8)
  else if 0x0F0080000000 ≤ ga ∧ ga < 0x0F0082000000 then
    let o := ga - 0x0F0080000000
    .edge (o / 0x100000) (o % 0x100000)
  else .none

/-- Where an address is served. -/
def State.locate (s : State) (ga : Nat) : Loc := locateBy s.poolC s.rawOf ga

/-- GA of a word of a sync page (R118). -/
def syncGa (h w : Nat) : Nat := 0x0F0040000000 + h * 0x10000 + 8 * w

/-- The address lies in the pool range (R116). -/
def isPoolGa (ga : Nat) : Bool := 0x40000000 ≤ ga && ga < 0x60000000

/-- The address is unpopulated because no target serves it: refused where it would enter the mesh (R47, R242). -/
def unserved : Loc → Bool
  | .none => true
  | _ => false

/-! ### The tier-1 hash -/

/-- The stack of a raw tier-1 page (R248). -/
def t1Stack (raw : Nat) : Nat :=
  (List.range 9).foldl (fun k i => k ^^^ (raw / 4096 / 8^i % 8)) 0

/-- Pseudo-channel, bank, row and column of a raw tier-1 offset (R248). -/
structure T1Place where
  k    : Nat
  pc   : Nat
  bank : Nat
  row  : Nat
  col  : Nat
deriving DecidableEq, Repr

/-- The published stack hash (R248). -/
def t1Hash (raw : Nat) : T1Place :=
  let q := raw / 4096 / 8
  let j := raw / 256 % 16
  let u := q / 4
  { k := t1Stack raw, pc := (4 * j + q % 4) ^^^ (q / 4 % 64), bank := u / 4 % 16, row := u / 64,
    col := 4 * (u % 4) + raw / 64 % 4 }

/-- A retired tier-1 location: its page, its stack bank, or a failed channel (R261, R304). -/
def State.t1Retired (s : State) (raw : Nat) : Bool :=
  let q := raw / 32768
  s.err.tierRet.any (fun e => !e.pend &&
    ((e.kind = 0 && e.loc = raw / 4096) ||
     (e.kind = 1 && e.unit = t1Stack raw && e.loc % 16 = q / 16 % 16 &&
        fld e.loc 5 4 = (q % 4) ^^^ (q / 4 % 4)) ||
     (e.kind = 3 && e.unit = t1Stack raw &&
        (let x := (q % 4) ^^^ (q / 4 % 4); x = (2 * e.loc) % 4 || x = (2 * e.loc + 1) % 4))))

/-- A retired tier-2 page (R304). -/
def State.t2Retired (s : State) (k raw : Nat) : Bool :=
  s.err.tierRet.any (fun e => !e.pend && e.kind = 2 && e.loc = (k * cartBytes + raw) / 4096)

/-! ### Routes -/

/-- Units by the numbers of R384: T1Ck, T2Qk, FXPk, the Mirror Unit and the Hearth. -/
def uT1 (k : Nat) : Nat := 256 + k
def uT2 (k : Nat) : Nat := 264 + k
def uFx (k : Nat) : Nat := 268 + k
def uMu : Nat := 272
def uHearth : Nat := 273

/-- The unit that serves a location. -/
def Loc.unit : Loc → Nat
  | .row h _ _ => h
  | .mat h _ _ => h
  | .vec h _ _ => h
  | .sync h _ => h
  | .page h _ => h
  | .hole h => h
  | .t1 raw => uT1 (t1Stack raw)
  | .t2 k _ => uT2 k
  | .edge u _ => if u < 8 then uT1 u else if u < 12 then uT2 (u - 8) else if u < 16 then uFx (u - 12) else uMu
  | .none => uHearth

/-- The router (x, y) at which traffic of an edge unit enters or leaves, for the row y0 of the other end (R11, R12). -/
def attachXY (u y0 : Nat) : Nat × Nat :=
  let near (b : Nat) := max b (min (b + 3) y0)
  if u < 256 then (u % 16, u / 16)
  else if u < 260 then (0, near (4 * (u - 256)))
  else if u < 264 then (15, near (4 * (u - 260)))
  else if u < 268 then (4 * (u - 264) + 1, 15)
  else if u < 272 then (4 * (u - 268) + 1, 0)
  else if u = 272 then (7, 0)
  else (8, 0)

/-- A tier-1 controller. -/
def isT1 (u : Nat) : Bool := 256 ≤ u && u < 264

/-- The router at which a request of `src` to `dst` enters the mesh (R12). -/
def srcRouter (src dst : Nat) : Nat :=
  let a := attachXY src (if isT1 src && !isT1 dst then (attachXY dst 0).2 else 0)
  a.1 + 16 * a.2

/-- The router at which it leaves; the answer enters there (R12). -/
def dstRouter (src dst : Nat) : Nat :=
  let a := attachXY dst (srcRouter src dst / 16)
  a.1 + 16 * a.2

/-- Hops between routers (R10). -/
def hopsXY (a b : Nat) : Nat :=
  (a % 16 - b % 16) + (b % 16 - a % 16) + (a / 16 - b / 16) + (b / 16 - a / 16)

/-- One hop for the edge link of an edge unit (R12). -/
def edgeHop (u : Nat) : Nat := if u < 256 then 0 else 1

/-- Hops of a request of `a` to `b`, edge links included (R10, R12). -/
def hops (a b : Nat) : Nat := hopsXY (srcRouter a b) (dstRouter a b) + edgeHop a + edgeHop b

/-- The output direction of router `r` toward router `d`, X first, then Y; `last` at `d` itself (R10, R92). -/
def nextDir (r d last : Nat) : Nat :=
  if r % 16 < d % 16 then 0
  else if d % 16 < r % 16 then 1
  else if r / 16 < d / 16 then 2
  else if d / 16 < r / 16 then 3
  else last

/-- The router one hop from `r` in direction d (R92). -/
def stepDir (r d : Nat) : Nat :=
  if d = 0 then r + 1 else if d = 1 then r - 1 else if d = 2 then r + 16 else r - 16

/-- Direction d of router r leads somewhere: a neighbour on the grid, its Hive, or an edge unit (R11, R92). -/
def dirConnected (r d : Nat) : Bool :=
  match d with
  | 0 => r % 16 ≠ 15
  | 1 => r % 16 ≠ 0
  | 2 => r / 16 ≠ 15
  | 3 => r / 16 ≠ 0
  | 4 => true
  | 5 => true
  | _ => r % 16 = 0 || r % 16 = 15 || (r / 16 = 15 && r % 4 = 1) ||
    (r / 16 = 0 && (r % 4 = 1 || r = 7 || r = 8))

/-! ### Quadrants -/

/-- The quadrant of a bank is far from a port (R40). -/
def isFar (port bank : Nat) : Bool :=
  if port = 3 ∨ port = 4 ∨ port = 5 then bank < 32 else 32 ≤ bank

/-! ### Handles -/

/-- The table key of handle `i` of context `c` of Hive `h` (R121). -/
def hkey (h c i : Nat) : Nat := 512 * h + 64 * c + i

/-- A handle entry (R121). -/
def State.handle (s : State) (h c i : Nat) : Quad := Tbl.get s.hives.handles 0 (hkey h c i)

def hGen (q : Quad) : Nat := fld q.toNat 99 92
def hClass (q : Quad) : Nat := fld q.toNat 87 84
def hDbg (q : Quad) : Bool := bit q.toNat 83
def hCache (q : Quad) : Bool := bit q.toNat 82
def hMirr (q : Quad) : Bool := bit q.toNat 81
def hWr (q : Quad) : Bool := bit q.toNat 80
def hRd (q : Quad) : Bool := bit q.toNat 79
def hExtent (q : Quad) : Nat := fld q.toNat 76 42
def hBase (q : Quad) : Nat := fld q.toNat 41 0 * 64
def hChip (q : Quad) : Nat := fld q.toNat 127 118
def hWin (q : Quad) : Nat := fld q.toNat 117 113
def hWinGen (q : Quad) : Nat := fld q.toNat 112 105

/-- A LOAD or DROP of the slot is in progress (R124). -/
def State.draining (s : State) (h c i : Nat) : Bool := (Tbl.find s.hives.drains (hkey h c i)).isSome

/-- The slot admits no new access: its LOAD or DROP was written in an earlier cycle (R124 step 1). -/
def State.slotShut (s : State) (h c i : Nat) : Bool :=
  match Tbl.find s.hives.drains (hkey h c i) with
  | some d => decide (d.since < s.clk.now)
  | none => false

/-- A failed handle check: its code and the fields of R128 that the check knows. -/
structure HFault where
  code   : Nat
  handle : Nat := 0
  nohand : Bool := false
  genRef : Nat := 0
  genCur : Nat := 0
  lo     : Int := 0
  hi     : Int := 0
deriving DecidableEq, Repr

/-- The three checks of R126 on a reference of context `c`: `wr` for a write, ACC or atomic. `bounds` is none where
check 3 is not applied (R154). -/
def State.checkHandle (s : State) (h c ref : Nat) (rd wr : Bool) (bounds : Option (Int × Int)) : Option HFault :=
  let i := ref % 64
  let q := s.handle h c i
  let f := fun code => { code := code, handle := i, genRef := fld ref 15 8, genCur := hGen q,
                         lo := (bounds.getD (0, 0)).1, hi := (bounds.getD (0, 0)).2 : HFault }
  if fld ref 15 8 ≠ hGen q || hClass q = 0 || s.slotShut h c i then some (f 0x11)
  else if (rd && !hRd q) || (wr && !hWr q) then some (f 0x12)
  else match bounds with
    | some (lo, hi) => if lo < 0 ∨ (64 * hExtent q : Int) ≤ hi then some (f 0x10) else none
    | none => none

/-- The address of an offset under a reference. -/
def State.refGa (s : State) (h c ref off : Nat) : Nat := hBase (s.handle h c (ref % 64)) + off

/-- The lowest-indexed handle of the context that covers an address (R127). -/
def State.covering (s : State) (h c ga : Nat) : Option Nat :=
  (List.range 64).find? (fun i =>
    let q := s.handle h c i
    hClass q ≠ 0 && hBase q ≤ ga && ga < hBase q + 64 * hExtent q)

/-- Where a handle fault arose (R128). -/
structure FaultSite where
  hive  : Nat
  ctx   : Nat := 0
  port  : Nat := 0xF
  chan  : Nat := 0
  job   : Nat := 0
  layer : Nat := 0
  oper  : Nat := 0
deriving DecidableEq, Repr

/-- The handle fault record (R128). -/
def handleRec (f : HFault) (w : FaultSite) (ts : Dword) : Rec :=
  recOf [(255, 248, f.code), (247, 240, w.hive), (239, 237, w.ctx), (231, 228, w.port), (227, 224, w.chan),
    (223, 216, w.job), (215, 210, f.handle), (209, 209, b2n f.nohand), (207, 200, f.genRef), (199, 192, f.genCur),
    (191, 144, toTwos 48 f.lo), (143, 96, toTwos 48 f.hi), (95, 80, w.layer), (79, 64, w.oper), (63, 0, ts.toNat)]

/-- Records a handle fault and signals the core (R128). -/
def State.handleFault (s : State) (f : HFault) (w : FaultSite) : State :=
  s.faultAccess w.hive w.hive w.ctx (handleRec f w s.clk.ts) (w.layer, w.oper)

/-! ### Ownership, stripes and power at the target -/

/-- A bank ownership entry (R50). -/
def State.ownerOf (s : State) (h b : Nat) : Owner := Tbl.get s.hives.owner {} (64 * h + b)

/-- A Hive stripe is retired (R303). -/
def State.stripeRetired (s : State) (h st : Nat) : Bool := s.err.stripes.contains (768 * h + st)

/-- A row lies in a stripe contributed to the pool (R43). -/
def State.inPool (s : State) (row : Nat) : Bool := 768 - s.poolC ≤ row

/-- The code with which the target Hive refuses an address, whoever asks (R47, R363); `byPool` tells a pool address. -/
def State.refusal (s : State) (loc : Loc) (byPool : Bool) : Option Nat :=
  match loc with
  | .row h _ row =>
    if !s.domOn h 0 then some 0x83
    else if s.stripeRetired h row || (s.inPool row && !byPool) then some 0x14
    else if !s.domOn h (1 + row / 64) then some 0x83
    else none
  | .mat h _ row =>
    if !s.domOn h 0 then some 0x83
    else if s.err.matStr.contains (192 * h + row) then some 0x14
    else if !s.domOn h 13 then some 0x83 else none
  | .vec h _ row =>
    if !s.domOn h 0 then some 0x83
    else if s.err.vecStr.contains (128 * h + row) then some 0x14
    else if !s.domOn h 13 then some 0x83 else none
  | .sync h _ => if !s.domOn h 0 then some 0x83 else none
  | .page h _ => if !s.domOn h 0 then some 0x83 else none
  | .hole h => if !s.domOn h 0 then some 0x83 else some 0x14
  | .none => some 0x14
  | _ => none

/-- The requester may reach an operand store (R39): its engine port and DXP of its own Hive, the others in FLAT mode. -/
def State.storeReach (s : State) (loc : Loc) (h port : Nat) : Bool :=
  match loc with
  | .mat t _ _ => !s.tiered || (t = h && (port = 0 || port = 3))
  | .vec t _ _ => !s.tiered || (t = h && (port = 1 || port = 3))
  | _ => true

/-- How ownership judges an access of a context (R51, R52): admitted, refused, or held until a handover ends. -/
inductive OwnRes where
  | ok | refused | held
deriving DecidableEq, Repr

/-- Ownership of a main-bank row below the pool boundary (R51, R52, R53): the old owner is refused from the cycle after the write on. -/
def State.ownership (s : State) (loc : Loc) (c : Nat) : OwnRes :=
  match loc with
  | .row h b row =>
    if s.inPool row then .ok
    else
      let o := s.ownerOf h b
      if o.pend then (if c = o.next then .held else if c = o.owner ∧ s.clk.now ≤ o.since then .ok else .refused)
      else if c = o.owner then .ok else .refused
  | _ => .ok

/-- The path a port lacks: another unit's address for an engine or stream port, the sync pages for MXP, VXP and
STP (R60, R118), control and edge pages for every port but CMD (R117, R119). -/
def noPath (h port : Nat) (ga : Nat) (loc : Loc) : Bool :=
  let engine := port = 0 || port = 1 || port = 6
  match loc with
  | .sync _ _ => engine
  | .page _ _ => true
  | .edge _ _ => true
  | .row t _ _ => engine && (t ≠ h || isPoolGa ga)
  | .mat t _ _ => engine && t ≠ h
  | .vec t _ _ => engine && t ≠ h
  | .hole t => engine && t ≠ h
  | _ => engine

end Sys2Proof.Machine
end

