-- ==== Sys2Proof/Machine/Ops.lean ====
section
/-!
DEFINITION. Ops.lean: the shared operations over State: cycle counts and wheels (R63, R86), regulation (R106, R111),
SLOT_MISS (R99 to R101), stored rows and sync words (R27 to R36), the access at a bank (R33, R34, R181, R188),
the scoreboard (R220), rings (R225), issue (R56 to R60) and answers (R48, R284).
-/
namespace Sys2Proof.Machine

/-! ### Cycles, positions and wheels -/

/-- The common 16-bit cycle count (R63). -/
def State.count16 (s : State) : Nat := (s.clk.now - s.clk.count0) % 65536

/-- The position in the slot wheels while an epoch runs in DETERMINISTIC mode (R85 to R87). -/
def State.position (s : State) : Option Nat :=
  if s.determ && s.sched.running then some ((s.clk.now - s.sched.start) % 256) else none

/-- The period of the running epoch (R86). -/
def State.period (s : State) : Nat := (s.clk.now - s.sched.start) / 256

/-- The Hive wheel entry in force in this cycle; FREE throughout while no epoch runs (R87, R90). -/
def State.hiveWheel (s : State) (h : Nat) : Nat :=
  match s.position with
  | some p => s.act 0x8400 (256 * h + p)
  | none => 0x003FFFFFFFFFFFFF

/-- The flow of a link in this position (R92). -/
def State.linkWheel (s : State) (h d : Nat) : Nat :=
  match s.position with
  | some p => s.act 0x8500 (256 * (8 * h + d) + p)
  | none => 0

/-- The port code an arbiter's wheel field names: 7 FREE; the sync page has none (R90, R98). -/
def wheelField (w : Nat) : Loc → Nat
  | .row _ b _ => fld w (3 * (b / 4) + 2) (3 * (b / 4))
  | .mat _ _ _ => fld w 50 48
  | .vec _ _ _ => fld w 53 51
  | _ => 7

/-! ### Regulation -/

/-- The budget in effect of class q at resource r (R106). -/
def State.budget (s : State) (r q : Nat) : Nat := Tbl.get s.sched.effective 0 (8 * r + q)

/-- Requests of class q carry be = 1 at resource r (R106, R111). -/
def State.bestEffort (s : State) (r q : Nat) : Bool :=
  if (List.range 8).all (fun k => s.budget r k = 0) then false
  else s.budget r q = 0 || s.sched.demoted.contains (8 * r + q)

/-- A class of a resource (key 8r + q) has reached its budget: it is demoted from the next cycle on, and the window counts among those in which
it was (R111, R114). -/
def State.demote (s : State) (key : Nat) : State :=
  if s.sched.demoted.contains key || s.sched.demNext.contains key then s
  else
    let s := if s.sched.demSeen.contains key then s else s.cadd 0x6100 (4 * key + 2) 1
    { s with sched := { s.sched with demNext := s.sched.demNext ++ [key], demSeen := addOnce s.sched.demSeen key } }

/-- The counts of the window stand against the budgets in effect: a class that has reached its own is demoted, any other is not (R89, R111). -/
def State.regrade (s : State) : State :=
  let past := (s.sched.winBytes.filter (fun e => e.1 < 8 * 0xA18 && s.budget (e.1 / 8) (e.1 % 8) ≠ 0 &&
    decide (s.budget (e.1 / 8) (e.1 % 8) ≤ e.2))).map (fun e => e.1)
  let s := { s with sched := { s.sched with demoted := s.sched.demoted.filter past.contains, demNext := s.sched.demNext.filter past.contains } }
  let s := past.foldl State.demote s
  { s with sched := { s.sched with demoted := s.sched.demoted ++ s.sched.demNext, demNext := [] } }

/-- Accounts a grant of `n` bytes: CLASS_BYTES (R114), and for a dynamic grant the window's bytes and the class's
demotion (R111). The bytes of a class that is best effort for want of a budget count under k = 0, as those of a class that is not demoted
(DESIGN CHOICE, log entry 13). -/
def State.account (s : State) (r q n : Nat) (sched : Bool) : State :=
  if sched then s.cadd 0x6100 (4 * (8 * r + q) + 3) n
  else
    let dem := s.sched.demoted.contains (8 * r + q)
    let s := s.cadd 0x6100 (4 * (8 * r + q) + b2n dem) n
    let w := Tbl.get s.sched.winBytes 0 (8 * r + q) + n
    let s := { s with sched := { s.sched with winBytes := Tbl.set s.sched.winBytes 0 (8 * r + q) w } }
    if !dem && s.budget r q ≠ 0 && s.budget r q ≤ w then s.demote (8 * r + q) else s

/-! ### Transactions -/

/-- The transaction of a number. -/
def State.xact (s : State) (n : Nat) : Option Xact := s.flight.find? (fun x => x.id = n)

/-- Replaces a transaction. -/
def State.setX (s : State) (x : Xact) : State :=
  { s with flight := s.flight.map (fun y => if y.id = x.id then x else y) }

/-- Adds a transaction under a fresh number. -/
def State.addX (s : State) (x : Xact) : State :=
  { s with flight := s.flight ++ [{ x with id := s.nextId, seq := s.nextId }], nextId := s.nextId + 1 }

/-- Takes a transaction out: it is stored or delivered. -/
def State.dropX (s : State) (n : Nat) : State := { s with flight := s.flight.filter (fun x => x.id ≠ n) }

/-- A write, ACC or atomic (R183, R188). -/
def isWr : AccKind → Bool
  | .read => false
  | .fetch => false
  | _ => true

/-- The source of a transaction in the sense of R206: the fabric frame's Hive, the Hive's mesh interface, an edge unit,
or a port and channel inside its Hive. -/
def Xact.source (x : Xact) : Nat × Nat × Nat × Nat :=
  match x.srcChip with
  | some (c, h) => (1 + c, h, 0, 0)
  | none => if x.mesh then (0, x.srcUnit, 15, 0) else (0, x.srcUnit, x.srcPort, if x.srcPort = 3 then x.srcChan else 0)

/-- The party a record names for a transaction (R393). -/
def Xact.party (x : Xact) (chip : Nat) : Party :=
  match x.srcChip with
  | some (c, h) => { chip := c, unit := h, ctx := x.ctx, port := 4 }
  | none => { chip := chip, unit := x.srcUnit, ctx := x.ctx, port := x.srcPort, chan := x.srcChan }

/-! ### SLOT_MISS -/

/-- The element of SLOT_MISS_COUNT of a unit: Hive h, 256 + 32k + c for a channel, 512 + k for an FXP (R101, R115). -/
def missUnit (e : Nat) : Nat := if e < 256 then e else if e < 512 then uT1 ((e - 256) / 32) else uFx (e - 512)

/-- Raises SLOT_MISS at a counting element for a cause: counts it, and writes one record per epoch and unit (R101); a later miss of that epoch and
unit updates the count and the greatest lateness of that record, in the fault register and in the chip error table. `sigH` and `sigC` are the Hive
and context signalled; `rel` is the release position (epoch, period, position) where the record names that (R115). -/
def State.slotMiss (s : State) (e cause late res sigH sigC flow layer oper : Nat) (rel : Option (Nat × Nat × Nat) := none) : State :=
  let s := (s.cadd 0x2600 e 1).ctxAdd sigH sigC 10 1
  let m := Tbl.get s.sched.misses {} (missUnit e)
  let at_ := rel.getD (s.sched.epoch.toNat, s.period, (s.clk.now - s.sched.start) % 256)
  let r := genRec { code := 0x51, unit := missUnit e, ctx := sigC, obj := res, late := sat 65535 late, count := 1,
                    layer := layer, oper := oper, aux := pack [(7, 0, cause), (15, 8, at_.2.2), (31, 16, at_.2.1)],
                    port := flow % 16, chan := flow / 16, ga := at_.1 } s.clk.ts
  if m.count ≠ 0 ∧ m.epoch = s.sched.epoch then
    let m' := { m with count := m.count + 1, late := max m.late late }
    let old := Tbl.get s.hives.faultReg 0 (missUnit e)
    let upd := if recCode old = 0x51 then
        BitVec.ofNat 256 (setFld (setFld old.toNat 191 176 (sat 65535 m'.count)) 207 192 (sat 65535 m'.late))
      else old
    { s with sched := { s.sched with misses := Tbl.set s.sched.misses {} (missUnit e) m' },
             hives := { s.hives with faultReg := Tbl.set s.hives.faultReg 0 (missUnit e) upd },
             err := { s.err with table := s.err.table.map (fun r => if r.2 = old ∧ recCode old = 0x51 then (r.1, upd) else r) } }
  else
    let m' := { epoch := s.sched.epoch, cause := cause, count := 1, late := late : Miss }
    ({ s with sched := { s.sched with misses := Tbl.set s.sched.misses {} (missUnit e) m' } }.faultAt (missUnit e) r).pulse sigH sigC

/-- A matching SCHED request misses its cycle `t`: it goes on as an expired dynamic request with be = 0, its deadline the missed cycle of the
common count that began in cycle `c0` (R63, R99). -/
def Xact.missed (x : Xact) (t c0 : Nat) : Xact :=
  { x with sched := false, deadline := BitVec.ofNat 16 (t - c0), expired := some t, noBe := true }

/-- Counts a SCHED_MISMATCH and logs it, at most once per port of a Hive and period (R98). The record's count is that of the Hive's mismatches. -/
def State.mismatch (s : State) (h port layer oper : Nat) : State :=
  let n := Tbl.get s.sched.mmCount 0 h + 1
  let s := { s with sched := { s.sched with mmCount := Tbl.set s.sched.mmCount 0 h n } }
  let key := 4096 * s.period + 8 * h + port
  if s.sched.mismatch.contains key then s
  else
    let pos := (s.clk.now - s.sched.start) % 256
    { s with sched := { s.sched with mismatch := s.sched.mismatch.filter (fun k => k / 4096 = s.period) ++ [key] } }.faultAt h
      (genRec { code := 0x53, unit := h, port := port, obj := pos, layer := layer, oper := oper, count := sat 65535 n,
                ga := s.sched.epoch.toNat } s.clk.ts)

/-! ### Stored rows -/

/-- The key of a stored row: kind 0 main bank, 1 matrix store, 2 vector store; spare s of a bank is place 768 + s. -/
def rowKey (kind h bank i : Nat) : Nat := ((kind * 256 + h) * 64 + bank) * 1024 + i

/-- The element of REPAIR_MAP of a spare (R297). -/
def repairKey (kind h bank sp : Nat) : Nat :=
  if kind = 0 then 1024 * h + 16 * bank + sp
  else 262144 + 96 * h + 4 * (if kind = 1 then bank else 16 + bank) + sp

/-- Spares of a bank (R27, R37). -/
def spareCount (kind : Nat) : Nat := if kind = 0 then 16 else 4

/-- A REPAIR_MAP element. -/
def State.repairAt (s : State) (k : Nat) : BitVec 16 := Tbl.get s.err.repair 0 k

/-- The enabled spare that replaces a row (R31). -/
def State.spareFor (s : State) (kind h bank row : Nat) : Option Nat :=
  (List.range (spareCount kind)).find? (fun sp =>
    let e := (s.repairAt (repairKey kind h bank sp)).toNat
    bit e 15 && e % 1024 = row)

/-- The stored place of a logical row: the row itself or its spare (R31). -/
def State.rowPlace (s : State) (kind h bank row : Nat) : Nat :=
  rowKey kind h bank (match s.spareFor kind h bank row with
    | some sp => 768 + sp
    | none => row)

/-- The row is served by a spare that holds an uncorrectable row's data (R301). -/
def State.rowPz (s : State) (kind h bank row : Nat) : Bool :=
  match s.spareFor kind h bank row with
  | some sp => bit (s.repairAt (repairKey kind h bank sp)).toNat 14
  | none => false

/-- A stored row. -/
def State.rowAt (s : State) (place : Nat) : Row := Tbl.get s.mem.rows {} place

/-- Stores a row. -/
def State.setRow (s : State) (place : Nat) (r : Row) : State :=
  { s with mem := { s.mem with rows := Tbl.set s.mem.rows {} place r } }

/-- Kind, Hive, bank and row of a Hive location. -/
def Loc.rowId : Loc → Option (Nat × Nat × Nat × Nat)
  | .row h b r => some (0, h, b, r)
  | .mat h b r => some (1, h, b, r)
  | .vec h b r => some (2, h, b, r)
  | _ => Option.none

/-- The Hive-local address of the line of a location, or the offset of a sync word (R285). -/
def Loc.local : Loc → Nat
  | .row _ b r => r * 4096 + b * 64
  | .mat _ b r => 0x300000 + (16 * r + b) * 64
  | .vec _ b r => 0x330000 + (8 * r + b) * 64
  | .sync _ w => 8 * w
  | _ => 0

/-! ### The access at a bank -/

/-- What an access does to a row: the row after it, the data it returns, the granules found in error, whether one was
uncorrectable, whether it wrote, its bank cycles, and whether it covered all eight granules. -/
structure BankOut where
  row   : Row
  data  : Line
  gmask : Nat
  synd  : Nat
  bad   : Bool
  wrote : Bool
  cyc   : Nat
  whole : Bool
deriving DecidableEq, Repr

/-- The row after a write of whole granules (R29, R33). -/
def writeGrans (r : Row) (d : Line) (m : Dword) : Row :=
  if r.valid then
    let data := mergeLine r.data d m
    let chk := (touched m).foldl (fun (c : Dword) g =>
      mergeByte c g (checkByte (Line.gran data g))) r.chk
    { data := data, chk := chk, cells := 7 }
  else freshRow (mergeLine 0 d m)
where
  /-- A word with byte g replaced. -/
  mergeByte (c : Dword) (g : Nat) (b : Byte) : Dword := BitVec.ofNat 64 (setFld c.toNat (8 * g + 7) (8 * g) b.toNat)

/-- The new line of a read-modify-write (R34, R181, R188): a merge, an ACC line, or an atomic on the word at the lowest
byte of the mask. -/
def modify (kind : AccKind) (code : Nat) (old d : Line) (m : Dword) (off : Nat) : Line :=
  match kind with
  | .acc =>
    let o := if code = 3 then off / 32 * 32 else 0
    accLine code old d (if code = 3 then BitVec.ofNat 64 (m.toNat % 2^32 * 2^o) else m) o
  | .atomic =>
    let n := atomSize code
    let w := fld old.toNat (8 * (off + n) - 1) (8 * off)
    mergeLine old (BitVec.ofNat 512 (atomNew code w (d.toNat % 2^(8 * n)) * 2^(8 * off))) (byteMask off n)
  | _ => mergeLine old d m

/-- One access of a row (R29, R33, R34, R184, R280, R301). `off` is the first byte of the address in the line. -/
def bankAccess (r : Row) (pz : Bool) (kind : AccKind) (code : Nat) (m : Dword) (d : Line) (off : Nat) : BankOut :=
  if !isWr kind then
    if !r.valid then { row := r, data := 0, gmask := 0, synd := 0, bad := false, wrote := false, cyc := 1, whole := false }
    else
      let x := readGrans r (touched m)
      { row := r, data := x.data, gmask := x.gmask, synd := x.synd.toNat, bad := x.bad || pz, wrote := false, cyc := 1,
        whole := false }
  else if kind = .write ∧ !isPartial m then
    { row := writeGrans r d m, data := 0, gmask := 0, synd := 0, bad := false, wrote := true, cyc := 1, whole := m = fullMask }
  else
    let cyc := if kind = .write ∧ !r.valid then 1 else 2
    if !r.valid then
      { row := freshRow (modify kind code 0 d m off), data := 0, gmask := 0, synd := 0, bad := false, wrote := true,
        cyc := cyc, whole := false }
    else
      let x := readGrans r allGrans
      if x.bad || pz then
        { row := r, data := x.data, gmask := x.gmask, synd := x.synd.toNat, bad := true, wrote := false, cyc := cyc, whole := false }
      else
        { row := freshRow (modify kind code x.data d m off), data := x.data, gmask := x.gmask, synd := x.synd.toNat,
          bad := false, wrote := true, cyc := cyc, whole := false }

/-- The code of an uncorrectable outcome for a requester (R284). -/
def uncorrCode (x : Xact) : Nat :=
  if x.kind = .fetch then 0x40
  else if x.srcChip.isSome then 0x42
  else if x.srcUnit < 256 ∧ x.srcPort = 2 then 0x4A
  else if x.srcUnit < 256 ∧ x.srcPort = 3 then 0x41
  else 0x42

/-- The integrity event of an access (R285). -/
def accessEvent (x : Xact) (loc : Loc) (kind h : Nat) (bad spare : Bool) (gmask synd : Nat) : Integ :=
  { code := if bad then uncorrCode x else 0x46, kind := kind, gmask := gmask, synd := synd, port := x.srcPort,
    chan := x.srcChan % 16, unit := h, ctx := x.ctx, spare := spare, layer := x.layer.toNat, oper := x.operator.toNat,
    loc := loc.local }

/-- Records what an access found and signals the core that issued it (R286, R447). -/
def State.found (s : State) (x : Xact) (loc : Loc) (kind h : Nat) (bad spare : Bool) (gmask synd : Nat) : State :=
  if gmask = 0 ∧ !bad then s
  else
    let s := s.integrity (accessEvent x loc kind h bad spare gmask synd)
    if x.srcChip.isNone ∧ x.srcUnit < 256 then s.pulse x.srcUnit x.ctx else s

/-- Counts an event of the estimator (R365). -/
def State.pev (s : State) (k n : Nat) : State :=
  { s with power := { s.power with events := Tbl.set s.power.events 0 k (Tbl.get s.power.events 0 k + n) } }

/-- The majority fix of the valid cells (R28). -/
def State.fixCells (s : State) (place : Nat) (x : Xact) (loc : Loc) (kind h : Nat) (spare : Bool) : State :=
  let r := s.rowAt place
  if r.split then
    (s.setRow place { r with cells := if r.valid then 7 else 0 }).integrity
      (accessEvent x loc kind h false spare 0 0)
  else s

/-- A write to a row cancels a scrub write-back and marks a running MOVE's source line (R141, R293). -/
def State.rowTouched (s : State) (place h line : Nat) : State :=
  { s with
    err := { s.err with wbs := s.err.wbs.filter (fun w => w ≠ place) }
    hives := { s.hives with moves := s.hives.moves.map (fun m =>
      if m.hive = h ∧ m.src ≤ line ∧ line < m.src + m.lines then { m with dirty := addOnce m.dirty line } else m) } }

/-- The read of a line by a pass after the first of a MOVE clears the line's bit (R141 step 3). -/
def State.moveRead (s : State) (x : Xact) (h line : Nat) : State :=
  match x.purpose with
  | .dmaSrc d =>
    { s with hives := { s.hives with moves := s.hives.moves.map (fun m =>
      if m.hive = h ∧ m.pass ≠ 0 ∧ m.slot / 512 = x.srcUnit ∧ m.chan = x.srcChan ∧ m.desc = d then { m with dirty := without m.dirty line } else m) } }
  | _ => s

/-- Clears pz once a write has covered all eight granules of a spare's row (R301). -/
def State.clearPz (s : State) (kind h bank row : Nat) : State :=
  match s.spareFor kind h bank row with
  | some sp =>
    let k := repairKey kind h bank sp
    { s with err := { s.err with repair := Tbl.set s.err.repair 0 k (s.repairAt k &&& 0xBFFF) } }
  | none => s

/-- Performs an access of a Hive row: the state after it and what it found. -/
def State.rowAccess (s : State) (x : Xact) (loc : Loc) (kind h bank row : Nat) : State × BankOut :=
  let spare := (s.spareFor kind h bank row).isSome
  let place := s.rowPlace kind h bank row
  let s := s.fixCells place x loc kind h spare
  let o := bankAccess (s.rowAt place) (s.rowPz kind h bank row) x.kind x.code.toNat x.mask x.data (x.ga.toNat % 64)
  let s := s.found x loc kind h o.bad spare o.gmask o.synd
  let s := if kind = 0 then s.pev 0 o.cyc else s.pev 2 o.cyc
  let s := if x.kind = .acc ∨ x.kind = .atomic then s.pev 1 1 else s
  if o.wrote then
    let s := (s.setRow place o.row).rowTouched place h (loc.local / 64)
    (if o.whole then s.clearPz kind h bank row else s, o)
  else (s.moveRead x h (loc.local / 64), o)

/-! ### Sync words -/

/-- A sync-page word (R227). -/
def State.syncAt (s : State) (h w : Nat) : Word8 := Tbl.get s.mem.sync {} (8192 * h + w)

/-- The place of a sync-page word among the write-backs of R293, beside the keys of rows. -/
def syncKey (h w : Nat) : Nat := 2^30 + 8192 * h + w

/-- Stores a sync-page word with its check byte. -/
def State.setSync (s : State) (h w : Nat) (d : Dword) : State :=
  { s with mem := { s.mem with sync := Tbl.set s.mem.sync {} (8192 * h + w)
                                         { data := d, chk := checkByte d } }
           err := { s.err with wbs := s.err.wbs.filter (fun k => k ≠ syncKey h w) } }

/-- A wait cell as decoded (R280). -/
def State.cellVal (s : State) (h w : Nat) : Dword :=
  match decodeGran (s.syncAt h w).data (s.syncAt h w).chk with
  | .corr d _ => d
  | _ => (s.syncAt h w).data

/-- Queues a release pass on a cell, with the party whose change queued it (R228, R394). -/
def State.queuePass (s : State) (h cell : Nat) (p : Party) : State :=
  let q := Tbl.get s.hives.passes [] h
  { s with hives := { s.hives with passes := Tbl.set s.hives.passes [] h (q ++ [{ cell := cell, src := p.packed }]) } }

/-- The release-pass queue of a Hive holds its 16 passes (R228). -/
def State.passFull (s : State) (h : Nat) : Bool := 16 ≤ (Tbl.get s.hives.passes [] h).length

/-- A change of a wait cell: the word is stored and its release pass queued (R228). -/
def State.cellWrite (s : State) (h w : Nat) (d : Dword) (p : Party) : State := (s.setSync h w d).queuePass h w p


/-- A command's completion cell is named within a sync page or not at all (R79). -/
def State.cellOk (s : State) (cell : Nat) : Bool :=
  cell = 0 || (match s.locate cell with
    | .sync _ _ => true
    | _ => false)

/-! ### Barriers -/

/-- Barrier cell b of a Hive (R234). -/
def State.barrier (s : State) (h b : Nat) : Barrier := Tbl.get s.hives.barriers {} (32 * h + b)

/-- STATE of a barrier cell (R234). -/
def Barrier.state (b : Barrier) : Dword :=
  dwordOf [(63, 56, popCount 64 b.arrived.toNat), (55, 48, popCount 64 b.held.toNat), (47, 0, b.gen.toNat)]

/-- Word j of a barrier cell (R234). -/
def Barrier.word (b : Barrier) (j : Nat) : Dword :=
  match j with
  | 1 => b.state
  | 2 => b.mask
  | 3 => b.arrived
  | _ => 0

/-- Stores a barrier cell; each word that changes takes a fresh check (R227). Of a barrier word the sync table lists what its check byte
differs from the code by. -/
def State.setBarrier (s : State) (h b : Nat) (x : Barrier) : State :=
  let old := s.barrier h b
  let sync := [1, 2, 3].foldl (fun t j =>
    if old.word j = x.word j then t else Tbl.erase t (8192 * h + 8064 + 4 * b + j)) s.mem.sync
  { s with hives := { s.hives with barriers := Tbl.set s.hives.barriers {} (32 * h + b) x }, mem := { s.mem with sync := sync } }

/-- Completes generations: while ARRIVED equals a non-zero MASK the generation rises and the held arrivals are counted
in the new one (R235). Held arrivals become counted at once, so the test repeats at most once. -/
def Barrier.settle (b : Barrier) : Barrier :=
  let once := fun (b : Barrier) =>
    if b.mask ≠ 0 ∧ b.arrived = b.mask then { b with gen := b.gen + 1, arrived := b.held, held := 0 } else b
  once (once b)

/-- The record of BARRIER_STRAY or BARRIER_REENTRY: barrier, participant, discard flag, source and generation (R235). -/
def State.barrierLog (s : State) (code h b p disc : Nat) (src : Party) : State :=
  let aux := pack [(0, 0, disc), (9, 1, src.unit), (19, 10, src.chip)]
  s.faultAt h (genRec ⟨code, h, src.ctx, src.port, src.chan, b, p, 0, 0, 0, aux, (s.barrier h b).gen.toNat⟩ s.clk.ts)

/-- The trace record of a held arrival, with the cycles it was held (R392). -/
def heldRec (h b p disc wait : Nat) (src : Party) : TraceF := { kind := 0x06, unit := h, src := src, obj := b, wait := wait, aux := p + 64 * disc }

/-- An arrival of participant p (R235). -/
def State.arrive (s : State) (h b p : Nat) (src : Party) : State :=
  let c := s.barrier h b
  let bitp : Dword := BitVec.ofNat 64 (2^p)
  if c.mask &&& bitp = 0 then s.barrierLog 0x34 h b p 0 src
  else if c.arrived &&& bitp = 0 then
    let first := if c.arrived = 0 then s.clk.now else c.first
    let c1 := { c with arrived := c.arrived ||| bitp, first := first }
    let c2 := c1.settle
    let s := s.setBarrier h b (if c2.gen = c1.gen then { c2 with first := first } else { c2 with first := s.clk.now, heldBy := [] })
    if c2.gen = c1.gen then s
    else
      let f : TraceF := { kind := 0x05, unit := h, src := src, obj := b, wait := s.clk.now - first, aux := c2.gen.toNat }
      let s := c.heldBy.foldl (fun s e => s.traceGen (heldRec h b e.1 0 (s.clk.now - e.2.1) (unpackParty e.2.2))) (s.traceGen f)
      s.queuePass h (8064 + 4 * b + 1) src
  else if c.held &&& bitp = 0 then
    (s.setBarrier h b { c with held := c.held ||| bitp, heldBy := c.heldBy ++ [(p, s.clk.now, src.packed)] }).barrierLog 0x31 h b p 0 src
  else (s.barrierLog 0x31 h b p 1 src).traceGen (heldRec h b p 1 0 src)

/-! ### An access at the sync page -/

/-- A read of a sync-page word as software sees it: wait cells as stored, barrier words by R234. -/
def State.syncRead (s : State) (h w : Nat) : Dword :=
  if w < 8064 then (s.syncAt h w).data
  else (s.barrier h ((w - 8064) / 4)).word ((w - 8064) % 4)

/-- A sync-page word as stored, with its check byte (R227, R279). -/
def State.syncRaw (s : State) (h w : Nat) : Word8 :=
  if w < 8064 then s.syncAt h w
  else
    let d := s.syncRead h w
    { data := d, chk := checkByte d ^^^ (s.syncAt h w).chk }

/-- A sync-page word as decoded (R280). -/
def State.syncVal (s : State) (h w : Nat) : Dword :=
  match decodeGran (s.syncRaw h w).data (s.syncRaw h w).chk with
  | .corr d _ => d
  | _ => (s.syncRaw h w).data

/-- A write of MASK, ignored while any arrival is counted or held (R234). -/
def State.maskWrite (s : State) (h b : Nat) (d : Dword) : State :=
  let c := s.barrier h b
  if c.arrived = 0 ∧ c.held = 0 then
    let s := s.setBarrier h b { c with mask := d }
    { s with mem := { s.mem with sync := Tbl.erase s.mem.sync (8192 * h + 8064 + 4 * b + 2) } }
  else s

/-- Stores a sync-page word and its check byte as given. Of STATE the generation alone is stored; ARRIVE stores nothing (R234). -/
def State.setSyncRaw (s : State) (h w : Nat) (d : Dword) (c : Byte) : State :=
  let put := fun (s : State) (v : Word8) => { s with mem := { s.mem with sync := Tbl.set s.mem.sync {} (8192 * h + w) v } }
  if w < 8064 then put s { data := d, chk := c }
  else
    let b := (w - 8064) / 4
    let x := s.barrier h b
    let s := s.setBarrier h b (match (w - 8064) % 4 with
      | 1 => { x with gen := BitVec.ofNat 48 d.toNat }
      | 2 => { x with mask := d }
      | 3 => { x with arrived := d }
      | _ => x)
    put s { data := 0, chk := c ^^^ checkByte (s.syncRead h w) }

/-- The outcome of an access of the sync page: the state, the word returned, an uncorrectable granule, and the cycles. -/
structure SyncOut where
  s    : State
  data : Dword
  bad  : Bool
  cyc  : Nat

/-- Performs an access of a sync-page word (R227, R228, R234). `m` and `d` are of the word. -/
def State.syncAccess (s : State) (x : Xact) (h w : Nat) (m : Byte) (d : Dword) : SyncOut :=
  let p := if x.purpose = .cellAdd then unpackParty x.by_ else x.party s.chipId
  let e := s.syncRaw h w
  let dec := decodeGran e.data e.chk
  let bad := match dec with
    | .bad _ => true
    | _ => false
  let val := match dec with
    | .corr v _ => v
    | _ => s.syncRead h w
  let synd := match dec with
    | .bad y => y.toNat
    | .corr _ y => y.toNat
    | .clean => 0
  let judged := !isWr x.kind || x.kind = .atomic || m ≠ 255
  let s := if judged && (synd ≠ 0) then s.found x (.sync h w) 3 h bad false 1 synd else s
  if !isWr x.kind then { s := s, data := val, bad := bad, cyc := 1 }
  else if bad && judged then { s := s, data := val, bad := true, cyc := 2 }
  else if w < 8064 then
    match x.kind with
    | .atomic =>
      let n := atomSize x.code.toNat
      let off := x.ga.toNat % 8
      let old := fld val.toNat (8 * (off + n) - 1) (8 * off)
      let new := atomNew x.code.toNat old (d.toNat % 2^(8 * n))
      { s := s.cellWrite h w (BitVec.ofNat 64 (setFld val.toNat (8 * (off + n) - 1) (8 * off) new)) p,
        data := val, bad := false, cyc := 2 }
    | _ =>
      let full := (List.range 8).foldl (fun a i => if m.getLsbD i then a + 255 * 2^(8 * i) else a) 0
      let fm : Dword := BitVec.ofNat 64 full
      { s := s.cellWrite h w ((val &&& ~~~fm) ||| (d &&& fm)) p, data := 0, bad := false, cyc := if m = 255 then 1 else 2 }
  else
    let b := (w - 8064) / 4
    let cyc := if m = 255 then 1 else 2
    match (w - 8064) % 4, x.kind with
    | 0, .atomic => { s := s.arrive h b (d.toNat % 64) p, data := (s.barrier h b).state, bad := false, cyc := 2 }
    | 0, _ => { s := s.arrive h b (d.toNat % 64) p, data := 0, bad := false, cyc := cyc }
    | _, .atomic => { s := s, data := val, bad := false, cyc := 2 }
    | 2, _ => { s := s.maskWrite h b d, data := 0, bad := false, cyc := cyc }
    | _, _ => { s := s, data := 0, bad := false, cyc := cyc }

end Sys2Proof.Machine
end

