-- ==== Sys2Proof/Machine/Forward.lean ====
section
/-!
DEFINITION. Forward.lean: frames toward other chips (R130, R131, R415) and the copies of mirrored writes on their way to
the partner (R19 to R21, R320 to R330).
-/
namespace Sys2Proof.Machine

/-! ### Frames sent -/

/-- The FXP a frame for a chip leaves by (R131). -/
def State.fxpOf (s : State) (chip : Nat) : Nat := s.pv 0x1013 chip

/-- The key of a count kept per FXP and chip. -/
def fxKey (k chip : Nat) : Nat := 1024 * k + chip

/-- The next send index of an FXP toward a chip (R415), and the state with it drawn. -/
def State.drawIdx (s : State) (k chip : Nat) : Nat × State :=
  let i := Tbl.get s.fxps.sendIdx 0 (fxKey k chip) + 1
  (i, { s with fxps := { s.fxps with sendIdx := Tbl.set s.fxps.sendIdx 0 (fxKey k chip) i } })

/-- Lines the retransmit buffer of an FXP holds; a frame without payload holds one place. -/
def State.retained (s : State) (k : Nat) : Nat :=
  (s.fxps.retain.filter (fun r => r.fxp = k)).foldl (fun a r => a + max 1 r.frame.payload.length) 0 +
    (s.fxps.mretain.foldl (fun a r => a + max 1 r.frame.payload.length) 0) *
      b2n (s.fxpOf (s.pv 0x5000 0) = k)

/-- The FXP accepts a frame: it keeps it until its delivery is reported (R206, R415). -/
def State.sendFrame (s : State) (kind : Nat) (f : Frame) : State :=
  let k := s.fxpOf f.dstChip.val
  let d := s.drawIdx k f.dstChip.val
  let r : Retain := { fxp := k, chip := f.dstChip.val, idx := d.1, kind := BitVec.ofNat 8 kind, frame := f, ts := s.clk.ts }
  let recent := if kind = 0x28 ∨ d.2.fxps.recent.contains (k, f.dstChip.val) then d.2.fxps.recent else d.2.fxps.recent ++ [(k, f.dstChip.val)]
  { d.2 with fxps := { d.2.fxps with retain := d.2.fxps.retain ++ [r], recent := recent } }.pev 9 f.payload.length

/-- The key under which the Mirror Unit's bytes of the window stand beside the resources of R105 (R109). -/
def mirrorWinKey : Nat := 8 * 0xB00

/-- Bytes of mirror frames the Mirror Unit may send in a window (R109). -/
def mirrorWinBytes : Nat := 364088

/-- Bytes of a mirror frame with `n` lines: its header and its payload (R326). -/
def mframeSize (n : Nat) : Nat := 32 + 64 * n

/-- A mirror frame with `n` lines fits in what the Mirror Unit may still send in this window (R109). -/
def State.mirrorFits (s : State) (n : Nat) : Bool :=
  decide (Tbl.get s.sched.winBytes 0 mirrorWinKey + mframeSize n ≤ mirrorWinBytes)

/-- The FXP accepts a mirror frame, which counts there in MIRROR_CLASS and among the Mirror Unit's bytes of the window (R109, R111, R114). -/
def State.sendM (s : State) (kind : Nat) (f : MFrame) : State :=
  let p := s.pv 0x5000 0
  let k := s.fxpOf p
  let n := mframeSize f.payload.length
  let s := s.account (0xA10 + 2 * k) (s.act 0x2010 0) n false
  let s := { s with sched := { s.sched with
    winBytes := Tbl.set s.sched.winBytes 0 mirrorWinKey (Tbl.get s.sched.winBytes 0 mirrorWinKey + n) } }
  let d := s.drawIdx k p
  let r : MRetain := { idx := d.1, kind := BitVec.ofNat 8 kind, frame := f }
  let recent := if d.2.fxps.recent.contains (k, p) then d.2.fxps.recent else d.2.fxps.recent ++ [(k, p)]
  ({ d.2 with fxps := { d.2.fxps with mretain := d.2.fxps.mretain ++ [r], recent := recent } }.cadd 0x6400 0 1).cadd 0x6400 1 f.payload.length |>.pev 9 (2 * f.payload.length)

/-- A frame goes out, or stands behind those that wait: for room in the window (R109), or for the end of a supply hold, which keeps back every
frame but MHEART, MACK and MFENCE (R377). -/
def State.offerM (s : State) (kind : Nat) (f : MFrame) : State :=
  let held := s.power.hold && kind ≠ 0x43 && kind ≠ 0x44 && kind ≠ 0x45
  let behind := if kind = 0x43 ∨ kind = 0x44 then !s.power.hold && !s.mirror.heldOut.isEmpty else !s.mirror.heldOut.isEmpty
  if held || behind || !s.mirrorFits f.payload.length then
    { s with mirror := { s.mirror with heldOut := s.mirror.heldOut ++ [(kind, f)] } }
  else s.sendM kind f

/-- The frames that wait go out in their order while they may. -/
def State.sendHeld : Nat → State → State
  | 0, s => s
  | n + 1, s =>
    match s.mirror.heldOut with
    | [] => s
    | o :: t =>
      if s.power.hold || !s.mirrorFits o.2.payload.length then s
      else State.sendHeld n ({ s with mirror := { s.mirror with heldOut := t } }.sendM o.1 o.2)

/-- CHIP_ID as a frame field. -/
def chipFin (n : Nat) : ChipId := ⟨n % 1024, Nat.mod_lt _ (by decide)⟩
/-- A Hive number as a frame field. -/
def hiveFin (n : Nat) : HiveId := ⟨n % 256, Nat.mod_lt _ (by decide)⟩
/-- A window or register number of five bits. -/
def fin32 (n : Nat) : Fin 32 := ⟨n % 32, Nat.mod_lt _ (by decide)⟩
/-- A class. -/
def fin8 (n : Nat) : Fin 8 := ⟨n % 8, Nat.mod_lt _ (by decide)⟩
/-- A region index. -/
def fin64 (n : Nat) : Fin 64 := ⟨n % 64, Nat.mod_lt _ (by decide)⟩

/-- The bytes of payload lines. -/
def lineBytes (ls : List Line) : List Byte := (ls.map (fun l => natBytes 64 l.toNat)).flatten

/-- Payload lines from bytes. -/
def bytesLines : Nat → List Byte → List Line
  | 0, _ => []
  | n + 1, bs => if bs.isEmpty then [] else BitVec.ofNat 512 (bytesNat (bs.take 64)) :: bytesLines n (bs.drop 64)

/-- A cross-chip frame as bytes: its header and its payload (R132). -/
def frameBytes (kind : Nat) (f : Frame) : List Byte :=
  natBytes 32 (pack [(255, 248, kind), (247, 238, f.srcChip.val), (237, 230, f.srcHive.val), (229, 220, f.dstChip.val), (219, 215, f.win.val),
    (214, 207, f.winGen.toNat), (206, 204, f.qos.val), (203, 203, b2n f.sched), (202, 195, f.relEpoch.toNat), (194, 179, f.relPeriod.toNat),
    (178, 171, f.relPos.toNat), (170, 168, f.payload.length), (167, 164, f.op.toNat), (163, 148, f.count.toNat), (147, 100, f.ga.toNat),
    (99, 84, f.layer.toNat), (83, 68, f.operator.toNat), (63, 0, f.mask.toNat)]) ++ lineBytes f.payload

/-- A mirror frame as bytes (R326). -/
def mframeBytes (kind dst : Nat) (f : MFrame) : List Byte :=
  natBytes 32 (pack [(255, 248, kind), (247, 238, f.srcChip.val), (229, 220, dst), (219, 214, f.region.val), (213, 211, f.lines.toNat),
    (210, 207, f.op.toNat), (206, 200, f.flags.toNat), (199, 152, f.seq.toNat), (151, 104, f.ack.toNat), (103, 64, f.off.toNat),
    (63, 0, f.mask.toNat)]) ++ lineBytes f.payload

/-- The cross-chip frame that bytes hold (R132), for the Hive it is bound for. -/
def frameOf (bs : List Byte) (dst : Nat) : Frame :=
  let v := bytesNat (bs.take 32)
  { srcChip := chipFin (fld v 247 238), srcHive := hiveFin (fld v 237 230), dstChip := chipFin (fld v 229 220), win := fin32 (fld v 219 215),
    winGen := BitVec.ofNat 8 (fld v 214 207), qos := fin8 (fld v 206 204), sched := bit v 203, relEpoch := BitVec.ofNat 8 (fld v 202 195),
    relPeriod := BitVec.ofNat 16 (fld v 194 179), relPos := BitVec.ofNat 8 (fld v 178 171), op := BitVec.ofNat 4 (fld v 167 164),
    count := BitVec.ofNat 16 (fld v 163 148), ga := BitVec.ofNat 48 (fld v 147 100), layer := BitVec.ofNat 16 (fld v 99 84),
    operator := BitVec.ofNat 16 (fld v 83 68), mask := BitVec.ofNat 64 (fld v 63 0), dstHive := hiveFin dst, payload := bytesLines 4 (bs.drop 32) }

/-- The mirror frame that bytes hold (R326). -/
def mframeOf (bs : List Byte) : MFrame :=
  let v := bytesNat (bs.take 32)
  { srcChip := chipFin (fld v 247 238), region := fin64 (fld v 219 214), lines := BitVec.ofNat 3 (fld v 213 211), op := BitVec.ofNat 4 (fld v 210 207),
    flags := BitVec.ofNat 7 (fld v 206 200), seq := BitVec.ofNat 48 (fld v 199 152), ack := BitVec.ofNat 48 (fld v 151 104),
    off := BitVec.ofNat 40 (fld v 103 64), mask := BitVec.ofNat 64 (fld v 63 0), payload := bytesLines 4 (bs.drop 32) }



/-! ### Mirrored regions -/

def mrState (q : Quad) : Nat := fld q.toNat 127 125
def mrSync (q : Quad) : Bool := bit q.toNat 124
def mrEn (q : Quad) : Bool := bit q.toNat 123
def mrCopy (q : Quad) : Nat := fld q.toNat 99 64
def mrPages (q : Quad) : Nat := fld q.toNat 63 36
def mrBase (q : Quad) : Nat := fld q.toNat 35 0

/-- MIRROR_REGION element i (R320). -/
def State.mregion (s : State) (i : Nat) : Quad := Tbl.get s.mirror.region 0 i

/-- MIRROR_RESERVE element i (R321). -/
def State.mreserve (s : State) (i : Nat) : Quad := Tbl.get s.mirror.reserve 0 i

/-- Stores a region element. -/
def State.setRegion (s : State) (i : Nat) (q : Quad) : State :=
  { s with mirror := { s.mirror with region := Tbl.set s.mirror.region 0 i q } }

/-- Stores a reserve element. -/
def State.setReserve (s : State) (i : Nat) (q : Quad) : State :=
  { s with mirror := { s.mirror with reserve := Tbl.set s.mirror.reserve 0 i q } }

/-- An element with another state. -/
def withMrState (q : Quad) (st : Nat) : Quad := BitVec.ofNat 128 (setFld q.toNat 127 125 st)

/-- The element that covers a page run at a GA page. -/
def mrCovers (q : Quad) (page : Nat) : Bool := decide (mrBase q ≤ page ∧ page < mrBase q + mrPages q)

/-- The enabled region that holds an address (R320, R323). -/
def State.regionOf (s : State) (ga : Nat) : Option Nat :=
  (List.range 64).find? (fun i => mrEn (s.mregion i) && mrCovers (s.mregion i) (ga / 4096))

/-- Writes of a region are forwarded: SEEDING or ACTIVE (R322). -/
def State.forwards (s : State) (i : Nat) : Bool := mrState (s.mregion i) = 1 || mrState (s.mregion i) = 2

/-- The element of MIRROR_RESERVE that holds an address of this member's tier 1 (R321). -/
def State.reserveOf (s : State) (ga : Nat) : Option Nat :=
  (List.range 64).find? (fun i =>
    let q := s.mreserve i
    mrState q ≠ 0 && mrPages q ≠ 0 && mrCovers q (ga / 4096))

/-- The Mirror Unit may send sequenced frames: the pair runs or restores, and no supply hold stands (R335, R377). -/
def State.mayMirror (s : State) : Bool :=
  !s.power.hold && (s.mirror.st = .paired || s.mirror.st = .restoring || s.mirror.st = .leaving || s.mirror.st = .joining ||
    s.mirror.st = .solo)

/-- A mirror frame of this member, with its number unless it is unsequenced (R326, R327). -/
def State.mframe (s : State) (region op flags seq ack off : Nat) (mask : Dword) (payload : List Line) : MFrame :=
  { srcChip := chipFin s.chipId, region := fin64 region, lines := BitVec.ofNat 3 payload.length, op := BitVec.ofNat 4 op, flags := BitVec.ofNat 7 flags,
    seq := BitVec.ofNat 48 seq, ack := BitVec.ofNat 48 ack, off := BitVec.ofNat 40 off, mask := mask, payload := payload }

/-- Sends a sequenced mirror frame under the next number, and what waits for its MACK (R20, R327). An MREQ asks for one line. -/
def State.sendSeq (s : State) (kind region op flags off : Nat) (mask : Dword) (payload : List Line) (w : List MWait)
    (async : Bool) : State :=
  let n := s.mirror.sendSeq
  let m : MSent := { seq := n, lines := payload.length, async := async, region := region, at_ := s.clk.now }
  let f := s.mframe region op flags n 0 off mask payload
  let f := if kind = 0x47 then { f with lines := 1 } else f
  let t := s.offerM kind f
  { t with
    mirror := { t.mirror with
      sendSeq := n + 1
      waits := t.mirror.waits ++ w.map (fun x => (n, x))
      flight := t.mirror.flight ++ [m] } }

/-- Lines waiting in the forward queue of an applying unit (R325). -/
def State.fwdQueue (s : State) (u : Nat) : Nat :=
  (s.flight.filter (fun x => x.stage = .mirrorQueue && x.unit = u)).length

/-- Sends one copy: an MWRITE or MACC with its region's flags, counted for the lag when its region is ASYNC (R19,
R329, R330). A copy carries its write's number in `tag`, SEED as its purpose and LAST in `dir`. -/
def State.sendCopy (s : State) (x : Xact) : State :=
  let q := s.mregion x.dest
  let seed := match x.purpose with
    | .mirrorSeed _ => true
    | _ => false
  let flags := b2n (mrSync q && !seed) + 2 * b2n seed + 4 * x.dir
  let off := x.ga.toNat - 4096 * mrBase q
  let off := if x.kind = .acc ∧ x.code = 3 then off else off / 64 * 64
  let w := (if mrSync q && !seed && x.tag ≠ 0 then [MWait.write x.tag] else []) ++
    (if seed && x.dir = 1 then [MWait.last x.dest] else [])
  s.sendSeq (if x.kind = .acc then 0x41 else 0x40) x.dest x.code.toNat flags off x.mask [x.data] w (!mrSync q && !seed)

/-- The Mirror Unit has room for a further copy in this window (R109). -/
def State.mirrorRoom (s : State) : Bool :=
  s.mayMirror && s.mirror.heldOut.isEmpty && s.mirrorFits 1

/-- Hands a copy to the Mirror Unit: it is sent at once, or waits in the unit's forward queue behind earlier copies
(R19, R20, R325). -/
def State.putCopy (s : State) (x : Xact) : State :=
  if s.mirrorRoom && s.fwdQueue x.unit = 0 then s.sendCopy x else s.addX { x with stage := .mirrorQueue, since := s.clk.now }

/-- Sends the copies that wait, in the order in which they arrived (R20). -/
def State.drainCopies : Nat → State → State
  | 0, s => s
  | n + 1, s =>
    if !s.mirrorRoom then s
    else match s.flight.find? (fun x => x.stage = .mirrorQueue) with
      | some x => State.drainCopies n ((s.sendCopy x).dropX x.id)
      | none => s

/-- Forwards what a write of a mirrored region left (R19, R324): `mask` and `line` as R324 gives them. A dynamic write is
held before it meets a full queue; a SCHED write's copy that finds it full is dropped and the region seeds anew (R325). -/
def State.forward (s : State) (u : Nat) (x : Xact) (kind : AccKind) (mask : Dword) (line : Line) : State :=
  match s.regionOf x.ga.toNat with
  | none => s
  | some i =>
    let q := s.mregion i
    if !s.forwards i then s
    else if 1024 ≤ s.fwdQueue u then
      let t := s.setRegion i (withMrState q 1)
      let t := { t with mirror := { t.mirror with prog := Tbl.set t.mirror.prog {} i {}, waits := t.mirror.waits.filter (fun w => w.2 ≠ MWait.last i) } }
      t.raise { code := 0x7B, unit := u, obj := i, ga := x.ga.toNat, layer := x.layer.toNat, oper := x.operator.toNat }
    else
      s.putCopy { x with kind := kind, mask := mask, data := line, unit := u, dest := i, tag := x.id, dir := 0,
                         purpose := .engine, half := .request }

/-- A dynamic access that a mirrored region keeps from being applied: a full queue (R325), the lag bound (R330), a fenced
member (R335), or a region or copy being restored (R337). -/
def State.mirrorHold (s : State) (u : Nat) (x : Xact) : Bool :=
  let wr := isWr x.kind
  (match s.regionOf x.ga.toNat with
   | some i =>
     let q := s.mregion i
     mrState q = 4 ||
     (wr && !x.sched && s.forwards i && 1024 ≤ s.fwdQueue u) ||
     (wr && !x.sched && !mrSync q && s.mirror.throttle && s.forwards i) ||
     (wr && s.mirror.st = .fenced)
   | none => false) ||
  (match s.reserveOf x.ga.toNat with
   | some i => mrState (s.mreserve i) = 5 && (Tbl.get s.mirror.prog {} (64 + i)).final
   | none => false)

/-- A write of this member to a copy that is being restored marks its line (R337). -/
def State.copyTouched (s : State) (ga : Nat) : State :=
  match s.reserveOf ga with
  | some i =>
    if mrState (s.mreserve i) = 5 then
      let p := Tbl.get s.mirror.prog {} (64 + i)
      let p := { p with dirty := addOnce p.dirty ((ga - 4096 * mrBase (s.mreserve i)) / 64) }
      { s with mirror := { s.mirror with prog := Tbl.set s.mirror.prog {} (64 + i) p } }
    else s
  | none => s

/-- The range of a copy that this member keeps for its partner and may not use: RESERVED, SEEDING or HOLDING (R321). A copy being restored is
served until its last pass ends (R337). -/
def State.copyKept (s : State) (ga : Nat) : Bool :=
  match s.reserveOf ga with
  | some i => mrState (s.mreserve i) = 1 || mrState (s.mreserve i) = 2 || mrState (s.mreserve i) = 3
  | none => false

/-- An address in the trace buffer, which only the appenders reach (R399). -/
def State.inTrace (s : State) (ga : Nat) : Bool :=
  s.err.extents.any (fun e => e.kind = 3 && decide (e.base ≤ ga) && decide (ga < e.base + e.len))

/-- The member is PAIRED and its partner not yet given up (R333 step 3). -/
def State.paired (s : State) : Bool := s.mirror.st = .paired && !s.mirror.replay

/-- The write waits for its copy's MACK (R21, R329). -/
def State.mirrorWaits (s : State) (x : Nat) : Bool :=
  s.mirror.waits.any (fun w => w.2 = .write x) ||
    s.flight.any (fun y => y.stage = .mirrorQueue && y.tag = x && mrSync (s.mregion y.dest) && y.purpose = .engine)

end Sys2Proof.Machine
end

