-- ==== Sys2Proof/Machine/Issue.lean ====
section
/-!
DEFINITION. Issue.lean: from a port to its bank, store or the mesh: issue checks (R47 to R60, R98, R219 to R225), the
presentation of a request (R40, R41, R62), its refusal and the record of R49.
-/
namespace Sys2Proof.Machine

/-! ### Bytes of a request -/

/-- The address its mask counts from: its line, or for pair 0x3 its first stored byte (R180). -/
def Xact.base (x : Xact) : Nat :=
  if x.kind = .acc ∧ x.code = 3 then x.ga.toNat / 32 * 32 else x.ga.toNat / 64 * 64

/-- A fill or copy command, which FILL_CMD_RECV performs at its unit (R165, R166). -/
def Xact.isFill (x : Xact) : Bool :=
  match x.purpose with
  | .fill _ _ => true
  | _ => false

/-- Bytes that a fill or copy command writes. -/
def Xact.runLen (x : Xact) : Nat := fld x.data.toNat 127 64

/-- First byte of a copy command's source (R166). -/
def Xact.runSrc (x : Xact) : Nat := fld x.data.toNat 175 128

/-- Lines that a fill or copy command writes. -/
def Xact.runCount (x : Xact) : Nat := (x.ga.toNat + x.runLen - 1) / 64 - x.ga.toNat / 64 + 1

/-- A line of a fill or copy command, which its target unit accesses itself (R165, R166). -/
def Xact.isRun (x : Xact) : Bool :=
  match x.purpose with
  | .run _ => true
  | _ => false

/-- First byte of a request's bytes in GA. -/
def Xact.lo (x : Xact) : Nat := if x.isFill then x.ga.toNat else x.base + (lowBit 64 x.mask.toNat).getD 0

/-- The byte past a request's last. -/
def Xact.hi (x : Xact) : Nat :=
  if x.isFill then x.ga.toNat + x.runLen
  else x.base + (((List.range 64).filter (fun i => x.mask.getLsbD i)).getLastD 0) + 1

/-- Bytes of a request. -/
def Xact.bytes (x : Xact) : Nat := if x.isFill then x.runLen else popCount 64 x.mask.toNat

/-- The descriptor or job a request belongs to. -/
def Xact.desc : Xact → Option Nat := fun x =>
  match x.purpose with
  | .dmaSrc d => some d
  | .dmaDst d _ => some d
  | .fill d _ => some d
  | .jobList s _ => some s
  | .jobSlice s _ _ => some s
  | .jobOut s _ => some s
  | _ => none

/-! ### Arbiters -/

/-- A number for each arbiter. -/
def arbKey : Sys2Proof.Arbiter → Nat
  | .main h b => 64 * h.val + b.val
  | .mat h b => 0x10000 + 16 * h.val + b.val
  | .vec h b => 0x20000 + 8 * h.val + b.val
  | .sync h => 0x30000 + h.val
  | .inject h => 0x40000 + h.val

/-- The arbiter a location is served behind. -/
def Loc.arb : Loc → Nat
  | .row h b _ => 64 * h + b
  | .mat h b _ => 0x10000 + 16 * h + b
  | .vec h b _ => 0x20000 + 8 * h + b
  | .sync h _ => 0x30000 + h
  | _ => 0x50000

/-- The arbiter granted in a cycle and its occupancy: the first cycle in which it may grant again. -/
def State.freeAt (s : State) (k : Nat) : Nat := Tbl.get s.hives.busy 0 k

/-- Marks an arbiter occupied for `n` cycles from now. -/
def State.occupy (s : State) (k n : Nat) : State :=
  { s with hives := { s.hives with busy := Tbl.set s.hives.busy 0 k (s.clk.now + n) } }

/-- A Hive is not idle in this cycle (R103). -/
def State.active (s : State) (h : Nat) : State :=
  { s with hives := { s.hives with active := Tbl.set s.hives.active 0 h s.clk.now } }

/-- Cycle from which a Hive serves: its wake when it is waking (R103, R104). -/
def State.servesAt (s : State) (h : Nat) : Nat :=
  match s.clockOf h with
  | .waking t => max s.clk.now t
  | _ => s.clk.now

/-- The Hive is WARM or has not finished waking (R104). -/
def State.asleep (s : State) (h : Nat) : Bool :=
  match s.clockOf h with
  | .warm => true
  | .waking _ => true
  | _ => false

/-- A request that reaches a WARM Hive wakes it in 4 cycles (R103, R104). -/
def State.wakeHive (s : State) (h : Nat) : State :=
  let s := s.active h
  if s.clockOf h = .warm then
    { s with hives := { s.hives with clock := Tbl.set s.hives.clock .off h (.waking (s.clk.now + 4)) } }
  else s

/-- Cycles from presentation to arbitration at a bank, a store or the sync page (R40, R41). -/
def xbar (port : Nat) (own : Bool) : Loc → Nat
  | .row _ b _ => if isFar port b then 2 else 1
  | .mat _ _ _ => if own && (port = 0 || port = 3) then 0 else 1
  | .vec _ _ _ => if own && (port = 1 || port = 3) then 0 else 1
  | _ => 1

/-- Cycles from the grant to the data at the port (R35, R40, R41). -/
def backAt (port : Nat) (own : Bool) : Loc → Nat
  | .row _ b _ => if isFar port b then 5 else 4
  | .mat _ _ _ => if own && (port = 0 || port = 3) then 3 else 4
  | .vec _ _ _ => if own && (port = 1 || port = 3) then 3 else 4
  | _ => 4

/-- The port by which a transaction reaches a bank: MIP for those that come over the mesh. -/
def Xact.port (x : Xact) : Nat := if x.mesh then 4 else x.srcPort

/-! ### Scoreboard (R219, R220) -/

/-- The cycle in which the descriptor or job of a request was registered; a request of its own counts from its first check (R220,
R221; log entry 11). -/
def State.ownSince (s : State) (x : Xact) : Nat :=
  match x.desc with
  | some d =>
    match s.hives.sb.find? (fun e => e.hive = x.srcUnit && e.port = x.srcPort && e.chan = x.srcChan && e.desc = d) with
    | some e => e.since
    | none => s.clk.now
  | none => if x.chk = 0 then s.clk.now else x.chk - 1

/-- Notes the cycle of a request's first check. -/
def Xact.checked (x : Xact) (now : Nat) : Xact := if x.chk = 0 then { x with chk := now + 1 } else x

/-- The entry that holds up an access of a requester to a range: `since` is the cycle in which the access's own registration counts (R220). -/
def State.sbOverlap (s : State) (h port chan : Nat) (desc : Option Nat) (wr : Bool) (since lo hi : Nat) : Option SbEntry :=
  s.hives.sb.find? (fun e =>
    e.hive = h && decide (e.since < since) && decide (e.lo < hi) && decide (lo < e.hi) &&
    (let same := e.port = port && (e.port ≠ 3 || e.chan = chan)
     if wr then !same
     else if same then e.port = 3 && desc ≠ some e.desc
     else true))

/-- Where the addresses of a chip stand in the scoreboard: those of another chip, reached through a window, apart from this chip's own. -/
def State.chipSpace (s : State) (chip : Nat) : Nat := if chip = s.chipId then 0 else (chip + 1) * 2^48

/-- The entry a request waits for (R220). A Scarab's slice reads are not checked: the table is not, and source rows were at submission (R195). -/
def State.sbBlock (s : State) (x : Xact) : Option SbEntry :=
  let off := match x.win with
    | some k => s.chipSpace k.1
    | none => 0
  let slice := match x.purpose with
    | .jobSlice _ _ _ => true
    | _ => false
  if slice then none
  else match s.sbOverlap x.srcUnit x.srcPort x.srcChan x.desc (isWr x.kind) (s.ownSince x) (off + x.lo) (off + x.hi) with
    | some e => some e
    | none =>
      if x.isFill ∧ x.code = 1 then
        s.sbOverlap x.srcUnit x.srcPort x.srcChan x.desc false (s.ownSince x) x.runSrc (x.runSrc + x.runLen)
      else none

/-- Entries of a kind held at a Hive: descriptors and jobs, or port writes (R219). -/
def State.sbHeld (s : State) (h : Nat) (engine : Bool) : Nat :=
  (s.hives.sb.filter (fun e => e.hive = h && (if engine then e.port = 3 || e.port = 5 else e.port ≠ 3 && e.port ≠ 5))).length

/-- Room for one more entry of a kind: 48 and 16 (R219). -/
def State.sbRoom (s : State) (h : Nat) (engine : Bool) : Bool :=
  s.sbHeld h engine < (if engine then 48 else 16)

/-- Registers a footprint (R161, R195, R219). -/
def State.sbAdd (s : State) (h port chan desc ctx lo hi : Nat) : State :=
  let e : SbEntry := { id := s.nextId, hive := h, lo := lo, hi := hi, port := port, chan := chan, desc := desc, ctx := ctx,
                       since := s.clk.now }
  { s with hives := { s.hives with sb := s.hives.sb ++ [e] }, nextId := s.nextId + 1 }

/-- Releases an entry, and notes that it went in this cycle (R220). -/
def State.sbDrop (s : State) (id : Nat) : State :=
  { s with hives := { s.hives with
    sb := s.hives.sb.filter (fun e => e.id ≠ id)
    sbGone := if s.hives.sb.any (fun e => e.id = id) then s.hives.sbGone ++ [id] else s.hives.sbGone } }

/-- The lines of a request that stand at issue (R220, R225). -/
def State.atIssue (s : State) (x : Xact) : List Xact :=
  x :: s.flight.filter (fun y => y.id ≠ x.id && x.grp ≠ 0 && y.grp = x.grp && y.srcUnit = x.srcUnit && y.srcPort = x.srcPort && y.srcChip.isNone &&
    y.half = .request && !y.mesh && !y.isRun && (y.stage = .portInput || y.stage = .scoreboard || y.stage = .ringStall))

/-- The entry a request waits for through any of its lines (R220). -/
def State.sbWait (s : State) (x : Xact) : Option SbEntry := (s.atIssue x).findSome? s.sbBlock

/-- A write of MXP, VXP or STP whose request has no entry yet (R219). -/
def State.sbNeeds (s : State) (x : Xact) : Bool :=
  isWr x.kind && (x.srcPort = 0 || x.srcPort = 1 || x.srcPort = 6) && x.srcChip.isNone &&
    !s.hives.sb.any (fun e => e.hive = x.srcUnit && e.port = x.srcPort && e.desc = x.grp)

/-- Registers the bytes of a port's write request, all its lines under one entry (R219). -/
def State.sbPort (s : State) (x : Xact) : State :=
  if s.sbNeeds x then
    let ls := s.flight.filter (fun y => y.grp = x.grp)
    let lo := ls.foldl (fun a y => min a y.lo) x.lo
    let hi := ls.foldl (fun a y => max a y.hi) x.hi
    s.sbAdd x.srcUnit x.srcPort 0 x.grp x.ctx lo hi
  else s

/-! ### Slot rings (R223 to R225) -/

/-- Ring i of a Hive. -/
def State.ringAt (s : State) (h i : Nat) : Ring := Tbl.get s.hives.rings {} (16 * h + i)

/-- Stores a ring. -/
def State.setRing (s : State) (h i : Nat) (r : Ring) : State :=
  { s with hives := { s.hives with rings := Tbl.set s.hives.rings {} (16 * h + i) r } }

/-- The declared ring and slot that hold a main-bank line (R223). -/
def State.slotOf (s : State) : Loc → Option (Nat × Nat × Nat)
  | .row h b r =>
    let l := 64 * r + b
    (List.range 16).findSome? (fun i =>
      let g := s.ringAt h i
      if g.en && decide (g.base ≤ l) && decide (l < g.base + (g.nslots + 1) * g.lines) then
        some (h, i, (l - g.base) / g.lines)
      else none)
  | _ => none

/-- The slot a request waits for (R225). -/
def State.ringBlock (s : State) (x : Xact) : Option (Nat × Nat × Nat) :=
  if x.sched || x.poison then none
  else match s.slotOf x.loc with
    | some (h, i, n) => if (s.ringAt h i).full.getLsbD n = isWr x.kind then some (h, i, n) else none
    | none => none

/-- The slot a request waits for through any of its lines: an access that meets two slots must satisfy the check for both (R225). -/
def State.ringWait (s : State) (x : Xact) : Option (Nat × Nat × Nat) :=
  if x.mesh then s.ringBlock x else (s.atIssue x).findSome? s.ringBlock

/-- The access covers the last byte of its slot (R225). -/
def State.closesSlot (s : State) (x : Xact) : Option (Nat × Nat × Nat) :=
  match x.loc, s.slotOf x.loc with
  | .row _ b r, some (h, i, n) =>
    let g := s.ringAt h i
    let top := !x.isFill && (if x.kind = .acc ∧ x.code = 3 then x.mask.getLsbD 31 && x.ga.toNat / 32 % 2 = 1 else x.mask.getLsbD 63)
    if 64 * r + b + 1 = g.base + (n + 1) * g.lines ∧ top then some (h, i, n) else none
  | _, _ => none

/-- Sets or clears full[n] of a ring for a party (R225, R392). -/
def State.setFull (s : State) (h i n : Nat) (v : Bool) (p : Party) : State :=
  let g := s.ringAt h i
  let m : BitVec 256 := BitVec.ofNat 256 (2^n)
  s.setRing h i { g with full := if v then g.full ||| m else g.full &&& ~~~m, by_ := Tbl.set g.by_ 0 n p.packed }

/-- Slots whose closing write and every earlier write of its source to the slot have completed become full (R225). -/
def State.ringClose (s : State) : State :=
  s.hives.closing.foldl (fun s c =>
    let open_ := s.flight.any (fun y => isWr y.kind && !y.isFill && decide (y.seq ≤ c.seq) && y.stage ≠ .mirrorQueue && y.source = c.src &&
      (match s.slotOf y.loc with
       | some (h, i, n) => 16 * h + i = c.ring && n = c.slot
       | none => false))
    if open_ then s
    else
      let s := s.setFull (c.ring / 16) (c.ring % 16) c.slot true (unpackParty c.party)
      { s with hives := { s.hives with closing := s.hives.closing.filter (fun d => d ≠ c) } }) s

/-- An access to a slot ends (R225): the delivery of a read of its last byte clears full; the completion of a closing write sets it, once the
earlier writes of its source have completed. `s` no longer holds the access in flight. -/
def State.ringDone (s : State) (x : Xact) : State :=
  let ok := match x.result with
    | .refused _ => false
    | _ => true
  match s.closesSlot x with
  | some (h, i, n) =>
    let p := x.party s.chipId
    if !ok then s.ringClose
    else if isWr x.kind then
      let c : Closing := { ring := 16 * h + i, slot := n, seq := x.seq, src := x.source, party := p.packed }
      { s with hives := { s.hives with closing := s.hives.closing ++ [c] } }.ringClose
    else s.setFull h i n false p
  | none => if s.hives.closing.isEmpty then s else s.ringClose

/-! ### Faults of an access -/

/-- The record of R49: code, raising unit, requester, context, GA, layer and operator, and the bank with its owner. -/
def accessRec (code unit : Nat) (x : Xact) (bank owner : Nat) (ts : Dword) : Rec :=
  let rq := match x.srcChip with
    | some (c, h) => pack [(9, 0, c), (18, 10, h), (19, 19, 1)]
    | none => pack [(18, 10, x.srcUnit)]
  genRec { code := code, unit := unit, ctx := x.ctx, port := x.srcPort, chan := x.srcChan, obj := pack [(5, 0, bank), (8, 6, owner)],
           layer := x.layer.toNat, oper := x.operator.toNat, aux := rq, ga := x.ga.toNat } ts

/-- The bank and its owner, for a record (R49); NO_PATH has the port in place of the owner (R60). -/
def State.bankOwner (s : State) (code port : Nat) : Loc → Nat × Nat
  | .row h b _ => if code = 0x15 then (b, port) else (b, (s.ownerOf h b).owner)
  | _ => if code = 0x15 then (0, port) else (0, 0)

/-- The Hive and context a requester is signalled at (R447): the issuing core, for a request of an edge Scarab the core that submitted its job,
for a line from another chip the owner of its window at the target. -/
def Xact.core (x : Xact) : Nat × Nat :=
  if x.srcChip.isSome then (x.loc.unit, x.ctx)
  else if 256 ≤ x.srcUnit ∧ x.srcPort = 5 then (x.tag / 256, x.ctx)
  else (x.srcUnit, x.ctx)

/-- Raises a refusal at a unit: its record there and in the table, a second record at the sender's Hive for an access that
came over the mesh, and the signal to the core (R48, R49). -/
def State.refused (s : State) (code unit : Nat) (x : Xact) : State :=
  let bo := s.bankOwner code x.srcPort x.loc
  let r := accessRec code unit x bo.1 bo.2 s.clk.ts
  let c := x.core
  let s := if c.1 < 256 then s.faultAccess unit c.1 c.2 r else s.faultAt unit r
  if x.mesh && isWr x.kind && x.srcChip.isNone && x.srcUnit ≠ unit then
    { s with hives := { s.hives with faultReg := Tbl.set s.hives.faultReg 0 x.srcUnit r } }.last64 x.srcUnit r
  else s

/-- A request ends at its own Hive before it reached a target: it comes back refused, with the latency of a near bank. -/
def State.bounce (s : State) (x : Xact) (code : Nat) : State :=
  s.setX { x with half := .answer, stage := .returned, ready := s.clk.now + 5, result := .refused (BitVec.ofNat 8 code),
                  poison := !isWr x.kind, data := 0, mesh := false }

/-- Refuses a request at issue or at its own Hive's mesh interface (R47, R48, R60). -/
def State.refuseLocal (s : State) (x : Xact) (code : Nat) : State := (s.refused code x.srcUnit x).bounce x code

/-! ### Scheduled requests (R98) -/

/-- The entry of the priority table for a location: its bank group, 16 and 17 for the stores, 18 for the rest (R70). It names the resource of
a SLOT_MISS in a Hive (R101). -/
def prioEntry : Loc → Nat
  | .row _ b _ => b / 4
  | .mat _ _ _ => 16
  | .vec _ _ _ => 17
  | _ => 18

/-- The resource at which a request misses its cycle at issue (R101): its bank group, or for a remote one its router's injection stage. -/
def Xact.missAt (x : Xact) (own : Bool) : Nat := if own then prioEntry x.loc else 0x100 + 8 * x.srcUnit + 5

/-- Every wheel field a set of locations needs in this cycle names the port (R98); `grans` is a stream request's granule
count. -/
def State.schedMatch (s : State) (h port grans : Nat) (locs : List Loc) : Bool :=
  let w := s.hiveWheel h
  locs.all (fun l => wheelField w l = port) && (port ≠ 6 || grans ≤ fld w 63 56)

/-- A request presented in this cycle reaches the injection stage in a position whose entry names its flow, 6 positions on (R92, R93, R163). -/
def State.injectMatch (s : State) (h flow : Nat) : Bool :=
  flow ≠ 0 && (match s.position with
    | some p => s.act 0x8500 (256 * (8 * h + 5) + (p + 6) % 256) % 4096 = flow
    | none => false)

/-- A wheel entry of this position was voided by a loss of capacity (R113). -/
def State.voidedNow (s : State) (k : Nat) : Bool := s.sched.voided.contains k

/-! ### Presentation -/

/-- Counts a request for its context (R388) and its unit (R386). -/
def State.countReq (s : State) (x : Xact) : State :=
  if x.srcUnit < 256 then
    let n := x.bytes
    let s := if isWr x.kind then s.ctxAdd x.srcUnit x.ctx 1 n else s.ctxAdd x.srcUnit x.ctx 0 n
    match x.kind with
    | .acc => s.ctxAdd x.srcUnit x.ctx 2 1
    | .atomic => s.ctxAdd x.srcUnit x.ctx 3 1
    | _ => s
  else s

/-- An own-Hive address served through the crossbar (R42). -/
def ownHive (h : Nat) (ga : Nat) : Loc → Bool
  | .row t _ _ => t = h && !isPoolGa ga
  | .mat t _ _ => t = h
  | .vec t _ _ => t = h
  | .sync t _ => t = h
  | .hole t => t = h
  | _ => false

/-- A request is stamped at its presentation (R63): its deadline moves with the cycles it stalled at issue. -/
def Xact.stamped (x : Xact) (now : Nat) : Xact :=
  if x.expired.isSome then x
  else { x with born := now, deadline := BitVec.ofNat 16 (x.deadline.toNat + (now - x.born)) }

/-- Presents a request that passed its checks: to its bank's arbiter, or to the mesh interface (R15, R40 to R42, R62); a WARM Hive wakes
first (R103, R104). -/
def State.present (s : State) (x : Xact) : State :=
  let h := x.srcUnit
  let s := (s.wakeHive h).countReq x
  let late := s.servesAt h - s.clk.now
  let x := x.stamped s.clk.now
  if ownHive h x.ga.toNat x.loc then
    s.setX { x with stage := .arbiter, unit := h, mesh := false, since := s.clk.now,
                    ready := s.clk.now + late + xbar x.srcPort true x.loc }
  else
    s.setX { x with stage := .meshIf, unit := h, mesh := true, since := s.clk.now, dest := x.loc.unit,
                    ready := s.clk.now + late + 6 }

/-- A location is the sync page of a Hive, whose array has no wheel field (R98). -/
def Loc.isSync : Loc → Bool
  | .sync _ _ => true
  | _ => false

/-- A request keeps its SCHED flag at issue where it may stand (R85, R98): it is cleared in DYNAMIC mode and for the own sync page, and where
the wheel fields do not name its port, which is logged. `whole` is the match of the whole request. -/
def State.schedJudge (s : State) (x : Xact) (whole : Bool) : State × Xact :=
  if !x.sched then (s, x)
  else
    let own := ownHive x.srcUnit x.ga.toNat x.loc
    if !s.determ || (own && x.loc.isSync) then (s, { x with sched := false })
    else if s.sched.running && own && !whole then
      (s.mismatch x.srcUnit x.srcPort x.layer.toNat x.operator.toNat, { x with sched := false })
    else (s, x)

/-- A SCHED request misses its cycle at issue or at its presentation (R99, R101). -/
def State.issueMiss (s : State) (x : Xact) (cause late : Nat) : State × Xact :=
  let h := x.srcUnit
  let own := ownHive h x.ga.toNat x.loc
  (s.slotMiss h cause late (x.missAt own) h x.ctx (if own then x.srcPort else x.flow.toNat) x.layer.toNat x.operator.toNat,
   x.missed s.clk.now s.clk.count0)

/-- A SCHED request at its presentation (R99, R100): one presented while no epoch runs, to a voided entry or to a WARM Hive raises SLOT_MISS. -/
def State.schedIssue (s : State) (x : Xact) : State × Xact :=
  if !x.sched then (s, x)
  else if !s.sched.running then s.issueMiss x 8 0
  else if ownHive x.srcUnit x.ga.toNat x.loc && s.voidedNow x.loc.arb then s.issueMiss x 12 0
  else if s.asleep x.srcUnit then
    s.issueMiss x 10 (s.servesAt x.srcUnit + 4 * b2n (s.clockOf x.srcUnit = .warm) - s.clk.now)
  else (s, x)

/-- Deadline of a request of class q presented now (R63). -/
def State.deadlineAt (s : State) (off : Nat) : BitVec 16 := BitVec.ofNat 16 (s.count16 + off)

/-- CLASS_DEADLINE of a class. -/
def State.classDeadline (s : State) (q : Nat) : Nat := s.act 0x2100 q

/-! ### Issue -/

/-- A write that its Hive's scoreboard registered before a handover of its bank began (R52 step 4). -/
def State.admitted (s : State) (x : Xact) : Bool :=
  match x.loc with
  | .row h b _ =>
    let o := s.ownerOf h b
    isWr x.kind && o.pend && o.owner = x.ctx && x.desc.isSome && decide (s.ownSince x ≤ o.since) &&
      s.hives.sb.any (fun e => e.hive = x.srcUnit && e.port = x.srcPort && e.chan = x.srcChan && some e.desc = x.desc)
  | _ => false

/-- A group's throttle keeps new dynamic requests out of this cycle (R369): g = 0 HIVE, 1 MESH, 2 EDGE. -/
def State.throttled (s : State) (g : Nat) : Bool := Tbl.get s.power.duty 16 g ≤ s.count16 % 16

/-- The checks that end a request at issue: a path its port lacks, an address that its own Hive or mesh interface does not
serve, and ownership (R47, R51, R60, R190, R363). -/
def State.issueRefusal (s : State) (x : Xact) : Option Nat :=
  let h := x.srcUnit
  let ga := x.ga.toNat
  let t2atom := match x.loc with
    | .t2 _ _ => x.kind = .atomic
    | _ => false
  if noPath h x.srcPort ga x.loc || t2atom then some 0x15
  else if ownHive h ga x.loc then
    if !s.storeReach x.loc h x.srcPort then some 0x14
    else match s.refusal x.loc false with
      | some c => some c
      | none => if s.ownership x.loc x.ctx = .refused && !s.admitted x then some 0x13 else none
  else if unserved x.loc then some 0x14
  else none

/-- A request stalls at issue in a stage; `by_` is the party it waits for. -/
def State.stallAt (s : State) (x : Xact) (st : Stage) (by_ : Nat) : State :=
  (s.active x.srcUnit).setX { x with stage := st, unit := x.srcUnit, since := s.clk.now, by_ := by_ }

/-- The party of a scoreboard entry. -/
def State.sbParty (s : State) (e : SbEntry) : Nat :=
  ({ chip := s.chipId, unit := e.hive, ctx := e.ctx, port := e.port, chan := e.chan : Party }).packed

/-- A SCHED request that stalls at issue in a running epoch misses its cycle (R54, R99, R220). -/
def State.stallMiss (s : State) (x : Xact) (cause : Nat) : State × Xact :=
  if x.sched && s.sched.running then s.issueMiss x cause 0 else (s, x)

/-- Issue checks of a request: refusal, a handover, the scoreboard, its slot ring; then presentation (R52, R54, R220, R225).
`whole` is the schedule match of the request it belongs to. -/
def State.issue (s : State) (x : Xact) (whole : Bool) : State :=
  match s.issueRefusal x with
  | some c => s.refuseLocal x c
  | none =>
    let own := ownHive x.srcUnit x.ga.toNat x.loc
    let p := s.schedJudge (x.checked s.clk.now) whole
    let s := p.1
    let x := p.2
    if own && s.ownership x.loc x.ctx = .held then
      let p := s.stallMiss x 3
      p.1.stallAt p.2 .issueStall 0
    else match s.sbWait x with
      | some e =>
        let p := s.stallMiss x 2
        p.1.stallAt { p.2 with dest := e.id } .scoreboard (s.sbParty e)
      | none =>
        match (if own then s.ringWait x else none) with
        | some _ => s.stallAt x .ringStall 0
        | none =>
          if s.sbNeeds x && !s.sbRoom x.srcUnit false then
            let p := s.stallMiss x 2
            p.1.stallAt { p.2 with dest := 0xFFFF } .scoreboard 0
          else
            let p := (s.sbPort x).schedIssue x
            p.1.present p.2

/-- Issues a list of transactions already in flight, all judged by one schedule match (R98). -/
def State.issueAll (s : State) (ids : List Nat) (whole : Bool) : State :=
  ids.foldl (fun s n => match s.xact n with
    | some x => s.issue x whole
    | none => s) s

/-! ### Answers -/

/-- The answer of a request that came over the mesh starts back from the unit that served it (R15); at an edge unit it
enters the edge link (R12). -/
def State.answerMesh (s : State) (x : Xact) (unit wait : Nat) : State :=
  if unit < 256 then
    s.setX { x with half := .answer, stage := .meshIf, unit := unit, dest := x.srcUnit, ready := s.clk.now + wait }
  else
    s.setX { x with half := .answer, stage := .link, unit := dstRouter x.srcUnit unit, dir := 7, dest := x.srcUnit,
                    inp := 5, ready := s.clk.now + wait }

/-- Answers a request at the unit that served it: over the crossbar, over the mesh, to the window that applied it, or to the command of which
it is a line. -/
def State.answer (s : State) (x : Xact) (unit grant : Nat) : State :=
  if x.srcChip.isSome || x.isRun then s.setX { x with half := .answer, stage := .returned, ready := s.clk.now + grant }
  else if x.mesh then s.answerMesh x unit (grant + 1)
  else s.setX { x with half := .answer, stage := .returned, ready := s.clk.now + grant }

/-- A request of an edge unit enters the mesh through its attachment router, over its edge link (R11, R12). -/
def State.fromEdge (s : State) (x : Xact) : State :=
  s.setX { x with stage := .link, unit := srcRouter x.srcUnit x.loc.unit, dir := 7, inp := 5, mesh := true, dest := x.loc.unit, ready := s.clk.now + 1 }

/-- Unit `u` writes a line of a structure that the block itself keeps in tier 1 (R13): a write of its own, which travels over the mesh and stands
at the T1C like any other (R22, R398), in class 0 (DESIGN CHOICE, log entry 89). Where the address holds no tier-1 data, nothing is written. -/
def State.extentWrite (s : State) (u ga : Nat) (d : Line) (p : Purpose) : State :=
  match s.locate ga with
  | .t1 raw =>
    let n := s.nextId
    let x : Xact := { id := n, seq := n, grp := n, kind := .write, deadline := s.deadlineAt (s.classDeadline 0), ga := BitVec.ofNat 48 ga, mask := fullMask,
                      data := d, srcUnit := u, srcPort := 7, loc := .t1 raw, unit := u, since := s.clk.now, born := s.clk.now, purpose := p }
    let s := s.addX x
    if u = uT1 (t1Stack raw) then s.setX { x with stage := .edgeIngress, dest := u, ready := s.clk.now + 1 } else s.fromEdge x
  | _ => s

/-- Presents the change of a wait cell that no port presents, for unit `u` (R228): at its own array in the cycle after the cause, as an expired
request; elsewhere as a write that travels through the mesh and MIP. `p` is the party whose change it is. -/
def State.postCell (s : State) (u ga : Nat) (kind : AccKind) (data : Dword) (p : Party) : State :=
  let n := s.nextId
  let x : Xact := { id := n, seq := n, grp := n, kind := kind, code := 2, ctx := p.ctx, deadline := s.deadlineAt (s.classDeadline 0), ga := BitVec.ofNat 48 ga,
                    mask := byteMask (ga % 64) 8, data := BitVec.ofNat 512 (if kind = .atomic then data.toNat else data.toNat * 2^(8 * (ga % 64))),
                    srcUnit := u, srcPort := 7, loc := s.locate ga, unit := u, since := s.clk.now, born := s.clk.now, purpose := .cellAdd,
                    by_ := p.packed }
  let s := s.addX x
  if u < 256 then
    if ownHive u ga x.loc then
      (s.wakeHive u).setX { x with stage := .arbiter, expired := some (s.clk.now + 1), ready := s.clk.now + 2 }
    else s.present x
  else s.fromEdge x

/-- The completion add of a command of unit p.unit that names a cell by its GA; 0 names none (R79, R119, R228). -/
def State.addCell (s : State) (cell : Nat) (p : Party) : State :=
  match s.locate cell with
  | .sync _ _ => if cell = 0 then s else s.postCell p.unit cell .atomic 1 p
  | _ => s

/-- Refuses a request at its target (R47, R48): the record, and the refusal on its way back. -/
def State.refuseAt (s : State) (x : Xact) (unit code : Nat) : State :=
  (s.refused code unit x).answer { x with result := .refused (BitVec.ofNat 8 code), poison := !isWr x.kind, data := 0 } unit 1

end Sys2Proof.Machine
end

