-- ==== Sys2Proof/Machine/JournalOps.lean ====
section
/-!
DEFINITION. JournalOps.lean: journal entries and their writes (R339 to R343).
-/
namespace Sys2Proof.Machine

/-- States of a journal entry (R339). -/
def jAccepted : Nat := 1
def jStarted : Nat := 2
def jDone : Nat := 3
def jFailed : Nat := 4
def jAbandoned : Nat := 5

def jState (e : BitVec 512) : Nat := fld e.toNat 463 461
def jSeq (e : BitVec 512) : Nat := fld e.toNat 511 464
def jKind (e : BitVec 512) : Nat := fld e.toNat 455 452
def jNr (e : BitVec 512) : Bool := bit e.toNat 459

/-- DONE, FAILED or ABANDONED (R342). -/
def jFinal (e : BitVec 512) : Bool := 3 ≤ jState e

/-- What an entry of a command holds (R339). -/
structure JCmd where
  kind  : Nat
  nr    : Bool := false
  hive  : Nat := 0
  ctx   : Nat := 0
  chan  : Nat := 0
  layer : Nat := 0
  oper  : Nat := 0
  crc   : Nat := 0
  arg   : Nat := 0
deriving DecidableEq, Repr

/-- An ACCEPTED entry (R339). -/
def JCmd.entry (c : JCmd) (seq : Nat) (ts : Dword) : BitVec 512 :=
  BitVec.ofNat 512 (pack [(511, 464, seq), (463, 461, jAccepted), (459, 459, b2n c.nr), (455, 452, c.kind),
    (443, 436, c.hive), (435, 433, c.ctx), (432, 429, c.chan), (423, 408, c.layer), (407, 392, c.oper),
    (391, 352, ts.toNat % 2^40), (351, 320, c.crc), (319, 0, c.arg)])

/-- The member's entry of a number (R339). -/
def State.jEntry (s : State) (seq : Nat) : BitVec 512 := Tbl.get s.journal.own 0 (seq % 65536)

/-- The journal is full (R342). -/
def State.jFull (s : State) : Bool := 65536 ≤ s.journal.head - s.journal.tail

/-- The address of an entry of the member's ring, in the journal's extent (R13, R339). -/
def State.jGa (s : State) (seq : Nat) : Nat :=
  match s.err.extents.find? (fun e => e.kind = 1) with
  | some e => e.base + 64 * (seq % 65536)
  | none => 0

/-- Writes an entry whole: into the ring in tier 1, and to the partner while the member is PAIRED, in which case the write completes
under R21 (R339, R341); subscribers are told of a final one (R434). `next` is what follows its completion. -/
def State.jWrite (s : State) (seq : Nat) (e : BitVec 512) (next : JNext) : State :=
  let s := { s with journal := { s.journal with
    own := Tbl.set s.journal.own 0 (seq % 65536) e
    pending := s.journal.pending ++ [(seq, next)] } }
  let s := s.extentWrite uMu (s.jGa seq) e (.journal seq)
  let s := if jFinal e then s.notice 0x5302 (seq % 65536) (natBytes 64 e.toNat) else s
  if s.paired then
    s.sendSeq 0x42 0 0 1 (64 * (seq % 65536)) fullMask [e] [MWait.entry seq] false
  else s

/-- Takes a command into the journal: its ACCEPTED entry under the next number (R340, R341). -/
def State.jAccept (s : State) (c : JCmd) (next : JNext) : State :=
  let n := s.journal.head
  ({ s with journal := { s.journal with head := n + 1 } }).jWrite n (c.entry n s.clk.ts) next

/-- Rewrites an entry in another state, with a code for FAILED or ABANDONED (R341). -/
def State.jChange (s : State) (seq st code : Nat) (next : JNext) : State :=
  let e := (s.jEntry seq).toNat
  let e := setFld (setFld (setFld e 463 461 st) 451 444 code) 391 352 (s.clk.ts.toNat % 2^40)
  s.jWrite seq (BitVec.ofNat 512 e) next

/-- The entry's write has not completed: it is on its way to tier 1 or stands pending for its MACK (R21, R341). -/
def State.jWaits (s : State) (seq : Nat) : Bool :=
  s.mirror.waits.any (fun w => w.2 = .entry seq) || s.flight.any (fun x => x.purpose = .journal seq)

/-- Advances tail past final entries in mode AUTO (R342). -/
def State.jAdvance : Nat → State → State
  | 0, s => s
  | n + 1, s =>
    if s.pv 0x5301 0 = 0 ∧ s.journal.tail < s.journal.head ∧ jFinal (s.jEntry s.journal.tail) then
      State.jAdvance n { s with journal := { s.journal with tail := s.journal.tail + 1, fullSaid := false } }
    else s

/-- Bytes of the open DESC entries with nr = 0 (R343). -/
def State.jOpenBytes (s : State) : Nat := s.journal.openFoot.foldl (fun a e => a + e.2) 0

/-- The journal manager accepts a command: not fenced, not leaving, and with room (R335, R342, R346). -/
def State.jOpen (s : State) : Bool :=
  !s.jFull && s.mirror.st ≠ .fenced && s.mirror.st ≠ .leaving && !s.mirror.waits.any (fun w => w.2 = MWait.leave) && !s.journal.stopped

/-- JOURNAL_FULL is raised once per fill (R342). -/
def State.jSayFull (s : State) : State :=
  if s.jFull && !s.journal.fullSaid then
    { s with journal := { s.journal with fullSaid := true } }.raise { code := 0x73, unit := uHearth }
  else s

end Sys2Proof.Machine
end

