-- ==== Sys2Proof/Machine/YppOps.lean ====
section
/-!
DEFINITION. YppOps.lean: answers to YPP requests (R424, R425, R428, R431, R434, R341) and recorded inputs (R347 to R349).
-/
namespace Sys2Proof.Machine

/-! ### Answers -/

/-- State of a mailbox slot as MB_CTL reports it: IDLE, BUSY, DONE (R431). -/
def State.mbState (s : State) (k : Nat) : Nat := (Tbl.get s.mgmt.slots {} k).st

/-- Sends a response: over MCTP, or into the slot's response buffer, whose state is then DONE (R424, R431). -/
def State.sendRsp (s : State) (m : YMsg) : State :=
  match m.path with
  | .mctp _ => { s with mgmt := { s.mgmt with out := s.mgmt.out ++ [m] } }
  | .mb k => { s with mgmt := { s.mgmt with slots := Tbl.set s.mgmt.slots {} k.val { Tbl.get s.mgmt.slots {} k.val with st := 2, rsp := [m] } } }

/-- The response to a request: its header with the response bit, a status and a payload; an error carries none, but for
COMMIT's result byte (R424, R425, R428). -/
def YReq.rsp (r : YReq) (status : Nat) (ans : List Byte) (idx : Nat) : YMsg :=
  { path := r.path, tag := r.tag, ic := r.ic, event := false, op := r.op, priv := r.priv, status := BitVec.ofNat 8 status,
    param := r.param, index := idx, reqId := r.reqId, payload := if status = 0 ∨ r.op = 5 ∨ r.param = 0x2FFF then ans else [] }

/-- Sends the response of a request and forgets it. -/
def State.respond (s : State) (r : YReq) : State :=
  let s := s.sendRsp (r.rsp r.status.toNat r.ans r.index)
  { s with mgmt := { s.mgmt with reqs := s.mgmt.reqs.filter (fun q => q.no ≠ r.no) } }

/-- The request of a number. -/
def State.yreq (s : State) (n : Nat) : Option YReq := s.mgmt.reqs.find? (fun r => r.no = n)

/-- Replaces a request. -/
def State.setReq (s : State) (r : YReq) : State :=
  { s with mgmt := { s.mgmt with reqs := s.mgmt.reqs.map (fun q => if q.no = r.no then r else q) } }

/-- A request has been executed with a status: a journaled one is answered once its DONE or FAILED entry has completed
(R341, R428), any other at once. -/
def State.finish (s : State) (n status : Nat) (ans : List Byte) (idx : Nat) : State :=
  match s.yreq n with
  | none => s
  | some r =>
    let r := { r with ran := true, status := BitVec.ofNat 8 status, ans := ans, index := idx }
    match r.jseq with
    | some q => (s.setReq r).jChange q (if status = 0 then jDone else jFailed) status (.host n)
    | none => s.respond r

/-- A Quench request in cycle r: the first sets q = r + 16, a later one counts (R411), and so does one before the clock root runs (R455). -/
def State.quenchAsk (s : State) (source trig r : Nat) : State :=
  let q := s.quench
  if q.st ≠ 0 || !s.clk.rootOn then
    { s with quench := { q with ignored := if q.ignored = BitVec.allOnes 32 then q.ignored else q.ignored + 1 } }
  else { s with quench := { q with st := 1, source := source, trig := trig, at_ := r + 16, out := true } }

/-! ### Recorded inputs -/

/-- The chip records inputs (R347). -/
def State.recording (s : State) : Bool := s.pv 0x5500 0 % 4 = 1 && s.journal.recState = 1

/-- The chip replays: frames, YPP writes and the events of its pins come from the buffer (R350). -/
def State.replaying (s : State) : Bool := s.pv 0x5500 0 % 4 = 2 && (s.journal.recState = 1 || s.journal.recState = 3)

/-- Entries the record buffer holds (R347). -/
def State.recRoom (s : State) : Nat := s.pv 0x5502 0 / 16

/-- A record entry (R348). -/
def recEntry (kind unit tag cycle len : Nat) (hash : BitVec 32) : Quad :=
  BitVec.ofNat 128 (pack [(127, 124, kind), (123, 112, unit), (111, 96, tag), (95, 48, cycle), (47, 32, len), (31, 0, hash.toNat)])

/-- Continuation entries of data `x`: kind 0xF, and the data in the other 124 bits of each entry, lowest first. R348 gives an
entry 16 B of data beside its kind, which 128 bits do not hold: log entry 16. -/
def recCont (n x : Nat) : List Quad :=
  (List.range n).map (fun i => BitVec.ofNat 128 (pack [(127, 124, 15), (123, 0, x / 2^(124 * i))]))

/-- Cycles since count 0 (R347). -/
def State.recCycle (s : State) : Nat := s.clk.now - s.clk.count0

/-- Records an input of a kind (R348); the buffer's last entry is the end, kind 0xE (R349). -/
def State.recInput (s : State) (kind unit tag : Nat) (data : List Byte) (whole : Bool) : State :=
  if !s.recording then s
  else
    let n := if whole then data.length else 0
    let es := recEntry kind unit tag s.recCycle n (crc32 data) :: (if whole then recCont (ceilDiv (8 * n) 124) (bytesNat data) else [])
    if s.journal.recBuf.length + es.length < s.recRoom then
      { s with journal := { s.journal with recBuf := s.journal.recBuf ++ es, recCount := s.journal.recCount + 1 } }
    else
      { s with journal := { s.journal with recBuf := s.journal.recBuf ++ [recEntry 14 0 0 s.recCycle 0 0], recState := 2 } }.raise
        { code := 0x79, unit := uHearth }

/-- The fields of a record entry (R348). -/
structure RecE where
  kind  : Nat
  unit  : Nat
  tag   : Nat
  cycle : Nat
  len   : Nat
  hash  : BitVec 32

/-- The entry due next in a replay (R350). -/
def State.replayDue (s : State) : Option RecE :=
  if !s.replaying then none
  else match s.journal.recBuf[s.journal.repPos]? with
    | none => none
    | some e =>
      let v := e.toNat
      if fld v 127 124 = 14 then none
      else some { kind := fld v 127 124, unit := fld v 123 112, tag := fld v 111 96, cycle := fld v 95 48, len := fld v 47 32, hash := BitVec.ofNat 32 v }

/-- Continuation entries of an entry. -/
def RecE.conts (e : RecE) : Nat := ceilDiv (8 * e.len) 124

/-- The data of the due entry, from its continuation entries. -/
def State.replayData (s : State) (e : RecE) : List Byte :=
  natBytes e.len (((List.range e.conts).map (fun i => fld ((s.journal.recBuf.getD (s.journal.repPos + 1 + i) 0).toNat) 123 0 * 2^(124 * i))).foldl (· + ·) 0)

/-- The due entry has been presented with data of a hash; one that differs diverges (R350). With the last entry the replay has ended. -/
def State.replayNext (s : State) (e : RecE) (hash : BitVec 32) : State :=
  let pos := s.journal.repPos + 1 + e.conts
  let s := { s with journal := { s.journal with repPos := pos, recCount := s.journal.recCount + 1 } }
  let s : State := if hash = e.hash then s
    else
      let s := if s.journal.recState = 3 then s else { s with journal := { s.journal with recState := 3, recDiv := s.recCycle } }
      let s := s.raise { code := 0x7A, unit := uHearth, aux := s.recCycle }
      if bit (s.pv 0x5500 0) 8 then s.quenchAsk 4 0 (s.clk.now + 8) else s
  if s.replayDue.isNone ∧ s.journal.recState = 1 then { s with journal := { s.journal with recState := 2 } } else s

/-- An input from a stack or a cartridge enters (R348, R350): recorded in RECORD mode; in REPLAY mode compared with the due entry, and held
while it is not due. -/
def State.inputGate (s : State) (kind unit tag : Nat) (data : List Byte) : Option State :=
  if s.replaying then
    match s.replayDue with
    | some e => if e.kind = kind ∧ e.unit = unit ∧ e.tag = tag ∧ e.cycle ≤ s.recCycle then some (s.replayNext e (crc32 data)) else none
    | none => some s
  else some (s.recInput kind unit tag data false)

end Sys2Proof.Machine
end

