-- ==== Sys2Proof/Machine/Commit.lean ====
section
/-!
DEFINITION. Commit.lean: commits and their checks (R71, R89, R91, R97, R107 to R110, R112), epochs (R86 to R88), regulation
windows (R111) and the loss of capacity (R113).
-/
namespace Sys2Proof.Machine

/-! ### Validity of the shadowed tables (R71, R91, R94, R95, R97, R112) -/

/-- The listed elements of a parameter in a table: element and value. -/
def listed (t : Tbl Nat) (p : Nat) : List (Nat × Nat) :=
  (t.filter (fun e => e.1 / 2^24 = p)).map (fun e => (e.1 % 2^24, e.2))

/-- A priority table entry holds the ranks 0 to 6 once each (R70). -/
def prioValid (v : Nat) : Bool :=
  (List.range 7).all (fun r => (List.range 7).any (fun m => fld v (4 * m + 2) (4 * m) = r))

/-- A Hive wheel entry names a port in some field (R91). -/
def wheelNames (v port : Nat) : Bool := (List.range 18).any (fun k => fld v (3 * k + 2) (3 * k) = port)

/-- A Hive wheel entry is valid (R91). -/
def wheelValid (tiered : Bool) (v : Nat) : Bool :=
  let osm := fld v 50 48
  let osv := fld v 53 51
  (!tiered || ((osm = 0 || osm = 3 || osm = 7) && (osv = 1 || osv = 3 || osv = 7))) &&
  decide (128 * b2n (wheelNames v 0) + 64 * b2n (wheelNames v 1) + b2n (wheelNames v 2) + fld v 63 56 ≤ 200)

/-- A link wheel entry is valid for its direction (R92, R97). -/
def linkValid (idx v : Nat) : Bool :=
  let d := idx / 256 % 8
  let h := idx / 2048
  fld v 11 0 ≠ 0x800 && (fld v 11 0 = 0 || dirConnected h d)

/-- Entries of a kind in tier-1 wheel w of a table: 1 SCHED, 2 REF (R94). -/
def t1Count (t : Tbl Nat) (w kind : Nat) : Nat :=
  ((listed t 0x2500).filter (fun e => e.1 / 1024 = w && fld e.2 15 14 = kind)).length

/-- The first invalid entry of the shadows: its parameter and element (R97). -/
def State.firstInvalid (s : State) : Option (Nat × Nat) :=
  let t := s.mgmt.shadow
  let find := fun (p : Nat) (bad : Nat → Nat → Bool) =>
    ((listed t p).find? (fun e => bad e.1 e.2)).map (fun e => (p, e.1))
  let periods := s.shd 0x2001 0
  let sum := fun p => (List.range 8).foldl (fun a q => a + s.shd p q) 0
  (find 0x8100 (fun i v => i % 32 < 19 && !prioValid v)).or <|
  (if 8 < sum 0x2300 then some (0x2300, 0) else none).or <|
  (if 512 < sum 0x2310 then some (0x2310, 0) else none).or <|
  (find 0x8400 (fun _ v => !wheelValid s.tiered v)).or <|
  (find 0x8500 (fun i v => !linkValid i v)).or <|
  (find 0x2500 (fun _ v => fld v 15 14 = 3 || (fld v 15 14 = 1 && periods % 9 ≠ 0))).or <|
  (((List.range 256).find? (fun w => decide (t1Count t w 2 < s.pv 0x2400 0))).map (fun w => (0x2500, 1024 * w))).or <|
  find 0x8600 (fun _ v => fld v 31 30 = 3 || (fld v 31 30 ≠ 0 && decide (periods ≤ fld v 23 8)))

/-! ### Admission (R105 to R110) -/

/-- Channel c of stack k has failed (R261). -/
def State.t1Failed (s : State) (k c : Nat) : Bool :=
  s.err.tierRet.any (fun e => !e.pend && e.kind = 3 && e.unit = k && e.loc = c)

/-- Raw capacity of a resource per window (R105). The indices 0xA08 to 0xA0F name no resource there: their capacity is 0, so that a budget above 0
fails the commit (DESIGN CHOICE, log entry 13). -/
def State.rawCap (s : State) (r : Nat) : Nat :=
  if r < 0x100 then 16777216
  else if r < 0x900 then 1048576
  else if r < 0xA00 then (if s.t1Failed ((r - 0x900) / 32) ((r - 0x900) % 32) then 0 else 116480)
  else if r < 0xA08 then s.pv 0x2401 (r - 0xA00)
  else if 0xA10 ≤ r ∧ r < 0xA18 then 364088
  else 0

/-- Bytes per window of a transfer of `bytes` over `cycles`, rounded up to units of `unit` bytes (R107). -/
def perWindow (bytes cycles unit : Nat) : Nat :=
  if cycles = 0 then 0 else ceilDiv (bytes * 4096) (cycles * unit) * unit

/-- The deduction of a resource with the wheels of a table and the rates of WEEVIL_ONCHIP_MS and WEEVIL_T1_S (R107, R296). A
rate of 0 stands for a stopped walker. -/
def State.deduction (s : State) (t : Tbl Nat) (ms t1s : Nat) (r : Nat) : Nat :=
  if r < 0x100 then perWindow (64 * 768 * 64) (ms * 2250000) 64
  else if r < 0x900 then 20736
  else if r < 0xA00 then
    let refs := max (t1Count t (r - 0x900) 2) (s.pv 0x2400 0)
    perWindow (2^36 / 32) (t1s * 2250000000) 64 + ceilDiv (refs * 4096) 2304 * 64
  else 0

/-- The reserved bytes of a resource (R107). -/
def reservedBytes (t : Tbl Nat) (r : Nat) : Nat :=
  if r < 0x100 then
    4096 * ((listed t 0x8400).filter (fun e => e.1 / 256 = r)).foldl (fun a e =>
      a + ((List.range 16).filter (fun k => fld e.2 (3 * k + 2) (3 * k) ≠ 7)).length) 0
  else if r < 0x900 then
    4096 * ((listed t 0x8500).filter (fun e => e.1 / 256 = r - 0x100 && e.2 % 4096 ≠ 0)).length
  else if r < 0xA00 then ceilDiv (t1Count t (r - 0x900) 1 * 4096) 2304 * 64
  else 0

/-- N of a resource (R107). -/
def State.netCap (s : State) (t : Tbl Nat) (ms t1s r : Nat) : Int := (s.rawCap r : Int) - s.deduction t ms t1s r

/-- The sum of a resource's budgets in a table (R107). -/
def budgetSum (b : Nat → Nat) (r : Nat) : Nat := (List.range 8).foldl (fun a q => a + b (8 * r + q)) 0

/-- A resource satisfies R108: S ≤ N and C ≤ 85 % of what is left. -/
def fits (n : Int) (sres c : Nat) : Bool := (sres : Int) ≤ n && (c : Int) ≤ 85 * (n - sres) / 100

/-- The first resource that fails R108 with the shadowed values (R107, R108). -/
def State.firstOver (s : State) : Option Nat :=
  let t := s.mgmt.shadow
  (List.range 0xA18).find? (fun r =>
    !fits (s.netCap t (s.pv 0x3200 0) (s.pv 0x3201 0) r) (reservedBytes t r) (budgetSum (fun k => s.shd 0x2200 k) r))

/-- The mesh energy rule (R110). -/
def State.meshFits (s : State) : Bool :=
  let n := ((listed s.mgmt.shadow 0x8500).filter (fun e =>
    e.2 % 4096 ≠ 0 && (e.1 / 256 % 8 < 4 || 6 ≤ e.1 / 256 % 8))).length
  n * s.shd 0x2012 0 * 87890625 ≤ s.shd 0x2011 0 * 10^13

/-- The record of an admission failure: the resource with its N, S and C; resource 0xFFFF is the mesh energy rule (R108,
R110). -/
def State.admissionRec (s : State) (r : Nat) : RecF :=
  let t := s.mgmt.shadow
  let c := budgetSum (fun k => s.shd 0x2200 k) r
  { code := 0x50, unit := uHearth, obj := r, aux := toTwos 32 (s.netCap t (s.pv 0x3200 0) (s.pv 0x3201 0) r),
    ga := reservedBytes t r, late := c / 65536 % 65536, count := c % 65536 }

/-! ### ARB_COMMIT -/

/-- ARB_COMMIT as read (R71). -/
def State.arbCommit (s : State) : Nat := pack [(23, 16, s.sched.result.toNat), (8, 8, b2n s.sched.commit.isSome)]

/-- A commit ends with a result: pend clears, its request is answered and subscribers are notified (R71, R429, R434). -/
def State.commitEnd (s : State) (result : Nat) : State :=
  let req := s.sched.commit.bind (fun c => c.req)
  let s := { s with sched := { s.sched with commit := none, result := BitVec.ofNat 8 result } }
  let s := s.notice 0x2FFF 0 (natBytes 4 s.arbCommit)
  match req with
  | some n => s.finish n (if result = 0 then 0 else 0x0B) [BitVec.ofNat 8 result] 0
  | none => s

/-- Starts a commit (R71, R89); `req` is the YPP request it answers. -/
def State.commitGo (s : State) (req : Option Nat) : State :=
  if s.sched.commit.isSome then s
  else { s with sched := { s.sched with commit := some { goAt := s.clk.now, checked := none, req := req, at_ := 0 } } }

/-- A write to ARB_COMMIT: go starts a commit; while one is pending it is ignored (R71). -/
def execArbCommitGo (v : BitVec 32) (s : State) : Host.Outcome State Fault Refusal :=
  .next (if s.mgmt.por || !v.getLsbD 0 then s else s.commitGo none)

/-- The checks of a commit end: it fails, or waits for its switch cycle (R71, R89, R97, R108). -/
def execCommitChecksDone (s : State) : Host.Outcome State Fault Refusal :=
  .next (match s.sched.commit with
    | some c =>
      if s.mgmt.por || c.checked.isSome then s
      else match s.firstInvalid with
        | some (p, i) => (s.raise { code := 0x52, unit := uHearth, obj := p, aux := i }).commitEnd 0x52
        | none =>
          match (s.firstOver).or (if s.meshFits then none else some 0xFFFF) with
          | some r => (s.raise (s.admissionRec r)).commitEnd 0x50
          | none => { s with sched := { s.sched with commit := some { c with checked := some s.clk.now, at_ := s.clk.ts.toNat } } }
    | none => s)

/-- The cycle of R89 has come for a commit whose checks ended in cycle t: by the mode it sets, an epoch start or a multiple of
256 of the common count. -/
def State.switchDue (s : State) (t : Nat) : Bool :=
  if s.shd 0x2000 0 = 1 then decide (t < s.sched.start) && decide (s.sched.start ≤ s.clk.now)
  else (s.clk.now - s.clk.count0) / 256 ≠ (t - s.clk.count0) / 256

/-- Every shadowed value, and the walkers' rates, take effect (R71, R89, R106, R115, R296). -/
def State.switchAll (s : State) : State :=
  let budgets := (listed s.mgmt.shadow 0x2200)
  let s := { s with mgmt := { s.mgmt with active := s.mgmt.shadow } }
  let s := [0x3200, 0x3201, 0x3202].foldl (fun s p => s.setAct p 0 (s.pv p 0)) s
  State.regrade { s with sched := { s.sched with effective := budgets, reduced := [] } }

/-- All Hives switch to the shadowed values on one cycle (R71, R89). -/
def execCommitSwitch (s : State) : Host.Outcome State Fault Refusal :=
  .next (match s.sched.commit.bind (fun c => c.checked) with
    | some t => if s.clk.rootOn && s.switchDue t then s.switchAll.commitEnd 0 else s
    | none => s)

/-- A commit that has waited COMMIT_EPOCH_WAIT_US for an epoch start fails (R89). Time counts in nanoseconds of the
timestamp. -/
def execCommitNoEpoch (s : State) : Host.Outcome State Fault Refusal :=
  .next (match s.sched.commit with
    | some c =>
      match c.checked with
      | some t =>
        if s.shd 0x2000 0 = 1 && !s.switchDue t && decide (c.at_ + 1000 * s.pv 0x2003 0 ≤ s.clk.ts.toNat) then
          (s.raise { code := 0x56, unit := uHearth, aux := (s.clk.ts.toNat - c.at_) / 1000 }).commitEnd 0x56
        else s
      | none => s
    | none => s)

/-! ### Epochs -/

/-- EPOCH_STATUS (R88). -/
def State.epochStatus (s : State) : Nat := pack [(63, 63, b2n s.sched.running), (47, 0, s.sched.epoch.toNat)]

/-- The end of an epoch that started in a cycle (R86). -/
def State.epochEndOf (s : State) (start : Nat) : Nat := start + 256 * s.act 0x2001 0

/-- An edge of epoch_i sampled in this cycle (R87): the epoch it meets is the running one, or the one a pending edge starts. -/
def State.epochEdge (s : State) : State :=
  let at_ := s.clk.now + 16
  let met : Option (Nat × Nat) := match s.sched.pendStart.getLast? with
    | some p => some (p, s.sched.epoch.toNat + s.sched.pendStart.length)
    | none => if s.sched.running then some (s.sched.start, s.sched.epoch.toNat) else none
  let add := { s with sched := { s.sched with pendStart := s.sched.pendStart ++ [at_] } }
  match met with
  | none => add
  | some (p, e) =>
    if s.epochEndOf p ≤ at_ + 256 then add
    else s.raise { code := 0x55, unit := uHearth, ga := e, aux := s.recCycle % 2^32, obj := s.recCycle / 2^32 }

/-- A rising edge of epoch_i, recorded in RECORD mode, and ignored before READY and in REPLAY mode (R87, R348, R350, R455). -/
def execEpochEdge (s : State) : Host.Outcome State Fault Refusal :=
  .next (if !s.clk.rootOn || s.mgmt.phase ≠ 7 || s.replaying then s else (s.recInput 5 0 0 [] false).epochEdge)

/-- Reduced budgets take effect (R113 steps 3 and 4). -/
def State.reducedNow (s : State) : State :=
  if s.sched.reduced.isEmpty then s
  else
    let rs := (s.sched.reduced.map (fun e => e.1 / 8)).eraseDups
    let eff := s.sched.reduced.foldl (fun t e => Tbl.set t 0 e.1 (e.2 - 1)) s.sched.effective
    let s := State.regrade { s with sched := { s.sched with effective := eff, reduced := [] } }
    rs.foldl (fun s r => s.notice 0x2201 (8 * r)
      ((List.range 8).foldl (fun bs q => bs ++ natBytes 4 (s.budget r q)) [])) s

/-- The running epoch completes its periods with no new start, and a gap begins (R86 to R88). -/
def execEpochEnd (s : State) : Host.Outcome State Fault Refusal :=
  .next (
    if s.clk.rootOn && s.sched.running && decide (s.epochEndOf s.sched.start ≤ s.clk.now) then
      { s with sched := { s.sched with running := false } }
    else s)

/-! ### Regulation windows -/

/-- A window of 4,096 cycles ends: counts and be return to 0, and in DYNAMIC mode reduced budgets apply (R111, R113). -/
def execRegWindowBoundary (s : State) : Host.Outcome State Fault Refusal :=
  .next (
    if s.clk.rootOn && decide ((s.clk.now - s.clk.count0) % 4096 = 0) then
      let s := { s with sched := { s.sched with winBytes := [], demoted := [], demNext := [], demSeen := [] } }
      if s.determ then s else s.reducedNow
    else s)

/-! ### Loss of capacity (R113) -/

/-- Budgets of a resource reduced in class order until R108 holds. -/
def reduceBudgets (b : List Nat) (ceiling : Nat) : List Nat :=
  ((List.range 8).foldl (fun (p : List Nat × Nat) q =>
    let x := min (b.getD q 0) p.2
    (p.1 ++ [x], p.2 - x)) ([], ceiling)).1

/-- Capacity of a resource fell: CAPACITY_LOSS with the old and the new N and the reason, and the reduction of its active
budgets (R113). Reasons: 1 a retired stripe, 2 a failed channel, 3 a retrained link, 4 refresh demand. -/
def State.capacityLoss (s : State) (unit r : Nat) (old : Int) (reason : Nat) : State :=
  let t := s.mgmt.active
  let new := s.netCap t (s.act 0x3200 0) (s.act 0x3201 0) r
  let s := s.raise { code := 0x54, unit := unit, obj := r, aux := toTwos 32 new, ga := toTwos 48 old, count := reason }
  let sres := reservedBytes t r
  let cur := fun k => match Tbl.find s.sched.reduced k with
    | some v => v - 1
    | none => Tbl.get s.sched.effective 0 k
  if fits new sres (budgetSum cur r) then s
  else
    let top := (85 * (new - sres) / 100).toNat
    let bs := reduceBudgets ((List.range 8).map (fun q => cur (8 * r + q))) top
    { s with sched := { s.sched with
        reduced := (bs.zipIdx).foldl (fun m e => Tbl.insert m (8 * r + e.2) (e.1 + 1)) s.sched.reduced } }

/-- N of a resource in force. -/
def State.netNow (s : State) (r : Nat) : Int := s.netCap s.mgmt.active (s.act 0x3200 0) (s.act 0x3201 0) r

/-- Voids the wheel entries of an arbiter or a channel (R113 step 1). -/
def State.void (s : State) (k : Nat) : State := { s with sched := { s.sched with voided := addOnce s.sched.voided k } }

end Sys2Proof.Machine
end

