-- ==== Sys2Proof/Machine/Ports.lean ====
section
/-!
DEFINITION. Ports.lean: a port's request, MIP, the end of a stall at issue, the grant of a bank, a store, the sync-page
array or the injection stage, and expiry (R56 to R74).
-/
namespace Sys2Proof.Machine

/-! ### PORT_REQUEST -/

/-- Tags of a port (R56). -/
def portTags (port : Nat) : Nat :=
  match port with
  | 0 => 32
  | 1 => 32
  | 2 => 16
  | 3 => 1024
  | 4 => 256
  | 5 => 128
  | _ => 64

/-- The far-line cache's own fetches and write-backs, which hold no tag of SXP (R77). -/
def Xact.cacheOwn (x : Xact) : Bool :=
  match x.purpose with
  | .flcFill _ _ => true
  | .flcWriteback _ => true
  | _ => false

/-- Groups in flight that hold a tag of a port (R64). -/
def State.tagsHeld (s : State) (h port : Nat) : Nat :=
  ((s.flight.filter (fun x => x.srcUnit = h && x.srcPort = port && x.srcChip.isNone && x.stage ≠ .mirrorQueue && !x.cacheOwn)).map
    (fun x => x.grp)).eraseDups.length

/-- Tags of one DMA channel in use (R56, R64). -/
def State.chanTags (s : State) (h k : Nat) : Nat :=
  ((s.flight.filter (fun x => x.srcUnit = h && x.srcPort = 3 && x.srcChan = k && x.srcChip.isNone)).map
    (fun x => x.grp)).eraseDups.length

/-- The port has a free tag (R64). -/
def State.tagFree (s : State) (h port chan : Nat) : Bool :=
  decide (s.tagsHeld h port < portTags port) && (port ≠ 3 || decide (s.chanTags h chan < 64))

/-- The key under which a Hive's DXP keeps its presentation of this cycle. -/
def dxpKey (h : Nat) : Nat := 0x90000 + h

/-- The tag that the next request of a DMA channel takes (R64): the channel in bits 9:6 and its lowest free sequence number in bits 5:0. -/
def State.dxpTagOf (s : State) (h k : Nat) : Nat :=
  let used := (s.flight.filter (fun x => x.srcUnit = h && x.srcPort = 3 && x.srcChan = k && x.srcChip.isNone)).map (fun x => x.dxpTag % 64)
  64 * k + ((List.range 64).find? (fun n => !used.contains n)).getD 0

/-- The lines keep the shape of their port (R56): one aligned set for MXP and VXP, distinct banks for the others, whole
granules for STP. -/
def reqShape (port : Nat) (ls : List LineReq) (locs : List Loc) : Bool :=
  let gas := ls.map (fun l => l.ga.toNat / 64)
  let banks := (ls.zip locs).map (fun e => if e.2.arb = 0x50000 then 0x100000 + e.1.ga.toNat / 64 else e.2.arb)
  ls ≠ [] && decide (gas.eraseDups.length = gas.length) &&
  (match port with
   | 0 => gas.length = 16 && (gas.map (fun g => g / 16)).eraseDups.length = 1
   | 1 => gas.length ≤ 8 && (gas.map (fun g => g / 8)).eraseDups.length = 1
   | 3 => gas.length ≤ 8 && banks.eraseDups.length = banks.length
   | 5 => gas.length ≤ 8 && banks.eraseDups.length = banks.length
   | 6 => gas.length ≤ 8 && banks.eraseDups.length = banks.length && ls.all (fun l => !isPartial l.mask)
   | _ => false)

/-- Puts the lines of a request in flight, one transaction each, under one group number. -/
def State.addLines (s : State) (base : Xact) (ls : List LineReq) : State × List Nat :=
  let g := s.nextId
  let p := ls.foldl (fun (p : State × List Nat) l =>
    (p.1.addX { base with grp := g, ga := l.ga, mask := l.mask, data := l.data, loc := p.1.locate l.ga.toNat },
     p.2 ++ [p.1.nextId])) (s, [])
  (p.1, p.2)

/-- A port of a Hive presents a request in this cycle (R56). -/
def State.portTake (s : State) (h port : Nat) : State :=
  { s with hives := { s.hives with ported := (8 * h + port) :: s.hives.ported } }

/-- A port has not presented a request in this cycle (R56); DXP's presentations of the engine's own lines count too (R159). -/
def State.portFree (s : State) (h port : Nat) : Bool :=
  !s.hives.ported.contains (8 * h + port) && (port ≠ 3 || decide (s.freeAt (dxpKey h) ≤ s.clk.now))

/-- A port may present a request now: a shape it takes, a free tag, none presented in this cycle; requests of a context that SAVE holds, and
dynamic ones of DXP and SCP while HIVE is throttled, stay with their master (R56, R64, R142, R369). -/
def State.portReady (s : State) (h : Nat) (r : PortReq) : Bool :=
  let port := r.port.val
  let held := (!r.sched && (port = 3 || port = 5) && s.throttled 0) || s.hives.ctxJobs.any (fun j => j.hive = h && j.ctx = r.ctx.val)
  s.clk.rootOn && s.clockOf h ≠ .off && !held && reqShape port r.lines (r.lines.map (fun l => s.locate l.ga.toNat)) &&
    s.tagFree h port r.chan.val && s.portFree h port

/-- The wheel fields that a request of its own Hive needs name its port (R98): those of its lines outside the sync page. -/
def State.portMatch (s : State) (h : Nat) (r : PortReq) : Bool :=
  let locs := (r.lines.map (fun l => (l.ga.toNat, s.locate l.ga.toNat))).filter (fun e => ownHive h e.1 e.2 && !e.2.isSync)
  s.schedMatch h r.port.val (r.lines.foldl (fun a l => a + (touched l.mask).length) 0) (locs.map (fun e => e.2))

/-- A port presents a request (R56): it is judged whole against the wheels, which logs one mismatch (R98), and each line passes its issue
checks. -/
def execPortRequest (h : HiveId) (r : PortReq) (s : State) : Host.Outcome State Fault Refusal :=
  .next (
    if !s.portReady h.val r then s
    else
      let port := r.port.val
      let q := r.qos.val
      let now := s.clk.now
      let bad := r.sched && s.determ && s.sched.running && !s.portMatch h.val r
      let base : Xact := { kind := r.kind, code := r.code, sched := r.sched && !bad, qos := q, ctx := r.ctx.val,
                           deadline := s.deadlineAt (s.classDeadline q), flow := r.flow, srcUnit := h.val, srcPort := port, srcChan := r.chan.val,
                           layer := r.layer, operator := r.operator, unit := h.val, since := now, born := now,
                           dxpTag := if port = 3 then s.dxpTagOf h.val r.chan.val else 0 }
      let s := if bad then s.mismatch h.val port r.layer.toNat r.operator.toNat else s
      let p := (s.portTake h.val port).addLines base r.lines
      p.1.issueAll p.2 true)

/-! ### MIP_INBOUND -/

/-- Puts a request before its arbiter at the target Hive, its SCHED flag judged there (R98, R104). -/
def State.atTarget (s : State) (x : Xact) : State :=
  let h := x.loc.unit
  let miss := fun (cause late : Nat) =>
    (s.slotMiss h cause late (prioEntry x.loc) x.core.1 x.core.2 4 x.layer.toNat x.operator.toNat, x.missed s.clk.now s.clk.count0)
  let p : State × Xact :=
    if !x.sched then (s, x)
    else if x.loc.isSync || !s.determ then (s, { x with sched := false })
    else if !s.schedMatch h 4 0 [x.loc] then
      (s.mismatch h 4 x.layer.toNat x.operator.toNat, { x with sched := false })
    else if s.voidedNow x.loc.arb then miss 12 0
    else if s.asleep h then miss 10 (s.servesAt h + 4 * b2n (s.clockOf h = .warm) - s.clk.now)
    else (s, x)
  let t := p.1.wakeHive h
  t.setX { p.2 with stage := .arbiter, unit := h, since := s.clk.now, ready := t.servesAt h + xbar 4 false x.loc }

/-- The context whose ownership an access carries: its own, or for a line through a window the window's owner (R51). -/
def State.ownCtx (s : State) (x : Xact) : Nat :=
  match x.win with
  | some (_, h, w, _) => if x.mesh then fld (Tbl.get s.wins.table 0 (32 * h + w)).toNat 51 49 else x.ctx
  | none => x.ctx

/-- The checks of the target Hive's MIP (R39, R47, R51, R185, R363): the code that refuses the access. -/
def State.mipRefusal (s : State) (x : Xact) : Option Nat :=
  if x.kind = .acc && !isPair x.code.toNat then some 0x25
  else match s.refusal x.loc (isPoolGa x.ga.toNat) with
    | some c => some c
    | none =>
      if !s.storeReach x.loc 256 4 then some 0x14
      else if s.ownership x.loc (s.ownCtx x) = .refused then some 0x13
      else none

/-- Takes a held transaction through the checks of the MIP (R51, R52, R64, R212, R225). -/
def State.mipCheck (s : State) (x : Xact) : State :=
  let h := x.loc.unit
  match s.mipRefusal x with
  | some c => s.refuseAt x h c
  | none =>
    if s.ownership x.loc (s.ownCtx x) = .held then
      let p := if x.sched && s.determ && s.sched.running && s.schedMatch h 4 0 [x.loc] then
          (s.slotMiss h 3 0 (prioEntry x.loc) x.core.1 x.core.2 4 x.layer.toNat x.operator.toNat, x.missed s.clk.now s.clk.count0)
        else (s, x)
      p.1.setX { p.2 with stage := .issueStall, unit := h, since := s.clk.now }
    else match s.ringBlock x with
      | some _ => s.setX { x with stage := .ringStall, unit := h, since := s.clk.now }
      | none => s.atTarget x

/-! ### The end of a stall at issue -/

/-- Granule slots of the core-side bundle a request takes (R57). -/
def Xact.grans (x : Xact) : Nat := (touched x.mask).length

/-- Issues a stalled request again, after the checks of the port or of the MIP that holds it (R52, R220). -/
def State.reissue (s : State) (x : Xact) : State :=
  if x.mesh && x.unit = x.loc.unit then s.mipCheck x
  else s.issue { x with stage := .portInput } (s.schedMatch x.srcUnit x.srcPort x.grans [x.loc])

/-- Issues again the lines of a request that stall in a stage (R220, R225). -/
def State.reissueAll (s : State) (x : Xact) (st : Stage) : State :=
  ((s.atIssue x).filter (fun y => y.stage = st)).foldl (fun s y => match s.xact y.id with
    | some z => if z.stage = st then s.reissue z else s
    | none => s) s

/-- The unit that records a stall: the issuing Hive, or the ring's Hive for a line of another chip (R392). -/
def Xact.stallUnit (x : Xact) : Nat := if x.srcChip.isSome ∨ 256 ≤ x.srcUnit then x.loc.unit else x.srcUnit

/-- The trace record of a scoreboard stall (R392). -/
def State.sbStallRec (s : State) (x : Xact) (open_ : Bool) : TraceF :=
                    { kind := 0x09, unit := x.srcUnit, ctx := x.ctx, port := x.srcPort, chan := x.srcChan,
                      src := if open_ then {} else unpackParty x.by_, open_ := open_, obj := x.dest % 65536,
                      layer := x.layer.toNat, oper := x.operator.toNat, wait := s.clk.now - x.since, aux := x.ga.toNat }

/-- A scoreboard stall ends: its trace record. -/
def State.sbStall (s : State) (x : Xact) : State := s.traceGen (s.sbStallRec x false)

/-- The trace record of a ring stall; `bits` are aux (R392). -/
def State.ringStallF (s : State) (x : Xact) (tmo open_ : Bool) : Option TraceF :=
  match s.slotOf x.loc with
  | some (h, i, n) =>
    let src := if tmo || open_ then ({} : Party) else unpackParty (Tbl.get (s.ringAt h i).by_ 0 n)
    some              { kind := 0x04, unit := x.stallUnit, ctx := x.ctx, port := x.srcPort, chan := x.srcChan, src := src,
                        open_ := open_, obj := i * 256 + n, layer := x.layer.toNat, oper := x.operator.toNat,
                        wait := s.clk.now - x.since, aux := b2n (isWr x.kind) + 2 * b2n tmo }
  | none => none

/-- A ring stall ends: its trace record. -/
def State.ringStallRec (s : State) (x : Xact) (tmo : Bool) : State :=
  match s.ringStallF x tmo false with
  | some f => s.traceGen f
  | none => s

/-- An access stalled on a slot ring proceeds once full[s] takes the value it waits for (R225). -/
def execRingSlotStallEnd (x : Nat) (s : State) : Host.Outcome State Fault Refusal :=
  .next (match s.xact x with
    | some y =>
      if s.clk.rootOn && y.stage = .ringStall && (s.ringWait y).isNone then
        let s := s.ringStallRec y false
        if y.mesh then s.reissue y else s.reissueAll y .ringStall
      else s
    | none => s)

/-! ### BANK_GRANT: who is eligible -/

/-- The stages of a request that its target has not granted yet. -/
def Stage.ungranted : Stage → Bool
  | .arbiter => true
  | .meshIf => true
  | .injection => true
  | .link => true
  | .ejection => true
  | .mipHeld => true
  | .ringStall => true
  | .issueStall => true
  | .bankFirst => true
  | .bankSecond => true
  | _ => false

/-- Rule 5 (R212): no earlier write of the same source to the same destination waits, or for a read none to its bytes. -/
def State.orderOk (s : State) (x : Xact) : Bool :=
  s.flight.all (fun y => !(
    decide (y.seq < x.seq) && y.half = .request && isWr y.kind && y.source = x.source && y.loc.unit = x.loc.unit &&
    (y.stage = .arbiter || (x.mesh && y.stage.ungranted && y.stage ≠ .meshIf)) &&
    (isWr x.kind || (decide (y.lo < x.hi) && decide (x.lo < y.hi)))))

/-- The wheel entry in force in a cycle; FREE outside the running epoch. -/
def State.wheelAt (s : State) (h c : Nat) : Nat :=
  if s.determ && s.sched.running && decide (s.sched.start ≤ c) then s.act 0x8400 (256 * h + (c - s.sched.start) % 256)
  else 0x003FFFFFFFFFFFFF

/-- A bank cycle `b` of a location is reserved: the entry of the presentation cycle that leads to it names a port (R36,
R40, R68; log entry 12). -/
def State.reserved (s : State) (h b : Nat) (loc : Loc) : Bool :=
  (List.range 7).any (fun q =>
    let d := 1 + xbar q true loc
    d ≤ b && wheelField (s.wheelAt h (b - d)) loc = q)

/-- Bank cycles an access will occupy (R33). -/
def State.bankCycles (s : State) (x : Xact) : Nat :=
  match x.loc with
  | .sync _ _ =>
    if x.kind = .atomic then 2
    else if isWr x.kind && fld x.mask.toNat (8 * (x.ga.toNat / 8 % 8) + 7) (8 * (x.ga.toNat / 8 % 8)) ≠ 255 then 2 else 1
  | l =>
    match l.rowId with
    | some (k, h, b, r) =>
      let row := s.rowAt (s.rowPlace k h b r)
      if x.kind = .acc ∨ x.kind = .atomic then 2
      else if x.kind = .write ∧ isPartial x.mask ∧ row.valid then 2 else 1
    | none => 1

/-- A core-side port (R57). -/
def coreSide (p : Nat) : Bool := p = 0 || p = 1 || p = 2 || p = 6

/-- Granted in this cycle at its own Hive, in a direction of the crossbar: writes one way, read data the other (R57). -/
def State.grantedNow (s : State) (h p : Nat) (wr : Bool) : List Xact :=
  s.flight.filter (fun y => !y.mesh && y.srcUnit = h && y.srcPort = p && y.half = .answer && y.since = s.clk.now &&
    y.stage = .returned && isWr y.kind = wr)

/-- Granule slots a port has taken in this cycle in a direction. -/
def State.slotsUsed (s : State) (h p : Nat) (wr : Bool) : Nat := (s.grantedNow h p wr).foldl (fun a y => a + y.grans) 0

/-- Granule slots that requests of a port still ask for in this cycle in a direction: the SCHED ones, or the dynamic ones (R57). -/
def State.slotsAsked (s : State) (h p : Nat) (wr sched : Bool) : Nat :=
  (s.flight.filter (fun y => !y.mesh && y.srcUnit = h && y.srcPort = p && y.stage = .arbiter && y.half = .request && y.sched = sched &&
    isWr y.kind = wr && decide (y.ready ≤ s.clk.now))).foldl (fun a y => a + y.grans) 0

/-- Granule slots that the core-side ports have taken in this cycle in a direction (R57). -/
def State.slotsTaken (s : State) (h : Nat) (wr : Bool) : Nat := [0, 1, 2, 6].foldl (fun a p => a + s.slotsUsed h p wr) 0

/-- Granule slots that SCHED requests of the core-side ports still ask for (R57). -/
def State.slotsSched (s : State) (h : Nat) (wr : Bool) : Nat := [0, 1, 2, 6].foldl (fun a p => a + s.slotsAsked h p wr true) 0

/-- Granule slots a port takes or asks for as dynamic in this cycle, within its first claim (R57). -/
def State.slotsWanted (s : State) (h p cap : Nat) (wr : Bool) : Nat := sat cap (s.slotsUsed h p wr + s.slotsAsked h p wr false)

/-- The crossbar has the width for one more line in this cycle (R25, R57, R58): 200 granule slots for the core-side ports in each direction, SCHED
requests first, then the claims of MXP, VXP and SXP and what they leave for STP; 8, 4 and 8 lines for DXP, MIP and SCP. -/
def State.widthOk (s : State) (x : Xact) : Bool :=
  let h := x.loc.unit
  let p := x.port
  let wr := isWr x.kind
  if x.mesh then
    (s.flight.filter (fun y => y.mesh && y.loc.unit = h && y.half = .answer && y.since = s.clk.now && isWr y.kind = wr)).length < 4
  else if coreSide p then
    let n := x.grans
    if x.sched then decide (s.slotsTaken h wr + n ≤ 200)
    else decide (s.slotsTaken h wr + s.slotsSched h wr + n ≤ 200) && (match p with
      | 0 => decide (s.slotsUsed h 0 wr + n ≤ 128)
      | 1 => decide (s.slotsUsed h 1 wr + n ≤ 64)
      | 2 => decide (s.slotsUsed h 2 wr + n ≤ 1)
      | _ => decide (s.slotsUsed h 6 wr + n ≤ 200 - s.slotsWanted h 0 128 wr - s.slotsWanted h 1 64 wr - s.slotsWanted h 2 1 wr))
  else (s.grantedNow h p wr).length < 8

/-- The bank is being cleared by a handover and accepts no access (R52). -/
def State.clearing (s : State) : Loc → Bool
  | .row h b _ => (s.ownerOf h b).clrAt.isSome
  | _ => false

/-- A write of a MOVE's own channel and descriptor (R141). -/
def Xact.ofMove (x : Xact) (m : Move) : Bool :=
  match x.purpose with
  | .dmaDst d _ => d = m.desc && x.srcUnit = m.slot / 512 && x.srcPort = 3 && x.srcChan = m.chan
  | _ => false

/-- A write to the source range of a MOVE in its final pass stalls at its bank (R141). -/
def State.moveHold (s : State) (x : Xact) : Bool :=
  match x.loc with
  | .row h b r => isWr x.kind && s.hives.moves.any (fun m => m.final && m.hive = h && !x.ofMove m && decide (m.src ≤ 64 * r + b) &&
      decide (64 * r + b < m.src + m.lines))
  | _ => false

/-- Words of its line that an access at a sync page takes, each as one access of the array (R227). -/
def Xact.syncWords (x : Xact) : List Nat := if x.kind = .atomic then [x.ga.toNat / 8 % 8] else touched x.mask

/-- Two locations share a bank group or an operand store (R16, R90). -/
def sameGroup (a b : Loc) : Bool :=
  match a, b with
  | .row h i _, .row k j _ => h = k && i / 4 = j / 4
  | .mat h _ _, .mat k _ _ => h = k
  | .vec h _ _, .vec k _ _ => h = k
  | _, _ => false

/-- A SCHED request stands in this cycle at a bank group, or was granted there in it: the group accepts no other request (R16). -/
def State.groupHeld (s : State) (x : Xact) : Bool :=
  s.flight.any (fun y => y.sched && sameGroup y.loc x.loc &&
    ((y.stage = .arbiter && y.half = .request && decide (y.ready ≤ s.clk.now)) || (y.half = .answer && y.since = s.clk.now)))

/-- The second beat of another channel request's burst holds an arbiter in this cycle (R69). -/
def State.beatHeld (s : State) (x : Xact) : Bool :=
  s.flight.any (fun y => y.dir = 3 && y.dest = s.clk.now && y.stage = .arbiter && y.half = .request && !y.mesh && y.loc.arb = x.loc.arb && y.id ≠ x.id)

/-- The request may be granted in this cycle, before the order of R66 (R16, R66, R68, R69, R103, R212, R228, R325, R377). -/
def State.eligible (s : State) (x : Xact) : Bool :=
  decide (x.ready ≤ s.clk.now) && decide (s.servesAt x.loc.unit ≤ s.clk.now) && s.orderOk x && s.widthOk x && !s.clearing x.loc &&
  !(isWr x.kind && s.power.hold) && !s.mirrorHold x.loc.unit x && !s.moveHold x &&
  (match x.loc with
   | .sync h w => !(isWr x.kind && decide (w < 8064 ∨ (w - 8064) % 4 = 0) &&
       decide (16 < (Tbl.get s.hives.passes [] h).length + x.syncWords.length))
   | l => x.sched || (!s.groupHeld x && !s.beatHeld x && (s.bankCycles x < 2 || !s.reserved l.unit (s.clk.now + 2) l)))

/-! ### BANK_GRANT: the order of R66 -/

/-- Lexicographic order. -/
def lexLt : List Nat → List Nat → Bool
  | [], [] => false
  | [], _ :: _ => true
  | _ :: _, [] => false
  | a :: as, b :: bs => if a < b then true else if b < a then false else lexLt as bs

/-- Cycle in which the slack of a request reaches 0 (R63, R67). -/
def Xact.dueAt (x : Xact) (c0 : Nat) : Nat :=
  x.born + (x.deadline.toNat + 65536 - (x.born - c0) % 65536) % 65536

/-- Cycles a request is overdue, saturating; none while it has slack (R67). -/
def State.overdue (s : State) (x : Xact) : Option Nat :=
  match x.expired with
  | some t => some (sat 65535 (s.clk.now - t))
  | none => if x.dueAt s.clk.count0 ≤ s.clk.now then some (sat 65535 (s.clk.now - x.dueAt s.clk.count0)) else none

/-- Rank of a master in the priority table entry g of a Hive (R70). -/
def State.rank (s : State) (h g port : Nat) : Nat := fld (s.act 0x8100 (32 * h + g)) (4 * port + 2) (4 * port)


/-- The accounted resource of a location: the main banks of its Hive (R105). -/
def Loc.resource : Loc → Option Nat
  | .row h _ _ => some h
  | _ => Option.none

/-- The place of a request in the order of R66: smaller is served first. `be` tells best effort, `rank` its master's. -/
def State.order (s : State) (x : Xact) (be : Bool) (rank : Nat) : List Nat :=
  let be := be && !x.noBe
  [b2n (!x.sched), b2n (!(x.dir = 3 && x.dest = s.clk.now)), b2n be] ++
  (if be then [0, 0] else match s.overdue x with
    | some n => [0, 65535 - n]
    | none => [1, x.dueAt s.clk.count0 - s.clk.now]) ++
  [rank, x.born, x.srcChan, x.id]

/-- The order key of a candidate at a bank, a store or the array (R66, R227). -/
def State.bankOrder (s : State) (x : Xact) : List Nat :=
  let h := x.loc.unit
  match x.loc with
  | .sync _ _ => s.order x false (match x.port with
      | 4 => 0
      | 2 => 1
      | 5 => 2
      | _ => 3)
  | l => s.order x (match l.resource with
      | some r => s.bestEffort r x.qos
      | none => false) (s.rank h (prioEntry l) x.port)

/-- The first of a list under a key. -/
def firstBy (key : Xact → List Nat) (xs : List Xact) : Option Xact :=
  xs.foldl (fun a x => match a with
    | none => some x
    | some y => if lexLt (key x) (key y) then some x else some y) none

/-- A list in the order of a key. -/
def inOrder (key : Xact → List Nat) (xs : List Xact) : List Xact :=
  xs.foldr (fun x l => let p := l.span (fun y => lexLt (key y) (key x)); p.1 ++ x :: p.2) []

/-! ### BANK_GRANT: the access -/

/-- Counts a grant for its unit (R386). -/
def State.countGrant (s : State) (u : Nat) (x : Xact) (be : Bool) : State :=
  let n := x.bytes
  let s := if isWr x.kind then s.cadd 0x6700 (8 * u + 3) n else s.cadd 0x6700 (8 * u + 2) n
  s.cadd 0x6700 (8 * u + (if x.sched then 4 else if be then 6 else 5)) 1

/-- The result of an access that found an uncorrectable granule, or of one that did not (R284). -/
def Xact.resultOf (x : Xact) (bad : Bool) : Result := if bad then .uncorr (BitVec.ofNat 8 (uncorrCode x)) else .ok

/-- What a write of a Hive row forwards to the partner (R19, R186, R324): an ACC goes as MACC whatever the row held, for the copy of an invalid
row is zero. -/
def State.forwardRow (s : State) (x : Xact) (wasValid : Bool) (o : BankOut) : State :=
  if !o.wrote || isPoolGa x.ga.toNat then s
  else if !wasValid ∧ x.kind ≠ .acc then s.forward x.loc.unit x .write fullMask o.row.data
  else match x.kind with
    | .atomic => s.forward x.loc.unit x .write (byteMask (x.ga.toNat % 64) (atomSize x.code.toNat)) o.row.data
    | .acc => s.forward x.loc.unit x .acc x.mask x.data
    | _ => s.forward x.loc.unit x .write x.mask x.data

/-- Marks the second beat of a burst for the following cycle once the whole first beat is granted and every bank cycle it will take is
FREE and its banks are; else the second beat arbitrates as a new request (R69). -/
def State.burstBeat (s : State) (x : Xact) : State :=
  if x.dir ≠ 1 then s
  else if s.flight.any (fun y => y.grp = x.grp && y.dir = 1 && y.stage = .arbiter && y.id ≠ x.id) then s
  else
    let second := s.flight.filter (fun y => y.dir = 2 && y.dest = x.grp && y.stage = .arbiter)
    let free := second.all (fun y => decide (s.freeAt y.loc.arb ≤ s.clk.now + 1) &&
      (List.range (s.bankCycles y)).all (fun i => !s.reserved y.loc.unit (s.clk.now + 2 + i) y.loc))
    { s with flight := s.flight.map (fun y =>
        if y.dir = 2 && y.dest = x.grp && y.stage = .arbiter then
          if free then { y with dir := 3, dest := s.clk.now + 1, ready := s.clk.now + 1 }
          else { y with dir := 0, ready := max y.ready (s.clk.now + 1) }
        else y) }

/-- Grants a request at its row: the access, its accounting, its copy to the partner, its answer (R33, R66, R111). It counts 64 B for each bank
cycle whatever the access carries (DESIGN CHOICE, log entry 13). -/
def State.grantRow (s : State) (x : Xact) (kind h bank row : Nat) : State :=
  let be := match x.loc.resource with
    | some r => s.bestEffort r x.qos
    | none => false
  let valid := (s.rowAt (s.rowPlace kind h bank row)).valid
  let p := s.rowAccess x x.loc kind h bank row
  let o := p.2
  let s := match x.loc.resource with
    | some r => p.1.account r x.qos (64 * o.cyc) x.sched
    | none => p.1
  let s := ((s.countGrant h x be).occupy x.loc.arb o.cyc).burstBeat x
  let s := s.forwardRow x valid o
  let rd := !isWr x.kind || x.kind = .atomic
  s.answer { x with since := s.clk.now, data := if rd then o.data else 0, result := x.resultOf o.bad,
                    poison := (x.poison || o.bad) && !isWr x.kind } h
    (backAt x.port (!x.mesh) x.loc + (o.cyc - 1))

/-- The access of word `g` of a line at the sync-page array, after those of the words before it: the state, the data read, an uncorrectable word and
the cycles so far (R227, R228). -/
def syncWord (x : Xact) (h w : Nat) (p : State × Line × Bool × Nat) (g : Nat) : State × Line × Bool × Nat :=
  let m : Byte := BitVec.ofNat 8 (fld x.mask.toNat (8 * g + 7) (8 * g))
  let d : Dword := if x.kind = .atomic then BitVec.ofNat 64 (x.data.toNat % 2^64) else Line.gran x.data g
  let o := p.1.syncAccess x h (w / 8 * 8 + g) m d
  (o.s, Line.setGran p.2.1 g o.data, p.2.2.1 || o.bad, p.2.2.2 + o.cyc)

/-- Grants a request at the sync-page array, which its words occupy in turn (R227, R228). -/
def State.grantSync (s : State) (x : Xact) (h w : Nat) : State :=
  let o := x.syncWords.foldl (syncWord x h w) (s, 0, false, 0)
  let s := (o.1.countGrant h x false).occupy x.loc.arb o.2.2.2
  let rd := !isWr x.kind || x.kind = .atomic
  s.answer { x with since := s.clk.now, data := if rd then o.2.1 else 0, result := x.resultOf o.2.2.1,
                    poison := (x.poison || o.2.2.1) && !isWr x.kind } h (4 + (o.2.2.2 - 1))

/-- Notes that an arbiter granted in this cycle (R74). -/
def State.noteGrant (s : State) (k : Nat) (sched : Bool) : State :=
  { s with hives := { s.hives with granted := (k, sched) :: s.hives.granted } }

/-- Performs the access of a granted request. -/
def State.grant (s : State) (x : Xact) : State :=
  let s := s.noteGrant x.loc.arb x.sched
  match x.loc with
  | .sync h w => (s.active h).grantSync x h w
  | l => match l.rowId with
    | some (k, h, b, r) => (s.active h).grantRow x k h b r
    | none => s

/-- SCHED requests that a busy bank or a supply hold keeps from their cycle miss it (R36, R99, R100, R377). -/
def State.missHere (s : State) (cause : Nat) (pick : Xact → Bool) : State :=
  (s.flight.filter pick).foldl (fun s x =>
    (s.slotMiss x.loc.unit cause (max (s.freeAt x.loc.arb) (s.clk.now + 1) - x.ready) (prioEntry x.loc) x.core.1 x.core.2 x.port x.layer.toNat x.operator.toNat).setX
      { x.missed s.clk.now s.clk.count0 with id := x.id }) s

/-- A SCHED request before an arbiter whose cycle has come. -/
def State.schedDue (s : State) (x : Xact) : Bool :=
  x.stage = .arbiter && x.half = .request && x.sched && decide (x.ready ≤ s.clk.now)

/-- At the end of a cycle, a SCHED request whose bank is still in its second cycle, and a SCHED write that a supply hold keeps, have missed it
(R36, R99, R100). -/
def State.cycleMisses (s : State) : State :=
  (s.missHere 1 (fun x => s.schedDue x && decide (s.clk.now < s.freeAt x.loc.arb))).missHere 11 (fun x => s.schedDue x && s.power.hold && isWr x.kind)

/-- The requests before an arbiter. -/
def State.before (s : State) (k : Nat) : List Xact :=
  s.flight.filter (fun x => x.stage = .arbiter && x.half = .request && x.loc.arb = k)

/-- A bank, a store or the array grants the first eligible request of R66, or none. -/
def State.bankGrant (s : State) (k : Nat) : State :=
  let now := s.clk.now
  if now < s.freeAt k then
    s.missHere 1 (fun x => s.schedDue x && x.loc.arb = k)
  else
    let s := if s.power.hold then s.missHere 11 (fun x => s.schedDue x && x.loc.arb = k && isWr x.kind) else s
    match firstBy s.bankOrder ((s.before k).filter s.eligible) with
    | some x => s.grant x
    | none => s

/-! ### The injection stage -/

/-- The router at which a transaction leaves the mesh, and its last direction there (R11, R12). -/
def Xact.exit (x : Xact) : Nat × Nat :=
  match x.half with
  | .request => (dstRouter x.srcUnit x.dest, if x.dest < 256 then 4 else 6)
  | .answer => (srcRouter x.srcUnit x.loc.unit, if x.srcUnit < 256 then 4 else 6)

/-- The flow a SCHED packet needs named in a link's entry (R92). -/
def Xact.flowCode (x : Xact) : Nat := x.flow.toNat + (if x.half = .answer then 0x800 else 0)

/-- Some entry of a link's wheel names a flow (R93). -/
def State.flowNamed (s : State) (h d f : Nat) : Bool :=
  f ≠ 0 && (List.range 256).any (fun p => s.act 0x8500 (256 * (8 * h + d) + p) % 4096 = f)

/-- Clears the SCHED flag of a packet that no entry of an output names, logging the mismatch (R93, R98). While no epoch runs no entry is in force: the
flag of a packet already under way is cleared with no record (DESIGN CHOICE, log entry 82: neither rule speaks of it). -/
def State.linkMismatch (s : State) (h d : Nat) (pick : Xact → Bool) : State :=
  (s.flight.filter (fun x => pick x && x.sched)).foldl (fun s x =>
    if s.determ && s.sched.running && s.flowNamed h d x.flowCode then s
    else
      let s := if s.determ && s.sched.running then s.mismatch h (if d = 5 then x.srcPort else 4) x.layer.toNat x.operator.toNat
        else s
      s.setX { x with sched := false }) s

/-- A packet would overtake an earlier write of its source to its destination at a link (R212): none may, and a read none to its bytes. -/
def State.overtakes (s : State) (here : Xact → Bool) (x : Xact) : Bool :=
  x.half = .request && s.flight.any (fun y => here y && decide (y.seq < x.seq) && y.grp ≠ x.grp && y.half = .request && isWr y.kind && y.source = x.source &&
    (x.stage ≠ .meshIf || (y.srcPort = x.srcPort && (x.srcPort ≠ 3 || y.srcChan = x.srcChan))) && y.dest = x.dest &&
    (isWr x.kind || (decide (y.lo < x.hi) && decide (x.lo < y.hi))))

/-- The packet a link sends in this cycle (R93): the SCHED packet whose flow the entry names, else the first dynamic packet; `here` tells which stand at
the link, `pick` which of them may go, `rank` gives step 4. The writes of a source to a destination keep their order (R212; DESIGN CHOICE, log entry 81:
also where R66 would rank the later one first). -/
def State.linkPick (s : State) (h d : Nat) (here pick : Xact → Bool) (rank : Xact → Nat) : Option Xact :=
  let ready := s.flight.filter (fun x => pick x && decide (x.ready ≤ s.clk.now) && !s.overtakes here x)
  let f := s.linkWheel h d
  match ready.find? (fun x => x.sched && f ≠ 0 && x.flowCode = f) with
  | some x => some x
  | none => firstBy (fun x => s.order x (s.bestEffort (0x100 + 8 * h + d) x.qos) (rank x)) (ready.filter (fun x => !x.sched))

/-- The lines that travel with a packet: those of its request bound the same way, 256 B in all (R61, R92). -/
def packetOf (ready : List Xact) (x : Xact) : List Xact :=
  (x :: ready.filter (fun y => y.id ≠ x.id && y.grp = x.grp && y.half = x.half && y.dest = x.dest && y.sched = x.sched)).take 4

/-- The rank of a contender at the injection stage: SXP for far-line cache traffic, MIP for responses (R61, R70). -/
def State.injectRank (s : State) (h : Nat) (x : Xact) : Nat :=
  s.rank h 18 (if x.half = .answer then 4 else if x.srcPort = 2 then 2 else x.srcPort)

/-- Moves a packet into a router: its next output and its place there. -/
def Xact.enter (x : Xact) (router inp now : Nat) : Xact :=
  let e := x.exit
  { x with stage := .link, unit := router, dir := nextDir router e.1 e.2, inp := inp, ready := now + 1, since := now }

/-- A far-line cache write-back on its way out (R78, R377). -/
def Xact.isWriteback (x : Xact) : Bool :=
  match x.purpose with
  | .flcWriteback _ => x.half = .request
  | _ => false

/-- The injection stage of a Hive grants one injection of up to 256 B (R61). -/
def State.injectGrant (s : State) (h : Nat) : State :=
  let k := 0x40000 + h
  let pick := fun (x : Xact) => x.stage = .meshIf && x.unit = h && !(s.power.hold && x.isWriteback) && (x.sched || !s.throttled 1)
  if s.clk.now < s.freeAt k then s
  else
    let s := s.linkMismatch h 5 (fun x => x.stage = .meshIf && x.unit = h && decide (x.ready ≤ s.clk.now))
    match s.linkPick h 5 (fun x => x.stage = .meshIf && x.unit = h) pick (s.injectRank h) with
    | none => s
    | some x =>
      let r := 0x100 + 8 * h + 5
      let be := s.bestEffort r x.qos
      let ps := packetOf (s.flight.filter (fun y => pick y && decide (y.ready ≤ s.clk.now))) x
      let s := (((s.noteGrant k x.sched).account r x.qos 256 x.sched).cadd 0x6700 (8 * h + (if x.sched then 4 else if be then 6 else 5)) 1).occupy k 1
      ps.foldl (fun s y =>
        let s := s.setX { y.enter h 4 s.clk.now with seq := if y.half = .request then s.nextId else y.seq }
        { s with nextId := s.nextId + 1 }) s

/-- A bank, a store, the sync-page array or an injection stage grants one request (R66). -/
def execBankGrant (a : Arbiter) (s : State) : Host.Outcome State Fault Refusal :=
  .next (
    if !s.clk.rootOn then s
    else match a with
      | .inject h => s.injectGrant h.val
      | a => s.bankGrant (arbKey a))

/-- An arrival at a barrier cell: the array grants that access if it is the first of R66 (R227, R234, R235). -/
def execBarrierArrive (x : Nat) (s : State) : Host.Outcome State Fault Refusal :=
  .next (match s.xact x with
    | some y =>
      match y.loc with
      | .sync _ w =>
        let first := firstBy s.bankOrder ((s.before y.loc.arb).filter s.eligible)
        if s.clk.rootOn && decide (8064 ≤ w ∧ (w - 8064) % 4 = 0) && decide (s.freeAt y.loc.arb ≤ s.clk.now) &&
            (match first with
             | some z => z.id = y.id
             | none => false) then s.grant y
        else s
      | _ => s
    | none => s)

/-- A request's slack reaches 0: it expires and its overdue count starts (R67). -/
def execRequestExpire (x : Nat) (s : State) : Host.Outcome State Fault Refusal :=
  .next (match s.xact x with
    | some y =>
      if s.clk.rootOn && y.half = .request && y.expired.isNone && decide (y.dueAt s.clk.count0 ≤ s.clk.now) then
        s.setX { y with expired := some (y.dueAt s.clk.count0) }
      else s
    | none => s)

end Sys2Proof.Machine
end

