-- ==== Sys2Proof/Machine/WinOps.lean ====
section
/-!
DEFINITION. WinOps.lean: windows and their credits at both ends (R132 to R140), the lines a window applies (R137, R213,
R236) and the frames that carry them.
-/
namespace Sys2Proof.Machine

/-! ### Window entries (R134) -/

/-- Window w of a Hive. -/
def State.win (s : State) (h w : Nat) : Quad := Tbl.get s.wins.table 0 (32 * h + w)
/-- Its credit state. -/
def State.winx (s : State) (h w : Nat) : WinX := Tbl.get s.wins.extra {} (32 * h + w)
/-- Stores a window entry. -/
def State.setWin (s : State) (h w : Nat) (q : Quad) : State :=
  { s with wins := { s.wins with table := Tbl.set s.wins.table 0 (32 * h + w) q } }
/-- Stores a window's credit state. -/
def State.setWinx (s : State) (h w : Nat) (x : WinX) : State :=
  { s with wins := { s.wins with extra := Tbl.set s.wins.extra {} (32 * h + w) x } }

def wState (q : Quad) : Nat := fld q.toNat 47 45
def wOwner (q : Quad) : Nat := fld q.toNat 51 49
def wAccMode (q : Quad) : Bool := bit q.toNat 48
def wAccFmt (q : Quad) : Nat := fld q.toNat 55 52
def wGen (q : Quad) : Nat := fld q.toNat 63 56
def wLo (q : Quad) : Nat := fld q.toNat 73 64
def wHi (q : Quad) : Nat := fld q.toNat 83 74
def wCredits (q : Quad) : Nat := fld q.toNat 99 84
def wFwdWin (q : Quad) : Nat := fld q.toNat 109 105
def wFwdHive (q : Quad) : Nat := fld q.toNat 117 110
def wFwdChip (q : Quad) : Nat := fld q.toNat 127 118
def wBase (q : Quad) : Nat := fld q.toNat 15 0
def wExtent (q : Quad) : Nat := fld q.toNat 31 16

/-- GA of a window's first line on its own chip. -/
def winGa (h : Nat) (q : Quad) : Nat := h * 0x400000 + 64 * wBase q

/-! ### Control-page words -/

/-- The key of a register of a control page. -/
def pageKey (h c off : Nat) : Nat := (8 * h + c) * 8192 + off / 8

/-- A control-page register as stored. -/
def State.page (s : State) (h c off : Nat) : Dword := Tbl.get s.hives.pages 0 (pageKey h c off)

/-- Stores a control-page register. -/
def State.setPage (s : State) (h c off : Nat) (v : Dword) : State :=
  { s with hives := { s.hives with pages := Tbl.set s.hives.pages 0 (pageKey h c off) v } }

/-- Sets the status field of a command register (bits 63:60); its other readable bits are those of `keep`. -/
def State.setStatus (s : State) (h c off st keep : Nat) : State :=
  s.setPage h c off (dwordOf [(63, 60, st), (59, 0, keep)])

/-- Status of a command register. -/
def State.status (s : State) (h c off : Nat) : Nat := fld (s.page h c off).toNat 63 60

/-- WIN_SIGNAL of a window, one register per window (R236). -/
def State.winSignal (s : State) (h w : Nat) : Dword := s.page h 0 (0x0800 + 8 * w)

/-! ### Trace and records of windows -/

/-- The trace record of a window's change (R392). -/
def State.winChange (s : State) (h w old new since : Nat) : State :=
  s.traceGen { kind := 0x0A, unit := h, ctx := wOwner (s.win h w), obj := w, wait := s.clk.now - since, aux := old + 16 * new }

/-- The kind byte of a frame of lines (R132). -/
def kindByte : AccKind → Nat
  | .acc => 2
  | .atomic => 3
  | _ => 1

/-- The record of a frame that a window turns away, with its header fields (R136, R137, R185): its kind, generation, window, class, source, lines,
sched, op, IDs, mask, and bits 21:0 of its address, whose Hive is the recording unit. The places of the fields are the model's (log entry 9). -/
def discardRec (h code c kind : Nat) (f : Frame) (ts : Dword) : Rec :=
  recOf [(255, 248, code), (247, 239, h), (238, 236, c), (235, 232, f.op.toNat), (231, 224, kind), (223, 216, f.winGen.toNat), (215, 211, f.win.val),
    (210, 208, f.qos.val), (207, 198, f.srcChip.val), (197, 190, f.srcHive.val), (189, 187, f.payload.length), (186, 186, b2n f.sched),
    (185, 180, fld f.ga.toNat 21 16), (175, 160, f.layer.toNat), (159, 144, f.operator.toNat), (143, 80, f.mask.toNat), (79, 64, fld f.ga.toNat 15 0),
    (63, 0, ts.toNat)]

/-- Records a frame that a window turns away (R136, R137, R185). -/
def State.discard (s : State) (h code c kind : Nat) (f : Frame) : State := s.faultAccess h h c (discardRec h code c kind f s.clk.ts)

/-! ### Counts of applied lines (R133) -/

/-- The key of the count of lines applied for a source Hive at a window. -/
def rackKey (h w chip hive : Nat) : Nat := ((h * 1024 + chip) * 256 + hive) * 32 + w

/-- The key of a sender's lines toward a window. -/
def sendKey (h chip dhive w : Nat) : Nat := ((h * 1024 + chip) * 256 + dhive) * 32 + w

/-- The key of a context's count toward a chip. -/
def ctxChip (h c chip : Nat) : Nat := (8 * h + c) * 1024 + chip

/-- A control frame of a Hive toward a Hive of another chip (R132). The header has no field for the Hive that a frame toward a sender is bound for:
the frame carries it beside the header, in `dstHive` (DESIGN CHOICE, log entry 86). -/
def State.ctlFrame (s : State) (h chip hive w gen count ga : Nat) : Frame :=
  { srcChip := chipFin s.chipId, srcHive := hiveFin h, dstChip := chipFin chip, win := fin32 w, winGen := BitVec.ofNat 8 gen,
    qos := fin8 0, sched := false, relEpoch := 0, relPeriod := 0, relPos := 0, op := 0, count := BitVec.ofNat 16 count,
    ga := BitVec.ofNat 48 ga, layer := 0, operator := 0, mask := 0, dstHive := hiveFin hive, payload := [] }

/-- Adjusts the holder of a window. -/
def WinX.holder (x : WinX) (chip hive : Nat) : Option Holder := x.holders.find? (fun o => o.chip = chip && o.hive = hive)

/-- Rewrites the holder of a window. -/
def WinX.mapHolder (x : WinX) (chip hive : Nat) (f : Holder → Holder) : WinX :=
  { x with holders := x.holders.map (fun o => if o.chip = chip && o.hive = hive then f o else o) }

/-- The Hive in whose name a transaction goes to a window: its own, or for a line of an edge Scarab the one that submitted the job. -/
def Xact.hive (x : Xact) : Nat := if 256 ≤ x.srcUnit ∧ x.srcPort = 5 then x.tag / 256 else x.srcUnit

/-! ### The sender's side: fences (R214) -/

/-- The Hive of a chip that a WINDOW handle names, its window and generation (R134). -/
def winOf (q : Quad) : Nat × Nat × Nat × Nat := (hChip q, hBase q / 0x400000 % 256, hWin q, hWinGen q)

/-- The allotment of a sender at a window. -/
def State.allot (s : State) (h chip dhive w gen : Nat) : Option Allot :=
  s.wins.allots.find? (fun a => a.hive = h && a.chip = chip && a.dhive = dhive && a.win = w && a.gen = gen)

/-- The place a sender's lines for a window go to, after any REDIRECT (R139). -/
def State.placeOf (s : State) (h : Nat) (k : Nat × Nat × Nat × Nat) : Nat × Nat × Nat × Nat :=
  match s.allot h k.1 k.2.1 k.2.2.1 k.2.2.2 with
  | some a => match a.st, a.next with
    | .redirected, some n => n
    | _, _ => k
  | none => k

/-- The window to which a job of a Hive writes, if its output or table handle is one (R185, R195): `refs` keeps the handle entries resolved at
submission, in the order of R199. -/
def Job.place (j : Job) : Option (Nat × Nat × Nat × Nat) :=
  let q : Quad := BitVec.ofNat 128 (j.refs.getD (if fld j.w.toNat 479 476 = 4 then 0 else 4) 0)
  if hClass q = 6 then some (winOf q) else none

/-- A fence's context still has lines to send to chips of a kind that were issued before the fence: stalled lines, lines of an issued descriptor or of
a job (R214). -/
def State.fencePend (s : State) (f : Fence) (p : Nat → Bool) : Bool :=
  let toward := fun (k : Nat × Nat × Nat × Nat) => p (s.placeOf f.hive k).1
  let old := fun (id : Nat) => s.hives.sb.any (fun e => e.id = id && decide (e.since ≤ f.since))
  s.flight.any (fun x => (x.stage = .issueStall || x.stage = .scoreboard) && x.hive = f.hive && x.ctx = f.ctx && x.srcChip.isNone &&
    (match x.win with
     | some k => toward k && (x.desc.isNone || decide (s.ownSince x ≤ f.since))
     | none => false)) ||
  (List.range 16).any (fun c => s.pv 0x8900 (16 * f.hive + c) = f.ctx &&
    (Tbl.get s.chans {} (16 * f.hive + c)).descs.any (fun d => d.phase = .issued && old d.sb &&
      (let q := s.handle f.hive f.ctx (fld d.w.toNat 270 255 % 64); hClass q = 6 && toward (winOf q)))) ||
  s.jobs.any (fun e => e.1 / 256 = f.hive && e.2.ctx = f.ctx && old e.2.sb &&
    (match e.2.place with
     | some k => toward k
     | none => false))

/-- A fence whose counts are covered or whose chips are lost is done: status, cell, trace (R214, R228, R392). -/
def State.fenceTry (s : State) (f : Fence) (by_ : Party) : State :=
  let covered := f.need.all (fun n =>
    decide (n.2 ≤ (Tbl.get s.hives.sent {} (ctxChip f.hive f.ctx n.1)).acked) || s.fxps.lost.contains n.1)
  let open_ := s.fencePend f (fun c => (f.all || f.need.any (fun n => n.1 = c)) && !s.fxps.lost.contains c)
  if !covered || open_ then s
  else
    let lost := f.need.filter (fun n => s.fxps.lost.contains n.1 &&
      decide ((Tbl.get s.hives.sent {} (ctxChip f.hive f.ctx n.1)).acked < n.2))
    let st := if lost.isEmpty then 2 else 3
    let low := (lost.map (fun n => n.1)).foldl min 1023
    let keep := if lost.isEmpty then fld (s.page f.hive f.ctx 0x320).toNat 9 0 else low
    let s := { s with hives := { s.hives with fences := s.hives.fences.filter (fun g => g ≠ f) } }
    let s := s.setStatus f.hive f.ctx 0x320 st keep
    let t : TraceF := { kind := 0x08, unit := f.hive, ctx := f.ctx, port := 7, src := by_,
                        obj := if f.all then 0x3FF else fld (s.page f.hive f.ctx 0x320).toNat 9 0, wait := s.clk.now - f.since,
                        aux := b2n (!lost.isEmpty) }
    let cell := (s.page f.hive f.ctx 0x328).toNat % 2^48
    (s.traceGen t).addCell cell { chip := s.chipId, unit := f.hive, ctx := f.ctx, port := 7 }

/-- Tests every fence. -/
def State.fencesTry (s : State) (by_ : Party) : State := s.hives.fences.foldl (fun s f => s.fenceTry f by_) s

/-- Takes `n` acknowledged lines of a sender toward a window out of its contexts' counts (R133, R214, R215). An entry of 8 and more stands
for a line this Hive forwarded (R139): it counts as applied for its source at the old window. -/
def State.ackLines (s : State) (h chip dhive w n : Nat) : State :=
  let k := sendKey h chip dhive w
  let q := Tbl.get s.wins.unack [] k
  let s := { s with wins := { s.wins with unack := Tbl.set s.wins.unack [] k (q.drop n) } }
  (q.take n).foldl (fun s c =>
    if 8 ≤ c then
      let k := rackKey h ((c - 8) / 262144) ((c - 8) / 256 % 1024) ((c - 8) % 256)
      let r := Tbl.get s.wins.racks {} k
      let r : RackCnt := { lines := r.lines + 1, since := if r.lines = 0 then s.clk.now else r.since }
      { s with wins := { s.wins with racks := Tbl.set s.wins.racks {} k r } }
    else
    let key := ctxChip h c chip
    let e := Tbl.get s.hives.sent {} key
    let e := { e with acked := e.acked + 1 }
    let busy := s.hives.fences.any (fun f => f.hive = h && f.ctx = c)
    { s with hives := { s.hives with
      sent := Tbl.set s.hives.sent {} key (if e.acked = e.sent && !busy then {} else e) } }) s

/-- Rewrites allotments that a test picks. -/
def State.mapAllot (s : State) (p : Allot → Bool) (f : Allot → Allot) : State :=
  { s with wins := { s.wins with allots := s.wins.allots.map (fun a => if p a then f a else a) } }

/-- Lines of a sender stalled for credits at a window. -/
def State.creditStalled (s : State) (h : Nat) (k : Nat × Nat × Nat × Nat) : List Xact :=
  s.flight.filter (fun x => x.stage = .issueStall && x.hive = h && x.win = some k && x.srcChip.isNone)

/-! ### The receiver's side: credits -/

/-- What a window answers to a credit request (R136): a grant with its count, CLOSING, or REDIRECT. -/
inductive CreditAns where
  | grant (n : Nat)
  | closing
  | redirect
deriving DecidableEq, Repr

/-- Space left in the hold of direct lines of unmarked sources (R140). -/
def State.holdRoom (s : State) (h : Nat) : Nat :=
  let held := (s.wins.held.filter (fun l => l.hive = h && wState (s.win h l.win) = 1)).length
  let here := (s.flight.filter (fun x => x.stage ≠ .issueStall && x.half = .request && x.srcChip.isNone && (match x.win with
    | some (c, d, w, _) => c = s.chipId && d = h && (s.winx h w).sources.contains (c, x.hive)
    | none => false))).length
  let given := (List.range 32).foldl (fun a w => a + ((s.winx h w).holders.filter (fun o => (s.winx h w).sources.contains
    (o.chip, o.hive) && !o.marked)).foldl (fun a o => a + o.credit) 0) 0
  256 - held - here - given

/-- Answers a credit request (R136, R140). A CLOSED window grants 0 (DESIGN CHOICE, log entry 75: R136 names no answer of it). -/
def State.creditAnswer (s : State) (h w chip hive n : Nat) : State × CreditAns :=
  let q := s.win h w
  let x := s.winx h w
  if chip < wLo q ∨ wHi q < chip then
    (s.discard h 0x23 (wOwner q) 0x20 { s.ctlFrame h chip hive w (wGen q) n (winGa h q) with srcChip := chipFin chip, srcHive := hiveFin hive }, .grant 0)
  else match wState q with
    | 1 =>
      let unmarked := x.sources.contains (chip, hive) && !((x.holder chip hive).getD ⟨0, 0, 0, false, false⟩).marked
      let g := min n x.free
      let g := if unmarked then min g (s.holdRoom h) else g
      let x := if (x.holder chip hive).isSome then x.mapHolder chip hive (fun o => { o with credit := o.credit + g })
        else { x with holders := x.holders ++ [⟨chip, hive, g, false, false⟩] }
      (s.setWinx h w { x with free := x.free - g }, .grant g)
    | 4 => (s, .redirect)
    | 0 => (s, .grant 0)
    | _ => (s, .closing)

/-- The window becomes CLOSED: gen increases, its doorbell clears, its command is done (R138, R139, R236). -/
def State.winClosed (s : State) (h w : Nat) : State :=
  let q := s.win h w
  let x := s.winx h w
  let s := s.winChange h w (wState q) 0 x.since
  let q := setFld (setFld q.toNat 47 45 0) 63 56 ((wGen q + 1) % 256)
  let s := (s.setWin h w (BitVec.ofNat 128 q)).setPage h 0 (0x0800 + 8 * w) 0
  let s := match x.jseq with
    | some n => s.jChange n jDone 0 (.win (32 * h + w) 0)
    | none => if s.status h x.ctlCtx 0x230 = 1 then s.setStatus h x.ctlCtx 0x230 2 0 else s
  s.setWinx h w {}

/-- Lines of a window admitted at its Hive and not yet applied. -/
def State.winInFlight (s : State) (h w : Nat) : Bool :=
  s.flight.any (fun x => x.purpose = .window (32 * h + w) ||
    (match x.win with
     | some (c, d, v, _) => c = s.chipId && d = h && v = w && x.stage ≠ .issueStall && x.half = .request
     | none => false)) ||
  s.wins.held.any (fun l => l.hive = h && l.win = w)

/-- A closing window closes once every allotment is back and nothing is in flight; a forwarding one once every holder has
been marked (R138, R139). -/
def State.winTry (s : State) (h w : Nat) : State :=
  let q := s.win h w
  let x := s.winx h w
  match wState q with
  | 2 => if x.holders.all (fun o => o.credit = 0) && !s.winInFlight h w then s.winClosed h w else s
  | 3 => if x.holders.all (fun o => o.credit = 0) && !s.winInFlight h w then s.winClosed h w else s
  | 4 => if x.holders.all (fun o => o.marked) && !s.winInFlight h w then s.winClosed h w else s
  | _ => s

/-- A holder returns credits (R136, R138). -/
def State.winReturn (s : State) (h w chip hive n : Nat) : State :=
  let x := s.winx h w
  let x := x.mapHolder chip hive (fun o => { o with credit := o.credit - n })
  (s.setWinx h w { x with free := x.free + n }).winTry h w

/-! ### RACK (R133) -/

/-- A RACK at its sender: fence counts advance and credits return while the allotment is held (R136, R138, R214). -/
def State.rackAt (s : State) (h chip dhive w n : Nat) : State :=
  let s := s.ackLines h chip dhive w n
  let s := s.mapAllot (fun a => a.hive = h && a.chip = chip && a.dhive = dhive && a.win = w && a.st = .held)
    (fun a => { a with credit := a.credit + n })
  s.fencesTry { chip := chip, unit := dhive }

/-- Sends the RACK of a source at a window, or hands it to a Hive of this chip; the window's view of the holder's credit
follows (R133, R136, R138). -/
def State.rackSend (s : State) (h w chip hive : Nat) : State :=
  let k := rackKey h w chip hive
  let n := (Tbl.get s.wins.racks {} k).lines
  if n = 0 then s
  else
    let s := { s with wins := { s.wins with racks := Tbl.set s.wins.racks {} k {} } }
    let q := s.win h w
    let s := if wState q = 1 then s.setWinx h w ((s.winx h w).mapHolder chip hive (fun o => { o with credit := o.credit + n }))
      else s
    if chip = s.chipId then s.rackAt hive chip h w n
    else s.sendFrame 0x10 (s.ctlFrame h chip hive w (wGen q) n (winGa h q))

/-- A line of another chip ended without being applied: its count goes out at once, and the RACK tells the sending Hive the code, the IDs and the address
of the line in fields R132 gives a RACK no use for (R48, R184; DESIGN CHOICE, log entry 76). -/
def State.rackBad (s : State) (h w chip hive code : Nat) (x : Xact) : State :=
  let k := rackKey h w chip hive
  let n := (Tbl.get s.wins.racks {} k).lines
  let s := { s with wins := { s.wins with racks := Tbl.set s.wins.racks {} k {} } }
  let q := s.win h w
  let s := if wState q = 1 then s.setWinx h w ((s.winx h w).mapHolder chip hive (fun o => { o with credit := o.credit + n + 1 })) else s
  s.sendFrame 0x10 { s.ctlFrame h chip hive w (wGen q) (n + 1) (winGa h q) with
    relEpoch := BitVec.ofNat 8 code, layer := x.layer, operator := x.operator, mask := BitVec.ofNat 64 x.ga.toNat }

/-- Counts a line of a source as applied or discarded; every 64 lines a RACK goes out (R133, R213). -/
def State.rackCount (s : State) (h w chip hive : Nat) : State :=
  let k := rackKey h w chip hive
  let r := Tbl.get s.wins.racks {} k
  let r := { lines := r.lines + 1, since := if r.lines = 0 then s.clk.now else r.since : RackCnt }
  let s := { s with wins := { s.wins with racks := Tbl.set s.wins.racks {} k r } }
  if 64 ≤ r.lines then s.rackSend h w chip hive else s

/-! ### Lines a window applies -/

/-- The doorbell of a window for a line applied to it (R228, R236): the Hive presents the change at its own array. -/
def State.doorbell (s : State) (h w line : Nat) (x : Xact) : State :=
  let d := (s.winSignal h w).toNat
  if bit d 63 && line = fld d 15 0 then
    let cell := fld d 28 16
    let p := x.party s.chipId
    if bit d 62 then
      match x.loc.rowId with
      | some (k, t, b, r) => s.postCell h (syncGa h cell) .write (Line.gran (s.rowAt (s.rowPlace k t b r)).data 0) p
      | none => s
    else s.postCell h (syncGa h cell) .atomic 1 p
  else s

/-- The source of a window's line: its chip and Hive. -/
def State.lineSource (s : State) (x : Xact) : Nat × Nat :=
  match x.srcChip with
  | some p => p
  | none => (s.chipId, x.hive)

/-- The code with which a line of another chip ended unapplied at its window, which its sending Hive records too (R48, R184). -/
def Xact.unapplied (x : Xact) : Option Nat :=
  match x.srcChip, x.result with
  | some _, .refused c => some c.toNat
  | some _, .uncorr c => some c.toNat
  | _, _ => none

/-- A line has completed at its window: doorbell, RACK count, and its credit to the pool unless the window is OPEN (R133,
R137, R138, R236). -/
def State.windowApplied (s : State) (h w : Nat) (x : Xact) (done : Bool) : State :=
  let src := s.lineSource x
  let line := (x.ga.toNat - winGa h (s.win h w)) / 64
  let s := if done then s.doorbell h w line x else s
  let s := match x.unapplied with
    | some c => if src.1 = s.chipId then s.rackCount h w src.1 src.2 else s.rackBad h w src.1 src.2 c x
    | none => s.rackCount h w src.1 src.2
  let q := s.win h w
  let s := if wState q = 1 then s else s.setWinx h w { s.winx h w with free := (s.winx h w).free + 1 }
  s.winTry h w

/-- The checks of a line at its window (R134, R137): the code that discards it. A line that fails several is judged by the first of stale generation,
extent and credit (DESIGN CHOICE, log entry 77: R137 gives no order). -/
def State.lineCheck (s : State) (h w gen chip hive ga : Nat) : Option Nat :=
  let q := s.win h w
  let x := s.winx h w
  let off : Int := (ga : Int) - winGa h q
  if wState q = 0 ∨ wGen q ≠ gen then some 0x20
  else if off < 0 ∨ (64 * wExtent q : Int) ≤ off then some 0x21
  else match x.holder chip hive with
    | some o => if o.credit = 0 then some 0x22 else none
    | none => some 0x22

/-- A line spends one credit of its holder. -/
def State.spend (s : State) (h w chip hive : Nat) : State :=
  s.setWinx h w ((s.winx h w).mapHolder chip hive (fun o => { o with credit := o.credit - 1 }))

/-- The access of a line: the window's mode ACC makes a plain line an ACC (R134, R185). -/
def winKind (q : Quad) (kind : AccKind) (op : Nat) : AccKind × Nat :=
  if wAccMode q && kind = .write then (.acc, wAccFmt q) else (kind, op)

/-- A line of another chip, or one forwarded inside this chip, has passed its window's checks: it goes through the checks of the MIP to its bank's
arbiter like any access through MIP (R64, R66, R212, R213, R225). -/
def State.applyLine (s : State) (h w : Nat) (x : Xact) : State :=
  let ctx := wOwner (s.win h w)
  let x := { x with ctx := ctx, loc := s.locate x.ga.toNat, mesh := true, unit := h, purpose := .window (32 * h + w), win := none, grp := 0 }
  match s.mipRefusal x with
  | some c =>
    let src := s.lineSource x
    if c = 0x25 then
      (s.discard h 0x25 ctx (kindByte x.kind) { s.ctlFrame h src.1 src.2 w (wGen (s.win h w)) 0 x.ga.toNat with
        srcChip := chipFin src.1, srcHive := hiveFin src.2, qos := fin8 x.qos, sched := x.sched, op := x.code, layer := x.layer, operator := x.operator,
        mask := x.mask, payload := [x.data] }).windowApplied h w x false
    else (s.refused c h x).windowApplied h w { x with result := .refused (BitVec.ofNat 8 c) } false
  | none =>
    let n := s.nextId
    let s := s.addX x
    match s.xact n with
    | some y => s.mipCheck y
    | none => s

/-- A line of a frame, number j: its address and its mask (R132, R180). -/
def frameLine (kind : AccKind) (code : Nat) (f : Frame) (j : Nat) : Nat × Dword :=
  let step := if kind = .acc ∧ code = 3 then 32 else 64
  (f.ga.toNat + step * j, if f.payload.length ≤ 1 then f.mask else fullMask)

/-- A line of a frame with its own address and mask (R132). -/
def frameOne (f : Frame) (kind : AccKind) (j : Nat) (d : Line) : Frame :=
  let a := frameLine kind f.op.toNat f j
  { f with ga := BitVec.ofNat 48 a.1, mask := a.2, payload := [d] }

/-- Lines of a frame, one frame each. -/
def frameLines (f : Frame) (kind : AccKind) : List Frame := (f.payload.zipIdx).map (fun e => frameOne f kind e.2 e.1)

/-- The Hive that a frame's address names. -/
def frameHive (f : Frame) : Nat := f.ga.toNat / 0x400000 % 256

/-- The transaction of a frame's one line on its way to the Hive its address names (R132, R445): `win` names its source, window and generation, `tag` its
release position. -/
def State.frameX (s : State) (kind : AccKind) (f : Frame) : Xact :=
  let h := frameHive f
  let l := s.locate f.ga.toNat
  { kind := kind, code := f.op, sched := f.sched && s.determ, qos := f.qos.val, deadline := s.deadlineAt (s.classDeadline f.qos.val), ga := f.ga,
    mask := f.mask, data := f.payload.headD 0, srcUnit := h, srcPort := 4, srcChip := some (f.srcChip.val, f.srcHive.val), layer := f.layer,
    operator := f.operator, loc := if l.unit = h then l else .hole h, unit := h, dest := h, mesh := true, born := s.clk.now, since := s.clk.now,
    ready := s.clk.now, tag := pack [(7, 0, if f.sched && !s.determ then 0 else f.relEpoch.toNat), (23, 8, f.relPeriod.toNat), (31, 24, f.relPos.toNat),
      (32, 32, b2n (!f.sched && f.relEpoch = 1))],
    win := some (f.srcChip.val, f.srcHive.val, f.win.val, f.winGen.toNat), purpose := .window (32 * h + f.win.val) }

/-- The frame of such a line. -/
def State.earlyFrame (s : State) (x : Xact) : Frame :=
  let w := x.win.getD (0, 0, 0, 0)
  { srcChip := chipFin w.1, srcHive := hiveFin w.2.1, dstChip := chipFin s.chipId, win := fin32 w.2.2.1, winGen := BitVec.ofNat 8 w.2.2.2,
    qos := fin8 x.qos, sched := x.sched, relEpoch := BitVec.ofNat 8 (fld x.tag 7 0), relPeriod := BitVec.ofNat 16 (fld x.tag 23 8),
    relPos := BitVec.ofNat 8 (fld x.tag 31 24), op := x.code, count := 0, ga := x.ga, layer := x.layer, operator := x.operator, mask := x.mask,
    dstHive := hiveFin x.srcUnit, payload := [x.data] }

/-- A line that an old window forwarded (R139): its tag names the forwarder. -/
def Xact.forwarded (x : Xact) : Bool := x.srcChip.isSome && bit x.tag 32

/-- A line reaches the window it names at its Hive: it is applied, or discarded and counted (R137, R185, R213). -/
def State.applyFrame (s : State) (y : Xact) : State :=
  let f := s.earlyFrame y
  let h := frameHive f
  let w := f.win.val
  let chip := f.srcChip.val
  let hive := f.srcHive.val
  let k := winKind (s.win h w) y.kind f.op.toNat
  match s.lineCheck h w f.winGen.toNat chip hive f.ga.toNat with
  | some c => (s.discard h c (wOwner (s.win h w)) (kindByte y.kind) f).rackCount h w chip hive
  | none => (s.spend h w chip hive).applyLine h w { y with kind := k.1, code := BitVec.ofNat 4 k.2 }

/-! ### The sender's side: lines and credits -/

/-- Records a fault of a line toward a window at its sender (R137, R138). -/
def State.winFault (s : State) (x : Xact) (code : Nat) : State :=
  let w := match x.win with
    | some (_, _, w, _) => w
    | none => 0
  let r := genRec { code := code, unit := x.hive, ctx := x.ctx, port := x.srcPort, chan := x.srcChan, obj := w,
                    layer := x.layer.toNat, oper := x.operator.toNat, ga := x.ga.toNat } s.clk.ts
  (s.faultAccess x.hive x.hive x.ctx r).bounce x code

/-- Applies a credit answer at the sender: the allotment with the window's first line and extent (R136, R137). -/
def State.grantAt (s : State) (h : Nat) (k : Nat × Nat × Nat × Nat) (n base extent : Nat) : State :=
  s.mapAllot (fun a => a.hive = h && (a.chip, a.dhive, a.win, a.gen) = k)
    (fun a => { a with credit := a.credit + n, st := if a.st = .asked then .held else a.st,
                       base := if a.extent = 0 then base else a.base, extent := if a.extent = 0 then extent else a.extent })

/-- The place a FORWARD names, once its generation is known. -/
def State.fwdPlace (s : State) (h w : Nat) : Option (Nat × Nat × Nat × Nat) :=
  let q := s.win h w
  (s.winx h w).newGen.map (fun g => (wFwdChip q, wFwdHive q, wFwdWin q, g))

/-- A source that a window redirects is noted as a holder, to be marked (R139). -/
def State.noteHolder (s : State) (h w chip hive : Nat) : State :=
  let x := s.winx h w
  if (x.holder chip hive).isSome then s else s.setWinx h w { x with holders := x.holders ++ [⟨chip, hive, 0, false, false⟩] }

/-- A sender asks a window for credits (R136); a window of this chip answers in the same step (log entry 14). A sender whom a window of this chip
redirects has no line there: it goes on to the new place unmarked by it. -/
def State.askCredits (s : State) (h : Nat) (k : Nat × Nat × Nat × Nat) (n base : Nat) : State :=
  let mine := fun (a : Allot) => a.hive = h && (a.chip, a.dhive, a.win, a.gen) = k
  if k.1 = s.chipId then
    let p := s.creditAnswer k.2.1 k.2.2.1 s.chipId h n
    let q := s.win k.2.1 k.2.2.1
    match p.2 with
    | .grant g => p.1.grantAt h k g (winGa k.2.1 q) (wExtent q)
    | .closing => p.1.mapAllot mine (fun a => { a with st := .closing, since := s.clk.now })
    | .redirect =>
      match s.fwdPlace k.2.1 k.2.2.1 with
      | some new => p.1.mapAllot mine (fun a => { a with st := .redirected, next := some new })
      | none => p.1.noteHolder k.2.1 k.2.2.1 s.chipId h
  else s.sendFrame 0x20 (s.ctlFrame h k.1 k.2.1 k.2.2.1 k.2.2.2 n base)

/-- Chips a context has unacknowledged lines to (R215). -/
def State.sentChips (s : State) (h c : Nat) : Nat :=
  (s.hives.sent.filter (fun e => e.1 / 1024 = 8 * h + c && e.2.sent ≠ e.2.acked)).length

/-- Counts a line a context sends toward a chip and a window (R214, R215). -/
def State.countSent (s : State) (h c : Nat) (k : Nat × Nat × Nat × Nat) : State :=
  let key := ctxChip h c k.1
  let e := Tbl.get s.hives.sent {} key
  let u := sendKey h k.1 k.2.1 k.2.2.1
  let fences := s.hives.fences.map (fun f =>
    if f.hive = h && f.ctx = c && (f.all || f.need.any (fun n => n.1 = k.1)) && s.fencePend f (fun c => decide (c = k.1)) then
      { f with need := (f.need.filter (fun n => n.1 ≠ k.1)) ++ [(k.1, e.sent + 1)] }
    else f)
  let s := { s with hives := { s.hives with sent := Tbl.set s.hives.sent {} key { e with sent := e.sent + 1 }, fences := fences } }
  ({ s with wins := { s.wins with unack := Tbl.set s.wins.unack [] u (Tbl.get s.wins.unack [] u ++ [c]) } }).ctxAdd h c 12 1

/-- A line leaves for its window, through its Hive's mesh interface or its edge unit's link: over the mesh to a Hive of this chip, or to the FXP of its
chip (R12, R131, R164). -/
def State.windowGo (s : State) (x : Xact) (k : Nat × Nat × Nat × Nat) : State :=
  let own := k.1 = s.chipId
  let s := s.countReq x
  let s := if own then s.spend k.2.1 k.2.2.1 s.chipId x.hive else s
  let m := if own then winKind (s.win k.2.1 k.2.2.1) x.kind x.code.toNat else (x.kind, x.code.toNat)
  let dest := if own then k.2.1 else uFx (s.fxpOf k.1)
  let y : Xact := { x.stamped s.clk.now with
    kind := m.1, code := BitVec.ofNat 4 m.2, mesh := true, since := s.clk.now, win := some k, loc := if own then s.locate x.ga.toNat else .none
    dest := dest }
  s.setX (if x.srcUnit < 256 then { y with stage := .meshIf, ready := s.clk.now + 6 }
    else { y with stage := .link, unit := srcRouter x.srcUnit dest, dir := 7, inp := 5, ready := s.clk.now + 1 })

/-- Spends one credit of an allotment and sends the line. -/
def State.spendAt (s : State) (x : Xact) (k : Nat × Nat × Nat × Nat) (a : Allot) : State :=
  ((s.mapAllot (fun b => b = a) (fun b => { b with credit := b.credit - 1 })).countSent x.hive x.ctx k).windowGo x k

/-- The context holds 64 chips with lines not yet acknowledged, and this chip is none of them (R215). -/
def State.chipsFull (s : State) (h c chip : Nat) : Bool :=
  decide (64 ≤ s.sentChips h c) &&
    (Tbl.get s.hives.sent {} (ctxChip h c chip)).sent = (Tbl.get s.hives.sent {} (ctxChip h c chip)).acked

/-- A line stalls locally for its window. -/
def State.windowStall (s : State) (x : Xact) (k0 : Nat × Nat × Nat × Nat) (base : Nat) : State :=
  s.setX { x with stage := .issueStall, since := if x.stage = .issueStall then x.since else s.clk.now, win := some k0, unit := x.srcUnit, wbase := base }

/-- A line with its allotment (R136 to R138, R215): it is checked against the extent, spends a credit, faults, or stalls. While the window is
closing, only lines of descriptors, jobs and stores issued before CLOSING came spend what credit is left. -/
def State.windowSend (s : State) (x : Xact) (k0 k : Nat × Nat × Nat × Nat) (base : Nat) (a : Allot) : State :=
  let h := x.hive
  let from_ := match s.allot h k0.1 k0.2.1 k0.2.2.1 k0.2.2.2 with
    | some o => if o.extent = 0 then base else o.base
    | none => base
  let off : Int := (x.ga.toNat : Int) - from_
  let out := (off < 0 ∨ (64 * a.extent : Int) ≤ off) ∧ (a.extent ≠ 0 ∨ a.credit ≠ 0)
  let z := { x with win := some k }
  let y := { x with ga := BitVec.ofNat 48 (a.base + off.toNat) }
  match a.st with
  | .revoked => s.winFault z 0x20
  | .closing =>
    if a.credit = 0 ∨ a.since < s.ownSince x then s.winFault z 0x20
    else if out then s.winFault z 0x21
    else if s.chipsFull h x.ctx k.1 then s.windowStall x k0 base
    else s.spendAt y k a
  | .held =>
    if out then s.winFault z 0x21
    else if a.credit = 0 ∨ s.chipsFull h x.ctx k.1 then s.windowStall x k0 base
    else s.spendAt y k a
  | _ => s.windowStall x k0 base

/-- The sender must ask for credits for a line: it has no allotment, or an empty one with no line unacknowledged (R136). -/
def State.mustAsk (s : State) (h : Nat) (k : Nat × Nat × Nat × Nat) : Option Allot → Bool
  | none => true
  | some a => a.st = .held && a.credit = 0 && (Tbl.get s.wins.unack [] (sendKey h k.1 k.2.1 k.2.2.1)).isEmpty

/-- Asks for a credit for a line (R136). -/
def State.windowAsk (s : State) (h : Nat) (k : Nat × Nat × Nat × Nat) (base : Nat) : State :=
  match s.allot h k.1 k.2.1 k.2.2.1 k.2.2.2 with
  | none =>
    let a : Allot := { hive := h, chip := k.1, dhive := k.2.1, win := k.2.2.1, gen := k.2.2.2, credit := 0, base := base,
                       extent := 0, st := .asked }
    { s with wins := { s.wins with allots := s.wins.allots ++ [a] } }.askCredits h k 1 base
  | some a => (s.mapAllot (fun b => b = a) (fun b => { b with st := .asked })).askCredits h k 1 a.base

/-- Presents a line to a window (R136 to R138, R215): the scoreboard's check, the credits it needs, and its way. `base` is the GA of
the handle's first line, `k0` the window it names. -/
def State.windowLine (s : State) (x : Xact) (k0 : Nat × Nat × Nat × Nat) (base : Nat) : State :=
  let h := x.hive
  let x := { x.checked s.clk.now with wbase := base }
  match (if x.stage = .issueStall then Option.none else s.sbBlock { x with win := some k0 }) with
  | some e => s.stallAt { x with win := some k0, wbase := base, dest := e.id } .scoreboard (s.sbParty e)
  | none =>
    let k := s.placeOf h k0
    let s := if s.mustAsk h k (s.allot h k.1 k.2.1 k.2.2.1 k.2.2.2) then s.windowAsk h k base else s
    match s.allot h k.1 k.2.1 k.2.2.1 k.2.2.2 with
    | some a => s.windowSend x k0 k base a
    | none => s.windowStall x k0 base

/-- The trace record of lines that waited for credits (R392). -/
def State.creditStallRec (s : State) (x : Xact) (k : Nat × Nat × Nat × Nat) (n : Nat) (open_ : Bool) : TraceF :=
                    { kind := 0x07, unit := x.hive, ctx := x.ctx, port := x.srcPort, chan := x.srcChan,
                      src := if open_ then {} else { chip := k.1, unit := k.2.1 }, open_ := open_, obj := k.2.2.1,
                      layer := x.layer.toNat, oper := x.operator.toNat, wait := s.clk.now - x.since, aux := n }

/-- Lines stalled for credits try again, in order (R136). -/
def State.retryLines (s : State) (h : Nat) : State :=
  let xs := s.flight.filter (fun x => x.stage = .issueStall && x.hive = h && x.win.isSome && x.srcChip.isNone)
  xs.foldl (fun s x => match s.xact x.id, x.win with
    | some y, some k =>
      let t := s.windowLine y k y.wbase
      match t.xact y.id with
      | some z => if z.stage = .issueStall then t
        else t.traceGen (t.creditStallRec y (s.placeOf h k) (s.creditStalled h k).length false)
      | none => t
    | _, _ => s) s

end Sys2Proof.Machine
end

