-- ==== Sys2Proof/Machine/Flc.lean ====
section
/-!
DEFINITION. Flc.lean: the scalar core's accesses and the far-line cache (R75 to R84, R112, R127, R189, R210, R211).
-/
namespace Sys2Proof.Machine

/-! ### Ways -/

/-- Set of an address (R75). -/
def flcSet (ga : Nat) : Nat := fld ga 13 6 ^^^ fld ga 29 22
/-- Tag of an address (R75). -/
def flcTag (ga : Nat) : Nat := fld ga 47 14
/-- The line address a set and a tag name. -/
def flcGa (set tag : Nat) : Nat := tag * 2^14 + (set ^^^ fld (tag * 2^14) 29 22) * 64

/-- The key of a way. -/
def wkey (h set way : Nat) : Nat := (h * 256 + set) * 8 + way

/-- A way. -/
def State.way (s : State) (h set way : Nat) : Way := Tbl.get s.hives.ways {} (wkey h set way)

/-- Stores a way. -/
def State.setWay (s : State) (h set way : Nat) (w : Way) : State :=
  { s with hives := { s.hives with ways := Tbl.set s.hives.ways {} (wkey h set way) w } }

/-- A way with new data in some granules and their check bytes fresh; the other granules keep theirs, and any error in them (R75, R83). -/
def Way.put (w : Way) (d : Line) (gs : List Nat) : Way := { w with data := d, chk := chkGrans w.chk d gs }

/-- Empties a way. -/
def State.dropWay (s : State) (h set way : Nat) : State :=
  { s with hives := { s.hives with ways := Tbl.set s.hives.ways {} (wkey h set way) {} } }

/-- The way that holds a line, whichever context installed it (R77). -/
def State.flcFind (s : State) (h ga : Nat) : Option Nat :=
  (List.range 8).find? (fun i =>
    let w := s.way h (flcSet ga) i
    w.used && w.tag.toNat = flcTag ga)

/-! ### Tree pseudo-LRU (R75) -/

/-- The node bits of a set. -/
def State.plru (s : State) (h set : Nat) : BitVec 7 := Tbl.get s.hives.plru 0 (256 * h + set)

/-- A hit or fill sets every node on the way's path to point away from it. -/
def plruTouch (b : BitVec 7) (w : Nat) : BitVec 7 :=
  let n := b.toNat
  let n := setFld n 0 0 (1 - w / 4)
  let n := setFld n (1 + w / 4) (1 + w / 4) (1 - w / 2 % 2)
  let n := setFld n (3 + w / 2) (3 + w / 2) (1 - w % 2)
  BitVec.ofNat 7 n

/-- The victim among candidate ways: from the root in the direction each bit points, or the other way where that half holds
no candidate. -/
def plruVictim (b : BitVec 7) (cand : Nat → Bool) : Nat :=
  let any := fun (lo n : Nat) => (List.range n).any (fun i => cand (lo + i))
  let go := fun (node lo n : Nat) => lo + n * (let d := b2n (b.getLsbD node); if any (lo + n * d) n then d else 1 - d)
  let a := go 0 0 4
  let c := go (1 + a / 4) a 2
  go (3 + c / 2) c 1

/-- Touches a way of a set. -/
def State.touchWay (s : State) (h set w : Nat) : State :=
  { s with hives := { s.hives with plru := Tbl.set s.hives.plru 0 (256 * h + set) (plruTouch (s.plru h set) w) } }

/-- The way an allocation of a class takes (R78, R82, R112). -/
def State.flcVictim (s : State) (h set c q : Nat) : Nat :=
  let mask := s.pv 0x8300 (8 * h + c)
  let ok := fun i => bit mask i
  let way := fun i => s.way h set i
  let hold := fun k => ((List.range 8).filter (fun i => ok i && (way i).used && (way i).cls = k)).length
  let g := fun k => s.act 0x2300 k
  let cand := fun i => ok i && (
    !(way i).used ||
    (if hold q < g q then decide (g (way i).cls ≤ hold (way i).cls)
     else (way i).cls = q || decide (g (way i).cls < hold (way i).cls)))
  let own := fun i => ok i && (way i).used && (way i).cls = q
  let pick := if (List.range 8).any cand then cand else if (List.range 8).any own then own else ok
  plruVictim (s.plru h set) pick

/-! ### Errors in the cache (R83) -/

/-- The record of FLC_DIRTY_LOST (R83). -/
def State.flcLost (s : State) (h : Nat) (ga : Nat) (w : Way) (c layer oper : Nat) : State :=
  let r := genRec { code := 0x44, unit := h, ctx := w.ctx, port := 2, layer := layer, oper := oper, aux := w.dirty.toNat % 2^32,
                    ga := ga, obj := fld w.dirty.toNat 63 48, late := fld w.dirty.toNat 47 32 } s.clk.ts
  s.faultAccess h h c r

/-- What the cache finds in the granules of a way it reads: the way as corrected, or none when a granule is uncorrectable. -/
def wayRead (w : Way) (gs : List Nat) : Option (Way × Nat) :=
  let r := readGrans { data := w.data, chk := w.chk, cells := 7 } gs
  if r.bad then none else some ({ w with data := r.data }, r.gmask)

/-- A correctable event of the cache (R83, R285). -/
def State.flcCorr (s : State) (h set way c layer oper gmask : Nat) : State :=
  s.integrity { code := 0x46, kind := 4, gmask := gmask, port := 2, unit := h, ctx := c, layer := layer, oper := oper,
                loc := (8 * set + way) * 64 }

/-! ### Write-backs (R78) -/

/-- Write-backs of a Hive's buffer, and those still waiting for a place in it. -/
def State.wbs (s : State) (h : Nat) : List Xact :=
  s.flight.filter (fun x => x.srcUnit = h && (match x.purpose with
    | .flcWriteback _ => true
    | _ => false))

/-- A write-back holds a place of the 8-entry buffer: it was presented. -/
def Xact.wbHeld (x : Xact) : Bool := x.stage ≠ .farLine

/-- Issues waiting write-backs while the buffer has room (R78); the scoreboard holds them like any SXP write (R220). -/
def State.wbFill (s : State) (h : Nat) : State :=
  (s.wbs h).foldl (fun s x =>
    if !x.wbHeld && decide (((s.wbs h).filter Xact.wbHeld).length < 8) then s.issue { x with stage := .portInput } true
    else s) s

/-- Sends the dirty bytes of a way as a dynamic write; `cmd` is 0, or 1 + the context whose command asked (R78, R80). A line
with an uncorrectable granule is lost (R83); the answer tells so. -/
def State.flcWriteback (s : State) (h set way cmd c layer oper : Nat) : State × Bool :=
  let w := s.way h set way
  let ga := flcGa set w.tag.toNat
  match wayRead w (touched w.dirty) with
  | none => (s.flcLost h ga w c layer oper, true)
  | some (w2, g) =>
    let s := if g = 0 then s else s.flcCorr h set way c layer oper g
    let now := s.clk.now
    let x : Xact := { stage := .farLine, kind := .write, qos := w.cls, ctx := w.ctx, deadline := s.deadlineAt (s.classDeadline w.cls),
                      ga := BitVec.ofNat 48 ga, mask := w.dirty, data := w2.data, srcUnit := h, srcPort := 2, born := now,
                      since := now, grp := s.nextId, unit := h, loc := s.locate ga, purpose := .flcWriteback cmd,
                      layer := BitVec.ofNat 16 layer, operator := BitVec.ofNat 16 oper }
    ((s.addX x).wbFill h, false)

/-- A write-back of a line is in the buffer or waits for it (R78). -/
def State.wbOf (s : State) (h ga : Nat) : Bool := (s.wbs h).any (fun x => x.ga.toNat / 64 = ga / 64)

/-! ### The lookup (R77) -/

/-- Fills of a Hive in flight (R77: up to 8 misses). -/
def State.fills (s : State) (h : Nat) : List Xact :=
  s.flight.filter (fun x => x.srcUnit = h && (match x.purpose with
    | .flcFill _ _ => true
    | _ => false))

/-- The fetch under way for a way: the last one started. -/
def State.wayFill (s : State) (h set way : Nat) : Option Xact :=
  if (s.way h set way).fill then ((s.fills h).filter (fun f => f.purpose = .flcFill set way)).getLast? else none

/-- A way leaves the cache while its fetch is under way: the loads that wait for the fetch keep the dirty bytes they found (R77). -/
def State.handDirty (s : State) (h set way : Nat) : State :=
  match s.wayFill h set way with
  | some f =>
    let w := s.way h set way
    { s with flight := s.flight.map (fun y =>
        if y.srcUnit = h && y.stage = .farLine && y.by_ = f.id then { y with data := w.data, wbase := w.dirty.toNat } else y) }
  | none => s

/-- The write-back buffer holds its 8 entries. -/
def State.wbFull (s : State) (h : Nat) : Bool := 8 ≤ (s.wbs h).length

/-- The way an allocation takes: that chosen when its miss was found, or chosen now (R82). -/
def State.flcChoice (s : State) (x : Xact) : Nat :=
  if x.dest = 0 then s.flcVictim x.srcUnit (flcSet x.ga.toNat) x.ctx x.qos else x.dest - 1

/-- Takes a way for a line, its victim written back or dropped (R78, R112); none while the buffer is full. -/
def State.flcAlloc (s : State) (x : Xact) : Option (State × Nat) :=
  let h := x.srcUnit
  let set := flcSet x.ga.toNat
  let v := s.flcChoice x
  let w := s.way h set v
  if w.used && w.dirty ≠ 0 && s.wbFull h then none
  else
    let s := if w.used then s.handDirty h set v else s
    let s := if w.used && w.dirty ≠ 0 then (s.flcWriteback h set v 0 x.ctx x.layer.toNat x.operator.toNat).1 else s
    some (s.setWay h set v { used := true, tag := BitVec.ofNat 34 (flcTag x.ga.toNat), ctx := x.ctx, cls := x.qos }, v)

/-- A scalar access ends in the cache 4 cycles after its presentation (R77). -/
def State.flcHit (s : State) (x : Xact) (data : Line) : State :=
  (s.countReq x).setX { x with half := .answer, stage := .returned, since := s.clk.now, ready := s.clk.now + 4, data := data,
                               mesh := false, loc := .none }

/-- Starts the fetch of a line into a way as a dynamic read (R77), checked at issue like any read (R220); it waits behind a write-back of the same
line (R78). -/
def State.flcFetch (s : State) (x : Xact) (way : Nat) : State × Nat :=
  let h := x.srcUnit
  let ga := x.ga.toNat / 64 * 64
  let set := flcSet ga
  let w := s.way h set way
  let s := s.setWay h set way { w with fill := true }
  let n := s.nextId
  let y : Xact := { x with kind := if x.kind = .fetch then .fetch else .read, ga := BitVec.ofNat 48 ga, mask := fullMask, data := 0,
                           loc := s.locate ga, stage := .farLine, purpose := .flcFill set way, grp := n, by_ := 0, dest := 0 }
  let wait := s.wbOf h ga
  let s := s.addX y
  match s.xact n with
  | some z => (if wait then s else
      let t := s.issue { z with stage := .portInput } true
      match t.xact n with
      | some v => if v.stage = .meshIf then t.setX { v with ready := v.ready + 4 } else t
      | none => t, n)
  | none => (s, n)

/-- A store finds its line in the cache (R77): it reads the granules it writes in part; an uncorrectable one drops the line, which is recorded
where it was dirty and counted as corrected where it was clean, and the store allocates the way afresh (R83; DESIGN CHOICE, log entry 74). -/
def State.flcStore (s : State) (x : Xact) (i : Nat) : State :=
  let h := x.srcUnit
  let set := flcSet x.ga.toNat
  let w := s.way h set i
  let part := (touched x.mask).filter (fun g => fld x.mask.toNat (8 * g + 7) (8 * g) ≠ 255)
  let p : State × Way :=
    match wayRead w part with
    | some (w2, g) => (if g = 0 then s else s.flcCorr h set i x.ctx x.layer.toNat x.operator.toNat g, w2)
    | none =>
      (if w.dirty = 0 then s.flcCorr h set i x.ctx x.layer.toNat x.operator.toNat 0
       else s.flcLost h (x.ga.toNat / 64 * 64) w x.ctx x.layer.toNat x.operator.toNat,
       { used := true, tag := w.tag, ctx := x.ctx, cls := x.qos })
  let v := { p.2 with valid := p.2.valid ||| x.mask, dirty := p.2.dirty ||| x.mask }.put (mergeLine p.2.data x.data x.mask) (touched x.mask)
  (p.1.setWay h set i v).touchWay h set i

/-- The lookup of a cacheable access (R77): a hit, a fetch, or an allocation without fetching. An access that finds the
miss slots or the write-back buffer full waits at the cache with the way its allocation will take (R82). A store that allocates touches its way as
a fill does (R75; DESIGN CHOICE, log entry 71). -/
def State.flcLookup (s : State) (x : Xact) : State :=
  let h := x.srcUnit
  let ga := x.ga.toNat
  let set := flcSet ga
  let load := !isWr x.kind
  let wait := fun (s : State) (v : Nat) => s.setX { x with stage := .farLine, unit := h, by_ := 0, dest := v }
  let hold := fun (s : State) (n : Nat) => s.setX { x with stage := .farLine, unit := h, by_ := n, dest := 0 }
  match s.flcFind h ga with
  | some i =>
    let w := s.way h set i
    if load then
      if x.mask &&& w.valid = x.mask then
        match wayRead w (touched x.mask) with
        | some (w2, g) =>
          let s := if g = 0 then s else s.flcCorr h set i x.ctx x.layer.toNat x.operator.toNat g
          let s := if g = 0 then s else s.setWay h set i (w2.put w2.data (touched x.mask))
          ((s.touchWay h set i).ctxAdd h x.ctx 8 1).flcHit x w2.data
        | none =>
          let s := s.dropWay h set i
          if w.dirty = 0 then
            let s := s.flcCorr h set i x.ctx x.layer.toNat x.operator.toNat 0
            let s := s.setWay h set i { used := true, tag := w.tag, ctx := x.ctx, cls := x.qos }
            let p := s.flcFetch x i
            hold p.1 p.2
          else
            (s.flcLost h (ga / 64 * 64) w x.ctx x.layer.toNat x.operator.toNat).bounce x 0x44
      else match s.wayFill h set i with
        | some f => hold (s.ctxAdd h x.ctx 9 1) f.id
        | none =>
          if 8 ≤ (s.fills h).length then wait s 0
          else
            let p := s.flcFetch x i
            hold (p.1.ctxAdd h x.ctx 9 1) p.2
    else ((s.flcStore x i).ctxAdd h x.ctx 8 1).flcHit x 0
  | none =>
    if load && 8 ≤ (s.fills h).length then wait s (s.flcChoice x + 1)
    else match s.flcAlloc x with
      | none => wait s (s.flcChoice x + 1)
      | some (s, v) =>
        let s := s.ctxAdd h x.ctx 9 1
        if load then
          let p := s.flcFetch x v
          hold p.1 p.2
        else
          let w := s.way h set v
          let s := s.setWay h set v ({ w with valid := x.mask, dirty := x.mask }.put (mergeLine 0 x.data x.mask) (touched x.mask))
          (s.touchWay h set v).flcHit x 0

/-! ### SXP_ACCESS -/

/-- The address lies outside the context's own Hive (R42, R76). -/
def nonLocal (h : Nat) (ga : Nat) (l : Loc) : Bool := !ownHive h ga l

/-- A fence or a far-line command holds the context's scalar access (R80, R214). -/
def State.sxpHeld (s : State) (x : Xact) : Bool :=
  s.hives.fences.any (fun f => f.hive = x.srcUnit && f.ctx = x.ctx) || s.hives.ctxJobs.any (fun j => j.hive = x.srcUnit && j.ctx = x.ctx) ||
  (nonLocal x.srcUnit x.ga.toNat x.loc && s.hives.flcCmds.any (fun f => f.hive = x.srcUnit && f.ctx = x.ctx && decide (f.no ≤ x.id)))

/-- The handle checks of a scalar access (R127): the handle that covers it, or the failure. -/
def State.sxpHandle (s : State) (x : Xact) : Nat ⊕ HFault :=
  let h := x.srcUnit
  let ga := x.ga.toNat
  match s.covering h x.ctx ga with
  | none => .inr { code := 0x11, nohand := true, hi := ga }
  | some i =>
    let q := s.handle h x.ctx i
    let off : Int := (ga : Int) - hBase q
    let f := fun code => ({ code := code, handle := i, genRef := hGen q, genCur := hGen q, lo := off, hi := off + x.bytes - 1 } : HFault)
    let passed := match Tbl.find s.hives.drains (hkey h x.ctx i) with
      | some d => x.chk ≠ 0 && decide (x.chk ≤ d.since + 1)
      | none => false
    if s.slotShut h x.ctx i && !passed then .inr (f 0x11)
    else if (!isWr x.kind && !hRd q) || (isWr x.kind && !hWr q) then .inr (f 0x12)
    else if (64 * hExtent q : Int) ≤ off + x.bytes - 1 then .inr (f 0x10)
    else .inl i

/-- The far-line cache serves the access (R76, R189, R211). -/
def State.cacheable (s : State) (x : Xact) (q : Quad) : Bool :=
  let tier := match x.loc with
    | .row _ _ _ => true
    | .mat _ _ _ => true
    | .vec _ _ _ => true
    | .t1 _ => true
    | .t2 _ _ => true
    | _ => false
  nonLocal x.srcUnit x.ga.toNat x.loc && tier && x.kind ≠ .atomic && hCache q && s.pv 0x8300 (8 * x.srcUnit + x.ctx) ≠ 0

/-- A scalar access goes through its handle check to its bank, the cache, the mesh or a window (R42, R76, R127, R141). -/
def State.sxpGo (s : State) (x : Xact) : State :=
  let h := x.srcUnit
  if s.sxpHeld x then s.setX { x with stage := .issueStall, unit := h }
  else match s.sxpHandle x with
    | .inr f =>
      let w : FaultSite := { hive := h, ctx := x.ctx, port := 2, layer := x.layer.toNat, oper := x.operator.toNat }
      (s.handleFault f w).bounce x f.code
    | .inl i =>
      let q := s.handle h x.ctx i
      if s.hives.moves.any (fun m => m.final && m.slot = hkey h x.ctx i) then
        s.setX { x with stage := .issueStall, unit := h }
      else if hClass q = 6 then s.windowLine x (winOf q) (hBase q)
      else if s.cacheable x q then
        match s.issueRefusal x with
        | some c => s.refuseLocal x c
        | none =>
          let x := x.checked s.clk.now
          match s.sbBlock x with
          | some e => s.stallAt { x with dest := e.id } .scoreboard (s.sbParty e)
          | none => ((s.wakeHive h).pev 4 1).flcLookup x
      else s.issue x true

/-! ### The walk of a command (R79 to R81) -/

/-- A far-line access of a context presented before a command has not completed in the cache (R80). -/
def State.flcPending (s : State) (h c no : Nat) : Bool :=
  s.flight.any (fun x => x.srcUnit = h && x.srcPort = 2 && x.ctx = c && decide (x.id < no) && x.half = .request && x.srcChip.isNone && !x.mesh &&
    (x.stage = .farLine || x.stage = .scoreboard || (x.stage = .issueStall && !s.hives.ctxJobs.any (fun j => j.hive = h && j.ctx = c))) &&
    (match x.purpose with
     | .scalar _ _ => x.win.isNone && !ownHive h x.ga.toNat x.loc
     | _ => false))

/-- The range of a command, in lines (R79). -/
def State.flcRange (s : State) (h c : Nat) : Nat × Nat :=
  let b := (s.page h c 0x100).toNat % 2^48
  let l := (s.page h c 0x108).toNat % 2^48
  (b / 64, ceilDiv (b + l) 64)

/-- The walk of a command over the lines it names: write-backs, and drops for INVAL (R80, R83). -/
def State.flcWalk (s : State) (h c cmd : Nat) (inRange : Nat → Bool) (drop : Bool) : State × Bool :=
  (List.range 2048).foldl (fun (p : State × Bool) k =>
    let set := k / 8
    let i := k % 8
    let w := p.1.way h set i
    if !w.used || !inRange (flcGa set w.tag.toNat / 64) then p
    else
      let a := if drop then p.1.handDirty h set i else p.1
      let b := if w.dirty = 0 then (a, false) else a.flcWriteback h set i cmd c 0 0
      let s := if drop || b.2 then b.1.dropWay h set i else b.1.setWay h set i { w with dirty := 0 }
      (s, p.2 || b.2)) (s, false)

/-- The FLC command `f` of a context becomes `g`. -/
def State.setFlcCmd (s : State) (f g : FlcCmd) : State :=
  { s with hives := { s.hives with flcCmds := s.hives.flcCmds.map (fun x => if x = f then g else x) } }

/-- Starts the walk of a command whose context has no earlier access in the cache (R80, R81). FLC_BASE and FLC_LEN are read when the walk starts
(DESIGN CHOICE, log entry 72: R79 does not say whether the write of FLC_OP takes them). -/
def State.flcStart (s : State) (f : FlcCmd) : State :=
  if f.due ≠ 0 || s.flcPending f.hive f.ctx f.no then s
  else
    let r := s.flcRange f.hive f.ctx
    let all := f.op ≥ 3
    let inr := fun l => all || (decide (r.1 ≤ l) && decide (l < r.2))
    let cycles := if all then 256 else min 256 (r.2 - r.1)
    let p := s.flcWalk f.hive f.ctx (1 + f.ctx) inr (f.op = 2 || f.op = 4)
    p.1.setFlcCmd f { f with due := s.clk.now + max 1 cycles, lost := p.2 }

/-! ### Retries -/

/-- Scalar accesses that wait at issue or at the cache try again, those at the cache with the way chosen for them (R78, R80, R82, R141, R214); then
commands that waited for them start their walk (R80). -/
def State.sxpRetry (s : State) (h : Nat) : State :=
  let xs := s.flight.filter (fun x => x.srcUnit = h && x.srcPort = 2 && x.half = .request && x.srcChip.isNone && !x.mesh &&
    (match x.purpose with
     | .scalar _ _ => (x.stage = .issueStall && x.win.isNone && (s.ownership x.loc x.ctx ≠ .held || nonLocal h x.ga.toNat x.loc)) ||
        (x.stage = .farLine && x.by_ = 0)
     | _ => false))
  let s := xs.foldl (fun s x => match s.xact x.id with
    | some y => if y.stage = .farLine then s.flcLookup y else s.sxpGo { y with stage := .portInput }
    | none => s) s
  s.hives.flcCmds.foldl (fun s f => if f.hive = h then s.flcStart f else s) s

/-- A request stalled by the scoreboard is presented in the cycle after its entry's release (R72, R220): a scalar access through its handle check,
a line through its window, the lines of another request together. -/
def execScoreboardStallEnd (x : Nat) (s : State) : Host.Outcome State Fault Refusal :=
  .next (match s.xact x with
    | some y =>
      if s.clk.rootOn && y.stage = .scoreboard && !s.hives.sbGone.contains y.dest && (s.sbWait y).isNone &&
          !(s.sbNeeds y && !s.sbRoom y.srcUnit false) then
        let s := s.sbStall y
        match y.purpose, y.win with
        | .scalar _ _, _ => s.sxpGo { y with stage := .portInput, dest := 0 }
        | _, some k => s.windowLine { y with stage := .portInput } k y.wbase
        | _, none => s.reissueAll y .scoreboard
      else s
    | none => s)

/-- The transaction of an access of the scalar core: its bytes in their line, at the port SXP (R32, R56, R63). -/
def State.sxpX (s : State) (h : HiveId) (r : SxpReq) : Xact :=
  let a := r.ga.toNat
  let off := a % 64
  let data : Line := if r.kind = .atomic then r.data.setWidth 512 else BitVec.ofNat 512 (r.data.toNat % 2^(8 * r.size) * 2^(8 * off))
  { id := s.nextId, grp := s.nextId, seq := s.nextId, kind := r.kind, code := r.aop, qos := r.qos.val, ctx := r.ctx.val,
    deadline := s.deadlineAt (s.classDeadline r.qos.val), ga := r.ga, mask := byteMask off r.size, data := data, srcUnit := h.val,
    srcPort := 2, layer := r.layer, operator := r.operator, loc := s.locate a, unit := h.val, since := s.clk.now, born := s.clk.now,
    purpose := .scalar off r.size }

/-- The scalar core may present an access of this shape now: 1 to 8 aligned bytes, no ACC, a free tag, none presented in this cycle and no throttle
(R32, R56, R64, R369). -/
def State.sxpReady (s : State) (h : HiveId) (r : SxpReq) : Bool :=
  s.clk.rootOn && s.clockOf h.val ≠ .off && !s.throttled 0 && s.tagFree h.val 2 0 && s.portFree h.val 2 && r.kind ≠ .acc &&
    (r.size = 1 || r.size = 2 || r.size = 4 || r.size = 8) && r.ga.toNat % r.size = 0

/-- The scalar core presents an access (R32, R127). -/
def execSxpAccess (h : HiveId) (r : SxpReq) (s : State) : Host.Outcome State Fault Refusal :=
  .next (if s.sxpReady h r then ((s.portTake h.val 2).addX (s.sxpX h r)).sxpGo (s.sxpX h r) else s)

/-! ### FLC_FILL, FLC_WRITEBACK_DONE -/

/-- The code a scalar access traps with when its fetch did not bring data (R48, R284). -/
def Result.trap : Result → Nat
  | .ok => 0
  | .refused c => c.toNat
  | .uncorr c => if c = 0x40 then 0x40 else if c = 0x43 then 0x43 else 0x4A

/-- A fetched line arrives (R77, R82, R284): it is installed in its way, dirty bytes keeping their cached value, and the accesses that waited for
it return. The dirty granules are read then, and one that is uncorrectable loses the line (R83). A line whose way was dropped or taken in the
meantime answers the loads that wait for it, with the dirty bytes they found, and is not installed (DESIGN CHOICE, log entry 73: R78 and R82 do
not say). -/
def State.flcInstall (s : State) (x : Xact) (set way : Nat) : State :=
  let h := x.srcUnit
  let w := s.way h set way
  let mine := match s.wayFill h set way with
    | some f => f.id = x.id && w.used && w.tag.toNat = flcTag x.ga.toNat
    | none => false
  let rd := wayRead w (touched w.dirty)
  let lost := mine && rd.isNone
  let w2 := match rd with
    | some r => r.1
    | none => w
  let g := match rd with
    | some r => r.2
    | none => 0
  let line := if mine then mergeLine x.data w2.data w.dirty else x.data
  let lay := x.layer.toNat
  let op := x.operator.toNat
  let s :=
    if !mine then s
    else if lost then (s.dropWay h set way).flcLost h (x.ga.toNat / 64 * 64) w x.ctx lay op
    else
      let s := if g = 0 then s else s.flcCorr h set way x.ctx lay op g
      if x.result = .ok then
        (s.setWay h set way ({ w with valid := fullMask, fill := false }.put line allGrans)).touchWay h set way
      else if w.dirty = 0 then s.dropWay h set way
      else s.setWay h set way { w with fill := false }
  let trap := if x.result ≠ .ok then x.result.trap else 0x44
  let ws := s.flight.filter (fun y => y.srcUnit = h && y.stage = .farLine && y.by_ = x.id && x.id ≠ 0)
  ws.foldl (fun s y =>
    if x.result = .ok && !lost then
      (s.countReq y).setX { y with half := .answer, stage := .returned, since := s.clk.now, ready := s.clk.now, loc := .none,
                                   data := mergeLine line y.data (BitVec.ofNat 64 y.wbase) }
    else
      s.setX { y with half := .answer, stage := .returned, since := s.clk.now, ready := s.clk.now, loc := .none, wbase := 0, data := 0,
                      result := if trap = 0x4A then .uncorr 0x4A else .refused (BitVec.ofNat 8 trap) }) s

/-- A fetched line for a far-line cache miss arrives and is installed. -/
def execFlcFill (x : Nat) (s : State) : Host.Outcome State Fault Refusal :=
  .next (match s.xact x with
    | some y =>
      match y.purpose with
      | .flcFill set way =>
        if s.clk.rootOn && y.stage = .returned && y.half = .answer && decide (y.ready ≤ s.clk.now) then
          (((s.flcInstall y set way).dropX x).ringDone y).sxpRetry y.srcUnit
        else s
      | _ => s
    | none => s)

/-- A write-back completes and frees its buffer entry; fills and allocations that wait on it go on (R78). -/
def execFlcWritebackDone (x : Nat) (s : State) : Host.Outcome State Fault Refusal :=
  .next (match s.xact x with
    | some y =>
      match y.purpose with
      | .flcWriteback _ =>
        if s.clk.rootOn && y.stage = .returned && y.half = .answer && decide (y.ready ≤ s.clk.now) && !s.mirrorWaits x then
          let h := y.srcUnit
          let s := ((s.dropX x).ringDone y).wbFill h
          let s := (s.fills h).foldl (fun s f =>
            if f.stage = .farLine && !s.wbOf h f.ga.toNat then s.issue { f with stage := .portInput } true else s) s
          s.sxpRetry h
        else s
      | _ => s
    | none => s)

/-! ### Commands (R79 to R81) -/

/-- A write of FLC_OP with a defined op (R79, R80). -/
def State.flcCommand (s : State) (h c op cell : Nat) : State :=
  if !s.clk.rootOn || s.clockOf h = .off || s.status h c 0x110 = 1 then s
  else if !s.cellOk cell then s.setStatus h c 0x110 4 0
  else
    let p : Party := { chip := s.chipId, unit := h, ctx := c, port := 7 }
    let r := s.flcRange h c
    let s := s.wakeHive h
    if op < 3 ∧ (s.page h c 0x108).toNat % 2^48 = 0 then (s.setStatus h c 0x110 2 0).addCell cell p
    else
      let f : FlcCmd := { hive := h, ctx := c, op := op, cell := BitVec.ofNat 48 cell, due := 0, lost := false, no := s.nextId }
      let s := (s.setStatus h c 0x110 1 0)
      let s := { s with hives := { s.hives with flcCmds := s.hives.flcCmds ++ [f] } }
      if r.1 ≤ r.2 ∨ 3 ≤ op then s.flcStart f else s

/-- FLC_OP FLUSH. -/
def execFlcFlush (h : HiveId) (c : CtxId) (cell : Ga) (s : State) : Host.Outcome State Fault Refusal :=
  .next (s.cmd h.val c.val (.flcFlush h c cell) (fun s => s.flcCommand h.val c.val 1 cell.toNat))

/-- FLC_OP INVAL. -/
def execFlcInval (h : HiveId) (c : CtxId) (cell : Ga) (s : State) : Host.Outcome State Fault Refusal :=
  .next (s.cmd h.val c.val (.flcInval h c cell) (fun s => s.flcCommand h.val c.val 2 cell.toNat))

/-- FLC_OP FLUSH_ALL. -/
def execFlcFlushAll (h : HiveId) (c : CtxId) (cell : Ga) (s : State) : Host.Outcome State Fault Refusal :=
  .next (s.cmd h.val c.val (.flcFlushAll h c cell) (fun s => s.flcCommand h.val c.val 3 cell.toNat))

/-- FLC_OP INVAL_ALL. -/
def execFlcInvalAll (h : HiveId) (c : CtxId) (cell : Ga) (s : State) : Host.Outcome State Fault Refusal :=
  .next (s.cmd h.val c.val (.flcInvalAll h c cell) (fun s => s.flcCommand h.val c.val 4 cell.toNat))

/-- A command's walk and write-backs have ended: its status is done and the completion add is made (R80, R83, R228). -/
def execFlcOpDone (h : HiveId) (c : CtxId) (s : State) : Host.Outcome State Fault Refusal :=
  .next (match s.hives.flcCmds.find? (fun f => f.hive = h.val && f.ctx = c.val) with
    | some f =>
      let busy := (s.wbs h.val).any (fun x => x.purpose = .flcWriteback (1 + c.val))
      if s.clk.rootOn && f.due ≠ 0 && decide (f.due ≤ s.clk.now) && !busy then
        let s := { s with hives := { s.hives with flcCmds := s.hives.flcCmds.filter (fun g => g ≠ f) } }
        let s := s.setStatus h.val c.val 0x110 (if f.lost then 3 else 2) 0
        (s.addCell f.cell.toNat { chip := s.chipId, unit := h.val, ctx := c.val, port := 7 }).sxpRetry h.val
      else s
    | none => s)

end Sys2Proof.Machine
end

