-- ==== Sys2Proof/Machine/Hive.lean ====
section
/-!
DEFINITION. Hive.lean: bank ownership and handover (R50 to R54), a Hive's clock (R103, R104) and its power domains (R357
to R362).
-/
namespace Sys2Proof.Machine

/-! ### Clearing valid bits (R30, R52) -/

/-- Kind, Hive, bank and place of a row key. -/
def keyParts (k : Nat) : Nat × Nat × Nat × Nat := (k / 16777216, k / 65536 % 256, k / 1024 % 64, k % 1024)

/-- The logical row a stored place serves: itself, or the row its spare replaces. -/
def State.logicalRow (s : State) (k : Nat) : Option Nat :=
  let p := keyParts k
  if p.2.2.2 < 768 then some p.2.2.2
  else
    let e := (s.repairAt (repairKey p.1 p.2.1 p.2.2.1 (p.2.2.2 - 768))).toNat
    if bit e 15 then some (e % 1024) else none

/-- Clears the valid bits of the rows of a Hive that a test picks by kind, bank and logical row, in use spares included; no
data cell is touched (R30). A clear of rows in a mirrored region is forwarded as zero lines (R324). -/
def State.clearValid (s : State) (h : Nat) (pick : Nat → Nat → Nat → Bool) : State :=
  let keys := (s.mem.rows.map (fun e => e.1)).filter (fun k =>
    let p := keyParts k
    p.2.1 = h && (match s.logicalRow k with
      | some r => pick p.1 p.2.2.1 r
      | none => false))
  keys.foldl (fun s k =>
    let r := s.rowAt k
    let p := keyParts k
    let s := s.setRow k { r with cells := 0 }
    if r.valid && p.1 = 0 then
      let row := (s.logicalRow k).getD 0
      let ga := h * 0x400000 + row * 4096 + p.2.2.1 * 64
      s.forward h { ga := BitVec.ofNat 48 ga, srcUnit := h } .write fullMask 0
    else s) s

/-! ### Handover -/

/-- Stores an ownership entry. -/
def State.setOwner (s : State) (h b : Nat) (o : Owner) : State :=
  { s with hives := { s.hives with owner := Tbl.set s.hives.owner {} (64 * h + b) o } }

/-- A write of a bank ownership entry starts a handover; while one drains it is ignored (R50, R52, R53). -/
def execBankOwnerWrite (p : RegPath) (c : CtxId) (h : HiveId) (b : BankId) (v : Byte) (s : State) :
    Host.Outcome State Fault Refusal :=
  .next (
    let go := fun (s : State) =>
      let o := s.ownerOf h.val b.val
      if s.mgmt.por || (p = .ctl && (c.val ≠ 0 || !s.clk.rootOn || !s.hiveUp h.val)) || o.pend then s
      else
        let s := if p = .ctl then s.wakeHive h.val else s
        s.setOwner h.val b.val { o with next := fld v.toNat 2 0, pend := true, clear := bit v.toNat 6, since := s.clk.now, clrAt := none }
    if p = .ctl then s.cmd h.val c.val (.bankOwnerWrite p c h b v) go else go s)

/-- An admitted access of the old owner to a bank is still in progress (R52 step 4). -/
def State.ownerBusy (s : State) (h b c : Nat) : Bool :=
  s.flight.any (fun x => s.ownCtx x = c && (match x.loc with
    | .row t k r => t = h && k = b && !s.inPool r
    | _ => false) && (x.stage = .arbiter || (x.stage = .returned && isWr x.kind) || x.stage = .meshIf && x.half = .answer)) ||
  s.hives.sb.any (fun e => e.hive = h && e.ctx = c && e.since ≤ (s.ownerOf h b).since &&
    (List.range 768).any (fun r =>
      let ga := h * 0x400000 + r * 4096 + b * 64
      decide (e.lo < ga + 64) && decide (ga < e.hi)))

/-- Requests that a handover held at issue go on (R52 step 3). -/
def State.reissueHeld (s : State) (h b : Nat) : State :=
  let xs := s.flight.filter (fun x => x.stage = .issueStall && x.win.isNone && (match x.loc with
    | .row t k _ => t = h && k = b
    | _ => false))
  xs.foldl (fun s x => match s.xact x.id with
    | some y =>
      match y.purpose with
      | .scalar _ _ => if y.mesh then s.reissue y else s.sxpGo { y with stage := .portInput }
      | _ => s.reissue y
    | none => s) s

/-- The handover completes: the new owner takes the bank, its core and ctx0's are signalled and subscribers notified (R52
step 6, R447). -/
def State.handoverDone (s : State) (h b : Nat) : State :=
  let o := s.ownerOf h b
  let s := s.setOwner h b { owner := o.next, next := o.next }
  let s := (s.pulse h o.next).pulse h 0
  (s.notice 0x8040 (64 * h + b) [BitVec.ofNat 8 (o.next + 8 * o.next)]).reissueHeld h b

/-- The old owner's last admitted access has completed: the bank clears if asked, or the handover completes (R52 step 5). -/
def execHandoverDrainEnd (h : HiveId) (b : BankId) (s : State) : Host.Outcome State Fault Refusal :=
  .next (
    let o := s.ownerOf h.val b.val
    if !s.clk.rootOn || !o.pend || o.clrAt.isSome || s.ownerBusy h.val b.val o.owner then s
    else if o.clear then s.setOwner h.val b.val { o with clrAt := some (s.clk.now + 8) }
    else s.handoverDone h.val b.val)

/-- The 8-cycle clear ends: the owned rows and the spares that replace them are invalid, and the handover completes (R52). -/
def execHandoverClearEnd (h : HiveId) (b : BankId) (s : State) : Host.Outcome State Fault Refusal :=
  .next (match (s.ownerOf h.val b.val).clrAt with
    | some t =>
      if s.clk.rootOn && decide (t ≤ s.clk.now) then
        (s.clearValid h.val (fun k bank row => k = 0 && bank = b.val && !s.inPool row)).handoverDone h.val b.val
      else s
    | none => s)

/-! ### The clock of a Hive -/

/-- Nothing is presented, pending, accessed or in flight at a Hive (R103). -/
def State.quiet (s : State) (h : Nat) : Bool :=
  s.flight.all (fun x => !((x.srcChip.isNone && x.srcUnit = h) || x.loc.unit = h || (x.unit = h && x.stage ≠ .link))) &&
  (Tbl.get s.hives.passes [] h).isEmpty && s.hives.flcCmds.all (fun f => f.hive ≠ h) && s.hives.moves.all (fun m => m.hive ≠ h) &&
  (List.range 16).all (fun k => (Tbl.get s.chans {} (16 * h + k)).descs.isEmpty)

/-- Sets the clock of a Hive. -/
def State.setClock (s : State) (h : Nat) (c : HClock) : State :=
  { s with hives := { s.hives with clock := Tbl.set s.hives.clock .off h c } }

/-- Cycles a Hive has been idle. -/
def State.idleFor (s : State) (h : Nat) : Nat := s.clk.now - Tbl.get s.hives.active 0 h

/-- After 64 idle cycles in DYNAMIC mode a Hive gates its clock (R103). -/
def execHiveIdleGate (h : HiveId) (s : State) : Host.Outcome State Fault Refusal :=
  .next (
    if s.clk.rootOn && !s.determ && s.clockOf h.val = .live && s.domLive h.val 0 && s.quiet h.val && decide (64 ≤ s.idleFor h.val) then
      s.setClock h.val .warm
    else s)

/-- A Hive finishes its 4-cycle wake (R103, R104). -/
def execHiveWakeEnd (h : HiveId) (s : State) : Host.Outcome State Fault Refusal :=
  .next (match s.clockOf h.val with
    | .waking t => if s.clk.rootOn && decide (t ≤ s.clk.now) then (s.setClock h.val .live).active h.val else s
    | _ => s)

/-- POWER_INTENT entry j of a Hive, and the cycle of the running epoch it names (R104). -/
def State.intent (s : State) (h j : Nat) : Nat × Nat :=
  let v := s.act 0x8600 (16 * h + j)
  (fld v 31 30, s.sched.start + 256 * fld v 23 8 + fld v 7 0)

/-- The entry is reached in this cycle of the running epoch. -/
def State.intentDue (s : State) (h j action : Nat) : Bool :=
  s.clk.rootOn && s.determ && s.sched.running && (s.intent h j).1 = action && (s.intent h j).2 = s.clk.now

/-- A GATE entry is reached: the Hive enters WARM in the following cycle, once the accesses it has in flight have completed (R104). -/
def execPowerIntentGate (h : HiveId) (j : Fin 16) (s : State) : Host.Outcome State Fault Refusal :=
  .next (
    if s.intentDue h.val j.val 1 && s.clockOf h.val ≠ .off then
      { s with hives := { s.hives with gatePend := addOnce s.hives.gatePend h.val } }
    else s)

/-- A WAKE entry is reached: the Hive is LIVE 4 cycles later, and a GATE that still waits for its accesses ends (R104). -/
def execPowerIntentWake (h : HiveId) (j : Fin 16) (s : State) : Host.Outcome State Fault Refusal :=
  .next (
    if s.intentDue h.val j.val 2 then
      let s := { s with hives := { s.hives with gatePend := without s.hives.gatePend h.val } }
      if s.clockOf h.val = .warm then s.setClock h.val (.waking (s.clk.now + 4)) else s
    else s)

/-! ### Power domains -/

/-- Stores a domain. -/
def State.setDomain (s : State) (h d : Nat) (x : Domain) : State :=
  { s with hives := { s.hives with dom := Tbl.set s.hives.dom {} (14 * h + d) x } }

/-- The code of a domain state (R358). -/
def domCode : Dom → Nat
  | .on => 0
  | .ember => 1
  | .cold => 2

/-- The state of a code; 0b11 has none (R358). -/
def domOf (n : Nat) : Option Dom :=
  match n with
  | 0 => some .on
  | 1 => some .ember
  | 2 => some .cold
  | _ => none

/-- The field of HIVE_POWER that names a domain: 0 the logic, 1 to 12 the segments, 13 the stores (R358). -/
def powerField (v d : Nat) : Nat :=
  if d = 0 then fld v 51 50 else if d = 13 then fld v 27 26 else fld v (2 * (d - 1) + 1) (2 * (d - 1))

/-- A transition of the Hive runs (R358). -/
def State.pwrBusy (s : State) (h : Nat) : Bool := (List.range 14).any (fun d => (s.domain h d).phase ≠ .idle)

/-- HIVE_POWER as read: pend, result and the targets (R358). -/
def State.hivePower (s : State) (h : Nat) : Dword :=
  let seg := (List.range 12).foldl (fun a j => a + domCode (s.domain h (1 + j)).target * 2^(2 * j)) 0
  dwordOf [(63, 63, b2n (s.pwrBusy h)), (62, 60, Tbl.get s.hives.pwrRes 0 h), (51, 50, domCode (s.domain h 0).target),
    (27, 26, domCode (s.domain h 13).target), (23, 0, seg)]

/-- The combination of fields is refused (R359). -/
def powerRefused (v : Nat) : Bool :=
  let f := powerField v
  (List.range 14).any (fun d => f d = 3) ||
  (List.range 13).any (fun j => f (j + 1) = 0 && f 0 ≠ 0) ||
  (f 0 = 2 && (List.range 13).any (fun j => f (j + 1) ≠ 2))

/-- Local byte range of a domain's rows (R26, R357). -/
def domRange (d : Nat) : Nat × Nat :=
  if d = 13 then (0x300000, 0x340000) else ((d - 1) * 0x40000, d * 0x40000)

/-- Two ranges overlap. -/
def overlaps (a b c d : Nat) : Bool := decide (a < d) && decide (c < b)

/-- What keeps a segment or the store domain ON (R360). -/
def State.segBusy (s : State) (h d : Nat) : Bool :=
  let r := domRange d
  let ga := h * 0x400000
  (List.range 16).any (fun i =>
    let g := s.ringAt h i
    g.en && overlaps (64 * g.base) (64 * (g.base + (g.nslots + 1) * g.lines)) r.1 r.2) ||
  (List.range 32).any (fun w =>
    let q := s.win h w
    wState q ≠ 0 && overlaps (64 * wBase q) (64 * (wBase q + wExtent q)) r.1 r.2) ||
  (List.range 64).any (fun i =>
    let q := s.mregion i
    mrEn q && overlaps (4096 * mrBase q) (4096 * (mrBase q + mrPages q)) (ga + r.1) (ga + r.2)) ||
  s.hives.moves.any (fun m =>
    (m.hive = h && overlaps (64 * m.src) (64 * (m.src + m.lines)) r.1 r.2) ||
    overlaps m.dst (m.dst + 64 * m.lines) (ga + r.1) (ga + r.2)) ||
  s.hives.sb.any (fun e => overlaps e.lo e.hi (ga + r.1) (ga + r.2))

/-- What keeps the logic ON (R360). -/
def State.logicBusy (s : State) (h : Nat) : Bool :=
  (List.range 16).any (fun k =>
    let c := Tbl.get s.chans {} (16 * h + k)
    c.en || c.st ≠ .idle) ||
  (List.range 256).any (fun j => (Tbl.get s.jobs {} (256 * h + j)).st ≠ .free) ||
  !(Tbl.get s.scarabs [] h).isEmpty ||
  (List.range 32).any (fun w => wState (s.win h w) ≠ 0) ||
  (List.range 128).any (fun n => (Tbl.get s.hives.waits {} (128 * h + n)).state = 1) ||
  s.hives.sb.any (fun e => e.hive = h) || s.hives.moves.any (fun m => m.hive = h)

/-- Domains in the power-up of R361. -/
def State.wakesRunning (s : State) : Nat :=
  (s.hives.dom.filter (fun e => e.2.st = .cold && (match e.2.phase with
    | .waking _ => true
    | _ => false))).length

/-- Admits waiting domains in order of Hive, then of domain, while the limit allows (R361). The 12 µs count in timestamp
ticks of 1 ns. -/
def State.admitWakes (s : State) : State :=
  (s.hives.dom.filter (fun e => e.2.phase = .queued)).foldl (fun s e =>
    if s.wakesRunning < s.pv 0x4030 0 then
      { s with hives := { s.hives with dom := Tbl.set s.hives.dom {} e.1 { e.2 with phase := .waking (s.clk.ts.toNat + 12000) } } }
    else s) s

/-- Starts the transition of a domain to a target (R360, R361). -/
def State.startDomain (s : State) (h d : Nat) (t : Dom) : State :=
  let x := s.domain h d
  if x.st = t then s
  else match x.st, t with
    | .cold, _ => s.setDomain h d { x with target := t, phase := .queued }
    | .ember, .on => s.setDomain h d { x with target := t, phase := .waking (s.clk.ts.toNat + 1500) }
    | _, _ => s.setDomain h d { x with target := t, phase := .draining }

/-- A write of HIVE_POWER is checked and starts the transitions (R358 to R361). -/
def execHivePowerWrite (p : RegPath) (h : HiveId) (v : Dword) (s : State) : Host.Outcome State Fault Refusal :=
  .next (
    let go := fun (s : State) =>
      let n := v.toNat
      let res := fun (r : Nat) => { s with hives := { s.hives with pwrRes := Tbl.set s.hives.pwrRes 0 h.val r } }
      if s.mgmt.por || !s.clk.rootOn || s.pwrBusy h.val || (p = .ctl && !s.hiveUp h.val) then s
      else if powerRefused n then res 2
      else if (List.range 14).any (fun d =>
          s.domLive h.val d && powerField n d ≠ 0 && (if d = 0 then s.logicBusy h.val else s.segBusy h.val d)) then res 3
      else
        ((List.range 14).foldl (fun s d => match domOf (powerField n d) with
          | some t => s.startDomain h.val d t
          | none => s) (res 0)).admitWakes
    if p = .ctl then s.cmd h.val 0 (.hivePowerWrite p h v) go else go s)

/-- Every field has reached its target: ctx0 is signalled and subscribers are notified (R361). -/
def State.powerSettled (s : State) (h : Nat) : State :=
  if s.pwrBusy h then s
  else (s.pulse h 0).notice 0x8E00 h (natBytes 8 (s.hivePower h).toNat)

/-- Context state of a Hive back at its reset values (R362): handles, windows, rings, barriers, waits, the sync page, its
control pages and its cache. -/
def State.coldLogic (s : State) (h : Nat) : State :=
  let keep := fun {α : Type} (t : Tbl α) (n : Nat) => t.filter (fun e => e.1 / n ≠ h)
  { s with
    mem := { s.mem with sync := keep s.mem.sync 8192 }
    hives := { s.hives with
      handles := keep s.hives.handles 512
      drains := keep s.hives.drains 512
      rings := keep s.hives.rings 16
      waits := keep s.hives.waits 128
      barriers := keep s.hives.barriers 32
      passes := Tbl.erase s.hives.passes h
      cmdq := keep s.hives.cmdq 8
      pages := keep s.hives.pages 65536
      ways := keep s.hives.ways 2048
      plru := keep s.hives.plru 256
      flcCmds := s.hives.flcCmds.filter (fun f => f.hive ≠ h)
      sent := keep s.hives.sent 8192
      fences := s.hives.fences.filter (fun f => f.hive ≠ h)
      lastRes := keep s.hives.lastRes 8
      faultReg := Tbl.erase s.hives.faultReg h }
    wins := { s.wins with
      table := keep s.wins.table 32
      extra := keep s.wins.extra 32
      allots := s.wins.allots.filter (fun a => a.hive ≠ h) }
    jobs := keep s.jobs 256 }

/-- An admitted access to a domain is in progress (R360 step 2). -/
def State.domBusy (s : State) (h d : Nat) : Bool :=
  let r := domRange d
  if d = 0 then !s.flight.all (fun x => !((x.srcChip.isNone && x.srcUnit = h) || (x.loc.unit = h && x.stage ≠ .returned)))
  else s.flight.any (fun x => x.loc.unit = h && x.stage.ungranted && x.stage ≠ .link && x.stage ≠ .meshIf &&
    overlaps x.loc.local (x.loc.local + 64) r.1 r.2 && (match x.loc.rowId with
      | some (k, _, _, _) => (k = 0) = (d ≠ 13)
      | none => false))

/-- Contents of a domain are lost: its rows are no longer listed (R357; log entry 15). -/
def State.loseRows (s : State) (h d : Nat) : State :=
  { s with mem := { s.mem with rows := s.mem.rows.filter (fun e =>
    let p := keyParts e.1
    !(p.2.1 = h && (if d = 13 then p.1 ≠ 0 else d ≠ 0 && p.1 = 0 && (match s.logicalRow e.1 with
      | some r => r / 64 = d - 1
      | none => d = 12)))) } }

/-- A domain that leaves ON has drained, for the logic with its cache written back, and enters its new state (R360). -/
def execDomainDrainEnd (h : HiveId) (d : Fin 14) (s : State) : Host.Outcome State Fault Refusal :=
  .next (
    let x := s.domain h.val d.val
    if !s.clk.rootOn || x.phase ≠ .draining || s.domBusy h.val d.val then s
    else if d.val = 0 && s.hives.ways.any (fun e => e.1 / 2048 = h.val) then
      (s.flcWalk h.val 0 9 (fun _ => true) true).1
    else
      let s := s.setDomain h.val d.val { st := x.target, target := x.target, phase := .idle }
      let s := if x.target = .cold then (if d.val = 0 then s.coldLogic h.val else s.loseRows h.val d.val) else s
      s.powerSettled h.val)

/-- A domain's power-up or retention wake ends (R30, R37, R295, R361, R362, R388): its rows are invalid after COLD, and the logic
starts with its context counters at 0. -/
def State.wakeEnd (s : State) (h d : Nat) : State :=
  let x := s.domain h d
  match x.phase with
  | .waking t =>
    if s.clk.ts.toNat < t then s
    else
      let cold := x.st = .cold
      let s := s.setDomain h d { st := x.target, target := x.target, phase := .idle }
      let s := if cold && d ≠ 0 then
          s.clearValid h (fun k _ row => if d = 13 then k ≠ 0 else k = 0 && row / 64 = d - 1)
        else s
      let s := if 1 ≤ d && d ≤ 12 then
          let w := Tbl.get s.err.walkers {} h
          { s with err := { s.err with walkers := Tbl.set s.err.walkers {} h { w with first := addOnce w.first d } } }
        else s
      let s := if d = 0 && cold then
          { s.coldLogic h with count := { s.count with cnt := s.count.cnt.filter (fun e => !(e.1 / 2^24 = 0x6800 && e.1 % 2^24 / 128 = h)) } }
        else s
      let s := if d = 0 && s.clockOf h ≠ .off then (s.setClock h .live).active h else s
      s.admitWakes.powerSettled h
  | _ => s

/-- A domain's wake ends. -/
def execDomainWakeEnd (h : HiveId) (d : Fin 14) (s : State) : Host.Outcome State Fault Refusal :=
  .next (if s.clk.rootOn then s.wakeEnd h.val d.val else s)

end Sys2Proof.Machine
end

