-- ==== Sys2Proof/Machine/Rs.lean ====
section
/-!
DEFINITION. Rs.lean: the outer code of a coded page (R243 to R245): systematic Reed-Solomon over GF(2^12), encoder
and errors-and-erasures decoder. Polynomials are lists of coefficients, lowest degree first.
-/
namespace Sys2Proof.Machine

/-- Doubling in GF(2^12) modulo x^12 + x^6 + x^4 + x + 1 (R244). -/
def gfDbl (a : Nat) : Nat := if a < 2048 then 2 * a else (2 * a) ^^^ 0x1053

/-- Product in GF(2^12). -/
def gfMul (a b : Nat) : Nat :=
  ((List.range 12).foldl (fun (s : Nat × Nat) i => (if b.testBit i then s.1 ^^^ s.2 else s.1, gfDbl s.2)) (0, a)).1

/-- Power in GF(2^12) by squaring, exponents below 4,096. -/
def gfPow (a n : Nat) : Nat :=
  ((List.range 12).foldl (fun (s : Nat × Nat) i => (if n.testBit i then gfMul s.1 s.2 else s.1, gfMul s.2 s.2)) (1, a)).1

/-- Inverse in GF(2^12): a^4094. -/
def gfInv (a : Nat) : Nat := gfPow a 4094

/-- α^i for α = x. -/
def gfExp (i : Nat) : Nat := gfPow 2 (i % 4095)

/-- Sum of polynomials. -/
def pAdd : List Nat → List Nat → List Nat
  | [], b => b
  | a, [] => a
  | x :: a, y :: b => (x ^^^ y) :: pAdd a b

/-- A polynomial times a constant. -/
def pScale (c : Nat) (a : List Nat) : List Nat := a.map (gfMul c)

/-- Product of polynomials. -/
def pMul : List Nat → List Nat → List Nat
  | [], _ => []
  | x :: a, b => pAdd (pScale x b) (0 :: pMul a b)

/-- Value of a polynomial at a point. -/
def pEval (a : List Nat) (x : Nat) : Nat := a.foldr (fun c v => c ^^^ gfMul v x) 0

/-- g(x) = Π (x + α^i), i below p (R244). -/
def rsGen (p : Nat) : List Nat := (List.range p).foldl (fun g i => pMul g [gfExp i, 1]) [1]

/-- Parity symbols p of a strength code (R245). -/
def rsParity (strength : Nat) : Nat := 16 * strength

/-- One message symbol into the division by g: `r` holds the remainder, highest degree first. -/
def rsStep (g : List Nat) (r : List Nat) (m : Nat) : List Nat :=
  match r with
  | [] => []
  | top :: t =>
    let f := m ^^^ top
    (List.zipWith (fun a b => a ^^^ gfMul f b) (t ++ [0]) g)

/-- The p parity symbols of a message: symbol t is the coefficient of x^(p−1−t) (R244). -/
def rsEncode (p : Nat) (msg : List Nat) : List Nat :=
  let g := ((rsGen p).reverse).drop 1
  msg.foldl (rsStep g) (List.replicate p 0)

/-- Symbol s of a message of 4,000 B given as a number: stream bits 12s + 11 to 12s (R244). -/
def msgSyms (m : Nat) : List Nat := (List.range 2667).map (fun s => fld m (12 * s + 11) (12 * s))

/-- Syndromes of a codeword, highest degree first. -/
def rsSynd (p : Nat) (cw : List Nat) : List Nat :=
  (List.range p).map (fun i => let a := gfExp i; cw.foldl (fun v c => gfMul v a ^^^ c) 0)

/-- The state of the Berlekamp-Massey loop. -/
structure Bm where
  lam  : List Nat
  prev : List Nat
  len  : Nat
deriving DecidableEq, Repr

/-- The discrepancy of a locator at step `n`. -/
def bmDisc (synd lam : List Nat) (n : Nat) : Nat :=
  (lam.zipIdx).foldl (fun d e => if e.2 ≤ n then d ^^^ gfMul e.1 (synd.getD (n - e.2) 0) else d) 0

/-- One step of the Berlekamp-Massey loop from step `f`, the number of erasures. -/
def bmStep (synd : List Nat) (f : Nat) (b : Bm) (n : Nat) : Bm :=
  let d := bmDisc synd b.lam n
  let prev := 0 :: b.prev
  if d = 0 then { b with prev := prev }
  else
    let lam := pAdd b.lam (pScale d prev)
    if 2 * b.len ≤ n + f then { lam := lam, prev := pScale (gfInv d) b.lam, len := n + 1 + f - b.len }
    else { b with lam := lam, prev := prev }

/-- The formal derivative's odd part: the terms of odd degree, one degree down. -/
def pDeriv (a : List Nat) : List Nat := (a.zipIdx).drop 1 |>.map (fun e => if e.2 % 2 = 1 then e.1 else 0)

/-- Errors-and-erasures decoding of a codeword of n symbols, highest degree first; `er` lists erased places. None
when no pattern with 2e + f ≤ p explains it (R245). -/
def rsDecode (p : Nat) (cw : List Nat) (er : List Nat) : Option (List Nat) :=
  let n := cw.length
  let synd := rsSynd p cw
  if synd.all (fun x => x = 0) then some cw
  else if p < er.length then none
  else
    let f := er.length
    let gam := er.foldl (fun g i => pMul g [1, gfExp (n - 1 - i)]) [1]
    let b := (List.range (p - f)).foldl (fun b j => bmStep synd f b (f + j)) { lam := gam, prev := gam, len := f }
    let lam := b.lam
    let om := (pMul synd lam).take p
    let dl := pDeriv lam
    let deg := (lam.zipIdx).foldl (fun d e => if e.1 = 0 then d else e.2) 0
    let roots := (List.range n).filter (fun i => pEval lam (gfInv (gfExp (n - 1 - i))) = 0)
    if roots.length = deg ∧ 2 * (deg - f) + f ≤ p then
      let out := (cw.zipIdx).map (fun e =>
        if roots.contains e.2 then
          let x := gfExp (n - 1 - e.2)
          let xi := gfInv x
          e.1 ^^^ gfMul x (gfMul (pEval om xi) (gfInv (pEval dl xi)))
        else e.1)
      if (rsSynd p out).all (fun x => x = 0) then some out else none
    else none

/-! ### Pages -/

/-- The 4 KiB of a page as a number, from its 64 lines. -/
def pageNat (ls : List Line) : Nat := (ls.zipIdx).foldl (fun a e => a + e.1.toNat * 2^(512 * e.2)) 0

/-- The message of a page: bytes 0–3,967 and the tag bytes 4,064–4,095 (R244). -/
def pageMsg (pg : Nat) : Nat := pg % 2^(8 * 3968) + (fld pg (8 * 4096 - 1) (8 * 4064)) * 2^(8 * 3968)

/-- The tag of a page (R243). -/
def pageTag (page strength poison : Nat) : Nat :=
  pack [(28, 0, page), (71, 64, strength), (191, 128, poison)]

/-- Lines 62 and 63 of a page: the parity of its message and its tag (R243, R244). -/
def pageTail (strength : Nat) (pg : Nat) (tag : Nat) : Nat :=
  let msg := pg % 2^(8 * 3968) + tag * 2^(8 * 3968)
  joinSyms (rsEncode (rsParity strength) (msgSyms msg)) + tag * 2^(8 * 96)
where
  /-- Parity symbols as a bit stream. -/
  joinSyms : List Nat → Nat
    | [] => 0
    | c :: t => c + 4096 * joinSyms t

/-- Decodes a page: the corrected 4 KiB, or none. `er` lists the flagged lines (R245, R289). -/
def pageDecode (strength : Nat) (pg : Nat) (er : List Nat) : Option Nat :=
  let p := rsParity strength
  let msg := msgSyms (pageMsg pg)
  let par := (List.range p).map (fun t => fld pg (8 * 3968 + 12 * t + 11) (8 * 3968 + 12 * t))
  let cover := fun (lo hi : Nat) (s : Nat) => decide (lo ≤ 12 * s + 11 ∧ 12 * s ≤ hi)
  let erased := (List.range (2667 + p)).filter (fun s => er.any (fun j =>
    if s < 2667 then
      if j < 62 then cover (512 * j) (512 * j + 511) s else j = 63 && cover 31744 31999 s
    else if j = 62 then cover 0 511 (s - 2667) else j = 63 && cover 512 767 (s - 2667)))
  match rsDecode p (msg ++ par) erased with
  | none => none
  | some cw =>
    let m := joinS (cw.take 2667)
    some (m % 2^(8 * 3968) + joinS (cw.drop 2667) * 2^(8 * 3968) + fld m 31999 31744 * 2^(8 * 4064))
where
  /-- Symbols as a bit stream. -/
  joinS : List Nat → Nat
    | [] => 0
    | c :: t => c + 4096 * joinS t

/-- Line `j` of a page. -/
def pageLine (pg j : Nat) : Line := BitVec.ofNat 512 (fld pg (512 * j + 511) (512 * j))

end Sys2Proof.Machine
end

