-- ==== Sys2Proof/Machine/TierOps.lean ====
section
/-!
DEFINITION. TierOps.lean: the stored lines of both tiers, coded pages and their parity (R243 to R246, R259), page buffers
(R257, R266), the outer decode (R289 to R291), the
capacity manifest (R306 to R309) and the loss of a tier-1 channel (R261).
-/
namespace Sys2Proof.Machine

/-! ### Stored lines -/

/-- The tier whose lines unit u (0 to 7 a T1C, 8 to 11 a T2Q) holds. -/
def tierOf (u : Nat) : Nat := if u < 8 then 1 else 2

/-- The unit number of R384 of a page buffer's unit. -/
def bufUnit (u : Nat) : Nat := 256 + u

/-- The unit that holds a page of a tier. -/
def pageUnit (tier page : Nat) : Nat := if tier = 1 then t1Stack (4096 * page) else 8 + page * 4096 / cartBytes

/-- Raw byte offset of a location within its tier, and the tier. -/
def Loc.tier : Loc → Option (Nat × Nat)
  | .t1 raw => some (1, raw)
  | .t2 k raw => some (2, k * cartBytes + raw)
  | _ => Option.none

/-- A line of tier 1 as initialised (R259): zero data with its tag and parity. -/
def State.t1Init (s : State) (n : Nat) : Line :=
  let st := s.strength 1 (64 * n)
  if st = 0 ∨ n % 64 < 62 then 0 else pageLine (pageTail st 0 (pageTag (n / 64) st 0)) (n % 64 - 62)

/-- What line n of a tier holds while the block has not written it: an initialised line, or what the cartridge brought. -/
def State.unwritten (s : State) (tier n : Nat) : Line :=
  if tier = 1 then s.t1Init n
  else Config.cartLine (Tbl.get s.tiers.carts {} (64 * n / cartBytes)).store n

/-- Line n of a tier as stored. -/
def State.tline (s : State) (tier n : Nat) : Line :=
  Tbl.get (if tier = 1 then s.mem.t1 else s.mem.t2) (s.unwritten tier n) n

/-- Stores line n of a tier. -/
def State.setTline (s : State) (tier n : Nat) (d : Line) : State :=
  if tier = 1 then { s with mem := { s.mem with t1 := Tbl.set s.mem.t1 (s.unwritten 1 n) n d } }
  else { s with mem := { s.mem with t2 := Tbl.set s.mem.t2 (s.unwritten 2 n) n d } }

/-- The poison mask of a stored page; an OFF page has none (R243, R246). -/
def State.poisonMask (s : State) (tier page : Nat) : Nat :=
  if s.strength tier (4096 * page) = 0 then 0 else fld (s.tline tier (64 * page + 63)).toNat 447 384

/-- Stores a page: 62 data lines and a poison mask, with parity and tag computed afresh (R243, R244). -/
def State.storePage (s : State) (tier page : Nat) (data : Nat → Line) (poison : Nat) : State :=
  let st := s.strength tier (4096 * page)
  let pg := pageNat ((List.range 62).map data)
  let tail := pageTail st pg (pageTag page st poison)
  let s := (List.range 62).foldl (fun s j => if data j = s.tline tier (64 * page + j) then s else s.setTline tier (64 * page + j) (data j)) s
  (s.setTline tier (64 * page + 62) (pageLine tail 0)).setTline tier (64 * page + 63) (pageLine tail 1)

/-! ### Page buffers -/

/-- The buffer that holds a page. -/
def State.bufOf (s : State) (u page : Nat) : Option PageBuf := s.tiers.bufs.find? (fun b => b.unit = u && b.page = page)

/-- Replaces a buffer. -/
def State.setBuf (s : State) (b : PageBuf) : State :=
  { s with tiers := { s.tiers with bufs := s.tiers.bufs.map (fun c => if c.unit = b.unit && c.page = b.page then b else c) } }

/-- Frees a buffer. -/
def State.dropBuf (s : State) (u page : Nat) : State :=
  { s with tiers := { s.tiers with bufs := s.tiers.bufs.filter (fun c => !(c.unit = u && c.page = page)) } }

/-- Buffers a unit has (R257, R266). -/
def bufCount (u : Nat) : Nat := if u < 8 then 32 else 16

/-- Buffers of a unit in use. -/
def State.bufsOf (s : State) (u : Nat) : List PageBuf := s.tiers.bufs.filter (fun b => b.unit = u)

/-- The least recently written buffer of a unit. -/
def State.lruBuf (s : State) (u : Nat) : Option PageBuf :=
  (s.bufsOf u).foldl (fun a b => match a with
    | some c => if b.last < c.last then some b else some c
    | none => some b) none

/-- The buffer of a page: the one that holds it, or a free one; none when all are in use, and then the least recently written
one starts closing (R257 step 1). -/
def State.bufGet (s : State) (u page : Nat) : State × Bool :=
  match s.bufOf u page with
  | some b => (s, !b.closing)
  | none =>
    if (s.bufsOf u).length < bufCount u then
      let b : PageBuf := { unit := u, page := page, lines := [], have_ := 0, dirty := 0, whole := 0, last := s.clk.now,
                           closing := false, decode := false }
      ({ s with tiers := { s.tiers with bufs := s.tiers.bufs ++ [b] } }, true)
    else match s.lruBuf u with
      | some b => (s.setBuf { b with closing := true }, false)
      | none => (s, false)

/-- One bit of a line mask. -/
def lineBit (j : Nat) : Dword := BitVec.ofNat 64 (2^j)

/-- All 62 data lines. -/
def dataMask : Dword := BitVec.ofNat 64 (2^62 - 1)

/-- Line j as a buffer holds it. -/
def PageBuf.line (b : PageBuf) (j : Nat) : Option Line := if b.have_.getLsbD j then some (Tbl.get b.lines 0 j) else none

/-- Puts a line into a buffer. -/
def PageBuf.put (b : PageBuf) (j : Nat) (d : Line) (dirty whole : Bool) (now : Nat) : PageBuf :=
  let dm := if dirty then b.dirty ||| lineBit j else b.dirty
  { b with lines := Tbl.set b.lines 0 j d, have_ := b.have_ ||| lineBit j, dirty := dm
           whole := if whole then b.whole ||| lineBit j else b.whole, last := if dirty then now else b.last
           closing := b.closing || dm = dataMask }

/-- A buffered page as its close writes it (R257 steps 4 and 5, R246): lines and poison mask. -/
def State.bufImage (s : State) (b : PageBuf) : (Nat → Line) × Nat :=
  let t := tierOf b.unit
  (fun j => match b.line j with
    | some d => d
    | none => s.tline t (64 * b.page + j),
   s.poisonMask t b.page &&& (2^64 - 1 - b.whole.toNat))

/-- Lines a close reads and writes: none and 64 when every data line is dirty, else the clean data lines and the tag, then
the dirty lines and lines 62 and 63 (R257). -/
def PageBuf.transfers (b : PageBuf) : Nat × Nat :=
  if b.dirty = dataMask then (0, 64)
  else (63 - popCount 62 b.dirty.toNat, popCount 62 b.dirty.toNat + 2)

/-- A line of the unit a requester reads: the buffer's, else the stored one. -/
def State.tierRead (s : State) (tier n : Nat) : Line :=
  match (s.bufOf (pageUnit tier (n / 64)) (n / 64)).bind (fun b => b.line (n % 64)) with
  | some d => d
  | none => s.tline tier n

/-- The line is poisoned (R246): its bit is set and no whole-line write stands in the buffer. -/
def State.linePoison (s : State) (tier n : Nat) : Bool :=
  n % 64 < 62 && bit (s.poisonMask tier (n / 64)) (n % 64) && (match s.bufOf (pageUnit tier (n / 64)) (n / 64) with
    | some b => !b.whole.getLsbD (n % 64)
    | none => true)

/-- Writes bytes of a line of a tier inside the block: into the buffer that holds its page, else into the stored page with
fresh parity (R257, R259). -/
def State.tierWrite (s : State) (tier n : Nat) (mask : Dword) (d : Line) : State :=
  let page := n / 64
  let j := n % 64
  let new := mergeLine (s.tierRead tier n) d mask
  match s.bufOf (pageUnit tier page) page with
  | some b => s.setBuf (b.put j new true (mask = fullMask) s.clk.now)
  | none =>
    if s.strength tier (4096 * page) = 0 then s.setTline tier n new
    else if 62 ≤ j then s
    else
      let p := s.poisonMask tier page
      s.storePage tier page (fun i => if i = j then new else s.tline tier (64 * page + i))
        (if mask = fullMask then setFld p j j 0 else p)

/-- Sets the poison bit of a data line. -/
def State.poisonLine (s : State) (tier n : Nat) : State :=
  s.storePage tier (n / 64) (fun i => s.tline tier (64 * (n / 64) + i)) (setFld (s.poisonMask tier (n / 64)) (n % 64) (n % 64) 1)

/-! ### Outer decode -/

/-- A decode of a page runs or waits (R289 step 1). -/
def State.decoding (s : State) (u page : Nat) : Bool := s.tiers.decs.any (fun d => d.unit = u && d.page = page)

/-- The decoder's queue has room (R291). -/
def State.decRoom (s : State) (u : Nat) : Bool := (s.tiers.decs.filter (fun d => d.unit = u)).length < 5

/-- Starts a decode of a page for a flagged line: the request it answers, and the line as read (R289). -/
def State.decStart (s : State) (u page : Nat) (req : Option Nat) (j : Nat) (raw : Line) : State :=
  let d : DecJob := { unit := u, page := page, flagged := lineBit j, raw := [(j, raw)], req := req, due := s.clk.now + 320,
                      walker := false }
  let s := (s.bufGet u page).1
  { s with tiers := { s.tiers with decs := s.tiers.decs ++ [d] } }

/-- The integrity event of a tier line (R285). -/
def tierEvent (code u det sym strength loc : Nat) (x : Option Xact) : Integ :=
  let b : Integ := { code := code, kind := tierOf u + 4, det := det, gmask := sat 255 sym, synd := strength, unit := bufUnit u,
                     loc := loc % 2^40 }
  match x with
  | some x => { b with port := if x.srcUnit < 256 then x.srcPort else 0xF, chan := x.srcChan % 16, ctx := x.ctx,
                       layer := x.layer.toNat, oper := x.operator.toNat }
  | none => b

/-- Raw byte offset of a tier line within its stack or cartridge (R285). -/
def locIn (tier n : Nat) : Nat := if tier = 1 then 64 * n else 64 * n % cartBytes

/-- Symbols in which two pages differ (R285). -/
def symDiff (a b : Nat) : Nat :=
  ((List.range 2731).filter (fun i => fld a (12 * i + 11) (12 * i) ≠ fld b (12 * i + 11) (12 * i))).length

/-- The stored page of a decode as read: flagged lines as they came. -/
def State.decPage (s : State) (d : DecJob) : Nat :=
  pageNat ((List.range 64).map (fun j => match Tbl.find d.raw j with
    | some l => l
    | none => s.tline (tierOf d.unit) (64 * d.page + j)))

/-- Raw pages of a tier that a reserved extent takes: the first and the last (R305, R308). -/
def State.extentPages (s : State) (e : Extent) : Option (Nat × Nat × Nat) :=
  match (s.locate e.base).tier, (s.locate (e.base + (e.len - 1) / 64 * 64)).tier with
  | some (t, a), some (_, b) => some (t, a / 4096, b / 4096)
  | _, _ => none

/-- A raw page of a tier lies inside a reserved extent (R305). -/
def State.inExtent (s : State) (tier page : Nat) : Bool :=
  s.err.extents.any (fun e => match s.extentPages e with
    | some (t, a, b) => t = tier && decide (a ≤ page) && decide (page ≤ b)
    | none => false)

/-- A page that a failed decode poisons inside an extent is recorded as pending (R305). -/
def State.pendPage (s : State) (u page : Nat) : State :=
  let t := tierOf u
  let e : TierRet := { kind := if t = 1 then 0 else 2, pend := true, unit := if t = 1 then u else u - 8, loc := page }
  if !s.inExtent t page || s.err.tierRet.any (fun x => x.kind = e.kind && x.loc = page) || 65536 ≤ s.err.tierRet.length then s
  else { s with err := { s.err with tierRet := s.err.tierRet ++ [e] } }

/-- Cartridge k. -/
def State.cart (s : State) (k : Nat) : Cart := Tbl.get s.tiers.carts {} k

/-- Stores cartridge k. -/
def State.setCart (s : State) (k : Nat) (c : Cart) : State :=
  { s with tiers := { s.tiers with carts := Tbl.set s.tiers.carts {} k c } }

/-- Counts `n` MemWr issued to a cartridge (R270, R277). -/
def State.memWr (s : State) (k n : Nat) : State :=
  let c := s.cart k
  (s.setCart k { c with ledger := c.ledger + BitVec.ofNat 64 (64 * n) }).cadd 0x6310 (8 * k + 1) n

/-- The effect of a decode of page contents `pg` that gave `o`, the corrected page or none (R243, R289, R291). -/
def State.decWith (s : State) (d : DecJob) (pg : Nat) (o : Option Nat) : State × Option Nat :=
  let t := tierOf d.unit
  let st := s.strength t (4096 * d.page)
  let er := (List.range 64).filter (fun j => d.flagged.getLsbD j)
  let x := d.req.bind s.xact
  let loc := locIn t (64 * d.page + er.headD 0)
  let ended := d.unit ≥ 8 && (Tbl.get s.tiers.carts {} (d.unit - 8)).ended
  let s := { s with tiers := { s.tiers with decs := s.tiers.decs.filter (fun e => e ≠ d) } }
  match o with
  | some fixed =>
    let s := if ended then s else match s.bufOf d.unit d.page with
      | some b =>
        s.setBuf ((List.range 62).foldl (fun b j =>
          let l := pageLine fixed j
          if b.dirty.getLsbD j || (l = s.tline t (64 * d.page + j) && !d.flagged.getLsbD j) then b
          else b.put j l true false s.clk.now) b)
      | none => s
    let s := s.cadd 0x3500 (8 * bufUnit d.unit + 2) 1
    if d.walker && pg = fixed then (s, some fixed)
    else
      let s := if d.walker && !ended then s.cadd 0x3500 (8 * bufUnit d.unit + 5) 1 else s
      (s.integrity (tierEvent 0x46 d.unit 3 (symDiff pg fixed) st loc x), some fixed)
  | none =>
    let poison := er.foldl (fun p j => if j < 62 then setFld p j j 1 else p) (s.poisonMask t d.page)
    let s := if ended then s else if s.power.hold then { s with tiers := { s.tiers with heldPg := s.tiers.heldPg ++ [d] } }
      else s.storePage t d.page (fun j => pageLine pg j) poison
    let s := if ended || d.unit < 8 then s else s.memWr (d.unit - 8) 2
    (((s.cadd 0x3500 (8 * bufUnit d.unit + 3) 1).integrity (tierEvent 0x43 d.unit 3 0 st loc x)).pendPage d.unit d.page, none)

/-- The outcome of a decode (R290): the state after it, the corrected page or none. A walker's decode that corrects nothing leaves no
record (R294); one that corrects counts its rewrite (R288). -/
def State.decEnd (s : State) (d : DecJob) : State × Option Nat :=
  s.decWith d (s.decPage d) (pageDecode (s.strength (tierOf d.unit) (4096 * d.page)) (s.decPage d)
    ((List.range 64).filter (fun j => d.flagged.getLsbD j)))

/-! ### Capacity of the tiers -/

/-- Bits of a list of members in a bit string from `base`. -/
def bitString (l : List Nat) (base n : Nat) : Nat :=
  l.foldl (fun a x => if base ≤ x ∧ x < base + n then a + 2^(x - base) else a) 0

/-- Retired stripes of a Hive below and above the pool boundary. -/
def State.goneStripes (s : State) (h : Nat) (pool : Bool) : Nat :=
  (s.err.stripes.filter (fun x => x / 768 = h && s.inPool (x % 768) = pool)).length

/-- Usable private and pool stripes of a Hive (R307). -/
def State.usable (s : State) (h : Nat) : Nat × Nat := (768 - s.poolC - s.goneStripes h false, s.poolC - s.goneStripes h true)

/-- The record of a Hive (R307). -/
def State.hiveRecord (s : State) (h : Nat) : List Byte :=
  let u := s.usable h
  natBytes 96 (bitString s.err.stripes (768 * h) 768) ++ natBytes 24 (bitString s.err.matStr (192 * h) 192) ++
  natBytes 16 (bitString s.err.vecStr (128 * h) 128) ++ natBytes 2 u.1 ++ natBytes 2 u.2 ++ natBytes 20 0

/-- A reserved extent and a tier entry as bytes (R308). -/
def Extent.bytes (e : Extent) : List Byte := natBytes 1 e.kind ++ natBytes 1 e.tier ++ natBytes 6 0 ++ natBytes 8 e.base ++ natBytes 8 e.len ++ natBytes 8 0
def TierRet.bytes (e : TierRet) : List Byte := natBytes 8 (pack [(63, 61, e.kind), (60, 60, b2n e.pend), (55, 48, e.unit), (47, 0, e.loc)])

/-- CAPACITY_MANIFEST as read (R306 to R308). -/
def State.manifest (s : State) : List Byte :=
  let es := s.err.extents
  let ts := s.err.tierRet
  let body := ((List.range 256).map s.hiveRecord).flatten ++ (es.map Extent.bytes).flatten ++ (ts.map TierRet.bytes).flatten
  let sum := fun (f : Nat → Nat) => (List.range 256).foldl (fun a h => a + f h) 0
  let head := natBytes 2 1 ++ natBytes 2 64 ++ natBytes 4 (64 + body.length) ++ natBytes 8 s.err.gen.toNat ++ natBytes 1 (s.pv 0x1000 0) ++ natBytes 1 0 ++
    natBytes 2 (s.pv 0x1001 0) ++ natBytes 4 (sum (fun h => (s.usable h).1)) ++ natBytes 4 (sum (fun h => (s.usable h).2)) ++ natBytes 2 es.length ++
    natBytes 2 0 ++ natBytes 4 ts.length ++ natBytes 24 0
  let crc := crc32 (head ++ natBytes 4 0 ++ body)
  head ++ natBytes 4 crc.toNat ++ body

/-- The generation of the manifest increases, and subscribers are told (R309, R434); before release at start-up the changes count together
as one (R310). -/
def State.genUp (s : State) : State :=
  if s.mgmt.phase ≠ 7 then { s with err := { s.err with changed := true } }
  else
    let s := { s with err := { s.err with gen := s.err.gen + 1 } }
    s.notice 0x3100 0 (s.manifest.take 64)

/-- Place of a request in its stack. -/
def Xact.place (x : Xact) : T1Place := t1Hash (match x.loc with
  | .t1 raw => raw
  | _ => 0)

/-- A SCHED request at a T1C that its wheel can no longer serve: the entries of its failed channel are voided, so it misses its slot (R100, R113). -/
def State.t1Void (s : State) (x : Xact) (k : Nat) : State :=
  let c := x.place.pc / 2
  if x.sched && s.t1Failed k c then
    s.slotMiss (256 + 32 * k + c) 12 0 (0x900 + 32 * k + c) x.core.1 x.core.2 x.flow.toNat x.layer.toNat x.operator.toNat
  else s

/-- The pages of a stack that use a channel lose their data and their requests (R261, R304). -/
def State.t1Gone (s : State) (k : Nat) : State :=
  let xs := s.flight.filter (fun x => x.half = .request && (match x.loc with
    | .t1 raw => t1Stack raw = k && s.t1Retired raw && (x.stage = .controller || x.stage = .schedStaging || x.stage = .outstanding ||
        x.stage = .pageBuffer || x.stage = .decoder)
    | _ => false))
  let s := { s with tiers := { s.tiers with
    bufs := s.tiers.bufs.filter (fun b => !(b.unit = k && s.t1Retired (4096 * b.page)))
    decs := s.tiers.decs.filter (fun d => !(d.unit = k && s.t1Retired (4096 * d.page))) } }
  xs.foldl (fun s x => (s.t1Void x k).refuseAt x (uT1 k) 0x14) s

/-- A channel is declared failed (R113, R261, R309). -/
def State.failChannel (s : State) (k c : Nat) : State :=
  if s.t1Failed k c then s
  else
    let r := 0x900 + 32 * k + c
    let old := s.netNow r
    let s := s.setPv 0x1106 (32 * k + c) 1
    let s := { s with err := { s.err with tierRet := s.err.tierRet ++ [{ kind := 3, pend := false, unit := k, loc := c : TierRet }] } }
    (((s.genUp.void (0x100000 + r)).capacityLoss (uT1 k) r old 2)).t1Gone k

end Sys2Proof.Machine
end

