-- ==== Sys2Proof/Machine/Tier1.lean ====
section
/-!
DEFINITION. Tier1.lean: a tier-1 controller: requests (R252, R256 to R260), slots and refresh (R94, R95, R251, R254), data from
the PHY (R253, R255), page buffers (R257, R258) and outer decodes (R289 to R291).
-/
namespace Sys2Proof.Machine

/-! ### The wheel -/

/-- Entry i of the wheel of channel c of stack k (R94). -/
def State.t1Entry (s : State) (k c i : Nat) : Nat := s.act 0x2500 (1024 * (32 * k + c) + i)

/-- The cycle in which tier-1 wheels last started: the last epoch start, else the start of the clock root (R94, R95). -/
def State.t1Start (s : State) : Nat := if s.sched.epoch = 0 ∧ !s.sched.running then s.sched.wheel0 else s.sched.start

/-- The slot that begins in this cycle, if one does (R94). -/
def State.t1SlotNow (s : State) : Option Nat :=
  let f := (s.clk.now - s.t1Start) % 2304
  let i := ceilDiv (4 * f) 9
  if 9 * i / 4 = f ∧ i < 1024 then some i else none

/-- SCHED entries are in force while an epoch runs in DETERMINISTIC mode; REF entries always (R85, R95). -/
def State.t1Kind (s : State) (k c i : Nat) : Nat :=
  let e := fld (s.t1Entry k c i) 15 14
  if e = 1 ∧ !(s.determ && s.sched.running) then 0 else e

/-- Cycles, from this one on, at which slots of a flow on a pseudo-channel begin, in this turn and the next two. -/
def State.flowSlots (s : State) (k c half flow : Nat) : List Nat :=
  let es := ((listed s.mgmt.active 0x2500).filter (fun e =>
    e.1 / 1024 = 32 * k + c && fld e.2 15 14 = 1 && fld e.2 11 0 = flow && e.1 % 2 = half)).map (fun e => e.1 % 1024)
  let turn := s.t1Start + (s.clk.now - s.t1Start) / 2304 * 2304
  (((List.range 3).map (fun t => es.map (fun i => turn + 2304 * t + 9 * i / 4))).flatten).filter (fun c => s.clk.now ≤ c)

/-! ### Banks and timing (R251) -/

/-- A timing value of T1_TIMING (R251). -/
def State.t1T (s : State) (i : Nat) : Nat := s.pv 0x1105 i

/-- The key of a bank of a stack. -/
def bankKey (k pc bank : Nat) : Nat := (64 * k + pc) * 16 + bank

/-- A bank as the T1C tracks it. -/
def State.t1Bank (s : State) (key : Nat) : T1Bank := Tbl.get s.tiers.banks {} key

/-- Stores a bank. -/
def State.setT1Bank (s : State) (key : Nat) (b : T1Bank) : State :=
  { s with tiers := { s.tiers with banks := Tbl.set s.tiers.banks {} key b } }

/-- A command word (R250). -/
def cmdWord (kind half bank row col : Nat) : BitVec 40 :=
  BitVec.ofNat 40 (pack [(39, 36, kind), (35, 35, half), (31, 28, bank), (27, 12, row), (11, 8, col)])

/-- Presents a command word on a channel (R249, R250). -/
def State.t1Cmd (s : State) (k c : Nat) (w : BitVec 40) : State :=
  { s with tiers := { s.tiers with cmdOut := Tbl.set s.tiers.cmdOut 0 (32 * k + c) w } }

/-- An ACT on a pseudo-channel in cycle t meets the spacing across its banks (R251 elements 4 and 5). -/
def State.actOk (s : State) (k pc t : Nat) : Bool :=
  let acts := (List.range 16).map (fun b => (s.t1Bank (bankKey k pc b)).act)
  acts.all (fun a => a = 0 || decide (a + s.t1T 4 ≤ t)) && decide ((acts.filter (fun a => a ≠ 0 && t < a + s.t1T 5)).length < 4)

/-- Line number of a request in its tier. -/
def Xact.tn (x : Xact) : Nat := match x.loc.tier with
  | some (_, o) => o / 64
  | none => 0

/-! ### Answers and applies -/

/-- Applies a write or atomic to a line as it stands: the line after it (R188, R190, R260). -/
def applyTo (x : Xact) (old : Line) : Line := modify x.kind x.code.toNat old x.data x.mask (x.ga.toNat % 64)

/-- Forwards what a write of a tier-1 line left (R19, R324), and marks the line of a copy being restored (R337). -/
def State.tierForward (s : State) (x : Xact) (new : Line) : State :=
  let s := s.copyTouched x.ga.toNat
  match x.kind with
  | .atomic => s.forward x.loc.unit x .write (byteMask (x.ga.toNat % 64) (atomSize x.code.toNat)) new
  | _ => s.forward x.loc.unit x .write x.mask new

/-- Answers a read with its line, poisoned lines with the outcome of OUTER_UNCORR (R246, R290). -/
def State.tierData (s : State) (x : Xact) (unit : Nat) (d : Line) (bad : Bool) (wait : Nat) : State :=
  s.answer { x with data := if isWr x.kind && x.kind ≠ .atomic then 0 else d, poison := bad && !isWr x.kind, since := s.clk.now,
                    result := if bad then .uncorr 0x43 else .ok } unit wait

/-- Applies a write or atomic in the buffer of its page, whose line is `old` (R257, R260); it is answered `wait` cycles on. -/
def State.bufApply (s : State) (x : Xact) (u : Nat) (old : Line) (wait : Nat) : State :=
  let n := x.tn
  match s.bufOf u (n / 64) with
  | none => s
  | some b =>
    let new := applyTo x old
    let s := s.setBuf (b.put (n % 64) new true (x.kind = .write && x.mask = fullMask) s.clk.now)
    (s.tierForward x new).tierData x (bufUnit u) old false wait

/-- A line read for a write or atomic to a coded page has come: the buffer `b` of the page takes it unless it has come to hold the line, and the
request is applied there (R190, R257). -/
def State.bufMerge (s : State) (b : PageBuf) (x : Xact) (u : Nat) (l : Line) (wait : Nat) : State :=
  match b.line (x.tn % 64) with
  | some held => s.bufApply x u held wait
  | none => (s.setBuf (b.put (x.tn % 64) l false false s.clk.now)).bufApply x u l wait

/-! ### T1_REQUEST -/

/-- Requests a unit holds in its dynamic queue (R112). -/
def State.t1Queue (s : State) (u : Nat) : List Xact :=
  s.flight.filter (fun x => !x.isRun && x.half = .request && x.loc.unit = u && (x.stage = .controller || x.stage = .outstanding || x.stage = .edgeIngress ||
    x.stage = .pageBuffer || x.stage = .decoder))

/-- Room in the queue of a T1C for a class, under the shares of T1_QUEUE_SHARE; 64 staged SCHED transfers (R112). -/
def State.t1Room (s : State) (u q : Nat) (sched : Bool) : Bool :=
  let l := s.t1Queue u
  let held := fun k => (l.filter (fun x => !x.sched && x.qos = k)).length
  if sched then decide ((s.flight.filter (fun x => x.loc.unit = u && x.half = .request && x.sched &&
    (x.stage = .schedStaging || x.stage = .edgeIngress))).length < 64)
  else
    let total := (List.range 8).foldl (fun a k => a + held k) 0
    let unused := (List.range 8).foldl (fun a k => if k = q then a else a + (s.act 0x2310 k - held k)) 0
    decide (held q < s.act 0x2310 q) || decide (unused < 512 - total)

/-- An earlier write of the same source waits at the unit, so a later one is not applied yet (R212). -/
def State.behind (s : State) (x : Xact) : Bool :=
  s.flight.any (fun y => decide (y.seq < x.seq) && y.half = .request && y.loc.unit = x.loc.unit && isWr y.kind && y.source = x.source &&
    (y.stage = .edgeIngress || y.stage = .pageBuffer || y.stage = .controller || y.stage = .outstanding || y.stage = .decoder) &&
    (isWr x.kind || (decide (y.lo < x.hi) && decide (x.lo < y.hi))))

/-- The SCHED sequence that runs on a page (R258). -/
def State.seqOn (s : State) (u page : Nat) : Option SeqPage := s.tiers.seqs.find? (fun q => q.unit = u && q.page = page)

/-- Replaces or starts a sequence. -/
def State.setSeq (s : State) (q : SeqPage) : State :=
  { s with tiers := { s.tiers with seqs := s.tiers.seqs.filter (fun r => !(r.unit = q.unit && r.page = q.page)) ++ [q] } }

/-- A SCHED write to a coded page continues or starts a whole-page sequence of its flow (R258): its lines come in order, and
the wheel holds slots of the flow for lines 62 and 63. -/
def State.seqStep (s : State) (x : Xact) (k : Nat) : Option SeqPage :=
  let n := x.tn
  let page := n / 64
  let has := fun j => let p := t1Hash (page * 4096 + 64 * j); !(s.flowSlots k (p.pc / 2) (p.pc % 2) x.flow.toNat).isEmpty
  if x.mask ≠ fullMask ∨ x.kind ≠ .write then none
  else match s.seqOn k page with
    | some q => if q.flow = x.flow ∧ q.next = n % 64 then some { q with next := q.next + 1 } else none
    | none => if n % 64 = 0 ∧ has 62 ∧ has 63 then some { unit := k, page := page, flow := x.flow, next := 1, lines := [] } else none

/-- Stages a SCHED request for the slot of its flow, or lets it miss: no lead for its row (cause 6) (R252). -/
def State.t1Stage (s : State) (x : Xact) (k : Nat) : State :=
  let p := x.place
  let c := p.pc / 2
  let claimed := (s.flight.filter (fun y => y.stage = .schedStaging && y.loc.unit = x.loc.unit && y.flow = x.flow && y.place.pc = p.pc)).length
  let open_ := (s.t1Bank (bankKey k p.pc p.bank)).row = some p.row
  let lead := if open_ then 4 else s.t1T 0 + 4
  let miss := fun (cause late : Nat) =>
    (s.slotMiss (256 + 32 * k + c) cause late (0x900 + 32 * k + c) x.core.1 x.core.2 x.flow.toNat x.layer.toNat x.operator.toNat).setX
      { x.missed s.clk.now s.clk.count0 with stage := .controller, unit := uT1 k, since := s.clk.now, ready := s.clk.now + 4 }
  match (s.flowSlots k c (p.pc % 2) x.flow.toNat).drop claimed with
  | t :: _ =>
    if t < s.clk.now + lead then miss 6 (s.clk.now + lead - t)
    else s.setX { x with stage := .schedStaging, unit := uT1 k, since := s.clk.now, dest := t }
  | [] => s.setX { x with stage := .schedStaging, unit := uT1 k, since := s.clk.now, dest := s.clk.now + 2304 }

/-- A SCHED request at a T1C is matched with the wheel of its channel (R98, R258). -/
def State.t1Sched (s : State) (x : Xact) (k : Nat) : State × Xact :=
  let p := x.place
  let c := p.pc / 2
  let coded := s.strength 1 (64 * x.tn) ≠ 0
  if !x.sched then (s, x)
  else if !s.determ then (s, { x with sched := false })
  else if !s.sched.running then
    (s.slotMiss (256 + 32 * k + c) 8 0 (0x900 + 32 * k + c) x.core.1 x.core.2 x.flow.toNat x.layer.toNat x.operator.toNat, x.missed s.clk.now s.clk.count0)
  else if (s.flowSlots k c (p.pc % 2) x.flow.toNat).isEmpty || (isWr x.kind && coded && (s.seqStep x k).isNone) then
    (s.mismatch (uT1 k) 4 x.layer.toNat x.operator.toNat, { x with sched := false })
  else (s, x)

/-- A dynamic write or read of a line waits for a sequence or a decode on its page, or for a close (R257, R258, R289). -/
def State.pageWait (s : State) (u page : Nat) (wr : Bool) : Bool :=
  (s.seqOn u page).isSome || s.decoding u page || (wr && (match s.bufOf u page with
    | some b => b.closing
    | none => false))

/-- A write or atomic to a coded page, at its buffer (R257): applied at once, waiting for a buffer, or reading its line. -/
def State.codedWrite (s : State) (x : Xact) (u : Nat) (wait : Nat) : State :=
  let n := x.tn
  let p := s.bufGet u (n / 64)
  if !p.2 then p.1.setX { x with stage := .pageBuffer, unit := bufUnit u, since := s.clk.now }
  else if x.kind = .write ∧ x.mask = fullMask then p.1.bufApply x u 0 wait
  else match (p.1.bufOf u (n / 64)).bind (fun b => b.line (n % 64)) with
    | some l => p.1.bufApply x u l wait
    | none => p.1.setX { x with stage := .controller, unit := bufUnit u, since := s.clk.now, ready := s.clk.now + 4 }

/-- The hold of writes: a supply warning, or what a mirrored region asks (R325, R330, R335, R377). -/
def State.tierHold (s : State) (x : Xact) : Bool := (isWr x.kind && s.power.hold) || s.mirrorHold x.loc.unit x

/-- A request at the edge link of a T1C (R23, R257 to R260). -/
def State.t1Take (s : State) (x : Xact) (k : Nat) : State :=
  let n := x.tn
  let page := n / 64
  let raw := 64 * n
  let coded := s.strength 1 raw ≠ 0
  let kept := s.copyKept x.ga.toNat || (x.purpose ≠ .observe && s.inTrace x.ga.toNat)
  if s.tiers.failedSt.contains k || s.t1Retired raw || kept then (s.t1Void x k).refuseAt x (uT1 k) 0x14
  else if s.behind x || s.tierHold x then s
  else
    let p := s.t1Sched x k
    let s := p.1
    let x := p.2
    let s := s.setX x
    if x.sched then
      if isWr x.kind && coded then
        match s.seqStep x k with
        | some q => ((s.dropBuf k page).setSeq q).t1Stage { x with inp := 1 } k
        | none => s
      else s.t1Stage x k
    else if s.pageWait k page (isWr x.kind) then s
    else if isWr x.kind then
      if coded then s.codedWrite x k 7
      else s.setX { x with stage := .controller, unit := uT1 k, since := s.clk.now, ready := s.clk.now + 4 }
    else match (s.bufOf k page).bind (fun b => b.line (n % 64)) with
      | some l => s.tierData x (uT1 k) l (s.linePoison 1 n) 11
      | none => s.setX { x with stage := .controller, unit := uT1 k, since := s.clk.now, ready := s.clk.now + 4 }

/-- A request reaches a T1C, or one that waited there for a page buffer tries again (R257). -/
def execT1Request (x : Nat) (s : State) : Host.Outcome State Fault Refusal :=
  .next (match s.xact x with
    | some y =>
      match y.loc with
      | .t1 raw =>
        if s.clk.rootOn && y.half = .request && !y.isFill && (y.stage = .edgeIngress || y.stage = .pageBuffer) && decide (y.ready ≤ s.clk.now) then
          s.t1Take { y with stage := .edgeIngress } (t1Stack raw)
        else s
      | _ => s
    | none => s)

/-! ### T1_SLOT -/

/-- An earlier request to the same line is under way (R212, R253, R260). -/
def State.lineBusy (s : State) (x : Xact) : Bool :=
  s.flight.any (fun y => y.id ≠ x.id && y.half = .request && y.loc.unit = x.loc.unit && y.tn = x.tn &&
    (y.stage = .controller || y.stage = .outstanding || y.stage = .decoder) &&
    (decide (y.since < x.since) || (y.since = x.since && decide (y.id < x.id))) && (isWr y.kind || isWr x.kind))

/-- A dynamic request of a pseudo-channel that may use a slot now, but for its row. -/
def State.t1Ready (s : State) (k c half : Nat) (x : Xact) : Bool :=
  x.stage = .controller && x.half = .request && x.loc.unit = uT1 k && x.place.pc = 2 * c + half && decide (x.ready ≤ s.clk.now) &&
  !s.lineBusy x && !s.tierHold x && !(isWr x.kind && s.behind x) && (!s.throttled 2 || x.expired.isSome)

/-- The order of a channel's dynamic requests (R66, R109): observation writes last. -/
def State.t1Order (s : State) (k c : Nat) (x : Xact) : List Nat :=
  b2n (x.purpose = .observe) :: s.order x (s.bestEffort (0x900 + 32 * k + c) x.qos) 0

/-- A request of which the next transfer is a write: a whole line, or one whose line has been merged (R256). -/
def Xact.writes (x : Xact) (coded : Bool) : Bool := isWr x.kind && !coded && ((x.kind = .write && x.mask = fullMask) || x.dir = 1)

/-- Starts the transfer of a request in this slot (R94, R256, R277, R330): a read goes out to the stack, a write is stored. -/
def State.t1Transfer (s : State) (x : Xact) (k : Nat) : State :=
  let p := x.place
  let c := p.pc / 2
  let half := p.pc % 2
  let n := x.tn
  let r := 0x900 + 32 * k + c
  let be := s.bestEffort r x.qos
  let key := bankKey k p.pc p.bank
  let s := s.setT1Bank key { s.t1Bank key with hit := s.clk.now }
  let s := ((s.account r x.qos 64 x.sched).countGrant (uT1 k) x be).pev 7 1
  let coded := s.strength 1 (64 * n) ≠ 0
  if x.inp = 1 ∧ coded ∧ isWr x.kind then
    let s := (s.cadd 0x6300 (8 * k + 1) 1).t1Cmd k c (cmdWord 3 half p.bank p.row p.col)
    match s.seqOn k (n / 64) with
    | some q => ((s.setSeq { q with lines := Tbl.insert q.lines (n % 64) x.data }).tierForward x x.data).tierData x (uT1 k) 0 false 3
    | none => s
  else if x.writes coded then
    let new := if x.dir = 1 then x.data else mergeLine (s.tline 1 n) x.data x.mask
    let s := (s.cadd 0x6300 (8 * k + 1) 1).t1Cmd k c (cmdWord 3 half p.bank p.row p.col)
    let s := s.setTline 1 n new
    if x.purpose = .pageOp then s.dropX x.id
    else (s.tierForward x new).tierData x (uT1 k) 0 false (s.t1T 6 + 3)
  else
    ((s.cadd 0x6300 (8 * k) 1).t1Cmd k c (cmdWord 2 half p.bank p.row p.col)).setX
      { x with stage := .outstanding, unit := uT1 k, ready := s.clk.now + s.t1T 6, inp := 0 }

/-- A refresh of a bank: its row closes (R95, R254). -/
def State.t1Refresh (s : State) (k c half bank : Nat) : State :=
  let key := bankKey k (2 * c + half) bank
  (s.setT1Bank key { s.t1Bank key with row := none, owed := 0 }).t1Cmd k c (cmdWord 6 half bank 0 0)

/-- The banks of a pseudo-channel whose refresh is forced (R254). -/
def State.t1Forced (s : State) (k c half : Nat) : Option Nat :=
  (List.range 16).find? (fun b => let o := (s.t1Bank (bankKey k (2 * c + half) b)).owed; o ≠ 0 && decide (s.t1T 9 ≤ o))

/-- Number of REF entries of the channel before entry i on its pseudo-channel. -/
def State.refBefore (s : State) (k c i : Nat) : Nat :=
  ((listed s.mgmt.active 0x2500).filter (fun e => e.1 / 1024 = 32 * k + c && fld e.2 15 14 = 2 && e.1 % 1024 % 2 = i % 2 &&
    e.1 % 1024 < i)).length

/-- Staged SCHED requests of a pseudo-channel whose slot has come. -/
def State.t1Due (s : State) (k c half : Nat) : Option Xact :=
  s.flight.find? (fun x => x.stage = .schedStaging && x.half = .request && x.loc.unit = uT1 k && x.place.pc = 2 * c + half &&
    decide (x.dest ≤ s.clk.now))

/-- A staged request misses its slot for a cause and goes on as an expired dynamic request (R99, R253, R254). -/
def State.t1Miss (s : State) (x : Xact) (k cause : Nat) : State :=
  let c := x.place.pc / 2
  (s.slotMiss (256 + 32 * k + c) cause (s.clk.now - x.dest) (0x900 + 32 * k + c) x.core.1 x.core.2 x.flow.toNat x.layer.toNat
    x.operator.toNat).setX { x.missed s.clk.now s.clk.count0 with stage := .controller, since := s.clk.now, ready := s.clk.now }

/-- The row of a staged request can be open in its slot: it is open, or its bank's last ACT and its pseudo-channel leave room
for an ACT element 0 before the slot (R251, R252). -/
def State.t1RowOk (s : State) (k : Nat) (p : T1Place) : Bool :=
  let b := s.t1Bank (bankKey k p.pc p.bank)
  b.row = some p.row || b.act = 0 || decide (b.act + s.t1T 3 ≤ s.clk.now - s.t1T 0)

/-- Opens a row, its ACT in cycle t. -/
def State.t1Act (s : State) (k : Nat) (p : T1Place) (t : Nat) : State :=
  let key := bankKey k p.pc p.bank
  (s.setT1Bank key { s.t1Bank key with row := some p.row, act := t, hit := s.clk.now }).t1Cmd k (p.pc / 2)
    (cmdWord 1 (p.pc % 2) p.bank p.row 0)

/-- The next slot of a finished sequence fills parity and tag: the second of the two stores the page (R258). -/
def State.seqFill (s : State) (k c half flow : Nat) : State :=
  match s.tiers.seqs.find? (fun q => q.unit = k && q.flow.toNat = flow && 62 ≤ q.lines.length &&
      (let p := t1Hash (q.page * 4096 + 64 * q.lines.length); p.pc = 2 * c + half)) with
  | none => s
  | some q =>
    let s := s.cadd 0x6300 (8 * k + 1) 1
    if q.lines.length = 62 then s.setSeq { q with lines := Tbl.insert q.lines 62 0 }
    else
      let s := s.storePage 1 q.page (fun j => Tbl.get q.lines 0 j) 0
      { s with tiers := { s.tiers with seqs := s.tiers.seqs.filter (fun r => r ≠ q) } }

/-- A dynamic request uses the slot: a transfer of an open row, else a row is opened for the first one waiting (R252). -/
def State.t1Dynamic (s : State) (k c half : Nat) : State :=
  let now := s.clk.now
  let xs := s.flight.filter (s.t1Ready k c half)
  let bank := fun (x : Xact) => s.t1Bank (bankKey k x.place.pc x.place.bank)
  let open_ := xs.filter (fun x => (bank x).row = some x.place.row && decide ((bank x).act + s.t1T 0 ≤ now))
  match firstBy (s.t1Order k c) open_ with
  | some x => s.t1Transfer x k
  | none =>
    let wants := xs.filter (fun x => (bank x).row ≠ some x.place.row &&
      !xs.any (fun y => y.place.bank = x.place.bank && (bank y).row = some y.place.row) &&
      ((bank x).act = 0 || decide ((bank x).act + s.t1T 3 ≤ now + (if (bank x).row.isSome then s.t1T 1 else 0))) &&
      ((bank x).row.isNone || decide ((bank x).act + s.t1T 2 ≤ now)))
    match firstBy (s.t1Order k c) wants with
    | some x =>
      let t := now + (if (bank x).row.isSome then s.t1T 1 else 0)
      if s.actOk k x.place.pc t then s.t1Act k x.place t else s
    | none => s

/-- A slot boundary of a channel wheel (R94, R95, R251 to R254, R258). -/
def State.t1Slot (s : State) (k c i : Nat) : State :=
  let half := i % 2
  match s.t1Forced k c half with
  | some b =>
    let s := match s.t1Due k c half with
      | some x => s.t1Miss x k 5
      | none => s
    (s.t1Refresh k c half b).cadd 0x6300 (8 * k + 6) 1
  | none =>
    if s.t1Kind k c i = 2 ∧ 2 * s.refBefore k c i < s.pv 0x2400 0 then s.t1Refresh k c half (s.refBefore k c i % 16)
    else match s.t1Due k c half with
      | some x =>
        if isWr x.kind && s.power.hold then s.t1Miss x k 11
        else if s.t1Kind k c i ≠ 1 ∨ fld (s.t1Entry k c i) 11 0 ≠ x.flow.toNat then s.t1Dynamic k c half
        else if s.t1RowOk k x.place then
          let b := s.t1Bank (bankKey k x.place.pc x.place.bank)
          let s := if b.row = some x.place.row then s else s.t1Act k x.place (s.clk.now - s.t1T 0)
          s.t1Transfer x k
        else s.t1Miss x k 6
      | none =>
        if s.t1Kind k c i = 1 then
          let f := fld (s.t1Entry k c i) 11 0
          let t := s.seqFill k c half f
          if t = s then s.t1Dynamic k c half else t
        else s.t1Dynamic k c half

/-- A tier-1 channel wheel reaches a slot boundary (R94). -/
def execT1Slot (k : StackId) (c : T1ChId) (s : State) : Host.Outcome State Fault Refusal :=
  .next (match s.t1SlotNow with
    | some i => if s.clk.rootOn && s.tiers.ready.contains k.val && !s.t1Failed k.val c.val then s.t1Slot k.val c.val i else s
    | none => s)

/-- A bank's refresh has been postponed to its limit: it is forced into the next slot of its pseudo-channel (R254). -/
def execT1RefreshForced (k : StackId) (c : T1ChId) (half : Fin 2) (bank : Fin 16) (s : State) : Host.Outcome State Fault Refusal :=
  .next (
    let key := bankKey k.val (2 * c.val + half.val) bank.val
    if s.clk.rootOn && s.tiers.ready.contains k.val then s.setT1Bank key { s.t1Bank key with owed := max 1 (s.t1T 9) } else s)

/-- An open row had no hit for 64 cycles and is precharged (R252). -/
def execT1RowIdlePrecharge (k : StackId) (c : T1ChId) (half : Fin 2) (bank : Fin 16) (s : State) :
    Host.Outcome State Fault Refusal :=
  .next (
    let key := bankKey k.val (2 * c.val + half.val) bank.val
    let b := s.t1Bank key
    if s.clk.rootOn && b.row.isSome && decide (b.hit + 64 ≤ s.clk.now) && decide (b.act + s.t1T 2 ≤ s.clk.now) then
      (s.setT1Bank key { b with row := none }).t1Cmd k.val c.val (cmdWord 4 half.val bank.val 0 0)
    else s)

/-! ### Data from the PHY -/

/-- The read of a pseudo-channel that its data answers: the oldest. -/
def State.t1Oldest (s : State) (k c half : Nat) : Option Xact :=
  (s.flight.filter (fun x => x.stage = .outstanding && x.half = .request && x.loc.unit = uT1 k && x.place.pc = 2 * c + half)).foldl
    (fun a x => match a with
      | some y => if x.ready < y.ready then some x else some y
      | none => some x) none

/-- A clean line has come for a request (R256, R257, R260): a read is answered, a partial write or atomic is merged, in a coded region with the line
that its page buffer has come to hold (R190). -/
def State.t1Line (s : State) (x : Xact) (k : Nat) (l : Line) : State :=
  let n := x.tn
  let coded := s.strength 1 (64 * n) ≠ 0
  let bad := s.linePoison 1 n
  if !isWr x.kind then s.tierData x (uT1 k) l bad 3
  else if coded then
    match s.bufOf k (n / 64) with
    | some b => s.bufMerge b x k l (if x.kind = .atomic then 7 else 3)
    | none => s.setX { x with stage := .edgeIngress, ready := s.clk.now }
  else if x.kind = .atomic then
    let new := applyTo x l
    let w : Xact := { kind := .write, mask := fullMask, data := new, ga := x.ga, loc := x.loc, srcUnit := uT1 k, unit := uT1 k, qos := x.qos,
                      deadline := x.deadline, stage := .controller, ready := s.clk.now, since := x.since, born := x.born, grp := s.nextId,
                      purpose := .pageOp, dir := 1 }
    ((s.addX w).tierForward x new).tierData x (uT1 k) l false 7
  else s.setX { x with stage := .controller, ready := s.clk.now, data := applyTo x l, dir := 1 }

/-- The line that a close is reading on a pseudo-channel (R257 step 4): the first line of a closing page that its buffer does not hold. -/
def State.closeRead (s : State) (k c half : Nat) : Option (Nat × Nat) :=
  (s.bufsOf k).findSome? (fun b =>
    if b.closing && b.dirty ≠ dataMask && !s.decoding k b.page then
      ((List.range 62).find? (fun j => !b.have_.getLsbD j && (t1Hash (4096 * b.page + 64 * j)).pc = 2 * c + half)).map (fun j => (b.page, j))
    else none)

/-- A line that a close reads comes flagged: its page is decoded, for no requester (R257 step 5, R289). -/
def State.t1CloseFlag (s : State) (k c half : Nat) (ecc : BitVec 4) (raw : Line) : State :=
  match s.closeRead k c half with
  | none => s
  | some x =>
    if s.quench.st = 2 || !s.clk.rootOn || !s.decRoom k || !(2 ≤ fld ecc.toNat 1 0 || 2 ≤ fld ecc.toNat 3 2) then s
    else match s.inputGate 1 (32 * k + c) half (natBytes 64 raw.toNat) with
      | none => s
      | some s => (s.cadd 0x6300 (8 * k + 5) 1).decStart k x.1 none x.2 raw

/-- Read data with its on-die ECC indication (R249, R253, R256, R289, R348). A line comes as the stack stores it unless its
indication is uncorrectable. While quenched it lands, with its indication (R412). -/
def execT1ReadData (k : StackId) (c : T1ChId) (half : Fin 2) (ecc : BitVec 4) (raw : Line) (s : State) :
    Host.Outcome State Fault Refusal :=
  .next (match s.t1Oldest k.val c.val half.val with
    | none => s.t1CloseFlag k.val c.val half.val ecc raw
    | some x =>
      if s.quench.st = 2 then s.setX { x with stage := .landed, half := .answer, data := raw, inp := ecc.toNat }
      else if !s.clk.rootOn || s.clk.now < x.ready then s
      else
        let n := x.tn
        let lo := fld ecc.toNat 1 0
        let hi := fld ecc.toNat 3 2
        let bad := 2 ≤ lo || 2 ≤ hi
        let l := if bad then raw else s.tline 1 n
        let st := s.strength 1 (64 * n)
        match s.inputGate 1 (32 * k.val + c.val) half.val (natBytes 64 l.toNat) with
        | none => s
        | some s =>
        let s := if lo = 1 || hi = 1 then
            (s.cadd 0x6300 (8 * k.val + 4) 1).integrity (tierEvent 0x46 k.val 0 (b2n (lo = 1) + b2n (hi = 1)) st (64 * n) (some x))
          else s
        if !bad then s.t1Line x k.val l
        else
          let s := s.cadd 0x6300 (8 * k.val + 5) 1
          if st = 0 then
            (s.integrity (tierEvent 0x43 k.val 0 0 st (64 * n) (some x))).tierData x (uT1 k.val) 0 true 3
          else
            let s := if x.sched then s.slotMiss (256 + 32 * k.val + c.val) 4 0 (0x900 + 32 * k.val + c.val) x.core.1 x.core.2
                x.flow.toNat x.layer.toNat x.operator.toNat else s
            let x := if x.sched then x.missed s.clk.now s.clk.count0 else x
            if s.decoding k.val (n / 64) || !s.decRoom k.val then s.setX { x with stage := .controller, ready := s.clk.now }
            else (s.decStart k.val (n / 64) (some x.id) (n % 64) raw).setX { x with stage := .decoder, data := x.data })

/-- A walker's decode would change the page (R294). -/
def State.decChanges (s : State) (d : DecJob) : Bool :=
  match pageDecode (s.strength (tierOf d.unit) (4096 * d.page)) (s.decPage d) ((List.range 64).filter (fun j => d.flagged.getLsbD j)) with
  | some pg => pg ≠ s.decPage d
  | none => false

/-- The request that a decode ran for is answered from the corrected page, or as uncorrectable (R289, R290). -/
def State.decAnswer (s : State) (u : Nat) (x : Xact) (o : Option Nat) : State :=
  match o with
  | some pg =>
    let l := pageLine pg (x.tn % 64)
    if !isWr x.kind then s.tierData x (bufUnit u) l false 3
    else match s.bufOf u (x.tn / 64) with
      | some b => s.bufMerge b x u l 3
      | none => s.tierData x (bufUnit u) 0 true 3
  | none => s.tierData x (bufUnit u) 0 true 3

/-- The buffer a walker's correction goes into, where the decode changes the page (R294): the state, and whether there was room. -/
def State.decBuffer (s : State) (d : DecJob) (changes : Bool) : State × Bool :=
  if d.walker && changes then s.bufGet d.unit d.page else (s, true)

/-- The request of an ended decode is answered. -/
def State.decServe (s : State) (u : Nat) (d : DecJob) (o : Option Nat) : State :=
  match d.req.bind s.xact with
  | none => s
  | some x => s.decAnswer u x o

/-- A decode ends where there is room for its correction. -/
def State.decRun (s : State) (u : Nat) (d : DecJob) (room : Bool) : State :=
  if room then (s.decEnd d).1.decServe u d (s.decEnd d).2 else s

/-- An outer decode ends: the corrected line is returned, or poison (R290, R291). A walker's decode that corrects takes a page buffer then
(R294). -/
def execOuterDecodeDone (u : Fin 12) (s : State) : Host.Outcome State Fault Refusal :=
  .next (match s.tiers.decs.find? (fun d => d.unit = u.val) with
    | none => s
    | some d =>
      if !s.clk.rootOn || s.clk.now < d.due then s
      else
        let g := s.decBuffer d (s.decChanges d)
        g.1.decRun u.val d g.2)

/-- The request whose command an error report names: the one presented a report latency earlier (R249, R251). -/
def State.parityNamed (s : State) (k c : Nat) : Option Xact :=
  s.flight.find? (fun x => x.loc.unit = uT1 k && x.place.pc / 2 = c && (
    (isWr x.kind && x.half = Half.answer && x.since + s.t1T 8 = s.clk.now) ||
    (x.stage = .outstanding && x.half = Half.request && x.ready + s.t1T 8 = s.clk.now + s.t1T 6)))

/-- A faulty WR is issued again as a dynamic write of the same data; a faulty ACT, RD or PRE leads to a precharge and a repeat;
a SCHED access misses its slot (R253). -/
def State.parityRepeat (s : State) (x : Xact) (k c : Nat) : State :=
  let pc := x.place.pc
  let bk := bankKey k pc x.place.bank
  let e := 256 + 32 * k + c
  let wr := x.half = Half.answer
  let s := if wr then s
    else (s.setT1Bank bk { s.t1Bank bk with row := none }).t1Cmd k c (cmdWord 4 (pc % 2) x.place.bank 0 0)
  let s := if x.sched then s.slotMiss e 6 0 (0x800 + e) x.core.1 x.core.2 x.flow.toNat x.layer.toNat x.operator.toNat else s
  let y : Xact := if wr then { x with data := s.tline 1 x.tn, dir := 1, half := Half.request } else x
  let y := if y.sched then y.missed s.clk.now s.clk.count0 else y
  s.setX { y with stage := .controller, ready := s.clk.now, unit := uT1 k }

/-- Four T1_LINK_ERR of one channel within 1 ms fail it (R253, R261). Times are timestamps. -/
def State.linkErr (s : State) (k c : Nat) : State :=
  let key := 32 * k + c
  let ts := s.clk.ts.toNat
  let errs := (Tbl.get s.tiers.linkErrs [] key).filter (fun t => decide (ts - t < msNs)) ++ [ts]
  let s := { s with tiers := { s.tiers with linkErrs := Tbl.set s.tiers.linkErrs [] key errs } }
  if 4 ≤ errs.length then s.failChannel k c else s

/-- hp_par_err_i reports an error of the command presented a report latency earlier (R253). -/
def execT1ParityErr (k : StackId) (c : T1ChId) (bits : BitVec 2) (s : State) : Host.Outcome State Fault Refusal :=
  .next (
    if !s.clk.rootOn || bits = 0 || !s.tiers.ready.contains k.val || s.t1Failed k.val c.val then s
    else
      let r := genRec { code := 0x45, unit := uT1 k.val, obj := c.val, aux := bits.toNat } s.clk.ts
      let s := (s.cadd 0x6300 (8 * k.val + 7) 1).faultAt (uT1 k.val) r
      let s := match s.parityNamed k.val c.val with
        | some x => s.parityRepeat x k.val c.val
        | none => s
      s.linkErr k.val c.val)

/-- hp_cattrip_i rises: every channel of the stack fails (R261). -/
def execT1Cattrip (k : StackId) (s : State) : Host.Outcome State Fault Refusal :=
  .next (if s.clk.rootOn && s.tiers.ready.contains k.val then (List.range 32).foldl (fun s c => s.failChannel k.val c) s else s)

/-- Every second a T1C reads the ECS results of a channel by MRR (R255). -/
def execT1EcsRead (k : StackId) (c : T1ChId) (s : State) : Host.Outcome State Fault Refusal :=
  .next (
    if s.clk.rootOn && s.tiers.ready.contains k.val && !s.t1Failed k.val c.val then s.t1Cmd k.val c.val (cmdWord 9 0 0 0 0) else s)

/-- Mode-register read data: an increase of the ECS count is logged with the row named, and a refresh requirement above the
committed entries loses capacity (R113, R254, R255). -/
def execT1MrrData (k : StackId) (c : T1ChId) (count : BitVec 16) (row : BitVec 16) (refSlots : Nat) (s : State) :
    Host.Outcome State Fault Refusal :=
  .next (
    if !s.clk.rootOn || !s.tiers.ready.contains k.val then s
    else
      let key := 32 * k.val + c.val
      let old := Tbl.get s.tiers.ecs 0 key
      let s := { s with tiers := { s.tiers with ecs := Tbl.set s.tiers.ecs 0 key count.toNat } }
      let s := if old < count.toNat then
          s.integrity { code := 0x46, kind := 5, det := 2, gmask := sat 255 (count.toNat - old), unit := uT1 k.val,
                        loc := row.toNat * 1024 + c.val * 2^26 }
        else s
      let need := 2 * ceilDiv refSlots 2
      if need ≤ s.pv 0x2400 0 then s
      else
        let olds := (List.range 256).map (fun w => s.netNow (0x900 + w))
        let s := s.setPv 0x2400 0 need
        (olds.zipIdx).foldl (fun s e =>
          if t1Count s.mgmt.active e.2 2 < need then s.capacityLoss (uT1 (e.2 / 32)) (0x900 + e.2) e.1 4 else s) s)

/-! ### EPOCH_START -/

/-- The resource and the counting element where a SCHED transaction stood when its position was dropped (R101, R115): the group of its Hive, or the
router and the direction of its output. -/
def Xact.droppedAt (x : Xact) : Nat × Nat :=
  if x.stage = .arbiter then (prioEntry x.loc, x.loc.unit) else (0x100 + 8 * x.unit + (if x.stage = .link then x.dir else 5), x.unit)

/-- An epoch that starts in cycle `p` cuts the running one short (R87): the SCHED transactions whose positions it drops miss them, with cause 9 (R99,
R100). One that stands before a link of the mesh misses there (DESIGN CHOICE, log entry 87). -/
def State.epochShort (s : State) (p : Nat) : State :=
  if !s.sched.running || s.epochEndOf s.sched.start ≤ p then s
  else
    s.flight.foldl (fun s x =>
      if !x.sched then s
      else if x.stage = .schedStaging && decide (p ≤ x.dest) then s.t1Miss x (x.loc.unit - 256) 9
      else if (x.stage = .arbiter && decide (p ≤ x.ready)) || x.stage = .meshIf || x.stage = .link then
        (s.slotMiss x.droppedAt.2 9 0 x.droppedAt.1 x.core.1 x.core.2 (if x.stage = .arbiter then x.port else x.flow.toNat) x.layer.toNat
          x.operator.toNat).setX (x.missed s.clk.now s.clk.count0)
      else s) s

/-- An epoch starts: position 0 falls on its start cycle and every value that waits for an epoch start applies (R86 to R88,
R113, R370, R371). -/
def execEpochStart (s : State) : Host.Outcome State Fault Refusal :=
  .next (match s.sched.pendStart with
    | [] => s
    | p :: rest =>
      if !s.clk.rootOn || s.clk.now < p then s
      else
        let s := s.epochShort p
        let s := { s with
          sched := { s.sched with running := true, epoch := s.sched.epoch + 1, start := p, pendStart := rest, mismatch := [] }
          clk := { s.clk with lag16 := 0 }
          power := { s.power with epochAt := s.clk.hnow } }
        let s := if s.determ then s.reducedNow else s
        match s.power.capPend with
        | some c => if s.determ then { s with power := { s.power with capNow := c, capPend := none } } else s
        | none => s)

/-! ### Page buffers and regions -/

/-- A page buffer has had no write for 512 cycles and starts closing (R257). -/
def execPageBufferIdleClose (u : Fin 12) (page : Nat) (s : State) : Host.Outcome State Fault Refusal :=
  .next (match s.bufOf u.val page with
    | some b =>
      if s.clk.rootOn && !b.closing && !s.decoding u.val page && decide (b.last + 512 ≤ s.clk.now) then s.setBuf { b with closing := true } else s
    | none => s)

/-- A write of OUTER_REGION is accepted or refused; if it changes a region, its granules' contents are initialised anew in tier
1, and a cartridge's loaded serial is cleared in tier 2 (R240, R241, R259, R309). True when accepted. -/
def State.outerRegion (s : State) (e : Nat) (v : Dword) : State × Bool :=
  let n := v.toNat
  let st := fld n 34 32
  let count := fld n 31 16
  let base := fld n 15 0
  let tier := 1 + e / 32
  let top := if tier = 1 then 8192 else 24576
  let range := fun (w : Nat) => (fld w 15 0, fld w 15 0 + fld w 31 16)
  let clash := (List.range 32).any (fun i =>
    let j := 32 * (tier - 1) + i
    let r := range (s.pv 0x1100 j)
    j ≠ e && count ≠ 0 && r.1 ≠ r.2 && decide (r.1 < base + count) && decide (base < r.2))
  if !s.noHiveLive || 4 < st || top < base + count || clash || (tier = 2 && count ≠ 0 && base / 6144 ≠ (base + count - 1) / 6144) then (s, false)
  else
    let old := s.pv 0x1100 e
    let s := s.setPv 0x1100 e (pack [(34, 32, st), (31, 16, count), (15, 0, base)])
    if old = s.pv 0x1100 e then (s, true)
    else
      let o := range old
      let lines := granBytes / 64
      let hit := fun (k : Nat) => let g := k / lines; (decide (o.1 ≤ g) && decide (g < o.2)) || (decide (base ≤ g) && decide (g < base + count))
      let s := if tier = 1 then { s with mem := { s.mem with t1 := s.mem.t1.filter (fun x => !hit x.1) } }
        else
          let s := { s with mem := { s.mem with t2 := s.mem.t2.filter (fun x => !hit x.1) } }
          (List.range 4).foldl (fun s k => if (o.1 < o.2 && o.1 / 6144 = k) || (0 < count && base / 6144 = k) then s.setPv 0x1142 k 0 else s) s
      (s.genUp, true)

/-- A write of OUTER_REGION. -/
def execOuterRegionWrite (e : Fin 64) (v : Dword) (s : State) : Host.Outcome State Fault Refusal :=
  .next (if s.mgmt.por then s else (s.outerRegion e.val v).1)

end Sys2Proof.Machine
end

