-- ==== Sys2Proof/Machine/Tier2.lean ====
section
/-!
DEFINITION. Tier2.lean: Table Cartridges (R268 to R273), requests at a T2Q and its CXL link (R264 to R267, R269), heat and
placement (R274 to R276), page-buffer closes and the edge commands FLUSH, PERSIST and MSYNC (R119, R257, R267).
-/
namespace Sys2Proof.Machine

/-! ### Cartridges -/

/-- A free value: one the spec leaves open, drawn under the next number. -/
def State.draw (s : State) : Nat × State := (Config.freeNat s.free, { s with free := s.free + 1 })

/-- The state code of a cartridge (R269). -/
def cartCode : CartSt → Nat
  | .absent => 0
  | .attaching => 1
  | .untrusted => 2
  | .trusted => 3
  | .detaching => 4
  | .detached => 5
  | .failed => 6

/-- CART_STATE as read (R269). -/
def State.cartState (s : State) (k : Nat) : Nat := cartCode (s.cart k).st * 256

/-- Bits of a Placement Table entry (R274). -/
def plHeat (e : Dword) : Nat := fld e.toNat 63 56
def plProm (e : Dword) : Bool := bit e.toNat 39
def plDirty (e : Dword) : Bool := bit e.toNat 38
def plBusy (e : Dword) : Bool := bit e.toNat 37
def plSlot (e : Dword) : Nat := fld e.toNat 21 0

/-- The Placement Table entry of a block. -/
def State.placeEnt (s : State) (k b : Nat) : Dword := Tbl.get (s.cart k).place 0 b

/-- Stores an entry. -/
def State.setPlace (s : State) (k b : Nat) (e : Dword) : State :=
  let c := s.cart k
  s.setCart k { c with place := Tbl.set c.place 0 b e }

/-- Dirty promoted blocks of a cartridge. -/
def State.dirtyBlocks (s : State) (k : Nat) : Nat := ((s.cart k).place.filter (fun e => plProm e.2 && plDirty e.2)).length

/-- Stranded blocks: dirty promoted blocks after CART_LIFE_END (R272, R276). -/
def State.stranded (s : State) (k : Nat) : Nat := if (s.cart k).ended then s.dirtyBlocks k else 0

/-- The notice of CART_STATE (R434). -/
def State.cartNotice (s : State) (k : Nat) : State :=
  s.notice 0x1143 k (natBytes 2 (s.cartState k) ++ natBytes 4 (s.stranded k))

/-- Enters a state. -/
def State.cartEnter (s : State) (k : Nat) (st : CartSt) : State := (s.setCart k { s.cart k with st := st }).cartNotice k

/-- A record of a T2Q about its cartridge: in its fault register and the chip error table. -/
def State.cartErr (s : State) (k code aux count ga : Nat) : State :=
  s.faultAt (uT2 k) (genRec { code := code, unit := uT2 k, obj := k, aux := aux, count := count, ga := ga } s.clk.ts)

/-! ### The ledger (R270) -/

/-- Offset, within tier 2, past the last byte of a cartridge's populated data space. -/
def State.cartTop (s : State) (k : Nat) : Nat :=
  let r := s.regionAt 2 ((k + 1) * cartBytes - 64)
  if r.1 = 0 then (k + 1) * cartBytes else r.2.1 + 62 * (r.2.2 / 4096) * 64

/-- Stored line i of the ledger block. -/
def State.ledgerLine (s : State) (k i : Nat) : Nat :=
  match s.rawOf 2 (s.cartTop k - 65536 + 64 * i) with
  | some r => r / 64
  | none => 0

/-- The life fraction's conditions: f reaches 0.80, f reaches 1.00, the two measures differ by more than 5 (R270). A budget of
0 leaves Life Used alone. -/
def Cart.life (c : Cart) : Bool × Bool × Bool :=
  let b := c.budget.toNat
  let l := c.ledger.toNat
  let u := c.lifeUsed.toNat
  (80 ≤ u || (b ≠ 0 && decide (80 * b ≤ 100 * l)), 100 ≤ u || (b ≠ 0 && decide (b ≤ l)),
   b ≠ 0 && decide (5 * b < (100 * l - u * b) + (u * b - 100 * l)))

/-- Firmware acts on the life fraction (R270, R434). -/
def State.lifeCheck (s : State) (k : Nat) : State :=
  let c := s.cart k
  let f := c.life
  let s := if f.1 && !c.warned then
      ((s.setCart k { c with warned := true }).cartErr k 0x62 c.lifeUsed.toNat 0 c.ledger.toNat).cartNotice k
    else s
  let c := s.cart k
  let s := if f.2.1 && !c.ended then
      let s := s.setCart k { c with ended := true }
      (s.cartErr k 0x60 c.lifeUsed.toNat (s.stranded k) c.ledger.toNat).cartNotice k
    else s
  let c := s.cart k
  if f.2.2 && !c.diverged then (s.setCart k { c with diverged := true }).cartErr k 0x63 c.lifeUsed.toNat 0 c.ledger.toNat else s

/-- The 64 B of a ledger record (R270). -/
def ledgerRec (serial ledger seq : Nat) : Line :=
  let b := natBytes 8 serial ++ natBytes 8 ledger ++ natBytes 8 seq ++ List.replicate 36 0
  BitVec.ofNat 512 (bytesNat b + (crc32 b).toNat * 2^480)

/-- Writes the next ledger record, alternately to lines 0 and 1 (R270). -/
def State.ledgerWrite (s : State) (k : Nat) : State :=
  let i := (s.cart k).recSeq.toNat % 2
  let n := s.ledgerLine k i
  let s := s.memWr k (if s.strength 2 (64 * n) = 0 then 1 else 3)
  let c := s.cart k
  let q := c.recSeq + 1
  (s.setCart k { c with recSeq := q, recAt := c.ledger }).tierWrite 2 n fullMask (ledgerRec c.serial.toNat c.ledger.toNat q.toNat)

/-- Writes a record each time the ledger has grown by 1 GiB, and acts on the life fraction (R270). -/
def State.ledgerTick (s : State) (k : Nat) : State :=
  let c := s.cart k
  (if c.recAt.toNat + 2^30 ≤ c.ledger.toNat then s.ledgerWrite k else s).lifeCheck k

/-! ### Heat (R275) -/

/-- An entry's heat decayed to an epoch, its stamp set. -/
def plDecay (e : Dword) (epoch : Nat) : Dword :=
  let n := (epoch % 65536 + 65536 - fld e.toNat 55 40) % 65536
  BitVec.ofNat 64 (setFld (setFld e.toNat 63 56 (plHeat e / 2^(min 8 n))) 55 40 (epoch % 65536))

/-- One line access: decay, then one more. -/
def plTouch (e : Dword) (epoch : Nat) : Dword :=
  let d := plDecay e epoch
  BitVec.ofNat 64 (setFld d.toNat 63 56 (sat 255 (plHeat d + 1)))

/-- An access updates its block's heat and may post it as a candidate (R275). -/
def State.heatUp (s : State) (k b : Nat) : State :=
  let c := s.cart k
  let e := plTouch (s.placeEnt k b) c.decay
  let s := s.setPlace k b e
  let c := s.cart k
  if plHeat e < s.pv 0x1151 0 || plProm e || plBusy e || c.cands.contains b then s
  else if 64 ≤ c.cands.length then (s.setCart k { c with dropped := c.dropped + 1 }).cadd 0x6310 (8 * k + 6) 1
  else s.setCart k { c with cands := c.cands ++ [b] }

/-! ### Requests at a T2Q -/

/-- The block of a tier-2 address within its cartridge (R274). -/
def Xact.block (x : Xact) : Nat := (x.ga.toNat - t2Base) / 65536 % 6291456

/-- A transaction of an edge unit enters the mesh at its attachment router (R12). -/
def State.edgeSend (s : State) (x : Xact) : State :=
  let r := srcRouter x.srcUnit x.loc.unit
  s.addX { x with stage := .link, unit := r, dir := 7, inp := 5, mesh := true, dest := x.loc.unit, since := s.clk.now,
                  ready := s.clk.now + 1, born := s.clk.now, grp := s.nextId }

/-- GA of the Placement Table of cartridge k: the k-th reserved extent of kind 2 (R274, R308). -/
def State.placeGa (s : State) (k : Nat) : Option Nat := ((s.err.extents.filter (fun e => e.kind = 2)).map (fun e => e.base))[k]?

/-- Groups of entries a T2Q caches (R274). -/
def plGroups : Nat := 512

/-- A group of eight entries has been used or read: it is cached, the least recently used one going out (R274). -/
def State.plCache (s : State) (k g : Nat) : State :=
  let c := s.cart k
  let l := without c.cached g ++ [g]
  s.setCart k { c with cached := l.drop (l.length - plGroups) }

/-- The place of a promoted line in tier 1 (R276). -/
def State.promoGa (s : State) (slot ga : Nat) : Nat := s.pv 0x1153 0 + 65536 * slot + ga % 65536

/-- Requests a T2Q holds for a moving block (R276); `inp` 9 marks them, 8 those that wait for an entry, 7 those served in tier 1. -/
def State.t2Held (s : State) (k : Nat) : Nat :=
  (s.flight.filter (fun x => x.loc.unit = uT2 k && x.stage = .controller && x.inp = 9)).length

/-- Tags a T2Q has outstanding (R266). -/
def State.t2Tags (s : State) (k : Nat) : List Nat :=
  (s.flight.filter (fun x => x.stage = .outstanding && x.half = .request && x.loc.unit = uT2 k)).map (fun x => x.dest)

/-- The lowest free tag (R265, R266). -/
def State.t2Free (s : State) (k : Nat) : Option Nat :=
  let l := s.t2Tags k
  if 1024 ≤ l.length then none else (List.range (l.length + 1)).find? (fun t => !l.contains t)

/-- The next transfer of a request is a MemWr: a whole line, or one that has been merged (R256, R265). -/
def Xact.memWrNext (x : Xact) (coded : Bool) : Bool := isWr x.kind && (x.purpose = .pageOp || (!coded && (x.mask = fullMask || x.dir = 1)))

/-- A request that waits in the controller goes out on the CXL link, one per line and tag (R109, R111, R265, R266, R377). -/
def State.t2Issue (s : State) (x : Xact) (k : Nat) : State :=
  let held := x.purpose ≠ .pageOp && s.tierHold x
  if x.stage ≠ .controller || 7 ≤ x.inp || s.lineBusy x || held || (isWr x.kind && x.purpose ≠ .pageOp && s.behind x) ||
      (s.throttled 2 && x.expired.isNone) then s
  else match s.t2Free k with
    | none => s
    | some t =>
      let wr := x.memWrNext (s.strength 2 (64 * x.tn) ≠ 0)
      let r := 0xA00 + 2 * k + b2n wr
      let s := ((s.account r x.qos 64 false).countGrant (uT2 k) x (s.bestEffort r x.qos)).pev 8 1
      let s := if wr then (s.memWr k 1).ledgerTick k else s.cadd 0x6310 (8 * k) 1
      s.setX { x with stage := .outstanding, unit := uT2 k, dest := t, since := s.clk.now }

/-- The place of a request of a T2Q among those that wait for its link (R66, R111): be is that of the link's direction. -/
def State.t2Order (s : State) (k : Nat) (x : Xact) : List Nat :=
  s.order x (s.bestEffort (0xA00 + 2 * k + b2n (x.memWrNext (s.strength 2 (64 * x.tn) ≠ 0))) x.qos) 0

/-- Requests that wait in a T2Q's controller go out as their lines and tags come free, in the order of R66. -/
def State.t2Pump (s : State) (k : Nat) : State :=
  let xs := inOrder (s.t2Order k) (s.flight.filter (fun x => x.stage = .controller && x.half = .request && x.loc.unit = uT2 k && x.inp < 7))
  xs.foldl (fun s x => match s.xact x.id with
    | some y => s.t2Issue y k
    | none => s) s

/-- A request that passed state, retirement and placement, served from the cartridge (R266, R289). -/
def State.t2Serve (s : State) (x : Xact) (k : Nat) : State :=
  let n := x.tn
  let u := 8 + k
  let coded := s.strength 2 (64 * n) ≠ 0
  let queue := fun (s : State) =>
    let y : Xact := { x with stage := .controller, unit := uT2 k, since := s.clk.now, ready := s.clk.now, inp := 0, dir := 0 }
    (s.setX y).t2Issue y k
  if s.pageWait u (n / 64) (isWr x.kind) then s.setX { x with stage := .edgeIngress, inp := 6 }
  else if isWr x.kind then
    if coded then
      let s := s.codedWrite { x with inp := 6 } u 7
      match s.xact x.id with
      | some y => if y.stage = .controller then (s.setX { y with inp := 0 }).t2Issue { y with inp := 0 } k else s
      | none => s
    else queue s
  else match (s.bufOf u (n / 64)).bind (fun b => b.line (n % 64)) with
    | some l => s.tierData x (uT2 k) l (s.linePoison 2 n) 11
    | none => queue s

/-- A request to a promoted block goes to its place in tier 1; a write sets dirty (R276). -/
def State.t2Promoted (s : State) (x : Xact) (k : Nat) (e : Dword) : State :=
  let ga := s.promoGa (plSlot e) x.ga.toNat
  let s := if isWr x.kind then s.setPlace k x.block (BitVec.ofNat 64 (setFld e.toNat 38 38 1)) else s
  let s := s.setX { x with stage := .controller, unit := uT2 k, inp := 7, since := s.clk.now }
  s.edgeSend { kind := x.kind, code := x.code, qos := x.qos, ctx := x.ctx, deadline := x.deadline, ga := BitVec.ofNat 48 ga, mask := x.mask,
               data := x.data, srcUnit := uT2 k, srcPort := 15, loc := s.locate ga, layer := x.layer, operator := x.operator, purpose := .promoted x.id }

/-- Placement and heat of a request to a TRUSTED cartridge (R274 to R276). -/
def State.t2Place (s : State) (x : Xact) (k : Nat) : State :=
  let b := x.block
  let e := s.placeEnt k b
  if x.inp < 6 && !(s.cart k).cached.contains (b / 8) && (s.placeGa k).isSome then
    let s := (s.setX { x with stage := .controller, unit := uT2 k, inp := 8, since := s.clk.now }).cadd 0x6310 (8 * k + 7) 1
    let ga := (s.placeGa k).getD 0 + 64 * (b / 8)
    if s.flight.any (fun y => y.purpose = .placement k (b / 8)) then s
    else s.edgeSend { qos := x.qos, deadline := x.deadline, ga := BitVec.ofNat 48 ga, mask := fullMask, srcUnit := uT2 k, srcPort := 15,
                      loc := s.locate ga, purpose := .placement k (b / 8) }
  else
    let s := if x.inp < 6 then (s.plCache k (b / 8)).heatUp k b else s
    if plBusy e then
      if s.t2Held k < 256 then s.setX { x with stage := .controller, unit := uT2 k, inp := 9, since := s.clk.now } else s
    else
      let e := s.placeEnt k b
      if plProm e then s.t2Promoted x k e
      else if isWr x.kind && (s.cart k).ended then s.refuseAt x (uT2 k) 0x60
      else s.t2Serve x k

/-- A request at the ingress of a T2Q: the cartridge's state is judged before anything else (R269, R270, R271). A request that
already passed (`inp` 6 and up) is not judged again. -/
def State.t2Take (s : State) (x : Xact) (k : Nat) : State :=
  let c := s.cart k
  let lifeEnd := c.ended && isWr x.kind
  if 6 ≤ x.inp then (if c.st = .trusted then s.t2Place x k else s.t2Serve x k)
  else if s.behind x || s.tierHold x then s
  else match c.st with
    | .trusted =>
      if s.t2Retired k (64 * x.tn % cartBytes) then s.refuseAt x (uT2 k) 0x14 else s.t2Place { x with sched := false } k
    | .untrusted =>
      if !isWr x.kind then s.refuseAt x (uT2 k) 0x61
      else if s.t2Retired k (64 * x.tn % cartBytes) then s.refuseAt x (uT2 k) 0x14
      else if lifeEnd then s.refuseAt x (uT2 k) 0x60
      else s.t2Serve { x with sched := false } k
    | _ => s.refuseAt x (uT2 k) 0x64

/-- A request reaches a T2Q, or one that waited there for an entry, a page or a block tries again (R266, R269, R276). -/
def execT2Request (x : Nat) (s : State) : Host.Outcome State Fault Refusal :=
  .next (match s.xact x with
    | some y =>
      match y.loc with
      | .t2 k _ =>
        if s.clk.rootOn && y.half = .request && !y.isFill && (y.stage = .edgeIngress || y.stage = .pageBuffer) && decide (y.ready ≤ s.clk.now) then
          s.t2Take y k
        else if s.clk.rootOn && y.stage = .controller && y.half = .request && y.inp < 7 then s.t2Issue y k
        else s
      | _ => s
    | none => s)

/-! ### CXL_RESPONSE -/

/-- Data has come for a read, a partial write or an atomic (R246, R256, R257, R289). -/
def State.cxlData (s : State) (y : Xact) (k : Nat) (l : Line) (bad : Bool) : State :=
  let n := y.tn
  let u := 8 + k
  let coded := s.strength 2 (64 * n) ≠ 0
  let st := s.strength 2 (64 * n)
  if bad then
    let s := s.cadd 0x6310 (8 * k + 2) 1
    if !coded then (s.integrity (tierEvent 0x43 u 0 0 st (64 * n % cartBytes) (some y))).tierData y (uT2 k) 0 true 5
    else if s.decoding u (n / 64) || !s.decRoom u then s.setX { y with stage := .edgeIngress, inp := 6, ready := s.clk.now }
    else (s.decStart u (n / 64) (some y.id) (n % 64) l).setX { y with stage := .decoder }
  else
    let s := s.setTline 2 n l
    if !isWr y.kind then s.tierData y (uT2 k) l (s.linePoison 2 n) 5
    else if coded then
      match s.bufOf u (n / 64) with
      | some b => s.bufMerge b y u l 5
      | none => s.setX { y with stage := .edgeIngress, inp := 6, ready := s.clk.now }
    else
      let z : Xact := { y with stage := .controller, data := applyTo y l, dir := 1 }
      (s.setX z).t2Issue z k

/-- The Cmp of a MemWr: the cartridge holds the line, and the write completes (R266). -/
def State.cxlDone (s : State) (y : Xact) (k : Nat) : State :=
  let s := s.setTline 2 y.tn y.data
  if y.purpose = .pageOp then s.dropX y.id else (s.tierForward y y.data).tierData y (uT2 k) 0 false 5

/-- A CXL response: it completes the request of its tag, or is dropped and logged (R265, R266, R348). An NDR other than Cmp, Cmp-S
and Cmp-E, and one that answers a read, are dropped the same way. -/
def execCxlResponse (k : CartId) (hdr : BitVec 32) (data : Line) (s : State) : Host.Outcome State Fault Refusal :=
  .next (
    let h := hdr.toNat
    let kind := fld h 31 30
    let opc := fld h 29 26
    let y := s.flight.find? (fun x => x.stage = .outstanding && x.half = .request && x.loc.unit = uT2 k.val && x.dest = fld h 15 0)
    if s.quench.st = 2 then
      match y with
      | some y => s.setX { y with stage := .landed, half := .answer, data := data, inp := fld h 31 24 }
      | none => s
    else if !s.clk.rootOn then s
    else
      match s.inputGate 2 k.val (fld h 15 0) (natBytes 64 data.toNat) with
      | none => s
      | some s =>
      let proto := s.cartErr k.val 0x65 h 0 0
      match y with
      | none => proto
      | some y =>
        let wr := y.memWrNext (s.strength 2 (64 * y.tn) ≠ 0)
        if kind = 2 && !wr then (s.cxlData y k.val data (bit h 25 || opc ≠ 0)).t2Pump k.val
        else if kind = 1 && wr && decide (opc ≤ 2) then (s.cxlDone y k.val).t2Pump k.val
        else proto)

/-! ### Attachment and life -/

/-- The cartridge may be attached: its T2Q has started and the lifecycle is not RETURN (R269, R437, R453). -/
def State.mayAttach (s : State) (k : Nat) : Bool :=
  let st := (s.cart k).st
  s.clk.rootOn && s.mgmt.life ≠ 3 && (st = .absent || st = .detached || st = .failed)

/-- CART_STATE command ATTACH (R268, R269); true when accepted. -/
def State.cartAttach (s : State) (k : Nat) : State × Bool :=
  if s.mayAttach k then
    let c := s.cart k
    ((s.setCart k { c with attachAt := s.clk.ts.toNat, step := 1, warned := false, ended := false, diverged := false, dropping := false
                           cands := [], cached := [] }).cartEnter k .attaching, true)
  else (s, false)

/-- ATTACH starts the steps of R268. -/
def execCartAttach (k : CartId) (s : State) : Host.Outcome State Fault Refusal := .next (s.cartAttach k.val).1

/-- The cartridge becomes FAILED at a step: CART_ATTACH_FAIL with the step and the value read (R268, R454). -/
def State.attachFail (s : State) (k step val : Nat) : State :=
  let s := if s.mgmt.phase = 6 then { s with mgmt := { s.mgmt with code := 0x66 } } else s
  ((s.setCart k { s.cart k with step := step }).cartErr k 0x66 val step 0).cartEnter k .failed

/-- A ledger record read at attachment: its ledger and sequence number, if its CRC holds (R270). -/
def ledgerRead (l : Line) : Option (Nat × Nat) :=
  let b := natBytes 64 l.toNat
  if bytesAt b 60 4 = (crc32 (b.take 60)).toNat then some (bytesAt b 8 8, bytesAt b 16 8) else none

/-- The record with the higher sequence number (R270). -/
def ledgerPick (a b : Option (Nat × Nat)) : Nat × Nat :=
  match a, b with
  | some x, some y => if x.2 < y.2 then y else x
  | some x, none => x
  | none, some y => y
  | none, none => (0, 0)

/-- The attachment steps end (R268, R270, R271). -/
def execCartAttachEnd (k : CartId) (r : AttachResult) (s : State) : Host.Outcome State Fault Refusal :=
  .next (
    let c := s.cart k.val
    if !s.clk.rootOn || c.st ≠ .attaching then s
    else match r.failStep with
      | some f => s.attachFail k.val f.val r.failVal.toNat
      | none =>
        if r.capacity.toNat < cartBytes then s.attachFail k.val 3 (r.capacity.toNat % 2^32)
        else
          let p := ledgerPick (ledgerRead r.ledger0) (ledgerRead r.ledger1)
          let led := max p.1 (r.lifeUsed.toNat * r.budget.toNat / 100)
          let other := r.serial ≠ c.storeId
          let s := if other then { s with free := s.free + 1, mem := { s.mem with t2 := s.mem.t2.filter (fun (e : Nat × Line) => 64 * e.1 / cartBytes ≠ k.val) } } else s
          let s := s.setCart k.val { c with
            storeId := r.serial, store := if other then s.free else c.store, linkUp := true, present := true, serial := r.serial, capacity := r.capacity, budget := r.budget
            lifeUsed := r.lifeUsed, ledger := BitVec.ofNat 64 led, recSeq := BitVec.ofNat 64 p.2, recAt := BitVec.ofNat 64 led, step := 8 }
          let s := (s.setTline 2 (s.ledgerLine k.val 0) r.ledger0).setTline 2 (s.ledgerLine k.val 1) r.ledger1
          let s := if r.serial.toNat = s.pv 0x1142 k.val && r.serial ≠ 0 then s.cartEnter k.val .trusted
            else (s.cartErr k.val 0x61 (r.serial.toNat % 2^32) (s.pv 0x1142 k.val % 2^16) (r.serial.toNat / 2^16)).cartEnter k.val .untrusted
          s.lifeCheck k.val)

/-- A slot's attachment exceeds CART_ATTACH_MS (R454). Time counts in the timestamp's nanoseconds. -/
def execCartAttachTimeout (k : CartId) (s : State) : Host.Outcome State Fault Refusal :=
  .next (
    let c := s.cart k.val
    if s.clk.rootOn && c.st = .attaching && decide (c.attachAt + msNs * s.pv 0x1025 0 ≤ s.clk.ts.toNat) then s.attachFail k.val c.step 0 else s)

/-- Data lines of a block at a cartridge and at a promotion slot: stored line numbers of tier 2 and tier 1 (R276). -/
def State.blockLine (s : State) (k b slot i : Nat) : Option (Nat × Nat) :=
  match s.locate (t2Base + (k * 6291456 + b) * 65536 + 64 * i), s.locate (s.pv 0x1153 0 + 65536 * slot + 64 * i) with
  | .t2 j raw, .t1 r => some ((j * cartBytes + raw) / 64, r / 64)
  | _, _ => none

/-- Copies one line between the tiers with its poison (R276). -/
def State.copyTier (s : State) (t n t' m : Nat) : State :=
  let d := s.tierRead t n
  let p := s.linePoison t n
  let s := s.tierWrite t' m fullMask d
  if p then s.poisonLine t' m else s

/-- Copies a block: into its slot, or back to the cartridge with the MemWr that takes (R270, R276). -/
def State.copyBlock (s : State) (k b slot : Nat) (up : Bool) : State :=
  let s := (List.range 1024).foldl (fun s i => match s.blockLine k b slot i with
    | some (n, m) => if up then s.copyTier 2 n 1 m else s.copyTier 1 m 2 n
    | none => s) s
  if up then (s.cadd 0x6310 (8 * k) 1024).cadd 0x6310 (8 * k + 3) 1
  else (((s.memWr k 1024).ledgerTick k).cadd 0x6310 (8 * k + 4) 1).cadd 0x6310 (8 * k + 5) 1

/-- Writes back or drops every promoted block of a cartridge, and clears the promotion fields (R272, R273). -/
def State.demoteAll (s : State) (k : Nat) (write : Bool) : State :=
  (s.cart k).place.foldl (fun s e =>
    if plProm e.2 then
      let s := if write && plDirty e.2 then s.copyBlock k e.1 (plSlot e.2) false else s
      s.setPlace k e.1 (BitVec.ofNat 64 (setFld e.2.toNat 39 0 0))
    else s) s

/-- CART_STATE command TRUST (R271, R273); true when accepted. -/
def State.cartTrust (s : State) (k : Nat) : State × Bool :=
  let c := s.cart k
  if !s.clk.rootOn || c.st ≠ .untrusted then (s, false)
  else
    let s := if c.from_ = 0 then s else s.demoteAll k (c.from_ = c.serial && !c.ended)
    let s := s.setCart k { s.cart k with from_ := 0 }
    ((s.setPv 0x1142 k c.serial.toNat).cartEnter k .trusted, true)

/-- TRUST. -/
def execCartTrust (k : CartId) (s : State) : Host.Outcome State Fault Refusal := .next (s.cartTrust k.val).1

/-- CART_STATE command DETACH or DETACH_DROP (R269, R272); true when accepted. -/
def State.cartDetach (s : State) (k : Nat) (drop : Bool) : State × Bool :=
  let c := s.cart k
  if !s.clk.rootOn || (c.st ≠ .untrusted && c.st ≠ .trusted) then (s, false)
  else if !drop && s.stranded k ≠ 0 then (s.cartNotice k, false)
  else
    let s := (s.setCart k { c with dropping := drop }).cartEnter k .detaching
    ({ s with tiers := { s.tiers with bufs := s.tiers.bufs.map (fun b => if b.unit = 8 + k then { b with closing := true } else b) } }, true)

/-- DETACH. -/
def execCartDetach (k : CartId) (s : State) : Host.Outcome State Fault Refusal := .next (s.cartDetach k.val false).1

/-- DETACH_DROP. -/
def execCartDetachDrop (k : CartId) (s : State) : Host.Outcome State Fault Refusal := .next (s.cartDetach k.val true).1

/-- Work of a cartridge still in flight. -/
def State.cartBusy (s : State) (k : Nat) : Bool :=
  s.flight.any (fun x => x.loc.unit = uT2 k && x.half = .request && (x.stage = .controller || x.stage = .outstanding || x.stage = .pageBuffer ||
    x.stage = .decoder)) || s.tiers.bufs.any (fun b => b.unit = 8 + k) || (s.cart k).place.any (fun e => plBusy e.2)

/-- The steps of R272 end and the cartridge is DETACHED. -/
def execCartDetachEnd (k : CartId) (s : State) : Host.Outcome State Fault Refusal :=
  .next (
    let c := s.cart k.val
    if !s.clk.rootOn || c.st ≠ .detaching || s.cartBusy k.val then s
    else
      let n := s.stranded k.val
      let s := if c.dropping && n ≠ 0 then s.cartErr k.val 0x60 c.lifeUsed.toNat n c.ledger.toNat else s
      let s := s.demoteAll k.val (!c.ended)
      let s := s.setCart k.val { s.cart k.val with place := [], cached := [], cands := [] }
      (s.ledgerWrite k.val).cartEnter k.val .detached)

/-- Every second firmware reads Life Used (R270). -/
def execCartHealthPoll (k : CartId) (lifeUsed : Byte) (s : State) : Host.Outcome State Fault Refusal :=
  .next (
    let c := s.cart k.val
    if s.clk.rootOn && (c.st = .trusted || c.st = .untrusted) then (s.setCart k.val { c with lifeUsed := lifeUsed }).lifeCheck k.val else s)

/-- cx_link_up_i or cx_present_i falls: the cartridge is FAILED, reads complete as poison, unacknowledged writes and the page
buffers are dropped and counted, and CART_LOADED_SERIAL is cleared (R273). -/
def execCartLinkLost (k : CartId) (linkUp present : Bool) (s : State) : Host.Outcome State Fault Refusal :=
  .next (
    let c := s.cart k.val
    let s := s.setCart k.val { c with linkUp := linkUp, present := present }
    if !s.clk.rootOn || (linkUp && present) then s
    else
      if c.st = .absent || c.st = .detached || c.st = .failed then s
      else
        let mine := s.flight.filter (fun x => x.loc.unit = uT2 k.val && x.half = .request && x.inp ≠ 7 && (x.stage = .controller ||
          x.stage = .outstanding || x.stage = .pageBuffer || x.stage = .decoder))
        let lost := (mine.filter (fun x => isWr x.kind)).length + (s.bufsOf (8 + k.val)).length
        let s := { s with tiers := { s.tiers with bufs := s.tiers.bufs.filter (fun b => b.unit ≠ 8 + k.val)
                                                  decs := s.tiers.decs.filter (fun d => d.unit ≠ 8 + k.val) } }
        let s := mine.foldl (fun s x => if x.purpose = .pageOp then s.dropX x.id else s.refuseAt x (uT2 k.val) 0x64) s
        let c := s.cart k.val
        let keep := (c.place.filter (fun e => plProm e.2 && plDirty e.2)).map (fun e => (e.1, BitVec.ofNat 64 (setFld e.2.toNat 37 37 0)))
        let s := s.setCart k.val { c with place := keep, cached := [], cands := [], from_ := if keep.isEmpty then 0 else c.serial }
        ((s.setPv 0x1142 k.val 0).cartErr k.val 0x64 0 lost 0).cartEnter k.val .failed)

/-- A T2Q's link retrains lower: T2_WINDOW_BYTES falls, by an amount the spec leaves open, and capacity is lost (R105, R113). The
first training after attachment sets it. -/
def execT2LinkRetrain (k : CartId) (gts : BitVec 7) (width : BitVec 5) (s : State) : Host.Outcome State Fault Refusal :=
  .next (
    let c := s.cart k.val
    if !s.clk.rootOn then s
    else
      let lower := c.gts ≠ 0 && (decide (gts.toNat < c.gts) || decide (width.toNat < c.width))
      let s := s.setCart k.val { c with gts := gts.toNat, width := width.toNat }
      if c.gts ≠ 0 && !lower then s
      else [0, 1].foldl (fun s d =>
        let r := 0xA00 + 2 * k.val + d
        let old := s.netNow r
        let v := s.draw
        let was := s.pv 0x2401 (2 * k.val + d)
        let s := v.2.setPv 0x2401 (2 * k.val + d) (if lower then v.1 % max 1 was else v.1 % 2^32)
        if lower then s.capacityLoss (uT2 k.val) r old 3 else s) s)

/-! ### Placement -/

/-- A decay epoch passes: the sweep decays the next 192 entries, so that it visits all within 32,768 epochs (R275). -/
def execHeatDecayEpoch (k : CartId) (s : State) : Host.Outcome State Fault Refusal :=
  .next (
    let c := s.cart k.val
    if !s.clk.rootOn || s.clk.ts.toNat < c.lastDecay + usNs * s.pv 0x1150 0 then s
    else
      let d := c.decay + 1
      let lo := d % 32768 * 192
      let place := c.place.filterMap (fun e =>
        if lo ≤ e.1 ∧ e.1 < lo + 192 then (let v := plDecay e.2 d; if v = 0 then none else some (e.1, v)) else some e)
      s.setCart k.val { c with decay := d, lastDecay := s.clk.ts.toNat, place := place })

/-- Promotion slots in use or being filled (R274, R276). -/
def State.t2Taken (s : State) : List Nat :=
  ((s.tiers.carts.map (fun c => (c.2.place.filter (fun e => plProm e.2 || plBusy e.2)).map (fun e => plSlot e.2))).flatten)

/-- A tier-1 page of a promotion slot is retired (R304). -/
def State.slotRetired (s : State) (i : Nat) : Bool :=
  (List.range 17).any (fun j => match s.locate (s.pv 0x1153 0 + 65536 * i + min (4096 * j) 65472) with
    | .t1 raw => s.t1Retired raw
    | _ => false)

/-- A free promotion slot (R275), none of its pages retired. -/
def State.freeSlot (s : State) : Option Nat :=
  let t := s.t2Taken
  (List.range (min (t.length + 1) (s.pv 0x1153 1))).find? (fun i => !t.contains i && !s.slotRetired i)

/-- The promoted block of lowest current heat that may be demoted (R275, R276). -/
def State.coolest (s : State) (k : Nat) : Option (Nat × Dword) :=
  let c := s.cart k
  (c.place.filter (fun e => plProm e.2 && !plBusy e.2 && !(c.ended && plDirty e.2))).foldl (fun a e =>
    match a with
    | some b => if plHeat (plDecay e.2 c.decay) < plHeat (plDecay b.2 c.decay) then some e else some b
    | none => some e) none

/-- Marks a block moving: 1 to a slot, 2 back (R276 step 1). -/
def State.startMove (s : State) (k b slot dirn : Nat) : State :=
  let e := s.placeEnt k b
  let s := s.setPlace k b (BitVec.ofNat 64 (setFld (setFld e.toNat 37 37 1) 21 0 slot))
  let c := s.cart k
  s.setCart k { c with moving := c.moving ++ [(b, dirn)] }

/-- Firmware takes the oldest candidate (R275). A candidate that takes a demoted block's place is promoted once that block's move
has ended and its slot is free. -/
def execPromoteCandidate (k : CartId) (s : State) : Host.Outcome State Fault Refusal :=
  .next (
    let c := s.cart k.val
    match c.cands with
    | [] => s
    | b :: rest =>
      if !s.clk.rootOn || c.st ≠ .trusted then s
      else
        let heat := plHeat (plDecay (s.placeEnt k.val b) c.decay)
        let s := s.setCart k.val { c with cands := rest }
        if plProm (s.placeEnt k.val b) || plBusy (s.placeEnt k.val b) then s
        else match s.freeSlot with
          | some i => s.startMove k.val b i 1
          | none => match s.coolest k.val with
            | some (v, e) =>
              if plHeat (plDecay e c.decay) + s.pv 0x1152 0 < heat then
                let s := s.startMove k.val v (plSlot e) 2
                s.setCart k.val { s.cart k.val with moving := (s.cart k.val).moving ++ [(b, 3)] }
              else s
            | none => s)

/-- Accesses of a block in flight at its T2Q (R276 step 2). -/
def State.blockBusy (s : State) (k b : Nat) : Bool :=
  s.flight.any (fun x => x.loc.unit = uT2 k && x.half = .request && x.block = b && ((x.stage = .controller && x.inp ≠ 9 && x.inp ≠ 8) ||
    x.stage = .outstanding || x.stage = .pageBuffer || x.stage = .decoder))

/-- A block's copy ends: the entry is updated, a waiting candidate takes the slot, and the held accesses go out (R276). -/
def execBlockMoveDone (k : CartId) (block : Nat) (s : State) : Host.Outcome State Fault Refusal :=
  .next (
    let c := s.cart k.val
    match c.moving.find? (fun m => m.1 = block && m.2 ≠ 3) with
    | none => s
    | some m =>
      if !s.clk.rootOn || s.power.hold || s.blockBusy k.val block then s
      else
        let e := s.placeEnt k.val block
        let slot := plSlot e
        let s := if m.2 = 1 then s.copyBlock k.val block slot true
          else if plDirty e then s.copyBlock k.val block slot false else s.cadd 0x6310 (8 * k.val + 4) 1
        let n := setFld (setFld (setFld e.toNat 39 37 0) 21 0 0) 39 39 (if m.2 = 1 then 1 else 0)
        let s := s.setPlace k.val block (BitVec.ofNat 64 (if m.2 = 1 then setFld n 21 0 slot else n))
        let c := s.cart k.val
        let s := s.setCart k.val { c with moving := c.moving.filter (fun x => x ≠ m) }
        let held := s.flight.filter (fun x => x.loc.unit = uT2 k.val && x.inp = 9 && x.block = block)
        let s := held.foldl (fun s x => s.setX { x with stage := .edgeIngress, inp := 6, ready := s.clk.now }) s
        match (s.cart k.val).moving.find? (fun x => x.2 = 3) with
        | some w =>
          if m.2 = 2 then
            let c := s.cart k.val
            (s.setCart k.val { c with moving := c.moving.filter (fun x => x ≠ w) }).startMove k.val w.1 slot 1
          else s
        | none => s)

/-! ### Page-buffer closes and edge commands -/

/-- A close has issued every read and write: the page is stored, in tier 2 by MemWr whose Cmp is still to come, and the buffer is
free (R246, R257, R266). -/
def execPageBufferCloseDone (u : Fin 12) (page : Nat) (s : State) : Host.Outcome State Fault Refusal :=
  .next (match s.bufOf u.val page with
    | none => s
    | some b =>
      if !s.clk.rootOn || !b.closing || s.decoding u.val page || (s.power.hold && b.dirty ≠ 0) then s
      else if b.dirty = 0 then s.dropBuf u.val page
      else
        let im := s.bufImage b
        let t := tierOf u.val
        let n := b.transfers
        if t = 1 then
          let s := ((s.cadd 0x6300 (8 * u.val) n.1).cadd 0x6300 (8 * u.val + 1) n.2).cadd 0x6300 (8 * u.val + (if b.dirty = dataMask then 2 else 3)) 1
          (s.storePage t page im.1 im.2).dropBuf u.val page
        else
          let k := u.val - 8
          let st := s.strength 2 (4096 * page)
          let tail := pageTail st (pageNat ((List.range 62).map im.1)) (pageTag page st im.2)
          let line := fun (j : Nat) => if j < 62 then im.1 j else pageLine tail (j - 62)
          let js := (List.range 64).filter (fun j => 62 ≤ j || b.dirty.getLsbD j)
          let s := (s.dropBuf u.val page).cadd 0x6310 (8 * k) n.1
          (js.foldl (fun (s : State) j =>
            let raw := (64 * page + j) * 64 % cartBytes
            s.addX { kind := .write, mask := fullMask, data := line j, ga := BitVec.ofNat 48 (t2Base + (64 * page + j) * 64), loc := .t2 k raw,
                     srcUnit := uT2 k, srcPort := 15, unit := uT2 k, stage := .controller, since := s.clk.now, ready := s.clk.now, born := s.clk.now,
                     purpose := .pageOp, deadline := s.deadlineAt (s.classDeadline 7), qos := 7 }) s).t2Pump k)

/-- A register of an edge unit's control page (R119). -/
def State.edgeReg (s : State) (u off : Nat) : Dword := Tbl.get s.hives.edge 0 (u * 0x100000 + off)

/-- Sets the status of an edge unit's command register. -/
def State.edgeStatus (s : State) (u st : Nat) : State :=
  { s with hives := { s.hives with edge := Tbl.set s.hives.edge 0 (u * 0x100000) (BitVec.ofNat 64 (st * 2^60)) } }

/-- The edge unit's command register is busy. -/
def State.edgeBusy (s : State) (u : Nat) : Bool := fld (s.edgeReg u 0).toNat 63 60 = 1

/-- Starts a command that writes out the page buffers of unit u of the page buffers, and for PERSIST waits for the MemWr under way
(R119, R267). -/
def State.edgeFlush (s : State) (u : Nat) (cell : Ga) : State :=
  if !s.clk.rootOn || s.edgeBusy u then s
  else if !s.cellOk cell.toNat then s.edgeStatus u 4
  else
    let pages := (s.bufsOf u).map (fun b => b.page)
    let c : EdgeCmd := { unit := u, cell := cell, need := s.nextId, pages := pages }
    let s := s.edgeStatus u 1
    { s with tiers := { s.tiers with
      cmds := s.tiers.cmds ++ [c]
      bufs := s.tiers.bufs.map (fun b => if b.unit = u then { b with closing := true } else b) } }

/-- The edge command of a unit is done (R119, R228). -/
def State.edgeDone (s : State) (c : EdgeCmd) (st unit : Nat) : State :=
  let s := { s with tiers := { s.tiers with cmds := s.tiers.cmds.filter (fun d => d ≠ c) } }
  (s.edgeStatus c.unit st).addCell c.cell.toNat { chip := s.chipId, unit := unit }

/-- FLUSH of a T1C. -/
def execT1cFlush (k : StackId) (cell : Ga) (s : State) : Host.Outcome State Fault Refusal := .next (s.edgeFlush k.val cell)

/-- Every page-buffer write of a FLUSH has completed. -/
def execT1cFlushDone (k : StackId) (s : State) : Host.Outcome State Fault Refusal :=
  .next (match s.tiers.cmds.find? (fun c => c.unit = k.val) with
    | some c => if s.clk.rootOn && c.pages.all (fun p => (s.bufOf k.val p).isNone) then s.edgeDone c 2 (uT1 k.val) else s
    | none => s)

/-- PERSIST of a T2Q. -/
def execPersist (k : CartId) (cell : Ga) (s : State) : Host.Outcome State Fault Refusal := .next (s.edgeFlush (8 + k.val) cell)

/-- The page buffers are written out and every MemWr issued for them or before the command has its Cmp (R267). -/
def execPersistDone (k : CartId) (s : State) : Host.Outcome State Fault Refusal :=
  .next (match s.tiers.cmds.find? (fun c => c.unit = 8 + k.val) with
    | some c =>
      let busy := s.flight.any (fun x => x.half = .request && x.loc.unit = uT2 k.val && isWr x.kind &&
        ((x.stage = .outstanding && decide (x.id < c.need)) || (x.purpose = .pageOp && c.pages.contains (x.tn / 64))))
      if s.clk.rootOn && !busy && c.pages.all (fun p => (s.bufOf (8 + k.val) p).isNone) then s.edgeDone c 2 (uT2 k.val) else s
    | none => s)

/-- MSYNC of the Mirror Unit (R119, R328): MFENCE, or done at once with status 3 when the member is not PAIRED. -/
def execMsync (cell : Ga) (s : State) : Host.Outcome State Fault Refusal :=
  .next (
    if !s.clk.rootOn || s.edgeBusy 16 then s
    else if !s.cellOk cell.toNat then s.edgeStatus 16 4
    else
      let c : EdgeCmd := { unit := 16, cell := cell, need := s.mirror.sendSeq, pages := [] }
      if !s.paired then s.edgeDone c 3 uMu
      else
        let s := s.edgeStatus 16 1
        let s := { s with tiers := { s.tiers with cmds := s.tiers.cmds ++ [c] } }
        s.sendSeq 0x45 0 0 0 0 0 [] [.msync] false)

end Sys2Proof.Machine
end

