-- ==== Sys2Proof/Machine/Tile.lean ====
section
/-!
DEFINITION. Tile.lean: what a DMA descriptor says: its fields, its rows and their order, its footprints, the lines of a row on each side
and the bytes a destination line takes (R149 to R158, R165, R166, R169, R180).
-/
namespace Sys2Proof.Machine

/-! ### Fields (R149, R151) -/

def dLayer (w : BitVec 512) : Nat := fld w.toNat 511 496
def dOper (w : BitVec 512) : Nat := fld w.toNat 495 480
def dOp (w : BitVec 512) : Nat := fld w.toNat 479 476
def dSrcFmt (w : BitVec 512) : Nat := fld w.toNat 475 472
def dDstFmt (w : BitVec 512) : Nat := fld w.toNat 471 468
def dPerm (w : BitVec 512) : Nat := fld w.toNat 467 465
def dSat (w : BitVec 512) : Bool := bit w.toNat 464
def dNopad (w : BitVec 512) : Bool := bit w.toNat 463
def dJournal (w : BitVec 512) : Bool := bit w.toNat 462
def dSched (w : BitVec 512) : Bool := bit w.toNat 461
def dFence (w : BitVec 512) : Bool := bit w.toNat 460
def dInd (w : BitVec 512) : Nat := fld w.toNat 459 456
def dQos (w : BitVec 512) : Nat := fld w.toNat 455 453
def dDl (w : BitVec 512) : Nat := fld w.toNat 452 449
def dFlow (w : BitVec 512) : Nat := fld w.toNat 448 438
def dCmpl (w : BitVec 512) : Nat := fld w.toNat 437 436
def dCmplWord (w : BitVec 512) : Nat := fld w.toNat 435 423
def dCmplRef (w : BitVec 512) : Nat := fld w.toNat 422 407
def dBndWord (w : BitVec 512) : Nat := fld w.toNat 406 395
def dBndRef (w : BitVec 512) : Nat := fld w.toNat 394 379
def dPad (w : BitVec 512) : Nat := fld w.toNat 378 363
def dSrcOff (w : BitVec 512) : Nat := fld w.toNat 362 325
def dSrcRef (w : BitVec 512) : Nat := fld w.toNat 324 309
def dDstOff (w : BitVec 512) : Nat := fld w.toNat 308 271
def dDstRef (w : BitVec 512) : Nat := fld w.toNat 270 255
def dLen (w : BitVec 512) : Nat := fld w.toNat 254 214
def dPattern (w : BitVec 512) : Nat := fld w.toNat 213 150

/-- Size of dimension k (R149). -/
def dSize (w : BitVec 512) : Nat → Nat
  | 0 => fld w.toNat 254 239
  | 1 => fld w.toNat 238 227
  | 2 => fld w.toNat 226 215
  | _ => fld w.toNat 214 203

/-- Immediate bound of dimension k. -/
def dBound (w : BitVec 512) : Nat → Nat
  | 0 => fld w.toNat 202 187
  | 1 => fld w.toNat 186 175
  | 2 => fld w.toNat 174 163
  | _ => fld w.toNat 162 151

/-- ACC pair of a TILE (R149); other operations have none (R151). -/
def dAcc (w : BitVec 512) : Nat := if dOp w = 1 then fld w.toNat 150 147 else 0

/-- Source stride of dimension k, signed bytes. -/
def dSrcStride (w : BitVec 512) : Nat → Int
  | 1 => sext 24 (fld w.toNat 143 120)
  | 2 => sext 24 (fld w.toNat 119 96)
  | _ => sext 24 (fld w.toNat 95 72)

/-- Destination stride of dimension k, signed bytes. -/
def dDstStride (w : BitVec 512) : Nat → Int
  | 1 => sext 24 (fld w.toNat 71 48)
  | 2 => sext 24 (fld w.toNat 47 24)
  | _ => sext 24 (fld w.toNat 23 0)

/-- TILE, and the operations that move a range: FILL and COPY. -/
def isTile (w : BitVec 512) : Bool := dOp w = 1

/-! ### Bounds and rows (R152, R155) -/

/-- The effective bound of dimension k. -/
def Desc.eff (d : Desc) (k : Nat) : Nat :=
  let v := match d.bnd.find? (fun b => b.1 = k) with
    | some b => min 65535 b.2
    | none => dBound d.w k
  min v (dSize d.w k)

/-- Dimensions 1 to 3 from the outermost loop to the innermost (R152). -/
def permOrder (p : Nat) : Nat × Nat × Nat :=
  match p with
  | 0 => (3, 2, 1)
  | 1 => (3, 1, 2)
  | 2 => (2, 3, 1)
  | 3 => (2, 1, 3)
  | 4 => (1, 3, 2)
  | _ => (1, 2, 3)

/-- Rows of a TILE; a FILL or COPY is one row. -/
def dRows (w : BitVec 512) : Nat := if isTile w then dSize w 1 * dSize w 2 * dSize w 3 else 1

/-- The loop indices of visit `v`, outermost first. -/
def digits (w : BitVec 512) (v : Nat) : Nat × Nat × Nat :=
  let o := permOrder (dPerm w)
  let b := dSize w o.2.1
  let c := dSize w o.2.2
  (v / (b * c), v / c % b, v % c)

/-- Index of dimension k in visit `v`. -/
def tileIdx (w : BitVec 512) (v k : Nat) : Nat :=
  let o := permOrder (dPerm w)
  let g := digits w v
  if k = o.1 then g.1 else if k = o.2.1 then g.2.1 else g.2.2

/-- The visit of an index triple, given by dimension. -/
def tileVisit (w : BitVec 512) (i : Nat → Nat) : Nat :=
  let o := permOrder (dPerm w)
  (i o.1 * dSize w o.2.1 + i o.2.1) * dSize w o.2.2 + i o.2.2

/-- A row lies in bounds in dimensions 1 to 3, and dimension 0 holds an element in bounds (R155). -/
def Desc.rowIn (d : Desc) (v : Nat) : Bool :=
  d.eff 0 ≠ 0 && decide (tileIdx d.w v 1 < d.eff 1) && decide (tileIdx d.w v 2 < d.eff 2) && decide (tileIdx d.w v 3 < d.eff 3)

/-- Elements of a row in bounds. -/
def Desc.inElems (d : Desc) (v : Nat) : Nat := if d.rowIn v then d.eff 0 else 0

/-- The first row in bounds from visit `v` on; the number of rows when there is none. -/
def Desc.nextIn (d : Desc) (v : Nat) : Nat :=
  let o := permOrder (dPerm d.w)
  let n := dRows d.w
  if d.eff 0 = 0 || d.eff 1 = 0 || d.eff 2 = 0 || d.eff 3 = 0 || decide (n ≤ v) then n
  else
    let g := digits d.w v
    let (a, b, c) := if d.eff o.2.2 ≤ g.2.2 then (g.1, g.2.1 + 1, 0) else g
    let (a, b, c) := if d.eff o.2.1 ≤ b then (a + 1, 0, 0) else (a, b, c)
    if d.eff o.1 ≤ a then n else (a * dSize d.w o.2.1 + b) * dSize d.w o.2.2 + c

/-- PAD mode with plain writes: every row is written whole (R157). -/
def dPadMode (w : BitVec 512) : Bool := dAcc w = 0 && !dNopad w

/-- Bytes of `n` elements at the destination: 2 a stored element for pair 0x3 (R180). -/
def dstBytes (w : BitVec 512) (n : Nat) : Nat := if dAcc w = 3 then 2 * n else rowBytes (dDstFmt w) n

/-- Bytes a row presents at the destination, from the row's first (R157). -/
def Desc.rowOut (d : Desc) (v : Nat) : Nat :=
  if !isTile d.w then dLen d.w
  else if dPadMode d.w then dstBytes d.w (dSize d.w 0)
  else if d.rowIn v then dstBytes d.w (d.eff 0)
  else 0

/-- The first row from visit `v` on that presents lines. -/
def Desc.nextOut (d : Desc) (v : Nat) : Nat :=
  if !isTile d.w then (if dLen d.w = 0 then 1 else v) else if dPadMode d.w then v else d.nextIn v

/-- Offset of a row under its handle (R152). -/
def srcRow (w : BitVec 512) (v : Nat) : Int :=
  if isTile w then
    dSrcOff w + tileIdx w v 1 * dSrcStride w 1 + tileIdx w v 2 * dSrcStride w 2 + tileIdx w v 3 * dSrcStride w 3
  else dSrcOff w
def dstRow (w : BitVec 512) (v : Nat) : Int :=
  if isTile w then
    dDstOff w + tileIdx w v 1 * dDstStride w 1 + tileIdx w v 2 * dDstStride w 2 + tileIdx w v 3 * dDstStride w 3
  else dDstOff w

/-! ### Footprints (R126, R154) -/

/-- Lowest and highest offset of a footprint: dimension counts and strides of 1 to 3, and the bytes of a row. -/
def footprint (off : Nat) (n : Nat → Nat) (st : Nat → Int) (bytes : Nat) : Int × Int :=
  let lo := fun k => min 0 (((n k : Int) - 1) * st k)
  let hi := fun k => max 0 (((n k : Int) - 1) * st k)
  (off + lo 1 + lo 2 + lo 3, off + hi 1 + hi 2 + hi 3 + bytes - 1)

/-- Bytes of a side's row as the footprint counts them: whole rows of MX and scaled formats, else the elements counted. -/
def sideBytes (f size n : Nat) : Nat := if isMx f || isScaled f then rowBytes f size else rowBytes f n

/-- No element is in bounds. -/
def Desc.noneIn (d : Desc) : Bool := d.eff 0 = 0 || d.eff 1 = 0 || d.eff 2 = 0 || d.eff 3 = 0

/-- The source footprint; none where it is empty. -/
def Desc.srcFoot (d : Desc) : Option (Int × Int) :=
  if isTile d.w then
    if d.noneIn then none
    else some (footprint (dSrcOff d.w) d.eff (dSrcStride d.w) (sideBytes (dSrcFmt d.w) (dSize d.w 0) (d.eff 0)))
  else if dLen d.w = 0 then none else some (dSrcOff d.w, dSrcOff d.w + dLen d.w - 1)

/-- The destination footprint: sizes in PAD mode, effective bounds in NO_PAD mode (R154, R157). -/
def Desc.dstFoot (d : Desc) : Option (Int × Int) :=
  if isTile d.w then
    if dNopad d.w then
      if d.noneIn then none
      else
        let b := if dAcc d.w = 3 then 2 * d.eff 0 else sideBytes (dDstFmt d.w) (dSize d.w 0) (d.eff 0)
        some (footprint (dDstOff d.w) d.eff (dDstStride d.w) b)
    else some (footprint (dDstOff d.w) (dSize d.w) (dDstStride d.w) (dstBytes d.w (dSize d.w 0)))
  else if dLen d.w = 0 then none else some (dDstOff d.w, dDstOff d.w + dLen d.w - 1)

/-! ### Refusals (R150) -/

/-- DESC_INVALID, apart from what needs the handles and the indirect bounds. -/
def descInvalid (w : BitVec 512) : Bool :=
  let op := dOp w
  let cm := dCmpl w = 3
  if op = 0 then cm
  else if 5 ≤ op then true
  else if op ≠ 1 then cm || decide (12 ≤ dDl w) || dSched w || (op = 4 && dSrcOff w ≠ 0)
  else
    let acc := dAcc w
    let inc := match acc with
      | 1 => 3
      | 2 => 4
      | 3 => 3
      | _ => 1
    cm || decide (12 ≤ dDl w) || decide (6 ≤ dPerm w) || (List.range 4).any (fun k => dSize w k = 0) ||
    !fmtPairOk (dSrcFmt w) (dDstFmt w) ||
    ((isMx (dSrcFmt w) || isMx (dDstFmt w)) && dSize w 0 % 32 ≠ 0) ||
    (isScaled (dDstFmt w) && decide (4096 < dSize w 0)) ||
    (dSched w && dFlow w = 0) ||
    (acc ≠ 0 && (!isPair acc || dDstFmt w ≠ inc))

/-- DESC_INVALID once the bounds are known: a block or scaled destination in NO_PAD mode cut short. -/
def Desc.cutShort (d : Desc) : Bool :=
  isTile d.w && (isMx (dDstFmt d.w) || isScaled (dDstFmt d.w)) && dNopad d.w && decide (d.eff 0 < dSize d.w 0)

/-! ### Lines of a row -/

/-- First and past-the-last unit of `u` bytes that a run of bytes touches, as unit numbers; empty for no bytes. -/
def unitsOf (a len u : Nat) : Nat × Nat := if len = 0 then (a / u, a / u) else (a / u, (a + len - 1) / u + 1)

/-- Runs of bytes of a source row that hold elements p to q: packed elements, and the scale bytes or the scale and bias (R157, R168). -/
def elemRuns (f n p q : Nat) : List (Nat × Nat) :=
  if q ≤ p then []
  else
    let b := fmtBits f
    let lo := p * b / 8
    let hi := ceilDiv (q * b) 8
    let data := ceilDiv (n * b) 8
    if isMx f then [(lo, hi), (data + p / 32, data + ceilDiv q 32)]
    else if isScaled f then [(lo, hi), (data, data + 4)]
    else [(lo, hi)]

/-- Runs of bytes of a source row to read: those in bounds (R157). -/
def Desc.srcRuns (d : Desc) (v : Nat) : List (Nat × Nat) :=
  if isTile d.w then elemRuns (dSrcFmt d.w) (dSize d.w 0) 0 (d.inElems v) else [(0, dLen d.w)]

/-- The elements of a row that bytes x to y of its destination depend on (R157, R171, R172). -/
def destElems (f n bytes2 x y : Nat) : Nat × Nat :=
  if y ≤ x then (0, 0)
  else if isScaled f then (0, n)
  else if isMx f then
    let b := fmtBits f
    let data := ceilDiv (n * b) 8
    if data ≤ x then (32 * (x - data), min n (32 * (y - data)))
    else
      let p := x * 8 / b / 32 * 32
      let q := min n (ceilDiv (ceilDiv (min y data * 8) b) 32 * 32)
      if y ≤ data then (p, q) else (0, max q (min n (32 * (y - data))))
  else
    let e := if bytes2 = 0 then fmtBits f / 8 else bytes2
    (x / e, min n (ceilDiv y e))

/-- The row copies bit for bit: equal formats and no pad position (R158, R169). -/
def Desc.copies (d : Desc) (v : Nat) : Bool :=
  !isTile d.w || (dSrcFmt d.w = dDstFmt d.w && dAcc d.w ≠ 3 && (d.inElems v = dSize d.w 0 || !dPadMode d.w))

/-- Runs of source bytes that bytes x to y of a destination row need. -/
def Desc.needRuns (d : Desc) (v x y : Nat) : List (Nat × Nat) :=
  if d.copies v then (if y ≤ x then [] else [(x, y)])
  else
    let r := destElems (dDstFmt d.w) (dSize d.w 0) (if dAcc d.w = 3 then 2 else 0) x y
    elemRuns (dSrcFmt d.w) (dSize d.w 0) r.1 (min r.2 (d.inElems v))

/-- The key of a source line: its row and its number in the row, counted from the line of the row's first byte. -/
def srcKey (v l : Nat) : Nat := v * 2^36 + l

/-- Bytes x to x + n of a source row whose first byte lies at offset `a` of its first line, from the lines read. -/
def Desc.srcBytes (d : Desc) (v a x n : Nat) : Nat :=
  let u := unitsOf (a + x) n 64
  let all := (List.range (u.2 - u.1)).foldl (fun t j =>
    let l : Line := match Tbl.find d.src (srcKey v (u.1 + j)) with
      | some s => s.data
      | none => 0
    t + l.toNat * 2^(512 * j)) 0
  all / 2^(8 * ((a + x) % 64)) % 2^(8 * n)

/-- Bytes x to y of a destination row, from the source lines read (R157, R158, R169 to R172). `a` is the offset of the source row in its
first line. -/
def Desc.destSlice (d : Desc) (v a x y : Nat) : Nat :=
  if d.copies v then d.srcBytes v a x (y - x)
  else
    let sf := dSrcFmt d.w
    let df := dDstFmt d.w
    let n := dSize d.w 0
    let e := d.inElems v
    if isMx sf || isScaled sf || isMx df || isScaled df then
      convertRow sf df n e (dSat d.w) (dPad d.w) (d.srcBytes v a 0 (rowBytes sf n)) / 2^(8 * x) % 2^(8 * (y - x))
    else
      let sb := fmtBits sf / 8
      let db := fmtBits df / 8
      let p := x / db
      let q := min n (ceilDiv y db)
      let row := d.srcBytes v a (p * sb) ((q - p) * sb)
      convertRow sf df (q - p) (min (q - p) (e - p)) (dSat d.w) (dPad d.w) row / 2^(8 * (x - p * db)) % 2^(8 * (y - x))

/-- A destination line as it is presented: its address, byte mask and data. -/
structure OutLine where
  ga   : Nat
  mask : Dword
  data : Line
deriving DecidableEq, Repr

/-- Bytes of a destination line, number l of a row whose first byte lies at GA `g`: a unit of 64 B, or of 32 stored bytes for pair 0x3. -/
def lineSpan (w : BitVec 512) (g bytes l : Nat) : Nat × Nat :=
  let u := if dAcc w = 3 then 32 else 64
  let lo := max g ((g / u + l) * u)
  (lo - g, min bytes ((g / u + l + 1) * u - g))

/-- Destination lines of a row. -/
def lineCount (w : BitVec 512) (g bytes : Nat) : Nat :=
  let r := unitsOf g bytes (if dAcc w = 3 then 32 else 64)
  r.2 - r.1

/-- Destination line l of a row (R157, R165, R180): `g` is the GA of the row's first byte, `a` the source row's offset in its line. -/
def Desc.outLine (d : Desc) (v g a l : Nat) : OutLine :=
  let bytes := d.rowOut v
  let sp := lineSpan d.w g bytes l
  if dAcc d.w = 3 then
    let c := (g / 32 + l) * 32
    let e := d.inElems v
    let p := sp.1 / 2
    let q := min e (ceilDiv sp.2 2)
    let n := q - p
    let row := d.srcBytes v a (p * (fmtBits (dSrcFmt d.w) / 8)) (n * (fmtBits (dSrcFmt d.w) / 8))
    let vals := if isMx (dSrcFmt d.w) || isScaled (dSrcFmt d.w) then
        convertRow (dSrcFmt d.w) 3 (dSize d.w 0) e (dSat d.w) 0 (d.srcBytes v a 0 (rowBytes (dSrcFmt d.w) (dSize d.w 0))) / 2^(32 * p)
      else convertRow (dSrcFmt d.w) 3 n n (dSat d.w) 0 row
    { ga := c, mask := byteMask (g + sp.1 - c) (sp.2 - sp.1),
      data := BitVec.ofNat 512 (vals % 2^(32 * n) * 2^(32 * ((g + sp.1 - c) / 2))) }
  else
    let c := (g / 64 + l) * 64
    let o := g + sp.1 - c
    let bits := if dOp d.w = 2 then
        (dPattern d.w * (2^512 - 1) / (2^64 - 1)) / 2^(8 * o) % 2^(8 * (sp.2 - sp.1))
      else d.destSlice v a sp.1 sp.2
    { ga := c, mask := byteMask o (sp.2 - sp.1), data := BitVec.ofNat 512 (bits * 2^(8 * o)) }

end Sys2Proof.Machine
end

