-- ==== Sys2Proof/Machine/Router.lean ====
section
/-!
DEFINITION. Router.lean: the memory mesh (R10 to R12, R92, R93, R114) and where a packet leaves it: a Hive, a tier unit, or the FXP that
sends it to another chip (R130 to R132, R164).
-/
namespace Sys2Proof.Machine

/-! ### Frames of lines -/

/-- The frame kind of a line (R132, R164). -/
def frameKind (x : Xact) : Nat := kindByte x.kind

/-- Two lines may follow each other in one frame: whole lines at rising addresses (R132). -/
def follows (a b : Xact) : Bool :=
  a.kind = b.kind && a.kind ≠ .atomic && a.win = b.win && a.mask = fullMask && b.mask = fullMask && b.ga.toNat / 64 = a.ga.toNat / 64 + 1 &&
    !(a.kind = .acc && a.code = 3)

/-- Lines of a packet cut into frames of up to four lines (R132, R164). -/
def framesOf : List Xact → List (List Xact)
  | [] => []
  | x :: t =>
    match framesOf t with
    | (y :: ys) :: r => if follows x y && decide (ys.length < 3) then (x :: y :: ys) :: r else [x] :: (y :: ys) :: r
    | r => [x] :: r

/-- The release position of a SCHED line: its presentation plus XCHIP_RELEASE_OFFSET, carried into later periods and epochs: epoch
modulo 256, period, position (R102, R164). -/
def State.releaseAt (s : State) (born : Nat) : Nat × Nat × Nat :=
  let p := born - s.sched.start + s.act 0x1021 0
  let len := 256 * s.act 0x2001 0
  ((s.sched.epoch.toNat + p / len) % 256, p % len / 256, p % 256)

/-- The frame of some lines (R132). -/
def State.lineFrame (s : State) (x : Xact) (xs : List Xact) : Frame :=
  let k := x.win.getD (0, 0, 0, 0)
  let r := if x.sched then s.releaseAt x.born else (0, 0, 0)
  let atom := x.kind = .atomic || (x.kind = .acc && x.code = 3)
  { srcChip := chipFin s.chipId, srcHive := hiveFin x.hive, dstChip := chipFin k.1, win := fin32 k.2.2.1, winGen := BitVec.ofNat 8 k.2.2.2
    qos := fin8 x.qos, sched := x.sched, relEpoch := BitVec.ofNat 8 r.1, relPeriod := BitVec.ofNat 16 r.2.1, relPos := BitVec.ofNat 8 r.2.2
    op := x.code, count := 0, ga := BitVec.ofNat 48 (if atom then x.ga.toNat else x.ga.toNat / 64 * 64), layer := x.layer
    operator := x.operator, mask := x.mask, dstHive := hiveFin k.2.1, payload := xs.map (fun y => y.data) }

/-- The FXP takes a packet: its lines leave as frames, each line is kept until delivered, and completes at its sender (R130, R132,
R206, R415). -/
def State.fxpTake (s : State) (k : Nat) (ps : List Xact) : State :=
  let s := (framesOf ps).foldl (fun s g => match g with
    | x :: _ => s.sendFrame (frameKind x) (s.lineFrame x g)
    | [] => s) s
  ps.foldl (fun s x => (s.account (0xA10 + 2 * k) x.qos 64 x.sched).answerMesh { x with result := .ok, data := 0 } (uFx k) 2) s

/-! ### The router -/

/-- The key under which a link's occupation is kept. -/
def linkKey (h d : Nat) : Nat := 0x60000 + 8 * h + d

/-- Transactions a Hive's MIP holds (R64): those taken in and not yet granted. -/
def State.mipLoad (s : State) (h : Nat) : Nat :=
  (s.flight.filter (fun x => x.mesh && !x.isRun && x.half = .request && x.loc.unit = h && x.unit = h &&
    (x.stage = .mipHeld || x.stage = .ringStall || x.stage = .issueStall || x.stage = .arbiter || x.stage = .bankFirst))).length

/-- Requests that wait at the edge link of a T2Q. -/
def State.t2Load (s : State) (u : Nat) : Nat :=
  (s.flight.filter (fun x => x.stage = .edgeIngress && !x.isRun && x.half = .request && x.loc.unit = u)).length

/-- What a packet is bound for has room for it (R64, R112, R276, R335, R369, R415). -/
def State.exitRoom (s : State) (d : Nat) (x : Xact) : Bool :=
  if x.half = .answer ∨ x.purpose = .regAccess then true
  else if d = 4 then decide (s.mipLoad x.loc.unit < 256)
  else if d = 6 then
    if isT1 x.dest then s.t1Room x.dest x.qos x.sched
    else if x.dest < 268 then decide (s.t2Load x.dest < 256)
    else if x.dest < 272 then
      decide (s.retained (x.dest - 268) + 4 ≤ 16384) && s.mirror.st ≠ .fenced && (x.sched || !s.throttled 2)
    else true
  else true

/-- A packet of a Hive's ejection: requests are held in its MIP, answers reach their port (R15). -/
def State.eject (s : State) (x : Xact) : State :=
  match x.half with
  | .request => s.setX { x with stage := .mipHeld, unit := x.loc.unit, ready := s.clk.now + 1, since := s.clk.now }
  | .answer => s.setX { x with stage := .returned, ready := s.clk.now + 4, since := s.clk.now }

/-- A packet enters an edge unit. -/
def State.edgeIn (s : State) (ps : List Xact) : State :=
  match ps with
  | [] => s
  | x :: _ =>
    if x.half = .answer then ps.foldl (fun s y => s.setX { y with stage := .returned, ready := s.clk.now + 1, since := s.clk.now }) s
    else if 268 ≤ x.dest ∧ x.dest < 272 ∧ x.purpose ≠ .regAccess then s.fxpTake (x.dest - 268) ps
    else ps.foldl (fun s y => s.setX { y with stage := .edgeIngress, inp := 0, unit := x.dest, ready := s.clk.now + 1, since := s.clk.now }) s

/-- The input by which a packet going in direction d enters the next router (R93): from the west it came going east. -/
def inputOf (d : Nat) : Nat :=
  match d with
  | 0 => 0
  | 1 => 1
  | 2 => 2
  | _ => 3

/-- A packet leaves a router (R92, R93, R114). It counts 256 B for its position whatever it carries (DESIGN CHOICE, log entry 13). -/
def State.routerForward (s : State) (h d : Nat) : State :=
  let k := linkKey h d
  let now := s.clk.now
  let here := fun (x : Xact) => x.stage = .link && x.unit = h && x.dir = d && decide (x.ready ≤ now)
  if now < s.freeAt k then s
  else
    let s := s.linkMismatch h d here
    match s.linkPick h d (fun x => x.stage = .link && x.unit = h && x.dir = d) (fun x => here x && s.exitRoom d x) (fun x => x.inp) with
    | none => s
    | some x =>
      let r := 0x100 + 8 * h + d
      let be := s.bestEffort r x.qos
      let ps := packetOf (s.flight.filter (fun y => here y && s.exitRoom d y)) x
      let s := ((s.account r x.qos 256 x.sched).cadd 0x6700 (8 * h + (if x.sched then 4 else if be then 6 else 5)) 1).occupy k 1
      let s := if d = 4 then s else s.pev 6 1
      if d = 4 then ps.foldl (fun s y => s.eject y) s
      else if d = 6 then s.edgeIn ps
      else if d = 7 then ps.foldl (fun s y => s.setX (y.enter h 5 now)) s
      else ps.foldl (fun s y => s.setX (y.enter (stepDir h d) (inputOf d) now)) s

/-- A router forwards a packet from an output, SCHED in its flow's position or dynamic in a FREE one (R93). -/
def execRouterForward (h : HiveId) (d : Fin 8) (s : State) : Host.Outcome State Fault Refusal :=
  .next (if s.clk.rootOn && d.val ≠ 5 then s.routerForward h.val d.val else s)

end Sys2Proof.Machine
end

