-- ==== Sys2Proof/Machine/Windows.lean ====
section
/-!
DEFINITION. Windows.lean: windows and their commands (R134 to R140), the frames that carry lines, acknowledgements and credits between chips
(R130 to R140, R184, R185, R213), the release of SCHED frames (R102), and reports of the fabric (R130, R415, R445).
-/
namespace Sys2Proof.Machine

/-! ### Holders: what they do when a window closes or moves -/

/-- Returns credits of an allotment to its window (R136, R138). -/
def State.giveBack (s : State) (h : Nat) (k : Nat × Nat × Nat × Nat) (n base : Nat) : State :=
  if n = 0 then s
  else if k.1 = s.chipId then s.winReturn k.2.1 k.2.2.1 s.chipId h n
  else s.sendFrame 0x22 (s.ctlFrame h k.1 k.2.1 k.2.2.1 k.2.2.2 n base)

/-- A descriptor or job that passed issue by a cycle still sends lines toward a window (R138). -/
def State.sendsTo (s : State) (h : Nat) (k : Nat × Nat × Nat × Nat) (since : Nat) : Bool :=
  let old := fun (id : Nat) => s.hives.sb.any (fun e => e.id = id && decide (e.since ≤ since))
  (List.range 16).any (fun c =>
    let ch := Tbl.get s.chans {} (16 * h + c)
    let ctx := s.pv 0x8900 (16 * h + c)
    ch.descs.any (fun d => d.phase = .issued && old d.sb &&
      (let q := s.handle h ctx (fld d.w.toNat 270 255 % 64); hClass q = 6 && winOf q = k))) ||
  s.jobs.any (fun e => e.1 / 256 = h && old e.2.sb && e.2.place = some k)

/-- The allotments of a Hive at closing windows whose descriptors have sent their lines are returned (R138). -/
def State.closeReturn (s : State) (h : Nat) : State :=
  (s.wins.allots.filter (fun a => a.hive = h && a.st = .closing && a.credit ≠ 0)).foldl (fun s a =>
    let k := (a.chip, a.dhive, a.win, a.gen)
    if s.sendsTo h k a.since || !(s.creditStalled h k).isEmpty then s
    else (s.mapAllot (fun b => b = a) (fun b => { b with credit := 0 })).giveBack h k a.credit a.base) s

/-- A holder learns that a window closes (R138). -/
def State.closingAt (s : State) (h : Nat) (k : Nat × Nat × Nat × Nat) : State :=
  let s := s.mapAllot (fun a => a.hive = h && (a.chip, a.dhive, a.win, a.gen) = k && (a.st = .asked || a.st = .held))
    (fun a => { a with st := .closing, since := s.clk.now })
  (s.retryLines h).closeReturn h

/-- A holder learns that a window is revoked: unsent lines fault and the allotment goes back (R138). -/
def State.revokeAt (s : State) (h : Nat) (k : Nat × Nat × Nat × Nat) : State :=
  match s.allot h k.1 k.2.1 k.2.2.1 k.2.2.2 with
  | none => s
  | some a =>
    let s := s.mapAllot (fun b => b = a) (fun b => { b with credit := 0, st := .revoked })
    (s.retryLines h).giveBack h k a.credit a.base

/-- A source's marker has come: its lines need no hold any more (R139). -/
def State.markSource (s : State) (h chip hive w gen : Nat) : State :=
  let x := s.winx h w
  s.setWinx h w { x with
    sources := x.sources.filter (fun p => p ≠ (chip, hive))
    holders := x.holders.map (fun o => if o.chip = chip && o.hive = hive && wGen (s.win h w) = gen then { o with marked := true } else o) }

/-- The lines held for a source are applied once it is marked (R139). The credit each spent on arrival is given back first, since its
application spends it. -/
def State.releaseHeld (s : State) (h w chip hive : Nat) : State :=
  let mine := s.wins.held.filter (fun l => l.hive = h && l.win = w && l.frame.srcChip.val = chip && l.frame.srcHive.val = hive)
  let s := { s with wins := { s.wins with held := s.wins.held.filter (fun l => !mine.contains l) } }
  mine.foldl (fun s l =>
    let s := s.setWinx h w ((s.winx h w).mapHolder chip hive (fun o => { o with credit := o.credit + 1 }))
    s.applyFrame (s.frameX l.kind { l.frame with sched := false, relEpoch := 0 })) s

/-- A marker stands for the sources whose SWITCH_MARK has come: it takes effect once no forwarded line is under way to the window, so that forwarded
lines are applied before held ones (R139). -/
def State.markTry (s : State) (h w : Nat) : State :=
  if (s.winx h w).toMark.isEmpty || s.flight.any (fun x => x.purpose = .window (32 * h + w) && x.half = .request && x.forwarded) then s
  else
    let ms := (s.winx h w).toMark
    let s := s.setWinx h w { s.winx h w with toMark := [] }
    ms.foldl (fun s m => (s.markSource h m.1 m.2.1 w m.2.2).releaseHeld h w m.1 m.2.1) s

/-- SWITCH_MARK for a source comes to the new window (R139). -/
def State.markAt (s : State) (h w chip hive gen : Nat) : State :=
  (s.setWinx h w { s.winx h w with toMark := (s.winx h w).toMark ++ [(chip, hive, gen)] }).markTry h w

/-! ### Forwarding (R139) -/

/-- The code under which a forwarder keeps a line it forwarded for a source of its old window. -/
def fwdCode (w chip hive : Nat) : Nat := 8 + (w * 1024 + chip) * 256 + hive

/-- The checks of a forwarded line: its source is judged by the range, the forwarder by its credit (R134, R137, R139). -/
def State.fwdCheck (s : State) (h w gen srcChip chip hive ga : Nat) : Option Nat :=
  let q := s.win h w
  let off : Int := (ga : Int) - winGa h q
  if wState q = 0 ∨ wGen q ≠ gen then some 0x20
  else if off < 0 ∨ (64 * wExtent q : Int) ≤ off then some 0x21
  else if srcChip < wLo q ∨ wHi q < srcChip then some 0x22
  else match (s.winx h w).holder chip hive with
    | some o => if o.credit = 0 then some 0x22 else none
    | none => some 0x22

/-- Applies or discards a forwarded line at its window; the forwarder spends the credit (R137, R139). -/
def State.applyForwarded (s : State) (y : Xact) : State :=
  let f := s.earlyFrame y
  let h := frameHive f
  let w := f.win.val
  let chip := f.relPeriod.toNat
  let hive := f.relPos.toNat
  let k := winKind (s.win h w) y.kind f.op.toNat
  match s.fwdCheck h w f.winGen.toNat f.srcChip.val chip hive f.ga.toNat with
  | some c => (s.discard h c (wOwner (s.win h w)) (kindByte y.kind) f).rackCount h w chip hive
  | none => (s.spend h w chip hive).applyLine h w { y with kind := k.1, code := BitVec.ofNat 4 k.2, srcChip := some (chip, hive) }

/-- Sends one line of an old window on to the new one, with a credit the old Hive holds there (R139): over the mesh, or in a frame to its chip; none
when it holds none. -/
def State.forwardLine (s : State) (h w : Nat) (kind : AccKind) (f : Frame) : Option State :=
  match s.fwdPlace h w with
  | none => none
  | some k =>
    match s.allot h k.1 k.2.1 k.2.2.1 k.2.2.2 with
    | none => none
    | some a =>
      if a.credit = 0 then none
      else
        let off := f.ga.toNat - winGa h (s.win h w)
        let g := { f with
          dstChip := chipFin k.1, win := fin32 k.2.2.1, winGen := BitVec.ofNat 8 k.2.2.2, sched := false, relEpoch := 1
          relPeriod := BitVec.ofNat 16 s.chipId, relPos := BitVec.ofNat 8 h, ga := BitVec.ofNat 48 (a.base + off), dstHive := hiveFin k.2.1 }
        let u := sendKey h k.1 k.2.1 k.2.2.1
        let s := s.mapAllot (fun b => b = a) (fun b => { b with credit := b.credit - 1 })
        let us := Tbl.get s.wins.unack [] u ++ [fwdCode w f.srcChip.val f.srcHive.val]
        let s := { s with wins := { s.wins with unack := Tbl.set s.wins.unack [] u us } }
        some (if k.1 = s.chipId then s.addX { s.frameX kind g with stage := .meshIf, unit := h, grp := s.nextId, ready := s.clk.now + 1 }
          else s.sendFrame (kindByte kind) g)

/-- The old Hive asks for credits at the new window. -/
def State.fwdAsk (s : State) (h w : Nat) : State :=
  match s.fwdPlace h w with
  | some k => s.askCredits h k 64 (winGa h (s.win h w))
  | none => s

/-- A line of a source is on its way to a window of this Hive (R139). -/
def State.comesTo (s : State) (h w chip hive : Nat) : Bool :=
  s.flight.any (fun x => x.half = .request && x.stage ≠ .issueStall &&
    ((x.purpose = .window (32 * h + w) && x.srcChip = some (chip, hive) && x.win.isSome) ||
     (x.srcChip.isNone && chip = s.chipId && x.hive = hive && (match x.win with
      | some (c, d, v, _) => c = s.chipId && d = h && v = w
      | none => false))))

/-- An old window forwards the lines it holds, and marks each source whose REDIRECT_ACK has come and whose lines have all gone
(R139). -/
def State.fwdPump : Nat → State → Nat → Nat → State
  | 0, s, _, _ => s
  | n + 1, s, h, w =>
    match s.wins.held.find? (fun l => l.hive = h && l.win = w) with
    | none =>
      let x : WinX := s.winx h w
      let s : State := match s.fwdPlace h w with
        | none => s
        | some k =>
          (x.holders.filter (fun (o : Holder) => o.acked && !o.marked && !s.comesTo h w o.chip o.hive)).foldl (fun (s : State) (o : Holder) =>
            let s := s.setWinx h w ((s.winx h w).mapHolder o.chip o.hive (fun p => { p with marked := true }))
            if k.1 = s.chipId then s.markAt k.2.1 k.2.2.1 o.chip o.hive k.2.2.2
            else s.sendFrame 0x27 { s.ctlFrame o.hive k.1 k.2.1 k.2.2.1 k.2.2.2 0 (s.winx h w).newBase with srcChip := chipFin o.chip }) s
      s.winTry h w
    | some l =>
      match s.forwardLine h w l.kind l.frame with
      | some t => State.fwdPump n { t with wins := { t.wins with held := t.wins.held.erase l } } h w
      | none => s.fwdAsk h w

/-- Holds a line at a window. -/
def State.holdLine (s : State) (h w : Nat) (kind : AccKind) (f : Frame) : State :=
  { s with wins := { s.wins with held := s.wins.held ++ [{ hive := h, win := w, kind := kind, frame := f }] } }

/-- The old window receives a source's REDIRECT_ACK, which returns its allotment (R139). -/
def State.redirectAckAt (s : State) (h w chip hive n : Nat) : State :=
  let x := (s.winx h w).mapHolder chip hive (fun o => { o with credit := o.credit - n, acked := true })
  State.fwdPump 2000 (s.setWinx h w { x with free := x.free + n }) h w

/-- A holder moves its traffic to the new window: it returns its old allotment with REDIRECT_ACK and asks for credits at the new
place, whose first line is at `nbase`, as a redirected source (R139, R140). -/
def State.redirectAt (s : State) (h : Nat) (k new : Nat × Nat × Nat × Nat) (nbase : Nat) : State :=
  match s.allot h k.1 k.2.1 k.2.2.1 k.2.2.2 with
  | none => s
  | some a =>
    let s := s.mapAllot (fun b => b = a) (fun b => { b with credit := 0, st := .redirected, next := some new })
    let s := if (s.allot h new.1 new.2.1 new.2.2.1 new.2.2.2).isSome then s
      else
        let b : Allot := { hive := h, chip := new.1, dhive := new.2.1, win := new.2.2.1, gen := new.2.2.2, credit := 0, base := nbase,
                           extent := 0, st := .asked }
        { s with wins := { s.wins with allots := s.wins.allots ++ [b] } }
    let n := max 1 (s.creditStalled h k).length
    let s := if new.1 = s.chipId then
        let x := s.winx new.2.1 new.2.2.1
        let s := s.setWinx new.2.1 new.2.2.1 { x with sources := x.sources ++ [(s.chipId, h)] }
        s.askCredits h new n nbase
      else s.sendFrame 0x20 { s.ctlFrame h new.1 new.2.1 new.2.2.1 new.2.2.2 n nbase with op := 1 }
    let s := if k.1 = s.chipId then s.redirectAckAt k.2.1 k.2.2.1 s.chipId h a.credit
      else s.sendFrame 0x26 (s.ctlFrame h k.1 k.2.1 k.2.2.1 k.2.2.2 a.credit a.base)
    s.retryLines h

/-- A REDIRECT frame's mask carries the new place (R139): chip, Hive, window, generation, and the line index of its first line. -/
def packPlace (k : Nat × Nat × Nat × Nat) (base : Nat) : Dword :=
  dwordOf [(9, 0, k.1), (17, 10, k.2.1), (22, 18, k.2.2.1), (30, 23, k.2.2.2), (46, 31, base % 0x400000 / 64)]

/-- The place a mask packs. -/
def unpackPlace (m : Dword) : Nat × Nat × Nat × Nat := (fld m.toNat 9 0, fld m.toNat 17 10, fld m.toNat 22 18, fld m.toNat 30 23)

/-- The first line of the place a mask packs. -/
def unpackBase (m : Dword) : Nat := fld m.toNat 17 10 * 0x400000 + 64 * fld m.toNat 46 31

/-- The old window knows the new window's generation and first line: REDIRECT goes to each holder (R139). -/
def State.sendRedirects (s : State) (h w gen nbase : Nat) : State :=
  let q := s.win h w
  let new := (wFwdChip q, wFwdHive q, wFwdWin q, gen)
  let hs := (s.winx h w).holders
  let s := s.setWinx h w { s.winx h w with newGen := some gen, newBase := nbase }
  let s := hs.foldl (fun s o =>
    if o.chip = s.chipId then s.redirectAt o.hive (s.chipId, h, w, wGen q) new nbase
    else s.sendFrame 0x25 { s.ctlFrame h o.chip o.hive w (wGen q) 0 (winGa h q) with mask := packPlace new nbase }) s
  State.fwdPump 2000 s h w

/-! ### WIN_OP (R135, R138, R139) -/

/-- The entry staged for WIN_OP (R135). -/
def State.winStaged (s : State) (h c : Nat) : Quad :=
  BitVec.ofNat 128 ((s.page h c 0x220).toNat + (s.page h c 0x228).toNat * 2^64)

/-- A window of this chip may take another's traffic: it is another window, OPEN, and allows the same sources (R139). -/
def State.mayForward (s : State) (h w : Nat) (q st : Quad) : Bool :=
  let t := s.win (wFwdHive st) (wFwdWin st)
  wFwdChip st ≠ s.chipId || ((wFwdHive st, wFwdWin st) ≠ (h, w) && wState t = 1 && decide (wLo t ≤ wLo q) && decide (wHi q ≤ wHi t))

/-- WIN_OP is refused (R135, R139). -/
def State.winRefused (s : State) (h c w op : Nat) (st : Quad) : Bool :=
  let q := s.win h w
  if op = 1 then
    let lo := wBase st
    let hi := wBase st + wExtent st
    wState q ≠ 0 || decide ((768 - s.poolC) * 64 < hi) || wCredits st = 0 ||
      (List.range 64).any (fun b => (decide (64 ≤ hi - lo) || (List.range (hi - lo)).any (fun i => (lo + i) % 64 = b)) && (s.ownerOf h b).owner ≠ c)
  else wState q ≠ 1 || wOwner q ≠ c || (op = 4 && !s.mayForward h w q st)

/-- Performs an accepted WIN_OP; `jseq` is its journal entry. OPEN is done at once; the others when the window is CLOSED. The CREDIT_REQ by which a
FORWARD to another chip asks for its first credits knows neither the generation nor the first line of that window and carries 0 for both (DESIGN
CHOICE, log entry 78). -/
def State.winEffect (s : State) (h c w op : Nat) (st : Quad) (jseq : Option Nat) : State :=
  let q := s.win h w
  let now := s.clk.now
  if op = 1 then
    let e := setFld (setFld (setFld st.toNat 47 45 1) 51 49 c) 63 56 (wGen q)
    let e := setFld (setFld e 104 100 0) 44 32 0
    let s := (s.setWin h w (BitVec.ofNat 128 e)).setWinx h w { free := wCredits st, ctlCtx := c, since := now }
    let s := s.winChange h w 0 1 now
    match jseq with
    | some n => s.jChange n jDone 0 (.win (32 * h + w) op)
    | none => s.setStatus h c 0x230 2 0
  else
    let nst := if op = 2 then 2 else if op = 3 then 3 else 4
    let e := if op = 4 then setFld (setFld (setFld q.toNat 127 118 (wFwdChip st)) 117 110 (wFwdHive st)) 109 105 (wFwdWin st) else q.toNat
    let s := s.winChange h w (wState q) nst (s.winx h w).since
    let s := s.setWin h w (BitVec.ofNat 128 (setFld e 47 45 nst))
    let s := s.setWinx h w { s.winx h w with since := now, sinceTs := s.clk.ts.toNat, tmo := s.pv 0x1012 0, ctlCtx := c, jseq := jseq }
    let k := (s.chipId, h, w, wGen q)
    let hs := (s.winx h w).holders
    if op = 4 then
      let t := (wFwdChip st, wFwdHive st, wFwdWin st)
      if t.1 = s.chipId then s.sendRedirects h w (wGen (s.win t.2.1 t.2.2)) (winGa t.2.1 (s.win t.2.1 t.2.2))
      else s.sendFrame 0x20 (s.ctlFrame h t.1 t.2.1 t.2.2 0 64 0)
    else
      let s := hs.foldl (fun s o =>
        if o.chip = s.chipId then (if op = 2 then s.closingAt o.hive k else s.revokeAt o.hive k)
        else s.sendFrame (if op = 2 then 0x23 else 0x24) (s.ctlFrame h o.chip o.hive w (wGen q) 0 (winGa h q))) s
      s.winTry h w

/-- The JOURNAL flag of a context (R340). -/
def State.cqJournal (s : State) (h c : Nat) : Bool := bit (s.page h c 0x380).toNat 0

/-- WIN_OP with ops 1 to 4: ignored while one drains; journaled where the flag says so (R135, R340, R341). -/
def State.winOp (s : State) (h c w op : Nat) : State :=
  if !s.ctlOpen h || s.status h c 0x230 = 1 then s
  else
    let s := s.wakeHive h
    let st := s.winStaged h c
    let s := s.setStatus h c 0x230 1 w
    if s.cqJournal h c then
      let bytes := natBytes 16 st.toNat
      let cmd : JCmd := { kind := 3, hive := h, ctx := c, crc := (crc32 bytes).toNat, arg := pack [(319, 192, st.toNat), (191, 188, op), (187, 179, w)] }
      if s.jOpen then s.jAccept cmd (.win (32 * h + w) op)
      else { s with journal := { s.journal with waiting := s.journal.waiting ++ [(cmd.arg, h, c, .win (32 * h + w) op)] } }
    else if s.winRefused h c w op st then s.setStatus h c 0x230 4 w
    else s.winEffect h c w op st none

/-- WIN_OP OPEN. -/
def execWinOpen (h : HiveId) (c : CtxId) (w : Fin 32) (s : State) : Host.Outcome State Fault Refusal :=
  .next (s.cmd h.val c.val (.winOpen h c w) (fun s => s.winOp h.val c.val w.val 1))
/-- WIN_OP CLOSE. -/
def execWinClose (h : HiveId) (c : CtxId) (w : Fin 32) (s : State) : Host.Outcome State Fault Refusal :=
  .next (s.cmd h.val c.val (.winClose h c w) (fun s => s.winOp h.val c.val w.val 2))
/-- WIN_OP REVOKE. -/
def execWinRevoke (h : HiveId) (c : CtxId) (w : Fin 32) (s : State) : Host.Outcome State Fault Refusal :=
  .next (s.cmd h.val c.val (.winRevoke h c w) (fun s => s.winOp h.val c.val w.val 3))
/-- WIN_OP FORWARD. -/
def execWinForward (h : HiveId) (c : CtxId) (w : Fin 32) (s : State) : Host.Outcome State Fault Refusal :=
  .next (s.cmd h.val c.val (.winForward h c w) (fun s => s.winOp h.val c.val w.val 4))

/-- WIN_OP READ copies the entry into the staging registers (R135). -/
def execWinRead (h : HiveId) (c : CtxId) (w : Fin 32) (s : State) : Host.Outcome State Fault Refusal :=
  .next (s.cmd h.val c.val (.winRead h c w) (fun s =>
    if !s.ctlOpen h.val || s.status h.val c.val 0x230 = 1 then s
    else
      let q := (s.win h.val w.val).toNat
      let s := s.wakeHive h.val
      ((s.setPage h.val c.val 0x220 (BitVec.ofNat 64 (q % 2^64))).setPage h.val c.val 0x228 (BitVec.ofNat 64 (q / 2^64))).setStatus h.val c.val 0x230 2 w.val))

/-- A closing window reaches WIN_CLOSE_TIMEOUT: it closes anyway, with a record per holder that did not return (R138, R140). Time counts in
the timestamp's nanoseconds. -/
def execWinCloseTimeout (h : HiveId) (w : Fin 32) (s : State) : Host.Outcome State Fault Refusal :=
  .next (
    let q := s.win h.val w.val
    let x := s.winx h.val w.val
    if s.clk.rootOn && decide (2 ≤ wState q) && decide (x.sinceTs + usNs * x.tmo ≤ s.clk.ts.toNat) then
      let late := x.holders.filter (fun o => if wState q = 4 then !o.marked else o.credit ≠ 0)
      let s := late.foldl (fun s o =>
        let who := pack [(9, 0, o.chip), (18, 10, o.hive), (19, 19, 1)]
        s.faultAt h.val (genRec { code := 0x24, unit := h.val, ctx := wOwner q, obj := w.val, aux := who, count := o.credit } s.clk.ts)) s
      let s := { s with wins := { s.wins with held := s.wins.held.filter (fun l => !(l.hive = h.val && l.win = w.val)) } }
      s.winClosed h.val w.val
    else s)

/-! ### Frames with lines -/

/-- A frame that arrives at FXP k is counted and recorded (R348, R415); in REPLAY mode frames come from the buffer (R350). -/
def State.frameSeen (s : State) (k kind : Nat) (f : Frame) : State :=
  let key := fxKey k f.srcChip.val
  let s := { s with fxps := { s.fxps with
    recvCnt := Tbl.set s.fxps.recvCnt 0 key (Tbl.get s.fxps.recvCnt 0 key + 1)
    lost := without s.fxps.lost f.srcChip.val } }
  (s.pev 9 f.payload.length).recInput 3 k 0 (frameBytes kind f ++ [BitVec.ofNat 8 f.dstHive.val]) true

/-- A frame is taken: the FXP runs and the block does not replay (R350, R412, R445). -/
def State.frameOpen (s : State) (f : Frame) : Bool := s.clk.rootOn && s.mgmt.phase = 7 && !s.replaying && f.dstChip.val = s.chipId

/-- A line of a frame comes to the Hive its address names (R134, R137, R139, R140): it is applied, held for a marker, or forwarded. -/
def State.frameAt (s : State) (y : Xact) : State :=
  let f := s.earlyFrame y
  let h := frameHive f
  let w := f.win.val
  let q := s.win h w
  let chip := f.srcChip.val
  let hive := f.srcHive.val
  let hold := fun (_ : Unit) =>
    match s.lineCheck h w f.winGen.toNat chip hive f.ga.toNat with
    | some c => (s.discard h c (wOwner q) (kindByte y.kind) f).rackCount h w chip hive
    | none => (s.spend h w chip hive).holdLine h w y.kind f
  if y.forwarded then s.applyForwarded y
  else if wState q = 4 && wGen q = f.winGen.toNat then State.fwdPump 2000 (hold ()) h w
  else if wState q = 1 && (s.winx h w).sources.contains (chip, hive) then hold ()
  else s.applyFrame y

/-- How a SCHED frame's release position stands: `some n` when it is reached or passed by n cycles; none while it is ahead. The second
part tells that its epoch has ended (R102); the lateness then counts from the last cycle of the epochs that have ended. -/
def State.releaseDue (s : State) (e p pos : Nat) : Option (Nat × Bool) :=
  let d := (e + 256 - s.sched.epoch.toNat % 256) % 256
  let at_ := s.sched.start + 256 * p + pos
  if 128 ≤ d then some (s.clk.now + 1 - s.sched.start, true)
  else if d = 0 ∧ s.sched.running then (if at_ ≤ s.clk.now then some (s.clk.now - at_, false) else none)
  else if d = 0 ∧ 0 < s.sched.epoch.toNat then some (max 1 (s.clk.now - at_), true)
  else none

/-- The release position a line's tag names: epoch, period, position (R102). -/
def Xact.release (x : Xact) : Nat × Nat × Nat := (fld x.tag 7 0, fld x.tag 23 8, fld x.tag 31 24)

/-- Lines in the early-release buffer of an FXP (R102). -/
def State.early (s : State) (k : Nat) : List Xact := s.flight.filter (fun x => x.stage = .fxpRelease && x.unit = k)

/-- The router at which FXP k's lines enter the mesh toward a Hive (R11, R12). -/
def fxpRouter (k h : Nat) : Nat := srcRouter (uFx k) h

/-- Lines in the ingress buffer of an FXP (R445). -/
def State.ingress (s : State) (k : Nat) : List Xact :=
  s.flight.filter (fun x => x.stage = .link && x.dir = 7 && x.srcChip.isSome && x.half = .request && x.unit = fxpRouter k x.dest)

/-- A line leaves the FXP into its ingress buffer and so into the mesh (R12, R102, R445): a SCHED one on the flow that the edge-in wheel names at its
release position. -/
def State.fxpInject (s : State) (k : Nat) (x : Xact) : State :=
  let r := fxpRouter k x.dest
  s.setX { x with stage := .link, unit := r, dir := 7, inp := 5, ready := s.clk.now, since := s.clk.now,
                  flow := if x.sched then BitVec.ofNat 12 (s.linkWheel r 7) else 0 }

/-- A late line is released at once, as an expired dynamic request, with SLOT_MISS at its FXP (R99 to R102). -/
def State.remoteLate (s : State) (k cause late : Nat) (x : Xact) : State × Xact :=
  let w := match x.win with
    | some p => p.2.2.1
    | none => 0
  let chip := match x.srcChip with
    | some p => p.1
    | none => 0
  (s.slotMiss (512 + k) cause late (0xA10 + 2 * k + 1) x.dest (wOwner (s.win x.dest w)) chip x.layer.toNat x.operator.toNat (some x.release),
   x.missed s.clk.now s.clk.count0)

/-- A frame of lines arrives at FXP k (R102, R137, R184, R185, R445): its lines enter the ingress buffer; a SCHED one waits for its release position, and a
later one of its source stays behind it. A full early-release or ingress buffer takes no frame. -/
def State.frameIn (s : State) (k : Nat) (knd : AccKind) (kind : Nat) (f : Frame) : State :=
  if !s.frameOpen f then s
  else
    let n := f.payload.length
    let behind := (s.early k).any (fun x => x.srcChip = some (f.srcChip.val, f.srcHive.val))
    let due := if f.sched && s.determ then s.releaseDue f.relEpoch.toNat f.relPeriod.toNat f.relPos.toNat else some (0, false)
    let early := due.isNone || behind
    if (early && decide (256 < (s.early k).length + n)) || (!early && decide (1024 < (s.ingress k).length + n)) then s
    else
      let s := (s.frameSeen k kind f).account (0xA10 + 2 * k + 1) f.qos.val (64 * n) f.sched
      let grp := s.nextId
      (frameLines f knd).foldl (fun s g =>
        let m := s.nextId
        let t := s.addX { s.frameX knd g with stage := .fxpRelease, unit := k, grp := grp }
        match t.xact m with
        | some x =>
          if early then t
          else
            let late := (due.getD (0, false)).1
            if x.sched && late ≠ 0 then
              let p := t.remoteLate k 7 late x
              p.1.fxpInject k p.2
            else t.fxpInject k x
        | none => t) s

/-- A cross-chip SCHED write reaches its release position, or a line behind one follows, and leaves the buffer while the ingress buffer has room
(R102). A line whose epoch ended before its position is late with cause 9 (R100). -/
def execFxpSchedRelease (x : Nat) (s : State) : Host.Outcome State Fault Refusal :=
  .next (match s.xact x with
    | some y =>
      let k := y.unit
      let ahead := s.flight.any (fun z => z.stage = .fxpRelease && z.unit = k && z.srcChip = y.srcChip && decide (z.seq < y.seq))
      if !s.clk.rootOn || y.stage ≠ .fxpRelease || ahead || decide (1024 ≤ (s.ingress k).length) then s
      else match (if y.sched then s.releaseDue y.release.1 y.release.2.1 y.release.2.2 else some (0, false)) with
        | none => s
        | some (late, excess) =>
          if y.sched && late ≠ 0 then
            let p := s.remoteLate k (if excess then 9 else 7) late y
            p.1.fxpInject k p.2
          else s.fxpInject k y
    | none => s)

/-- An RWRITE frame (R137). -/
def execRwriteRecv (k : FxpId) (f : Frame) (s : State) : Host.Outcome State Fault Refusal := .next (s.frameIn k.val .write 0x01 f)
/-- An RACC frame (R185). -/
def execRaccRecv (k : FxpId) (f : Frame) (s : State) : Host.Outcome State Fault Refusal := .next (s.frameIn k.val .acc 0x02 f)
/-- An RATOMIC frame (R133). -/
def execRatomicRecv (k : FxpId) (f : Frame) (s : State) : Host.Outcome State Fault Refusal := .next (s.frameIn k.val .atomic 0x03 f)

/-! ### Control frames -/

/-- The key of the window a control frame from its Hive names. -/
def framePlace (f : Frame) : Nat × Nat × Nat × Nat := (f.srcChip.val, f.srcHive.val, f.win.val, f.winGen.toNat)

/-- Takes a control frame. -/
def State.ctlIn (s : State) (k : FxpId) (kind : Nat) (f : Frame) (go : State → State) : Host.Outcome State Fault Refusal :=
  .next (if s.frameOpen f then go (s.frameSeen k.val kind f) else s)

/-- The record of a line that its window did not apply, at the Hive that sent it (R48, R184): code, IDs and address as the RACK tells them, the context
that sent the line, and the chip, Hive and window. -/
def State.unappliedAt (s : State) (f : Frame) : State :=
  let h := f.dstHive.val
  let q := Tbl.get s.wins.unack [] (sendKey h f.srcChip.val f.srcHive.val f.win.val)
  let c := q.getD (f.count.toNat - 1) 0
  let r := genRec { code := f.relEpoch.toNat, unit := h, ctx := c, port := 4, obj := f.win.val, layer := f.layer.toNat, oper := f.operator.toNat,
                    aux := pack [(9, 0, f.srcChip.val), (18, 10, f.srcHive.val), (19, 19, 1)], ga := f.mask.toNat } s.clk.ts
  if f.relEpoch = 0 ∨ 8 ≤ c then s else s.faultAccess h h c r

/-- A RACK: credits return and fence counts advance (R133, R136, R214); a line that its window did not apply is recorded here too (R184). -/
def execRackRecv (k : FxpId) (f : Frame) (s : State) : Host.Outcome State Fault Refusal :=
  s.ctlIn k 0x10 f (fun s =>
    let h := f.dstHive.val
    (((s.unappliedAt f).rackAt h f.srcChip.val f.srcHive.val f.win.val f.count.toNat).retryLines h).closeReturn h)

/-- A credit request at its window (R136, R139, R140); op 1 marks a source that a REDIRECT brought. It is answered whatever generation it names, and the
extent of the grant travels in its mask (DESIGN CHOICE, log entries 79 and 80: R136 and R137 leave both open). -/
def execCreditReqRecv (k : FxpId) (f : Frame) (s : State) : Host.Outcome State Fault Refusal :=
  s.ctlIn k 0x20 f (fun s =>
    let h := f.dstHive.val
    let w := f.win.val
    let chip := f.srcChip.val
    let hive := f.srcHive.val
    let s := if f.op = 1 then
        let x := s.winx h w
        if x.sources.contains (chip, hive) || (match x.holder chip hive with
          | some o => o.marked
          | none => false) then s
        else s.setWinx h w { x with sources := x.sources ++ [(chip, hive)] }
      else s
    let p := s.creditAnswer h w chip hive f.count.toNat
    let s := p.1
    let q := s.win h w
    let c := fun (n : Nat) => s.ctlFrame h chip hive w (wGen q) n (winGa h q)
    match p.2 with
    | .grant g => s.sendFrame 0x21 { c g with mask := BitVec.ofNat 64 (wExtent q) }
    | .closing => s.sendFrame 0x23 (c 0)
    | .redirect =>
      let s := s.noteHolder h w chip hive
      match s.fwdPlace h w with
      | some n => s.sendFrame 0x25 { c 0 with mask := packPlace n (s.winx h w).newBase }
      | none => s)

/-- Windows of a Hive that forward to a place whose generation they do not know yet. -/
def State.awaiting (s : State) (h chip dhive win : Nat) : List Nat :=
  (List.range 32).filter (fun w =>
    let q := s.win h w
    wState q = 4 && (s.winx h w).newGen.isNone && wFwdChip q = chip && wFwdHive q = dhive && wFwdWin q = win)

/-- A credit grant at its sender (R136, R137): stalled lines may be sent, and a forwarding window learns its target's generation. -/
def execCreditGrantRecv (k : FxpId) (f : Frame) (s : State) : Host.Outcome State Fault Refusal :=
  s.ctlIn k 0x21 f (fun s =>
    let h := f.dstHive.val
    let p := (framePlace f)
    let ws := s.awaiting h p.1 p.2.1 p.2.2.1
    let s := if ws.isEmpty || (s.allot h p.1 p.2.1 p.2.2.1 p.2.2.2).isSome then s
      else
        let a : Allot := { hive := h, chip := p.1, dhive := p.2.1, win := p.2.2.1, gen := p.2.2.2, credit := 0, base := f.ga.toNat, extent := f.mask.toNat,
                           st := .asked }
        { s with wins := { s.wins with allots := s.wins.allots ++ [a] } }
    let s := s.grantAt h p f.count.toNat f.ga.toNat f.mask.toNat
    let s := ws.foldl (fun s w => s.sendRedirects h w p.2.2.2 f.ga.toNat) s
    let s := (List.range 32).foldl (fun s w => if wState (s.win h w) = 4 && s.fwdPlace h w = some p then State.fwdPump 2000 s h w else s) s
    s.retryLines h)

/-- A returned allotment at its window (R136, R138). -/
def execCreditReturnRecv (k : FxpId) (f : Frame) (s : State) : Host.Outcome State Fault Refusal :=
  s.ctlIn k 0x22 f (fun s =>
    if wGen (s.win f.dstHive.val f.win.val) = f.winGen.toNat then
      s.winReturn f.dstHive.val f.win.val f.srcChip.val f.srcHive.val f.count.toNat
    else s)

/-- CLOSING at a holder (R138). -/
def execClosingRecv (k : FxpId) (f : Frame) (s : State) : Host.Outcome State Fault Refusal :=
  s.ctlIn k 0x23 f (fun s => s.closingAt f.dstHive.val (framePlace f))

/-- REVOKE at a holder (R138). -/
def execRevokeRecv (k : FxpId) (f : Frame) (s : State) : Host.Outcome State Fault Refusal :=
  s.ctlIn k 0x24 f (fun s => s.revokeAt f.dstHive.val (framePlace f))

/-- REDIRECT at a holder (R139). -/
def execRedirectRecv (k : FxpId) (f : Frame) (s : State) : Host.Outcome State Fault Refusal :=
  s.ctlIn k 0x25 f (fun s => s.redirectAt f.dstHive.val (framePlace f) (unpackPlace f.mask) (unpackBase f.mask))

/-- REDIRECT_ACK at the old window (R139). -/
def execRedirectAckRecv (k : FxpId) (f : Frame) (s : State) : Host.Outcome State Fault Refusal :=
  s.ctlIn k 0x26 f (fun s => s.redirectAckAt f.dstHive.val f.win.val f.srcChip.val f.srcHive.val f.count.toNat)

/-- SWITCH_MARK at the new window: the source's held lines are applied (R139). -/
def execSwitchMarkRecv (k : FxpId) (f : Frame) (s : State) : Host.Outcome State Fault Refusal :=
  s.ctlIn k 0x27 f (fun s => s.markAt f.dstHive.val f.win.val f.srcChip.val f.srcHive.val f.winGen.toNat)

/-- 256 cycles have passed with unacknowledged lines, or 64 lines stand: a RACK goes out for every window of the Hive to that source
(R133). -/
def execRackTimer (h : HiveId) (chip : ChipId) (hive : HiveId) (s : State) : Host.Outcome State Fault Refusal :=
  .next (
    if !s.clk.rootOn then s
    else (List.range 32).foldl (fun s w =>
      let r := Tbl.get s.wins.racks {} (rackKey h.val w chip.val hive.val)
      if r.lines ≠ 0 && (decide (64 ≤ r.lines) || decide (r.since + 256 ≤ s.clk.now)) then s.rackSend h.val w chip.val hive.val else s) s)

/-! ### MIP_INBOUND -/

/-- A line that came over the mesh through a window of this chip: the window may have closed meanwhile, hold the direct lines of a source whose marker has
not come, or move on; then it is refused, kept in the MIP, or handed on to the new place and complete for its issuer (R137, R139, R140). -/
def State.windowInbound (s : State) (x : Xact) : Option State :=
  match x.win with
  | some (c, h, w, g) =>
    if c ≠ s.chipId || x.srcChip.isSome then none
    else if wState (s.win h w) = 0 || wGen (s.win h w) ≠ g then
      some ((s.discard h 0x20 x.ctx (kindByte x.kind) (s.lineFrame x [x])).answer { x with win := none, result := .refused 0x20 } h 1)
    else if wState (s.win h w) = 1 && (s.winx h w).sources.contains (c, x.hive) then some s
    else if wState (s.win h w) = 4 then
      let f : Frame := { s.lineFrame x [x] with sched := false, relEpoch := 0 }
      let s := s.answer { x with win := none } h 4
      some (State.fwdPump 2000 (s.holdLine h w x.kind f) h w)
    else none
  | none => none

/-- A line of another chip, or one forwarded inside this chip, comes to its window; the lines of a source come in their order (R139, R212). -/
def State.frameInbound (s : State) (y : Xact) : State :=
  let behind := s.flight.any (fun z => z.purpose = y.purpose && z.srcChip = y.srcChip && z.win.isSome && decide (z.seq < y.seq) && z.half = .request)
  if behind then s
  else
    let h := y.dest
    let w := (y.win.getD (0, 0, 0, 0)).2.2.1
    (((s.dropX y.id).frameAt y).winTry h w).markTry h w

/-- A request that came over the mesh is taken into the target's MIP and checked there (R64). -/
def execMipInbound (x : Nat) (s : State) : Host.Outcome State Fault Refusal :=
  .next (match s.xact x with
    | some y =>
      if s.clk.rootOn && y.stage = .mipHeld && !y.isFill && decide (y.ready ≤ s.clk.now) then
        if y.srcChip.isSome then s.frameInbound y
        else match s.windowInbound y with
          | some t => t
          | none => s.mipCheck y
      else s
    | none => s)

/-! ### Reports of the fabric -/

/-- Delivery up to a send index: retransmit entries are released (R415, R445). -/
def execFxDelivered (k : FxpId) (chip : ChipId) (idx : BitVec 48) (s : State) : Host.Outcome State Fault Refusal :=
  .next (
    if !s.clk.rootOn then s
    else
      let mine := chip.val = s.pv 0x5000 0 && s.fxpOf chip.val = k.val
      { s with fxps := { s.fxps with
        retain := s.fxps.retain.filter (fun r => !(r.fxp = k.val && r.chip = chip.val && decide (r.idx ≤ idx.toNat)))
        mretain := if mine then s.fxps.mretain.filter (fun r => decide (idx.toNat < r.idx)) else s.fxps.mretain } })

end Sys2Proof.Machine
end

