-- ==== Sys2Proof/Machine/Handles.lean ====
section
/-!
DEFINITION. Handles.lean: handle loads and drops (R121 to R125), the hierarchy mode and the pool (R43 to R45), CHIP_ID (R120), and the
lines of memory as the block's own engines read and write them.
-/
namespace Sys2Proof.Machine

/-! ### Lines of memory -/

/-- The line a row holds, and whether a granule of it is uncorrectable (R29, R280, R301). -/
def State.peekRow (s : State) (kind h bank row : Nat) : Line × Bool :=
  let r := s.rowAt (s.rowPlace kind h bank row)
  if r.valid then
    let x := readGrans r allGrans
    (x.data, x.bad || s.rowPz kind h bank row)
  else (0, false)

/-- Where a tier-2 line is served: its slot in tier 1 while its block is promoted (R216, R276). -/
def State.servedAt (s : State) (ga : Nat) : Loc :=
  match s.locate ga with
  | .t2 k raw =>
    let e := s.placeEnt k ((ga - t2Base) / 65536 % 6291456)
    if plProm e then s.locate (s.promoGa (plSlot e) ga) else .t2 k raw
  | l => l

/-- The valid cells of the row at an address are set alike before an engine of the block reads or writes it (R28). -/
def State.alignRow (s : State) (ga : Nat) : State :=
  match (s.servedAt (ga / 64 * 64)).rowId with
  | some (k, h, b, r) =>
    s.fixCells (s.rowPlace k h b r) { srcUnit := h, loc := s.servedAt (ga / 64 * 64) } (s.servedAt (ga / 64 * 64)) k h (s.spareFor k h b r).isSome
  | none => s

/-- The line at an address as a read of it would return it, and whether it is uncorrectable. -/
def State.peek (s : State) (ga : Nat) : Line × Bool :=
  match s.servedAt (ga / 64 * 64) with
  | .sync h w => (BitVec.ofNat 512 ((List.range 8).foldl (fun a i => a + (s.syncRead h (w / 8 * 8 + i)).toNat * 2^(64 * i)) 0), false)
  | .t1 raw => (s.tierRead 1 (raw / 64), s.linePoison 1 (raw / 64))
  | .t2 k raw => let n := (k * cartBytes + raw) / 64; (s.tierRead 2 n, s.linePoison 2 n)
  | l => match l.rowId with
    | some (kind, h, b, r) => s.peekRow kind h b r
    | none => (0, true)

/-- Writes bytes of a line at an address as an applied write, mirrored where its region is (R19, R33, R257). `id` names the
write whose completion waits for the partner. -/
def State.poke (s : State) (ga : Nat) (mask : Dword) (d : Line) (id : Nat := 0) : State :=
  let a := ga / 64 * 64
  let s := s.alignRow a
  let x : Xact := { id := id, kind := .write, ga := BitVec.ofNat 48 a, mask := mask, data := d, loc := s.servedAt a }
  match x.loc with
  | .sync h w => (List.range 8).foldl (fun s i =>
      if fld mask.toNat (8 * i + 7) (8 * i) = 255 then s.cellWrite h (w / 8 * 8 + i) (Line.gran d i) { chip := s.chipId, unit := h } else s) s
  | .t1 raw =>
    let s := (s.tierWrite 1 (raw / 64) mask d).copyTouched a
    s.forward x.loc.unit x .write mask (s.tierRead 1 (raw / 64))
  | .t2 k raw => ((s.tierWrite 2 ((k * cartBytes + raw) / 64) mask d).memWr k 1).ledgerTick k
  | l => match l.rowId with
    | some (kind, h, b, r) =>
      let place := s.rowPlace kind h b r
      let o := bankAccess (s.rowAt place) (s.rowPz kind h b r) .write 0 mask d 0
      if o.wrote then
        let s := (s.setRow place o.row).rowTouched place h (l.local / 64)
        let s := if o.whole then s.clearPz kind h b r else s
        s.forward h x .write mask o.row.data
      else s
    | none => s

/-! ### Handles -/

/-- Address range of a handle class (R116). -/
def State.classRange (s : State) (cls : Nat) : Nat × Nat :=
  match cls with
  | 1 => (0, 0x40000000)
  | 2 => (0x40000000, 0x40000000 + 256 * 4096 * s.poolC)
  | 3 => (t1Base, t2Base)
  | 4 => (t2Base, t2Base + 4 * cartBytes)
  | 5 => (0x0F0040000000, 0x0F0041000000)
  | _ => (0, 0x40000000)

/-- A LOAD of an entry is refused (R125). -/
def State.loadRefused (s : State) (q : Quad) : Bool :=
  let c := hClass q
  let lo := hBase q
  let hi := lo + 64 * hExtent q
  let r := s.classRange c
  decide (6 < c) || (c ≠ 0 && (hExtent q = 0 || decide (lo < r.1) || decide (r.2 < hi) ||
    ((c = 1 || c = 6) && lo / 0x400000 ≠ (hi - 1) / 0x400000) || (c = 6 && hRd q) || (c = 5 && hCache q) || (c = 2 && !s.tiered)))

/-- Stores a handle entry. -/
def State.setHandle (s : State) (key : Nat) (q : Quad) : State :=
  { s with hives := { s.hives with handles := Tbl.set s.hives.handles 0 key q } }

/-- The new contents of a slot: the entry's software fields and the slot's next generation (R121, R124). -/
def withGen (q : Quad) (gen : Nat) : Quad :=
  if hClass q = 0 then BitVec.ofNat 128 (pack [(99, 92, gen)])
  else BitVec.ofNat 128 (setFld (setFld (setFld (setFld q.toNat 104 100 0) 99 92 gen) 91 88 0) 78 77 0)

/-- A reference of a descriptor names a slot index. -/
def refIs (w : BitVec 512) (hi lo i : Nat) : Bool := fld w.toNat hi lo % 64 = i

/-- An issued descriptor uses a handle (R149): its source, its destination or its completion word, as its operation has them. -/
def descUses (d : Desc) (i : Nat) : Bool :=
  let op := dOp d.w
  ((op = 1 || op = 3 || op = 4) && refIs d.w 324 309 i) || (op ≠ 0 && refIs d.w 270 255 i) || (dCmpl d.w ≠ 0 && refIs d.w 422 407 i)

/-- A channel has an access under a handle in progress: lines of an issued descriptor, a bound word, or a ring slot (R124 step 2). -/
def Chan.uses (ch : Chan) (i : Nat) : Bool :=
  ch.descs.any (fun d => !(ch.st = .halted && ch.desc.toNat = d.idx) && (match d.phase with
    | .fetching => ch.ringRef.toNat % 64 = i
    | .bounds => refIs d.w 394 379 i
    | .issued => descUses d i
    | .presented => descUses d i
    | _ => false))

/-- A job uses a handle (R198): its table, and of its index list, auxiliary list, weights, output and completion word those its kind has. -/
def jobUses (w : BitVec 512) (i : Nat) : Bool :=
  let k := fld w.toNat 479 476
  refIs w 363 348 i || refIs w 309 294 i || ((k = 1 || k = 4) && refIs w 255 240 i) || (k = 1 && fld w.toNat 475 474 = 3 && refIs w 201 186 i) ||
    (k ≠ 4 && refIs w 91 76 i) || (fld w.toNat 455 454 ≠ 0 && refIs w 440 425 i)

/-- A scalar access that passed its issue check under a slot is in progress (R124, R127). -/
def State.scalarUses (s : State) (h c i : Nat) (x : Xact) : Bool :=
  x.srcChip.isNone && x.srcUnit = h && x.srcPort = 2 && x.ctx = c && x.chk ≠ 0 && (match x.purpose, x.win with
    | .scalar _ _, some _ => hClass (s.handle h c i) = 6 && x.wbase = hBase (s.handle h c i)
    | .scalar _ _, none => s.covering h c x.ga.toNat = some i
    | _, _ => false)

/-- Accesses that passed their issue check under a slot are still in progress (R124 step 2). -/
def State.handleBusy (s : State) (h c i : Nat) : Bool :=
  (List.range 16).any (fun k => s.pv 0x8900 (16 * h + k) = c && (Tbl.get s.chans {} (16 * h + k)).uses i) ||
  s.jobs.any (fun e => e.1 / 256 = h && e.2.ctx = c && (e.2.st = .waiting || e.2.st = .queued || e.2.st = .running) && jobUses e.2.w i) ||
  s.flight.any (s.scalarUses h c i) || (c = 0 && s.hives.ctxJobs.any (fun j => j.hive = h && j.slot = i))

/-- Starts a LOAD or DROP of a slot; the entry is EMPTY for a DROP (R124). -/
def State.startDrain (s : State) (key : Nat) (d : Drain) : State :=
  { s with hives := { s.hives with drains := Tbl.insert s.hives.drains key d } }

/-- The entry staged for HANDLE_OP (R123). -/
def State.handleStaged (s : State) (h : Nat) : Quad :=
  BitVec.ofNat 128 ((s.page h 0 0x200).toNat + (s.page h 0 0x208).toNat * 2^64)

/-- Status of HANDLE_OP, whose other fields read as 0 (R123). -/
def State.handleStatus (s : State) (h st : Nat) : State := s.setStatus h 0 0x210 st 0

/-- HANDLE_OP LOAD or DROP: ignored while one drains, refused, journaled, or started (R123 to R125, R340, R341). -/
def State.handleOp (s : State) (h c i op : Nat) : State :=
  if !s.ctlOpen h || s.status h 0 0x210 = 1 then s
  else
    let s := s.wakeHive h
    let q := if op = 1 then s.handleStaged h else 0
    if s.cqJournal h 0 then
      let arg := pack [(319, 192, q.toNat), (191, 188, op), (187, 179, 64 * c + i)]
      let cmd : JCmd := { kind := 4, hive := h, ctx := 0, crc := (crc32 (natBytes 16 q.toNat)).toNat, arg := arg }
      let s := s.handleStatus h 1
      if s.jOpen then s.jAccept cmd (.handle (hkey h c i))
      else { s with journal := { s.journal with waiting := s.journal.waiting ++ [(arg, h, 0, .handle (hkey h c i))] } }
    else if s.draining h c i || s.loadRefused q then s.handleStatus h 4
    else (s.handleStatus h 1).startDrain (hkey h c i) { entry := q, since := s.clk.now, ctl := true, jseq := none, again := false }

/-- A YPP write of HANDLE_TABLE (R123, R124): 0 accepted, else the code of its answer: NOT_NOW while the slot drains, RANGE when refused.
`req` is the request that waits for the drain. -/
def State.handleYpp (s : State) (h c i : Nat) (q : Quad) (req : Option Nat) : State × Nat :=
  if s.draining h c i then (s, 0x09)
  else if s.loadRefused q then (s, 0x0B)
  else (s.startDrain (hkey h c i) { entry := if hClass q = 0 then 0 else q, since := s.clk.now, ctl := false, jseq := none, again := false, req := req }, 0)

/-- A LOAD of a handle slot (R123 to R125). -/
def execHandleLoad (src : HandleSrc) (h : HiveId) (c : CtxId) (i : Fin 64) (s : State) : Host.Outcome State Fault Refusal :=
  .next (match src with
    | .ctl => s.cmd h.val 0 (.handleLoad src h c i) (fun s => s.handleOp h.val c.val i.val 1)
    | .ypp q => if s.clk.rootOn && !s.mgmt.por then (s.handleYpp h.val c.val i.val q none).1 else s)

/-- A DROP of a handle slot (R123, R124). -/
def execHandleDrop (src : RegPath) (h : HiveId) (c : CtxId) (i : Fin 64) (s : State) : Host.Outcome State Fault Refusal :=
  .next (match src with
    | .ctl => s.cmd h.val 0 (.handleDrop src h c i) (fun s => s.handleOp h.val c.val i.val 2)
    | .ypp => if s.clk.rootOn && !s.mgmt.por then (s.handleYpp h.val c.val i.val 0 none).1 else s)

/-- HANDLE_OP READ copies an entry into the staging registers (R123). -/
def execHandleRead (h : HiveId) (c : CtxId) (i : Fin 64) (s : State) : Host.Outcome State Fault Refusal :=
  .next (s.cmd h.val 0 (.handleRead h c i) (fun s =>
    if !s.ctlOpen h.val || s.status h.val 0 0x210 = 1 then s
    else
      let q := (s.handle h.val c.val i.val).toNat
      let s := s.wakeHive h.val
      ((s.setPage h.val 0 0x200 (BitVec.ofNat 64 (q % 2^64))).setPage h.val 0 0x208 (BitVec.ofNat 64 (q / 2^64))).handleStatus h.val 2))

/-- A Hive no longer holds a handle on a window: its allotment goes back (R136), and with it the one at the place a REDIRECT named. -/
def State.dropAllot (s : State) (h : Nat) (k : Nat × Nat × Nat × Nat) : State :=
  let held := fun (s : State) (k : Nat × Nat × Nat × Nat) =>
    s.hives.handles.any (fun e => e.1 / 512 = h && hClass e.2 = 6 && winOf e.2 = k) || s.wins.allots.any (fun a => a.hive = h && a.next = some k)
  let one := fun (s : State) (k : Nat × Nat × Nat × Nat) =>
    match s.allot h k.1 k.2.1 k.2.2.1 k.2.2.2 with
    | some a =>
      if held s k then s
      else State.giveBack { s with wins := { s.wins with allots := s.wins.allots.erase a } } h k a.credit a.base
    | none => s
  match (s.allot h k.1 k.2.1 k.2.2.1 k.2.2.2).bind (fun a => a.next) with
  | some n => one (one s k) n
  | none => one s k

/-- A slot holds its new entry and drains no more. -/
def State.slotTake (s : State) (key : Nat) (q : Quad) : State :=
  { s with hives := { s.hives with handles := Tbl.set s.hives.handles 0 key q, drains := Tbl.erase s.hives.drains key } }

/-- The slot takes its new contents (R124 steps 3 and 4), and once more EMPTY where the pool changed meanwhile (R45). -/
def State.drainDone (s : State) (h c i : Nat) (d : Drain) : State :=
  let key := hkey h c i
  let old := s.handle h c i
  let g := (hGen old + 1) % 256
  let new := withGen d.entry g
  let new := if d.again && hClass new = 2 then withGen 0 ((g + 1) % 256) else new
  let s := s.slotTake key new
  let s := if hClass old = 6 then s.dropAllot h (winOf old) else s
  let s := match d.jseq with
    | some n => s.jChange n jDone 0 (.handle key)
    | none => if d.ctl then s.handleStatus h 2 else s
  let s := match d.req with
    | some n => s.finish n 0 [] 0
    | none => s
  s.sxpRetry h

/-- The old accesses of a slot have completed (R124). -/
def execHandleDrainEnd (h : HiveId) (c : CtxId) (i : Fin 64) (s : State) : Host.Outcome State Fault Refusal :=
  .next (match Tbl.find s.hives.drains (hkey h.val c.val i.val) with
    | some d => if s.clk.rootOn && !s.handleBusy h.val c.val i.val then s.drainDone h.val c.val i.val d else s
    | none => s)

/-! ### The hierarchy mode and the pool -/

/-- Every handle of class POOL is dropped; a LOAD that drains is followed by the drop (R45). -/
def State.dropPools (s : State) : State :=
  let hs := s.hives.handles.map (fun e =>
    if hClass e.2 = 2 && (Tbl.find s.hives.drains e.1).isNone then (e.1, withGen 0 ((hGen e.2 + 1) % 256)) else e)
  let hs := hs.filter (fun e => e.2 ≠ 0)
  { s with hives := { s.hives with
    handles := hs
    drains := s.hives.drains.map (fun e => (e.1, { e.2 with again := true })) } }

/-- The pool changed from C to C': segments that move are cleared and POOL handles dropped (R45). -/
def State.poolChange (s : State) (c c' : Nat) : State :=
  let lo := 768 - max c c'
  let hi := 768 - min c c'
  let s := (List.range 256).foldl (fun s h => s.clearValid h (fun k _ row => k = 0 && decide (lo ≤ row) && decide (row < hi))) s
  s.dropPools

/-- A write of HIERARCHY_MODE; true when accepted (R45). -/
def State.hierMode (s : State) (v : Nat) : State × Bool :=
  if !s.noHiveLive || 1 < v then (s, false)
  else if v = s.pv 0x1000 0 then (s, true)
  else
    let c := s.poolC
    let s := s.setPv 0x1000 0 v
    ((s.poolChange c s.poolC).genUp, true)

/-- A write of POOL_CONTRIB_STRIPES; true when accepted (R45). -/
def State.poolContrib (s : State) (v : Nat) : State × Bool :=
  if !s.noHiveLive || !(v = 0 || v = 128 || v = 256 || v = 384 || v = 512) then (s, false)
  else if v = s.pv 0x1001 0 then (s, true)
  else
    let c := s.poolC
    let s := s.setPv 0x1001 0 v
    ((if c = s.poolC then s else s.poolChange c s.poolC).genUp, true)

/-- A write of CHIP_ID; true when accepted: once per start, or the value in force (R120). -/
def State.chipIdSet (s : State) (v : Nat) : State × Bool :=
  if 1023 < v || (s.mgmt.idWrote && v ≠ s.chipId) then (s, false)
  else ({ s.setPv 0x1010 0 v with mgmt := { (s.setPv 0x1010 0 v).mgmt with idWrote := true } }, true)

/-- HIERARCHY_MODE. -/
def execHierarchyModeWrite (v : Byte) (s : State) : Host.Outcome State Fault Refusal := .next (if s.mgmt.por then s else (s.hierMode v.toNat).1)
/-- POOL_CONTRIB_STRIPES. -/
def execPoolContribWrite (v : BitVec 16) (s : State) : Host.Outcome State Fault Refusal := .next (if s.mgmt.por then s else (s.poolContrib v.toNat).1)
/-- CHIP_ID. -/
def execChipIdWrite (v : BitVec 16) (s : State) : Host.Outcome State Fault Refusal := .next (if s.mgmt.por then s else (s.chipIdSet v.toNat).1)

end Sys2Proof.Machine
end

