-- ==== Sys2Proof/Machine/Sync.lean ====
section
/-!
DEFINITION. Sync.lean: REMOTE_FENCE, slot rings, wait registrations and release passes (R214, R223 to R233).
-/
namespace Sys2Proof.Machine

/-! ### REMOTE_FENCE (R214) -/

/-- A write of RFENCE: ignored while busy, refused for a cell outside the sync pages, else a fence over every chip the context has sent
to, or over one. -/
def State.rfence (s : State) (h c : Nat) (all : Bool) (chip : Nat) : State :=
  if !s.ctlOpen h || s.status h c 0x320 = 1 then s
  else
    let s := s.wakeHive h
    let cell := (s.page h c 0x328).toNat % 2^48 / 8 * 8
    if !s.cellOk cell then s.setStatus h c 0x320 4 chip
    else
      let sent := (s.hives.sent.filter (fun e => e.1 / 1024 = 8 * h + c)).map (fun e => (e.1 % 1024, e.2.sent))
      let need := if all then sent else [(chip, (Tbl.get s.hives.sent {} (ctxChip h c chip)).sent)]
      let f : Fence := { hive := h, ctx := c, need := need, lost := [], all := all, since := s.clk.now }
      let s := s.setStatus h c 0x320 1 chip
      { s with hives := { s.hives with fences := s.hives.fences ++ [f] } }.fenceTry f {}

/-- RFENCE FENCE: over every chip. -/
def execFence (h : HiveId) (c : CtxId) (s : State) : Host.Outcome State Fault Refusal :=
  .next (s.cmd h.val c.val (.fence h c) (fun s => s.rfence h.val c.val true 0))

/-- RFENCE FENCE_CHIP: over one chip. -/
def execFenceChip (h : HiveId) (c : CtxId) (chip : ChipId) (s : State) : Host.Outcome State Fault Refusal :=
  .next (s.cmd h.val c.val (.fenceChip h c chip) (fun s => s.rfence h.val c.val false chip.val))

/-! ### Slot rings (R223, R224, R226) -/

/-- A ring as its 64 B entry (R223). -/
def Ring.entry (r : Ring) : BitVec 512 :=
  BitVec.ofNat 512 (pack [(511, 256, r.full.toNat), (251, 249, r.owner), (248, 248, b2n r.en), (247, 216, r.tmo), (199, 192, r.nslots),
    (191, 176, r.lines), (175, 160, r.base), (159, 128, r.timeouts.toNat)])

/-- The ring that a staged entry declares for a context. -/
def ringOf (e : Nat) (c : Nat) : Ring :=
  { en := true, owner := c, full := BitVec.ofNat 256 (fld e 511 256), tmo := fld e 247 216, nslots := fld e 199 192, lines := fld e 191 176,
    base := fld e 175 160 }

/-- Lines of a ring: from its first to past its last. -/
def Ring.span (r : Ring) : Nat × Nat := (r.base, r.base + (r.nslots + 1) * r.lines)

/-- The entry staged for RING_OP. -/
def State.ringStaged (s : State) (h c : Nat) : Nat :=
  (List.range 8).foldl (fun a i => a + (s.page h c (0x900 + 8 * i)).toNat * 2^(64 * i)) 0

/-- DECLARE is refused (R224). A range past the Hive's main banks is one of its cases, for every ring lies in them (R223). -/
def State.ringRefused (s : State) (h c i : Nat) (r : Ring) : Bool :=
  let lo := r.span.1
  let hi := r.span.2
  let banks := if 64 ≤ hi - lo then List.range 64 else (List.range (hi - lo)).map (fun n => (lo + n) % 64)
  (s.ringAt h i).en || r.tmo = 0 || r.lines = 0 || decide (64 < r.lines) || decide (768 * 64 < hi) ||
  s.inPool (lo / 64) ≠ s.inPool ((hi - 1) / 64) ||
  (List.range 16).any (fun j => let g := s.ringAt h j; g.en && decide (g.span.1 < hi) && decide (lo < g.span.2)) ||
  (!s.inPool (lo / 64) && banks.any (fun b => (s.ownerOf h b).owner ≠ c))

/-- RING_OP DECLARE. -/
def execRingDeclare (h : HiveId) (c : CtxId) (i : Fin 16) (s : State) : Host.Outcome State Fault Refusal :=
  .next (s.cmd h.val c.val (.ringDeclare h c i) (fun s =>
    if !s.ctlOpen h.val || s.status h.val c.val 0x940 = 1 then s
    else
      let s := s.wakeHive h.val
      let r := ringOf (s.ringStaged h.val c.val) c.val
      if s.ringRefused h.val c.val i.val r then s.setStatus h.val c.val 0x940 4 i.val
      else (s.setRing h.val i.val r).setStatus h.val c.val 0x940 2 i.val))

/-- RING_OP UNDECLARE, of the owner alone; stalled accesses go on (R224). -/
def execRingUndeclare (h : HiveId) (c : CtxId) (i : Fin 16) (s : State) : Host.Outcome State Fault Refusal :=
  .next (s.cmd h.val c.val (.ringUndeclare h c i) (fun s =>
    if !s.ctlOpen h.val || s.status h.val c.val 0x940 = 1 then s
    else
      let s := s.wakeHive h.val
      let r := s.ringAt h.val i.val
      if !r.en || r.owner ≠ c.val then s.setStatus h.val c.val 0x940 4 i.val
      else (s.setRing h.val i.val {}).setStatus h.val c.val 0x940 2 i.val))

/-- RING_OP READ copies the entry into the staging area. -/
def execRingRead (h : HiveId) (c : CtxId) (i : Fin 16) (s : State) : Host.Outcome State Fault Refusal :=
  .next (s.cmd h.val c.val (.ringRead h c i) (fun s =>
    if !s.ctlOpen h.val || s.status h.val c.val 0x940 = 1 then s
    else
      let e := (s.ringAt h.val i.val).entry.toNat
      let s := s.wakeHive h.val
      let s := (List.range 8).foldl (fun s n => s.setPage h.val c.val (0x900 + 8 * n) (BitVec.ofNat 64 (e / 2^(64 * n)))) s
      s.setStatus h.val c.val 0x940 2 i.val))

/-- An access stalled for a ring's tmo cycles (R226): a scalar access traps and is not performed, any other goes on as if the ring were
undeclared, its data to an engine or stream port poison. -/
def State.ringTimeout (s : State) (x : Xact) (h i n : Nat) : State :=
  let r := s.ringAt h i
  let s := s.setRing h i { r with timeouts := BitVec.ofNat 32 (sat (2^32 - 1) (r.timeouts.toNat + 1)) }
  let who := if x.srcChip.isSome || 256 ≤ x.srcUnit then (h, r.owner) else (x.srcUnit, x.ctx)
  let rq := match x.srcChip with
    | some (c, g) => pack [(9, 0, c), (18, 10, g), (19, 19, 1)]
    | none => pack [(18, 10, x.srcUnit)]
  let f : RecF := { code := 0x30, unit := h, ctx := x.ctx, port := x.srcPort, chan := x.srcChan, obj := 256 * i + n,
                    layer := x.layer.toNat, oper := x.operator.toNat, aux := rq, ga := x.ga.toNat }
  let s := (s.faultAccess h who.1 who.2 (genRec f s.clk.ts)).ringStallRec x true
  let scalar := match x.purpose with
    | .scalar _ _ => true
    | .flcFill _ _ => true
    | _ => false
  if scalar then
    if x.mesh then s.answer { x with result := .refused 0x30, poison := !isWr x.kind, data := 0 } h 1 else s.bounce x 0x30
  else s.reissue { x with poison := true }

/-- RING_TIMEOUT. -/
def execRingTimeout (x : Nat) (s : State) : Host.Outcome State Fault Refusal :=
  .next (match s.xact x with
    | some y =>
      match s.ringBlock y with
      | some (h, i, n) =>
        if s.clk.rootOn && y.stage = .ringStall && decide ((s.ringAt h i).tmo ≤ s.clk.now - y.since) then s.ringTimeout y h i n else s
      | none => s
    | none => s)

/-! ### Wait registrations (R229 to R233) -/

/-- Registration n of a Hive. -/
def State.wait (s : State) (h n : Nat) : WaitReg := Tbl.get s.hives.waits {} (128 * h + n)

/-- Stores a registration. -/
def State.setWait (s : State) (h n : Nat) (w : WaitReg) : State :=
  { s with hives := { s.hives with waits := Tbl.set s.hives.waits {} (128 * h + n) w } }

/-- Registrations of a Hive that are in a state, by number. -/
def State.waitsIn (s : State) (h st : Nat) : List Nat := (List.range 128).filter (fun n => (s.wait h n).state = st)

/-- A word of the sync page that holds a barrier's STATE. -/
def isBarState (cell : Nat) : Bool := decide (8064 ≤ cell) && cell % 4 = 1

/-- A WAIT or WAITDEC is refused (R230). -/
def waitRefused (cond cell : Nat) (dec : Bool) (arg : Nat) : Bool :=
  if dec then arg = 0 || decide (8064 ≤ cell) else cond = 7 || (decide (8064 ≤ cell) && !isBarState cell)

/-- WAIT_OP WAIT or WAITDEC: refused, waiting for room in the queue of passes, or armed (R230). -/
def State.waitArm (s : State) (h c cond cell tmo : Nat) (dec : Bool) (i : Instr) : State :=
  if !s.ctlOpen h then s
  else
    let s := s.wakeHive h
    let arg := s.page h c 0x300
    if waitRefused cond cell dec arg.toNat then s.setStatus h c 0x308 4 0
    else match (s.waitsIn h 0).head? with
      | none =>
        let f : RecF := { code := 0x33, unit := h, ctx := c, port := 7, obj := cell }
        (s.setStatus h c 0x308 4 0).faultAccess h h c (genRec f s.clk.ts)
      | some n =>
        if s.passFull h then s.cmdHold h c i
        else
          let w : WaitReg := { state := 1, ctx := c, cond := if dec then 0 else cond, dec := dec, cell := cell, tmo := tmo, value := arg,
                               order := s.hives.armNo + 1, armed := s.clk.now }
          let s := { s with hives := { s.hives with armNo := s.hives.armNo + 1 } }
          ((s.setWait h n w).setStatus h c 0x308 2 (n * 2^46)).queuePass h cell { chip := s.chipId, unit := h, ctx := c, port := 7 }

/-- WAIT. -/
def execWait (h : HiveId) (c : CtxId) (cond : Fin 8) (tmo : BitVec 24) (cell : BitVec 13) (s : State) :
    Host.Outcome State Fault Refusal :=
  .next (s.cmd h.val c.val (.wait h c cond tmo cell) (fun s =>
    s.waitArm h.val c.val cond.val cell.toNat tmo.toNat false (.wait h c cond tmo cell)))

/-- WAITDEC. -/
def execWaitdec (h : HiveId) (c : CtxId) (tmo : BitVec 24) (cell : BitVec 13) (s : State) : Host.Outcome State Fault Refusal :=
  .next (s.cmd h.val c.val (.waitdec h c tmo cell) (fun s => s.waitArm h.val c.val 0 cell.toNat tmo.toNat true (.waitdec h c tmo cell)))

/-- WAIT_OP CANCEL frees an armed registration of the context (R233). -/
def execWaitCancel (h : HiveId) (c : CtxId) (reg : Fin 128) (s : State) : Host.Outcome State Fault Refusal :=
  .next (s.cmd h.val c.val (.waitCancel h c reg) (fun s =>
    if !s.ctlOpen h.val then s
    else
      let s := s.wakeHive h.val
      let w := s.wait h.val reg.val
      if w.state ≠ 1 || w.ctx ≠ c.val then s.setStatus h.val c.val 0x308 4 (reg.val * 2^46)
      else (s.setWait h.val reg.val {}).setStatus h.val c.val 0x308 0 (reg.val * 2^46)))

/-! ### Release passes (R228, R231) -/

/-- A condition of R229 on a cell's value and an operand. -/
def condHolds (cond : Nat) (v n : Dword) : Bool :=
  match cond with
  | 0 => v = n
  | 1 => v ≠ n
  | 2 => decide (n.toNat ≤ v.toNat)
  | 3 => decide (v.toNat < n.toNat)
  | 4 => decide (n.toInt ≤ v.toInt)
  | 5 => decide (v.toInt < n.toInt)
  | _ => v &&& n ≠ 0

/-- Puts a registration into a list by its arming order. -/
def State.insertOrder (s : State) (h n : Nat) : List Nat → List Nat
  | [] => [n]
  | m :: t => if (s.wait h n).order < (s.wait h m).order then n :: m :: t else m :: s.insertOrder h n t

/-- Armed registrations of a kind on a cell, in registration order (R231). -/
def State.armedOn (s : State) (h cell : Nat) (dec : Bool) : List Nat :=
  ((s.waitsIn h 1).filter (fun n => (s.wait h n).cell = cell && (s.wait h n).dec = dec)).foldr (fun n l => s.insertOrder h n l) []

/-- Releases a registration with a value, signals its core and traces it (R231, R232, R392). -/
def State.release (s : State) (h n : Nat) (v : Dword) (src : Party) : State :=
  let w := s.wait h n
  let f : TraceF := { kind := if w.dec then 2 else 1, unit := h, ctx := w.ctx, port := 7, src := src, obj := w.cell,
                      wait := s.clk.now - w.armed, aux := v.toNat % 2^48 }
  ((s.setWait h n { w with state := 2, value := v }).pulse h w.ctx).traceGen f

/-- Phases 1 and 3: the WAIT registrations of a list whose condition holds are released (R231). -/
def State.passWaits (s : State) (h cell : Nat) (src : Party) (ns : List Nat) : State :=
  ns.foldl (fun s n =>
    let w := s.wait h n
    if condHolds w.cond (s.syncVal h cell) w.value then s.release h n (s.syncVal h cell) src else s) s

/-- Phase 2: WAITDEC registrations in order, until the first that does not fit (R231). -/
def State.passDecs (s : State) (h cell : Nat) (src : Party) : List Nat → State
  | [] => s
  | n :: t =>
    let w := s.wait h n
    let v := s.syncVal h cell
    if w.value.toNat ≤ v.toNat then ((s.setSync h cell (v - w.value)).release h n v src).passDecs h cell src t else s

/-- A release pass on a cell (R231). -/
def State.pass (s : State) (h cell : Nat) (src : Party) : State :=
  let ws := s.armedOn h cell false
  let ds := s.armedOn h cell true
  let v := s.syncRead h cell
  let s1 := s.passWaits h cell src ws
  let s2 := if cell < 8064 then s1.passDecs h cell src ds else s1
  if s2.syncRead h cell = v then s2 else s2.passWaits h cell src (s2.armedOn h cell false)

/-- The key under which a Hive's running pass is kept. -/
def passKey (h : Nat) : Nat := 0x80000 + h

/-- The next release pass of a Hive runs, at one registration per cycle (R228, R231). -/
def execReleasePass (h : HiveId) (s : State) : Host.Outcome State Fault Refusal :=
  .next (match Tbl.get s.hives.passes [] h.val with
    | [] => s
    | p :: t =>
      if !s.ctlOpen h.val || s.power.hold || decide (s.clk.now < s.freeAt (passKey h.val)) then s
      else
        let n := (s.armedOn h.val p.cell false).length + (s.armedOn h.val p.cell true).length
        let s := { s with hives := { s.hives with passes := Tbl.set s.hives.passes [] h.val t } }
        (s.occupy (passKey h.val) n).pass h.val p.cell (unpackParty p.src))

/-- The record of WAIT_TIMEOUT: registration, context, cell, operand and cell value (R233; log entry 9). -/
def waitRec (h n : Nat) (w : WaitReg) (v : Dword) (ts : Dword) : Rec :=
  recOf [(255, 248, 0x32), (247, 239, h), (238, 236, w.ctx), (235, 229, n), (228, 216, w.cell), (191, 128, w.value.toNat),
    (127, 64, v.toNat), (63, 0, ts.toNat)]

/-- An armed registration's timeout reaches 0 (R233). -/
def execWaitTimeout (h : HiveId) (n : Fin 128) (s : State) : Host.Outcome State Fault Refusal :=
  .next (
    let w := s.wait h.val n.val
    if !s.ctlOpen h.val || w.state ≠ 1 || w.tmo = 0 || decide (s.clk.now - w.armed < 256 * w.tmo) then s
    else
      let f : TraceF := { kind := 3, unit := h.val, ctx := w.ctx, port := 7, obj := w.cell, wait := s.clk.now - w.armed,
                          aux := w.value.toNat % 2^48 }
      ((s.setWait h.val n.val { w with state := 3 }).faultAccess h.val h.val w.ctx
        (waitRec h.val n.val w (s.syncRead h.val w.cell) s.clk.ts)).traceGen f)

/-- The registration that WAIT_RESULT returns: the lowest-numbered released or timed out one of the context (R232). -/
def State.waitDone (s : State) (h c : Nat) : Option Nat :=
  (List.range 128).find? (fun n => decide (2 ≤ (s.wait h n).state) && (s.wait h n).ctx = c)

/-- The context has armed registrations. -/
def State.waitArmed (s : State) (h c : Nat) : Bool := (s.waitsIn h 1).any (fun n => (s.wait h n).ctx = c)

/-- What a CMD read returns to the core. -/
def State.cmdData (s : State) (h c off : Nat) (v : Dword) : State :=
  let d : Deliv := { hive := h, port := 7, chan := 0, ctx := c, tag := 0, ga := BitVec.ofNat 48 (0x0F0000000000 + h * 0x100000 + c * 0x10000 + off),
                     kind := .read, data := v.setWidth 512, poison := false, code := 0 }
  { s with hives := { s.hives with outs := s.hives.outs ++ [d] } }

/-- A CMD read of WAIT_RESULT: it returns and frees a registration, stalls while some are armed and none is released, or returns 0
(R232). -/
def execWaitResultRead (h : HiveId) (c : CtxId) (s : State) : Host.Outcome State Fault Refusal :=
  .next (s.cmd h.val c.val (.waitResultRead h c) (fun s =>
    if !s.ctlOpen h.val then s
    else
      let s := s.wakeHive h.val
      match s.waitDone h.val c.val with
      | some n =>
        let w := s.wait h.val n
        let r := dwordOf [(63, 62, w.state), (6, 0, n)]
        ((((s.setWait h.val n {}).setPage h.val c.val 0x310 r).setPage h.val c.val 0x318 w.value).cmdData h.val c.val 0x310 r)
      | none =>
        if s.waitArmed h.val c.val then s.cmdHold h.val c.val (.waitResultRead h c)
        else (s.setPage h.val c.val 0x310 0).cmdData h.val c.val 0x310 0))

/-- The first waiting CMD access that may go on, and the state that performs it next (R230, R232). -/
def State.cmdReady (s : State) : Option (Instr × State) :=
  s.hives.cmdq.findSome? (fun e =>
    let h := e.1 / 8
    let c := e.1 % 8
    let stalled := fun (i : Instr) => match i with
      | .wait _ _ _ _ _ => s.passFull h
      | .waitdec _ _ _ _ => s.passFull h
      | .waitResultRead _ _ => (s.waitDone h c).isNone && s.waitArmed h c
      | _ => false
    match e.2 with
    | i :: t =>
      if stalled i then none
      else
        let s := s.setCmds h c t
        some (i, { s with hives := { s.hives with cmdTurn := some e.1 } })
    | [] => none)

end Sys2Proof.Machine
end

