-- ==== Sys2Proof/Machine/Dma.lean ====
section
/-!
DEFINITION. Dma.lean: the DMA engine: channels and their rings, descriptors from fetch to completion, halts and channel commands, and MOVE
(R141, R144 to R178).
-/
namespace Sys2Proof.Machine

/-! ### Channels -/

/-- Channel k of a Hive. -/
def State.chan (s : State) (h k : Nat) : Chan := Tbl.get s.chans {} (16 * h + k)

/-- Stores a channel. -/
def State.setChan (s : State) (h k : Nat) (c : Chan) : State := { s with chans := Tbl.set s.chans {} (16 * h + k) c }

/-- The context that owns a channel (R144). -/
def State.chCtx (s : State) (h k : Nat) : Nat := s.pv 0x8900 (16 * h + k)

/-- The descriptor of a ring index. -/
def Chan.desc? (c : Chan) (idx : Nat) : Option Desc := c.descs.find? (fun d => d.idx = idx)

/-- Replaces the descriptor of an index. -/
def State.setDesc (s : State) (h k : Nat) (d : Desc) : State :=
  let c := s.chan h k
  s.setChan h k { c with descs := c.descs.map (fun e => if e.idx = d.idx then d else e) }

/-- A descriptor has presented its last line. -/
def Desc.sentAll (d : Desc) : Bool := d.phase = .presented || d.phase = .complete

/-- The descriptor at work: the first that has not presented its last line. -/
def Chan.head? (c : Chan) : Option Desc := c.descs.find? (fun d => !d.sentAll)

/-- A context's channels fetch nothing: a fence or a CTX_OP runs for it (R142, R214). -/
def State.fetchHeld (s : State) (h c : Nat) : Bool :=
  s.hives.fences.any (fun f => f.hive = h && f.ctx = c) || s.hives.ctxJobs.any (fun j => j.hive = h && j.ctx = c)

/-- The offset of a ring slot under the ring's handle (R146). -/
def Chan.slotOff (c : Chan) (i : Nat) : Nat := c.ringOff.toNat * 64 + 64 * (i % 2^c.lsize)

/-! ### Halts (R176, R177) -/

/-- Destination lines of a descriptor presented and completed, from line n on, as bits from bit `at_`. -/
def Desc.doneBits (d : Desc) (n at_ : Nat) : Nat :=
  (List.range (min 64 (d.wrN - n))).foldl (fun a i =>
    if d.open_.any (fun o => o.1 = n + i && !o.2) || d.skip.contains (n + i) then a else a + 2^(at_ + i)) 0

/-- FAULT_DONE of a halted channel (R145, R176): lines after the halt point, in write order, of the halted descriptor and of later ones.
`d` is the halted descriptor with its cursor at the halt point and `top` the lines it had presented. -/
def faultDone (d : Desc) (top : Nat) (later : List Desc) : Nat :=
  let own := Desc.doneBits { d with wrN := top } (d.wrN + 1) 0
  let r := later.foldl (fun (p : Nat × Nat) e => (p.1 + e.doneBits 0 p.2, p.2 + e.wrN)) (own, top - (d.wrN + 1))
  r.1 % 2^64

/-- Recomputes FAULT_DONE of a halted channel. The lines of the halted descriptor past the halt point are those still listed. -/
def State.faultDoneNow (s : State) (h k : Nat) : State :=
  let c := s.chan h k
  if c.st ≠ .halted then s
  else match c.desc? c.desc.toNat with
    | some d =>
      let top := d.open_.foldl (fun a o => max a (o.1 + 1)) d.wrN
      let later := (c.descs.dropWhile (fun e => e.idx ≠ d.idx)).drop 1
      s.setChan h k { c with faultDone := BitVec.ofNat 64 (faultDone d top later) }
    | none => s

/-- A transaction of a channel, but no line that a target unit accesses for a fill or copy command. -/
def Xact.ofChan (x : Xact) (h k : Nat) : Bool := x.srcUnit = h && x.srcPort = 3 && x.srcChan = k && x.srcChip.isNone && !x.isRun

/-- A request of a channel that stands at issue and is not presented. -/
def Xact.unsent (x : Xact) : Bool :=
  x.half = .request && !x.mesh && (x.stage = .portInput || x.stage = .scoreboard || x.stage = .ringStall || x.stage = .issueStall)

/-- A write of a channel stalls at issue, which keeps its later ones (R153, R212); lines that wait for credits keep their order by themselves. -/
def State.chanStalled (s : State) (h k : Nat) : Bool :=
  s.flight.any (fun x => x.ofChan h k && isWr x.kind && x.unsent && !(x.stage = .issueStall && x.win.isSome))

/-- The write cursor of a descriptor steps back to line n, in row v the line l, where its fault or its presentation stands. -/
def Desc.backTo (d : Desc) (n v l : Nat) : Desc := { d with wrN := n, wrRow := v, wrLine := l, phase := .issued }

/-- The descriptor as a write of it that was not presented leaves it: its lines are presented anew (R176). -/
def Desc.unsend (d : Desc) (x : Xact) : Desc :=
  match x.purpose with
  | .dmaDst i n => if i = d.idx && decide (n < d.wrN) then { d.backTo n (x.tag / 2^36) (x.tag % 2^36) with open_ := d.open_.filter (fun o => decide (o.1 < n)) } else d
  | .fill i n => if i = d.idx && decide (n < d.wrN) then { d.backTo n 0 x.tag with open_ := d.open_.filter (fun o => decide (o.1 < n)) } else d
  | _ => d

/-- The source reads of a descriptor behind a halt are discarded: it reads the row of its write cursor again, or takes its bounds again (R176). -/
def Desc.reread (d : Desc) : Desc :=
  match d.phase with
  | .bounds => { d with rdLine := 0, src := [] }
  | .issued => if dOp d.w = 4 then d else { d with rdRow := d.wrRow, rdLine := 0, src := [] }
  | _ => d

/-- A descriptor behind a halt whose slot must be fetched again: its ring read is discarded, or it halted itself before (R176, R178). -/
def Chan.refetch (c : Chan) (idx : Nat) (e : Desc) : Bool :=
  e.idx ≠ idx && e.jseq.isNone && (e.phase = .fetching || (c.st = .halted && c.desc.toNat = e.idx && e.phase ≠ .issued && !e.sentAll))

/-- What a halt at descriptor `idx` leaves of a channel's descriptors (R176). -/
def Chan.behindHalt (c : Chan) (idx : Nat) (unsent : List Xact) : Chan :=
  let ds := c.descs.map (fun e => let e := unsent.foldl Desc.unsend e; if e.idx = idx then e else e.reread)
  match ds.find? (c.refetch idx) with
  | some e => { c with descs := ds.filter (fun d => d.idx ≠ e.idx), next := BitVec.ofNat 16 e.idx }
  | none => { c with descs := ds }

/-- Requests of a channel that stand at issue go without having been presented, and its reads under way are discarded when they return (R176, R178); a
completion action already begun goes only where the channel aborts. A MOVE behind the halt reads the lines of its discarded reads again. -/
def State.chanStop (s : State) (h k : Nat) (abort : Bool) : State :=
  let lost := (s.flight.filter (fun x => x.ofChan h k && !isWr x.kind)).filterMap (fun x => match x.purpose with
    | .dmaSrc d => some (d, x.tag)
    | _ => none)
  let flight := (s.flight.filter (fun x => !(x.ofChan h k && x.unsent && (abort || x.purpose ≠ .completion)))).map (fun (x : Xact) =>
    if x.ofChan h k && !isWr x.kind then { x with purpose := .discarded } else x)
  let moves := s.hives.moves.map (fun m =>
    if m.slot / 512 = h && m.chan = k then { m with todo := ((lost.filter (fun e => e.1 = m.desc)).map (fun e => e.2)) ++ m.todo } else m)
  { s with flight := flight, hives := { s.hives with moves := moves } }

/-- A range of lines whose contents the spec leaves undefined takes free values. -/
def State.freeLines (s : State) (b n : Nat) : State :=
  (List.range n).foldl (fun s j =>
    let p := s.draw
    if (p.2.refusal (p.2.servedAt (b + 64 * j)) (isPoolGa (b + 64 * j))).isSome then p.2
    else p.2.poke (b + 64 * j) fullMask (BitVec.ofNat 512 p.1)) s

/-- A fault of a MOVE's descriptor abandons it: its tracker is disarmed and the destination is undefined (R167). -/
def State.moveAbandon (s : State) (h k idx : Nat) : State :=
  match s.hives.moves.find? (fun m => m.slot / 512 = h && m.chan = k && m.desc = idx) with
  | some m => ({ s with hives := { s.hives with moves := s.hives.moves.filter (fun n => n.slot ≠ m.slot) } }.freeLines m.dst m.lines).sxpRetry h
  | none => s

/-- Halts a channel on a fault of descriptor `idx`, at its cursor: what it has not presented goes, reads under way are discarded, a MOVE of it is
abandoned, the record is written and the core signalled (R176, R177). `f` gives the code, the handle concerned and its generations, `ga` the address of
the faulting line or word. -/
def State.chanHaltRec (s : State) (h k idx : Nat) (f : HFault) (ga : Nat) : State :=
  let unsent := s.flight.filter (fun x => x.ofChan h k && x.unsent && isWr x.kind)
  let s := (s.chanStop h k false).moveAbandon h k idx
  let c := (s.chan h k).behindHalt idx unsent
  let d := (c.desc? idx).getD { idx := idx }
  let w := d.w
  let fp := if isTile w then pack [(35, 24, tileIdx w d.wrRow 3), (23, 12, tileIdx w d.wrRow 2), (11, 0, tileIdx w d.wrRow 1)] else 0
  let c' := { c with st := .halted, code := BitVec.ofNat 8 f.code, desc := BitVec.ofNat 16 idx, fpRow := BitVec.ofNat 36 fp,
                     fpLine := BitVec.ofNat 16 d.wrLine }
  let site : FaultSite := { hive := h, ctx := s.chCtx h k, port := 3, chan := k, layer := dLayer w, oper := dOper w }
  ((s.setChan h k c').faultDoneNow h k).handleFault { f with nohand := false, lo := idx, hi := ga } site

/-- Halts on a fault with a code, `hd` the index of the handle concerned (R177). -/
def State.chanHalt (s : State) (h k idx code hd ga : Nat) : State := s.chanHaltRec h k idx { code := code, handle := hd } ga

/-- Halts on a failed handle check: the record carries R128's fields, with the ring index and the address in place of the offsets (R177). -/
def State.chanHandleHalt (s : State) (h k idx : Nat) (f : HFault) (ga : Nat) : State := s.chanHaltRec h k idx f ga

/-! ### Presenting a request of the engine -/

/-- Deadline offset of a descriptor or job (R149, R198). -/
def State.dlOffset (s : State) (q dl : Nat) : Nat :=
  if dl = 0 then s.classDeadline q else min (2^(dl + 3)) (s.classDeadline q)

/-- The class and the deadline code of a descriptor; a NOP has neither, and class 0 stands in (R149, R150). -/
def descQos (w : BitVec 512) : Nat := if dOp w = 0 then 0 else dQos w
def descDl (w : BitVec 512) : Nat := if dOp w = 0 then 0 else dDl w

/-- The channels of a Hive may present a request through DXP in this cycle (R56, R159). -/
def State.dxpFree (s : State) (h : Nat) : Bool := s.portFree h 3

/-- A request of a channel outside its lines takes DXP's turn of this cycle, or waits for a later one (R56, R64, R159). -/
def State.dxpSend (s : State) (x : Xact) : State :=
  let h := x.srcUnit
  if !s.dxpFree h || decide (1024 < s.tagsHeld h 3) || decide (64 < s.chanTags h x.srcChan) then s
  else (s.occupy (dxpKey h) 1).issue (x.stamped s.clk.now) true

/-- A request of a channel outside its lines: a ring slot, a bound word or a completion action. -/
def State.chanReq (s : State) (h k ga : Nat) (kind : AccKind) (code : Nat) (mask : Dword) (data : Line) (w : BitVec 512) (p : Purpose) (tag : Nat) :
    State :=
  let x : Xact := { grp := s.nextId, kind := kind, code := BitVec.ofNat 4 code, qos := descQos w, ctx := s.chCtx h k,
                    deadline := s.deadlineAt (s.dlOffset (descQos w) (descDl w)), ga := BitVec.ofNat 48 ga, mask := mask, data := data, srcUnit := h,
                    srcPort := 3, srcChan := k, layer := BitVec.ofNat 16 (dLayer w), operator := BitVec.ofNat 16 (dOper w), unit := h,
                    since := s.clk.now, born := s.clk.now, loc := s.locate ga, purpose := p, tag := tag, dxpTag := s.dxpTagOf h k }
  let n := s.nextId
  let t := s.addX x
  match t.xact n with
  | some y => t.dxpSend y
  | none => t

/-- The first request of a channel that waits for DXP's turn is presented (R159). -/
def State.dxpPump (s : State) (h : Nat) : State :=
  match s.flight.find? (fun x => x.srcUnit = h && x.srcPort = 3 && x.srcChip.isNone && x.stage = .portInput && x.half = .request) with
  | some x => if s.throttled 0 then s else s.dxpSend x
  | none => s

/-- A MOVE in its final pass keeps accesses through its handle at issue (R141 step 4). -/
def State.movedRef (s : State) (h c ref : Nat) : Bool := s.hives.moves.any (fun m => m.final && m.slot = hkey h c (ref % 64))

/-! ### Fetching (R146 to R148) -/

/-- A channel fetches its next slot where R146 to R148 let it: it runs, every earlier descriptor has presented its last line, and one that
carries fence = 1 waits for their completion. -/
def State.chanFetch (s : State) (h k : Nat) : State :=
  let c := s.chan h k
  let ctx := s.chCtx h k
  if !s.ctlOpen h || !c.en || c.st ≠ .run || c.pausing || c.next = c.tail || !c.descs.all Desc.sentAll || s.fetchHeld h ctx || s.jFull ||
      (c.fenceWait && !c.descs.isEmpty) || !s.tagFree h 3 k || s.throttled 0 || s.movedRef h ctx c.ringRef.toNat then s
  else
    let i := c.next.toNat
    let off := c.slotOff i
    let ref := c.ringRef.toNat
    let s := s.setChan h k { c with descs := c.descs ++ [{ idx := i : Desc }], next := c.next + 1, fenceWait := false, desc := c.next }
    match s.checkHandle h ctx ref true false (some (off, off + 63)) with
    | some f => s.chanHandleHalt h k i f (s.refGa h ctx ref off)
    | none => s.chanReq h k (s.refGa h ctx ref off) .read 0 fullMask 0 0 .ringFetch i

/-- The channel is idle once it is disabled and its fetched descriptors have completed (R146). -/
def State.chanIdle (s : State) (h k : Nat) : State :=
  let c := s.chan h k
  if c.st = .run && !c.en && c.descs.isEmpty then s.setChan h k { c with st := .idle } else s

/-- RING_CTL with en = 1 (R146): from done onward. -/
def State.chanEnable (s : State) (h k : Nat) : State :=
  let c := s.chan h k
  if c.en then s
  else
    let c := { c with en := true, st := if c.st = .idle then .run else c.st, failed := 0,
                      next := if c.descs.isEmpty then c.done else c.next }
    (s.setChan h k c).chanFetch h k

/-- RING_CTL with en = 0 (R146). -/
def State.chanDisable (s : State) (h k : Nat) : State :=
  let c := s.chan h k
  (s.setChan h k { c with en := false }).chanIdle h k

/-- CHAN_ENABLE. -/
def execChanEnable (h : HiveId) (k : ChanId) (s : State) : Host.Outcome State Fault Refusal :=
  .next (s.cmd h.val (s.chCtx h.val k.val) (.chanEnable h k) (fun s =>
    if s.ctlOpen h.val then (s.wakeHive h.val).chanEnable h.val k.val else s))

/-- CHAN_DISABLE. -/
def execChanDisable (h : HiveId) (k : ChanId) (s : State) : Host.Outcome State Fault Refusal :=
  .next (s.cmd h.val (s.chCtx h.val k.val) (.chanDisable h k) (fun s =>
    if s.ctlOpen h.val then (s.wakeHive h.val).chanDisable h.val k.val else s))

/-- RING_TAIL writes whose earlier port writes have completed take effect (R147). -/
def State.tailApply (s : State) (h k : Nat) : State :=
  let c := s.chan h k
  let ctx := s.chCtx h k
  let open_ := fun (n : Nat) => s.flight.any (fun x => x.srcUnit = h && x.ctx = ctx && x.srcChip.isNone && isWr x.kind && decide (x.id < n) &&
    (x.srcPort = 0 || x.srcPort = 1 || x.srcPort = 2 || x.srcPort = 6) && x.stage ≠ .mirrorQueue &&
    (match x.purpose with
     | .flcWriteback _ => false
     | _ => true))
  let rest := c.tailPend.dropWhile (fun p => !open_ p.2)
  let gone := c.tailPend.take (c.tailPend.length - rest.length)
  match gone.getLast? with
  | some p => (s.setChan h k { c with tail := BitVec.ofNat 16 p.1, tailPend := rest }).chanFetch h k
  | none => s

/-- A write of RING_TAIL (R146, R147). -/
def State.tailWrite (s : State) (h k v : Nat) : State :=
  let c := s.chan h k
  if 2^c.lsize < (v + 65536 - c.done.toNat) % 65536 then s
  else (s.setChan h k { c with tailPend := c.tailPend ++ [(v, s.nextId)] }).tailApply h k

/-- RING_TAIL_WRITE. -/
def execRingTailWrite (h : HiveId) (k : ChanId) (v : BitVec 16) (s : State) : Host.Outcome State Fault Refusal :=
  .next (s.cmd h.val (s.chCtx h.val k.val) (.ringTailWrite h k v) (fun s =>
    if s.ctlOpen h.val then (s.wakeHive h.val).tailWrite h.val k.val v.toNat else s))

/-! ### The journal of descriptors (R175, R339 to R343) -/

/-- GA ranges are covered by enabled mirror regions (R343). -/
def State.mirrorCovers : Nat → State → Nat → Nat → Bool
  | 0, _, _, _ => false
  | n + 1, s, lo, hi =>
    if hi ≤ lo then true
    else match s.regionOf lo with
      | some i => let q := s.mregion i; State.mirrorCovers n s ((mrBase q + mrPages q) * 4096) hi
      | none => false

/-- A footprint as a GA range under a reference. -/
def State.footGa (s : State) (h c ref : Nat) (f : Option (Int × Int)) : Nat × Nat :=
  match f with
  | some (lo, hi) => ((hBase (s.handle h c (ref % 64)) + lo).toNat, (hBase (s.handle h c (ref % 64)) + hi + 1).toNat)
  | none => (0, 0)

/-- The journal entry of a fetched descriptor, and whether it is never replayed (R339, R343). -/
def State.descCmd (s : State) (h k : Nat) (d : Desc) : JCmd × Nat :=
  let c := s.chan h k
  let ctx := s.chCtx h k
  let w := d.w
  let slot := s.refGa h ctx c.ringRef.toNat (c.slotOff d.idx)
  let src := s.footGa h ctx (dSrcRef w) d.srcFoot
  let dst := s.footGa h ctx (dDstRef w) d.dstFoot
  let foot := dst.2 - dst.1
  let bnd := s.refGa h ctx (dBndRef w) (8 * dBndWord w)
  let ind := isTile w && dInd w ≠ 0
  let cov := fun (r : Nat × Nat) => s.mirrorCovers 64 r.1 r.2
  let nr := dOp w = 4 || hClass (s.handle h ctx (dDstRef w % 64)) = 6 || !(dOp w = 2 || cov src) || !cov dst || !cov (slot, slot + 64) ||
    (ind && !cov (bnd, bnd + 32)) || decide (s.pv 0x5003 0 < foot)
  ({ kind := 2, nr := nr, hive := h, ctx := ctx, chan := k, layer := dLayer w, oper := dOper w, crc := (crc32 (natBytes 64 w.toNat)).toNat,
     arg := pack [(319, 272, s.refGa h ctx (dSrcRef w) (dSrcOff w)), (271, 224, s.refGa h ctx (dDstRef w) (dDstOff w)), (223, 176, slot),
       (159, 112, if ind then bnd else 0), (111, 72, foot)] }, foot)

/-- Takes a journaled descriptor into the journal where it has room (R342, R343). -/
def State.descAccept (s : State) (h k : Nat) (d : Desc) : State :=
  let p := s.descCmd h k d
  if !s.jOpen || (!p.1.nr && decide (s.pv 0x5003 0 < s.jOpenBytes + p.2)) then s.setDesc h k { d with jwait := true }
  else
    let n := s.journal.head
    let s := s.setDesc h k { d with jseq := some n, jwait := true }
    let s := if p.1.nr then s else { s with journal := { s.journal with openFoot := Tbl.set s.journal.openFoot 0 n p.2 } }
    s.jAccept p.1 (.desc h k d.idx)

/-- Writes a new state of a descriptor's entry (R341). -/
def State.descJournal (s : State) (h k : Nat) (d : Desc) (st code : Nat) : State :=
  match d.jseq with
  | some n =>
    let s := if 3 ≤ st then { s with journal := { s.journal with openFoot := Tbl.erase s.journal.openFoot n } } else s
    (s.setDesc h k { d with jwait := true }).jChange n st code (.desc h k d.idx)
  | none => s

/-! ### Checks before issue (R126, R150, R154, R156) -/

/-- DESC_INVALID with what the destination handle's class adds (R150). -/
def State.descBad (s : State) (h k : Nat) (w : BitVec 512) : Bool :=
  let cls := hClass (s.handle h (s.chCtx h k) (dDstRef w % 64))
  descInvalid w || (dAcc w ≠ 0 && cls ≠ 1 && cls ≠ 2 && cls ≠ 6) || (dOp w = 2 && cls = 6)

/-- Dimensions with an indirect bound. -/
def indDims (w : BitVec 512) : List Nat := if isTile w then (List.range 4).filter (fun k => bit (dInd w) k) else []

/-- Presents the reads of indirect bounds once every earlier write of the channel has completed (R156). -/
def State.boundReads (s : State) (h k : Nat) : State :=
  let c := s.chan h k
  match c.head? with
  | some d =>
    let earlier := c.descs.takeWhile (fun e => e.idx ≠ d.idx)
    if d.phase ≠ .bounds || d.rdLine = 1 || !earlier.all (fun e => e.open_.isEmpty) || c.st ≠ .run || s.throttled 0 ||
        s.movedRef h (s.chCtx h k) (dBndRef d.w) then s
    else
      let s := s.setDesc h k { d with rdLine := 1 }
      (indDims d.w).foldl (fun s j =>
        let ga := s.refGa h (s.chCtx h k) (dBndRef d.w) (8 * (dBndWord d.w + j))
        s.chanReq h k (ga / 64 * 64) .read 0 (byteMask (ga % 64) 8) 0 d.w (.boundWord j) (ga % 64)) s
  | none => s

/-- A descriptor whose journal entry, if any, is written is checked (R126, R150): it halts, reads its bounds, or is ready to issue. -/
def State.descCheck (s : State) (h k : Nat) (d : Desc) : State :=
  let ctx := s.chCtx h k
  let dims := indDims d.w
  if s.descBad h k d.w || (dims.isEmpty && d.cutShort) then s.chanHalt h k d.idx 0x16 0 0
  else
    let bad := dims.findSome? (fun j =>
      let off := 8 * (dBndWord d.w + j)
      match s.checkHandle h ctx (dBndRef d.w) true false (some (off, off + 7)) with
      | some f => some (f, s.refGa h ctx (dBndRef d.w) off)
      | none => none)
    match bad with
    | some (f, ga) => s.chanHandleHalt h k d.idx f ga
    | none =>
      if dims.isEmpty then s.setDesc h k { d with phase := .ready, jwait := false }
      else (s.setDesc h k { d with phase := .bounds, jwait := false, bnd := [], src := [], rdLine := 0 }).boundReads h k

/-- The outcome of a read that did not bring data, as a channel's halt code (R48, R284, R290). -/
def Result.dmaCode : Result → Nat
  | .ok => 0
  | .refused c => c.toNat
  | .uncorr c => if c = 0x43 then 0x43 else 0x41

/-- A ring slot has come back: it is the descriptor, unless it carries fence = 1 and earlier ones are not complete; a journaled one goes to
the journal first (R147, R148, R175). -/
def execDescFetch (h : HiveId) (k : ChanId) (s : State) : Host.Outcome State Fault Refusal :=
  .next (
    let c := s.chan h.val k.val
    match c.head? with
    | some d =>
      match Tbl.find d.src 0 with
      | some l =>
        if !s.clk.rootOn || d.phase ≠ .fetching || c.st ≠ .run then s
        else
          let ga := s.refGa h.val (s.chCtx h.val k.val) c.ringRef.toNat (c.slotOff d.idx)
          if l.result ≠ .ok then s.chanHalt h.val k.val d.idx l.result.dmaCode (c.ringRef.toNat % 64) ga
          else if dFence l.data && !d.resumed && decide (1 < c.descs.length) then
            s.setChan h.val k.val { c with descs := c.descs.filter (fun e => e.idx ≠ d.idx), next := BitVec.ofNat 16 d.idx, fenceWait := true }
          else
            let d := { d with w := l.data, phase := .accepted, src := [] }
            let s := s.setDesc h.val k.val d
            if dJournal d.w && d.jseq.isNone then s.descAccept h.val k.val d else s.descCheck h.val k.val d
      | none => s
    | none => s)

/-- The bound words of a descriptor have come back (R150, R155, R156). -/
def execBoundWordReturn (h : HiveId) (k : ChanId) (s : State) : Host.Outcome State Fault Refusal :=
  .next (
    let c := s.chan h.val k.val
    match c.head? with
    | some d =>
      let dims := indDims d.w
      if !s.clk.rootOn || d.phase ≠ .bounds || c.st ≠ .run || dims.any (fun j => (Tbl.find d.src j).isNone) then s
      else
        match dims.find? (fun j => (Tbl.get d.src ⟨0, 0, .ok⟩ j).result ≠ .ok) with
        | some j =>
          s.chanHalt h.val k.val d.idx (Tbl.get d.src ⟨0, 0, .ok⟩ j).result.dmaCode (dBndRef d.w % 64)
            (s.refGa h.val (s.chCtx h.val k.val) (dBndRef d.w) (8 * (dBndWord d.w + j)))
        | none =>
          let d := { d with bnd := dims.map (fun j => (j, (Tbl.get d.src ⟨0, 0, .ok⟩ j).data.toNat % 2^64)), src := [], rdLine := 0 }
          if d.cutShort then (s.setDesc h.val k.val d).chanHalt h.val k.val d.idx 0x16 0 0
          else s.setDesc h.val k.val { d with phase := .ready }
    | none => s)

/-- The completion word of a descriptor or job fails its check (R174): the reference, the class its action needs, and its bounds. -/
def State.cmplCheck (s : State) (h c cmpl ref word : Nat) : Option HFault :=
  if cmpl = 0 then none
  else
    let off : Int := 8 * word
    let cls := hClass (s.handle h c (ref % 64))
    let good := if cmpl = 1 then cls = 5 else cls = 1 || cls = 2 || cls = 3
    match s.checkHandle h c ref false true none with
    | some f => some f
    | none => if good then s.checkHandle h c ref false true (some (off, off + 7))
      else some { code := 0x12, handle := ref % 64, genRef := fld ref 15 8, genCur := hGen (s.handle h c (ref % 64)), lo := off, hi := off + 7 }

/-- The first failed check of a descriptor at issue: source, destination, completion word (R126, R154, R174), with the address of the
footprint's first byte. -/
def State.descFault (s : State) (h k : Nat) (d : Desc) : Option (HFault × Nat) :=
  let ctx := s.chCtx h k
  let w := d.w
  let one := fun (ref : Nat) (rd wr : Bool) (f : Option (Int × Int)) =>
    match s.checkHandle h ctx ref rd wr f with
    | some e => some (e, (s.footGa h ctx ref f).1)
    | none => Option.none
  let src := if dOp w = 1 || dOp w = 3 then one (dSrcRef w) true false d.srcFoot else none
  let dst := if dOp w = 0 then none else one (dDstRef w) false true d.dstFoot
  match src, dst with
  | some e, _ => some e
  | none, some e => some e
  | none, none =>
    match s.cmplCheck h ctx (dCmpl w) (dCmplRef w) (dCmplWord w) with
    | some e => some (e, s.refGa h ctx (dCmplRef w) (8 * dCmplWord w))
    | none => none

/-! ### Issue (R148, R161, R175) -/

/-- The descriptor of an operation that a channel may issue now: it is ready, the channel runs, and no write it presented before a halt is
still under way. -/
def State.issuable (s : State) (h k op : Nat) : Option Desc :=
  let c := s.chan h k
  match c.head? with
  | some d =>
    if s.clk.rootOn && c.st = .run && d.phase = .ready && !d.jwait && dOp d.w = op && !(List.range 64).any (fun i => descUses d i && s.movedRef h (s.chCtx h k) i) &&
        !(d.resumed && s.flight.any (fun x => x.ofChan h k && isWr x.kind && x.desc = some d.idx))
      then some d else none
  | none => none

/-- The cursor of a descriptor that issues: the first line, or the halt point it continues from, its row found again in the descriptor's visit
order; lines that FAULT_DONE lists are skipped (R178). -/
def Desc.startAt (d : Desc) (fp : BitVec 36) : Desc :=
  if d.resumed then
    let i := fun k => if k = 1 then fld fp.toNat 11 0 else if k = 2 then fld fp.toNat 23 12 else fld fp.toNat 35 24
    let v := if isTile d.w then tileVisit d.w i else d.wrRow
    let top := d.open_.foldl (fun a o => max a (o.1 + 1)) d.wrN
    let done := (List.range (top - d.wrN)).map (fun j => d.wrN + j)
    { d with wrRow := v, rdRow := v, rdLine := 0, src := [], open_ := [],
             skip := (d.skip ++ done.filter (fun n => d.open_.any (fun o => o.1 = n && o.2))).filter (fun n => decide (d.wrN ≤ n)) }
  else { d with wrRow := 0, wrLine := 0, wrN := 0, rdRow := 0, rdLine := 0, src := [], open_ := [], skip := [] }

/-- Marks a descriptor issued; a journaled one becomes STARTED with its effective bounds, and presents nothing before that entry's write
completes (R175, R341). -/
def State.descIssued (s : State) (h k : Nat) (d : Desc) : State :=
  let d := { d with phase := .issued }
  let s := s.setDesc h k d
  match d.jseq with
  | some n =>
    if jState (s.jEntry n) ≠ jAccepted then s
    else
      let e := setFld (s.jEntry n).toNat 175 112 (pack [(15, 0, d.eff 0), (31, 16, d.eff 1), (47, 32, d.eff 2), (63, 48, d.eff 3)])
      let s := { s with journal := { s.journal with own := Tbl.set s.journal.own 0 (n % 65536) (BitVec.ofNat 512 e) } }
      s.descJournal h k d jStarted 0
  | none => s

/-- Registers the destination footprint of a descriptor, or gives its entry the footprint of a rewritten one (R161): the state and the entry. -/
def State.descRegister (s : State) (h k : Nat) (d : Desc) (lo hi : Nat) : State × Nat :=
  if d.sb = 0 then (s.sbAdd h 3 k d.idx (s.chCtx h k) lo hi, s.nextId)
  else ({ s with hives := { s.hives with sb := s.hives.sb.map (fun e => if e.id = d.sb then { e with lo := lo, hi := hi } else e) } }, d.sb)

/-- Issues a TILE, FILL or COPY: its checks, and the registration of its destination footprint; it waits while the scoreboard is full
(R126, R161). -/
def State.dmaIssue (s : State) (h k op : Nat) : State :=
  match s.issuable h k op with
  | none => s
  | some d =>
    if !s.sbRoom h true && d.sb = 0 then s
    else match s.descFault h k d with
      | some (f, ga) => s.chanHandleHalt h k d.idx f ga
      | none =>
        let ctx := s.chCtx h k
        let d := d.startAt (s.chan h k).fpRow
        let q := s.handle h ctx (dDstRef d.w % 64)
        let r := s.footGa h ctx (dDstRef d.w) d.dstFoot
        let off := if hClass q = 6 then s.chipSpace (hChip q) else 0
        let p := s.descRegister h k d (off + r.1) (off + r.2)
        let d := { d with sb := p.2, resumed := false }
        let s := p.1.descIssued h k d
        if d.nextOut d.wrRow < dRows d.w then s
        else match (s.chan h k).desc? d.idx with
          | some e => (s.setDesc h k { e with phase := .presented }).sbDrop e.sb
          | none => s

/-- DMA_TILE. -/
def execDmaTile (h : HiveId) (k : ChanId) (s : State) : Host.Outcome State Fault Refusal := .next (s.dmaIssue h.val k.val 1)

/-- DMA_FILL. -/
def execDmaFill (h : HiveId) (k : ChanId) (s : State) : Host.Outcome State Fault Refusal := .next (s.dmaIssue h.val k.val 2)

/-- DMA_COPY. -/
def execDmaCopy (h : HiveId) (k : ChanId) (s : State) : Host.Outcome State Fault Refusal := .next (s.dmaIssue h.val k.val 3)

/-- DMA_NOP: nothing moves (R149). -/
def execDmaNop (h : HiveId) (k : ChanId) (s : State) : Host.Outcome State Fault Refusal :=
  .next (match s.issuable h.val k.val 0 with
    | none => s
    | some d =>
      match s.descFault h.val k.val d with
      | some (f, ga) => s.chanHandleHalt h.val k.val d.idx f ga
      | none =>
        let s := s.descIssued h.val k.val { d with resumed := false }
        match (s.chan h.val k.val).desc? d.idx with
        | some e => s.setDesc h.val k.val { e with phase := .presented }
        | none => s)

/-! ### MOVE (R141, R167) -/

/-- A MOVE is refused at issue: its source is not one Hive's main banks, or its handle is mirrored. -/
def moveRefused (q : Quad) : Bool :=
  let a := hBase q
  let b := hBase q + 64 * hExtent q
  hClass q ≠ 1 || hMirr q || b = a || a / 0x400000 ≠ (b - 1) / 0x400000 || decide (0x300000 < (b - 1) % 0x400000 + 1)

/-- DMA_MOVE: the checks and the start of the first pass. A refusal of R141 halts with DESC_INVALID. -/
def execDmaMove (h : HiveId) (k : ChanId) (s : State) : Host.Outcome State Fault Refusal :=
  .next (match s.issuable h.val k.val 4 with
    | none => s
    | some d =>
      let ctx := s.chCtx h.val k.val
      let w := d.w
      let q := s.handle h.val ctx (dSrcRef w % 64)
      let len : Int := 64 * hExtent q
      let off : Int := dDstOff w
      let bad := match s.checkHandle h.val ctx (dSrcRef w) true false none with
        | some f => some (f, hBase q)
        | none => match s.checkHandle h.val ctx (dDstRef w) false true (some (off, off + len - 1)) with
          | some f => some (f, s.refGa h.val ctx (dDstRef w) (dDstOff w))
          | none => match s.cmplCheck h.val ctx (dCmpl w) (dCmplRef w) (dCmplWord w) with
            | some f => some (f, s.refGa h.val ctx (dCmplRef w) (8 * dCmplWord w))
            | none => none
      match bad with
      | some (f, ga) => s.chanHandleHalt h.val k.val d.idx f ga
      | none =>
        let src := hBase q / 0x400000
        if moveRefused q then s.chanHalt h.val k.val d.idx 0x16 0 0
        else if s.hives.moves.any (fun m => m.hive = src) then s
        else
          let first := hBase q % 0x400000 / 64
          let m : Move := { hive := src, chan := k.val, desc := d.idx, slot := hkey h.val ctx (dSrcRef w % 64), src := first,
                            dst := s.refGa h.val ctx (dDstRef w) (dDstOff w), lines := hExtent q, pass := 0, final := false, dirty := [],
                            todo := (List.range (hExtent q)).map (fun i => first + i), few := s.pv 0x1014 0, most := s.pv 0x1015 0 }
          let s := { s with hives := { s.hives with moves := s.hives.moves ++ [m] } }
          s.descIssued h.val k.val { d with resumed := false, src := [], open_ := [], skip := [], wrN := 0, wrRow := 0, wrLine := 0 })

/-- A job that goes on through a moved handle, index `i`, takes its entry `q` and its place `d` bytes on (R141): the lines it has not requested yet move
with it, and list lines are read anew. -/
def Job.moved (j : Job) (i : Nat) (q : Quad) (shift : Int) : Job :=
  let mine := fun (r : Nat) => fld j.w.toNat ([363, 309, 255, 201, 91, 440].getD r 0) ([348, 294, 240, 186, 76, 425].getD r 0) % 64 = i
  let acc := fld j.w.toNat 479 476 = 4
  let go := fun (b : Bool) (a : Nat) => if b then ((a : Int) + shift).toNat else a
  { j with
    refs := j.refs.zipIdx.map (fun e => if mine e.2 then q.toNat else e.1)
    reads := j.reads.map (fun e => (e.1, go (mine (if acc then 2 else 0)) e.2))
    rob := j.rob.map (fun r => { r with ga := go (mine 0 && (r.kind = .row || r.kind = .zero)) r.ga })
    outQ := j.outQ.map (fun o => { o with ga := go (mine (if acc then 0 else 4)) o.ga })
    lists := if mine 1 || mine 2 || mine 3 then [] else j.lists
    asked := if mine 1 || mine 2 || mine 3 then [] else j.asked }

/-- The commit of a MOVE (R141 step 5): the handle takes its new base and the next generation, accesses that waited through it are released
against the new base, and a waiting reference keeps its right for this once. -/
def State.moveCommit (s : State) (m : Move) : State :=
  let h := m.slot / 512
  let ctx := m.slot / 64 % 8
  let i := m.slot % 64
  let q := s.handle h ctx i
  let c := s.chan h m.chan
  let cls := match c.desc? m.desc with
    | some d => hClass (s.handle h ctx (dDstRef d.w % 64))
    | none => hClass q
  let gen := (hGen q + 1) % 256
  let old := hBase q
  let fresh := fun (w : BitVec 512) (hi lo : Nat) =>
    if fld w.toNat hi lo % 64 = i && fld w.toNat hi lo / 256 = hGen q then BitVec.ofNat 512 (setFld w.toNat hi (lo + 8) gen) else w
  let s := s.setHandle m.slot (BitVec.ofNat 128 (setFld (setFld (setFld q.toNat 99 92 gen) 87 84 cls) 41 0 (m.dst / 64)))
  let chans := s.chans.map (fun e =>
    if e.1 / 16 = h && s.pv 0x8900 e.1 = ctx then
      (e.1, { e.2 with descs := e.2.descs.map (fun d =>
        if d.phase = .accepted || d.phase = .bounds || d.phase = .ready then
          { d with w := fresh (fresh (fresh (fresh d.w 270 255) 324 309) 422 407) 394 379 } else d) })
    else e)
  let flight := s.flight.map (fun x =>
    match x.purpose with
    | .scalar _ _ =>
      if x.srcUnit = h && x.ctx = ctx && x.stage = .issueStall && decide (old ≤ x.ga.toNat) && decide (x.ga.toNat < old + 64 * m.lines) then
        { x with ga := BitVec.ofNat 48 (m.dst + (x.ga.toNat - old)), loc := s.locate (m.dst + (x.ga.toNat - old)) }
      else x
    | _ => x)
  let moves := s.hives.moves.filter (fun n => n.slot ≠ m.slot)
  let jobs := s.jobs.map (fun e =>
    if e.1 / 256 = h && e.2.ctx = ctx && (e.2.st = .waiting || e.2.st = .queued || e.2.st = .running) && jobUses e.2.w i then
      (e.1, e.2.moved i (s.handle h ctx i) ((m.dst : Int) - old))
    else e)
  let s := { s with chans := chans, flight := flight, jobs := jobs, hives := { s.hives with moves := moves } }
  let s := match (s.chan h m.chan).desc? m.desc with
    | some d => s.setDesc h m.chan { d with phase := .presented }
    | none => s
  s.sxpRetry h

/-- Every line of a MOVE's pass has been read and its write has completed (R141, R167). -/
def State.movePassed (s : State) (m : Move) : Bool :=
  let h := m.slot / 512
  match (s.chan h m.chan).desc? m.desc with
  | some d => m.todo.isEmpty && d.phase = .issued && !d.jwait && d.src.isEmpty && d.open_.isEmpty &&
      !s.flight.any (fun x => x.ofChan h m.chan && x.purpose = .dmaSrc m.desc)
  | none => false

/-- MOVE_PASS_END: a pass has copied the lines it owes; the lines written meanwhile are the next pass's, the last one's once few are left or the
passes are spent, and the last pass commits (R141). -/
def execMovePassEnd (h : HiveId) (s : State) : Host.Outcome State Fault Refusal :=
  .next (match s.hives.moves.find? (fun m => m.hive = h.val) with
    | none => s
    | some m =>
      let c := s.chan (m.slot / 512) m.chan
      if !s.clk.rootOn || c.st ≠ .run || !s.movePassed m then s
      else if m.final then s.moveCommit m
      else
        { s with hives := { s.hives with moves := s.hives.moves.map (fun (n : Move) =>
          if n.slot = m.slot then
            { n with pass := m.pass + 1, todo := n.dirty, final := decide (n.dirty.length ≤ m.few) || decide (m.most ≤ m.pass + 1) }
          else n) } })

/-! ### Presenting lines (R153, R159 to R164) -/

/-- The next source line of a descriptor from its read cursor: its row and its number in the row. -/
def Desc.nextRead (d : Desc) (base : Nat) : Option (Nat × Nat) :=
  if dOp d.w ≠ 1 && dOp d.w ≠ 3 then none
  else
    let line := fun (v l : Nat) =>
      let a := (base + srcRow d.w v).toNat % 64
      (d.srcRuns v).foldl (fun (o : Option Nat) r =>
        let u := unitsOf (a + r.1) (r.2 - r.1) 64
        let n := max l u.1
        if u.2 ≤ n then o
        else match o with
          | some m => some (min m n)
          | none => some n) none
    let v := if d.rdLine = 0 && isTile d.w then d.nextIn d.rdRow else d.rdRow
    if dRows d.w ≤ v then none
    else match line v d.rdLine with
      | some l => some (v, l)
      | none =>
        let v := if isTile d.w then d.nextIn (v + 1) else v + 1
        if dRows d.w ≤ v then none else (line v 0).map (fun l => (v, l))

/-- A COPY goes downward where its destination does not precede its source (R166). -/
def copyDown (w : BitVec 512) (src dst : Nat) : Bool := dOp w = 3 && decide (src ≤ dst)

/-- Line number l of a row of n lines in the direction of the copy. -/
def turned (down : Bool) (n l : Nat) : Nat := if down then n - 1 - l else l

/-- What a channel would present next; `lines` counts the destination lines it writes. -/
structure Offer where
  d     : Desc
  next  : Desc
  x     : Xact
  place : Option (Nat × Nat × Nat × Nat)
  base  : Nat
  sched : Bool
  lines : Nat
deriving DecidableEq, Repr

/-- The bank of a line as the distinctness of a DXP request counts it (R56). -/
def lineBank (x : Xact) : Nat := if x.loc.arb = 0x50000 then 0x100000 + x.ga.toNat / 64 else x.loc.arb

/-- The fields every line of a descriptor carries (R162). -/
def State.lineBase (s : State) (h k : Nat) (d : Desc) : Xact :=
  let w := d.w
  { sched := dSched w && s.determ, qos := dQos w, ctx := s.chCtx h k, deadline := s.deadlineAt (s.dlOffset (dQos w) (dDl w)),
    flow := BitVec.ofNat 12 (dFlow w), srcUnit := h, srcPort := 3, srcChan := k, layer := BitVec.ofNat 16 (dLayer w),
    operator := BitVec.ofNat 16 (dOper w), unit := h, since := s.clk.now, born := s.clk.now }

/-- The schedule lets a SCHED line go in this cycle (R163): its bank's field names DXP, or the injection wheel names its flow. Lines of the
Hive's own sync page go as dynamic ones. -/
def State.lineMatch (s : State) (h : Nat) (x : Xact) : Bool :=
  if !x.sched then true
  else if ownHive h x.ga.toNat x.loc then
    match x.loc with
    | .sync _ _ => true
    | l => s.schedMatch h 3 0 [l]
  else s.injectMatch h x.flow.toNat

/-- The next source line, as an offer. -/
def State.offerRead (s : State) (h k : Nat) (d : Desc) : Option Offer :=
  let q := s.handle h (s.chCtx h k) (dSrcRef d.w % 64)
  let dst := s.handle h (s.chCtx h k) (dDstRef d.w % 64)
  let src := hBase q + dSrcOff d.w
  let down := copyDown d.w src (hBase dst + dDstOff d.w)
  match d.nextRead (hBase q) with
  | none => none
  | some (v, l0) =>
    let g := (hBase q + srcRow d.w v).toNat
    let l := if dOp d.w = 3 then turned down (lineCount 0 g (dLen d.w)) l0 else l0
    let ga := (g / 64 + l) * 64
    let x : Xact := { s.lineBase h k d with kind := .read, ga := BitVec.ofNat 48 ga, mask := fullMask, loc := s.locate ga,
                                            purpose := .dmaSrc d.idx, tag := srcKey v l }
    some { d := d, next := { d with rdRow := v, rdLine := l0 + 1 }, x := x, place := Option.none, base := 0, sched := x.sched, lines := 0 }

/-- Lines from the oldest write of a channel not yet complete to its next one (R176). -/
def Chan.ahead (c : Chan) : Nat :=
  let ds := c.descs.dropWhile (fun d => d.open_.isEmpty)
  match ds with
  | [] => 0
  | d :: t => (d.wrN - (d.open_.foldl (fun a o => min a o.1) d.wrN)) + t.foldl (fun a e => a + e.wrN) 0

/-- How the source lines that a destination line needs stand: some missing, one without data, or all there by a cycle. -/
inductive Need where
  | missing
  | bad (code ga : Nat)
  | by_ (t : Nat)
deriving DecidableEq, Repr

/-- The source lines that bytes x to y of a row need. -/
def needsOf (d : Desc) (base v x y : Nat) : Need :=
  let g := (base + srcRow d.w v).toNat
  let a := g % 64
  let ls := ((d.needRuns v x y).map (fun r => let u := unitsOf (a + r.1) (r.2 - r.1) 64; (List.range (u.2 - u.1)).map (fun j => u.1 + j))).flatten
  ls.foldl (fun n l => match n with
    | .by_ t => match Tbl.find d.src (srcKey v l) with
      | none => .missing
      | some r => if r.result = .ok then .by_ (max t r.valid) else .bad r.result.dmaCode ((g / 64 + l) * 64)
    | n => n) (.by_ 0)

/-- The state after a row's write cursor moves past line l of n: the next line, or the next row that presents lines; source lines no longer
needed are dropped. -/
def Desc.advance (d : Desc) (v l n : Nat) : Desc :=
  if l + 1 < n then { d with wrRow := v, wrLine := l + 1 }
  else
    let v' := d.nextOut (v + 1)
    { d with wrRow := v', wrLine := 0, src := d.src.filter (fun e => decide (v < e.1 / 2^36)),
             phase := if v' < dRows d.w then d.phase else .presented }

/-- The next destination line of a descriptor: passed over where a halt left it done, an offer, or the fault that its data brings. -/
inductive WriteStep where
  | none
  | skip (d : Desc)
  | halt (code ga : Nat)
  | offer (o : Offer)
deriving DecidableEq, Repr

/-- The end of the part of a tier range that maps to the raw page of its first byte. -/
def State.runEnd (s : State) : Nat → Nat → Nat → Nat
  | 0, a, _ => a
  | n + 1, a, last =>
    let e := min last (a / 64 * 64 + 64)
    let same := match s.locate (a / 64 * 64), s.locate e with
      | .t1 r, .t1 q => decide (r / 4096 = q / 4096)
      | .t2 k r, .t2 j q => decide (k = j ∧ r / 4096 = q / 4096)
      | _, _ => false
    if last ≤ e then last else if same then s.runEnd n e last else e

/-- Where the run of a FILL from an address ends: a 4 KiB-aligned block of Hive or pool range, or a raw page of a tier (R165). -/
def State.fillRun (s : State) (a last : Nat) : Nat :=
  match s.locate (a / 64 * 64) with
  | .t1 _ => s.runEnd 64 a last
  | .t2 _ _ => s.runEnd 64 a last
  | _ => min last (a / 4096 * 4096 + 4096)

/-- A FILL whose destination lies in another unit goes as fill commands (R165). -/
def fillRemote (h : Nat) (l : Loc) : Bool := l.unit ≠ h

/-- Lines of a command from line n on, `most` at most and none that a halt left done (R176, R178). -/
def Desc.runOf (d : Desc) (n most : Nat) : Nat := ((List.range (min 64 most)).takeWhile (fun i => !d.skip.contains (n + i))).length

/-- A descriptor whose next `cnt` lines, of n in row v, go as one command. -/
def Desc.sendRun (d : Desc) (v cnt n : Nat) : Desc :=
  { ({ d with wrN := d.wrN + cnt }.advance v (d.wrLine + cnt - 1) n) with open_ := d.open_ ++ (List.range cnt).map (fun i => (d.wrN + i, false)) }

/-- A COPY whose ranges both lie in one other Hive goes to it in commands (R166). -/
def copyRemote (h src dst len : Nat) : Option Nat :=
  let one := fun (a : Nat) => a / 0x400000 = (a + len - 1) / 0x400000 && decide (a + len ≤ 0x40000000)
  if 0 < len ∧ one src ∧ one dst ∧ src / 0x400000 = dst / 0x400000 ∧ src / 0x400000 ≠ h then some (src / 0x400000) else none

/-- The next destination line of a descriptor as it stands. -/
def State.nextWrite (s : State) (h k : Nat) (d : Desc) : WriteStep :=
  let w := d.w
  let ctx := s.chCtx h k
  let sq := s.handle h ctx (dSrcRef w % 64)
  let dq := s.handle h ctx (dDstRef w % 64)
  let v := if d.wrLine = 0 then d.nextOut d.wrRow else d.wrRow
  if dRows w ≤ v then .skip { d with phase := .presented }
  else
    let g := (hBase dq + dstRow w v).toNat
    let sg := (hBase sq + srcRow w v).toNat
    let bytes := d.rowOut v
    let n := lineCount w g bytes
    let down := copyDown w sg g
    let l := turned down n d.wrLine
    let loc := s.locate (g / 64 * 64 + 64 * l)
    let base := s.lineBase h k d
    let win := hClass dq = 6
    let nx := { d with wrN := d.wrN + 1 }.advance v d.wrLine n
    if d.skip.contains d.wrN then .skip nx
    else if dOp w = 2 && fillRemote h loc then
      let a := max g ((g / 64 + d.wrLine) * 64)
      let last := s.fillRun a (g + bytes)
      let cnt := d.runOf d.wrN ((last - 1) / 64 - a / 64 + 1)
      let e := min last ((a / 64 + cnt) * 64)
      let x : Xact := { base with kind := .write, ga := BitVec.ofNat 48 a, mask := 0, loc := loc, purpose := .fill d.idx d.wrN, tag := d.wrLine,
                                  data := BitVec.ofNat 512 (pack [(63, 0, dPattern w), (127, 64, e - a)]) }
      .offer { d := d, next := d.sendRun v cnt n, x := x, place := Option.none, base := 0, sched := x.sched, lines := cnt }
    else if dOp w = 3 && !win && (copyRemote h sg g bytes).isSome then
      let cnt := d.runOf d.wrN (n - d.wrLine)
      let low := g / 64 + (if down then n - (d.wrLine + cnt) else d.wrLine)
      let a := max g (low * 64)
      let e := min (g + bytes) ((low + cnt) * 64)
      let x : Xact := { base with kind := .write, code := 1, ga := BitVec.ofNat 48 a, mask := 0, loc := s.locate (a / 64 * 64), purpose := .fill d.idx d.wrN,
                                  tag := d.wrLine, data := BitVec.ofNat 512 (pack [(127, 64, e - a), (175, 128, sg + (a - g))]) }
      .offer { d := d, next := d.sendRun v cnt n, x := x, place := Option.none, base := 0, sched := x.sched, lines := cnt }
    else
        let sp := lineSpan w g bytes l
        match (if dOp w = 2 then Need.by_ 0 else needsOf d (hBase sq) v sp.1 sp.2) with
        | .missing => .none
        | .bad c ga => .halt c ga
        | .by_ t =>
          let lag := if t = 0 then 0 else if d.copies v then 2 else if dSrcFmt w = dDstFmt w then 2 else 4
          if s.clk.now < t + lag then .none
          else
            let o := d.outLine v g (sg % 64) l
            let x : Xact := { base with kind := if dAcc w = 0 then .write else .acc, code := BitVec.ofNat 4 (dAcc w), ga := BitVec.ofNat 48 o.ga,
                                        mask := o.mask, data := o.data, loc := if win then .none else s.locate (o.ga / 64 * 64),
                                        purpose := .dmaDst d.idx d.wrN, tag := srcKey v d.wrLine }
            .offer { d := d, next := { nx with open_ := d.open_ ++ [(d.wrN, false)] }, x := x,
                     place := if win then some (winOf dq) else Option.none, base := hBase dq, sched := x.sched, lines := 1 }

/-- The MOVE of a descriptor. -/
def State.moveOf (s : State) (h k : Nat) (d : Desc) : Option Move := s.hives.moves.find? (fun m => m.slot / 512 = h && m.chan = k && m.desc = d.idx)

/-- The next destination line of a MOVE: of the oldest line read, ready like any write of its source's format (R159, R167). -/
def State.moveWrite (s : State) (h k : Nat) (d : Desc) (m : Move) : WriteStep :=
  match d.src with
  | [] => .none
  | e :: _ =>
    if e.2.result ≠ .ok then .halt e.2.result.dmaCode (m.hive * 0x400000 + 64 * e.1)
    else if s.clk.now < e.2.valid + 2 then .none
    else
      let dq := s.handle h (s.chCtx h k) (dDstRef d.w % 64)
      let ga := m.dst + 64 * (e.1 - m.src)
      let win := hClass dq = 6
      let x : Xact := { s.lineBase h k d with kind := .write, ga := BitVec.ofNat 48 ga, mask := fullMask, data := e.2.data,
                                              loc := if win then .none else s.locate ga, purpose := .dmaDst d.idx d.wrN }
      .offer { d := d, next := { d with src := Tbl.erase d.src e.1, wrN := d.wrN + 1, open_ := d.open_ ++ [(d.wrN, false)] }, x := x,
               place := if win then some (winOf dq) else Option.none, base := hBase dq, sched := false, lines := 1 }

/-- The next source line of a MOVE's pass (R141, R167). -/
def State.moveRead? (s : State) (h k : Nat) (d : Desc) (m : Move) : Option Offer :=
  m.todo.head?.map (fun l =>
    let ga := m.hive * 0x400000 + 64 * l
    let x : Xact := { s.lineBase h k d with kind := .read, ga := BitVec.ofNat 48 ga, mask := fullMask, loc := s.locate ga, purpose := .dmaSrc d.idx, tag := l }
    { d := d, next := d, x := x, place := Option.none, base := 0, sched := false, lines := 0 })

/-- A line of a MOVE's pass is asked for. -/
def State.moveAsked (s : State) (h k : Nat) (o : Offer) : State :=
  if dOp o.d.w = 4 && o.x.kind = .read then
    { s with hives := { s.hives with moves := s.hives.moves.map (fun m =>
      if m.slot / 512 = h && m.chan = k && m.desc = o.d.idx then { m with todo := m.todo.drop 1 } else m) } }
  else s
/-- Puts an offered line in flight: to its window, or through the issue checks. -/
def State.sendOffer (s : State) (h k grp dir dest : Nat) (o : Offer) : State :=
  let n := s.nextId
  let own := match o.x.loc with
    | .sync _ _ => ownHive h o.x.ga.toNat o.x.loc
    | _ => false
  let tag := match s.flight.find? (fun y => y.grp = grp && y.ofChan h k) with
    | some y => y.dxpTag
    | none => s.dxpTagOf h k
  let s := (s.moveAsked h k o).addX { o.x with grp := grp, sched := o.x.sched && !own, dir := dir, dest := dest, dxpTag := tag }
  let s := match s.xact n, o.place with
    | some y, some p => s.windowLine y p o.base
    | some y, none => s.issue y true
    | none, _ => s
  match (s.chan h k).desc? o.d.idx with
  | some e => s.setDesc h k { o.next with open_ := o.next.open_, phase := if e.phase = .issued then o.next.phase else e.phase }
  | none => s

/-- The line a channel presents next in this cycle: a write first, in visit order, else a read that runs ahead. A channel that pauses presents
nothing at a row boundary. The state returned has passed over lines already done. -/
def State.chanOffer : Nat → State → Nat → Nat → List Nat → Bool → State × Option Offer
  | 0, s, _, _, _, _ => (s, none)
  | n + 1, s, h, k, used, sched =>
    let c := s.chan h k
    match c.head? with
    | none => (s, none)
    | some d =>
      let move := if dOp d.w = 4 then s.moveOf h k d else none
      let held := (List.range 64).any (fun i => descUses d i && s.movedRef h (s.chCtx h k) i)
      if c.st ≠ .run || d.phase ≠ .issued || d.jwait || (move.isNone && (dOp d.w = 4 || held || (c.pausing && d.wrLine = 0))) then (s, none)
      else
        let fit := fun (o : Offer) => o.sched = sched && !used.contains (lineBank o.x) && s.lineMatch h o.x && (o.sched || !s.throttled 0)
        let rd := (match move with
          | some m => s.moveRead? h k d m
          | none => s.offerRead h k d).filter (fun o => fit o && !s.flight.any (fun x => x.ofChan h k && isWr x.kind && x.unsent &&
            decide (x.lo < o.x.hi) && decide (o.x.lo < x.hi)))
        match (match move with
          | some m => s.moveWrite h k d m
          | none => s.nextWrite h k d) with
        | .skip d' => State.chanOffer n (s.setDesc h k d') h k used sched
        | .halt code ga => (s.chanHalt h k d.idx code (dSrcRef d.w % 64) ga, none)
        | .none => (s, rd)
        | .offer o => if fit o && decide (c.ahead + o.lines ≤ 65) && !s.chanStalled h k then (s, some o) else (s, rd)

/-- Fills a request from one channel, up to `n` lines in banks not yet used; all its lines travel under one tag. -/
def State.chanLines : Nat → State → Nat → Nat → Nat → List Nat → Bool → State × List Nat
  | 0, s, _, _, _, used, _ => (s, used)
  | n + 1, s, h, k, grp, used, sched =>
    match State.chanOffer 64 s h k used sched with
    | (s, none) => (s, used)
    | (s, some o) =>
      let g := if grp = 0 then s.nextId else grp
      State.chanLines n (s.sendOffer h k g 0 0 o) h k g (used ++ [lineBank o.x]) sched


/-- Marks the lines of one channel's request as a burst of two beats (R69, R160): the first eight are the first beat, the others present a cycle
later. -/
def State.markBurst (s : State) (k first : Nat) : State :=
  let mine := s.flight.filter (fun x => decide (first ≤ x.id) && x.srcPort = 3 && x.srcChan = k)
  let beat1 := mine.take 8
  let beat2 := (mine.drop 8).map (fun x => x.id)
  let ready := mine.all (fun x => x.stage = .arbiter && !x.mesh && !x.sched)
  let g := first
  { s with flight := s.flight.map (fun x =>
      if beat1.any (fun y => y.id = x.id) then { x with dir := if ready then 1 else 0 }
      else if beat2.contains x.id then
        { x with grp := (beat2.head?).getD x.grp, dir := if ready then 2 else 0, dest := if ready then g else x.dest, ready := x.ready + 1 }
      else x) }

/-- The channels of a Hive in the order of this cycle: starting after the one served first before (R159). -/
def State.chanOrder (s : State) (h : Nat) : List Nat :=
  let t := Tbl.get s.chTurn 0 h
  (List.range 16).map (fun j => (t + j) % 16)

/-- A channel's turn in a DXP request (R159): the state, the banks taken, and the first channel served. -/
def dxpTake (h : Nat) (sched : Bool) (p : State × List Nat × Option Nat) (k : Nat) : State × List Nat × Option Nat :=
  if 8 ≤ p.2.1.length || !p.1.tagFree h 3 k then p
  else
    let r := State.chanLines (8 - p.2.1.length) p.1 h k 0 p.2.1 sched
    (r.1, r.2, if r.2.length = p.2.1.length then p.2.2 else match p.2.2 with
      | some j => some j
      | none => if sched then none else some k)

/-- A request of one channel grows into a burst of two beats where its next lines let it (R69, R160). -/
def State.dxpBurst (s : State) (h k first : Nat) (used : List Nat) : State :=
  let r := State.chanLines 8 s h k 0 used false
  if !s.tagFree h 3 k || r.2.length = used.length then s.occupy (dxpKey h) 1
  else (r.1.markBurst k first).occupy (dxpKey h) 2

/-- The end of a DXP request that took the banks `used`: the turn passes on, and the port is occupied (R159). -/
def State.dxpEnd (s : State) (h first : Nat) (used : List Nat) (turn : Option Nat) : State :=
  let s := match turn with
    | some k => { s with chTurn := Tbl.set s.chTurn 0 h ((k + 1) % 16) }
    | none => s
  let one := (s.flight.filter (fun x => decide (first ≤ x.id) && x.srcUnit = h && x.srcPort = 3 && x.srcChip.isNone))
  if used.isEmpty then s
  else match turn, one with
    | some k, x :: t =>
      if one.length = 8 && t.all (fun y => y.srcChan = k) && x.srcChan = k && one.all (fun y => y.stage = .arbiter && !y.mesh && !y.sched) then
        s.dxpBurst h k first used
      else s.occupy (dxpKey h) 1
    | _, _ => s.occupy (dxpKey h) 1

/-- One DXP request: SCHED lines that match first, then lines of the channels in turn, eight in all (R159). -/
def State.dxpRequest (s : State) (h : Nat) : State :=
  let order := s.chanOrder h
  let p := order.foldl (dxpTake h true) (s, [], none)
  let q := order.foldl (dxpTake h false) p
  q.1.dxpEnd h p.1.nextId q.2.1 q.2.2

/-- A pausing channel stops at a row boundary (R178). -/
def State.pauseTry (s : State) (h k : Nat) : State :=
  let c := s.chan h k
  let boundary := match c.head? with
    | some d => d.phase ≠ .issued || (d.wrLine = 0 && dOp d.w ≠ 4)
    | none => true
  if c.pausing && c.st = .run && boundary then s.setChan h k { c with st := .paused, pausing := false } else s

/-- What a Hive's channels do as soon as they may: pause, fetch, read bounds, take a tail. -/
def State.chanPump (s : State) (h : Nat) : State :=
  (List.range 16).foldl (fun s k =>
    let s := (((s.dxpPump h).tailApply h k).pauseTry h k).boundReads h k
    let c := s.chan h k
    let s : State := match c.head? with
      | some d => if d.phase = DPhase.accepted && d.jseq.isNone && d.jwait && c.st = ChSt.run then s.descAccept h k { d with jwait := false } else s
      | none => s
    (s.chanFetch h k).chanIdle h k) s

/-- DMA_LINE_PRESENT. -/
def execDmaLinePresent (h : HiveId) (s : State) : Host.Outcome State Fault Refusal :=
  .next (
    let s' := s.dxpPump h.val
    if !s.ctlOpen h.val then s
    else if s'.dxpFree h.val then (s'.dxpRequest h.val).chanPump h.val
    else s'.chanPump h.val)

/-! ### Fill and copy commands at their unit (R165, R166) -/

/-- The bytes of a run that fall in the line of an address: offset in the line and count. -/
def runBytes (lo hi a : Nat) : Nat × Nat := (max lo a - a, min hi (a + 64) - max lo a)

/-- A copy command goes downward (R166). -/
def Xact.runDown (x : Xact) : Bool := x.code = 1 && decide (x.runSrc ≤ x.ga.toNat)

/-- The address of line i of a command, in the order in which its lines are written. -/
def Xact.runLine (x : Xact) (i : Nat) : Nat := 64 * (x.ga.toNat / 64 + turned x.runDown x.runCount i)

/-- The lines of a command that are under way. -/
def State.runs (s : State) (cmd : Nat) : List Xact := s.flight.filter (fun x => x.purpose = .run cmd)

/-- The target unit of a command accesses a line itself: through its own MIP's checks to its bank's arbiter, or in the queue of a tier's controller
(R165, R166). The line keeps its command's place in the order of its source; it is dynamic (log entry 84). -/
def State.runAccess (s : State) (y : Xact) (kind : AccKind) (ga i : Nat) (mask : Dword) (d : Line) : State :=
  let n := s.nextId
  let x : Xact := { y with kind := kind, code := 0, sched := false, ga := BitVec.ofNat 48 ga, mask := mask, data := d, tag := i, loc := s.locate ga,
                           purpose := .run y.id, unit := y.loc.unit, born := s.clk.now, since := s.clk.now, ready := s.clk.now, by_ := 0, wbase := 0,
                           stage := .edgeIngress, inp := 0, dir := 0, mesh := true }
  let t := s.addX x
  match t.xact n with
  | none => t
  | some z =>
    let z := { z with seq := y.seq }
    if y.loc.unit < 256 then (t.setX z).mipCheck z else t.setX z

/-- Line i of a command's destination with its bytes of `all`, the command's data from its first byte on. -/
def State.cmdLineWrite (s : State) (y : Xact) (all : Nat) (i : Nat) : State :=
  let a := y.runLine i
  let lo := y.ga.toNat
  let b := runBytes lo (lo + y.runLen) a
  s.runAccess y .write a i (byteMask b.1 b.2) (BitVec.ofNat 512 (all / 2^(8 * (max lo a - lo)) % 2^(8 * b.2) * 2^(8 * b.1)))

/-- The bytes of a fill from its first byte on: byte a takes byte a mod 8 of the pattern (R165). -/
def Xact.fillBytes (x : Xact) : Nat :=
  let p := fld x.data.toNat 63 0
  let n := x.runCount
  (List.range (8 * n + 8)).foldl (fun a i => a + p * 2^(64 * i)) 0 / 2^(8 * (x.ga.toNat % 8)) % 2^(8 * x.runLen)

/-- A command with the fault of its line i, `src` telling the side, where no earlier line has one (R48, R176). -/
def Xact.runFault (y : Xact) (i : Nat) (src : Bool) (r : Result) (ga : Nat) : Xact :=
  if y.by_ = 0 || decide (2 * (i + 1) + b2n src < y.by_) then { y with by_ := 2 * (i + 1) + b2n src, result := r, wbase := ga } else y

/-- A command with no line under way is answered. -/
def State.runDone (s : State) (cmd : Nat) : State :=
  match s.xact cmd with
  | some y => if (s.runs cmd).isEmpty then s.answer y y.loc.unit 1 else s
  | none => s

/-- The first source line without data among those that bytes a to b need. -/
def sourceBad (ls : List Xact) (a b : Nat) : Option Xact :=
  ls.find? (fun x => x.result ≠ .ok && decide (a / 64 ≤ x.ga.toNat / 64) && decide (x.ga.toNat / 64 ≤ (b - 1) / 64))

/-- Once all source lines of a copy command have been read, its lines are written, in order, up to the first that needs a line without data (R166,
R176). -/
def State.copyWrites (s : State) (y : Xact) : State :=
  let ls := s.runs y.id
  let lo := y.ga.toNat
  let need := fun (i : Nat) => let a := max lo (y.runLine i); let b := min (lo + y.runLen) (y.runLine i + 64); sourceBad ls (y.runSrc + (a - lo)) (y.runSrc + (b - lo))
  let all := (ls.foldl (fun t x => t + x.data.toNat * 2^(512 * (x.ga.toNat / 64 - y.runSrc / 64))) 0) / 2^(8 * (y.runSrc % 64)) % 2^(8 * y.runLen)
  let good := (List.range y.runCount).takeWhile (fun i => (need i).isNone)
  let z := match (if good.length < y.runCount then need good.length else none) with
    | some x => y.runFault good.length true x.result x.ga.toNat
    | none => y
  let z := { z with stage := .bankSecond }
  let s : State := { s with flight := s.flight.filter (fun (x : Xact) => x.purpose ≠ Purpose.run y.id) }
  (good.foldl (fun s i => s.cmdLineWrite z all i) (s.setX z)).runDone y.id

/-- A line of a command has ended: a source line is kept until all have come; a written one is noted, and the last one ends the command. -/
def State.runLineEnd (s : State) (x : Xact) (cmd : Nat) : State :=
  match s.xact cmd with
  | none => s
  | some y =>
    if isWr x.kind then
      let z := if x.result = .ok then { y with mask := y.mask ||| BitVec.ofNat 64 (2^x.tag) } else y.runFault x.tag false x.result x.ga.toNat
      (s.setX z).runDone cmd
    else
      let s := s.addX { x with stage := .landed }
      if (s.runs cmd).all (fun z => z.stage = .landed) then s.copyWrites y else s

/-- FILL_CMD_RECV: a unit takes a fill or copy command and accesses its lines itself (R165, R166). -/
def execFillCmdRecv (x : Nat) (s : State) : Host.Outcome State Fault Refusal :=
  .next (match s.xact x with
    | some y =>
      if s.clk.rootOn && y.isFill && y.half = .request && (y.stage = .mipHeld || y.stage = .edgeIngress) && decide (y.ready ≤ s.clk.now) then
        let y := { y with stage := .bankFirst, unit := y.loc.unit, by_ := 0, mask := 0 }
        let s := s.setX y
        if y.code = 1 then
          (List.range ((y.runSrc + y.runLen - 1) / 64 - y.runSrc / 64 + 1)).foldl (fun s j => s.runAccess y .read (64 * (y.runSrc / 64 + j)) j fullMask 0) s
        else (List.range y.runCount).foldl (fun s i => s.cmdLineWrite y y.fillBytes i) s
      else s
    | none => s)

/-! ### Completion (R174, R175) -/

/-- The footprint of a descriptor is released once no write of it is under way (R161). -/
def State.footEnd (s : State) (h k idx : Nat) : State :=
  if s.flight.any (fun x => x.ofChan h k && isWr x.kind && x.purpose ≠ .completion && x.desc = some idx) then s
  else match s.hives.sb.find? (fun e => e.hive = h && e.port = 3 && e.chan = k && e.desc = idx) with
    | some e => s.sbDrop e.id
    | none => s

/-- Takes a descriptor whose action has been performed, or that was abandoned, off the front of the ring order: RING_DONE passes it. -/
def State.descPop : Nat → State → Nat → Nat → State
  | 0, s, _, _ => s
  | n + 1, s, h, k =>
    let c := s.chan h k
    match c.descs with
    | [] => s
    | d :: t =>
      if d.phase = .complete && !d.jwait then
        let s := s.footEnd h k d.idx
        State.descPop n (s.setChan h k { c with descs := t, done := c.done + 1 }) h k
      else s

/-- RING_DONE passes what is performed, and the channel goes on. -/
def State.chanAdvance (s : State) (h k : Nat) : State := ((State.descPop 64 s h k).chanFetch h k).chanIdle h k

/-- Performs the completion action of a descriptor (R174): none, or an add of 1 through DXP that the descriptor then waits for. -/
def State.descAction (s : State) (h k : Nat) (d : Desc) : State :=
  let w := d.w
  if dCmpl w = 0 || d.noAct then (s.setDesc h k { d with phase := .complete, jwait := false }).chanAdvance h k
  else
    let ga := s.refGa h (s.chCtx h k) (dCmplRef w) (8 * dCmplWord w)
    (s.setDesc h k { d with jwait := false, noAct := true }).chanReq h k ga .atomic 2 (byteMask (ga % 64) 8) 1 w .completion d.idx

/-- A journaled write to tier 2 is DONE only once the page buffers of its requester are written out (R267, R341). -/
def State.persisted (s : State) (h k : Nat) (d : Desc) : State × Bool :=
  match s.locate (s.refGa h (s.chCtx h k) (dDstRef d.w) (dDstOff d.w)) with
  | .t2 c _ =>
    let u := 8 + c
    let busy := s.tiers.bufs.any (fun b => b.unit = u && b.dirty ≠ 0) ||
      s.flight.any (fun x => x.loc.unit = uT2 c && (match x.purpose with
        | .pageOp => true
        | _ => false))
    ({ s with tiers := { s.tiers with bufs := s.tiers.bufs.map (fun b => if b.unit = u && b.dirty ≠ 0 then { b with closing := true } else b) } }, !busy)
  | _ => (s, true)

/-- DESC_COMPLETE: the oldest descriptor's writes have all completed; a journaled one is DONE first, then its action is performed
(R174, R175, R341). -/
def execDescComplete (h : HiveId) (k : ChanId) (s : State) : Host.Outcome State Fault Refusal :=
  .next (
    let c := s.chan h.val k.val
    match c.descs.head? with
    | some d =>
      if !s.clk.rootOn || d.phase ≠ .presented || !d.open_.isEmpty || d.jwait || c.st = .draining || d.noAct ||
          (c.st = .halted && c.desc.toNat = d.idx) || s.movedRef h.val (s.chCtx h.val k.val) (dCmplRef d.w) then s
      else match d.jseq with
        | some n =>
          if jState (s.jEntry n) = jDone then s.descAction h.val k.val d
          else
            let p := s.persisted h.val k.val d
            if p.2 then p.1.descJournal h.val k.val d jDone 0 else p.1
        | none => s.descAction h.val k.val d
    | none => s)

/-- A write of a descriptor's journal entry has completed: an ACCEPTED one is checked, a STARTED one presents, a DONE one performs its action,
a FAILED one leaves the ring (R341). -/
def State.descEntryDone (s : State) (h k idx : Nat) : State :=
  match (s.chan h k).desc? idx with
  | none => s
  | some d =>
    match d.jseq with
    | none => s
    | some n =>
      let st := jState (s.jEntry n)
      let d := { d with jwait := false }
      let s := s.setDesc h k d
      if st = jAccepted then (if d.phase = .accepted then s.descCheck h k d else s)
      else if st = jStarted then s
      else if st = jDone then s.descAction h k d
      else s.chanAdvance h k

/-! ### What comes back to a channel -/

/-- A source line, a ring slot or a bound word has come back (R147, R156, R159). -/
def State.dmaData (s : State) (x : Xact) (key : Nat) (idx : Nat) (data : Line) : State :=
  match (s.chan x.srcUnit x.srcChan).desc? idx with
  | some d => s.setDesc x.srcUnit x.srcChan { d with src := Tbl.insert d.src key { valid := s.clk.now, data := data, result := x.result } }
  | none => s

/-- The read of a ring slot. -/
def State.slotData (s : State) (x : Xact) : State :=
  match (s.chan x.srcUnit x.srcChan).desc? x.tag with
  | some d => if d.phase = .fetching then s.dmaData x 0 d.idx x.data else s
  | none => s

/-- The read of bound word j. -/
def State.boundData (s : State) (x : Xact) (j : Nat) : State :=
  match (s.chan x.srcUnit x.srcChan).head? with
  | some d => if d.phase = .bounds then s.dmaData x j d.idx (BitVec.ofNat 512 (x.data.toNat / 2^(8 * x.tag) % 2^64)) else s
  | none => s

/-- The front of a descriptor's list of open writes: complete ones leave it in order. -/
def popDone (l : List (Nat × Bool)) : List (Nat × Bool) := l.dropWhile (fun o => o.2)

/-- Line i of a write or command of a channel has completed. -/
def Xact.lineOk (x : Xact) (i : Nat) : Bool := if x.isFill then x.result = .ok || x.mask.getLsbD i else x.result = .ok

/-- Lines that a write or command of a channel stands for. -/
def Xact.lineNos (x : Xact) : Nat := if x.isFill then x.runCount else 1

/-- Its first line with a fault, the address of that fault, and whether it lies on the source side (R176, R177). -/
def Xact.lineFault (x : Xact) : Nat × Nat × Bool :=
  if x.isFill && x.by_ ≠ 0 then (x.by_ / 2 - 1, x.wbase, x.by_ % 2 = 1) else (0, x.ga.toNat, false)

/-- Descriptor `idx`, its line f, stands before the halt point of a channel: its fault halts the channel there (R176). -/
def Chan.beforeHalt (c : Chan) (d : Desc) (f : Nat) : Bool :=
  c.st ≠ .halted || (if c.desc.toNat = d.idx then decide (f < d.wrN) && d.phase = .issued && dOp d.w ≠ 4
    else (c.descs.takeWhile (fun e => e.idx ≠ c.desc.toNat)).any (fun e => e.idx = d.idx))

/-- A write of a channel has ended without completing: the channel halts at its first line with a fault, unless it halted before it, drains, or the
descriptor was abandoned; a descriptor that RESUME fetches again starts there (R161, R176, R178). -/
def State.dmaRefused (s : State) (h k : Nat) (d : Desc) (x : Xact) (n : Nat) : State :=
  let c := s.chan h k
  let e := x.lineFault
  let f := n + e.1
  let v := if x.isFill then 0 else x.tag / 2^36
  let l := if x.isFill then x.tag + e.1 else x.tag % 2^36
  let back := if f < d.wrN && dOp d.w ≠ 4 then d.backTo f v l else d
  if c.st = .draining || d.noAct || d.phase = .complete then (s.setDesc h k d).faultDoneNow h k
  else if d.resumed then s.setDesc h k { back with phase := d.phase }
  else if c.beforeHalt d f then (s.setDesc h k back).chanHalt h k d.idx x.result.dmaCode (if e.2.2 then dSrcRef d.w % 64 else dDstRef d.w % 64) e.2.1
  else (s.setDesc h k d).faultDoneNow h k

/-- Destination lines of a channel have completed, or some were refused at their target (R161, R174, R176). -/
def State.dmaWriteEnd (s : State) (x : Xact) (idx n : Nat) : State :=
  let h := x.srcUnit
  let k := x.srcChan
  let c := s.chan h k
  match c.desc? idx with
  | none => s.footEnd h k idx
  | some d =>
    let o := d.open_.map (fun e => if decide (n ≤ e.1) && decide (e.1 < n + x.lineNos) && x.lineOk (e.1 - n) then (e.1, true) else e)
    if x.result = .ok then
      let front := if c.st = .halted && c.desc.toNat = idx || d.resumed then o else popDone o
      let s := s.setDesc h k { d with open_ := front }
      let s := if front.isEmpty && d.phase = .presented then s.footEnd h k idx else s
      (s.faultDoneNow h k).chanAdvance h k
    else s.dmaRefused h k { d with open_ := o } x n

/-- The completion action of a descriptor has been performed, or faulted, on which the channel halts (R175, R176). -/
def State.cmplEnd (s : State) (x : Xact) : State :=
  let h := x.srcUnit
  let k := x.srcChan
  match (s.chan h k).desc? x.tag with
  | some d =>
    if x.result = .ok then (s.setDesc h k { d with phase := .complete }).chanAdvance h k
    else (s.setDesc h k { d with noAct := false }).chanHalt h k x.tag x.result.dmaCode (dCmplRef d.w % 64) x.ga.toNat
  | none => s

/-! ### Channel commands (R178) -/

/-- A channel command reaches its channel through the owner's control page (R145). -/
def State.chanCmd (s : State) (h k : Nat) (i : Instr) (go : State → State) : State :=
  s.cmd h (s.chCtx h k) i (fun s => if s.ctlOpen h then go (s.wakeHive h) else s)

/-- RESUME: the slot of the halted descriptor is fetched again; a halt of the completion action alone performs it again. -/
def State.chanResume (s : State) (h k : Nat) : State :=
  let c := s.chan h k
  if c.st ≠ .halted then s
  else
    let idx := c.desc.toNat
    let ctx := s.chCtx h k
    let fresh := match c.desc? idx with
      | some d => { d with phase := .fetching, resumed := d.phase = .issued || d.phase = .presented || d.resumed, src := [] }
      | none => { idx := idx }
    let off := c.slotOff idx
    let s := (s.setChan h k { c with st := .run }).setDesc h k fresh
    match s.checkHandle h ctx c.ringRef.toNat true false (some (off, off + 63)) with
    | some f => s.chanHandleHalt h k idx f (s.refGa h ctx c.ringRef.toNat off)
    | none => s.chanReq h k (s.refGa h ctx c.ringRef.toNat off) .read 0 fullMask 0 0 .ringFetch idx

/-- CHAN_RESUME. -/
def execChanResume (h : HiveId) (k : ChanId) (s : State) : Host.Outcome State Fault Refusal :=
  .next (s.chanCmd h.val k.val (.chanResume h k) (fun s => s.chanResume h.val k.val))

/-- SKIP: the halted descriptor is abandoned without its action, and the channel goes on with the next. -/
def State.chanSkip (s : State) (h k : Nat) : State :=
  let c := s.chan h k
  if c.st ≠ .halted then s
  else
    let s := s.setChan h k { c with st := .run, failed := c.failed + 1 }
    match c.desc? c.desc.toNat with
    | some d =>
      let d := { d with phase := .complete, noAct := true }
      let s := (s.setDesc h k d).footEnd h k d.idx
      (if d.jseq.isSome then s.descJournal h k d jFailed c.code.toNat else s).chanAdvance h k
    | none => s

/-- CHAN_SKIP. -/
def execChanSkip (h : HiveId) (k : ChanId) (s : State) : Host.Outcome State Fault Refusal :=
  .next (s.chanCmd h.val k.val (.chanSkip h k) (fun s => s.chanSkip h.val k.val))

/-- ABORT: the channel presents nothing more and drains; a MOVE of it is abandoned. -/
def State.chanAbort (s : State) (h k : Nat) : State :=
  let c := s.chan h k
  if c.st = .run || c.st = .halted || c.st = .paused then
    let s := (s.chanStop h k true).setChan h k { c with st := .draining, pausing := false }
    { s with hives := { s.hives with moves := s.hives.moves.filter (fun m => !(m.slot / 512 = h && m.chan = k)) } }.sxpRetry h
  else s

/-- CHAN_ABORT. -/
def execChanAbort (h : HiveId) (k : ChanId) (s : State) : Host.Outcome State Fault Refusal :=
  .next (s.chanCmd h.val k.val (.chanAbort h k) (fun s => s.chanAbort h.val k.val))

/-- CHAN_PAUSE: presenting stops at the next row boundary. -/
def execChanPause (h : HiveId) (k : ChanId) (s : State) : Host.Outcome State Fault Refusal :=
  .next (s.chanCmd h.val k.val (.chanPause h k) (fun s =>
    let c := s.chan h.val k.val
    if c.st = .run then (s.setChan h.val k.val { c with pausing := true }).pauseTry h.val k.val else s))

/-- CHAN_CONTINUE. -/
def execChanContinue (h : HiveId) (k : ChanId) (s : State) : Host.Outcome State Fault Refusal :=
  .next (s.chanCmd h.val k.val (.chanContinue h k) (fun s =>
    let c := s.chan h.val k.val
    if c.st = .paused then (s.setChan h.val k.val { c with st := .run }).chanFetch h.val k.val else s))

/-- CHAN_DRAIN_END: no line of an aborting channel is under way; every descriptor up to RING_TAIL is abandoned (R175, R178). -/
def execChanDrainEnd (h : HiveId) (k : ChanId) (s : State) : Host.Outcome State Fault Refusal :=
  .next (
    let c := s.chan h.val k.val
    let busy := s.flight.any (fun x => x.ofChan h.val k.val && x.stage ≠ .mirrorQueue)
    if !s.clk.rootOn || c.st ≠ .draining || busy then s
    else
      let s := c.descs.foldl (fun s d =>
        let s := s.sbDrop d.sb
        match d.jseq with
        | some n => if jFinal (s.jEntry n) then s else
          { s with journal := { s.journal with openFoot := Tbl.erase s.journal.openFoot n } }.jChange n jFailed 0 .none
        | none => s) s
      s.setChan h.val k.val { c with st := .idle, en := false, failed := c.failed + (c.tail - c.done), done := c.tail, next := c.tail, descs := [],
                                     fenceWait := false })

end Sys2Proof.Machine
end

