-- ==== Sys2Proof/Machine/Scarab.lean ====
section
/-!
DEFINITION. Scarab.lean: Scarab jobs (R191 to R205): submission, the queue of each Scarab, slice reads into the reorder buffer, reduction
in index order, the output, and the end of a job.
-/
namespace Sys2Proof.Machine

/-! ### Fields of a job (R198) -/

def sLayer (w : BitVec 512) : Nat := fld w.toNat 511 496
def sOper (w : BitVec 512) : Nat := fld w.toNat 495 480
def sKind (w : BitVec 512) : Nat := fld w.toNat 479 476
def sRed (w : BitVec 512) : Nat := fld w.toNat 475 474
def sTblFmt (w : BitVec 512) : Nat := fld w.toNat 473 470
def sOutFmt (w : BitVec 512) : Nat := fld w.toNat 469 466
def sZero (w : BitVec 512) : Bool := bit w.toNat 464
def sSat (w : BitVec 512) : Bool := bit w.toNat 463
def sQos (w : BitVec 512) : Nat := fld w.toNat 462 460
def sDl (w : BitVec 512) : Nat := fld w.toNat 459 456
def sCmpl (w : BitVec 512) : Nat := fld w.toNat 455 454
def sCmplWord (w : BitVec 512) : Nat := fld w.toNat 453 441
def sCmplRef (w : BitVec 512) : Nat := fld w.toNat 440 425
def sElems (w : BitVec 512) : Nat := fld w.toNat 424 412
def sPitch (w : BitVec 512) : Nat := fld w.toNat 411 396
def sRows (w : BitVec 512) : Nat := fld w.toNat 395 364
def sTblRef (w : BitVec 512) : Nat := fld w.toNat 363 348
def sTblOff (w : BitVec 512) : Nat := fld w.toNat 347 310
def sIdxRef (w : BitVec 512) : Nat := fld w.toNat 309 294
def sIdxOff (w : BitVec 512) : Nat := fld w.toNat 293 256
def sAuxRef (w : BitVec 512) : Nat := fld w.toNat 255 240
def sAuxOff (w : BitVec 512) : Nat := fld w.toNat 239 202
def sWgtRef (w : BitVec 512) : Nat := fld w.toNat 201 186
def sWgtOff (w : BitVec 512) : Nat := fld w.toNat 185 148
def sBags (w : BitVec 512) : Nat := fld w.toNat 147 124
def sIdx (w : BitVec 512) : Nat := fld w.toNat 123 92
def sOutRef (w : BitVec 512) : Nat := fld w.toNat 91 76
def sOutOff (w : BitVec 512) : Nat := fld w.toNat 75 38
def sOutPitch (w : BitVec 512) : Nat := fld w.toNat 37 22

/-- Bytes of an index or offset. -/
def sWidth (w : BitVec 512) : Nat := if bit w.toNat 465 then 8 else 4

/-- Bytes of a table row. -/
def sRowBytes (w : BitVec 512) : Nat := rowBytes (sTblFmt w) (sElems w)

/-- The job reads weights. -/
def sWeighted (w : BitVec 512) : Bool := sKind w = 1 && sRed w = 3

/-- Bytes of a source row of SCATTER_ACC. -/
def sSrcBytes (w : BitVec 512) : Nat := sElems w * pairWire (sOutFmt w)

/-- Bytes from the first byte of the first of `n` rows to past the last, at a pitch. -/
def rowsSpan (n pitch bytes : Nat) : Nat := if n = 0 then 0 else (n - 1) * pitch + bytes

/-- Runs of bytes that the valid elements of a PAGED_GATHER's last page take. -/
def sLastRuns (w : BitVec 512) : List (Nat × Nat) := elemRuns (sTblFmt w) (sElems w) 0 (sBags w)

/-! ### Jobs and queues -/

/-- The key of a job: its Hive and slot. -/
def jobKey (h slot : Nat) : Nat := 256 * h + slot

/-- The job of a key. -/
def State.job (s : State) (key : Nat) : Job := Tbl.get s.jobs {} key

/-- Stores a job. -/
def State.setJob (s : State) (key : Nat) (j : Job) : State := { s with jobs := Tbl.set s.jobs {} key j }

/-- The unit whose Scarab runs a job of Hive `h` with a target (R194). -/
def scarabUnit (h target : Nat) : Nat := if target = 0 then h else 255 + target

/-- The queue of a Scarab: its jobs in order, those running first. -/
def State.scarab (s : State) (u : Nat) : List Nat := Tbl.get s.scarabs [] u

/-- Stores a queue. -/
def State.setScarab (s : State) (u : Nat) (l : List Nat) : State := { s with scarabs := Tbl.set s.scarabs [] u l }

/-- The handle entry a job resolved at submission: 0 table, 1 index, 2 auxiliary, 3 weights, 4 output, 5 completion. -/
def Job.ref (j : Job) (i : Nat) : Quad := BitVec.ofNat 128 (j.refs.getD i 0)

/-- GA of an offset under a resolved reference. -/
def Job.at_ (j : Job) (i off : Nat) : Nat := hBase (j.ref i) + off

/-- Code and number of a state (R197): a job before its queue reads as FREE. -/
def JSt.code : JSt → Nat
  | .queued => 1
  | .running => 2
  | .done => 3
  | .failed => 4
  | _ => 0

/-- The status word of a slot as a context reads it (R197). -/
def State.jobStatus (s : State) (h c slot : Nat) : Dword :=
  let j := s.job (jobKey h slot)
  if j.ctx ≠ c || j.st.code = 0 then 0
  else dwordOf [(63, 60, j.st.code), (59, 52, j.code.toNat), (51, 48, j.target),
                (47, 16, if j.st = .done || j.st = .failed then j.pos.toNat else 0), (15, 0, j.fails.toNat)]

/-! ### Submission (R194, R195, R198, R199) -/

/-- A job is refused with DESC_INVALID (R198). -/
def State.jobInvalid (s : State) (h c : Nat) (w : BitVec 512) : Bool :=
  let cls := fun (r : Nat) => hClass (s.handle h c (r % 64))
  let k := sKind w
  let n := sElems w
  let tf := sTblFmt w
  let of := sOutFmt w
  let open4 := fun (r : Nat) => cls r = 1 || cls r = 2 || cls r = 3 || cls r = 6
  k = 0 || decide (4 < k) || decide (12 ≤ sDl w) || sCmpl w = 3 || n = 0 || decide (4096 < n) || sPitch w % 64 ≠ 0 ||
  decide (sPitch w < sRowBytes w) || sTblOff w % 64 ≠ 0 || decide (4096 < sRowBytes w) ||
  ((isMx tf || (k ≠ 4 && isMx of)) && n % 32 ≠ 0) ||
  cls (sTblRef w) = 5 || (k ≠ 4 && cls (sTblRef w) = 6) || cls (sIdxRef w) = 6 ||
  ((k = 1 || k = 4) && cls (sAuxRef w) = 6) || (sWeighted w && cls (sWgtRef w) = 6) ||
  (match k with
   | 1 => decide (tf < 3) || decide (of < 3) || !open4 (sOutRef w) || decide (sOutPitch w < rowBytes of n)
   | 2 => !fmtPairOk tf of || !open4 (sOutRef w) || decide (sOutPitch w < rowBytes of n)
   | 3 => tf ≠ of || cls (sOutRef w) ≠ 1 || sBags w = 0 || decide (n < sBags w)
   | _ => !isPair of || tf ≠ (if of = 1 then 3 else if of ≤ 3 then 4 else 1) ||
          !(cls (sTblRef w) = 1 || cls (sTblRef w) = 2 || cls (sTblRef w) = 6) || decide (sOutPitch w < sSrcBytes w))

/-- Bytes of a job's output footprint (R199); SCATTER_ACC writes its table. -/
def sOutSpan (w : BitVec 512) : Nat :=
  match sKind w with
  | 1 => rowsSpan (sBags w) (sOutPitch w) (rowBytes (sOutFmt w) (sElems w))
  | 2 => rowsSpan (sIdx w) (sOutPitch w) (rowBytes (sOutFmt w) (sElems w))
  | 3 => rowsSpan (sIdx w) (sRowBytes w) ((sLastRuns w).foldl (fun a r => max a r.2) 0)
  | _ => 0

/-- Bytes of a job's auxiliary list. -/
def sAuxSpan (w : BitVec 512) : Nat :=
  match sKind w with
  | 1 => (sBags w + 1) * sWidth w
  | 4 => rowsSpan (sIdx w) (sOutPitch w) (sSrcBytes w)
  | _ => 0

/-- Bytes of a job's table. -/
def sTblSpan (w : BitVec 512) : Nat := rowsSpan (sRows w) (sPitch w) (sRowBytes w)

/-- The first handle check that a job fails (R199). -/
def State.jobFault (s : State) (h c : Nat) (w : BitVec 512) : Option HFault :=
  let one := fun (use : Bool) (ref : Nat) (rd wr : Bool) (off len : Nat) =>
    if use then s.checkHandle h c ref rd wr (if len = 0 then none else some ((off : Int), (off : Int) + len - 1)) else none
  let k := sKind w
  let checks := [one true (sTblRef w) (k ≠ 4) (k = 4) (sTblOff w) (sTblSpan w),
    one true (sIdxRef w) true false (sIdxOff w) (sIdx w * sWidth w),
    one (k = 1 || k = 4) (sAuxRef w) true false (sAuxOff w) (sAuxSpan w),
    one (sWeighted w) (sWgtRef w) true false (sWgtOff w) (4 * sIdx w),
    one (k ≠ 4) (sOutRef w) false true (sOutOff w) (sOutSpan w),
    s.cmplCheck h c (sCmpl w) (sCmplRef w) (sCmplWord w)]
  checks.findSome? (fun f => f)

/-- Ranges of GA a job reads through its lists and source rows, those it has, checked against the scoreboard (R195 step 3). -/
def Job.listRanges (j : Job) : List (Nat × Nat) :=
  let w := j.w
  let one := fun (i off len : Nat) => (j.at_ i off, j.at_ i off + len)
  [one 1 (sIdxOff w) (sIdx w * sWidth w), one 2 (sAuxOff w) (sAuxSpan w), one 3 (sWgtOff w) (if sWeighted w then 4 * sIdx w else 0)].filter
    (fun r => decide (r.1 < r.2))

/-- The write footprint of a job as the scoreboard holds it (R195 step 4): its output, or for SCATTER_ACC its table. -/
def State.jobFoot (s : State) (j : Job) : Nat × Nat :=
  let w := j.w
  let i := if sKind w = 4 then 0 else 4
  let lo := j.at_ i (if sKind w = 4 then sTblOff w else sOutOff w)
  let len := if sKind w = 4 then sTblSpan w else sOutSpan w
  let off := if hClass (j.ref i) = 6 then s.chipSpace (hChip (j.ref i)) else 0
  (off + lo, off + lo + len)

/-- A job that passed its checks waits for the writes its lists overlap, then registers its footprint where the scoreboard has room
(R195 steps 3 and 4). -/
def State.jobRegister (s : State) (key : Nat) : State :=
  let j := s.job key
  let h := key / 256
  let met := j.listRanges.any (fun r => s.hives.sb.any (fun e => e.hive = h && decide (e.lo < r.2) && decide (r.1 < e.hi)))
  if j.st ≠ .waiting || j.sb ≠ 0 || met || !s.sbRoom h true then s
  else
    let f := s.jobFoot j
    let id := s.nextId
    (s.sbAdd h 5 (key % 256) key j.ctx f.1 f.2).setJob key { j with sb := id }

/-- The queue of a job's Scarab has room for it (R196). -/
def State.queueRoom (s : State) (h u : Nat) : Bool :=
  let q := s.scarab u
  if u < 256 then decide (q.length < 32) else decide (q.length < 128) && decide ((q.filter (fun k => k / 256 = h)).length < 8)

/-- The target's queue takes a registered job where it has room (R195 steps 5 and 6, R196). -/
def State.jobAccept (s : State) (key : Nat) : State :=
  let j := s.job key
  let h := key / 256
  let u := scarabUnit h j.target
  if j.st ≠ .waiting || j.sb = 0 || !s.queueRoom h u then s
  else ((s.setJob key { j with st := .queued }).setScarab u (s.scarab u ++ [key])).setStatus h j.ctx 0xC40 2 (key % 256 * 2^48)

/-- A submission takes a free slot and is checked (R195 steps 1 and 2); it waits while none is free, or while a fence or a CTX_OP holds its
context (R142, R214). -/
def State.submitTry (s : State) (e : Nat × Nat × Nat × BitVec 512) : State :=
  let h := e.1
  let c := e.2.1
  let w := e.2.2.2
  let moved := (List.range 64).any (fun i => jobUses w i && s.movedRef h c i)
  if s.fetchHeld h c || moved then s
  else match (List.range 256).find? (fun j => s.job (jobKey h j) = {}) with
    | none => s
    | some slot =>
      let s := { s with submits := s.submits.filter (fun x => !(x.1 = h && x.2.1 = c)) }
      match (if s.jobInvalid h c w then some { code := 0x16 } else s.jobFault h c w) with
      | some f =>
        let site : FaultSite := { hive := h, ctx := c, port := 5, job := slot, layer := sLayer w, oper := sOper w }
        (s.handleFault f site).setStatus h c 0xC40 4 (slot * 2^48)
      | none =>
        let q := fun (r : Nat) => (s.handle h c (r % 64)).toNat
        let j : Job := { st := .waiting, w := w, ctx := c, target := e.2.2.1
                         refs := [q (sTblRef w), q (sIdxRef w), q (sAuxRef w), q (sWgtRef w), q (sOutRef w), q (sCmplRef w)] }
        ((s.setJob (jobKey h slot) j).setStatus h c 0xC40 1 (slot * 2^48)).jobRegister (jobKey h slot)

/-- Submissions and registered jobs go on where they can. -/
def State.submitsTry (s : State) : State :=
  let s := s.submits.foldl (fun s e => s.submitTry e) s
  (s.jobs.filter (fun e => e.2.st = .waiting)).foldl (fun s e => s.jobRegister e.1) s

/-- A job word with the fields that its kind reserves 0 (R6, R198). -/
def jobClean (w : Nat) : Nat :=
  let kind := fld w 479 476
  let zero := fun (w hi lo : Nat) (reserved : Bool) => if reserved then setFld w hi lo 0 else w
  let wsum := kind = 1 && fld w 475 474 = 3
  let w := zero w 475 474 (kind ≠ 1)
  let w := zero w 255 202 (kind ≠ 1 && kind ≠ 4)
  let w := zero w 201 148 (!wsum)
  let w := zero w 147 124 (kind ≠ 1 && kind ≠ 3)
  let w := zero w 91 76 (kind = 4)
  let w := zero w 37 22 (kind = 3)
  setFld w 21 0 0

/-- The job staged by a context (R194), as its registers read. -/
def State.jobStaged (s : State) (h c : Nat) : BitVec 512 :=
  BitVec.ofNat 512 (jobClean ((List.range 8).foldl (fun a i => a + (s.page h c (0xC00 + 8 * i)).toNat * 2^(64 * i)) 0))

/-- JOB_OP with op 1 (R194, R195): ignored while busy, refused for an undefined target. -/
def State.jobSubmit (s : State) (h c target : Nat) : State :=
  let keep := fld (s.page h c 0xC40).toNat 55 48 * 2^48
  if s.status h c 0xC40 = 1 then s
  else if 12 < target then s.setStatus h c 0xC40 4 keep
  else
    let t := s.setStatus h c 0xC40 1 keep
    State.submitsTry { t with submits := t.submits ++ [(h, c, target, s.jobStaged h c)] }

/-- JOB_SUBMIT. -/
def execJobSubmit (h : HiveId) (c : CtxId) (target : BitVec 4) (s : State) : Host.Outcome State Fault Refusal :=
  .next (s.cmd h.val c.val (.jobSubmit h c target) (fun s =>
    if s.ctlOpen h.val then (s.wakeHive h.val).jobSubmit h.val c.val target.toNat else s))

/-- JOB_QUEUE_ACCEPT. -/
def execJobQueueAccept (h : HiveId) (slot : Fin 256) (s : State) : Host.Outcome State Fault Refusal :=
  .next (if s.clk.rootOn then (s.jobRegister (jobKey h.val slot.val)).jobAccept (jobKey h.val slot.val) else s)

/-- JOB_OP RELEASE (R197): of a slot this context submitted, DONE or FAILED; any other is refused. A job whose completion action its queue
has not performed yet leaves its slot then. -/
def State.jobRelease (s : State) (h c slot : Nat) : State :=
  let j := s.job (jobKey h slot)
  if s.status h c 0xC40 = 1 then s
  else if j.ctx = c && (j.st = .done || j.st = .failed) then
    let queued := s.scarabs.any (fun e => e.2.contains (jobKey h slot))
    (s.setJob (jobKey h slot) (if queued then { j with st := .free } else {})).setStatus h c 0xC40 0 (slot * 2^48)
  else s.setStatus h c 0xC40 4 (slot * 2^48)

/-- JOB_RELEASE. -/
def execJobRelease (h : HiveId) (c : CtxId) (slot : Fin 256) (s : State) : Host.Outcome State Fault Refusal :=
  .next (s.cmd h.val c.val (.jobRelease h c slot) (fun s =>
    if s.ctlOpen h.val then (s.wakeHive h.val).jobRelease h.val c.val slot.val else s))

/-! ### Slices and indices (R191, R200, R201) -/

/-- Bytes of a slice of a Scarab (R191). -/
def sliceBytesOf (u : Nat) : Nat := if isT1 u then 1024 else 256

/-- Elements of a full slice column: a row no longer than a slice is one; MX columns hold whole blocks (R191). -/
def colElems (u f n : Nat) : Nat :=
  let b := sliceBytesOf u
  if rowBytes f n ≤ b then n
  else
    let e := b * 8 / fmtBits f
    if isMx f then e / 32 * 32 else e

/-- Slice columns of a job on a Scarab; SCATTER_ACC reads no table row (R202). -/
def Job.cols (j : Job) (u : Nat) : Nat :=
  if sKind j.w = 4 then 1 else ceilDiv (sElems j.w) (colElems u (sTblFmt j.w) (sElems j.w))

/-- Elements of a slice column: the first and past the last. -/
def Job.colSpan (j : Job) (u col : Nat) : Nat × Nat :=
  let e := colElems u (sTblFmt j.w) (sElems j.w)
  (col * e, min (sElems j.w) ((col + 1) * e))

/-- A word of a list as it stands at the Scarab: a line still missing, a line that did not bring data, or its value. -/
inductive ListWord where
  | need (line : Nat)
  | bad (code ga : Nat)
  | val (v : Nat)

/-- The outcome of a Scarab's read that did not bring data, as a job's code (R204). -/
def Result.jobCode : Result → Nat
  | .ok => 0
  | .refused c => c.toNat
  | .uncorr c => if c = 0x43 then 0x43 else 0x42

/-- The `n` bytes of a list at an address. -/
def Job.word (j : Job) (ga n : Nat) : ListWord :=
  let a := ga / 64
  let b := (ga + n - 1) / 64
  match Tbl.find j.lists a, Tbl.find j.lists b with
  | none, _ => .need a
  | _, none => .need b
  | some x, some y =>
    if x.result ≠ .ok then .bad x.result.jobCode (64 * a)
    else if y.result ≠ .ok then .bad y.result.jobCode (64 * b)
    else .val ((x.data.toNat + (if a = b then 0 else y.data.toNat * 2^512)) / 2^(8 * (ga % 64)) % 2^(8 * n))

/-- What a Scarab does next for the job it issues: nothing more, fetch a list line, or move its cursor on, with the indices it skipped. -/
inductive JStep where
  | done
  | line (l : Nat)
  | go (j : Job) (skips : Nat)

/-- Puts an entry into the reorder buffer. -/
def Job.push (j : Job) (r : Rob) : Job := { j with rob := j.rob ++ [{ r with no := j.robNo }], robNo := j.robNo + 1 }

/-- A fault takes its place in index order: the entries before it are accumulated first. Nothing more is issued. -/
def Job.pushFault (j : Job) (code pos ga : Nat) : Job :=
  { (j.push { no := 0, kind := .fault, col := j.col, bag := j.bag, pos := pos, ga := ga, wgt := BitVec.ofNat 64 code }) with readAll := true }

/-- Runs of bytes of a table row that a slice reads: those of its column; of a PAGED_GATHER's last page, of its valid elements alone
(R191, R202). -/
def Job.sliceRuns (j : Job) (u col pos : Nat) : List (Nat × Nat) :=
  let p := j.colSpan u col
  let top := if sKind j.w = 3 && pos + 1 = sIdx j.w then min p.2 (sBags j.w) else p.2
  elemRuns (sTblFmt j.w) (sElems j.w) p.1 top

/-- Key of a slice's line: its entry of the reorder buffer and its line in the row. -/
def sliceKey (no l : Nat) : Nat := 1024 * no + l

/-- Lines of a run of bytes, as line numbers. -/
def runLines (lo hi : Nat) : List Nat := if hi ≤ lo then [] else (List.range ((hi - 1) / 64 - lo / 64 + 1)).map (fun i => lo / 64 + i)

/-- Lines of a row that an entry reads: line in the row, and its GA. For SCATTER_ACC the row is the source row of its position. -/
def Job.rowLines (j : Job) (u col pos ga : Nat) : List (Nat × Nat) :=
  if sKind j.w = 4 then
    let a := j.at_ 2 (sAuxOff j.w + pos * sOutPitch j.w)
    (runLines a (a + sSrcBytes j.w)).map (fun l => (l - a / 64, 64 * l))
  else (((j.sliceRuns u col pos).map (fun r => runLines r.1 r.2)).flatten.eraseDups).map (fun l => (l, ga + 64 * l))

/-- Puts a row's entry into the reorder buffer, its lines to be requested. -/
def Job.pushRow (j : Job) (u pos ga : Nat) (wgt : Dword) : Job :=
  let ls := j.rowLines u j.col pos ga
  { (j.push { no := 0, kind := .row, col := j.col, bag := j.bag, pos := pos, ga := ga, wgt := wgt }) with
      reads := ls.map (fun l => (sliceKey j.robNo l.1, l.2)) }

/-- The step at an index position, `adv` moving the cursor past it (R200). -/
def Job.index (j : Job) (u pos : Nat) (adv : Job → Job) : JStep :=
  let w := j.w
  let ga := j.at_ 1 (sIdxOff w + pos * sWidth w)
  match j.word ga (sWidth w) with
  | .need l => .line l
  | .bad c a => .go (j.pushFault c pos a) 0
  | .val v =>
    let i := sext (8 * sWidth w) v
    if i = -1 then .go (adv j) (b2n (j.col = 0))
    else
      let weight : ListWord := if sWeighted w then j.word (j.at_ 3 (sWgtOff w + 4 * pos)) 4 else .val 0
      match weight with
      | .need l => .line l
      | .bad c a => .go (j.pushFault c pos a) 0
      | .val f =>
        if decide (0 ≤ i) && decide (i < (sRows w : Int)) then
          .go (adv (j.pushRow u pos (j.at_ 0 (sTblOff w + i.toNat * sPitch w)) (BitVec.ofNat 64 f))) 0
        else if sZero w then
          .go (adv (j.push { no := 0, kind := .zero, col := j.col, bag := j.bag, pos := pos, ga := 0, wgt := BitVec.ofNat 64 f })) 0
        else .go (j.pushFault 0x17 pos ga) 0

/-- The next step of a job's issue: through its index list, once per slice column, for POOL bag by bag (R191, R200, R201). -/
def Job.step (j : Job) (u : Nat) : JStep :=
  let w := j.w
  let nextCol : Job := { j with col := j.col + 1, bag := 0, idx := 0, lists := [], asked := [] }
  if j.cols u ≤ j.col then .done
  else if sKind w ≠ 1 then
    if sIdx w ≤ j.idx then .go nextCol 0 else j.index u j.idx (fun j => { j with idx := j.idx + 1 })
  else if sBags w ≤ j.bag then .go nextCol 0
  else
    let off := fun (b : Nat) => j.word (j.at_ 2 (sAuxOff w + b * sWidth w)) (sWidth w)
    let val := fun (v : Nat) => (max 0 (min (sext (8 * sWidth w) v) (sIdx w))).toNat
    match off j.bag with
    | .need l => .line l
    | .bad c a => .go (j.pushFault c 0 a) 0
    | .val a =>
      match off (j.bag + 1) with
      | .need l => .line l
      | .bad c x => .go (j.pushFault c (val a) x) 0
      | .val b =>
        let start := val a
        let fin := max start (val b)
        if fin ≤ start + j.idx then
          .go { (j.push { no := 0, kind := .bagEnd, col := j.col, bag := j.bag, pos := start, ga := 0, wgt := 0 }) with
                  bag := j.bag + 1, idx := 0 } 0
        else j.index u (start + j.idx) (fun j => { j with idx := j.idx + 1 })

/-! ### Requests of a Scarab (R192, R193) -/

/-- The key under which a Scarab keeps its requests of this cycle. -/
def scarabKey (u : Nat) : Nat := 0xA0000 + u

/-- Lines a Scarab may request in a cycle: its read width (R191). -/
def scarabWidth (u : Nat) : Nat := if isT1 u then 16 else 8

/-- A request of a Scarab for a job: from its Hive's SCP, or from an edge unit into its own controller or into the mesh (R12, R193). `i` names the
reference whose handle an output goes under. -/
def State.jobReq (s : State) (u key grp ga : Nat) (kind : AccKind) (code : Nat) (mask : Dword) (data : Line) (p : Purpose) (i : Option Nat) : State :=
  let j := s.job key
  let w := j.w
  let n := s.nextId
  let win := match i with
    | some r => if hClass (j.ref r) = 6 then some (winOf (j.ref r), hBase (j.ref r)) else none
    | none => none
  let x : Xact := { kind := kind, code := BitVec.ofNat 4 code, qos := sQos w, ctx := j.ctx,
                    deadline := s.deadlineAt (s.dlOffset (sQos w) (sDl w)), ga := BitVec.ofNat 48 ga, mask := mask, data := data, srcUnit := u,
                    srcPort := 5, srcChan := key % 256, layer := BitVec.ofNat 16 (sLayer w), operator := BitVec.ofNat 16 (sOper w), unit := u,
                    since := s.clk.now, born := s.clk.now, loc := if win.isSome then .none else s.locate ga, purpose := p, tag := key,
                    grp := if grp = 0 then n else grp }
  let t := s.addX x
  match t.xact n with
  | none => t
  | some y =>
    match win with
    | some k => t.windowLine y k.1 k.2
    | none =>
      if u < 256 then t.issue y true
      else if unserved y.loc then t.refuseLocal y 0x14
      else if y.loc.unit = u then t.setX { y with stage := .edgeIngress, ready := t.clk.now + 1 }
      else t.fromEdge y

/-- The bank of a line, as the distinctness of an SCP request counts it (R56). -/
def scpBank (s : State) (ga : Nat) : Nat :=
  let l := s.locate ga
  if l.arb = 0x50000 then 0x100000 + ga / 64 else l.arb

/-- The output line a Scarab may present: the oldest of a job; for SCATTER_ACC only once every line of an earlier position has completed. -/
def State.scarabOut (s : State) (u : Nat) : Option (Nat × JOut) :=
  (s.scarab u).findSome? (fun key =>
    let j := s.job key
    match j.outQ with
    | o :: _ =>
      let held := sKind j.w = 4 && s.flight.any (fun x => match x.purpose with
        | .jobOut k p => k = key && p ≠ o.pos
        | _ => false)
      if held then none else some (key, o)
    | [] => none)

/-- An output line of a job stalls at issue, which keeps its later ones (R212); lines that wait for credits keep their order by themselves. -/
def State.scarabStalled (s : State) (key : Nat) : Bool :=
  s.flight.any (fun x => x.unsent && !(x.stage = .issueStall && x.win.isSome) && (match x.purpose with
    | .jobOut k _ => k = key
    | _ => false))

/-- The job a Scarab issues reads for: the one that runs and has not issued its last read (R196). -/
def State.scarabJob (s : State) (u : Nat) : Option Nat :=
  (s.scarab u).find? (fun key => (s.job key).st = .running && !(s.job key).readAll)

/-- What a Scarab does next: present an output line, request a slice or list line, or move its cursor. -/
inductive ScStep where
  | none
  | out (key : Nat) (o : JOut)
  | slice (key k ga : Nat)
  | line (key l : Nat)
  | move (key : Nat) (j : Job) (skips : Nat)

/-- Slice entries that the jobs of a Scarab hold in its reorder buffer (R192). -/
def State.robHeld (s : State) (u : Nat) : Nat := (s.scarab u).foldl (fun a key => a + (s.job key).rob.length) 0

/-- A job goes on through a handle that a MOVE keeps at issue in its final pass (R141). -/
def State.jobHeld (s : State) (key : Nat) : Bool :=
  let j := s.job key
  (List.range 64).any (fun i => jobUses j.w i && s.movedRef (key / 256) j.ctx i)

/-- The next action of a Scarab (R192, R196): never more than 256 slices beyond the oldest one not accumulated. -/
def State.scarabNext (s : State) (u : Nat) : ScStep :=
  match (s.scarabOut u).filter (fun p => !s.jobHeld p.1 && !s.scarabStalled p.1) with
  | some (key, o) => .out key o
  | none =>
    match (s.scarabJob u).filter (fun key => !s.jobHeld key) with
    | none => .none
    | some key =>
      let j := s.job key
      match j.reads with
      | (k, ga) :: _ => .slice key k ga
      | [] =>
        if 256 ≤ s.robHeld u then .none
        else match j.step u with
          | .done => .move key { j with readAll := true } 0
          | .line l => if j.asked.contains l then .none else .line key l
          | .go j' n => .move key j' n

/-- Requests of a Scarab in this cycle: up to `n` lines in distinct banks, under one tag; `fuel` bounds the cursor's moves. -/
def State.scarabLines : Nat → State → Nat → Nat → Nat → List Nat → State × List Nat
  | 0, s, _, _, _, used => (s, used)
  | fuel + 1, s, u, n, grp, used =>
    let g := if grp = 0 then s.nextId else grp
    let clash := fun (ga : Nat) => used.contains (scpBank s ga)
    if n ≤ used.length then (s, used)
    else match s.scarabNext u with
      | .none => (s, used)
      | .move key j skips => State.scarabLines fuel ((s.setJob key j).cadd 0x6200 (4 * u + 2) skips) u n grp used
      | .out key o =>
        if clash o.ga then (s, used)
        else
          let j := s.job key
          let acc := sKind j.w = 4
          let s := s.setJob key { j with outQ := j.outQ.drop 1, outs := j.outs + 1 }
          let s := s.jobReq u key g o.ga (if acc then .acc else .write) (if acc then sOutFmt j.w else 0) o.mask o.data (.jobOut key o.pos)
            (some (if acc then 0 else 4))
          State.scarabLines fuel s u n g (used ++ [scpBank s o.ga])
      | .slice key k ga =>
        if clash ga then (s, used)
        else
          let j := s.job key
          let s := s.setJob key { j with reads := j.reads.drop 1 }
          let s := if j.reads.length = 1 && sKind j.w ≠ 4 then s.cadd 0x6200 (4 * u + 1) 1 else s
          let s := s.jobReq u key g ga .read 0 fullMask 0 (.jobSlice key (k / 1024) (k % 1024)) none
          State.scarabLines fuel s u n g (used ++ [scpBank s ga])
      | .line key l =>
        if clash (64 * l) then (s, used)
        else
          let j := s.job key
          let s := s.setJob key { j with asked := j.asked ++ [l] }
          let s := s.jobReq u key g (64 * l) .read 0 fullMask 0 (.jobList key l) none
          State.scarabLines fuel s u n g (used ++ [scpBank s (64 * l)])

/-- A Scarab issues its requests of this cycle; SCP obeys its tags and the throttle of its group (R56, R64, R369). -/
def State.scarabPump (s : State) (u : Nat) : State :=
  if s.clk.now < s.freeAt (scarabKey u) || (s.scarab u).isEmpty || (u < 256 && (s.throttled 0 || !s.tagFree u 5 0)) then s
  else
    let p := State.scarabLines 512 s u (scarabWidth u) 0 []
    if p.2.isEmpty then p.1 else p.1.occupy (scarabKey u) 1

/-- The job a Scarab starts next: the first one queued, once every job before it has issued its last read (R196). -/
def State.scarabStart (s : State) (u : Nat) : State :=
  match (s.scarab u).find? (fun key => !(s.job key).readAll) with
  | some key =>
    let j := s.job key
    if j.st = .queued then s.setJob key { j with st := .running, readAll := sIdx j.w = 0 } else s
  | none => s

/-- SCARAB_JOB_START: a Scarab starts its next job and issues reads. -/
def execScarabJobStart (u : ScarabId) (s : State) : Host.Outcome State Fault Refusal :=
  .next (if s.clk.rootOn then (s.scarabStart u.val).scarabPump u.val else s)

/-! ### Accumulation and output (R192, R201, R202) -/

/-- Reads of a job that are still under way bring it nothing when they return (R203). -/
def State.jobForget (s : State) (key : Nat) : State :=
  { s with flight := s.flight.map (fun x => match x.purpose with
    | .jobSlice k _ _ => if k = key then { x with purpose := .discarded } else x
    | .jobList k _ => if k = key then { x with purpose := .discarded } else x
    | _ => x) }

/-- A job stops on a fault at an index position (R204): output lines of earlier positions are still presented and none after it, the record is
written and the core signalled. The slot keeps the code of the first fault (R197). `hd` is the handle concerned. -/
def State.jobStop (s : State) (key code pos ga hd : Nat) : State :=
  let j := s.job key
  let w := j.w
  let site : FaultSite := { hive := key / 256, ctx := j.ctx, port := 5, job := key % 256, layer := sLayer w, oper := sOper w }
  let f : HFault := { code := code, handle := hd % 64, lo := pos, hi := ga }
  ((s.jobForget key).setJob key
    { j with stop := true, readAll := true, code := if j.code = 0 then BitVec.ofNat 8 code else j.code, pos := BitVec.ofNat 32 pos, rob := [], reads := [],
             outQ := j.outQ.filter (fun o => decide (o.pos < pos)) }).handleFault f site

/-- A bag or row is not written: it counts as failed once, and the first one is kept (R204). -/
def State.jobBad (s : State) (u key n code : Nat) : State :=
  let j := s.job key
  if j.bad.contains n then s
  else
    let first := j.bad.isEmpty
    (s.setJob key { j with bad := j.bad ++ [n], fails := BitVec.ofNat 16 (sat 65535 (j.fails.toNat + 1)),
                           pos := if first then BitVec.ofNat 32 n else j.pos,
                           code := if first then BitVec.ofNat 8 code else j.code }).cadd 0x6200 (4 * u + 3) 1

/-- Lines of the runs of bytes of an output row at GA `ga`. -/
def outLines (pos ga row : Nat) (runs : List (Nat × Nat)) : List JOut :=
  (runs.map (fun r => (runLines (ga + r.1) (ga + r.2)).map (fun l =>
    let b := runBytes (ga + r.1) (ga + r.2) (64 * l)
    let x := max (ga + r.1) (64 * l) - ga
    let o : JOut := { pos := pos, ga := 64 * l, mask := byteMask b.1 b.2
                      data := BitVec.ofNat 512 (row / 2^(8 * x) % 2^(8 * b.2) * 2^(8 * b.1)) }
    o))).flatten

/-- ACC lines of a source row of SCATTER_ACC to its table row (R180, R202). -/
def accLines (w : BitVec 512) (pos ga row : Nat) : List JOut :=
  let st := pairStored (sOutFmt w)
  let wi := pairWire (sOutFmt w)
  let unit := if sOutFmt w = 3 then 32 else 64
  let bytes := sElems w * st
  (List.range (ceilDiv bytes unit)).map (fun l =>
    let n := min unit (bytes - unit * l)
    let o : JOut := { pos := pos, ga := ga + unit * l, mask := byteMask 0 n
                      data := BitVec.ofNat 512 (row / 2^(8 * (unit * l / st * wi)) % 2^(8 * (n / st * wi))) }
    o)

/-- A row from the lines of an entry of the reorder buffer, its first line's offset `a` taken off. -/
def Job.rowOf (j : Job) (r : Rob) (a : Nat) : Nat :=
  ((j.slices.filter (fun e => e.1 / 1024 = r.no)).foldl (fun t e => t + e.2.data.toNat * 2^(512 * (e.1 % 1024))) 0) / 2^(8 * a)

/-- How the lines of an entry came: the first that brought no data, by line. -/
def Job.rowResult (j : Job) (r : Rob) : Result :=
  match j.slices.find? (fun e => e.1 / 1024 = r.no && e.2.result ≠ .ok) with
  | some e => e.2.result
  | none => .ok

/-- Key of an accumulator, or of a word of a row held through the passes over its columns. -/
def accKey (n i : Nat) : Nat := 4096 * n + i

/-- One row enters the reduction of its bag in index order (R201): `val` gives its elements as binary32 words. -/
def Job.reduce (j : Job) (u : Nat) (r : Rob) (val : Nat → Nat) : Job :=
  let span := j.colSpan u r.col
  let red := sRed j.w
  let acc := (List.range (span.2 - span.1)).foldl (fun t k =>
    let i := span.1 + k
    let a := (Tbl.get t 0 (accKey r.bag i)).toNat
    let v := if red = 3 then mul32 (val i) r.wgt.toNat else val i
    let n := if red = 2 then (if j.bagN = 0 then max32 v v else max32 a v) else if j.bagN = 0 then v else add32 a v
    Tbl.set t 0 (accKey r.bag i) (BitVec.ofNat 64 n)) j.acc
  { j with acc := acc, bagN := j.bagN + 1 }

/-- A bag ends in a column: MEAN divides, and after the last column the output row is converted and written (R201). -/
def Job.endBag (j : Job) (u : Nat) (r : Rob) : Job :=
  let w := j.w
  let span := j.colSpan u r.col
  let acc := if sRed w = 1 && decide (0 < j.bagN) then
      (List.range (span.2 - span.1)).foldl (fun t k =>
        let key := accKey r.bag (span.1 + k)
        Tbl.set t 0 key (BitVec.ofNat 64 (div32 (Tbl.get t 0 key).toNat j.bagN))) j.acc
    else j.acc
  let j := { j with acc := acc, bagN := 0 }
  if r.col + 1 < j.cols u then j
  else
    let n := sElems w
    let row := encodeRow (sOutFmt w) (sSat w) ((List.range n).map (fun i => fp32.decode (Tbl.get acc 0 (accKey r.bag i)).toNat))
    let rest := acc.filter (fun e => e.1 / 4096 ≠ r.bag)
    let out := if j.bad.contains r.bag then []
      else outLines r.pos (j.at_ 4 (sOutOff w + r.bag * sOutPitch w)) row [(0, rowBytes (sOutFmt w) n)]
    { j with acc := rest, outQ := j.outQ ++ out }

/-- A row of GATHER or PAGED_GATHER has come for a column: after the last one it is written (R202). `row` holds the bytes read. -/
def Job.gather (j : Job) (u : Nat) (r : Rob) (row : Nat) : Job :=
  let w := j.w
  let n := sElems w
  let words := ceilDiv (sRowBytes w) 8
  let acc := if j.cols u = 1 then j.acc
    else (List.range words).foldl (fun t i =>
      let v := row / 2^(64 * i) % 2^64
      if v = 0 then t else Tbl.set t 0 (accKey r.pos i) (BitVec.ofNat 64 v)) j.acc
  if r.col + 1 < j.cols u then { j with acc := acc }
  else
    let all := if j.cols u = 1 then row
      else (List.range words).foldl (fun t i => t + (Tbl.get acc 0 (accKey r.pos i)).toNat * 2^(64 * i)) 0
    let out := if j.bad.contains r.pos then []
      else if sKind w = 3 then
        outLines r.pos (j.at_ 4 (sOutOff w + r.pos * sRowBytes w)) all (if r.pos + 1 = sIdx w then sLastRuns w else [(0, sRowBytes w)])
      else outLines r.pos (j.at_ 4 (sOutOff w + r.pos * sOutPitch w)) (convertRow (sTblFmt w) (sOutFmt w) n n (sSat w) 0 all)
        [(0, rowBytes (sOutFmt w) n)]
    { j with acc := acc.filter (fun e => e.1 / 4096 ≠ r.pos), outQ := j.outQ ++ out }

/-- A row of +0 values takes its place (R200). -/
def Job.zeroRow (j : Job) (u : Nat) (r : Rob) : Job :=
  match sKind j.w with
  | 1 => j.reduce u r (fun _ => 0)
  | 4 => j
  | _ => j.gather u r 0

/-- The oldest entry of a reorder buffer leaves it (R192, R200 to R202, R204); a row its target refuses goes by oor (R48, R200, R269). -/
def State.robTake (s : State) (u key : Nat) (r : Rob) : State :=
  let j := s.job key
  let w := j.w
  let res := j.rowResult r
  let src := j.at_ 2 (sAuxOff w + r.pos * sOutPitch w)
  let n := if sKind w = 1 then r.bag else r.pos
  let hd := if sKind w = 4 then sAuxRef w else sTblRef w
  let pop := fun (j : Job) => { j with rob := j.rob.drop 1, slices := j.slices.filter (fun e => e.1 / 1024 ≠ r.no) }
  match r.kind with
  | .fault => s.jobStop key r.wgt.toNat r.pos r.ga (if r.wgt = 0x17 then sTblRef w else sIdxRef w)
  | .bagEnd => s.setJob key (pop (j.endBag u r))
  | .zero => s.setJob key (pop (j.zeroRow u r))
  | .row =>
    let s := s.pev (if u < 256 then 5 else 10) 1
    match res with
    | .ok =>
      let j' := match sKind w with
        | 1 =>
          let row := j.rowOf r 0
          j.reduce u r (fun i => elem32 (sTblFmt w) row (sElems w) i)
        | 4 => { j with outQ := j.outQ ++ accLines w r.pos r.ga (j.rowOf r (src % 64) % 2^(8 * sSrcBytes w)) }
        | _ => j.gather u r (j.rowOf r 0)
      s.setJob key (pop j')
    | .refused c =>
      if sKind w ≠ 4 && sZero w && (c = 0x14 || c = 0x13 || c = 0x61 || c = 0x64) then s.setJob key (pop (j.zeroRow u r))
      else s.jobStop key c.toNat r.pos (if sKind w = 4 then src else r.ga) hd
    | .uncorr _ =>
      if sKind w = 4 then s.jobStop key res.jobCode r.pos src hd
      else
        let s := s.jobBad u key n res.jobCode
        let j := s.job key
        s.setJob key (pop (if sKind w = 1 then { j with bagN := j.bagN + 1 } else j.gather u r 0))

/-- Every line of the oldest entry has come. -/
def Job.headReady (j : Job) (u : Nat) (r : Rob) : Bool :=
  r.kind ≠ .row || (j.rowLines u r.col r.pos r.ga).all (fun l => (Tbl.find j.slices (sliceKey r.no l.1)).isSome)

/-- SCARAB_SLICE_RETURN: the oldest slice of a Scarab's first job with entries is accumulated once it has come. -/
def execScarabSliceReturn (u : ScarabId) (s : State) : Host.Outcome State Fault Refusal :=
  .next (
    let s' := match (s.scarab u.val).find? (fun key => !(s.job key).rob.isEmpty) with
      | some key =>
        match (s.job key).rob with
        | r :: _ => if (s.job key).headReady u.val r then s.robTake u.val key r else s
        | [] => s
      | none => s
    if s.clk.rootOn then s'.scarabPump u.val else s)

/-! ### The end of a job (R18, R196, R197) -/

/-- A job has ended: its state is final, or its slot was released meanwhile. -/
def Job.ended (j : Job) : Bool := j.st = .done || j.st = .failed || j.st = .free

/-- The head of a queue leaves it; a job DONE without a failed bag, and a released one, frees its slot (R196, R197). -/
def State.jobLeave (s : State) (u key : Nat) : State :=
  let j := s.job key
  let s := s.setScarab u (without (s.scarab u) key)
  if j.st = .free || (j.st = .done && j.fails = 0 && j.code = 0) then s.setJob key {} else s

/-- Completion actions in queue order (R18, R174, R196): the oldest ended job presents its action and leaves once that is performed. -/
def State.jobActs : Nat → State → Nat → State
  | 0, s, _ => s
  | n + 1, s, u =>
    match s.scarab u with
    | [] => s
    | key :: _ =>
      let j := s.job key
      if !j.ended || j.acted then s
      else if j.stop || sCmpl j.w = 0 then State.jobActs n (s.jobLeave u key) u
      else
        let ga := j.at_ 5 (8 * sCmplWord j.w)
        (s.setJob key { j with acted := true }).jobReq u key 0 ga .atomic 2 (byteMask (ga % 64) 8) 1 .completion none

/-- A job's result writes have all completed: its footprint is released and its state set (R195, R197). -/
def State.jobEnd (s : State) (u key : Nat) : State :=
  let j := s.job key
  let s := (s.sbDrop j.sb).cadd 0x6200 (4 * u) 1
  s.setJob key { j with sb := 0, lists := [], asked := [], slices := [], acc := [], rob := [], st := if j.stop then .failed else .done }

/-- SCARAB_JOB_COMPLETE: the first job of a Scarab whose reads and writes are all done ends, and actions go on in queue order. -/
def execScarabJobComplete (u : ScarabId) (s : State) : Host.Outcome State Fault Refusal :=
  .next (
    let excess := fun (key : Nat) =>
      let j := s.job key
      j.st = .running && j.readAll && j.rob.isEmpty && j.outQ.isEmpty && j.outs = 0
    if !s.clk.rootOn then s
    else
      let s' := match (s.scarab u.val).find? excess with
        | some key => s.jobEnd u.val key
        | none => s
      State.jobActs 128 s' u.val)

/-! ### What comes back to a Scarab -/

/-- A line of a list or source has come back (R192). -/
def State.jobLine (s : State) (x : Xact) (l : Nat) : State :=
  let j := s.job x.tag
  let e : SrcLine := { valid := s.clk.now, data := x.data, result := x.result }
  if j.st = .running && !j.stop then s.setJob x.tag { j with lists := Tbl.insert j.lists l e } else s

/-- A line of a slice has come back. -/
def State.jobSlice (s : State) (x : Xact) (no part : Nat) : State :=
  let j := s.job x.tag
  let e : SrcLine := { valid := s.clk.now, data := x.data, result := x.result }
  if j.st = .running && !j.stop then s.setJob x.tag { j with slices := Tbl.insert j.slices (sliceKey no part) e } else s

/-- An output line has completed, or was refused, on which the job stops (R204). -/
def State.jobOutEnd (s : State) (x : Xact) (pos : Nat) : State :=
  let j := s.job x.tag
  let s := s.setJob x.tag { j with outs := j.outs - 1 }
  if x.result = .ok || (j.stop && decide (j.pos.toNat ≤ pos)) then s
  else s.jobStop x.tag x.result.jobCode pos x.ga.toNat (if sKind j.w = 4 then sTblRef j.w else sOutRef j.w)

/-- The completion action of a job has been performed; were it refused, the slot keeps the code. -/
def State.jobAction (s : State) (x : Xact) : State :=
  let j := s.job x.tag
  let u := scarabUnit (x.tag / 256) j.target
  let s := if x.result = .ok || j.st ≠ .done || j.code ≠ 0 then s else s.setJob x.tag { j with code := BitVec.ofNat 8 x.result.jobCode }
  State.jobActs 128 (s.jobLeave u x.tag) u

end Sys2Proof.Machine
end

