-- ==== Sys2Proof/Machine/Ctx.lean ====
section
/-!
DEFINITION. Ctx.lean: saving and restoring a context (R142, R238): the checks of CTX_OP, the wait for what the context has under way, the
image and its return.
-/
namespace Sys2Proof.Machine

/-! ### The image (R142) -/

/-- Bytes of a context image. -/
def imageBytes : Nat := 12288

/-- Byte offset of the CRC within the header; the header's layout is log entry 40's. -/
def imageCrcAt : Nat := 24

/-- A field of an image: byte offset, bytes, value. -/
def imagePut (off bytes v : Nat) : Nat := v % 2^(8 * bytes) * 2^(8 * off)

/-- A field of an image read back. -/
def imageGet (img off bytes : Nat) : Nat := img / 2^(8 * off) % 2^(8 * bytes)

/-- The CRC-32 of an image: over every byte but its own four. -/
def imageCrc (img : Nat) : Nat :=
  (crc32 (natBytes imageCrcAt img ++ natBytes (imageBytes - imageCrcAt - 4) (img / 2^(8 * (imageCrcAt + 4))))).toNat

/-- Entries of a table at a stride. -/
def imageTable (off stride : Nat) (l : List Nat) : Nat :=
  (l.zipIdx).foldl (fun a e => a + imagePut (off + stride * e.2) stride e.1) 0

/-- Credit state of a window as the image holds it: allotted, free, in flight. -/
def State.winCredits (s : State) (h w : Nat) : Nat :=
  let x := s.winx h w
  let out := x.holders.foldl (fun a o => a + o.credit) 0
  let busy := (s.flight.filter (fun y => match y.win with
    | some k => k.2.1 = h && k.2.2.1 = w && y.half = .request && y.stage ≠ .issueStall
    | none => false)).length
  pack [(31, 0, out), (63, 32, x.free), (95, 64, busy)]

/-- Allotments a context holds: those of the windows its handles name. -/
def State.ctxAllots (s : State) (h c : Nat) : List Allot :=
  s.wins.allots.filter (fun a => a.hive = h && (List.range 64).any (fun i =>
    let q := s.handle h c i
    hClass q = 6 && (winOf q = (a.chip, a.dhive, a.win, a.gen))))

/-- State of an allotment as the image holds it. -/
def AllotSt.code : AllotSt → Nat
  | .asked => 0
  | .held => 1
  | .closing => 2
  | .revoked => 3
  | .redirected => 4

/-- An allotment of an image: chip, Hive, window, generation, credits, REDIRECT state with the new place. -/
def Allot.entry (a : Allot) : Nat :=
  let n := a.next.getD (0, 0, 0, 0)
  pack [(9, 0, a.chip), (17, 10, a.dhive), (22, 18, a.win), (30, 23, a.gen), (63, 32, a.credit), (66, 64, a.st.code), (67, 67, b2n a.next.isSome),
    (81, 72, n.1), (89, 82, n.2.1), (94, 90, n.2.2.1), (102, 95, n.2.2.2), (127, 127, 1)]

/-- A wait registration as its entry (R229), with the time that remains. -/
def State.waitEntry (s : State) (h n : Nat) : Nat :=
  let w := s.wait h n
  let left := if w.state = 1 ∧ w.tmo ≠ 0 then max 1 (w.tmo - (s.clk.now - w.armed) / 256) else w.tmo
  pack [(127, 126, w.state), (125, 123, w.ctx), (122, 120, w.cond), (119, 119, b2n w.dec), (116, 104, w.cell), (95, 72, left), (63, 0, w.value.toNat)]

/-- The image of a context, its CRC included (R142, R238). -/
def State.ctxImage (s : State) (h c : Nat) (allots : List Allot) : Nat :=
  let wins := (List.range 32).map (fun w => if wOwner (s.win h w) = c then (s.win h w).toNat else 0)
  let creds := (List.range 32).map (fun w => if wOwner (s.win h w) = c ∧ s.win h w ≠ 0 then s.winCredits h w else 0)
  let rings := (List.range 16).map (fun i => let r := s.ringAt h i; if r.en && r.owner = c then r.entry.toNat else 0)
  let waits := (List.range 128).map (fun n => if (s.wait h n).state ≠ 0 ∧ (s.wait h n).ctx = c then s.waitEntry h n else 0)
  let drain := (s.hives.sent.filter (fun e => e.1 / 1024 = 8 * h + c && e.2.sent ≠ e.2.acked)).map (fun e =>
    pack [(9, 0, e.1 % 1024), (63, 32, e.2.sent - e.2.acked), (64, 64, 1)])
  let img := imagePut 0 2 1 + imagePut 2 2 h + imagePut 4 2 c + imagePut 6 2 s.chipId + imagePut 8 8 s.err.gen.toNat + imagePut 16 2 (b2n s.tiered) +
    imagePut 18 2 (s.pv 0x1001 0) +
    imageTable 0x100 16 ((List.range 64).map (fun i => (s.handle h c i).toNat)) + imageTable 0x500 16 wins + imageTable 0x700 16 creds +
    imageTable 0x900 32 (allots.map Allot.entry |>.take 64) + imageTable 0x1100 64 rings +
    imageTable 0x1500 8 ((List.range 32).map (fun b => (s.barrier h b).state.toNat)) + imageTable 0x1600 16 waits +
    imageTable 0x1E00 32 (drain.take 64)
  img + imagePut imageCrcAt 4 (imageCrc img)

/-! ### CTX_OP -/

/-- The check of the image's handle (R142): the failure, or the GA of the image. -/
def State.ctxRef (s : State) (h ref off : Nat) (wr : Bool) : HFault ⊕ Nat :=
  let q := s.handle h 0 (ref % 64)
  match s.checkHandle h 0 ref (!wr) wr (some ((off : Int), (off : Int) + imageBytes - 1)) with
  | some f => .inl f
  | none =>
    if hClass q = 1 || hClass q = 2 || hClass q = 3 then .inr (hBase q + off)
    else .inl { code := 0x12, handle := ref % 64, genRef := fld ref 15 8, genCur := hGen q, lo := off, hi := (off : Int) + imageBytes - 1 }

/-- CTX_OFF: bits 47:6 (R142). -/
def State.ctxOff (s : State) (h : Nat) : Nat := (s.page h 0 0x248).toNat % 2^48 / 64 * 64

/-- The status of CTX_OP. -/
def State.ctxStatus (s : State) (h st : Nat) : State := s.setStatus h 0 0x240 st 0

/-- A CTX_OP refused by its handle check: its record and the status. -/
def State.ctxRefuse (s : State) (h : Nat) (f : HFault) : State := (s.handleFault f { hive := h, ctx := 0, port := 7 }).ctxStatus h 4

/-- The context owns a window that is OPEN or FORWARD. -/
def State.ownsOpen (s : State) (h c : Nat) : Bool :=
  (List.range 32).any (fun w => let q := s.win h w; wOwner q = c && (wState q = 1 || wState q = 4))

/-- SAVE: the checks, and the stop of the context's issue. -/
def State.ctxSave (s : State) (h c ref : Nat) : State :=
  if s.status h 0 0x240 = 1 then s
  else match s.ctxRef h ref (s.ctxOff h) true with
    | .inl f => s.ctxRefuse h f
    | .inr ga =>
      if s.ownsOpen h c then s.ctxStatus h 4
      else
        let j : CtxJob := { hive := h, ctx := c, base := ga, slot := ref % 64, lost := [] }
        { s.ctxStatus h 1 with hives := { (s.ctxStatus h 1).hives with ctxJobs := s.hives.ctxJobs ++ [j] } }

/-- CTX_SAVE. -/
def execCtxSave (h : HiveId) (c : CtxId) (ref : BitVec 16) (s : State) : Host.Outcome State Fault Refusal :=
  .next (s.cmd h.val 0 (.ctxSave h c ref) (fun s => if s.ctlOpen h.val then (s.wakeHive h.val).ctxSave h.val c.val ref.toNat else s))

/-- A context has nothing admitted under way: no transaction of its own that passed issue, no descriptor issued, no job submitted, no command
of its far-line cache, no change of its handles (R142). -/
def State.ctxQuiet (s : State) (h c : Nat) : Bool :=
  !s.flight.any (fun x => x.ctx = c && x.srcUnit = h && x.srcChip.isNone && x.stage ≠ .mirrorQueue &&
    !(x.srcPort = 2 && x.stage = .issueStall)) &&
  !(List.range 16).any (fun k => s.chCtx h k = c && ((s.chan h k).st = .run || (s.chan h k).st = .draining) &&
    (s.chan h k).descs.any (fun d => d.phase = .issued || d.phase = .presented)) &&
  !s.jobs.any (fun e => e.1 / 256 = h && e.2.ctx = c && (e.2.st = .waiting || e.2.st = .queued || e.2.st = .running)) &&
  !s.hives.flcCmds.any (fun f => f.hive = h && f.ctx = c) &&
  !s.hives.drains.any (fun e => e.1 / 64 = 8 * h + c)

/-- The fence of a SAVE is done: every chip's lines are acknowledged, or the chip is reported lost (R215). -/
def State.ctxFenced (s : State) (h c : Nat) : Bool :=
  s.hives.sent.all (fun e => e.1 / 1024 ≠ 8 * h + c || e.2.sent = e.2.acked || s.fxps.lost.contains (e.1 % 1024))

/-- A line of an image may be accessed by ctx0. -/
def State.imageOk (s : State) (ga : Nat) : Bool :=
  (List.range (imageBytes / 64)).all (fun j =>
    let a := ga + 64 * j
    let loc := s.locate a
    (s.refusal loc (isPoolGa a)).isNone && !unserved loc && s.ownership loc 0 = .ok)

/-- The context's allotments go back to their windows (R136, R142). -/
def State.ctxReturn (s : State) (l : List Allot) : State :=
  l.foldl (fun s a =>
    let s := { s with wins := { s.wins with allots := s.wins.allots.erase a } }
    s.giveBack a.hive (a.chip, a.dhive, a.win, a.gen) a.credit a.base) s

/-- What a Hive holds for a context goes on. -/
def State.ctxGo (s : State) (h : Nat) : State := ((s.sxpRetry h).chanPump h).submitsTry

/-- CTX_SAVE_DONE: the drain and the fence have ended; the allotments go back, the image is written, and the context goes on. -/
def execCtxSaveDone (h : HiveId) (s : State) : Host.Outcome State Fault Refusal :=
  .next (match s.hives.ctxJobs.find? (fun j => j.hive = h.val) with
    | none => s
    | some j =>
      if !s.clk.rootOn || !s.ctxQuiet h.val j.ctx || !s.ctxFenced h.val j.ctx then s
      else
        let end_ := fun (s : State) (st : Nat) =>
          ({ s with hives := { s.hives with ctxJobs := s.hives.ctxJobs.filter (fun k => k.hive ≠ h.val) } }.ctxStatus h.val st).ctxGo h.val
        if !s.imageOk j.base then end_ s 4
        else
          let allots := s.ctxAllots h.val j.ctx
          let s := s.ctxReturn allots
          let img := s.ctxImage h.val j.ctx allots
          let s := (List.range (imageBytes / 64)).foldl (fun s l => s.poke (j.base + 64 * l) fullMask (BitVec.ofNat 512 (imageGet img (64 * l) 64))) s
          end_ s 2)

/-! ### RESTORE -/

/-- A saved handle as RESTORE loads it: a POOL handle is EMPTY when the hierarchy changed (R142). -/
def restoredHandle (q : Nat) (changed : Bool) : Quad :=
  let e : Quad := BitVec.ofNat 128 q
  if changed && hClass e = 2 then withGen 0 (hGen e) else e

/-- Rings of an image, by number. -/
def imageRings (img c : Nat) : List (Nat × Ring) :=
  (List.range 16).filterMap (fun i =>
    let e := imageGet img (0x1100 + 64 * i) 64
    if bit e 248 then some (i, { ringOf e c with timeouts := BitVec.ofNat 32 (fld e 159 128) }) else none)

/-- Declares the rings of an image one by one; none where R224 refuses one. -/
def State.restoreRings (s : State) (h c : Nat) : List (Nat × Ring) → Option State
  | [] => some s
  | (i, r) :: t => if s.ringRefused h c i r then none else (s.setRing h i r).restoreRings h c t

/-- Wait registrations of an image in stored order, with the number each was stored under. -/
def imageWaits (img : Nat) : List (Nat × Nat) :=
  (List.range 128).filterMap (fun n =>
    let e := imageGet img (0x1600 + 16 * n) 16
    if fld e 127 126 = 0 then none else some (n, e))

/-- Puts the wait registrations of an image back, each under its number or the lowest free one; none where no registration is free. -/
def State.restoreWaits (s : State) (h c : Nat) : List (Nat × Nat) → Option State
  | [] => some s
  | (n, e) :: t =>
    match (if (s.wait h n).state = 0 then some n else (s.waitsIn h 0).head?) with
    | none => none
    | some m =>
      let st := fld e 127 126
      let w : WaitReg := { state := st, ctx := c, cond := fld e 122 120, dec := bit e 119, cell := fld e 116 104, tmo := fld e 95 72,
                           value := BitVec.ofNat 64 (fld e 63 0), order := s.hives.armNo + 1, armed := s.clk.now }
      let s := { s with hives := { s.hives with armNo := s.hives.armNo + 1 } }
      let s := s.setWait h m w
      (if st = 1 then s.queuePass h w.cell { chip := s.chipId, unit := h, ctx := c, port := 7 } else s).restoreWaits h c t

/-- The windows of an image are written back, entry and credit state, for their new owner (R142). A window that another context of this Hive has in use
keeps what it holds (DESIGN CHOICE, log entry 83); the lines in flight and the holders that the image does not name are gone. -/
def State.restoreWins (s : State) (h c img : Nat) : State :=
  (List.range 32).foldl (fun s w =>
    let e := imageGet img (0x500 + 16 * w) 16
    let q := s.win h w
    if e = 0 || (wState q ≠ 0 && wOwner q ≠ c) then s
    else
      let s := s.setWin h w (BitVec.ofNat 128 (setFld e 51 49 c))
      (s.setWinx h w { free := fld (imageGet img (0x700 + 16 * w) 16) 63 32, ctlCtx := c, since := s.clk.now, sinceTs := s.clk.ts.toNat,
                       tmo := s.pv 0x1012 0 }).winTry h w) s

/-- Requests the allotments of an image again (R136, R142), at the place a REDIRECT named where there was one. -/
def State.restoreAllots (s : State) (h c img : Nat) : State :=
  (List.range 64).foldl (fun s n =>
    let e := imageGet img (0x900 + 32 * n) 32
    if !bit e 127 then s
    else
      let k0 := (fld e 9 0, fld e 17 10, fld e 22 18, fld e 30 23)
      let k := if bit e 67 then (fld e 81 72, fld e 89 82, fld e 94 90, fld e 102 95) else k0
      let base := match (List.range 64).find? (fun i => hClass (s.handle h c i) = 6 && winOf (s.handle h c i) = k0) with
        | some i => hBase (s.handle h c i)
        | none => 0
      if (s.allot h k.1 k.2.1 k.2.2.1 k.2.2.2).isSome then s
      else
        let a : Allot := { hive := h, chip := k.1, dhive := k.2.1, win := k.2.2.1, gen := k.2.2.2, credit := 0, base := base, extent := 0, st := .asked }
        { s with wins := { s.wins with allots := s.wins.allots ++ [a] } }.askCredits h k (max 1 (fld e 63 32)) base) s

/-- The drain state of an image: lines still outstanding toward each chip (R215). -/
def State.restoreDrain (s : State) (h c img : Nat) : State :=
  (List.range 64).foldl (fun s n =>
    let e := imageGet img (0x1E00 + 32 * n) 32
    if !bit e 64 then s
    else
      let key := ctxChip h c (fld e 9 0)
      let t := Tbl.get s.hives.sent {} key
      { s with hives := { s.hives with sent := Tbl.set s.hives.sent {} key { t with sent := t.acked + fld e 63 32 } } }) s

/-- Loads an image into a context (R142, R238); none where a ring or a wait cannot be placed, the context then unchanged. -/
def State.restoreInto (s : State) (h c img : Nat) : Option State :=
  let changed := imageGet img 16 2 ≠ b2n s.tiered || imageGet img 18 2 ≠ s.pv 0x1001 0
  let old := (List.range 64).map (fun i => s.handle h c i)
  let t := (List.range 64).foldl (fun s i => s.setHandle (hkey h c i) (restoredHandle (imageGet img (0x100 + 16 * i) 16) changed)) s
  let t := old.foldl (fun s q => if hClass q = 6 then s.dropAllot h (winOf q) else s) t
  let t := (t.restoreWins h c img).restoreDrain h c img
  match t.restoreRings h c (imageRings img c) with
  | none => none
  | some t =>
    let t := (List.range 32).foldl (fun s b =>
      s.setBarrier h b { s.barrier h b with gen := BitVec.ofNat 48 (imageGet img (0x1500 + 8 * b) 6) }) t
    let t := (List.range 128).foldl (fun s n => if (s.wait h n).state ≠ 0 && (s.wait h n).ctx = c then s.setWait h n {} else s) t
    match t.restoreWaits h c (imageWaits img) with
    | none => none
    | some t => some (t.restoreAllots h c img)

/-- RESTORE: the image is checked and loaded. -/
def State.ctxRestore (s : State) (h c ref : Nat) : State :=
  if s.status h 0 0x240 = 1 then s
  else match s.ctxRef h ref (s.ctxOff h) false with
    | .inl f => s.ctxRefuse h f
    | .inr ga =>
      let ls := (List.range (imageBytes / 64)).map (fun j => s.peek (ga + 64 * j))
      let img := (ls.zipIdx).foldl (fun a e => a + e.1.1.toNat * 2^(512 * e.2)) 0
      if !s.imageOk ga || ls.any (fun l => l.2) || imageGet img 0 2 ≠ 1 ||
          imageGet img imageCrcAt 4 ≠ imageCrc img then s.ctxStatus h 4
      else match s.restoreInto h c img with
        | some t => (t.ctxStatus h 2).ctxGo h
        | none => s.ctxStatus h 4

/-- CTX_RESTORE. -/
def execCtxRestore (h : HiveId) (c : CtxId) (ref : BitVec 16) (s : State) : Host.Outcome State Fault Refusal :=
  .next (s.cmd h.val 0 (.ctxRestore h c ref) (fun s => if s.ctlOpen h.val then (s.wakeHive h.val).ctxRestore h.val c.val ref.toNat else s))

end Sys2Proof.Machine
end

