-- ==== Sys2Proof/Machine/Deliver.lean ====
section
/-!
DEFINITION. Deliver.lean: read data and completions reach the master that asked for them (R35, R48, R64, R65): an engine, the scalar core, a
DMA channel, a Scarab, a T2Q or a window.
-/
namespace Sys2Proof.Machine

/-! ### The order of delivery (R65) -/

/-- The target of a request, as R65 divides them: a quadrant of the own Hive, one of its operand stores, its sync page, or one remote unit. -/
def State.target (s : State) (x : Xact) : Nat × Nat :=
  if !x.mesh then
    match x.loc with
    | .row _ b _ => (0, b / 16)
    | .mat _ _ _ => (1, 0)
    | .vec _ _ _ => (2, 0)
    | .sync _ _ => (3, 0)
    | l => (4, l.unit)
  else match x.win with
    | some k => if k.1 = s.chipId then (4, k.2.1) else (4, uFx (s.fxpOf k.1))
    | none => (4, x.loc.unit)

/-- A request has been presented to its target and not yet delivered. -/
def Xact.presented (x : Xact) : Bool :=
  x.stage ≠ .portInput && x.stage ≠ .scoreboard && x.stage ≠ .farLine && x.stage ≠ .mirrorQueue &&
  !((x.stage = .issueStall || x.stage = .ringStall) && !(x.mesh && x.unit = x.loc.unit))

/-- The lines of a transaction's request: those of its group that go the same way. -/
def State.groupOf (s : State) (x : Xact) : List Xact :=
  if x.grp = 0 || x.isRun then [x]
  else s.flight.filter (fun y => y.grp = x.grp && isWr y.kind = isWr x.kind && y.srcUnit = x.srcUnit && y.srcPort = x.srcPort &&
    y.srcChip = x.srcChip && y.stage ≠ .mirrorQueue && !y.isRun)

/-- A line stands at its port. -/
def State.landed (s : State) (x : Xact) : Bool := x.half = .answer && x.stage = .returned && decide (x.ready ≤ s.clk.now)

/-- A request may be delivered (R64, R65, R21): all its lines stand at the port, the mirrored ones acknowledged, and no earlier request of the
port to one of their targets is still on its way. -/
def State.deliverable (s : State) (g : List Xact) : Bool :=
  g.all (fun x => s.landed x && !(isWr x.kind && s.mirrorWaits x.id)) &&
  g.all (fun x => x.isRun || x.srcChip.isSome || !s.flight.any (fun y => y.srcUnit = x.srcUnit && y.srcPort = x.srcPort && y.srcChip.isNone && y.presented &&
    !y.isRun && lexLt [y.born, y.id] [x.born, x.id] && s.target y = s.target x && !(g.any (fun z => z.id = y.id))))

/-! ### What a master receives -/

/-- What an engine, a stream or a channel that a port presents for receives (R48, R284): data, poison, or a completion marked as failed. -/
def engineDeliv (x : Xact) : Deliv :=
  let code : Byte := match x.result with
    | .ok => 0
    | .refused c => c
    | .uncorr c => c
  { hive := x.srcUnit, port := x.srcPort, chan := x.srcChan, ctx := x.ctx, tag := if x.srcPort = 3 then x.dxpTag else x.tag, ga := x.ga, kind := x.kind, data := x.data,
    poison := x.poison || (!isWr x.kind && x.result ≠ .ok), code := if isWr x.kind then code else 0 }

/-- What the scalar core receives (R32, R48, R127): its bytes, a completion, or a trap with its code. -/
def scalarDeliv (x : Xact) (off size : Nat) : Deliv :=
  let rd := !isWr x.kind || x.kind = .atomic
  let trap := x.result.trap
  { hive := x.srcUnit, port := 2, chan := 0, ctx := x.ctx, tag := x.tag, ga := x.ga, kind := x.kind,
    data := if rd && trap = 0 then BitVec.ofNat 512 (x.data.toNat / 2^(8 * off) % 2^(8 * size)) else 0, poison := false,
    code := BitVec.ofNat 8 trap }

/-- Hands a master its answer. -/
def State.toMaster (s : State) (d : Deliv) : State := { s with hives := { s.hives with outs := s.hives.outs ++ [d] } }

/-- The answer of tier 1 to a request that a T2Q passed on for a promoted block (R276): it answers the request itself. -/
def State.promotedEnd (s : State) (x : Xact) (n : Nat) : State :=
  match s.xact n with
  | some y => s.answer { y with data := x.data, poison := x.poison, result := x.result, since := s.clk.now } y.loc.unit 5
  | none => s

/-- A group of Placement Table entries has come (R274): it is cached, and the requests that waited for it go on. -/
def State.placementEnd (s : State) (k g : Nat) : State :=
  let s := s.plCache k g
  (s.flight.filter (fun x => x.loc.unit = uT2 k && x.stage = .controller && x.inp = 8 && x.block / 8 = g)).foldl (fun s x =>
    s.setX { x with stage := .edgeIngress, inp := 6, ready := s.clk.now }) s

/-- Hands one line to what asked for it. -/
def State.handOver (s : State) (x : Xact) : State :=
  match x.purpose with
  | .engine => s.toMaster (engineDeliv x)
  | .scalar off size => s.toMaster (scalarDeliv x off size)
  | .ringFetch => s.slotData x
  | .boundWord k => s.boundData x k
  | .dmaSrc d => s.dmaData x x.tag d x.data
  | .dmaDst d n => s.dmaWriteEnd x d n
  | .fill d n => s.dmaWriteEnd x d n
  | .completion => if x.srcPort = 5 then s.jobAction x else s.cmplEnd x
  | .jobList _ l => s.jobLine x l
  | .jobSlice _ no part => s.jobSlice x no part
  | .jobOut _ pos => s.jobOutEnd x pos
  | .promoted n => s.promotedEnd x n
  | .placement k g => s.placementEnd k g
  | .run c => s.runLineEnd x c
  | .window k => s.markTry (k / 32) (k % 32)
  | _ => s

/-- A line leaves flight: its slot ring follows (R225), a line that came through a window of this chip or of another is counted there
(R133), and its master has its answer. -/
def State.deliverLine (s : State) (x : Xact) : State :=
  let s := (s.dropX x.id).ringDone x
  let s := match x.purpose, x.win with
    | .window k, _ => s.windowApplied (k / 32) (k % 32) x (x.result = Result.ok)
    | _, some k => if k.1 = s.chipId && x.mesh then s.windowApplied k.2.1 k.2.2.1 x (x.result = Result.ok) else s
    | _, none => s
  s.handOver x

/-- A port write's scoreboard entry goes with its completion (R219). -/
def State.portEntryDone (s : State) (x : Xact) : State :=
  if isWr x.kind && (x.srcPort = 0 || x.srcPort = 1 || x.srcPort = 6) && x.srcChip.isNone then
    match s.hives.sb.find? (fun e => e.hive = x.srcUnit && e.port = x.srcPort && e.desc = x.grp) with
    | some e => s.sbDrop e.id
    | none => s
  else s

/-- Delivers the request of a transaction where nothing keeps it. -/
def State.deliver (s : State) (x : Xact) : State :=
  let g := s.groupOf x
  if !s.clk.rootOn || x.cacheOwn || !s.deliverable g then s
  else (g.foldl (fun s y => s.deliverLine y) s).portEntryDone x

/-- RESPONSE_DELIVER: read data, or an atomic's old value, reaches its master. -/
def execResponseDeliver (x : Nat) (s : State) : Host.Outcome State Fault Refusal :=
  .next (match s.xact x with
    | some y => if !isWr y.kind || y.kind = .atomic then s.deliver y else s
    | none => s)

/-- WRITE_COMPLETE: a write, ACC or atomic reports its completion. -/
def execWriteComplete (x : Nat) (s : State) : Host.Outcome State Fault Refusal :=
  .next (match s.xact x with
    | some y => if isWr y.kind then s.deliver y else s
    | none => s)

end Sys2Proof.Machine
end

