-- ==== Sys2Proof/Machine/Repair.lean ====
section
/-!
DEFINITION. Repair.lean: the Weevil (R292 to R295), spare rows and field repair (R297 to R302), retirement (R302 to R305), the
capacity manifest (R306 to R311) and CHECK_ACCESS (R313, R314).
-/
namespace Sys2Proof.Machine

/-! ### The chip error table -/

/-- A write of tail to ERR_TABLE_PTR (R287). -/
def State.errAck (s : State) (v : Nat) : State :=
  let t := s.err.tail.toNat
  if (v + 512 - t) % 512 ≤ (s.err.head.toNat + 512 - t) % 512 then { s with err := { s.err with tail := BitVec.ofNat 9 v } } else s

/-- ERR_TABLE_ACK. -/
def execErrTableAck (v : BitVec 9) (s : State) : Host.Outcome State Fault Refusal := .next (if s.mgmt.por then s else s.errAck v.toNat)

/-! ### The walkers -/

/-- A walker, by the unit numbers of R384. -/
def State.walker (s : State) (u : Nat) : Walker := Tbl.get s.err.walkers {} u

/-- Stores a walker. -/
def State.setWalker (s : State) (u : Nat) (w : Walker) : State :=
  { s with err := { s.err with walkers := Tbl.set s.err.walkers {} u w } }

/-- What a Hive walker visits in a place of its pass: a row by kind, bank and logical row, or a sync-page word as kind 3 (R292). -/
structure Spot where
  kind : Nat
  bank : Nat
  row  : Nat
deriving DecidableEq, Repr

/-- Locations of a Hive: 64 × 768 main rows, 16 × 192 and 8 × 128 store rows, 8,192 words. -/
def hiveSpots : Nat := 61440

/-- Place n of a pass (R292, R295): the segments of `lead` first, then the other main rows, the stores and the sync page, bank by bank in
ascending order. The order of the banks is the model's: log entry 41. -/
def spotAt (lead : List Nat) (n : Nat) : Spot :=
  let a := 4096 * lead.length
  if n < a then { kind := 0, bank := n % 4096 / 64, row := 64 * (lead.getD (n / 4096) 1 - 1) + n % 64 }
  else
    let rest := ((List.range 12).map (fun i => i + 1)).filter (fun d => !lead.contains d)
    let per := 64 * rest.length
    let m := n - a
    if m < 64 * per then { kind := 0, bank := m / per, row := 64 * (rest.getD (m % per / 64) 1 - 1) + m % 64 }
    else
      let i := n - 49152
      if i < 3072 then { kind := 1, bank := i / 192, row := i % 192 }
      else if i < 4096 then { kind := 2, bank := (i - 3072) / 128, row := (i - 3072) % 128 }
      else { kind := 3, bank := 0, row := i - 4096 }

/-- The location of a spot. -/
def Spot.loc (p : Spot) (h : Nat) : Loc :=
  match p.kind with
  | 0 => .row h p.bank p.row
  | 1 => .mat h p.bank p.row
  | 2 => .vec h p.bank p.row
  | _ => .sync h p.row

/-- The power domain a spot lies in; the sync page belongs to the logic (R357). -/
def Spot.dom (p : Spot) : Nat := if p.kind = 0 then p.row / 64 + 1 else if p.kind = 3 then 0 else 13

/-- An idle cycle of a bank (R293): it is free, nothing before it is eligible and no handover clears it. -/
def State.bankIdle (s : State) (loc : Loc) : Bool :=
  decide (s.freeAt loc.arb ≤ s.clk.now) && !(s.before loc.arb).any s.eligible && !s.clearing loc

/-- The programmed time of a walker's pass in nanoseconds, 0 for one that stands still (R292, R296). -/
def State.passNs (s : State) (u : Nat) : Nat :=
  if u < 256 then s.act 0x3200 0 * msNs else if u < 264 then s.act 0x3201 0 * secNs else s.act 0x3202 0 * secNs

/-- The pace lets a walker take its next place: a pass starts when the one before has had its time, and place n of N falls at n/N of the
pass (R292, R294). -/
def State.paced (s : State) (u total : Nat) : Bool :=
  let w := s.walker u
  let t := s.passNs u
  t ≠ 0 && (if w.pos = 0 then w.began = 0 || decide (w.began + t ≤ s.clk.ts.toNat)
    else decide (w.pos * t ≤ (s.clk.ts.toNat - w.began) * total))

/-- A walker takes its next place, its location skipped or not; the last place ends the pass (R288, R295). -/
def State.walked (s : State) (u total : Nat) (skipped : Bool) : State :=
  let w := s.walker u
  let w := { w with began := if w.pos = 0 then max 1 s.clk.ts.toNat else w.began, skip := w.skip + b2n skipped, pos := w.pos + 1 }
  if w.pos < total then s.setWalker u w
  else
    let took := s.clk.ts.toNat - w.began
    let excess := if 5 * s.passNs u < 4 * took then some (took, w.skip) else w.excess
    (s.setWalker u { w with pos := 0, skip := 0, lead := w.first, first := [], excess := excess }).cadd 0x3500 (8 * u + 7) 1

/-- The Weevil's event at a Hive location (R284, R285). -/
def weevilEvent (h : Nat) (loc : Loc) (kind gmask synd : Nat) (bad spare : Bool) : Integ :=
  { code := if bad then 0x4C else 0x46, kind := kind, det := 1, gmask := gmask, synd := synd, unit := h, spare := spare, loc := loc.local }

/-- The walker judges a row; a correctable one waits for its write-back (R28, R293, R301). -/
def State.scrubRow (s : State) (h : Nat) (p : Spot) : State :=
  let loc := p.loc h
  let spare := (s.spareFor p.kind h p.bank p.row).isSome
  let place := s.rowPlace p.kind h p.bank p.row
  let r := s.rowAt place
  let s := if r.split then (s.setRow place { r with cells := if r.valid then 7 else 0 }).integrity (weevilEvent h loc p.kind 0 0 false spare) else s
  if !r.valid then s
  else
    let x := readGrans r allGrans
    let bad := x.bad || s.rowPz p.kind h p.bank p.row
    if bad then s.integrity (weevilEvent h loc p.kind x.gmask x.synd.toNat true spare)
    else if x.gmask = 0 then s
    else
      let s := s.integrity (weevilEvent h loc p.kind x.gmask x.synd.toNat false spare)
      { s with err := { s.err with wbs := addOnce s.err.wbs place } }

/-- The walker judges a word of the sync page. -/
def State.scrubWord (s : State) (h w : Nat) : State :=
  match decodeGran (s.syncRaw h w).data (s.syncRaw h w).chk with
  | .clean => s
  | .bad y => s.integrity (weevilEvent h (.sync h w) 3 1 y.toNat true false)
  | .corr _ y =>
    let s := s.integrity (weevilEvent h (.sync h w) 3 1 y.toNat false false)
    { s with err := { s.err with wbs := addOnce s.err.wbs (syncKey h w) } }

/-- A Hive walker takes its next location in an idle cycle of its bank, while its Hive is LIVE; a location whose domain is not ON is skipped
(R292, R293, R295). -/
def execWeevilScrubRead (h : HiveId) (s : State) : Host.Outcome State Fault Refusal :=
  .next (
    let p := spotAt (s.walker h.val).lead (s.walker h.val).pos
    let loc := p.loc h.val
    if !s.clk.rootOn || s.clockOf h.val ≠ .live || !s.domLive h.val 0 || !s.paced h.val hiveSpots then s
    else if !s.domLive h.val p.dom then s.walked h.val hiveSpots true
    else if !s.bankIdle loc then s
    else
      let s := (if p.kind = 3 then s.scrubWord h.val p.row else s.scrubRow h.val p).occupy loc.arb 1
      (s.cadd 0x3500 (8 * h.val + 4) 1).walked h.val hiveSpots false)

/-- The Hive of a place that waits for its write-back. -/
def wbHive (k : Nat) : Nat := if 2^30 ≤ k then (k - 2^30) / 8192 else (keyParts k).2.1

/-- The location of a place that waits for its write-back. -/
def State.wbLoc (s : State) (k : Nat) : Loc :=
  if 2^30 ≤ k then .sync ((k - 2^30) / 8192) (k % 8192)
  else
    let p := keyParts k
    let row := (s.logicalRow k).getD 0
    if p.1 = 0 then .row p.2.1 p.2.2.1 row else if p.1 = 1 then .mat p.2.1 p.2.2.1 row else .vec p.2.1 p.2.2.1 row

/-- The corrected contents stored at a place, with fresh checks (R293). -/
def State.scrubStore (s : State) (k : Nat) : State :=
  if 2^30 ≤ k then
    let h := (k - 2^30) / 8192
    let d := s.syncVal h (k % 8192)
    s.setSyncRaw h (k % 8192) d (checkByte d)
  else
    let r := s.rowAt k
    let x := readGrans r allGrans
    if r.valid && !x.bad then s.setRow k { r with data := x.data, chk := lineChk x.data } else s

/-- WEEVIL_WRITEBACK: the oldest correction of a Hive is written back in an idle cycle of its bank (R293). A write granted meanwhile has taken
it out of the list. -/
def execWeevilWriteback (h : HiveId) (s : State) : Host.Outcome State Fault Refusal :=
  .next (match s.err.wbs.find? (fun k => wbHive k = h.val) with
    | none => s
    | some k =>
      let loc := s.wbLoc k
      if !s.clk.rootOn || s.power.hold || !s.hiveUp h.val || !s.bankIdle loc then s
      else
        let s := (s.scrubStore k).occupy loc.arb 1
        { s with err := { s.err with wbs := s.err.wbs.filter (fun x => x ≠ k) } }.cadd 0x3500 (8 * h.val + 5) 1)

/-- Page i of a T1C's stack (R248), or of a T2Q's cartridge, as a raw page of its tier. -/
def walkPage (u i : Nat) : Nat :=
  if u < 8 then 8 * i + (u ^^^ t1Stack (4096 * (8 * i))) else (u - 8) * (cartBytes / 4096) + i

/-- Pages a tier walker visits in a pass. -/
def walkPages (u : Nat) : Nat := if u < 8 then 2^24 else cartBytes / 4096

/-- A tier walker reads its next page: a coded page goes to the decoder whole, its flagged lines as erasures; of an OFF page the flagged
lines alone say something (R292, R294). `flags` marks the lines that came with an error, `raw` holds them as read. -/
def execWeevilPageScrub (u : Fin 12) (flags : Dword) (raw : List Line) (s : State) : Host.Outcome State Fault Refusal :=
  .next (
    let w := bufUnit u.val
    let page := walkPage u.val (s.walker w).pos
    let t := tierOf u.val
    let st := s.strength t (4096 * page)
    let up := if u.val < 8 then s.tiers.ready.contains u.val else (s.cart (u.val - 8)).st = .trusted
    let gone := if u.val < 8 then s.t1Retired (4096 * page) else s.t2Retired (u.val - 8) (4096 * page % cartBytes)
    let er := (List.range 64).filter (fun j => flags.getLsbD j)
    if !s.clk.rootOn || !up || !s.paced w (walkPages u.val) then s
    else if gone then s.walked w (walkPages u.val) true
    else if s.pageWait u.val page true || !s.decRoom u.val then s
    else
      let s := (s.cadd (if u.val < 8 then 0x6300 else 0x6310) (8 * (u.val % 8)) 64).cadd 0x3500 (8 * w + 4) 1
      let s := if st = 0 then
          er.foldl (fun s j => s.integrity (tierEvent 0x4C u.val 1 0 0 (locIn t (64 * page + j)) none)) s
        else
          let d : DecJob := { unit := u.val, page := page, flagged := flags, raw := er.map (fun j => (j, raw.getD j 0)), req := none,
                              due := s.clk.now + 320, walker := true }
          { s with tiers := { s.tiers with decs := s.tiers.decs ++ [d] } }
      s.walked w (walkPages u.val) false)

/-- SCRUB_SHORTFALL: a pass took longer than 1.25 times its programmed time; the record gives both durations in ms and the locations
skipped (R295). -/
def execScrubShortfall (u : ScarabId) (s : State) : Host.Outcome State Fault Refusal :=
  .next (
    let w := s.walker u.val
    match w.excess with
    | none => s
    | some (took, skip) =>
      let f : RecF := { code := 0x47, unit := u.val, aux := s.passNs u.val / msNs, ga := took / msNs, late := skip / 65536, count := skip % 65536 }
      (s.setWalker u.val { w with excess := none }).raise f)

/-! ### Retirement -/

/-- A write of a REPAIR_MAP element. -/
def State.setRepair (s : State) (k : Nat) (v : Nat) : State :=
  { s with err := { s.err with repair := Tbl.set s.err.repair 0 k (BitVec.ofNat 16 v) } }

/-- Banks and rows of a kind (R26, R37). -/
def bankCount (kind : Nat) : Nat := if kind = 0 then 64 else if kind = 1 then 16 else 8
def rowCount (kind : Nat) : Nat := if kind = 0 then 768 else if kind = 1 then 192 else 128

/-- A stripe of a kind is retired (R303). -/
def State.isRetired (s : State) (kind h st : Nat) : Bool :=
  if kind = 0 then s.stripeRetired h st else if kind = 1 then s.err.matStr.contains (192 * h + st) else s.err.vecStr.contains (128 * h + st)

/-- Lists a stripe as retired. -/
def State.listStripe (s : State) (kind h st : Nat) : State :=
  if kind = 0 then { s with err := { s.err with stripes := addOnce s.err.stripes (768 * h + st) } }
  else if kind = 1 then { s with err := { s.err with matStr := addOnce s.err.matStr (192 * h + st) } }
  else { s with err := { s.err with vecStr := addOnce s.err.vecStr (128 * h + st) } }

/-- Releases the enabled spares that replace a row, but for those of the bank that failed (R303 step 3). -/
def State.releaseSpares (s : State) (kind h row : Nat) (failed : Option Nat) : State :=
  (List.range (bankCount kind)).foldl (fun s b =>
    if failed = some b then s
    else match s.spareFor kind h b row with
      | some sp => s.setRepair (repairKey kind h b sp) 0
      | none => s) s

/-- STRIPE_RETIRED and CAPACITY_LOSS of a retirement (R113, R303, R304): `obj` is the op and unit of RETIRE_OP, `r` the resource, whose N
does not change. -/
def State.sayRetired (s : State) (obj loc r : Nat) : State :=
  let s := s.raise { code := 0x49, unit := uHearth, obj := obj, ga := loc }
  s.capacityLoss uHearth r (s.netNow r) 1

/-- Retires a stripe of a Hive or of one of its stores (R303). Accesses already admitted go on, since the check is made at admission. -/
def State.retireStripe (s : State) (kind h st : Nat) (failed : Option Nat) : State :=
  if s.isRetired kind h st then s
  else
    let s := (s.releaseSpares kind h st failed).listStripe kind h st
    let s := { s with err := { s.err with graces := s.err.graces.filter (fun g => !(g.hive = h && g.kind = kind && g.stripe = st)) } }
    let s := (List.range (bankCount kind)).foldl (fun s b =>
      let loc : Loc := if kind = 0 then .row h b st else if kind = 1 then .mat h b st else .vec h b st
      if failed = some b then s.clearLog h kind loc.local else s) s
    s.genUp.sayRetired (256 * (kind + 1) + h) st h

/-- Requests at a T2Q for a retired page end there, and its buffer is dropped (R304). -/
def State.t2Gone (s : State) (k page : Nat) : State :=
  let xs := s.flight.filter (fun x => x.half = .request && (match x.loc with
    | .t2 j raw => j = k && (j * cartBytes + raw) / 4096 = page && (x.stage = .controller || x.stage = .outstanding || x.stage = .pageBuffer || x.stage = .decoder)
    | _ => false))
  let s := { s with tiers := { s.tiers with
    bufs := s.tiers.bufs.filter (fun b => !(b.unit = 8 + k && b.page = page))
    decs := s.tiers.decs.filter (fun d => !(d.unit = 8 + k && d.page = page)) } }
  xs.foldl (fun s x => s.refuseAt x (uT2 k) 0x14) s

/-- Promoted blocks on a retired tier-1 page are demoted, with write-back where dirty (R304). -/
def State.demoteRetired (s : State) : State :=
  s.tiers.carts.foldl (fun s c => c.2.place.foldl (fun s e =>
    if plProm e.2 && !plBusy e.2 && s.slotRetired (plSlot e.2) then s.startMove c.1 e.1 (plSlot e.2) 2 else s) s) s

/-- Retires a tier location (R304, R305): its entry, its requests and buffers, and the records. The resource named is the channel of the bank, or
that of the page's first chunk (DESIGN CHOICE: log entry 85). -/
def State.retireTier (s : State) (e : TierRet) : State :=
  let s := ({ s with err := { s.err with tierRet := s.err.tierRet.filter (fun (x : TierRet) => !(x.kind = e.kind && x.unit = e.unit && x.loc = e.loc)) ++ [{ e with pend := false }] } }).genUp
  let s := if e.kind = 2 then s.t2Gone e.unit e.loc else (s.t1Gone e.unit).demoteRetired
  s.sayRetired (256 * (e.kind + 4) + e.unit) e.loc (if e.kind = 2 then 0xA00 + 2 * e.unit
    else 0x900 + 32 * e.unit + (if e.kind = 1 then e.loc / 16 else (t1Hash (4096 * e.loc)).pc) / 2 % 32)

/-- A stack bank has a page inside a reserved extent (R304, R305). -/
def State.bankInExtent (s : State) (k loc : Nat) : Bool :=
  s.err.extents.any (fun e => match s.extentPages e with
    | some (1, a, b) =>
      let one : State := { s with err := { s.err with tierRet := [{ kind := 1, pend := false, unit := k, loc := loc }] } }
      (List.range (min (b - a + 1) 8192)).any (fun i => one.t1Retired (4096 * (a + i)))
    | _ => false)

/-- RETIRE_OP (R304): the state and the status it ends with. -/
def State.retire (s : State) (op unit loc : Nat) : State × Nat :=
  if 1 ≤ op ∧ op ≤ 3 then
    if 256 ≤ unit ∨ rowCount (op - 1) ≤ loc then (s, 4) else (s.retireStripe (op - 1) unit loc none, 2)
  else if 4 ≤ op ∧ op ≤ 6 then
    let e : TierRet := { kind := op - 4, pend := false, unit := unit, loc := if op = 5 then loc % 1024 else loc }
    let bad := if op = 4 then 8 ≤ unit || 2^27 ≤ loc || t1Stack (4096 * loc) ≠ unit
      else if op = 5 then decide (8 ≤ unit) else 4 ≤ unit || loc / (cartBytes / 4096) ≠ unit
    let pend := if op = 4 then s.inExtent 1 loc else if op = 5 then s.bankInExtent unit e.loc else s.inExtent 2 loc
    let same := fun (x : TierRet) => x.kind = e.kind && x.unit = e.unit && x.loc = e.loc
    if bad then (s, 4)
    else if s.err.tierRet.any (fun x => same x && !x.pend) then (s, 2)
    else if pend then
      if s.err.tierRet.any same then (s, 3)
      else if 65536 ≤ s.err.tierRet.length then (s, 4)
      else ({ s with err := { s.err with tierRet := s.err.tierRet ++ [{ e with pend := true }] } }, 3)
    else if 65536 ≤ s.err.tierRet.length && !s.err.tierRet.any same then (s, 4)
    else (s.retireTier e, 2)
  else (s, 4)

/-- A write of RETIRE_OP: the operation runs and its status shows (R304). -/
def State.retireWrite (s : State) (op unit loc : Nat) : State :=
  if s.mgmt.por then s
  else
    let p := s.retire op unit loc
    { p.1 with err := { p.1.err with retire := dwordOf [(63, 60, p.2)] } }

/-- RETIRE_OP 0x1. -/
def execRetireHiveStripe (h : HiveId) (loc : BitVec 48) (s : State) : Host.Outcome State Fault Refusal := .next (s.retireWrite 1 h.val loc.toNat)
/-- RETIRE_OP 0x2. -/
def execRetireMatrixStripe (h : HiveId) (loc : BitVec 48) (s : State) : Host.Outcome State Fault Refusal := .next (s.retireWrite 2 h.val loc.toNat)
/-- RETIRE_OP 0x3. -/
def execRetireVectorStripe (h : HiveId) (loc : BitVec 48) (s : State) : Host.Outcome State Fault Refusal := .next (s.retireWrite 3 h.val loc.toNat)
/-- RETIRE_OP 0x4. -/
def execRetireT1Page (unit : BitVec 8) (loc : BitVec 48) (s : State) : Host.Outcome State Fault Refusal := .next (s.retireWrite 4 unit.toNat loc.toNat)
/-- RETIRE_OP 0x5. -/
def execRetireT1Bank (unit : BitVec 8) (loc : BitVec 48) (s : State) : Host.Outcome State Fault Refusal := .next (s.retireWrite 5 unit.toNat loc.toNat)
/-- RETIRE_OP 0x6. -/
def execRetireT2Page (unit : BitVec 8) (loc : BitVec 48) (s : State) : Host.Outcome State Fault Refusal := .next (s.retireWrite 6 unit.toNat loc.toNat)

/-- RETIRE_GRACE_EXPIRE: the grace time of a pending retirement has passed (R302). -/
def execRetireGraceExpire (h : HiveId) (kind : Fin 3) (stripe : BitVec 10) (s : State) : Host.Outcome State Fault Refusal :=
  .next (match s.err.graces.find? (fun g => g.hive = h.val && g.kind = kind.val && g.stripe = stripe.toNat) with
    | some g => if s.clk.ts.toNat < g.due then s else s.retireStripe kind.val h.val stripe.toNat none
    | none => s)

/-! ### Field repair -/

/-- The record of a unit's log for a location. -/
def State.logOf (s : State) (u kind loc : Nat) : Option Rec :=
  ((List.range 16).map (s.logRec u)).find? (fun r => r ≠ 0 && recKey r = (kind, loc))

/-- Spares of a bank neither enabled nor marked as bad. -/
def State.freeSpares (s : State) (kind h b : Nat) : List Nat :=
  (List.range (spareCount kind)).filter (fun sp =>
    let e := (s.repairAt (repairKey kind h b sp)).toNat
    !bit e 15 && e % 1024 ≠ 0x3FF)

/-- Steps 1 and 2 of R300: spares are tested in order, a bad one is marked, the first good one is taken. What a spare that failed its test holds
is left open by the spec: log entry 42. -/
def State.testSpares (s : State) (kind h b : Nat) (bad : Nat) : List Nat → State × Option Nat
  | [] => (s, none)
  | sp :: t =>
    if bit bad sp then
      let p := s.draw
      let r : Row := { data := BitVec.ofNat 512 p.1, chk := BitVec.ofNat 64 (p.1 / 2^512), cells := BitVec.ofNat 3 (p.1 / 2^576) }
      ((p.2.setRow (rowKey kind h b (768 + sp)) r).setRepair (repairKey kind h b sp) 0x3FF).testSpares kind h b bad t
    else (s, some sp)

/-- The partner is asked to send a row of a mirrored region again (R301). -/
def State.askRow (s : State) (loc : Loc) (h : Nat) : State :=
  match loc with
  | .row _ _ _ =>
    let ga := h * 0x400000 + loc.local
    match s.regionOf ga with
    | some i =>
      if s.mirror.st = .paired && mrState (s.mregion i) = 2 then s.sendSeq 0x47 i 0 0 (ga - 4096 * mrBase (s.mregion i)) fullMask [] [] false
      else s
    | none => s
  | _ => s

/-- Steps 3 and 4 of R300 with R301: the row goes to the spare, and the repair is recorded. A spare that served the row before is marked as
bad: log entry 43. -/
def State.transferRow (s : State) (kind h b row sp : Nat) (loc : Loc) : State :=
  let place := s.rowPlace kind h b row
  let r := s.rowAt place
  let pz0 := s.rowPz kind h b row
  let x : RowRead := if r.valid then readGrans r allGrans else { data := r.data, gmask := 0, bad := false, synd := 0 }
  let pz := x.bad || pz0
  let s := match s.spareFor kind h b row with
    | some old => s.setRepair (repairKey kind h b old) 0x3FF
    | none => s
  let s := s.setRow (rowKey kind h b (768 + sp)) { data := x.data, chk := lineChk x.data, cells := if r.valid then 7 else 0 }
  let s := s.setRepair (repairKey kind h b sp) (0x8000 + 0x4000 * b2n pz + row)
  let s := (s.occupy loc.arb 3).clearLog h kind loc.local
  let s := { s with err := { s.err with wbs := s.err.wbs.filter (fun k => k ≠ place) } }
  let e : Integ := { code := 0x48, kind := kind, det := 4, gmask := x.gmask, synd := x.synd.toNat, chan := sp, unit := h, spare := true, loc := loc.local }
  let s := s.tableAdd (BitVec.ofNat 256 (setFld (e.record s.clk.ts).toNat 191 176 (s.freeSpares kind h b).length))
  if pz then s.askRow loc h else s

/-- R302: no usable spare is left. -/
def State.noSpare (s : State) (kind h b row : Nat) (uncorr : Bool) : State :=
  if uncorr then s.retireStripe kind h row (some b)
  else if s.isRetired kind h row || s.err.graces.any (fun g => g.hive = h && g.kind = kind && g.stripe = row) then s
  else
    let due := s.clk.ts.toNat + s.pv 0x3103 0 * msNs
    let s : State := { s with err := { s.err with graces := s.err.graces ++ [{ hive := h, kind := kind, stripe := row, due := due }] } }
    s.raise { code := 0x4B, unit := h, obj := 1024 * kind + row, ga := due % 2^48 }

/-- ROW_REPAIR (R299 to R302): firmware repairs a row whose log record is uncorrectable or has reached the threshold. `badSpares` tells which
spares fail their test. In DETERMINISTIC mode the three cycles of the transfer fall on FREE entries. -/
def execRowRepair (h : HiveId) (kind : Fin 3) (bank : BankId) (row : BitVec 10) (badSpares : BitVec 16) (s : State) :
    Host.Outcome State Fault Refusal :=
  .next (
    let b := bank.val
    let r := row.toNat
    let p : Spot := { kind := kind.val, bank := b, row := r }
    let loc := p.loc h.val
    let uncorr := match s.logOf h.val kind.val loc.local with
      | some q => !corrCode (recCode q)
      | none => false
    let due := uncorr || (match s.logOf h.val kind.val loc.local with
      | some q => decide (s.pv 0x3104 0 ≤ fld q.toNat 191 176)
      | none => false)
    if !s.clk.rootOn || s.power.hold || bankCount kind.val ≤ b || rowCount kind.val ≤ r || !due || s.isRetired kind.val h.val r || !s.hiveUp h.val || !s.domOn h.val p.dom ||
        decide (s.clk.now < s.freeAt loc.arb) || s.clearing loc then s
    else
      let q := s.testSpares kind.val h.val b badSpares.toNat (s.freeSpares kind.val h.val b)
      match q.2 with
      | some sp =>
        if s.determ && (List.range 3).any (fun i => s.reserved h.val (s.clk.now + i) loc) then s
        else q.1.transferRow kind.val h.val b r sp loc
      | none => q.1.noSpare kind.val h.val b r uncorr)

/-! ### The repair map -/

/-- Kind, Hive, bank and spare of a REPAIR_MAP element (R297). -/
def repairParts (i : Nat) : Nat × Nat × Nat × Nat :=
  if i < 262144 then (0, i / 1024, i / 16 % 64, i % 16)
  else
    let j := i - 262144
    let b := j % 96 / 4
    if b < 16 then (1, j / 96, b, j % 4) else (2, j / 96, b - 16, j % 4)

/-- A write of a REPAIR_MAP element; true when accepted (R298). -/
def State.repairWrite (s : State) (i v : Nat) : State × Bool :=
  let p := repairParts i
  let row := v % 1024
  let twin := bit v 15 && (match s.spareFor p.1 p.2.1 p.2.2.1 row with
    | some sp => sp ≠ p.2.2.2
    | none => false)
  if 286720 ≤ i || s.hiveUp p.2.1 || (rowCount p.1 ≤ row && row ≠ 0x3FF) || (bit v 15 && row = 0x3FF) || twin then (s, false)
  else (s.setRepair i (v % 65536 / 16384 * 16384 + row), true)

/-- REPAIR_MAP. -/
def execRepairMapWrite (idx : Nat) (v : BitVec 16) (s : State) : Host.Outcome State Fault Refusal :=
  .next (if s.mgmt.por then s else (s.repairWrite idx v.toNat).1)

/-! ### The capacity manifest -/

/-- Members of a bit string, from `base`. -/
def bitsSet (x n base : Nat) : List Nat := ((List.range n).filter (fun i => bit x i)).map (fun i => base + i)

/-- A written manifest is refused (R310): format, size or CRC, mode or C, and the limits of E and T. -/
def State.manifestBad (s : State) (bs : List Byte) : Bool :=
  let at_ := bytesAt bs
  let zeroed := bs.take 60 ++ natBytes 4 0 ++ bs.drop 64
  bs.length < 41024 || at_ 0 2 ≠ 1 || at_ 2 2 ≠ 64 || at_ 4 4 ≠ bs.length || bs.length ≠ 41024 + 32 * at_ 28 2 + 8 * at_ 32 4 ||
    at_ 60 4 ≠ (crc32 zeroed).toNat || at_ 16 1 ≠ s.pv 0x1000 0 || at_ 18 2 ≠ s.pv 0x1001 0 || 64 < at_ 28 2 || 65536 < at_ 32 4

/-- A complete write of CAPACITY_MANIFEST; true when installed (R310, R311). -/
def State.manifestWrite (s : State) (bs : List Byte) : State × Bool :=
  if !s.noHiveLive || s.manifestBad bs then (s, false)
  else
    let recAt := fun h => 64 + 160 * h
    let str := ((List.range 256).map (fun h => bitsSet (bytesAt bs (recAt h) 96) 768 (768 * h))).flatten
    let mat := ((List.range 256).map (fun h => bitsSet (bytesAt bs (recAt h + 96) 24) 192 (192 * h))).flatten
    let vec := ((List.range 256).map (fun h => bitsSet (bytesAt bs (recAt h + 120) 16) 128 (128 * h))).flatten
    let ne := bytesAt bs 28 2
    let ext : List Extent := (List.range ne).map (fun i =>
      let o := 41024 + 32 * i
      { kind := bytesAt bs o 1, tier := bytesAt bs (o + 1) 1, base := bytesAt bs (o + 8) 8, len := bytesAt bs (o + 16) 8 })
    let ts := (List.range (bytesAt bs 32 4)).map (fun i =>
      let v := bytesAt bs (41024 + 32 * ne + 8 * i) 8
      { kind := fld v 63 61, pend := bit v 60, unit := fld v 55 48, loc := fld v 47 0 : TierRet })
    let back := fun (old new : List Nat) (n h row : Nat) => old.contains (n * h + row) && !new.contains (n * h + row)
    let o := s.err
    let s := (List.range 256).foldl (fun s h => s.clearValid h (fun kind _ row =>
      if kind = 0 then back o.stripes str 768 h row else if kind = 1 then back o.matStr mat 192 h row else back o.vecStr vec 128 h row)) s
    let g : Dword := BitVec.ofNat 64 (bytesAt bs 8 8)
    let s := { s with err := { s.err with stripes := str, matStr := mat, vecStr := vec, extents := ext, tierRet := ts, gen := g, genLoad := g, changed := false } }
    (if g = o.gen then s else s.notice 0x3100 0 (s.manifest.take 64), true)

/-- CAPACITY_MANIFEST. -/
def execManifestWrite (bytes : List Byte) (s : State) : Host.Outcome State Fault Refusal :=
  .next (if s.mgmt.por then s else (s.manifestWrite bytes).1)

/-! ### CHECK_ACCESS -/

/-- What CHECK_ACCESS addresses (R313): a stored row by its place and arbiter, a word, or a raw tier line. -/
inductive RawSpot where
  | row (place : Nat) (loc : Loc)
  | word (h w : Nat)
  | line (tier n : Nat)
deriving DecidableEq, Repr

/-- The target of CHK_CMD; none where it is refused (R313). -/
def State.rawSpot (s : State) (target unit spare loc : Nat) : Option RawSpot :=
  if target < 3 then
    match hiveLoc unit loc with
    | .row h b r => if target ≠ 0 || 16 < spare || !s.domLive h (r / 64 + 1) then none
        else some (.row (if spare = 0 then s.rowPlace 0 h b r else rowKey 0 h b (767 + spare)) (.row h b r))
    | .mat h b r => if target ≠ 1 || 4 < spare || !s.domLive h 13 then none
        else some (.row (if spare = 0 then s.rowPlace 1 h b r else rowKey 1 h b (767 + spare)) (.mat h b r))
    | .vec h b r => if target ≠ 2 || 4 < spare || !s.domLive h 13 then none
        else some (.row (if spare = 0 then s.rowPlace 2 h b r else rowKey 2 h b (767 + spare)) (.vec h b r))
    | _ => none
  else if target = 3 then (if loc < 0x10000 && s.domLive unit 0 then some (.word unit (loc / 8)) else none)
  else if target = 4 then (if unit < 8 && t1Stack loc = unit && decide (loc < 2^39) then some (.line 1 (loc / 64)) else none)
  else if target = 5 then (if unit < 4 && decide (loc < cartBytes) && (s.cart unit).linkUp then some (.line 2 ((unit * cartBytes + loc) / 64)) else none)
  else none

/-- CHK_DATA after READ_RAW (R313, R314). -/
def State.rawData (s : State) : RawSpot → Nat
  | .row place _ =>
    let r := s.rowAt place
    pack [(511, 0, r.data.toNat), (575, 512, r.chk.toNat), (576, 576, b2n r.valid), (579, 577, r.cells.toNat)]
  | .word h w =>
    let v := s.syncRaw h w
    pack [(63, 0, v.data.toNat), (519, 512, v.chk.toNat)]
  | .line t n => (s.tline t n).toNat

/-- Stores CHK_DATA at a target exactly as given (R314). -/
def State.storeRaw (s : State) : RawSpot → State
  | .row place loc =>
    let d := s.err.chkData.toNat
    (s.setRow place { data := BitVec.ofNat 512 (fld d 511 0), chk := BitVec.ofNat 64 (fld d 575 512), cells := BitVec.ofNat 3 (fld d 579 577) }).rowTouched
      place loc.unit (loc.local / 64)
  | .word h w =>
    let d := s.err.chkData.toNat
    let s := s.setSyncRaw h w (BitVec.ofNat 64 (fld d 63 0)) (BitVec.ofNat 8 (fld d 519 512))
    { s with err := { s.err with wbs := s.err.wbs.filter (fun k => k ≠ syncKey h w) } }
  | .line t n => s.setTline t n (BitVec.ofNat 512 (fld s.err.chkData.toNat 511 0))

/-- The cycle that CHECK_ACCESS takes at its target (R314). -/
def State.rawCycle (s : State) : RawSpot → State
  | .row _ loc => (s.wakeHive loc.unit).occupy loc.arb (max s.clk.now (s.freeAt loc.arb) - s.clk.now + 1)
  | .word h w => (s.wakeHive h).occupy (Loc.sync h w).arb (max s.clk.now (s.freeAt (Loc.sync h w).arb) - s.clk.now + 1)
  | .line _ _ => s

/-- GA of a local address of a Hive: in a pool stripe its pool address, by the inverse of the stripe hash (R26, R43). -/
def State.hiveGa (s : State) (h l : Nat) : Nat :=
  let row := l / 4096
  if row < 768 ∧ s.inPool row then
    let q := row - (768 - s.poolC)
    0x40000000 + 4096 * (256 * q + (h ^^^ (91 * q) % 256) * 173 % 256) + l % 4096
  else h * 0x400000 + l

/-- A line is debug-visible: a handle slot of the chip with dbg = 1 covers its GA (R439). -/
def State.visible (s : State) (ga : Nat) : Bool :=
  s.hives.handles.any (fun e => hDbg e.2 && decide (1 ≤ hClass e.2 ∧ hClass e.2 ≤ 5) && decide (hBase e.2 ≤ ga / 64 * 64) &&
    decide (ga / 64 * 64 < hBase e.2 + 64 * hExtent e.2))

/-- GA of the line a raw target holds; none for a spare that replaces no row and for a tier line. -/
def State.spotGa (s : State) : RawSpot → Option Nat
  | .row place loc => (s.logicalRow place).map (fun r => match loc with
      | .row h b _ => s.hiveGa h ((Loc.row h b r).local)
      | .mat h b _ => s.hiveGa h ((Loc.mat h b r).local)
      | .vec h b _ => s.hiveGa h ((Loc.vec h b r).local)
      | _ => 0)
  | .word h w => some (syncGa h w / 64 * 64)
  | .line _ _ => none

/-- The security matrix refuses a CHECK_ACCESS (R441): without authorisation outside DEVELOP; in SEALED of a tier target, and of a line that is
not debug-visible. -/
def State.chkDenied (s : State) (target unit spare loc : Nat) : Bool :=
  s.mgmt.life ≠ 1 && (!s.mgmt.auth || (s.mgmt.life ≠ 3 && (match (s.rawSpot target unit spare loc).map s.spotGa with
    | some (some ga) => !s.visible ga
    | some none => true
    | none => decide (3 < target))))

/-- A write of CHK_CMD (R313, R314): READ_RAW or WRITE_RAW at a target, and its status. -/
def State.checkAccess (s : State) (write : Bool) (target unit spare loc : Nat) : State :=
  let done := fun (s : State) (st : Nat) => show State from { s with err := { s.err with chkCmd := dwordOf [(63, 60, st)] } }
  match s.rawSpot target unit spare loc with
  | none => done s 4
  | some p =>
    let s := s.rawCycle p
    if write then done (s.storeRaw p) 2
    else done { s with err := { s.err with chkData := BitVec.ofNat 640 (s.rawData p) } } 2

/-- READ_RAW. -/
def execReadRaw (target : BitVec 4) (unit : BitVec 8) (spare : BitVec 5) (loc : BitVec 39) (s : State) : Host.Outcome State Fault Refusal :=
  .next (if s.mgmt.por || !s.clk.rootOn || s.mgmt.wipe || s.chkDenied target.toNat unit.toNat spare.toNat loc.toNat then s
    else s.checkAccess false target.toNat unit.toNat spare.toNat loc.toNat)

/-- WRITE_RAW. -/
def execWriteRaw (target : BitVec 4) (unit : BitVec 8) (spare : BitVec 5) (loc : BitVec 39) (s : State) : Host.Outcome State Fault Refusal :=
  .next (if s.mgmt.por || !s.clk.rootOn || s.power.hold || s.mgmt.wipe || s.chkDenied target.toNat unit.toNat spare.toNat loc.toNat then s
    else s.checkAccess true target.toNat unit.toNat spare.toNat loc.toNat)

end Sys2Proof.Machine
end

