-- ==== Sys2Proof/Machine/Mirror.lean ====
section
/-!
DEFINITION. Mirror.lean: mirrored pairs (R318 to R338), the journal's replay and its entries (R339 to R346), and the loss of a chip
(R130, R331).
-/
namespace Sys2Proof.Machine

/-! ### Pair state -/

/-- The state codes of PAIR_STATE (R318). -/
def pairCode : PairSt → Nat
  | .unpaired => 0
  | .joining => 1
  | .paired => 2
  | .solo => 3
  | .fenced => 4
  | .leaving => 5
  | .restoring => 6
  | .fenceWait => 7

/-- PAIR_STATE as read. -/
def State.pairState (s : State) : Nat := pack [(63, 56, pairCode s.mirror.st), (55, 48, s.mirror.cause)]

/-- PAIR_STATE changes: subscribers and interrupt line 1 are told (R434, R448). -/
def State.pairEnter (s : State) (st : PairSt) : State :=
  let s := { s with mirror := { s.mirror with st := st } }
  (s.notice 0x5001 0 (natBytes 8 s.pairState)).irq 1

/-- The highest sequence number this member has applied. -/
def State.mApplied (s : State) : Nat := s.mirror.expect - 1

/-- Sends an acknowledgement; `flags` answers an MSETUP (R326, R328). -/
def State.sendMack (s : State) (flags : Nat) : State :=
  let s := s.offerM 0x44 (s.mframe 0 0 flags 0 s.mApplied 0 0 [])
  { s with mirror := { s.mirror with ackSent := s.mApplied, ackLines := 0 } }

/-- Sends MHEART with the image version and PAIR_STATE (R319, R326, R331). Its JOIN flag stands in flags bit 0, a place R326 does not give
it: log entry 44. -/
def State.sendHeart (s : State) : State :=
  let join := s.mirror.st = .joining || s.mirror.st = .restoring
  let line : Line := BitVec.ofNat 512 (s.mgmt.version.toNat + s.pairState * 2^64)
  let s := s.offerM 0x43 (s.mframe 0 0 (b2n join) 0 s.mApplied 0 0 [line])
  { s with mirror := { s.mirror with ackSent := s.mApplied, ackLines := 0, beatDue := s.clk.now + 22500, joinSent := s.mirror.joinSent || join } }

/-- Sends MSETUP for a region (R322 step 1, R337). -/
def State.sendSetup (s : State) (i : Nat) : State :=
  let q := s.mregion i
  s.sendSeq 0x46 i 0 (32 * b2n (s.mirror.st = .restoring)) 0 0 [BitVec.ofNat 512 (q.toNat % 2^100)] [.setup i] false

/-- Regions with en = 1. -/
def State.enRegions (s : State) : List Nat := (List.range 64).filter (fun i => mrEn (s.mregion i))

/-- A pairing: both directions number from 1, and the setup of every enabled region starts (R319, R322, R337). -/
def State.pairUp (s : State) (st : PairSt) : State :=
  let s := { s with mirror := { s.mirror with
    sendSeq := 1, expect := 1, ackSent := 0, ackLines := 0, waits := [], flight := [], throttle := false
    heldOut := [], heldIn := []
    joinGot := none, lastHb := s.clk.now, lossCause := 0, fresh := true } }
  let s := (s.pairEnter st).sendHeart
  s.enRegions.foldl (fun s i => s.sendSetup i) s

/-- R338: when nothing of this member is ALIASED or RESTORING and every enabled region is ACTIVE, the member is PAIRED. -/
def State.restoredTry (s : State) : State :=
  if s.mirror.st ≠ .restoring || s.mirror.reserve.any (fun e => mrState e.2 = 4 || mrState e.2 = 5) ||
      s.enRegions.any (fun i => mrState (s.mregion i) ≠ 2) then s
  else (s.pairEnter .paired).raise { code := 0x77, unit := uMu, obj := s.pv 0x5000 0 }

/-- PAIR_STATE op JOIN; true when accepted (R318, R319). -/
def State.pairJoin (s : State) : State × Bool :=
  if s.mirror.st ≠ .unpaired || !s.clk.rootOn || 1023 < s.pv 0x5000 0 then (s, false)
  else (({ s with mirror := { s.mirror with beatDue := s.clk.now, joinSent := false } }).pairEnter .joining, true)

/-- PAIR_STATE op LEAVE; true when accepted: new journaled commands wait, and MFENCE goes out (R318, R346). -/
def State.pairLeave (s : State) : State × Bool :=
  if !s.paired || !s.clk.rootOn || s.mirror.fenceReq || s.mirror.waits.any (fun w => w.2 = MWait.leave) then (s, false)
  else (s.sendSeq 0x45 0 0 0 0 0 [] [.leave] false, true)

/-- JOIN. -/
def execPairJoin (s : State) : Host.Outcome State Fault Refusal := .next s.pairJoin.1
/-- LEAVE. -/
def execPairLeave (s : State) : Host.Outcome State Fault Refusal := .next s.pairLeave.1

/-- The partner is declared lost: its fence is requested (R331 to R333). -/
def State.partnerLost (s : State) (cause : Nat) : State :=
  if (s.mirror.st = .paired || s.mirror.st = .restoring) && !s.mirror.fenceReq && !s.mirror.replay then
    { s with mirror := { s.mirror with fenceReq := true, lossCause := cause, lossTs := s.clk.ts.toNat, fenceTs := s.clk.ts.toNat } }
  else s

/-- A heartbeat falls due (R319, R331). -/
def execMheartSend (s : State) : Host.Outcome State Fault Refusal :=
  .next (
    let m := s.mirror
    if !s.clk.rootOn || s.clk.now < m.beatDue || m.fenceReq || m.replay || !(m.st = .joining || m.st = .paired || m.st = .restoring) then s
    else
      let s := s.sendHeart
      match s.mirror.joinGot with
      | some c => if s.mirror.st = .joining then s.pairUp (if c = 3 ∨ c = 6 then .restoring else .paired) else s
      | none => s)

/-- 30 µs have passed since the last MHEART arrived (R331). -/
def execHeartbeatTimeout (s : State) : Host.Outcome State Fault Refusal :=
  .next (if s.clk.rootOn && decide (s.mirror.lastHb + 67500 ≤ s.clk.now) then s.partnerLost 1 else s)

/-! ### Arriving frames -/

/-- A mirror frame of the partner is counted and recorded (R348, R415). It arrives at the FXP that serves the partner. -/
def State.mframeSeen (s : State) (kind : Nat) (f : MFrame) : State :=
  let k := s.fxpOf f.srcChip.val
  let key := fxKey k f.srcChip.val
  let s := { s with fxps := { s.fxps with
    recvCnt := Tbl.set s.fxps.recvCnt 0 key (Tbl.get s.fxps.recvCnt 0 key + 1)
    lost := without s.fxps.lost f.srcChip.val } }
  let s := s.account (0xA10 + 2 * k + 1) (s.act 0x2010 0) (mframeSize f.payload.length) false
  (s.pev 9 (2 * f.payload.length)).recInput 3 k 0 (mframeBytes kind s.chipId f) true

/-- A mirror frame is taken: it comes from the partner, and the block does not replay inputs (R350, R412). -/
def State.mframeOpen (s : State) (f : MFrame) : Bool :=
  s.clk.rootOn && s.mgmt.phase = 7 && !s.replaying && f.srcChip.val = s.pv 0x5000 0

/-- Sequenced frames are applied while the pair runs or restores, and until a requested fence is acknowledged (R327, R333). -/
def State.seqOpen (s : State) : Bool :=
  !s.mirror.replay && s.mirror.lossCause ≠ 3 &&
    (s.mirror.st = .paired || s.mirror.st = .restoring || s.mirror.st = .leaving || s.mirror.st = .fenceWait)

/-- Applies a sequenced frame in order, and acknowledges it as R328 says: at once, or every 64 lines (R327, R328). `flags` is what its MACK
carries. Under a supply hold the frame stands at the fabric port, for what it writes may not be written (R377). -/
def State.seqApply (s : State) (kind : Nat) (f : MFrame) (now_ : Bool) (go : State → State × Nat) : State :=
  if !s.mframeOpen f || !s.seqOpen then s
  else if s.power.hold || !s.mirror.heldIn.isEmpty then { s with mirror := { s.mirror with heldIn := s.mirror.heldIn ++ [(kind, f)] } }
  else
    let s := s.mframeSeen kind f
    if f.seq.toNat ≠ s.mirror.expect then
      (s.raise { code := 0x72, unit := uMu, obj := f.srcChip.val, aux := s.mirror.expect, ga := f.seq.toNat }).partnerLost 3
    else
      let s := { s with mirror := { s.mirror with
        expect := s.mirror.expect + 1
        ackSince := if s.mirror.ackSent + 1 = s.mirror.expect then s.clk.now else s.mirror.ackSince
        ackLines := s.mirror.ackLines + f.payload.length } }
      let p : State × Nat := go (s.cadd 0x6400 2 1)
      if now_ then p.1.sendMack p.2 else if 64 ≤ p.1.mirror.ackLines then p.1.sendMack 0 else p.1

/-- Writes or accumulates a line of a copy (R322, R327). -/
def State.copyLine (s : State) (i off : Nat) (kind : AccKind) (code : Nat) (mask : Dword) (d : Line) : State :=
  let q := s.mreserve i
  if !(mrState q = 2 || mrState q = 3) || mrPages q * 4096 ≤ off then s
  else match s.locate (4096 * mrBase q + off / 64 * 64) with
    | .t1 raw =>
      let n := raw / 64
      if kind = .acc then
        if s.linePoison 1 n then s
        else
          let old := s.tierRead 1 n
          s.tierWrite 1 n fullMask (modify .acc code old d mask (off % 64))
      else s.tierWrite 1 n mask d
    | _ => s

/-- The lines of a frame into the copy; LAST makes the element HOLDING (R322, R326). -/
def State.copyFrame (s : State) (f : MFrame) (kind : AccKind) : State :=
  let step := if kind = .acc && f.op = 3 then 32 else 64
  let s := (f.payload.zipIdx).foldl (fun s e =>
    s.copyLine f.region.val (f.off.toNat + step * e.2) kind f.op.toNat (if f.payload.length ≤ 1 then f.mask else fullMask) e.1) s
  if f.flags.getLsbD 2 && mrState (s.mreserve f.region.val) = 2 then
    (s.setReserve f.region.val (withMrState (s.mreserve f.region.val) 3)).restoredTry
  else s

/-- MWRITE. -/
def execMwriteRecv (f : MFrame) (s : State) : Host.Outcome State Fault Refusal :=
  .next (s.seqApply 0x40 f (f.flags.getLsbD 0) (fun s => (s.copyFrame f .write, 0)))

/-- MACC. -/
def execMaccRecv (f : MFrame) (s : State) : Host.Outcome State Fault Refusal :=
  .next (s.seqApply 0x41 f (f.flags.getLsbD 0) (fun s => (s.copyFrame f .acc, 0)))

/-- MJOURNAL: an entry of the partner's journal; the first of a pairing ends the copy of the one before (R339, R345). -/
def execMjournalRecv (f : MFrame) (s : State) : Host.Outcome State Fault Refusal :=
  .next (s.seqApply 0x42 f (f.flags.getLsbD 0) (fun s =>
    let old := if s.mirror.fresh then [] else s.journal.partner
    ({ s with
      journal := { s.journal with partner := Tbl.set old 0 (f.off.toNat / 64 % 65536) (f.payload.headD 0) }
      mirror := { s.mirror with fresh := false } }, 0)))

/-! ### Failover (R333 to R336) -/

/-- Step 3 of R333: held copies are aliased, own regions go to SOLO, and what waited for a MACK completes. -/
def State.aliasAll (s : State) : State :=
  let res := s.mirror.reserve.map (fun e =>
    let q := e.2
    (e.1, if mrState q = 3 || mrState q = 5 then withMrState q 4
          else if mrState q = 2 then BitVec.ofNat 128 (setFld (withMrState q 4).toNat 124 124 1) else q))
  let reg := s.mirror.region.map (fun e => (e.1, withMrState e.2 (if mrEn e.2 then 3 else 0)))
  let s : State := { s with
    mirror := { s.mirror with
      reserve := res, region := reg.filter (fun e => e.2 ≠ 0), waits := [], flight := [], throttle := false, prog := []
      heldOut := [], heldIn := []
      fenceReq := false, replay := true }
    flight := s.flight.filter (fun (x : Xact) => x.stage ≠ .mirrorQueue) }
  (s.tiers.cmds.filter (fun c => c.unit = 16)).foldl (fun s c => s.edgeDone c 3 uMu) s

/-- Elements aliased from SEEDING. -/
def State.partCount (s : State) : Nat := (s.mirror.reserve.filter (fun e => mrState e.2 = 4 && bit e.2.toNat 124)).length

/-- Step 5 of R333: PARTNER_LOST and SOLO. The record names the chip, the cause, the time of detection, the entries replayed and abandoned and
the elements with part = 1. -/
def State.goSolo (s : State) (replayed abandoned : Nat) : State :=
  let s := { s with mirror := { s.mirror with replay := false, cause := s.mirror.lossCause } }
  (s.raise { code := 0x71, unit := uMu, obj := s.pv 0x5000 0, late := s.mirror.lossCause, count := replayed % 65536,
             aux := abandoned % 65536 + 65536 * s.partCount, ga := s.mirror.lossTs % 2^48 }).pairEnter .solo

/-- The fabric acknowledges the fence (R332 to R334, R336). -/
def execFenceAck (s : State) : Host.Outcome State Fault Refusal :=
  .next (if s.clk.rootOn && s.mirror.fenceReq then s.aliasAll else s)

/-- fx_fenced_i: this member is fenced (R335). -/
def execSelfFenced (s : State) : Host.Outcome State Fault Refusal :=
  .next (
    if !s.clk.rootOn || s.mirror.st = .unpaired || s.mirror.st = .fenced then s
    else
      let cause := if s.mirror.fenceReq then s.mirror.lossCause else 0
      let s := { s with mirror := { s.mirror with cause := cause, fenceReq := false, heldOut := [] } }
      (s.raise { code := 0x75, unit := uMu, obj := s.pv 0x5000 0, late := cause }).pairEnter .fenced)

/-- The fence has not been acknowledged within FENCE_TIMEOUT_US (R336). -/
def execFenceTimeout (s : State) : Host.Outcome State Fault Refusal :=
  .next (
    if !s.clk.rootOn || !s.mirror.fenceReq || s.mirror.st = .fenceWait || decide (s.clk.ts.toNat < s.mirror.fenceTs + usNs * s.pv 0x5002 0) then s
    else
      let s := { s with mirror := { s.mirror with cause := s.mirror.lossCause } }
      (s.raise { code := 0x76, unit := uMu, obj := s.pv 0x5000 0, late := s.mirror.lossCause }).pairEnter .fenceWait)

/-- The partner's address as this member serves it, in an element with the whole copy (R334, R344). -/
def State.aliasGa (s : State) (ga : Nat) : Option Nat :=
  ((List.range 64).find? (fun i =>
    let q := s.mreserve i
    mrState q = 4 && !bit q.toNat 124 && decide (mrCopy q ≤ ga / 4096) && decide (ga / 4096 < mrCopy q + mrPages q))).map (fun i =>
      4096 * mrBase (s.mreserve i) + ga - 4096 * mrCopy (s.mreserve i))

/-- A range of the partner's addresses lies in aliased elements with whole copies. -/
def State.aliasCovers : Nat → State → Nat → Nat → Bool
  | 0, _, _, _ => false
  | n + 1, s, lo, hi =>
    if hi ≤ lo then true
    else match s.aliasGa lo with
      | some _ => State.aliasCovers n s (lo / 4096 * 4096 + 4096) hi
      | none => false

/-- A line of the partner's memory through the alias; none where it is not there or not usable. -/
def State.aliasLine (s : State) (ga : Nat) : Option Line :=
  match s.aliasGa (ga / 64 * 64) with
  | some a => if (s.peek a).2 then none else some (s.peek a).1
  | none => none

/-- Writes a line of the partner's memory through the alias: a store, or an accumulation (R344). -/
def State.aliasStore (s : State) (w : BitVec 512) (o : OutLine) : State :=
  match s.aliasGa (o.ga / 64 * 64) with
  | some a =>
    if dAcc w = 0 then s.poke a o.mask o.data
    else s.poke a fullMask (modify .acc (dAcc w) (s.peek a).1 o.data o.mask (o.ga % 64))
  | none => s

/-- The source lines of a row, by their keys; none where one is not usable. -/
def State.aliasRow (s : State) (d : Desc) (v g : Nat) : Option (Tbl SrcLine) :=
  let keys := ((d.srcRuns v).map (fun r =>
    let u := unitsOf (g % 64 + r.1) (r.2 - r.1) 64
    (List.range (u.2 - u.1)).map (fun j => u.1 + j))).flatten
  keys.foldl (fun a l => match a, s.aliasLine (g / 64 * 64 + 64 * l) with
    | some t, some x => some (Tbl.insert t (srcKey v l) { valid := 0, data := x, result := .ok })
    | _, _ => none) (some [])

/-- The rows of a descriptor in visit order: each reads its source, then writes its lines (R344). -/
def State.aliasRows (src dst : Nat) (d : Desc) : Nat → Nat → State → Option State
  | 0, _, s => some s
  | n + 1, v, s =>
    let v := d.nextOut v
    if dRows d.w ≤ v then some s
    else
      let sg := ((src : Int) + srcRow d.w v - dSrcOff d.w).toNat
      let g := ((dst : Int) + dstRow d.w v - dDstOff d.w).toNat
      match (if dOp d.w = 2 then some [] else s.aliasRow d v sg) with
      | none => none
      | some t =>
        let e := { d with src := t }
        let s := (List.range (lineCount d.w g (d.rowOut v))).foldl (fun s l => s.aliasStore d.w (e.outLine v g (sg % 64) l)) s
        State.aliasRows src dst d n (v + 1) s

/-- A footprint of a descriptor, as addresses from the origin its entry names. -/
def footAt (origin off : Nat) (f : Option (Int × Int)) : Nat × Nat :=
  match f with
  | some (lo, hi) => (((origin : Int) - off + lo).toNat, ((origin : Int) - off + hi + 1).toNat)
  | none => (0, 0)

/-- The replay engine runs an entry of the lost member's journal (R344): none where the entry is to be abandoned. -/
def State.replayEntry (s : State) (e : BitVec 512) : Option State :=
  let n := e.toNat
  if jKind e ≠ 2 || jNr e then none
  else match s.aliasLine (fld n 223 176) with
    | none => none
    | some w =>
      let started := jState e = jStarted
      let bga := fld n 159 112
      let dims := indDims w
      let bnd : Option (List (Nat × Nat)) :=
        if started then some ((List.range 4).map (fun k => (k, fld n (112 + 16 * k + 15) (112 + 16 * k))))
        else dims.foldl (fun a j => match a, s.aliasLine (bga + 8 * j) with
          | some l, some x => some (l ++ [(j, (Line.gran x ((bga + 8 * j) / 8 % 8)).toNat)])
          | _, _ => none) (some [])
      match bnd with
      | none => none
      | some b =>
        let d : Desc := { w := w, bnd := b }
        let src := fld n 319 272
        let dst := fld n 271 224
        let cov := fun (r : Nat × Nat) => State.aliasCovers 65536 s r.1 r.2
        if (crc32 (natBytes 64 w.toNat)).toNat ≠ fld n 351 320 || !(dOp w = 1 || dOp w = 2 || dOp w = 3) || (started && dAcc w ≠ 0) ||
            descInvalid w || d.cutShort || !cov (footAt dst (dDstOff w) d.dstFoot) || (dOp w ≠ 2 && !cov (footAt src (dSrcOff w) d.srcFoot)) then none
        else State.aliasRows src dst d (dRows w + 1) 0 s

/-- An entry of the partner's journal in its final state (R341, R344). -/
def finalEntry (e : BitVec 512) (st code : Nat) (rep : Bool) (ts : Dword) : BitVec 512 :=
  BitVec.ofNat 512 (setFld (setFld (setFld (setFld e.toNat 463 461 st) 460 460 (b2n rep)) 451 444 code) 391 352 (ts.toNat % 2^40))

/-- Places a slot of the partner's journal by its entry's number. -/
def insertSeq (e : Nat × BitVec 512) : List (Nat × BitVec 512) → List (Nat × BitVec 512)
  | [] => [e]
  | f :: t => if jSeq e.2 < jSeq f.2 then e :: f :: t else f :: insertSeq e t

/-- One entry of the replay: the state, the entries replayed and abandoned (R344). -/
def State.replayStep (a : State × Nat × Nat) (e : Nat × BitVec 512) : State × Nat × Nat :=
  let s := a.1
  let put := fun (s : State) (v : BitVec 512) => show State from { s with journal := { s.journal with partner := Tbl.set s.journal.partner 0 e.1 v } }
  match s.replayEntry e.2 with
  | some t => ((put t (finalEntry e.2 jDone 0 true s.clk.ts)).cadd 0x6400 7 1, a.2.1 + 1, a.2.2)
  | none => ((put s (finalEntry e.2 jAbandoned 0x78 false s.clk.ts)).raise { code := 0x78, unit := uMu, obj := e.1, ga := jSeq e.2 }, a.2.1, a.2.2 + 1)

/-- Step 4 of R333 ends: the lost member's open entries have been replayed or abandoned in order, and the member is SOLO (R333, R344). -/
def execFailoverReplayDone (s : State) : Host.Outcome State Fault Refusal :=
  .next (
    if !s.clk.rootOn || !s.mirror.replay then s
    else
      let open_ := (s.journal.partner.filter (fun e => jState e.2 ≠ 0 && !jFinal e.2)).foldl (fun l e => insertSeq e l) []
      let r := open_.foldl State.replayStep (s, 0, 0)
      r.1.goSolo r.2.1 r.2.2)

/-! ### Acknowledgements and the lag bound -/

/-- Lines of ASYNC frames not yet acknowledged, and the oldest such frame (R330). -/
def State.lag (s : State) : Nat := (s.mirror.flight.filter (fun m => m.async)).foldl (fun a m => a + m.lines) 0
def State.oldestAsync (s : State) : Option MSent := s.mirror.flight.find? (fun m => m.async)
def State.lagAge (s : State) : Nat := match s.oldestAsync with
  | some m => s.clk.now - m.at_
  | none => 0

/-- What a MACK ends for one waiting frame; `flags` is the MACK's and `last` tells that it answers this very frame (R21, R322, R337, R346). -/
def State.mwaitEnd (s : State) (flags : Nat) (last : Bool) : MWait → State
  | .write _ => s
  | .entry _ => s
  | .setup i =>
    let q := s.mregion i
    if last && bit flags 4 then
      (s.setRegion i (BitVec.ofNat 128 (setFld (setFld q.toNat 123 123 0) 127 125 0))).raise
        { code := 0x74, unit := uMu, obj := i, aux := mrBase q % 2^32, ga := mrCopy q }
    else if last && bit flags 5 then s.setRegion i (withMrState q 4)
    else
      { s.setRegion i (withMrState q 1) with mirror := { (s.setRegion i (withMrState q 1)).mirror with prog := Tbl.set s.mirror.prog {} i {} } }
  | .last i => if mrState (s.mregion i) = 1 then (s.setRegion i (withMrState (s.mregion i) 2)).restoredTry else s
  | .disable i => if mrEn (s.mregion i) then s else s.setRegion i (withMrState (s.mregion i) 0)
  | .msync => match s.tiers.cmds.find? (fun c => c.unit = 16) with
    | some c => s.edgeDone c 2 uMu
    | none => s
  | .leave =>
    let s := s.sendSeq 0x45 0 0 8 0 0 [] [] false
    let reg := s.mirror.region.map (fun e => (e.1, withMrState e.2 (if mrEn e.2 then 3 else 0)))
    ({ s with mirror := { s.mirror with region := reg.filter (fun e => e.2 ≠ 0) } }).pairEnter .leaving

/-- An acknowledgement up to a number: what waited ends, the longest round trip is kept, and the throttle lifts (R328 to R330, R352). -/
def State.mackTake (s : State) (n flags : Nat) : State :=
  let done := s.mirror.waits.filter (fun w => decide (w.1 ≤ n))
  let rtt := (s.mirror.flight.filter (fun m => decide (m.seq ≤ n))).foldl (fun a m => max a (s.clk.now - m.at_)) 0
  let s := { s with mirror := { s.mirror with waits := s.mirror.waits.filter (fun w => decide (n < w.1)), flight := s.mirror.flight.filter (fun m => decide (n < m.seq)) } }
  let s := s.cmax 0x6400 3 rtt
  let s : State := done.foldl (fun (s : State) w => s.mwaitEnd flags (w.1 = n) w.2) s
  if s.mirror.throttle && decide (s.lag ≤ 2048) && decide (s.lagAge ≤ 22500) then { s with mirror := { s.mirror with throttle := false } } else s

/-- MACK. -/
def execMackRecv (f : MFrame) (s : State) : Host.Outcome State Fault Refusal :=
  .next (if s.mframeOpen f && s.seqOpen then (s.mframeSeen 0x44 f).mackTake f.ack.toNat f.flags.toNat else s)

/-- MHEART: an acknowledgement and a sign of life; with JOIN it pairs the members, or starts a restore (R319, R328, R331, R337). -/
def execMheartRecv (f : MFrame) (s : State) : Host.Outcome State Fault Refusal :=
  .next (
    if !s.mframeOpen f || s.mirror.st = .fenced then s
    else
      let s := s.mframeSeen 0x43 f
      let join := f.flags.getLsbD 0
      let theirs := fld (f.payload.headD 0).toNat 127 120
      match s.mirror.st with
      | .unpaired => if join then { s with mirror := { s.mirror with joinGot := some theirs } } else s
      | .joining =>
        if !join then s
        else if s.mirror.joinSent then s.pairUp (if theirs = 3 ∨ theirs = 6 then .restoring else .paired)
        else { s with mirror := { s.mirror with joinGot := some theirs } }
      | .solo => if join then s.pairUp .restoring else s
      | _ =>
        let s := { s with mirror := { s.mirror with lastHb := s.clk.now } }
        if s.seqOpen then s.mackTake f.ack.toNat 0 else s)

/-- MFENCE: acknowledged at once; DISABLE frees the copy, LEAVE runs failover without a fence (R322, R328, R346). -/
def execMfenceRecv (f : MFrame) (s : State) : Host.Outcome State Fault Refusal :=
  .next (
    let was := s.mframeOpen f && s.seqOpen && f.seq.toNat = s.mirror.expect
    let s := s.seqApply 0x45 f true (fun s =>
      let i := f.region.val
      let q := s.mreserve i
      (if f.flags.getLsbD 6 && (mrState q = 2 || mrState q = 3 || mrState q = 5) then s.setReserve i (withMrState q 1) else s, 0))
    if was && f.flags.getLsbD 3 then
      ({ s with mirror := { s.mirror with lossCause := 4, lossTs := s.clk.ts.toNat } }).aliasAll.goSolo 0 0
    else s)

/-- Starts the restore of an element: its passes begin anew (R337). -/
def State.startRestore (s : State) (i : Nat) : State :=
  let s := s.setReserve i (withMrState (s.mreserve i) 5)
  { s with mirror := { s.mirror with prog := Tbl.set s.mirror.prog {} (64 + i) {} } }

/-- MSETUP: a matching element enters SEEDING or RESTORING, any other is refused (R322, R337). -/
def execMsetupRecv (f : MFrame) (s : State) : Host.Outcome State Fault Refusal :=
  .next (s.seqApply 0x46 f true (fun s =>
    let i := f.region.val
    let q := s.mreserve i
    let p : Quad := BitVec.ofNat 128 ((f.payload.headD 0).toNat % 2^100)
    let same := mrCopy q = mrBase p && mrPages q = mrPages p && mrBase q = mrCopy p
    if !same then (s, 16)
    else if mrState q = 1 then (s.setReserve i (withMrState q 2), 0)
    else if mrState q = 4 then (s.startRestore i, 32)
    else (s, 16)))

/-- MREQ: the holder sends the lines back from its copy (R301, R326, R328). -/
def execMreqRecv (f : MFrame) (s : State) : Host.Outcome State Fault Refusal :=
  .next (s.seqApply 0x47 f false (fun s =>
    let i := f.region.val
    let q := s.mreserve i
    if mrState q ≠ 3 then (s, 0)
    else ((List.range f.lines.toNat).foldl (fun (s : State) j =>
      let off := f.off.toNat / 64 * 64 + 64 * j
      if mrPages q * 4096 ≤ off then s
      else s.sendSeq 0x48 i 0 0 off fullMask [(s.peek (4096 * mrBase q + off)).1] [] false) s, 0)))

/-- A line returned by the partner is stored whole at its own place (R301, R326, R337). -/
def State.ownLine (s : State) (ga : Nat) (d : Line) : State :=
  match s.locate ga with
  | .t1 raw => s.tierWrite 1 (raw / 64) fullMask d
  | l => match l.rowId with
    | some (kind, h, b, r) =>
      let place := s.rowPlace kind h b r
      ((s.setRow place (freshRow d)).rowTouched place h (l.local / 64)).clearPz kind h b r
    | none => s

/-- MRET: whole-line writes into the region; LAST ends a restore (R326, R337). -/
def execMretRecv (f : MFrame) (s : State) : Host.Outcome State Fault Refusal :=
  .next (s.seqApply 0x48 f (f.flags.getLsbD 0) (fun s =>
    let i := f.region.val
    let q := s.mregion i
    let s := (f.payload.zipIdx).foldl (fun s e =>
      let off := f.off.toNat / 64 * 64 + 64 * e.2
      if mrPages q * 4096 ≤ off then s else s.ownLine (4096 * mrBase q + off) e.1) s
    if f.flags.getLsbD 2 && mrState q = 4 then ((s.setRegion i (withMrState q 2)).restoredTry, 0) else (s, 0)))

/-- Applied frames are acknowledged at least every 256 cycles (R328). -/
def execMackTimer (s : State) : Host.Outcome State Fault Refusal :=
  .next (if s.clk.rootOn && s.seqOpen && decide (s.mirror.ackSent < s.mApplied) && decide (s.mirror.ackSince + 256 ≤ s.clk.now) then s.sendMack 0 else s)

/-- The lag bound is passed: MIRROR_LAG, once per throttle episode, with the region of the oldest frame, the lag and the age (R330). -/
def execMirrorLag (s : State) : Host.Outcome State Fault Refusal :=
  .next (
    if !s.clk.rootOn || s.mirror.throttle || (decide (s.lag ≤ 4096) && decide (s.lagAge ≤ 45000)) then s
    else
      let r := match s.oldestAsync with
        | some m => m.region
        | none => 0
      ({ s with mirror := { s.mirror with throttle := true } }).raise { code := 0x70, unit := uMu, obj := r, aux := s.lag % 2^32, ga := s.lagAge })

/-! ### Regions and reservations -/

/-- Two runs of pages overlap. -/
def runsMeet (a n b m : Nat) : Bool := decide (a < b + m) && decide (b < a + n)

/-- A region lies in one Hive's main banks below the pool boundary, or in tier 1 outside every reserved extent (R320). -/
def State.regionFits (s : State) (base pages : Nat) : Bool :=
  let lo := 4096 * base
  let hi := lo + 4096 * pages
  let hive := hi ≤ 0x40000000 && lo / 0x400000 = (hi - 1) / 0x400000 && decide ((hi - 1) % 0x400000 < (768 - s.poolC) * 4096)
  let tier := t1Base ≤ lo && (match s.locate lo, s.locate (hi - 64) with
    | .t1 _, .t1 _ => true
    | _, _ => false) && !s.err.extents.any (fun e => decide (e.base < hi) && decide (lo < e.base + e.len))
  hive || tier

/-- A write of MIRROR_REGION; true when accepted (R320, R322). -/
def State.regionWrite (s : State) (i : Nat) (v : Quad) : State × Bool :=
  let old := s.mregion i
  let new : Quad := BitVec.ofNat 128 (pack [(127, 125, mrState old), (124, 124, b2n (mrSync v)), (123, 123, b2n (mrEn v)), (99, 64, mrCopy v),
    (63, 36, mrPages v), (35, 0, mrBase v)])
  let moved := mrBase v ≠ mrBase old || mrPages v ≠ mrPages old || mrCopy v ≠ mrCopy old
  let meets := (List.range 64).any (fun j => j ≠ i && mrEn (s.mregion j) && runsMeet (mrBase v) (mrPages v) (mrBase (s.mregion j)) (mrPages (s.mregion j)))
  if mrPages v = 0 || !s.regionFits (mrBase v) (mrPages v) || meets || (mrEn v && moved && mrState old ≠ 0) then (s, false)
  else
    let s := s.setRegion i new
    let up := s.paired || s.mirror.st = .restoring
    if mrEn v && !mrEn old then (if up then s.sendSetup i else s.setRegion i (withMrState new 3), true)
    else if !mrEn v && mrEn old then
      (if up && mrState old ≠ 3 then s.sendSeq 0x45 i 0 64 0 0 [] [.disable i] false else s.setRegion i (withMrState new 0), true)
    else (s, true)

/-- A write of MIRROR_RESERVE; true when accepted (R321). -/
def State.reserveWrite (s : State) (i : Nat) (v : Quad) : State × Bool :=
  let old := s.mreserve i
  let new : Quad := BitVec.ofNat 128 (pack [(127, 125, if mrPages v = 0 then 0 else 1), (99, 64, mrCopy v), (63, 36, mrPages v), (35, 0, mrBase v)])
  let lo := 4096 * mrBase v
  let hi := lo + 4096 * mrPages v
  let inside := s.err.extents.any (fun e => e.kind = 6 && decide (e.base ≤ lo) && decide (hi ≤ e.base + e.len))
  let meets := (List.range 64).any (fun j => j ≠ i && mrState (s.mreserve j) ≠ 0 && runsMeet (mrBase v) (mrPages v) (mrBase (s.mreserve j)) (mrPages (s.mreserve j)))
  if 2 ≤ mrState old then (s, false)
  else if mrPages v = 0 then (s.setReserve i 0, true)
  else if !inside || meets then (s, false)
  else (s.setReserve i new, true)

/-- MIRROR_REGION. -/
def execMirrorRegionWrite (i : Fin 64) (v : Quad) (s : State) : Host.Outcome State Fault Refusal :=
  .next (if s.mgmt.por then s else (s.regionWrite i.val v).1)
/-- MIRROR_RESERVE. -/
def execMirrorReserveWrite (i : Fin 64) (v : Quad) (s : State) : Host.Outcome State Fault Refusal :=
  .next (if s.mgmt.por then s else (s.reserveWrite i.val v).1)

/-- A seed read of a region is granted: its line joins the forward stream, an invalid row as zeros (R322 step 3, R324). -/
def execMirrorSeedRead (i : Fin 64) (s : State) : Host.Outcome State Fault Refusal :=
  .next (
    let q := s.mregion i.val
    let p := Tbl.get s.mirror.prog {} i.val
    let n := 64 * mrPages q
    let ga := 4096 * mrBase q + 64 * p.next
    let loc := s.locate ga
    if !s.clk.rootOn || s.throttled 2 || mrState q ≠ 1 || !mrEn q || n ≤ p.next || 1024 ≤ s.fwdQueue loc.unit ||
        (loc.rowId.isSome && decide (s.clk.now < s.freeAt loc.arb)) then s
    else
      let x : Xact := { kind := .write, ga := BitVec.ofNat 48 ga, mask := fullMask, data := (s.peek ga).1, unit := loc.unit, dest := i.val,
                        dir := b2n (p.next + 1 = n), purpose := .mirrorSeed i.val }
      let s := if loc.rowId.isSome then s.occupy loc.arb 1 else s
      ({ s with mirror := { s.mirror with prog := Tbl.set s.mirror.prog {} i.val { p with next := p.next + 1 } } }).putCopy x)

/-- A pass of a restore ends: the lines it owes have gone out as MRET; the lines written meanwhile are the next pass's, the last one's once
few are left or the passes are spent; the last pass ends the restore (R337). -/
def execMirrorRestorePassEnd (i : Fin 64) (s : State) : Host.Outcome State Fault Refusal :=
  .next (
    let q := s.mreserve i.val
    let p := Tbl.get s.mirror.prog {} (64 + i.val)
    let n := 64 * mrPages q
    if !s.clk.rootOn || mrState q ≠ 5 || !s.mayMirror then s
    else
      let todo := if p.pass = 0 then List.range n else p.todo
      let few := decide (p.dirty.length ≤ s.pv 0x1014 0) || decide (s.pv 0x1015 0 ≤ p.pass + 1)
      let lines := if p.final && todo.isEmpty then [n - 1] else todo
      let s := (lines.zipIdx).foldl (fun s e =>
        let flag := if p.final && e.2 + 1 = lines.length then 4 else 0
        s.sendSeq 0x48 i.val 0 flag (64 * e.1) fullMask [(s.peek (4096 * mrBase q + 64 * e.1)).1] [] false) s
      if p.final then
        let s := { s.setReserve i.val (withMrState q 3) with mirror := { (s.setReserve i.val (withMrState q 3)).mirror with prog := Tbl.erase s.mirror.prog (64 + i.val) } }
        s.restoredTry
      else
        let r : MProg := { next := 0, pass := p.pass + 1, final := few, dirty := [], todo := p.dirty }
        { s with mirror := { s.mirror with prog := Tbl.set s.mirror.prog {} (64 + i.val) r } })

/-! ### The journal's entries -/

/-- Commands that wait for room in the journal enter it, in order (R342). -/
def State.jPump : Nat → State → State
  | 0, s => s
  | n + 1, s =>
    match s.journal.waiting with
    | [] => s
    | (arg, h, c, next) :: rest =>
      if !s.jOpen then s
      else
        let s := { s with journal := { s.journal with waiting := rest } }
        let kind := match next with
          | .win _ _ => 3
          | _ => 4
        let cmd : JCmd := { kind := kind, hive := h, ctx := c, crc := (crc32 (natBytes 16 (fld arg 319 192))).toNat, arg := arg }
        State.jPump n (s.jAccept cmd next)

/-- The write of an entry of a journaled WIN_OP has completed (R135, R341). -/
def State.winEntryDone (s : State) (seq slot : Nat) : State :=
  let e := (s.jEntry seq).toNat
  let h := slot / 32
  let w := slot % 32
  let c := fld e 435 433
  let op := fld e 191 188
  let st : Quad := BitVec.ofNat 128 (fld e 319 192)
  match fld e 463 461 with
  | 1 => if s.winRefused h c w op st then s.jChange seq jFailed 0 (.win slot op) else s.jChange seq jStarted 0 (.win slot op)
  | 2 => s.winEffect h c w op st (some seq)
  | 3 => s.setStatus h c 0x230 2 w
  | _ => s.setStatus h c 0x230 4 w

/-- The write of an entry of a journaled HANDLE_OP has completed (R123, R341). -/
def State.handleEntryDone (s : State) (seq slot : Nat) : State :=
  let e := (s.jEntry seq).toNat
  let h := slot / 512
  let c := slot / 64 % 8
  let i := slot % 64
  let q : Quad := BitVec.ofNat 128 (fld e 319 192)
  match fld e 463 461 with
  | 1 => if s.draining h c i || s.loadRefused q then s.jChange seq jFailed 0 (.handle slot) else s.jChange seq jStarted 0 (.handle slot)
  | 2 => s.startDrain slot { entry := q, since := s.clk.now, ctl := true, jseq := some seq, again := false }
  | 3 => s.handleStatus h 2
  | _ => s.handleStatus h 4

/-- The write of an entry of a YPP request has completed: it starts, may execute, or is answered (R341, R428). -/
def State.hostEntryDone (s : State) (seq n : Nat) : State :=
  match s.yreq n with
  | none => s
  | some r =>
    match jState (s.jEntry seq) with
    | 1 => s.jChange seq jStarted 0 (.host n)
    | 2 => s.setReq { r with go := true }
    | _ => s.respond r

/-- A write of a journal entry has completed: what R341 orders after it follows, and tail advances (R341, R342). -/
def execJournalEntryComplete (seq : BitVec 48) (s : State) : Host.Outcome State Fault Refusal :=
  .next (match s.journal.pending.find? (fun p => p.1 = seq.toNat) with
    | none => s
    | some p =>
      if s.jWaits seq.toNat || s.power.hold || !s.clk.rootOn then s
      else
        let s := { s with journal := { s.journal with pending := s.journal.pending.erase p } }
        let s := match p.2 with
          | .host n => s.hostEntryDone seq.toNat n
          | .desc h k idx => s.descEntryDone h k idx
          | .handle slot => s.handleEntryDone seq.toNat slot
          | .win slot _ => s.winEntryDone seq.toNat slot
          | .none => s
        State.jPump 16 (State.jAdvance 65536 s))

/-- A write of tail to JOURNAL_PTR; true when accepted: it may not pass an entry that is not final (R342). -/
def State.jTail (s : State) (v : Nat) : State × Bool :=
  let t := s.journal.tail
  if v < t || s.journal.head < v || (List.range (v - t)).any (fun i => !jFinal (s.jEntry (t + i))) then (s, false)
  else (State.jPump 16 { s with journal := { s.journal with tail := v, fullSaid := s.journal.fullSaid && v = t } }, true)

/-- JOURNAL_PTR. -/
def execJournalTailWrite (v : Dword) (s : State) : Host.Outcome State Fault Refusal := .next (if s.mgmt.por then s else (s.jTail v.toNat).1)

/-! ### The loss of a chip -/

/-- The fabric reports a chip lost: fences end, frames for it leave the retransmit buffer, and a lost partner starts failover (R130, R214,
R331). That the retransmit entries go is the model's: log entry 45. -/
def execFxLost (k : FxpId) (chip : ChipId) (s : State) : Host.Outcome State Fault Refusal :=
  .next (
    if !s.clk.rootOn then s
    else
      let c := chip.val
      let s := { s with fxps := { s.fxps with
        lost := addOnce s.fxps.lost c
        retain := s.fxps.retain.filter (fun r => !(r.fxp = k.val && r.chip = c))
        mretain := if c = s.pv 0x5000 0 && s.fxpOf c = k.val then [] else s.fxps.mretain } }
      let s := s.fencesTry { chip := c }
      if c = s.pv 0x5000 0 then s.partnerLost 2 else s)

end Sys2Proof.Machine
end

