-- ==== Sys2Proof/Machine/Power.lean ====
section
/-!
DEFINITION. Power.lean: the power controller, droop and thermal stretch, the supply monitors and Temper (R365 to R382). Sums, products and
comparisons of powers are exact; what the spec leaves to rounding is an opaque function of the operands (log entry 7).
-/
namespace Sys2Proof.Machine

/-! ### Stretch (R354) -/

/-- The stretch level applied: the largest that a source requests. -/
def State.stretch (s : State) : Nat := max (max s.clk.droop s.clk.supply) (max s.clk.cap s.clk.thermal)

/-! ### Powers, in µW, as an integer over a power of two -/

/-- A power that words of the surroundings or an operator make no number is left open. -/
def uwOf : Val → Int × Nat
  | .fin neg m e => ((if neg then -1 else 1) * Int.ofNat (m * (pow2 e).1), (pow2 e).2)
  | .inf neg => (Int.ofNat (Config.powerMw 0 [b2n neg]), 1)
  | .nan neg pay => (Int.ofNat (Config.powerMw 0 [2 + b2n neg, pay]), 1)

/-- Sum of two powers. -/
def uwAdd (a b : Int × Nat) : Int × Nat := (a.1 * Int.ofNat b.2 + b.1 * Int.ofNat a.2, a.2 * b.2)

/-- Difference of two powers. -/
def uwSub (a b : Int × Nat) : Int × Nat := uwAdd a (-b.1, b.2)

/-- A power exceeds another. -/
def uwLt (a b : Int × Nat) : Bool := decide (a.1 * Int.ofNat b.2 < b.1 * Int.ofNat a.2)

/-- The larger power. -/
def uwMax (a b : Int × Nat) : Int × Nat := if uwLt a b then b else a

/-- A power in milliwatts. -/
def uwMw (n : Nat) : Int × Nat := (Int.ofNat (1000 * n), 1)

/-- A power in watts, as a field of POWER_STATUS shows it; how it rounds is left open. -/
def uwShown (a : Int × Nat) : Nat := Config.powerMw 1 [a.1.toNat, a.2] % 4096

/-! ### The estimate (R365, R367) -/

/-- The group of an event (R365): 0 HIVE, 1 MESH, 2 EDGE. -/
def eventGroup (k : Nat) : Nat := if k < 6 then 0 else if k = 6 then 1 else 2

/-- Domains of a kind and state (R357, R365): elements 0 to 5 of PWR_STATIC for the Hives, 6 routers, 7 edge units. The mesh and the edge units
are ON from release until reset. -/
def State.domCount (s : State) (i : Nat) : Nat :=
  let inSt := fun (d h : Nat) => b2n ((s.domain h d).st = (if i % 2 = 0 then Dom.on else Dom.ember))
  let up := b2n (decide (3 ≤ s.mgmt.phase ∧ s.mgmt.phase ≤ 7))
  let sum := fun (ds : List Nat) => (List.range 256).foldl (fun a h => ds.foldl (fun a d => a + inSt d h) a) 0
  match i with
  | 0 => sum [0]
  | 1 => sum [0]
  | 2 => sum (List.range' 1 12)
  | 3 => sum (List.range' 1 12)
  | 4 => sum [13]
  | 5 => sum [13]
  | 6 => 256 * up
  | _ => 17 * up

/-- E of a group over the window that ends (R365), in µW. -/
def State.energy (s : State) (g : Nat) : Val :=
  let stat := fun (i : Nat) => (Val.ofInt (Int.ofNat (1000 * s.domCount i)) 0).mul (fp32.decode (s.pv 0x4011 i))
  let dyn := fun (k : Nat) => (Val.ofInt (Int.ofNat (Tbl.get s.power.events 0 k)) (-2)).mul (fp32.decode (s.pv 0x4010 k))
  let is := if g = 0 then List.range 6 else [5 + g]
  let ks := (List.range 11).filter (fun k => eventGroup k = g)
  ks.foldl (fun a k => a.add (dyn k)) (is.foldl (fun a i => a.add (stat i)) (Val.ofInt 0 0))

/-- k of a group, 1.0 at each start (R367). -/
def State.scaleOf (s : State) (g : Nat) : Nat := (Tbl.get s.power.scale 0x3F800000 g).toNat

/-- P_est of a group (R367). -/
def State.estOf (s : State) (g : Nat) : Int × Nat := uwOf ((s.energy g).mul (fp32.decode (s.scaleOf g)))

/-- A rail's measured power over the window that ends, in µW (R366). -/
def State.measured (s : State) (r : Nat) : Int × Nat :=
  match Tbl.find s.power.mean r with
  | some (sum, w) => (Int.ofNat (1000 * sum), w)
  | none => uwMw (Tbl.get s.power.lastMw 0 r)

/-- The next k of a group: its step toward the measurement, bounded to 0.5 and 2.0 (R367); how the step rounds is left open. -/
def nextScale (k : Nat) (m : Int × Nat) (e : Val) : Nat :=
  let x := (Config.powerF32 0 ([k, m.1.toNat, m.2] ++ (match e with
    | .fin n a b => [b2n n, a, b.toNat, (-b).toNat]
    | .inf n => [2 + b2n n]
    | .nan n p => [4 + b2n n, p]))).toNat
  if x < 0x3F000000 ∨ 2^31 ≤ x then 0x3F000000 else min x 0x40000000

/-! ### Shares and throttle (R369) -/

/-- The phase of the window that began in a Hearth cycle. -/
def State.phaseOf (s : State) (at_ : Nat) : Nat := if s.determ then (at_ - s.power.epochAt) / 200 % 256 else 0

/-- need of a phase and group; C ÷ 3 until it is learned. -/
def State.needOf (s : State) (ph g : Nat) : Int × Nat :=
  match Tbl.find s.power.need (3 * ph + g) with
  | some w => uwOf ((fp32.decode w.toNat).mul (Val.ofInt 1000000 0))
  | none => (Int.ofNat (1000000 * s.power.cap0), 3)

/-- A word of PWR_PHASE. -/
def State.needWord (s : State) (i : Nat) : BitVec 32 :=
  match Tbl.find s.power.need i with
  | some w => w
  | none => Config.powerF32 2 [s.power.cap0]

/-- The learned need after a window (R369 step 1); how it rounds is left open. -/
def State.learnNeed (s : State) (ph : Nat) (p : Nat → Int × Nat) : State :=
  let need := (List.range 3).foldl (fun (t : Tbl (BitVec 32)) g =>
    Tbl.insert t (3 * ph + g) (Config.powerF32 1 [(s.needWord (3 * ph + g)).toNat, (p g).1.toNat, (p g).2])) s.power.need
  { s with power := { s.power with need := need } }

/-- A group's estimate exceeds its share of what the cap leaves beside the always-on rail (R369 step 2). -/
def State.overShare (s : State) (ph g : Nat) (p aon : Int × Nat) : Bool :=
  let need := s.needOf ph
  let sum := uwAdd (uwAdd (need 0) (need 1)) (need 2)
  let room := uwSub (uwMw (1000 * s.power.capNow)) aon
  uwLt (room.1 * (need g).1, room.2 * (need g).2) (p.1 * sum.1, p.2 * sum.2)

/-- The throttle duty of a group. -/
def State.duty (s : State) (g : Nat) : Nat := Tbl.get s.power.duty 16 g

/-- Duties move by 1 (R369 step 3). -/
def State.moveDuties (s : State) (ph : Nat) (p : Nat → Int × Nat) (aon : Int × Nat) : State :=
  let duty := (List.range 3).foldl (fun (t : Tbl Nat) g =>
    Tbl.set t 16 g (if s.overShare ph g (p g) aon then max 4 (s.duty g - 1) else min 16 (s.duty g + 1))) s.power.duty
  { s with power := { s.power with duty := duty } }

/-! ### The cap (R368) -/

/-- The cap level of the next window for a level, P_ctl and C in W. -/
def nextCap (level : Nat) (p : Int × Nat) (c : Nat) : Nat :=
  let cap := uwMw (1000 * c)
  if uwLt cap p then
    let excess := p.1 - cap.1 * Int.ofNat p.2
    min 15 (level + max 1 (ceilDiv (16 * excess.toNat) ((cap.1 * Int.ofNat p.2).toNat)))
  else if uwLt (p.1 * 100, p.2) (cap.1 * 97, 1) then level - 1
  else level

/-- The divergence test of a window (R372). -/
def State.diverges (s : State) (est meas : Int × Nat) : Bool :=
  let d := uwSub est meas
  let a : Int × Nat := (Int.ofNat d.1.natAbs, d.2)
  uwLt (meas.1 * Int.ofNat (s.pv 0x4003 0), meas.2) (a.1 * 100, a.2)

/-- Counts consecutive windows with and without divergence; 64 without one acknowledge it (R373). The test is suspended while telemetry is
lost (R366). -/
def State.divTest (s : State) (est meas : Int × Nat) : State :=
  if !s.power.tlost.isEmpty then s
  else if s.diverges est meas then { s with power := { s.power with divRun := s.power.divRun + 1, divOk := 0 } }
  else
    let ok := s.power.divOk + 1
    { s with power := { s.power with divRun := 0, divOk := if 64 ≤ ok then 0 else ok, div := s.power.div && decide (ok < 64) } }

/-- Temperatures, one reading of every monitor, move the thermal level (R375). An episode lasts until the level is 0 again. -/
def State.thermal (s : State) (temps : List Nat) : State :=
  let lim := s.pv 0x4080 0
  if temps.any (fun t => decide (lim < t)) then
    let s := { s with clk := { s.clk with thermal := min 15 (s.clk.thermal + 1) } }
    if s.power.hotSaid then s
    else ({ s with power := { s.power with hotSaid := true } }).raise { code := 0x86, unit := uHearth, aux := temps.foldl max 0, late := lim }
  else if temps.all (fun t => decide (t + 5 ≤ lim)) then
    let l := s.clk.thermal - 1
    { s with clk := { s.clk with thermal := l }, power := { s.power with hotSaid := s.power.hotSaid && l ≠ 0 } }
  else s

/-- An estimator window ends: estimates, measurement, learning, cap level, duties, divergence and thermal level (R365 to R375). -/
def State.windowEnd (s : State) (temps : List Nat) : State :=
  let ph := s.phaseOf s.power.winAt
  let p := fun g => s.estOf g
  let m := fun r => s.measured r
  let est := uwAdd (uwAdd (p 0) (p 1)) (p 2)
  let meas := uwAdd (uwAdd (m 0) (m 1)) (m 2)
  let all := uwAdd meas (m 3)
  let margin := uwMw (1000 * s.pv 0x4004 0)
  let lost := !s.power.tlost.isEmpty
  let ctl := if lost then (if s.power.div then uwAdd est margin else est)
    else if s.power.div then uwAdd all margin else uwMax est all
  let excess := uwLt (uwMw (1000 * s.power.capNow)) ctl
  let learn := !lost && !s.power.div
  let scale := if learn then
      (List.range 3).foldl (fun (t : Tbl (BitVec 32)) g =>
        Tbl.set t 0x3F800000 g (BitVec.ofNat 32 (nextScale (s.scaleOf g) (m g) (s.energy g)))) s.power.scale
    else s.power.scale
  let top := s.clk.cap = 15 && excess
  let s := ((s.cadd 0x6500 5 (b2n (s.clk.thermal ≠ 0))).cadd 0x6500 6 (b2n ((List.range 3).any (fun g => s.duty g ≠ 16)))).cadd 0x6500 7
    (b2n s.power.div)
  let s := if learn then s.learnNeed ph p else s
  let s := s.moveDuties (s.phaseOf (s.power.winAt + 200)) p (m 3)
  let s := { s with
    clk := { s.clk with cap := nextCap s.clk.cap ctl s.power.capNow }
    power := { s.power with
      winAt := s.power.winAt + 200
      events := []
      mean := []
      scale := scale
      est := (List.range 3).map (fun g => (g, p g))
      pCtl := uwShown ctl, pMeas := uwShown all, pEst := uwShown est
      over15 := if top then s.power.over15 + 1 else 0
      capSaid := s.power.capSaid && top } }
  let s := (s.divTest est meas).thermal temps
  match s.power.capPend with
  | some c => if s.determ then s else { s with power := { s.power with capNow := c, capPend := none } }
  | none => s

/-- ESTIMATOR_WINDOW_END: 200 Hearth cycles have passed. -/
def execEstimatorWindowEnd (temps : List Nat) (s : State) : Host.Outcome State Fault Refusal :=
  .next (if s.mgmt.por || decide (s.clk.hnow < s.power.winAt + 200) then s else s.windowEnd temps)

/-- RAIL_TELEMETRY_SAMPLE: a rail's average power since its previous sample, weighted by that time (R366). -/
def execRailTelemetrySample (r : RailId) (mw : BitVec 20) (s : State) : Host.Outcome State Fault Refusal :=
  .next (
    if s.mgmt.por then s
    else
      let w := max 1 (s.clk.hnow - Tbl.get s.power.lastSmp 0 r.val)
      let a := Tbl.get s.power.mean (0, 0) r.val
      { s with power := { s.power with
        mean := Tbl.insert s.power.mean r.val (a.1 + mw.toNat * w, a.2 + w)
        lastMw := Tbl.set s.power.lastMw 0 r.val mw.toNat
        lastSmp := Tbl.set s.power.lastSmp 0 r.val s.clk.hnow
        tlost := without s.power.tlost r.val } })

/-- TELEMETRY_LOST: a rail has had no sample for 4 windows (R366). -/
def execTelemetryLost (r : RailId) (s : State) : Host.Outcome State Fault Refusal :=
  .next (
    if s.mgmt.por || s.power.tlost.contains r.val || decide (s.clk.hnow < Tbl.get s.power.lastSmp 0 r.val + 800) then s
    else ({ s with power := { s.power with tlost := addOnce s.power.tlost r.val } }).raise { code := 0x84, unit := uHearth, obj := r.val })

/-- PWR_DIVERGENCE: enough consecutive windows diverged; the record gives the estimate, the measurement and k of each group (R373). -/
def execPwrDivergence (s : State) : Host.Outcome State Fault Refusal :=
  .next (
    if s.mgmt.por || s.power.div || decide (s.power.divRun < s.pv 0x4005 0) then s
    else
      let f : RecF := { code := 0x80, unit := uHearth, late := s.power.pEst, count := s.power.pMeas, aux := s.scaleOf 0,
                        ga := s.scaleOf 1 % 2^24 * 2^24 + s.scaleOf 2 % 2^24 }
      ({ s with power := { s.power with div := true, divRun := 0, divOk := 0 } }).raise f)

/-- CAP_UNMET: the cap level has been 15 with P_ctl above C for 16 windows, once per episode (R368). -/
def execCapUnmet (s : State) : Host.Outcome State Fault Refusal :=
  .next (
    if s.mgmt.por || s.power.capSaid || decide (s.power.over15 < 16) then s
    else ({ s with power := { s.power with capSaid := true } }).raise { code := 0x85, unit := uHearth, aux := s.power.pCtl, late := s.power.capNow })

/-- A write of POWER_CAP_W; true when accepted: it waits for the next epoch start, or in DYNAMIC mode for the next window (R370, R383). -/
def State.capWrite (s : State) (v : Nat) : State × Bool :=
  if v < 40 ∨ 320 < v then (s, false)
  else ({ s with power := { s.power with capPend := some v } }.setPv 0x4000 0 v, true)

/-- POWER_CAP_W. -/
def execPowerCapWrite (v : BitVec 16) (s : State) : Host.Outcome State Fault Refusal := .next (if s.mgmt.por then s else (s.capWrite v.toNat).1)

/-- An acknowledgement of a divergence (R373). -/
def State.divAck (s : State) : State := { s with power := { s.power with div := false, divRun := 0, divOk := 0 } }

/-- PWR_DIV_ACK. -/
def execPwrDivAck (s : State) : Host.Outcome State Fault Refusal := .next (if s.mgmt.por then s else s.divAck)

/-- POWER_STATUS (R382). -/
def State.powerStatus (s : State) : Nat :=
  let p := s.power
  pack [(63, 52, p.pCtl), (51, 40, p.pMeas), (39, 28, p.pEst), (27, 24, s.stretch), (20, 20, b2n (s.clk.cap ≠ 0)), (21, 21, b2n (s.clk.droop ≠ 0)),
    (22, 22, b2n (s.clk.supply ≠ 0)), (23, 23, b2n (s.clk.thermal ≠ 0)), (19, 19, b2n p.div), (18, 18, b2n (!p.tlost.isEmpty)), (17, 17, b2n p.hold),
    (16, 16, b2n p.capPend.isSome), (15, 0, sat 65535 (s.clk.lag16 / 16))]

/-! ### Droop (R374) -/

/-- A detector trips: the droop level applies, and its release waits for 64 clear cycles. -/
def execDroopTrip (_d : Fin 16) (s : State) : Host.Outcome State Fault Refusal :=
  .next (
    if !s.clk.rootOn then s
    else
      let s := { s with
        clk := { s.clk with droop := s.pv 0x4041 0, droopAt := s.clk.now + 64 }
        power := { s.power with droops := s.power.droops + 1 } }
      s.cadd 0x6500 1 1)

/-- The droop level falls by 1, first after 64 clear cycles, then every 16. -/
def execDroopReleaseStep (s : State) : Host.Outcome State Fault Refusal :=
  .next (
    if !s.clk.rootOn || s.clk.droop = 0 || decide (s.clk.now < s.clk.droopAt) then s
    else { s with clk := { s.clk with droop := s.clk.droop - 1, droopAt := s.clk.now + 16 } })

/-! ### Supply monitors (R376 to R378) -/

/-- A rail's voltage lies below a part of its nominal voltage, in percent; a nominal of 0 disables the rail's monitor (R376, R383). -/
def State.railBelow (s : State) (r mv pct : Nat) : Bool :=
  let n := s.pv 0x4050 r
  n ≠ 0 && decide (100 * mv < pct * n)

/-- The write hold begins (R377): its start is recorded (R348). -/
def State.holdStart (s : State) (r mv : Nat) : State :=
  let s := { s with
    clk := { s.clk with supply := 8 }
    power := { s.power with
      hold := true, holdAt := s.clk.ts.toNat, holdRail := r, holdMin := mv, holdLim := usNs * s.pv 0x4051 0, stallSaid := false } }
  (s.cadd 0x6500 3 1).recInput 7 0 0 [] false

/-- A mirror frame that stood at the port is taken now. -/
def State.mirrorIn (s : State) (kind : Nat) (f : MFrame) : State :=
  let o : Host.Outcome State Fault Refusal := match kind with
    | 0x40 => execMwriteRecv f s
    | 0x41 => execMaccRecv f s
    | 0x42 => execMjournalRecv f s
    | 0x45 => execMfenceRecv f s
    | 0x46 => execMsetupRecv f s
    | 0x47 => execMreqRecv f s
    | _ => execMretRecv f s
  match o with
  | .next t => t
  | _ => s

/-- What a hold kept back goes on, in its order: poison of failed decodes, mirror frames out and in (R378). Writes at arbiters, completion adds
among them, go on by themselves. -/
def State.holdRelease (s : State) : State :=
  let pages := s.tiers.heldPg
  let ins := s.mirror.heldIn
  let s := { s with
    power := { s.power with hold := false }
    clk := { s.clk with supply := 0 }
    tiers := { s.tiers with heldPg := [] }
    mirror := { s.mirror with heldIn := [] } }
  let s := pages.foldl (fun s d =>
    let t := tierOf d.unit
    let pg := s.decPage d
    let poison := ((List.range 62).filter (fun j => d.flagged.getLsbD j)).foldl (fun p j => setFld p j j 1) (s.poisonMask t d.page)
    s.storePage t d.page (fun j => pageLine pg j) poison) s
  let s := State.sendHeld 65536 s
  ins.foldl (fun s i => s.mirrorIn i.1 i.2) s

/-- The hold ends: its end is recorded, the held writes are released and SUPPLY_WARN is logged with the rail, the lowest level sensed and
the duration in ns (R348, R378). -/
def State.holdEnd (s : State) : State :=
  let f : RecF := { code := 0x81, unit := uHearth, obj := s.power.holdRail, aux := s.power.holdMin, ga := s.clk.ts.toNat - s.power.holdAt }
  let s := (s.recInput 7 0 0 [] false).holdRelease
  ({ s with power := { s.power with warns := s.power.warns + 1 } }).raise f

/-- SUPPLY_WARNING: a rail has stayed below 94 % of nominal (R376, R377). -/
def execSupplyWarning (r : RailId) (mv : Nat) (s : State) : Host.Outcome State Fault Refusal :=
  .next (
    if s.mgmt.por || s.replaying || !s.railBelow r.val mv 94 then s
    else if s.power.hold then { s with power := { s.power with holdMin := min s.power.holdMin mv } }
    else s.holdStart r.val mv)

/-- SUPPLY_RECOVERY: every rail is back above 95 % of nominal; `mv` is the lowest level sensed (R378). The units that a supply
reset stopped may start again (R379). -/
def execSupplyRecovery (mv : Nat) (s : State) : Host.Outcome State Fault Refusal :=
  .next (
    let s := if s.mgmt.por then s else { s with mgmt := { s.mgmt with railLow := false } }
    if s.mgmt.por || s.replaying || !s.power.hold then s
    else ({ s with power := { s.power with holdMin := min s.power.holdMin mv } }).holdEnd)

/-- Writes a hold keeps, in a group of units. -/
def State.heldWrites (s : State) (lo hi : Nat) : Nat :=
  (s.flight.filter (fun x => isWr x.kind && x.half = .request && decide (lo ≤ x.unit) && decide (x.unit < hi))).length

/-- SUPPLY_STALL: the hold has outlasted SUPPLY_HOLD_US; the record counts the held writes by unit (R378; log entry 9). -/
def execSupplyStall (s : State) : Host.Outcome State Fault Refusal :=
  .next (
    if s.mgmt.por || !s.power.hold || s.power.stallSaid || decide (s.clk.ts.toNat < s.power.holdAt + s.power.holdLim) then s
    else
      let f : RecF := { code := 0x82, unit := uHearth, obj := s.power.holdRail, aux := s.heldWrites 0 256, late := s.heldWrites 256 264,
                        count := s.heldWrites 264 268, ga := s.heldWrites 268 274 }
      ({ s with power := { s.power with stallSaid := true } }).raise f)

/-! ### Temper (R380, R381) -/

/-- The margin M in mV. -/
def State.margin (s : State) : Nat := s.pv 0x4070 0

/-- pm_vmargin_o (R380). -/
def State.vmargin (s : State) : Nat := (s.margin - 15) / 5

/-- A new Temper period begins. -/
def State.temperRestart (s : State) : State := { s with power := { s.power with liveNs := 0, droops := 0, warns := 0 } }

/-- The margin steps: TEMPER_STEP with the old and new margin and the least slack (R381). -/
def State.temperStep (s : State) (m slack : Nat) : State :=
  let old := s.margin
  (({ s with power := { s.power with marginAt := s.clk.ts.toNat } }).setPv 0x4070 0 m).raise
    { code := 0x88, unit := uHearth, aux := old * 256 + m, late := slack }

/-- TEMPER_PERIOD_END: the margin falls by 5 mV when the period's least slack, droop trips and supply warnings allow it (R381). `slack` is the
least slack the monitors reported over the period. -/
def execTemperPeriodEnd (slack : Nat) (s : State) : Host.Outcome State Fault Refusal :=
  .next (
    if s.mgmt.por || decide (s.power.liveNs < 3600 * secNs * s.pv 0x4071 0) then s
    else
      let ok := decide (s.pv 0x4072 0 ≤ slack) && decide (s.power.droops ≤ s.pv 0x4073 0) && s.power.warns = 0
      let s := s.temperRestart
      if ok && decide (15 < s.margin) then s.temperStep (s.margin - 5) slack else s)

/-- TEMPER_STEP_UP: a monitor reports slack below half of TEMPER_SLACK_PS; monitors are read only at level 0 and not within 100 µs after a
change of margin (R381). -/
def execTemperStepUp (_m : Fin 16) (slack : Nat) (s : State) : Host.Outcome State Fault Refusal :=
  .next (
    let settled := s.power.marginAt = 0 || decide (s.power.marginAt + 100 * usNs ≤ s.clk.ts.toNat)
    if !s.clk.rootOn || s.stretch ≠ 0 || !settled || decide (s.pv 0x4072 0 ≤ 2 * slack) then s
    else
      let s := s.temperRestart
      if s.margin < 45 then s.temperStep (s.margin + 5) slack else s)

end Sys2Proof.Machine
end

