-- ==== Sys2Proof/Machine/Observe.lean ====
section
/-!
DEFINITION. Observe.lean: snapshots of the counters, open waits, the trace and its appenders, triggers, the wait-for graph, timestamps
across chips and the Quench controller (R390 to R415).
-/
namespace Sys2Proof.Machine

/-! ### Snapshots (R390, R391) -/

/-- A counter as reads return it: live, or the snapshot while frozen. -/
def State.countRead (s : State) (p idx : Nat) : Nat := Tbl.get (if s.count.frozen then s.count.snap else s.count.cnt) 0 (pkey p idx)

/-- A snapshot request that reaches the Hearth in cycle e; one more while a snapshot is due is part of the same request. -/
def State.snapAsk (s : State) (e : Nat) : State :=
  if s.count.frozen then { s with count := { s.count with ignored := if s.count.ignored = 255 then 255 else s.count.ignored + 1 } }
  else if s.count.pend.isSome then s
  else { s with count := { s.count with pend := some (e + 16) } }

/-- Every counter copies into its snapshot register. -/
def State.snapTake (s : State) : State :=
  { s with count := { s.count with frozen := true, snap := s.count.cnt, pend := none, time := BitVec.ofNat 48 s.clk.ts.toNat } }

/-- Reads return live values again. -/
def State.thawNow (s : State) : State := { s with count := { s.count with frozen := false } }

/-- A write of SNAP_CTL; true when accepted. -/
def State.snapCtl (s : State) (v : Nat) : State × Bool :=
  match fld v 59 56 with
  | 1 => (s.snapAsk s.clk.now, true)
  | 2 => (s.thawNow, true)
  | _ => (s, false)

/-- SNAP_CTL as read. -/
def State.snapStatus (s : State) : Nat := pack [(63, 63, b2n s.count.frozen), (55, 48, s.count.ignored.toNat), (47, 0, s.count.time.toNat)]

/-- SNAP. -/
def execSnap (s : State) : Host.Outcome State Fault Refusal := .next (if s.mgmt.por then s else s.snapAsk s.clk.now)
/-- THAW. -/
def execThaw (s : State) : Host.Outcome State Fault Refusal := .next (if s.mgmt.por then s else s.thawNow)
/-- A rising edge of snap_i, sampled on the fast clock. -/
def execSnapEdge (s : State) : Host.Outcome State Fault Refusal := .next (if s.clk.rootOn then s.snapAsk s.clk.now else s)

/-- SNAPSHOT_TAKE: cycle e + 16 ends. -/
def execSnapshotTake (s : State) : Host.Outcome State Fault Refusal :=
  .next (match s.count.pend with
    | some c => if s.clk.rootOn && decide (c ≤ s.clk.now) then s.snapTake else s
    | none => s)

/-- A write of a QUEUE_OCC element; true when accepted: 0 clears a largest value, and nothing else is taken (R387). -/
def State.occClear (s : State) (idx v : Nat) : State × Bool :=
  if idx % 2 = 1 ∧ idx < 8768 ∧ v = 0 then (s.setCounter 0x6600 idx 0, true) else (s, false)

/-- QUEUE_OCC_CLEAR. -/
def execQueueOccClear (idx : Nat) (v : Dword) (s : State) : Host.Outcome State Fault Refusal :=
  .next (if s.mgmt.por then s else (s.occClear idx v.toNat).1)

/-! ### Open waits (R392) -/

/-- A wait of a unit that has not ended: the number a TRACE_LONG_EXPIRE names it by, the cycle it began, and its open record. Transactions
go by their number; registrations, barriers, held arrivals, fences and windows by their own from 2^32 on. -/
structure OpenWait where
  id    : Nat
  since : Nat
  trec  : TraceF

/-- The open waits of a Hive, or of a unit whose transactions wait. -/
def State.openWaits (s : State) (u : Nat) : List OpenWait :=
  let now := s.clk.now
  let xs := s.flight.filterMap (fun x =>
    if x.stage = .scoreboard ∧ x.srcUnit = u then some (OpenWait.mk x.id x.since (s.sbStallRec x true))
    else if x.stage = .ringStall ∧ x.stallUnit = u then (s.ringStallF x false true).map (fun f => OpenWait.mk x.id x.since f)
    else match x.win with
      | some k =>
        if x.stage = .issueStall ∧ x.srcUnit = u ∧ x.srcChip.isNone then
          some (OpenWait.mk x.id x.since (s.creditStallRec x (s.placeOf u k) (s.creditStalled u k).length true))
        else none
      | none => none)
  if 256 ≤ u then xs
  else
    let regs := (s.waitsIn u 1).map (fun n =>
      let w := s.wait u n
      let f : TraceF := { kind := if w.dec then 2 else 1, unit := u, ctx := w.ctx, port := 7, open_ := true, obj := w.cell, wait := now - w.armed,
                          aux := (s.syncRead u w.cell).toNat }
      OpenWait.mk (2^32 + n) w.armed f)
    let bars := (List.range 32).flatMap (fun b =>
      let c := s.barrier u b
      let f : TraceF := { kind := 5, unit := u, open_ := true, obj := b, wait := now - c.first, aux := c.gen.toNat }
      (if c.arrived = 0 then [] else [OpenWait.mk (2^33 + b) c.first f]) ++
        c.heldBy.map (fun e => OpenWait.mk (2^33 + 64 * (b + 1) + e.1) e.2.1
          { heldRec u b e.1 0 (now - e.2.1) (unpackParty e.2.2) with open_ := true }))
    let fences := (s.hives.fences.filter (fun f => f.hive = u)).map (fun f =>
      let t : TraceF := { kind := 8, unit := u, ctx := f.ctx, port := 7, open_ := true,
                          obj := if f.all then 0x3FF else fld (s.page u f.ctx 0x320).toNat 9 0, wait := now - f.since }
      OpenWait.mk (2^34 + f.ctx) f.since t)
    let wins := ((List.range 32).filter (fun w => 2 ≤ wState (s.win u w))).map (fun w =>
      let q := s.win u w
      let f : TraceF := { kind := 0x0A, unit := u, ctx := wOwner q, open_ := true, obj := w, wait := now - (s.winx u w).since, aux := wState q }
      OpenWait.mk (2^35 + w) (s.winx u w).since f)
    xs ++ regs ++ bars ++ fences ++ wins

/-- The key under which a wait is noted as recorded. -/
def OpenWait.key (w : OpenWait) : Nat := ((w.trec.kind * 512 + w.trec.unit) * 2^40 + w.id % 2^40) * 2^64 + w.since

/-- TRACE_LONG_EXPIRE: a wait still open after TRACE_LONG cycles gives its open record, once. -/
def execTraceLongExpire (u : UnitId) (x : Nat) (s : State) : Host.Outcome State Fault Refusal :=
  .next (
    let ws := s.openWaits u.val
    match ws.find? (fun w => w.id = x) with
    | none => s
    | some w =>
      if !s.clk.rootOn || s.trace.longSaid.contains w.key || decide (s.clk.now < w.since + s.pv 0x6007 0) then s
      else
        let keep := s.trace.longSaid.filter (fun k => k / 2^104 % 512 ≠ u.val || ws.any (fun v => v.key = k))
        ({ s with trace := { s.trace with longSaid := keep ++ [w.key] } }).traceGen w.trec)

/-- TRACE_MARK of a context (R396). -/
def execTraceMark (h : HiveId) (c : CtxId) (v : Dword) (s : State) : Host.Outcome State Fault Refusal :=
  .next (s.cmd h.val c.val (.traceMark h c v) (fun s =>
    let f : TraceF := { kind := 0x0C, unit := h.val, ctx := c.val, port := 7, layer := fld v.toNat 63 48, oper := fld v.toNat 47 32, aux := fld v.toNat 31 0 }
    if s.ctlOpen h.val then s.traceGen f else s))

/-! ### Appenders and sub-rings (R397 to R403) -/

/-- The appender of a unit (R398). -/
def appenderOf (u : Nat) : Nat :=
  if u < 256 then u / 64 + (if u % 16 < 8 then 0 else 4)
  else if u < 264 then u - 256
  else if u < 266 then 3
  else if u < 268 then 7
  else if u < 270 ∨ u = 272 then 0
  else 4

/-- Appender k. -/
def State.app (s : State) (k : Nat) : Appender := Tbl.get s.trace.apps {} k

/-- Stores appender k. -/
def State.setApp (s : State) (k : Nat) (a : Appender) : State := { s with trace := { s.trace with apps := Tbl.set s.trace.apps {} k a } }

/-- The trace buffer: its GA and the bytes of a sub-ring (R399). -/
def State.traceExt (s : State) : Nat × Nat :=
  match s.err.extents.find? (fun e => e.kind = 3) with
  | some e => (e.base, e.len / 8)
  | none => (0, 0)

/-- Places of records dropped at an appender: the header's, for the causes STOP, WRAP and FROZEN. -/
def State.appDrop (s : State) (k cause : Nat) (r : Rec) : State :=
  let a := s.app k
  (s.setApp k { a with drop := dropInto a.drop (uT1 k) cause (fld r.toNat 63 0) }).dropSaid (uT1 k) cause

/-- The header of a sub-ring (R400). -/
def State.header (s : State) (k : Nat) : Line :=
  let a := s.app k
  BitVec.ofNat 512 (a.drop.toNat + 2^256 * (a.head + 2^64 * (a.wraps + 2^64 * (a.written + 2^64 * (k + 2^8 * s.trace.mode)))))

/-- Writes a header that has changed, through the T1C that holds it: at most once in 256 cycles, or at once. -/
def State.headerPut (s : State) (k : Nat) (force : Bool) : State :=
  let a := s.app k
  let h := s.header k
  if h = a.hdr || !(force || a.hdrAt = 0 || decide (a.hdrAt + 256 ≤ s.clk.now)) then s
  else (s.setApp k { a with hdr := h, hdrAt := s.clk.now }).extentWrite (uT1 k) (s.traceExt.1 + k * s.traceExt.2) h .observe

/-- Tests the fill triggers of a sub-ring (R404): before its first wrap. -/
def State.fillTest (s : State) (k : Nat) : State :=
  let a := s.app k
  let size := s.traceExt.2
  if a.wraps ≠ 0 ∨ size = 0 then s else s.testTriggers 2 (fun t => decide (fld t 55 48 * size ≤ 256 * a.head)) 0

/-- Writes a line of two records to a sub-ring, through the T1C that holds it, wrapping or dropping (R398, R401). -/
def State.lineOut (s : State) (k : Nat) (a b : Rec) : State :=
  let size := s.traceExt.2
  let real := [a, b].filter (fun r => r ≠ 0)
  let drop := fun (s : State) (cause : Nat) => real.foldl (fun s r => s.appDrop k cause r) s
  let put := fun (s : State) =>
    let p := s.app k
    let i := 2^32 * k + p.head / 32
    let old := [Tbl.get s.trace.buffer 0 i, Tbl.get s.trace.buffer 0 (i + 1)].filter (fun r => r ≠ 0)
    let s := if p.wraps = 0 then s else old.foldl (fun s r => s.appDrop k 4 r) s
    let p := s.app k
    let s := s.setApp k { p with head := p.head + 64, written := p.written + real.length }
    let line : Line := BitVec.ofNat 512 (a.toNat + 2^256 * b.toNat)
    ({ s with trace := { s.trace with buffer := Tbl.set (Tbl.set s.trace.buffer 0 i a) 0 (i + 1) b } }.extentWrite (uT1 k) (s.traceExt.1 + k * size + p.head)
      line .observe).fillTest k
  let p := s.app k
  if p.head + 64 ≤ size then put s
  else if s.trace.mode = 1 ∧ 128 ≤ size then put (s.setApp k { p with head := 64, wraps := p.wraps + 1 })
  else if s.trace.mode = 1 then drop s 4
  else drop (s.setApp k { p with full := true }) 3

/-- An appender takes records into its staging of 256 (R398, R405). -/
def State.appTake (s : State) (k : Nat) (rs : List Rec) : State :=
  rs.foldl (fun s r =>
    let a := s.app k
    if s.trace.frozen then s.appDrop k 6 r
    else
      let room := 256 - a.staged.length
      if a.lost ≠ 0 ∧ 2 ≤ room then s.setApp k { a with staged := a.staged ++ [a.lost, r], lost := 0, since := s.clk.now }
      else if a.lost = 0 ∧ 1 ≤ room then s.setApp k { a with staged := a.staged ++ [r], since := s.clk.now }
      else (s.setApp k { a with lost := dropInto a.lost (uT1 k) 5 (fld r.toNat 63 0) }).dropSaid (uT1 k) 5) s

/-- Writes what an appender holds as whole lines; `pad` writes a last record alone (R398). A supply hold keeps the writes back (R377). -/
def State.appWrite : Nat → State → Nat → Bool → State
  | 0, s, _, _ => s
  | n + 1, s, k, pad =>
    let a := s.app k
    match a.staged with
    | r :: q :: t => if s.power.hold then s else State.appWrite n ((s.setApp k { a with staged := t, since := s.clk.now }).lineOut k r q) k pad
    | [r] => if s.power.hold || !pad then s else (s.setApp k { a with staged := [] }).lineOut k r 0
    | [] => s

/-- Links a packet crosses from a router to a T1C. -/
def obsWalk : Nat → Nat → Nat → List (Nat × Nat)
  | 0, _, _ => []
  | n + 1, r, d =>
    let o := nextDir r d 6
    (r, o) :: (if o = 6 then [] else obsWalk n (stepDir r o) d)

/-- Links from a unit to an appender's T1C (R11, R12, R398). -/
def obsRoute (u k : Nat) : List (Nat × Nat) :=
  if u = uT1 k then []
  else
    let r := srcRouter u (uT1 k)
    (if u < 256 then [] else [(r, 7)]) ++ obsWalk 32 r (dstRouter u (uT1 k))

/-- The key of a link's observation cycles in this window (R107, R109). -/
def obsKey (h d : Nat) : Nat := 8 * (0x10000 + 8 * h + d)

/-- A router's unit counts records it discards (R397). -/
def State.linkDrop (s : State) (h : Nat) (rs : List Rec) : State :=
  rs.foldl (fun s r =>
    let g := Tbl.get s.trace.staging {} h
    ({ s with trace := { s.trace with staging := Tbl.set s.trace.staging {} h { g with link := dropInto g.link h 1 (fld r.toNat 63 0) } } }).dropSaid h 1) s

/-- A packet crosses its links, one cycle of each link's 81 in a window; where they are spent it takes one of the output's 2 places, or is
discarded (R107, R109, R397). -/
def State.obsSend (s : State) (k : Nat) (rs : List Rec) : List (Nat × Nat) → State
  | [] => s.appTake k rs
  | (h, d) :: t =>
    let key := obsKey h d
    let n := Tbl.get s.sched.winBytes 0 key
    if n < 81 then
      ({ s with sched := { s.sched with winBytes := Tbl.set s.sched.winBytes 0 key (n + 1) } }.pev 6 1).obsSend k rs t
    else
      let ps := Tbl.get s.trace.places [] (8 * h + d)
      if ps.length < 2 then { s with trace := { s.trace with places := Tbl.set s.trace.places [] (8 * h + d) (ps ++ [(k, rs)]) } }
      else s.linkDrop h rs

/-- The rest of a packet's way from a link on. -/
def obsRest (h d k : Nat) : List (Nat × Nat) :=
  let dst := dstRouter h (uT1 k)
  if d = 7 then (h, 7) :: obsWalk 32 h dst else obsWalk 32 h dst

/-- Packets that wait at links for an appender go on where their link has cycles left. -/
def State.obsRetry (s : State) (k : Nat) : State :=
  s.trace.places.foldl (fun s e =>
    let h := e.1 / 8
    let d := e.1 % 8
    match e.2 with
    | (k', rs) :: _ =>
      if k' = k ∧ Tbl.get s.sched.winBytes 0 (obsKey h d) < 81 then
        let ps := Tbl.get s.trace.places [] e.1
        ({ s with trace := { s.trace with places := Tbl.set s.trace.places [] e.1 (ps.drop 1) } }).obsSend k rs (obsRest h d k)
      else s
    | [] => s) s

/-- The next packet of a unit's staging: its drop records first, 8 records in all (R397). -/
def State.obsPacket (s : State) (u : Nat) : List Rec × State :=
  let g := Tbl.get s.trace.staging {} u
  let all := ([g.link, g.drop].filter (fun r => r ≠ 0)) ++ g.recs
  let n := 8 - ([g.link, g.drop].filter (fun r => r ≠ 0)).length
  (all.take 8, { s with trace := { s.trace with staging := Tbl.set s.trace.staging {} u { recs := g.recs.drop n } } })

/-- TRACE_APPEND: packets that waited go on, the first unit with records sends one, and the appender writes whole lines and its header. -/
def execTraceAppend (k : StackId) (s : State) : Host.Outcome State Fault Refusal :=
  .next (
    if !s.clk.rootOn then s
    else
      let s := s.obsRetry k.val
      let s := match s.trace.staging.find? (fun e => appenderOf e.1 = k.val) with
        | some e =>
          if s.trace.mode = 0 then s
          else
            let p := s.obsPacket e.1
            (p.2.cadd 0x6700 (8 * e.1 + 7) (32 * p.1.length)).obsSend k.val p.1 (obsRoute e.1 k.val)
        | none => s
      (State.appWrite 256 s k.val (s.trace.mode = 0)).headerPut k.val (s.trace.mode = 0))

/-- APPENDER_PAD_TIMEOUT: a line has held one record for 256 cycles. -/
def execAppenderPadTimeout (k : StackId) (s : State) : Host.Outcome State Fault Refusal :=
  .next (
    if s.clk.rootOn && (s.app k.val).staged.length = 1 && decide ((s.app k.val).since + 256 ≤ s.clk.now) then
      (State.appWrite 1 s k.val true).headerPut k.val false
    else s)

/-- A write of TRACE_MODE; true when accepted (R401, R403, R405). -/
def State.traceModeSet (s : State) (v : Nat) : State × Bool :=
  if 2 < v then (s, false)
  else
    let old := s.trace.mode
    let s := if old ≠ 0 ∧ v = 0 then (List.range 8).foldl (fun s k => State.appWrite 256 s k true) s else s
    let s : State := { s with trace := { s.trace with mode := v, dropSaid := false, frozen := false } }
    let s := if old = 0 ∧ v ≠ 0 then { s with trace := { s.trace with apps := [], buffer := [] } } else s
    let s := if old ≠ 0 ∧ v = 0 then (List.range 8).foldl (fun s k => s.headerPut k true) s else s
    (s.setPv 0x6000 0 v, true)

/-- TRACE_MODE. -/
def execTraceModeWrite (v : Byte) (s : State) : Host.Outcome State Fault Refusal := .next (if s.mgmt.por then s else (s.traceModeSet v.toNat).1)

/-- TRACE_STATUS (R403). -/
def State.traceStatus (s : State) : Nat :=
  let full := (List.range 8).foldl (fun a k => a + b2n (s.app k).full * 2^k) 0
  let written := (List.range 8).foldl (fun a k => a + (s.app k).written) 0
  pack [(63, 62, s.trace.mode), (61, 61, b2n s.trace.frozen), (55, 48, full), (47, 0, written)]

/-- Bytes of the trace buffer as TRACE_DATA returns them (R399, R400). -/
def State.traceByte (s : State) (i : Nat) : Byte :=
  let size := s.traceExt.2
  let k := i / size
  let o := i % size
  if size = 0 then 0
  else if o < 64 then BitVec.ofNat 8 ((s.app k).hdr.toNat / 2^(8 * o))
  else BitVec.ofNat 8 ((Tbl.get s.trace.buffer 0 (2^32 * k + o / 32)).toNat / 2^(8 * (o % 32)))

/-! ### The wait-for graph (R407) -/

/-- A node of the graph. -/
structure WNode where
  kind : Nat
  unit : Nat
  ctx  : Nat := 0
  port : Nat := 0
  chan : Nat := 0
  id   : Nat := 0
deriving DecidableEq, Repr

/-- The object a record of a kind names: its node kind. -/
def objKind (k : Nat) : Option Nat :=
  match k with
  | 1 => some 2
  | 2 => some 2
  | 3 => some 2
  | 4 => some 3
  | 5 => some 4
  | 6 => some 4
  | 7 => some 5
  | 8 => some 7
  | 9 => some 6
  | 0x0A => some 5
  | _ => none

/-- The waiter of a trace record. -/
def recWaiter (r : Nat) : WNode := { kind := 1, unit := fld r 247 239, ctx := fld r 238 236, port := fld r 235 232, chan := fld r 231 228 }

/-- The object of a trace record. -/
def recObj (r : Nat) : Option WNode := (objKind (fld r 255 248)).map (fun k => { kind := k, unit := fld r 247 239, id := fld r 191 176 })

/-- The party of a trace record: a waiter of this chip, or another chip. -/
def State.recParty (s : State) (r : Nat) : Option WNode :=
  if fld r 217 209 = 0x1FF then none
  else if fld r 227 218 ≠ s.chipId then some { kind := 7, unit := 0, id := fld r 227 218 }
  else some { kind := 1, unit := fld r 217 209, ctx := fld r 208 206, port := fld r 205 202, chan := fld r 201 198 }

/-- Trace records of every ring of last events. -/
def State.ringRecs (s : State) : List Nat :=
  (s.trace.last64.flatMap (fun e => e.2.map (fun r => r.toNat))).filter (fun r => decide (fld r 255 248 < 0x0F))

/-- Open waits as records: ARMED registrations, open records of the rings, and after a Quench every stalled access. -/
def State.waiters (s : State) : List Nat :=
  let regs := (List.range 256).flatMap (fun u =>
    ((s.openWaits u).filter (fun w => (2^32 ≤ w.id && decide (w.id < 2^33)) || (s.quench.st = 2 && decide (w.id < 2^32)))).map (fun w =>
      (w.trec.record s.clk.ts.toNat).toNat))
  let edge := if s.quench.st = 2 then (List.range' 256 17).flatMap (fun u => (s.openWaits u).map (fun w => (w.trec.record s.clk.ts.toNat).toNat)) else []
  (regs ++ edge ++ s.ringRecs.filter (fun r => bit r 192)).eraseDups

/-- Edges: from each waiter to its object with the cycles waited, from each object to the party of its newest record, and from a barrier to each
participant still missing. -/
def State.wfgEdges (s : State) : List (WNode × WNode × Nat) :=
  let out := s.waiters.filterMap (fun r => (recObj r).map (fun o => (recWaiter r, o, fld r 143 112)))
  let objs := (out.map (fun e => e.2.1)).eraseDups
  let back := objs.flatMap (fun o =>
    let rs := s.ringRecs.filter (fun r => recObj r = some o && (s.recParty r).isSome)
    let newest := rs.foldl (fun (a : Option Nat) r => match a with
      | none => some r
      | some q => if fld q 63 0 ≤ fld r 63 0 then some r else some q) none
    let party := match newest.bind s.recParty with
      | some p => [(o, p, 0)]
      | none => []
    let bar := if o.kind = 4 then
        let c := s.barrier o.unit o.id
        ((List.range 64).filter (fun p => c.mask.getLsbD p && !c.arrived.getLsbD p)).map (fun p =>
          (o, ({ kind := 8, unit := o.unit, id := p } : WNode), 0))
      else []
    party ++ bar)
  out ++ back

/-- Nodes that edges reach from some nodes. -/
def reach (es : List (WNode × WNode × Nat)) : Nat → List WNode → List WNode
  | 0, l => l
  | n + 1, l =>
    let next := (es.filter (fun e => l.contains e.1 && !l.contains e.2.1)).map (fun e => e.2.1)
    if next.isEmpty then l else reach es n (l ++ next.eraseDups)

/-- The blob (R407). -/
def State.wfgBlob (s : State) : List Byte :=
  let es := s.wfgEdges
  let ns := (es.flatMap (fun e => [e.1, e.2.1])).eraseDups
  let place := fun (n : WNode) => (ns.findIdx? (fun m => m = n)).getD 0
  let node := fun (n : WNode) => [BitVec.ofNat 8 n.kind, 0] ++ natBytes 2 n.unit ++ [BitVec.ofNat 8 n.ctx, BitVec.ofNat 8 n.port, BitVec.ofNat 8 n.chan, 0] ++
    natBytes 8 n.id
  let edge := fun (e : WNode × WNode × Nat) =>
    let cyc := (reach es ns.length [e.2.1]).contains e.1
    natBytes 4 (place e.1) ++ natBytes 4 (place e.2.1) ++ natBytes 6 e.2.2 ++ [BitVec.ofNat 8 (b2n cyc), 0]
  natBytes 2 0x0196 ++ natBytes 2 0 ++ natBytes 4 ns.length ++ natBytes 4 es.length ++ natBytes 8 s.clk.ts.toNat ++ natBytes 12 0 ++
    ns.flatMap node ++ es.flatMap edge

/-- Assembly starts. -/
def State.wfgStart (s : State) : State := { s with trace := { s.trace with wfgBusy := 1, wfgAt := s.clk.ts.toNat } }

/-- A write of WFG_CTL; true when accepted. A BUILD while busy is ignored. -/
def State.wfgCtl (s : State) (v : Nat) : State × Bool :=
  if fld v 59 56 ≠ 1 then (s, false) else (if s.trace.wfgBusy = 1 then s else s.wfgStart, true)

/-- WFG_CTL op BUILD. -/
def execWfgBuild (s : State) : Host.Outcome State Fault Refusal := .next (if s.mgmt.por then s else (s.wfgCtl (2^56)).1)

/-- Firmware has assembled the graph. -/
def execWfgBuildDone (s : State) : Host.Outcome State Fault Refusal :=
  .next (if s.trace.wfgBusy = 1 then { s with trace := { s.trace with wfg := s.wfgBlob, wfgBusy := 2 } } else s)

/-! ### Timestamps across chips (R409, R410) -/

/-- An interval of TS_PROBE_US ends: each FXP owes a probe to each chip it sent a frame to, up to 63 (R409). -/
def State.probeRoll (s : State) : State :=
  if s.pv 0x6061 0 ≠ 0 ∨ s.clk.ts.toNat < s.fxps.probeAt + usNs * s.pv 0x6062 0 then s
  else
    let owe := (List.range 4).flatMap (fun k => (s.fxps.recent.filter (fun e => e.1 = k)).take 63)
    { s with fxps := { s.fxps with probe := owe, recent := [], probeAt := s.clk.ts.toNat } }

/-- TSPROBE_SEND: an FXP sends a probe it owes; its frame's src_hive is left open, for the sender is no Hive. -/
def execTsprobeSend (k : FxpId) (chip : ChipId) (s : State) : Host.Outcome State Fault Refusal :=
  .next (
    let s' := s.probeRoll
    if !s.clk.rootOn || s.mgmt.phase ≠ 7 || s.mirror.st = .fenced || !s'.fxps.probe.contains (k.val, chip.val) then s
    else
      let d := s'.draw
      let s := { d.2 with fxps := { d.2.fxps with probe := d.2.fxps.probe.filter (fun e => e ≠ (k.val, chip.val)) } }
      let f : Frame := { s.ctlFrame 0 chip.val 0 0 0 0 0 with qos := fin8 7, srcHive := hiveFin d.1, mask := s.clk.ts, winGen := 0 }
      let t : TraceF := { kind := 0x0D, unit := uFx k.val, obj := chip.val }
      (s.sendFrame 0x28 f).traceGen t)

/-- TSPROBE_RECV: the receiving FXP records the arrival; no memory is touched. -/
def execTsprobeRecv (k : FxpId) (f : Frame) (s : State) : Host.Outcome State Fault Refusal :=
  .next (
    if !s.frameOpen f then s
    else
      let t : TraceF := { kind := 0x0E, unit := uFx k.val, src := { chip := f.srcChip.val, unit := f.srcHive.val }, aux := f.mask.toNat }
      (s.frameSeen k.val 0x28 f).traceGen t)

/-- An edge of tsync_i loads an armed TS_NEXT: the counter holds it at the ninth edge of fclk_i after the sample (R410). -/
def State.tsync (s : State) : State :=
  let v := s.pv 0x6063 0
  if v = 0 then s
  else
    let s := { s with clk := { s.clk with tsLoad := some (144, v) } }
    (s.setPv 0x6063 0 0).recInput 6 0 0 [] false

/-- TSYNC_EDGE, in LOADED mode; REPLAY takes its loads from the buffer (R350). -/
def execTsyncEdge (s : State) : Host.Outcome State Fault Refusal :=
  .next (if s.mgmt.por || !s.clk.fclkOn || s.replaying || s.pv 0x6061 0 ≠ 1 then s else s.tsync)

/-! ### Quench (R411 to R414) -/

/-- QUENCH_STATUS (R416). -/
def State.quenchStatus (s : State) (i : Nat) : Nat :=
  let q := s.quench
  match i with
  | 0 => pack [(63, 60, q.st), (59, 56, q.source), (55, 54, q.trig), (47, 32, q.count.toNat), (31, 0, q.ignored.toNat)]
  | 1 => q.ts.toNat
  | 2 => q.elem2.toNat
  | _ => q.elem3.toNat

/-- A rising edge of quench_i. -/
def execQuenchRequest (s : State) : Host.Outcome State Fault Refusal := .next (s.quenchAsk 1 0 s.clk.now)

/-- A write of QUENCH_CTL; true when accepted. -/
def State.quenchCtl (s : State) (v : Nat) : State × Bool := if v = 1 ∧ s.clk.rootOn then (s.quenchAsk 2 0 s.clk.now, true) else (s, false)

/-- QUENCH_CTL. -/
def execQuenchCtlWrite (v : Byte) (s : State) : Host.Outcome State Fault Refusal := .next (s.quenchCtl v.toNat).1

/-- Every bank of the stacks in use is precharged (R412). -/
def State.prechargeAll (s : State) : State :=
  let s : State := { s with tiers := { s.tiers with banks := s.tiers.banks.map (fun e => (e.1, { e.2 with row := none })) } }
  s.tiers.ready.foldl (fun s k => (List.range 32).foldl (fun s c => if s.t1Failed k c then s else s.t1Cmd k c (cmdWord 5 0 0 0 0)) s) s

/-- Requests held on every path are dropped without an answer; their mailbox slots fall idle. -/
def State.dropReqs (s : State) : State :=
  let dropped := s.mgmt.reqs.foldl (fun t r => match r.path with
    | .mb k => Tbl.set t {} k.val { Tbl.get t {} k.val with st := 0 }
    | .mctp _ => t) s.mgmt.slots
  { s with mgmt := { s.mgmt with reqs := [], slots := dropped } }

/-- QUENCH_TAKE: at the start of q the clock root stops and the state is QUENCHED (R411, R412, R416). YPP operations that have not ended
receive no response (R430). -/
def execQuenchTake (s : State) : Host.Outcome State Fault Refusal :=
  .next (
    let q := s.quench
    if q.st ≠ 1 || !s.clk.rootOn || decide (s.clk.now < q.at_) then s
    else
      let s := { s with
        clk := { s.clk with rootOn := false }
        count := { s.count with pend := none }
        quench := { q with
          st := 2
          ts := s.clk.ts
          count := BitVec.ofNat 16 s.count16
          elem2 := dwordOf [(47, 0, s.sched.epoch.toNat), (63, 48, s.period)]
          elem3 := dwordOf [(7, 0, s.position.getD 0), (8, 8, b2n s.sched.running)] } }
      let e := s.quenchStatus 0
      let f : RecF := { code := 0x91, unit := uHearth, aux := e % 2^32, late := fld e 47 32, obj := fld e 63 48 }
      let s := (s.prechargeAll.raise f).wfgStart
      s.dropReqs.notice 0x7201 0 (natBytes 8 e))

/-- QUENCH_REFRESH: the refresh keeper of a stack issues REFAB on its channels (R412). -/
def execQuenchRefresh (k : StackId) (s : State) : Host.Outcome State Fault Refusal :=
  .next (
    if s.quench.st ≠ 2 || !s.clk.fclkOn || !s.tiers.ready.contains k.val then s
    else
      let cs := (List.range 32).filter (fun c => !s.t1Failed k.val c)
      let s := cs.foldl (fun s c => (s.t1Cmd k.val c (cmdWord 7 0 0 0 0)).t1Cmd k.val c (cmdWord 7 1 0 0 0)) s
      { s with
        tiers := { s.tiers with banks := s.tiers.banks.map (fun e =>
          if e.1 / 1024 = k.val then (e.1, { e.2 with row := none, owed := 0 }) else e) }
        quench := { s.quench with refAt := Tbl.set s.quench.refAt 0 k.val s.clk.ts.toNat } })

/-- TRIGGER_ACTION: at r + 16 a fired trigger's action takes effect; QUENCH asks at r = t + 8 (R405). -/
def execTriggerAction (i : Fin 4) (s : State) : Host.Outcome State Fault Refusal :=
  .next (match s.trace.fires.find? (fun f => f.1 = i.val) with
    | none => s
    | some f =>
      let action := fld (s.trigger i.val) 62 61
      let due := if action = 0 then f.2.1 + 8 else f.2.1 + 24
      if !s.clk.rootOn || decide (s.clk.now < due) then s
      else
        let s := { s with trace := { s.trace with fires := s.trace.fires.filter (fun g => g ≠ f) } }
        if action = 0 then s.quenchAsk 3 i.val (f.2.1 + 8)
        else
          let s := if action = 1 then
              let s : State := { s with trace := { s.trace with frozen := true } }
              (List.range 8).foldl (fun s k => s.headerPut k true) s
            else if action = 2 then
              if s.count.frozen then s.snapAsk 0 else s.snapTake
            else s
          s.raise { code := 0x92, unit := uHearth, obj := i.val, aux := f.2.2 / 2^224, ga := f.2.2 % 2^48 })

end Sys2Proof.Machine
end

