-- ==== Sys2Proof/Machine/Params.lean ====
section
/-!
DEFINITION. Params.lean: the registers of the control pages and of the edge units (R117, R119, R145, R194, R197), and the elements of the
object dictionary as they are read and written (R420 to R422, R428).
-/
namespace Sys2Proof.Machine

/-! ### Interrupts -/

/-- Events queued for a mailbox slot, as MB_CTL's evq counts them (R431). -/
def State.evq (s : State) (k : Nat) : Nat :=
  ((s.mgmt.subs.filter (fun b => match b.path with | .mb j => decide (j.val = k) | _ => false)).map (fun b => b.queue.length)).foldl (· + ·) 0

/-- IRQ_PEND as read (R448): the lines that follow their state, and those written 1 to clear. -/
def State.irqPend (s : State) : Nat :=
  let line := fun (k : Nat) => b2n (s.mbState k = 2 || s.evq k ≠ 0) * 2^(3 + k)
  s.mgmt.irqPend.toNat &&& 0xC6 ||| (b2n (s.err.head ≠ s.err.tail) + line 0 + line 1 + line 2)

/-- The lines irq_o drives: pending and enabled (R448). -/
def State.irqOut (s : State) : Nat := if s.mgmt.por then 0 else s.irqPend &&& s.pv 0x1023 0

/-- A write of IRQ_PEND clears the lines that are written 1 to clear (R448). -/
def State.irqClear (s : State) (v : Nat) : State :=
  { s with mgmt := { s.mgmt with irqPend := s.mgmt.irqPend &&& ~~~(BitVec.ofNat 8 (v &&& 0xC6)) } }

/-! ### Control pages read -/

/-- The 64 B block of a channel (R145). -/
def State.chanBlock (s : State) (h k : Nat) : Nat :=
  let c := s.chan h k
  let st := match c.st with
    | .idle => 0
    | .run => 1
    | .halted => 2
    | .paused => 3
    | .draining => 4
  pack [(511, 448, c.faultDone.toNat), (447, 436, fld c.fpRow.toNat 35 24), (435, 424, fld c.fpRow.toNat 23 12), (423, 412, fld c.fpRow.toNat 11 0),
    (411, 396, c.fpLine.toNat), (319, 316, st), (311, 304, c.code.toNat), (303, 288, c.desc.toNat), (287, 272, c.failed.toNat), (207, 192, c.done.toNat),
    (143, 128, c.tail.toNat), (68, 68, b2n c.en), (67, 64, c.lsize), (63, 48, c.ringRef.toNat), (41, 6, c.ringOff.toNat)]

/-- A bank ownership entry as read (R50). -/
def Owner.byte (o : Owner) : Nat := pack [(7, 7, b2n o.pend), (5, 3, if o.pend then o.next else o.owner), (2, 0, o.owner)]

/-- An offset of ctx0's page alone (R117). -/
def ctx0Only (off : Nat) : Bool :=
  decide (0x200 ≤ off ∧ off < 0x218) || decide (0x240 ≤ off ∧ off < 0x250) || decide (0x260 ≤ off ∧ off < 0x268) || decide (0xA00 ≤ off ∧ off < 0xC00)

/-- Registers that a page keeps as they were written or as their command left them. -/
def plainReg (off : Nat) : Bool :=
  [0x100, 0x108, 0x110, 0x200, 0x208, 0x210, 0x220, 0x228, 0x230, 0x240, 0x248, 0x300, 0x308, 0x310, 0x318, 0x320, 0x328, 0x380, 0x940, 0xC40].contains off ||
    decide (0x900 ≤ off ∧ off < 0x940) || decide (0xC00 ≤ off ∧ off < 0xC40)

/-- A control-page register as read, by its 8-byte offset; every other offset reads as 0. -/
def State.pageRead (s : State) (h c off : Nat) : Nat :=
  if ctx0Only off && c ≠ 0 then 0
  else if 0xC00 ≤ off ∧ off < 0xC40 then (s.jobStaged h c).toNat / 2^(8 * (off - 0xC00)) % 2^64
  else if plainReg off then (s.page h c off).toNat
  else if off = 0x260 then (s.hivePower h).toNat
  else if 0x400 ≤ off ∧ off < 0x800 then
    let k := (off - 0x400) / 64
    if s.chCtx h k = c then s.chanBlock h k / 2^(8 * (off % 64)) % 2^64 else 0
  else if 0x800 ≤ off ∧ off < 0x900 then
    let w := (off - 0x800) / 8
    if wOwner (s.win h w) = c then (s.winSignal h w).toNat else 0
  else if 0xA00 ≤ off ∧ off < 0xC00 then (s.ownerOf h ((off - 0xA00) / 8)).byte
  else if 0x1000 ≤ off ∧ off < 0x1800 then (s.jobStatus h c ((off - 0x1000) / 8)).toNat
  else if 0x2000 ≤ off ∧ off < 0x2080 then s.countRead 0x6800 (16 * (8 * h + c) + (off - 0x2000) / 8)
  else 0

/-- A register of an edge unit's page as read (R119). -/
def State.edgeRead (s : State) (u off : Nat) : Nat :=
  if off = 0 ∧ (u < 12 ∨ u = 16) then (s.edgeReg u 0).toNat
  else if off = 8 ∧ u < 8 then ((List.range 32).map (fun c => b2n (s.t1Failed u c) * 2^c)).foldl (· + ·) 0
  else if off = 8 ∧ u < 12 then cartCode (s.cart (u - 8)).st
  else 0

/-! ### Control pages written -/

/-- A CMD write of a context to a register without a row of its own: in order, at a Hive that has been released. -/
def State.cmdReg (s : State) (h : HiveId) (c : CtxId) (off v : Nat) (go : State → State) : State :=
  s.cmd h.val c.val (.registerWrite (.page h c (BitVec.ofNat 16 off)) (BitVec.ofNat 64 v)) (fun s =>
    if s.ctlOpen h.val then go (s.wakeHive h.val) else s)

/-- The state an outcome leads to. -/
def after (o : Host.Outcome State Fault Refusal) (s : State) : State :=
  match o with
  | .next t => t
  | _ => s

/-- The reserved bits of a plain register of a page, from high to low (R6): the range and offset registers (R79, R142, R214), the staged entries
of HANDLE_OP (R121), WIN_OP (R134) and RING_OP (R223), the staged job (R198), and CQ_CTL. -/
def pageReserved (off : Nat) : List (Nat × Nat) :=
  match off with
  | 0x100 => [(63, 48)]
  | 0x108 => [(63, 48)]
  | 0x208 => [(40, 36), (27, 24), (14, 13)]
  | 0x220 => [(44, 32)]
  | 0x228 => [(40, 36)]
  | 0x248 => [(63, 48), (5, 0)]
  | 0x328 => [(63, 48), (2, 0)]
  | 0x380 => [(63, 1)]
  | 0x900 => [(63, 0)]
  | 0x908 => [(63, 0)]
  | 0x918 => [(63, 60), (23, 8)]
  | 0xC00 => [(21, 0)]
  | _ => []

/-- Keeps a plain register of a page, its reserved bits 0 (R6). -/
def State.pagePut (s : State) (h : HiveId) (c : CtxId) (off v : Nat) : State :=
  s.setPage h.val c.val off (BitVec.ofNat 64 ((pageReserved off).foldl (fun v r => setFld v r.1 r.2 0) v))

/-- A command register takes an undefined op: refused, or ignored while it is busy. `keep` are its readable bits. -/
def State.opRefused (s : State) (h c off keep : Nat) : State := if s.status h c off = 1 then s else s.setStatus h c off 4 keep

/-- A write of RING_BASE or RING_CTL (R145, R146): its other fields are ignored while the channel is enabled. -/
def State.chanSet (s : State) (h k reg v : Nat) : State :=
  let c := s.chan h k
  let s := if c.en then s
    else if reg = 0 then s.setChan h k { c with ringRef := BitVec.ofNat 16 (fld v 63 48), ringOff := BitVec.ofNat 36 (fld v 41 6) }
    else s.setChan h k { c with lsize := if 2 ≤ fld v 3 0 ∧ fld v 3 0 ≤ 12 then fld v 3 0 else c.lsize }
  if reg = 0 then s
  else if bit v 4 then s.chanEnable h k
  else s.chanDisable h k

/-- A write to a register of a channel's block; CHAN_CMD takes its op in the top bits. -/
def State.chanWrite (s : State) (h : HiveId) (c : CtxId) (k : ChanId) (reg v : Nat) : State :=
  match reg, fld v 63 60 with
  | 0, _ => s.cmdReg h c (0x400 + 64 * k.val) v (fun s => s.chanSet h.val k.val 0 v)
  | 1, _ => s.cmdReg h c (0x408 + 64 * k.val) v (fun s => s.chanSet h.val k.val 1 v)
  | 2, _ => after (execRingTailWrite h k (BitVec.ofNat 16 (fld v 15 0)) s) s
  | 5, 1 => after (execChanResume h k s) s
  | 5, 2 => after (execChanSkip h k s) s
  | 5, 3 => after (execChanAbort h k s) s
  | 5, 4 => after (execChanPause h k s) s
  | 5, 5 => after (execChanContinue h k s) s
  | _, _ => s

/-- A write of WIN_SIGNAL w in its owner's page, taken while the window is CLOSED (R236). -/
def State.signalWrite (s : State) (h c w v : Nat) : State :=
  if wOwner (s.win h w) = c ∧ wState (s.win h w) = 0 ∧ fld v 28 16 < 8064 then
    s.setPage h 0 (0x800 + 8 * w) (dwordOf [(63, 63, fld v 63 63), (62, 62, fld v 62 62), (28, 16, fld v 28 16), (15, 0, fld v 15 0)])
  else s

/-- A write of a command register of a control page that the Hive's commands share: its op chooses the command (R79, R123, R135, R142, R194,
R214, R224, R230). -/
def State.pageOp (s : State) (h : HiveId) (c : CtxId) (off v : Nat) : State :=
  let op := fld v 59 56
  let cell : Ga := BitVec.ofNat 48 (fld v 47 3 * 8)
  let w := fin32 (fld v 4 0)
  let hc := fin8 (fld v 11 9)
  let hi := fin64 (fld v 5 0)
  let cc := fin8 (fld v 18 16)
  let ring : Fin 16 := Fin.ofNat 16 (fld v 3 0)
  let slot : Fin 256 := hiveFin (fld v 55 48)
  let go := fun (o : State → Host.Outcome State Fault Refusal) => after (o s) s
  let bad := fun (x keep : Nat) => s.cmdReg h c off v (fun s => s.opRefused h.val x off keep)
  match off, op with
  | 0x110, 1 => go (execFlcFlush h c cell)
  | 0x110, 2 => go (execFlcInval h c cell)
  | 0x110, 3 => go (execFlcFlushAll h c cell)
  | 0x110, 4 => go (execFlcInvalAll h c cell)
  | 0x210, 1 => go (execHandleLoad .ctl h hc hi)
  | 0x210, 2 => go (execHandleDrop .ctl h hc hi)
  | 0x210, 3 => go (execHandleRead h hc hi)
  | 0x210, _ => bad 0 0
  | 0x230, 1 => go (execWinOpen h c w)
  | 0x230, 2 => go (execWinClose h c w)
  | 0x230, 3 => go (execWinRevoke h c w)
  | 0x230, 4 => go (execWinForward h c w)
  | 0x230, 5 => go (execWinRead h c w)
  | 0x230, _ => bad c.val w.val
  | 0x240, 1 => go (execCtxSave h cc (BitVec.ofNat 16 v))
  | 0x240, 2 => go (execCtxRestore h cc (BitVec.ofNat 16 v))
  | 0x308, 1 => go (execWait h c (fin8 (fld v 55 53)) (BitVec.ofNat 24 (fld v 39 16)) (BitVec.ofNat 13 v))
  | 0x308, 2 => go (execWaitdec h c (BitVec.ofNat 24 (fld v 39 16)) (BitVec.ofNat 13 v))
  | 0x308, 3 => go (execWaitCancel h c (Fin.ofNat 128 (fld v 52 46)))
  | 0x308, _ => s.cmdReg h c off v (fun s => s.setStatus h.val c.val off 4 (fld v 52 46 * 2^46))
  | 0x320, 1 => go (execFence h c)
  | 0x320, 2 => go (execFenceChip h c (chipFin (fld v 9 0)))
  | 0x320, _ => bad c.val (fld v 9 0)
  | 0x940, 1 => go (execRingDeclare h c ring)
  | 0x940, 2 => go (execRingUndeclare h c ring)
  | 0x940, 3 => go (execRingRead h c ring)
  | 0x940, _ => bad c.val ring.val
  | 0xC40, 1 => go (execJobSubmit h c (BitVec.ofNat 4 v))
  | 0xC40, 2 => go (execJobRelease h c slot)
  | 0xC40, _ => bad c.val (slot.val * 2^48)
  | _, _ => bad c.val 0

/-- A write of 8 B to an offset of a control page: the register acts, keeps the value, or ignores it (R117). -/
def State.pageWrite (s : State) (h : HiveId) (c : CtxId) (off v : Nat) : State :=
  if ctx0Only off && c.val ≠ 0 then s
  else if [0x110, 0x210, 0x230, 0x240, 0x308, 0x320, 0x940, 0xC40].contains off then s.pageOp h c off v
  else if off = 0x310 ∨ off = 0x318 then s
  else if plainReg off then s.cmdReg h c off v (fun s => s.pagePut h c off v)
  else if off = 0x260 then after (execHivePowerWrite .ctl h (BitVec.ofNat 64 v) s) s
  else if 0x400 ≤ off ∧ off < 0x800 then
    let k : ChanId := Fin.ofNat 16 ((off - 0x400) / 64)
    if s.chCtx h.val k.val = c.val then s.chanWrite h c k (off % 64 / 8) v else s
  else if 0x800 ≤ off ∧ off < 0x900 then s.cmdReg h c off v (fun s => s.signalWrite h.val c.val ((off - 0x800) / 8) v)
  else if 0xA00 ≤ off ∧ off < 0xC00 then after (execBankOwnerWrite .ctl c h (Fin.ofNat 64 ((off - 0xA00) / 8)) (BitVec.ofNat 8 v) s) s
  else if off = 0x2100 then after (execTraceMark h c (BitVec.ofNat 64 v) s) s
  else s

/-- A write of 8 B to an offset of an edge unit's page (R119). -/
def State.edgeWrite (s : State) (u off v : Nat) : State :=
  let cell : Ga := BitVec.ofNat 48 (fld v 47 3 * 8)
  if off ≠ 0 ∨ 17 ≤ u ∨ (12 ≤ u ∧ u < 16) ∨ !s.clk.rootOn then s
  else if fld v 59 56 ≠ 1 then (if s.edgeBusy u then s else s.edgeStatus u 4)
  else if u < 12 then s.edgeFlush u cell
  else after (execMsync cell s) s

/-- A CMD write of 8 B to an edge unit's page leaves the Hive's mesh interface as a narrow access that carries its context (R119), in class 0 (DESIGN
CHOICE, log entry 88). -/
def State.edgeSendReg (s : State) (h c u off v : Nat) : State :=
  if 17 ≤ u ∨ off % 8 ≠ 0 then s
  else
    let n := s.nextId
    let loc : Loc := .edge u off
    let x : Xact := { id := n, seq := n, grp := n, kind := .write, ctx := c, deadline := s.deadlineAt (s.classDeadline 0),
                      ga := BitVec.ofNat 48 (0x0F0080000000 + u * 0x100000 + off), mask := byteMask (off % 64) 8,
                      data := BitVec.ofNat 512 (v * 2^(8 * (off % 64))), srcUnit := h, srcPort := 7, loc := loc, unit := h, since := s.clk.now,
                      born := s.clk.now, purpose := .regAccess, stage := .meshIf, mesh := true, dest := loc.unit }
    let late := s.servesAt h - s.clk.now
    ((s.wakeHive h).addX x).setX { x with ready := s.clk.now + late + 6 }

/-- Register accesses that have reached their edge unit are performed there, in the order in which they came (R119). -/
def State.edgeRegs (s : State) : State :=
  (s.flight.filter (fun x => x.stage = .edgeIngress && x.half = .request && x.purpose = .regAccess && decide (x.ready ≤ s.clk.now))).foldl (fun s x =>
    match x.loc with
    | .edge u off => (s.edgeWrite u off (x.data.toNat / 2^(8 * (off % 64)) % 2^64)).answer { x with result := .ok, data := 0 } x.loc.unit 1
    | _ => s) s

/-! ### Elements read -/

/-- CART_IDENT of a cartridge (R268). -/
def Cart.ident (c : Cart) : Nat := c.serial.toNat + 2^64 * (c.capacity.toNat + 2^64 * c.budget.toNat)

/-- LIFECYCLE (R436). -/
def State.lifecycleReg (s : State) : Nat :=
  pack [(31, 16, s.mgmt.changes.toNat), (7, 6, s.mgmt.seen), (5, 5, b2n s.mgmt.wipe), (2, 2, b2n s.mgmt.auth), (1, 0, s.mgmt.life)]

/-- START_CTL (R452). -/
def State.startCtl (s : State) : Nat :=
  pack [(63, 60, s.mgmt.phase), (55, 48, s.mgmt.step), (47, 40, s.mgmt.code.toNat), (1, 1, b2n s.mgmt.pwr), (0, 0, b2n s.mgmt.auto)]

/-- The path code of a subscriber (R442). -/
def pathCode : Path → Nat
  | .mctp e => e.toNat
  | .mb k => 0x100 + k.val

/-- SUBSCRIBERS, element i (R442). -/
def State.subEntry (s : State) (i : Nat) : Nat :=
  match s.mgmt.subs[i]? with
  | some b => pathCode b.path + 2^64 * b.word.toNat
  | none => 0xFFFF

/-- The ring of last events of a unit, oldest first; places not yet used are 0 (R406). -/
def State.last64Of (s : State) (u : Nat) : List Rec :=
  let l := Tbl.get s.trace.last64 [] u
  List.replicate (64 - l.length) 0 ++ l

/-- ERR_TABLE_PTR (R287). -/
def State.errPtr (s : State) : Nat := pack [(63, 48, s.err.lost.toNat), (17, 9, s.err.tail.toNat), (8, 0, s.err.head.toNat)]

/-- Parameters that are counters (R385). -/
def isCounter (p : Nat) : Bool :=
  [0x2600, 0x3500, 0x6100, 0x6200, 0x6300, 0x6310, 0x6400, 0x6500, 0x6600, 0x6700, 0x6800, 0x8200].contains p

/-- Elements of the management, tier and error areas, other than stored values. -/
def State.elemA (s : State) (p i : Nat) : Option Nat :=
  match p with
  | 0x0002 => some s.mgmt.version.toNat
  | 0x1020 => some s.startCtl
  | 0x1022 => some s.irqPend
  | 0x1140 => some (s.cart i).ident
  | 0x1141 => some (s.cart i).ledger.toNat
  | 0x1143 => some (s.cartState i)
  | 0x1144 => some (s.cart i).lifeUsed.toNat
  | 0x2002 => some s.epochStatus
  | 0x2201 => some (s.budget (i / 8) (i % 8))
  | 0x2FFF => some s.arbCommit
  | 0x3000 => some (s.repairAt i).toNat
  | 0x3102 => some s.err.retire.toNat
  | 0x3300 => some (s.logRec (i / 16) (i % 16)).toNat
  | 0x3400 => some (Tbl.get s.err.table 0 i).toNat
  | 0x3401 => some s.errPtr
  | 0x4001 => some s.powerStatus
  | 0x4002 => some 0
  | 0x4012 => some (s.scaleOf i)
  | 0x4020 => some (s.duty i)
  | 0x4060 => some (((List.range 768).map (fun j => (s.needWord j).toNat * 2^(32 * j))).foldl (· + ·) 0)
  | 0x5001 => some s.pairState
  | 0x5100 => some (s.mregion i).toNat
  | 0x5200 => some (s.mreserve i).toNat
  | 0x5300 => some (if i = 0 then s.journal.head else s.journal.tail)
  | 0x5302 => some (s.jEntry i).toNat
  | 0x5303 => some (Tbl.get s.journal.partner 0 i).toNat
  | 0x5501 => some (if i = 0 then pack [(63, 60, s.journal.recState), (47, 0, s.journal.recCount)] else s.journal.recDiv)
  | _ => none

/-- Elements of the observation, security and per-Hive areas, other than stored values. -/
def State.elemB (s : State) (p i : Nat) : Option Nat :=
  match p with
  | 0x6000 => some s.trace.mode
  | 0x6001 => some s.snapStatus
  | 0x6003 => some s.traceExt.1
  | 0x6004 => some s.traceStatus
  | 0x6040 => some (((s.last64Of i).zipIdx.map (fun e => e.1.toNat * 2^(256 * e.2))).foldl (· + ·) 0)
  | 0x6051 => some (pack [(63, 60, s.trace.wfgBusy)])
  | 0x6060 => some s.clk.ts.toNat
  | 0x7000 => some s.lifecycleReg
  | 0x7020 => some (s.subEntry i)
  | 0x7100 => some s.err.chkCmd.toNat
  | 0x7101 => some s.err.chkData.toNat
  | 0x7200 => some 0
  | 0x7201 => some (s.quenchStatus i)
  | 0x7203 => some s.quench.memGa.toNat
  | 0x8040 => some (s.ownerOf (i / 64) (i % 64)).byte
  | 0x8700 => some (s.handle (i / 512) (i / 64 % 8) (i % 64)).toNat
  | 0x8800 => some (s.win (i / 32) (i % 32)).toNat
  | 0x8A00 => some (s.ringAt (i / 16) (i % 16)).entry.toNat
  | 0x8B00 => some (s.waitEntry (i / 128) (i % 128))
  | 0x8C00 => some (s.barrier (i / 32) (i % 32)).mask.toNat
  | 0x8D00 => some (s.winSignal (i / 32) (i % 32)).toNat
  | 0x8E00 => some (s.hivePower i).toNat
  | _ => none

/-- The value of an element as a READ returns it: the value in force, or of a shadowed parameter its shadow unless `active` is asked (R422). -/
def State.elem (s : State) (p i : Nat) (active : Bool) : Nat :=
  if isCounter p then s.countRead p i
  else match s.elemA p i with
    | some v => v
    | none => match s.elemB p i with
      | some v => v
      | none => match pdesc p with
        | some d => if d.acc = .rws then (if active then s.act p i else s.shd p i) else s.pv p i
        | none => 0

/-- The bytes of a BLOB that is read at byte offsets: its size and the bytes from an offset (R427). -/
def State.blobBytes (s : State) (p i off n : Nat) : Nat × List Byte :=
  let cut := fun (l : List Byte) => (l.length, (l.drop off).take n)
  match p with
  | 0x3100 => cut s.manifest
  | 0x4060 => cut (natBytes 3072 (s.elem p i false))
  | 0x6005 => (8 * s.traceExt.2, (List.range n).map (fun j => s.traceByte (off + j)))
  | 0x6040 => cut (natBytes 2048 (s.elem p i false))
  | 0x6050 => cut s.trace.wfg
  | _ => (0, [])

/-! ### Elements written -/

/-- The bits of element `i` that a write changes; the others are reserved or read only (R6, R422). Entries 19 to 31 of ARB_PRIORITY are
reserved whole (R70). -/
def wmask (p i : Nat) : Nat :=
  match p with
  | 0x2500 => 0xCFFF
  | 0x5500 => 0x103
  | 0x6006 => 0xFFFF7FFE
  | 0x8100 => if 19 ≤ i % 32 then 0 else 0x07777777
  | 0x8400 => 0xFF3FFFFFFFFFFFFF
  | 0x8500 => 0x0FFF
  | 0x8600 => 0xC0FFFFFF
  | _ => 2^128 - 1

/-- A state that a parameter's write asks for does not hold (R428 NOT_NOW). -/
def State.notNow (s : State) (d : PDesc) (i v : Nat) : Bool :=
  let hive := fun (_ : Nat) => s.mgmt.phase ≠ 7
  if d.acc = .rws then s.sched.commit.isSome
  else if d.eff = 2 ∨ d.num = 0x6002 then !s.noHiveLive
  else match d.num with
    | 0x1020 => false
    | 0x1143 => s.mgmt.phase < 6
    | 0x1153 => (List.range 4).any (fun k => (s.cart k).st = .trusted || (s.cart k).st = .untrusted)
    | 0x3000 => s.hiveUp (repairParts i).2.1
    | 0x5000 => s.mirror.st ≠ .unpaired
    | 0x5001 => hive 0
    | 0x7100 => hive 0
    | 0x8040 => hive (i / 64)
    | 0x8700 => hive (i / 512) || s.draining (i / 512) (i / 64 % 8) (i % 64)
    | 0x8C00 => hive (i / 32)
    | 0x8E00 => hive i
    | 0xF000 => v = 1 && s.determ
    | _ => false

/-- A value lies outside what its parameter lists (R421, R428 OUT_OF_RANGE). -/
def outOfRange (d : PDesc) (i v : Nat) : Bool :=
  let plain := decide (d.size ≤ 8) && d.num ≠ 0x6600 && (decide (v < d.lo) || decide (d.hi < v))
  plain || (match d.num with
    | 0x1001 => !(v = 0 || v = 128 || v = 256 || v = 384 || v = 512)
    | 0x1153 => i = 0 && v % 65536 ≠ 0
    | 0x3200 => decide (0 < v ∧ v < 10)
    | 0x3201 => decide (0 < v ∧ v < 3600)
    | 0x3202 => decide (0 < v ∧ v < 3600)
    | 0x4070 => v % 5 ≠ 0
    | 0x5000 => decide (1023 < v) && v ≠ 0xFFFF
    | 0x5502 => v % 1048576 ≠ 0
    | 0x6002 => v % 8388608 ≠ 0
    | _ => false)

/-- A Hive element reaches a logic domain that is not ON (R363, R428 ASLEEP). -/
def State.asleepElem (s : State) (p i : Nat) : Bool :=
  match p with
  | 0x8700 => !s.domLive (i / 512) 0
  | 0x8C00 => !s.domLive (i / 32) 0
  | _ => false

/-- TRIGGER element `i` takes a value: en as 1 clears fired; the undefined action and source are refused (R404). -/
def State.triggerWrite (s : State) (i v : Nat) : State × Bool :=
  if fld v 62 61 = 3 ∨ fld v 60 59 = 3 then (s, false)
  else
    let fired := if bit v 63 then 0 else fld (s.trigger i) 58 58
    (s.setPv 0x6010 i (pack [(63, 63, fld v 63 63), (62, 61, fld v 62 61), (60, 59, fld v 60 59), (58, 58, fired), (55, 48, fld v 55 48),
      (47, 32, fld v 47 32), (31, 16, fld v 31 16), (15, 0, fld v 15 0)]), true)

/-- Recording or replay begins with the clock root (R347), or at a later write of RECORD_CTL while no Hive is LIVE. -/
def State.recStart (s : State) : State :=
  let m := s.pv 0x5500 0 % 4
  { s with journal := { s.journal with recState := if m = 0 then 0 else 1, recCount := 0, recDiv := 0, repPos := 0
                                       recBuf := if m = 1 then [] else s.journal.recBuf } }

/-- A RETIRE_OP write; true when it is done, false when refused (R304). -/
def State.retireElem (s : State) (v : Nat) : State × Bool :=
  let s := s.retireWrite (fld v 59 56) (fld v 55 48) (fld v 47 0)
  (s, fld s.err.retire.toNat 63 60 ≠ 4)

/-- A CART_STATE command (R269). -/
def State.cartCommand (s : State) (k v : Nat) : State × Bool :=
  match v % 256 with
  | 1 => s.cartAttach k
  | 2 => s.cartDetach k false
  | 3 => s.cartTrust k
  | 4 => s.cartDetach k true
  | _ => (s, false)

/-- A CHK_CMD write (R313). -/
def State.chkElem (s : State) (v : Nat) : State × Bool :=
  let op := fld v 59 56
  if op = 1 ∨ op = 2 then
    let t := s.checkAccess (op = 2) (fld v 55 52) (fld v 51 44) (fld v 43 39) (fld v 38 0)
    (t, fld t.err.chkCmd.toNat 63 60 = 2)
  else ({ s with err := { s.err with chkCmd := dwordOf [(63, 60, 4)] } }, false)

/-- PAIR_STATE's op (R318). -/
def State.pairOp (s : State) (v : Nat) : State × Bool :=
  match v % 256 with
  | 1 => s.pairJoin
  | 2 => s.pairLeave
  | _ => (s, false)

/-- The channel of a DMA_CHAN_CTX element may change its owner (R144). -/
def State.chanFree (s : State) (i : Nat) : Bool := let c := s.chan (i / 16) (i % 16); c.st = .idle && !c.en

/-- Stores an element whose parameter has rules of its own; true when they accept the value, none for a parameter that only keeps it. -/
def State.storeOwn (s : State) (p i v : Nat) : Option (State × Bool) :=
  match p with
  | 0x1000 => some (s.hierMode v)
  | 0x1001 => some (s.poolContrib v)
  | 0x1010 => some (s.chipIdSet v)
  | 0x1022 => some (s.irqClear v, true)
  | 0x1100 => some (s.outerRegion i (BitVec.ofNat 64 v))
  | 0x1143 => some (s.cartCommand i v)
  | 0x2FFF => some (if bit v 0 then s.commitGo none else s, true)
  | 0x3000 => some (s.repairWrite i v)
  | 0x3102 => some (s.retireElem v)
  | 0x3401 => some (s.errAck (fld v 17 9), true)
  | 0x4000 => some (s.capWrite v)
  | 0x4002 => some (if v = 1 then s.divAck else s, true)
  | 0x5001 => some (s.pairOp v)
  | 0x5100 => some (s.regionWrite i (BitVec.ofNat 128 v))
  | 0x5200 => some (s.reserveWrite i (BitVec.ofNat 128 v))
  | 0x5300 => some (s.jTail v)
  | 0x5500 => some (if v % 4 = 3 then (s, false)
      else let s := s.setPv 0x5500 0 (v &&& wmask 0x5500 0); (if s.clk.rootOn then s.recStart else s, true))
  | 0x6000 => some (s.traceModeSet v)
  | 0x6001 => some (s.snapCtl v)
  | 0x6010 => some (s.triggerWrite i v)
  | 0x6051 => some (s.wfgCtl v)
  | 0x6600 => some (s.occClear i v)
  | 0x7100 => some (s.chkElem v)
  | 0x7101 => some ({ s with err := { s.err with chkData := BitVec.ofNat 640 (v % 2^584) } }, true)
  | 0x7200 => some (s.quenchCtl v)
  | 0x7203 => some ({ s with quench := { s.quench with memGa := BitVec.ofNat 64 v } }, true)
  | 0x8040 => some (after (execBankOwnerWrite .ypp 0 (hiveFin (i / 64)) (Fin.ofNat 64 (i % 64)) (BitVec.ofNat 8 v) s) s, true)
  | 0x8700 => let r := s.handleYpp (i / 512) (i / 64 % 8) (i % 64) (BitVec.ofNat 128 v) none; some (r.1, r.2 = 0)
  | 0x8900 => some (if s.chanFree i then s.setPv p i v else s, true)
  | 0x8C00 => some (s.maskWrite (i / 32) (i % 32) (BitVec.ofNat 64 v), true)
  | 0x8E00 => let t := after (execHivePowerWrite .ypp (hiveFin i) (BitVec.ofNat 64 v) s) s; some (t, Tbl.get t.hives.pwrRes 0 i = 0)
  | _ => none

/-- Stores an element (R422): by its parameter's own rules, in its shadow, or as its value in force. True when accepted. -/
def State.store (s : State) (d : PDesc) (i v : Nat) : State × Bool :=
  match s.storeOwn d.num i v with
  | some r => r
  | none =>
    if d.acc = .rws then (s.setShd d.num i (v &&& wmask d.num i), true)
    else (s.setPv d.num i (v &&& wmask d.num i), true)

/-- The stage B checks of a write of an element, in their order, and then the write (R428): the state and the status. -/
def State.writeElem (s : State) (d : PDesc) (i v : Nat) : State × Nat :=
  if s.asleepElem d.num i then (s, 0x08)
  else if s.notNow d i v then (s, 0x09)
  else if outOfRange d i v then (s, 0x0A)
  else
    let r := s.store d i v
    (r.1, if r.2 then 0 else 0x0B)

/-! ### REGISTER_WRITE -/

/-- Element `i` of a parameter is read only (R422): every element of an RO parameter, and the head of JOURNAL_PTR (R342). -/
def PDesc.roAt (d : PDesc) (i : Nat) : Bool := d.acc = .ro || (d.num = 0x5300 && i = 0)

/-- A write of a control-page register, of an edge unit's register or of a parameter (R117, R119, R422): the register that lies there acts,
keeps the value or ignores it, an edge unit's when the access has reached it; a parameter takes it under the checks of R428. -/
def execRegisterWrite (t : RegTarget) (v : Dword) (s : State) : Host.Outcome State Fault Refusal :=
  .next (
    if s.mgmt.por then s
    else match t with
      | .page h c off => if off.toNat % 8 = 0 then s.pageWrite h c off.toNat v.toNat else s
      | .edge h c u off => s.cmd h.val c.val (.registerWrite t v) (fun s =>
          if s.ctlOpen h.val then s.edgeSendReg h.val c.val u.val off.toNat v.toNat else s)
      | .param p i => match pdesc p.toNat with
        | some d => if d.roAt i ∨ d.count ≤ i ∨ 2^(8 * d.size) ≤ v.toNat then s else (s.writeElem d i v.toNat).1
        | none => s)

end Sys2Proof.Machine
end

