-- ==== Sys2Proof/Machine/Readout.lean ====
section
/-!
DEFINITION. Readout.lean: memory through the Hearth's test path (R315), and what a Quench leaves to read: the blobs of the units and the
memory line by line (R413, R416 to R418).
-/
namespace Sys2Proof.Machine

/-! ### The test path (R315) -/

/-- Lines a block of bytes touches, as line addresses. -/
def blockLines (ga n : Nat) : List Nat := (List.range ((ga + n - 1) / 64 - ga / 64 + 1)).map (fun i => ga / 64 * 64 + 64 * i)

/-- Byte mask of the part of a line that a block touches. -/
def blockMask (ga n a : Nat) : Dword :=
  let lo := max ga a
  let hi := min (ga + n) (a + 64)
  byteMask (lo - a) (hi - lo)

/-- How a line answers the test path: 0 served, else the YPP status (R363, R428): asleep, or not accessible. -/
def State.testLine (s : State) (a : Nat) : Nat :=
  let loc := s.locate a
  match loc with
  | .edge _ _ => 0
  | .t1 raw => if s.t1Retired raw || s.copyKept a then 0x0B else 0
  | .t2 k raw => if s.t2Retired k raw || !((s.cart k).st = .trusted || (s.cart k).st = .untrusted) then 0x0B else 0
  | _ => match s.refusal loc (isPoolGa a) with
    | some 0x83 => 0x08
    | some _ => 0x0B
    | none => 0

/-- A test access waits for TEST_MODE and for the units it reaches (R315, R455). -/
def State.testReady (s : State) : Bool := s.clk.rootOn && s.mgmt.phase = 7 && s.pv 0xF000 0 = 1

/-- A register of the page that holds an address, as read. -/
def State.regRead (s : State) (loc : Loc) (i : Nat) : Nat :=
  match loc with
  | .page h off => if off < 0x80000 then s.pageRead h (off / 0x10000) (off % 0x10000 / 64 * 64 + 8 * i) else 0
  | .edge u off => s.edgeRead u (off / 64 * 64 + 8 * i)
  | _ => 0

/-- The transaction by which the Hearth reaches a line. -/
def hearthX (a : Nat) (kind : AccKind) (mask : Dword) (d : Line) (loc : Loc) : Xact :=
  { kind := kind, ga := BitVec.ofNat 48 a, mask := mask, data := d, srcUnit := uHearth, loc := loc }

/-- Reads a line through the test path: codes computed and checked as in a normal access. True when a granule is uncorrectable. -/
def State.testRead (s : State) (a : Nat) (mask : Dword) : State × Line × Bool :=
  let loc := s.servedAt a
  let s := if loc.unit < 256 then s.wakeHive loc.unit else s
  match loc with
  | .page _ _ => (s, BitVec.ofNat 512 (((List.range 8).map (fun i => s.regRead loc i * 2^(64 * i))).foldl (· + ·) 0), false)
  | .edge _ _ => (s, BitVec.ofNat 512 (((List.range 8).map (fun i => s.regRead loc i * 2^(64 * i))).foldl (· + ·) 0), false)
  | .sync h w =>
    (List.range 8).foldl (fun r i =>
      if fld mask.toNat (8 * i + 7) (8 * i) = 0 then r
      else
        let o := r.1.syncAccess (hearthX (a + 8 * i) .read (byteMask (8 * i) 8) 0 (.sync h (w / 8 * 8 + i))) h (w / 8 * 8 + i) 255 0
        (o.s, Line.setGran r.2.1 i o.data, r.2.2 || o.bad)) (s, (0 : Line), false)
  | l => match l.rowId with
    | some (kind, h, b, row) =>
      let r := s.rowAccess (hearthX a .read mask 0 l) l kind h b row
      (r.1, r.2.data, r.2.bad)
    | none =>
      let r := s.peek a
      (s, r.1, r.2)

/-- Writes bytes of a line through the test path. A register takes whole aligned writes of 8 B. -/
def State.testWrite (s : State) (a : Nat) (mask : Dword) (d : Line) : State :=
  let loc := s.servedAt a
  let s := if loc.unit < 256 then s.wakeHive loc.unit else s
  let whole := fun (i : Nat) => fld mask.toNat (8 * i + 7) (8 * i) = 255
  match loc with
  | .page h off =>
    (List.range 8).foldl (fun s i =>
      if whole i && decide (off < 0x80000) then s.pageWrite (hiveFin h) (fin8 (off / 0x10000)) (off % 0x10000 / 64 * 64 + 8 * i) (Line.gran d i).toNat else s) s
  | .edge u off => (List.range 8).foldl (fun s i => if whole i then s.edgeWrite u (off / 64 * 64 + 8 * i) (Line.gran d i).toNat else s) s
  | .sync h w =>
    (List.range 8).foldl (fun s i =>
      let m := fld mask.toNat (8 * i + 7) (8 * i)
      if m = 0 then s
      else (s.syncAccess (hearthX (a + 8 * i) .write mask d (.sync h (w / 8 * 8 + i))) h (w / 8 * 8 + i) (BitVec.ofNat 8 m) (Line.gran d i)).s) s
  | _ => s.poke a mask d

/-- The part of a line that a block takes. -/
def blockPart (ga n a : Nat) (l : Line) : List Byte :=
  let lo := max ga a
  sliceBytes (natBytes 64 l.toNat) (lo - a) (min (ga + n) (a + 64) - lo)

/-- A block outside DEVELOP and RETURN touches debug-visible lines alone (R441). -/
def State.blockSeen (s : State) (ga n : Nat) : Bool :=
  s.mgmt.life = 1 || s.mgmt.life = 3 || (blockLines ga n).all (fun a => s.visible a)

/-- The first line of a block that the test path does not serve. -/
def State.blockStop (s : State) (ga n : Nat) : Nat := ((blockLines ga n).map (fun a => s.testLine a)).foldl (fun r x => if r = 0 then x else r) 0

/-- READ_BLOCK of TEST_DATA: the state, the status and the bytes (R315). -/
def State.testReadBlock (s : State) (n : Nat) : State × Nat × List Byte :=
  let ga := s.pv 0xF001 0
  if !s.testReady then (s, 0x09, [])
  else if !s.blockSeen ga n then (s, 0x06, [])
  else if s.blockStop ga n ≠ 0 then (s, s.blockStop ga n, [])
  else
    let r := (blockLines ga n).foldl (fun (r : State × List Byte × Bool) a =>
      let o := r.1.testRead a (blockMask ga n a)
      (o.1, r.2.1 ++ blockPart ga n a o.2.1, r.2.2 || o.2.2)) (s, [], false)
    if r.2.2 then (r.1, 0x0B, []) else (r.1.setPv 0xF001 0 (ga + n), 0, r.2.1)

/-- WRITE_BLOCK of TEST_DATA. A write of part of an uncorrectable granule is refused. -/
def State.testWriteBlock (s : State) (bs : List Byte) : State × Nat :=
  let ga := s.pv 0xF001 0
  let n := bs.length
  if !s.testReady then (s, 0x09)
  else if s.blockStop ga n ≠ 0 then (s, s.blockStop ga n)
  else if (blockLines ga n).any (fun a => isPartial (blockMask ga n a) && (s.peek a).2 && (match s.servedAt a with
      | .page _ _ => false
      | .edge _ _ => false
      | _ => true)) then (s, 0x0B)
  else
    let s := (blockLines ga n).foldl (fun s a =>
      let lo := max ga a
      let part := bytesNat (sliceBytes bs (lo - ga) (min (ga + n) (a + 64) - lo)) * 2^(8 * (lo - a))
      s.testWrite a (blockMask ga n a) (BitVec.ofNat 512 part)) s
    (s.setPv 0xF001 0 (ga + n), 0)

/-! ### Transactions where a Quench finds them (R413, R417) -/

/-- The unit in which a transaction stands. -/
def Xact.standsAt (x : Xact) : Nat :=
  match x.stage with
  | .portInput => x.srcUnit
  | .issueStall => x.srcUnit
  | .scoreboard => x.srcUnit
  | .farLine => x.srcUnit
  | .returned => x.srcUnit
  | .meshIf => x.unit
  | .injection => x.unit
  | .link => x.unit
  | .ejection => x.unit
  | .mirrorQueue => x.unit
  | .fxpEgress => uFx x.unit
  | .fxpRelease => uFx x.unit
  | _ => x.loc.unit

/-- The code of a stage (R417); a write that a supply hold keeps stands in the hold (R377). -/
def Xact.stageCode (x : Xact) (hold : Bool) : Nat :=
  let held := hold && x.half = .request && isWr x.kind
  match x.stage with
  | .portInput => 0x01
  | .issueStall => 0x02
  | .scoreboard => 0x03
  | .ringStall => 0x04
  | .arbiter => if held then 0x33 else 0x05
  | .bankFirst => 0x06
  | .bankSecond => 0x07
  | .returned => 0x08
  | .farLine => 0x09
  | .meshIf => 0x10
  | .injection => 0x11
  | .link => 0x12
  | .ejection => 0x13
  | .mipHeld => 0x14
  | .edgeIngress => 0x20
  | .controller => if held then 0x33 else 0x21
  | .schedStaging => 0x22
  | .outstanding => 0x23
  | .pageBuffer => 0x24
  | .decoder => 0x25
  | .landed => 0x26
  | .fxpEgress => 0x30
  | .fxpRelease => 0x31
  | .mirrorQueue => 0x32
  | .supplyHold => 0x33

/-- What a transaction carries (R417). -/
def Xact.opCode (x : Xact) : Nat :=
  match x.half, x.kind with
  | .request, .read => 1
  | .request, .fetch => 1
  | .request, .write => 2
  | .request, .acc => 3
  | .request, .atomic => 4
  | .answer, .read => 5
  | .answer, .fetch => 5
  | .answer, .atomic => 5
  | .answer, _ => 6

/-- The sideband of a transaction (R62). -/
def State.sideOf (s : State) (x : Xact) : Nat :=
  let be := match x.loc.resource with
    | some r => s.bestEffort r x.qos
    | none => false
  pack [(31, 31, b2n x.sched), (30, 30, b2n (be && !x.sched)), (29, 27, x.qos), (26, 24, x.ctx), (15, 0, x.deadline.toNat)]

/-- The transaction carries a payload. -/
def Xact.carries (x : Xact) : Bool := x.opCode = 2 || x.opCode = 3 || x.opCode = 4 || x.opCode = 5

/-- An in-flight entry, its payload at an offset of section 0x09 (R417). -/
def State.flightEntry (s : State) (x : Xact) (off : Nat) : Nat :=
  pack [(255, 248, x.stageCode s.power.hold), (247, 244, x.opCode), (243, 240, x.code.toNat), (239, 208, s.sideOf x), (207, 196, x.flow.toNat), (195, 192, 1),
    (191, 144, x.ga.toNat), (143, 128, x.tag), (127, 64, x.mask.toNat), (63, 55, x.srcUnit), (54, 51, x.srcPort), (50, 47, x.srcChan),
    (46, 44, if x.stage = .link then x.dir else 0), (31, 0, off)]

/-- Transactions with their payload offsets: line 0 of section 0x09 stays 0, so that offset 0 names none. -/
def placePayloads : List Xact → Nat → List (Xact × Nat)
  | [], _ => []
  | x :: t, n => if x.carries then (x, 64 * n) :: placePayloads t (n + 1) else (x, 0) :: placePayloads t n

/-! ### The blob of a unit (R416) -/

/-- Elements of a parameter, as (number, first element, count). -/
def hiveParams (h : Nat) : List (Nat × Nat × Nat) :=
  [(0x3000, 1024 * h, 1024), (0x3000, 262144 + 96 * h, 96), (0x8040, 64 * h, 64), (0x8100, 32 * h, 32), (0x8300, 8 * h, 8), (0x8400, 256 * h, 256),
   (0x8500, 2048 * h, 2048), (0x8600, 16 * h, 16), (0x8700, 512 * h, 512), (0x8800, 32 * h, 32), (0x8900, 16 * h, 16), (0x8A00, 16 * h, 16),
   (0x8B00, 128 * h, 128), (0x8C00, 32 * h, 32), (0x8D00, 32 * h, 32), (0x8E00, h, 1)]

/-- Parameters of the Hearth: those of no other unit, but the BLOBs of other sizes and the counters. -/
def hearthParams : List (Nat × Nat × Nat) :=
  (dict.filter (fun d => decide (d.num < 0x8000) && decide (0 < d.size ∧ d.size ≤ 1024) && !isCounter d.num &&
    !([0x1105, 0x1106, 0x1140, 0x1141, 0x1142, 0x1143, 0x1144, 0x2401, 0x2500, 0x3000, 0x3300, 0x5001, 0x5100, 0x5200, 0x5302, 0x5303, 0x7202].contains d.num))).map
    (fun d => (d.num, 0, d.count))

/-- Parameter elements a unit holds. -/
def unitParams (u : Nat) : List (Nat × Nat × Nat) :=
  if u < 256 then hiveParams u
  else if u < 264 then [(0x1105, 0, 10), (0x1106, 32 * (u - 256), 32), (0x2500, 32768 * (u - 256), 32768)]
  else if u < 268 then
    [(0x1140, u - 264, 1), (0x1141, u - 264, 1), (0x1142, u - 264, 1), (0x1143, u - 264, 1), (0x1144, u - 264, 1), (0x2401, 2 * (u - 264), 2)]
  else if u < 272 then []
  else if u = 272 then [(0x5001, 0, 1), (0x5100, 0, 64), (0x5200, 0, 64)]
  else hearthParams

/-- Control-page offsets of a Hive that hold registers. -/
def pageOffs : List Nat :=
  (List.range' 0x100 3 8) ++ (List.range' 0x200 6 8) ++ [0x230, 0x240, 0x248, 0x260, 0x300, 0x308, 0x310, 0x318, 0x320, 0x328, 0x380] ++
    (List.range' 0x400 128 8) ++ (List.range' 0x800 32 8) ++ (List.range' 0x900 9 8) ++ (List.range' 0xA00 64 8) ++ (List.range' 0xC00 9 8) ++
    (List.range' 0x1000 256 8)

/-- A register entry of section 0x01; an element wider than 8 B takes an entry for each 8 B. -/
def regEntry (id el v words : Nat) : List Nat := (List.range words).map (fun i => id + 2^32 * el + 2^64 * (v / 2^(64 * i) % 2^64))

/-- The registers of a unit: its parameter elements in force, then its control pages. -/
def State.unitRegs (s : State) (u : Nat) : List Nat :=
  let ps := (unitParams u).flatMap (fun e => match pdesc e.1 with
    | some d => (List.range e.2.2).flatMap (fun i => regEntry e.1 (e.2.1 + i) (s.elem e.1 (e.2.1 + i) true) ((d.size + 7) / 8))
    | none => [])
  let pages := if u < 256 then (List.range 8).flatMap (fun c => pageOffs.flatMap (fun o => regEntry o c (s.pageRead u c o) 1))
    else if u < 268 then (List.range 2).flatMap (fun i => regEntry (8 * i) 0 (s.edgeRead (u - 256) (8 * i)) 1)
    else if u = 272 then regEntry 0 0 (s.edgeRead 16 0) 1
    else []
  ps ++ pages

/-- Counters of a unit, as (parameter, first element, count). -/
def unitCounters (u : Nat) : List (Nat × Nat × Nat) :=
  let bytes := fun (r n : Nat) => (0x6100, 32 * r, 32 * n)
  let own := if u < 256 then [(0x2600, u, 1), bytes u 1, bytes (0x100 + 8 * u) 8, (0x6800, 128 * u, 128), (0x8200, 32 * u, 32)]
    else if u < 264 then [(0x2600, 256 + 32 * (u - 256), 32), bytes (0x900 + 32 * (u - 256)) 32, (0x6300, 8 * (u - 256), 8)]
    else if u < 268 then [bytes (0xA00 + 2 * (u - 264)) 2, (0x6310, 8 * (u - 264), 8)]
    else if u < 272 then [(0x2600, 512 + (u - 268), 1), bytes (0xA10 + 2 * (u - 268)) 2]
    else if u = 272 then [(0x6400, 0, 8)]
    else [(0x6500, 0, 8)]
  own ++ (if u < 268 then [(0x6200, 4 * u, 4)] else []) ++ [(0x3500, 8 * u, 8), (0x6600, 32 * u, 32), (0x6700, 8 * u, 8)]

/-- A far-line cache way as an entry of section 0x03; the spec names its fields and leaves their places open. -/
def Way.entry (w : Way) (set way : Nat) (seen : Bool) : Nat :=
  pack [(15, 0, set), (23, 16, way), (24, 24, b2n w.used), (25, 25, b2n w.fill), (39, 32, w.cls), (47, 40, w.ctx), (127, 64, w.tag.toNat),
    (191, 128, w.dirty.toNat), (255, 192, w.valid.toNat)] + 2^256 * (if seen then w.data.toNat else 0)

/-- Payload a Quench blob may show: all of it in DEVELOP and RETURN, else that of debug-visible lines (R441). -/
def State.shows (s : State) (ga : Nat) : Bool := s.mgmt.life = 1 || s.mgmt.life = 3 || s.visible ga

/-- Frames an FXP keeps until they are delivered, as entries of section 0x04 (R415). -/
def State.retainEntries (s : State) (k : Nat) : List (List Byte) :=
  let entry := fun (chip idx : Nat) (bs : List Byte) => natBytes 4 chip ++ natBytes 8 idx ++ natBytes 4 bs.length ++ bs
  (s.fxps.retain.filter (fun r => r.fxp = k)).map (fun r =>
    let f := if s.shows r.frame.ga.toNat then r.frame else { r.frame with payload := r.frame.payload.map (fun _ => 0) }
    entry r.chip r.idx (frameBytes r.kind.toNat f)) ++
  (if s.fxpOf (s.pv 0x5000 0) = k then s.fxps.mretain.map (fun r =>
    let f := if s.mgmt.life = 1 ∨ s.mgmt.life = 3 then r.frame else { r.frame with payload := r.frame.payload.map (fun _ => 0) }
    entry (s.pv 0x5000 0) r.idx (mframeBytes r.kind.toNat (s.pv 0x5000 0) f)) else [])

/-- The sections of a unit's blob: kind, entries, entry size and bytes. -/
def State.sections (s : State) (u : Nat) : List (Nat × Nat × Nat × List Byte) :=
  let fixed := fun (kind size : Nat) (l : List Nat) => (kind, l.length, size, (l.map (natBytes size)).flatten)
  let xs := placePayloads (s.flight.filter (fun x => x.standsAt = u)) 1
  let of := fun (p : Stage → Bool) => (xs.filter (fun e => p e.1.stage)).map (fun e => s.flightEntry e.1 e.2)
  let ways := if u < 256 then (s.hives.ways.filter (fun e => e.1 / 2048 = u)).map (fun e =>
      let set := e.1 % 2048 / 8
      e.2.entry set (e.1 % 8) (s.shows (flcGa set e.2.tag.toNat))) else []
  let counts := (unitCounters u).flatMap (fun e => (List.range e.2.2).map (fun i => s.counter e.1 (e.2.1 + i)))
  let snaps := if s.count.frozen then (unitCounters u).flatMap (fun e => (List.range e.2.2).map (fun i => s.countRead e.1 (e.2.1 + i))) else []
  let load := (0 : Nat) :: (xs.filter (fun e => e.1.carries)).map (fun e => if s.shows e.1.ga.toNat then e.1.data.toNat else 0)
  let kept := s.retainEntries (u - 268)
  [fixed 0x01 16 (s.unitRegs u), fixed 0x02 32 (of (fun g => g ≠ .landed))] ++
    (if u < 256 then [fixed 0x03 96 ways] else []) ++
    (if 268 ≤ u ∧ u < 272 then [(0x04, kept.length, 0, kept.flatten),
      fixed 0x05 8 ((List.range 1024).map (fun c => Tbl.get s.fxps.recvCnt 0 (fxKey (u - 268) c)))] else []) ++
    (if 256 ≤ u ∧ u < 268 then [fixed 0x06 32 (of (fun g => g = .landed))] else []) ++
    [fixed 0x07 32 ((s.last64Of u).map (fun r => r.toNat)), fixed 0x08 8 (counts ++ snaps), fixed 0x09 64 load]

/-- Directory entries of sections laid one after the other from an offset. -/
def directory : List (Nat × Nat × Nat × List Byte) → Nat → List Byte
  | [], _ => []
  | (kind, n, size, bs) :: t, off => natBytes 4 kind ++ natBytes 4 off ++ natBytes 4 n ++ natBytes 4 size ++ directory t (off + bs.length)

/-- QUENCH_UNIT: the blob of a unit. -/
def State.unitBlob (s : State) (u : Nat) : List Byte :=
  let ss := s.sections u
  let body := (ss.map (fun e => e.2.2.2)).flatten
  let top := 64 + 16 * ss.length
  natBytes 2 1 ++ natBytes 2 u ++ natBytes 4 (top + body.length) ++ natBytes 8 s.quench.ts.toNat ++ natBytes 48 ss.length ++ directory ss top ++ body

/-! ### Memory while quenched (R418) -/

/-- Status of a line read while quenched: refused by the matrix, domain not ON, or unpopulated. -/
def State.memStatus (s : State) (ga : Nat) : Nat :=
  let here := match s.locate ga with
    | .row h b r => s.refusal (.row h b r) (isPoolGa ga)
    | .mat h b r => s.refusal (.mat h b r) false
    | .vec h b r => s.refusal (.vec h b r) false
    | .sync h w => s.refusal (.sync h w) false
    | .t1 raw => if s.t1Retired raw then some 0x14 else none
    | _ => some 0x14
  match here with
  | some 0x83 => 2
  | some _ => 3
  | none => if s.mgmt.life = 1 ∨ s.mgmt.life = 3 ∨ s.visible ga then 0 else 1

/-- The 80 B of a line read while quenched, in the layout of CHK_DATA. What a stack reports of its own code with a raw line is no part of the
block: bit 1 of byte 72 is a free value there. -/
def State.memLine (s : State) (ga : Nat) : State × List Byte :=
  let a := ga / 64 * 64
  let st := s.memStatus a
  let tail := fun (v : Nat) => natBytes 73 v ++ natBytes 7 st
  if st ≠ 0 then (s, tail 0)
  else match s.locate a with
    | .t1 raw =>
      let f := s.draw
      (f.2, tail ((s.tline 1 (raw / 64)).toNat + 2^577 * (f.1 % 2)))
    | .sync h w =>
      let ws := (List.range 8).map (fun i => let v := s.syncRaw h (w / 8 * 8 + i); v.data.toNat * 2^(64 * i) + v.chk.toNat * 2^(512 + 8 * i))
      (s, tail (ws.foldl (· + ·) 0))
    | l => match l.rowId with
      | some (kind, h, b, r) => (s, tail (s.rawData (.row (s.rowPlace kind h b r) l)))
      | none => (s, tail 0)

/-- READ_BLOCK of QUENCH_MEM: lines of 80 B from QUENCH_MEM_GA, which advances past them. -/
def State.memRead (s : State) : Nat → State × List Byte
  | 0 => (s, [])
  | n + 1 =>
    let ga := s.quench.memGa.toNat
    let r := s.memLine ga
    let t := { r.1 with quench := { r.1.quench with memGa := BitVec.ofNat 64 (ga + 64) } }
    let q := t.memRead n
    (q.1, r.2 ++ q.2)

end Sys2Proof.Machine
end

