-- ==== Sys2Proof/Machine/Ypp.lean ====
section
/-!
DEFINITION. Ypp.lean: YPP requests from MCTP and the mailbox: their form, the checks of stage A and of stage B, the security matrix, the order of
operations, and what each operation does (R420 to R441).
-/
namespace Sys2Proof.Machine

/-! ### Requests -/

/-- A write-class operation: WRITE, WRITE_BLOCK, COMMIT (R426). -/
def writeOp (op : Nat) : Bool := op = 2 || op = 4 || op = 5

/-- The highest privilege a path allows (R423). -/
def ceiling : Path → Nat
  | .mctp _ => 2
  | .mb k => k.val

/-- The effective privilege of a request (R423). -/
def YReq.eff (r : YReq) : Nat := min r.priv (ceiling r.path)

/-- A COMMIT, or a WRITE of ARB_COMMIT with go = 1 (R429). -/
def YReq.commit (r : YReq) : Bool := r.op = 5 || (r.op = 2 && r.param = 0x2FFF && bit (bytesNat r.payload) 0)

/-- A request from its header and its payload (R425). -/
def yreqOf (path : Path) (tag : Nat) (ic : Bool) (hdr : Nat) (payload : List Byte) : YReq :=
  { no := 0, path := path, tag := tag, ic := ic, op := fld hdr 15 8, priv := fld hdr 17 16, active := bit hdr 19, param := fld hdr 79 64,
    index := fld hdr 127 96, offset := fld hdr 159 128, want := fld hdr 175 160, reqId := BitVec.ofNat 32 (fld hdr 63 32), payload := payload,
    jseq := none, go := false }

/-- The header of a request is malformed: its version, or a length that the bytes do not bear out (R428). -/
def badFrame (hdr : Nat) (n : Nat) : Bool := fld hdr 7 0 ≠ 1 || fld hdr 95 80 ≠ n || decide (1024 < fld hdr 95 80)

/-- Size of a BLOB that READ_BLOCK reads at byte offsets. -/
def State.blobSize (s : State) (p i : Nat) : Nat := if p = 0x7202 then (s.unitBlob i).length else (s.blobBytes p i 0 0).1

/-- Largest size a CAPACITY_MANIFEST can have: 64 extents and 65,536 tier entries (R306). -/
def manifestMax : Nat := 41024 + 32 * 64 + 8 * 65536

/-- The length, the offset or the bytes asked for do not fit the operation and its parameter (R426, R427). -/
def State.badLength (s : State) (d : PDesc) (r : YReq) : Bool :=
  let wide := d.size = 0 || decide (1024 < d.size)
  let n := r.payload.length
  match r.op with
  | 1 => wide || n ≠ 0
  | 2 => wide || n ≠ d.size
  | 3 => n ≠ 0 || r.want = 0 || decide (1024 < r.want) ||
    (if d.num = 0xF002 then r.offset ≠ 0
     else if d.num = 0x7204 then r.offset ≠ 0 || r.want % 80 ≠ 0 || decide (960 < r.want)
     else if wide then decide (s.blobSize d.num r.index < r.offset + r.want)
     else r.offset ≠ 0 || r.want % d.size ≠ 0 || decide (d.count < r.index + r.want / d.size))
  | 4 => n = 0 ||
    (if d.num = 0xF002 then r.offset ≠ 0
     else if d.num = 0x3100 then decide (manifestMax < r.offset + n)
     else wide || r.offset ≠ 0 || n % d.size ≠ 0 || decide (d.count < r.index + n / d.size))
  | 7 => n ≠ 8
  | _ => n ≠ 0

/-! ### Privilege and the security matrix (R423, R439 to R441) -/

/-- The values a write carries for its elements, in order. -/
def YReq.values (r : YReq) (size : Nat) : List Nat :=
  if size = 0 then [] else (List.range (r.payload.length / size)).map (fun i => bytesAt r.payload (size * i) size)

/-- A request concerns a TRIGGER element whose action is QUENCH: by the value it writes, or by the element it reads (R389, R404). -/
def State.quenchTrigger (s : State) (r : YReq) : Bool :=
  r.param = 0x6010 && (if writeOp r.op then (r.values 8).any (fun v => fld v 62 61 = 0)
    else (r.op = 1 || r.op = 3) && (List.range (max 1 (r.want / 8))).any (fun i => fld (s.trigger (r.index + i)) 62 61 = 0))

/-- The debug features of R440: 0 none, 1 counters, 2 trace, 3 Quench state readout, 4 bank content readout, 5 CHECK_ACCESS, 6 SERVICE
parameters. -/
def State.feature (s : State) (d : PDesc) (r : YReq) : Nat :=
  if 5 ≤ r.op ∧ r.op ≠ 8 then 0
  else if isCounter d.num || d.num = 0x6001 then 1
  else if s.quenchTrigger r then 3
  else if [0x6000, 0x6004, 0x6005, 0x6006, 0x6010, 0x6040, 0x6050, 0x6051, 0x6060, 0x6061, 0x6062, 0x6063].contains d.num then 2
  else if [0x7200, 0x7201, 0x7202].contains d.num then 3
  else if [0x7203, 0x7204].contains d.num || (d.num = 0xF002 && r.op = 3) then 4
  else if [0x7100, 0x7101].contains d.num then 5
  else if d.priv = 2 then 6
  else 0

/-- The privilege an operation needs (R389, R404, R429, R432, R433, R435). -/
def State.needs (s : State) (d : PDesc) (r : YReq) : Nat :=
  if r.op = 6 then 0
  else if r.op = 5 ∨ r.op = 7 then 1
  else if s.quenchTrigger r then 2
  else d.priv

/-- A CHK_CMD that the matrix refuses (R441). -/
def State.chkRefused (s : State) (d : PDesc) (r : YReq) : Bool :=
  d.num = 0x7100 && writeOp r.op && (r.values 8).any (fun v => s.chkDenied (fld v 55 52) (fld v 51 44) (fld v 43 39) (fld v 38 0))

/-- A request is DENIED: below the privilege it needs, or, for what needs SERVICE outside DEVELOP, without debug authorisation (R423, R441). -/
def State.denied (s : State) (d : PDesc) (r : YReq) : Bool :=
  decide (r.eff < s.needs d r) || (decide (3 ≤ s.feature d r) && s.mgmt.life ≠ 1 && !s.mgmt.auth) || s.chkRefused d r

/-- Elements that lie in fast-clock units or in tier 1, and cannot be read by YPP while these are stopped (R412). -/
def unitHeld (p : Nat) : Bool :=
  isCounter p || (decide (0x8000 ≤ p) && decide (p < 0xF000)) || [0x3300, 0x5302, 0x5303, 0x6005, 0x6040, 0x7100, 0xF002].contains p

/-- What a quenched block serves: reads of what the Hearth holds and of the Quench parameters, and the write of QUENCH_MEM_GA (R412, R418). -/
def quenchServes (r : YReq) : Bool := ((r.op = 1 || r.op = 3) && !unitHeld r.param) || (r.op = 2 && r.param = 0x7203)

/-- What a LEAVING member serves: reads and DESCRIBE, area 0xFxxx, and the RELOAD of START_CTL (R430). -/
def leavingServes (r : YReq) : Bool :=
  r.op = 1 || r.op = 3 || r.op = 6 || decide (0xF000 ≤ r.param) || (r.op = 2 && r.param = 0x1020 && fld (bytesNat r.payload) 59 56 = 2)

/-- A PRIV_DENIED record, at most one per path in a millisecond (R438). -/
def State.sayDenied (s : State) (r : YReq) (status : Nat) : State :=
  let k := pathCode r.path
  let now := s.clk.ts.toNat
  if s.mgmt.denied.any (fun (e : Nat × Nat) => e.1 = k && decide (now < e.2 + msNs)) then s
  else
    ({ s with mgmt := { s.mgmt with denied := s.mgmt.denied.filter (fun (e : Nat × Nat) => e.1 ≠ k) ++ [(k, now)] } }).raise
      { code := 0x18, unit := uHearth, obj := k, aux := pack [(31, 16, r.param), (15, 8, r.op), (7, 0, status)] }

/-! ### Arrival: stage A (R424, R428, R429) -/

/-- Parameters whose writes are not journaled (R340). -/
def unlogged (p : Nat) : Bool :=
  (decide (0x5300 ≤ p) && decide (p ≤ 0x5303)) || (decide (0x5500 ≤ p) && decide (p ≤ 0x5502)) || p = 0x6001 ||
    (decide (0x7200 ≤ p) && decide (p ≤ 0x7204)) || decide (0xF000 ≤ p)

/-- A request is journaled (R340). -/
def State.logs (s : State) (r : YReq) : Bool :=
  writeOp r.op && !unlogged r.param && s.mgmt.phase = 7 && s.quench.st ≠ 2 && s.mirror.st ≠ .leaving

/-- Operations held in the host command queue (R340). -/
def State.hostQueue (s : State) : Nat := (s.mgmt.reqs.filter (fun r => writeOp r.op && !r.ran)).length

/-- Stage A: 0, or the first check that fails (R428). -/
def State.stageA (s : State) (bad : Bool) (r : YReq) : Nat :=
  let free := r.op = 5 || r.op = 7
  if bad then 0x01
  else match pdesc r.param with
    | none => if free then (if r.payload.length = (if r.op = 7 then 8 else 0) then (if r.eff < 1 then 0x06 else 0) else 0x05) else 0x02
    | some d =>
      if !free && decide (d.count ≤ r.index) then 0x03
      else if r.op = 0 || decide (7 < r.op) || (!free && writeOp r.op && d.roAt r.index) then 0x04
      else if s.badLength d r then 0x05
      else if s.denied d r then 0x06
      else if s.quench.st = 2 && !quenchServes r then 0x07
      else if writeOp r.op && decide (32 ≤ s.hostQueue) then 0x0C
      else if s.logs r && s.jFull then 0x0D
      else 0

/-- YPP is served: the firmware runs (R453). -/
def State.yppUp (s : State) : Bool := !s.mgmt.por && s.mgmt.fw

/-- The entry of a host command (R339). -/
def YReq.entry (r : YReq) : JCmd :=
  { kind := 1, crc := (crc32 r.payload).toNat,
    arg := pack [(319, 304, r.param), (303, 272, r.index), (271, 264, r.op), (255, 224, r.reqId.toNat), (223, 0, bytesAt r.payload 0 28)] }

/-- Requests that wait for the journal manager enter it in order (R335, R341, R342). -/
def State.logPump : Nat → State → State
  | 0, s => s
  | n + 1, s =>
    match s.mgmt.reqs.find? (fun r => !r.go && r.jseq.isNone) with
    | none => s
    | some r =>
      if !s.jOpen then s
      else State.logPump n ((s.setReq { r with jseq := some s.journal.head }).jAccept r.entry (.host r.no))

/-- A mailbox slot whose operation receives no response is IDLE again. -/
def State.slotDrop (s : State) (p : Path) : State :=
  match p with
  | .mb k => { s with mgmt := { s.mgmt with slots := Tbl.set s.mgmt.slots {} k.val { Tbl.get s.mgmt.slots {} k.val with st := 0 } } }
  | .mctp _ => s

/-- The bytes by which a write-class operation is recorded: its path, its tag and its form, then header and payload (R348). -/
def recorded (path : Path) (tag : Nat) (ic : Bool) (hdr : Nat) (payload : List Byte) : List Byte :=
  natBytes 2 (pathCode path) ++ natBytes 1 tag ++ natBytes 1 (b2n ic) ++ natBytes 32 hdr ++ payload

/-- A request is taken: stage A answers it, or it is held for stage B. `free` tells an operation that a replay presents (R350). -/
def State.takeReq (s : State) (path : Path) (tag : Nat) (ic : Bool) (hdr : Nat) (payload : List Byte) (bad free : Bool) : State :=
  let r := yreqOf path tag ic hdr payload
  let answer := fun (s : State) (st : Nat) => s.sendRsp (r.rsp st [s.sched.result] r.index)
  if s.mirror.st = .leaving && !leavingServes r then s.slotDrop path
  else
    let st := s.stageA bad r
    let outside := !free && s.replaying && writeOp r.op && !(decide (0x7200 ≤ r.param ∧ r.param ≤ 0x7204) || decide (0xF000 ≤ r.param))
    if st = 0x06 then (answer s st).sayDenied r st
    else if st = 0x0D then (answer s st).jSayFull
    else if st ≠ 0 then answer s st
    else if outside then answer s 0x0B
    else
      let s := if writeOp r.op then s.recInput 4 0 0 (recorded path tag ic hdr payload) true else s
      let r := { r with no := s.mgmt.reqNo, go := !s.logs r }
      State.logPump 32 { s with mgmt := { s.mgmt with reqs := s.mgmt.reqs ++ [r], reqNo := s.mgmt.reqNo + 1 } }

/-- Requests held for MCTP sources (R424). -/
def State.mctpHeld (s : State) : List YReq := s.mgmt.reqs.filter (fun r => match r.path with | .mctp _ => true | _ => false)

/-- A request over MCTP that finds 16 held, or its tag outstanding, is answered BUSY (R424). -/
def State.mctpReq (s : State) (eid : Byte) (tag : Nat) (ic : Bool) (hdr : Nat) (payload : List Byte) (bad : Bool) : State :=
  let r := yreqOf (.mctp eid) tag ic hdr payload
  if 16 ≤ s.mctpHeld.length || s.mctpHeld.any (fun q => q.path = .mctp eid && q.tag = tag) then
    (if s.mirror.st = .leaving && !leavingServes r then s else s.sendRsp (r.rsp 0x0C [s.sched.result] r.index))
  else s.takeReq (.mctp eid) tag ic hdr payload bad false

/-- MCTP_MESSAGE: a whole message arrives (R424): of another type or enterprise, or with a failing check, it is discarded. -/
def execMctpMessage (eid : Byte) (tag : Fin 8) (bytes : List Byte) (s : State) : Host.Outcome State Fault Refusal :=
  .next (
    let first := bytesAt bytes 0 1
    let ic := bit first 7
    let body := if ic then bytes.take (bytes.length - 4) else bytes
    let ent := (bytesAt bytes 1 1) * 2^24 + (bytesAt bytes 2 1) * 2^16 + (bytesAt bytes 3 1) * 2^8 + bytesAt bytes 4 1
    if !s.yppUp || first % 128 ≠ 0x7F || ent ≠ s.pv 0x0004 0 || decide (bytes.length < 5) ||
        (ic && bytesAt bytes (bytes.length - 4) 4 ≠ (crc32 body).toNat) then s
    else
      let hdr := bytesNat ((body.drop 5).take 32)
      let payload := body.drop 37
      s.mctpReq eid tag.val ic hdr payload (badFrame hdr payload.length || decide (body.length < 37)))

/-- MB_GO: a mailbox slot's request buffer is submitted, ignored unless the slot is IDLE (R431). -/
def execMbGo (k : Fin 3) (bytes : List Byte) (s : State) : Host.Outcome State Fault Refusal :=
  .next (
    if !s.yppUp || s.mbState k.val ≠ 0 then s
    else
      let hdr := bytesNat (bytes.take 32)
      let len := fld hdr 95 80
      let payload := natBytes (min len 1024) (bytesNat ((bytes.drop 32).take (min len 1024)))
      let s := { s with mgmt := { s.mgmt with slots := Tbl.set s.mgmt.slots {} k.val { Tbl.get s.mgmt.slots {} k.val with st := 1, req := bytes } } }
      s.takeReq (.mb k) 0 false hdr payload (badFrame hdr len) false)

/-- MB_RSPACK: the response has been read (R431). -/
def execMbRspack (k : Fin 3) (s : State) : Host.Outcome State Fault Refusal :=
  .next (if s.mbState k.val = 2 then { s with mgmt := { s.mgmt with slots := Tbl.set s.mgmt.slots {} k.val { Tbl.get s.mgmt.slots {} k.val with st := 0, rsp := [] } } }
    else s)

/-- MB_EVACK: the event buffer has been read, and the next event is loaded (R431, R434). -/
def execMbEvack (k : Fin 3) (s : State) : Host.Outcome State Fault Refusal :=
  .next { s with mgmt := { s.mgmt with subs := s.mgmt.subs.map (fun b => if b.path = .mb k then Sub.settle { b with queue := b.queue.drop 1 } else b) } }

/-! ### Execution: stage B -/

/-- A WRITE of START_CTL (R452): pwr and auto, and a GO or RELOAD that START_GO or START_RELOAD carries out. -/
def State.startWrite (s : State) (v : Nat) : State × Nat :=
  let keep := fun (go re : Bool) => { s with mgmt := { s.mgmt with pwr := bit v 1, auto := bit v 0, goWait := go || s.mgmt.goWait, reloadWait := re || s.mgmt.reloadWait } }
  match fld v 59 56 with
  | 0 => (keep false false, 0)
  | 1 => if s.mgmt.phase = 2 then (keep true false, 0) else (s, 0x0B)
  | 2 => if s.mgmt.phase = 7 ∨ s.mgmt.phase = 8 then (keep false true, 0) else (s, 0x0B)
  | _ => (s, 0x0B)

/-- A WRITE of one element (R422, R428). -/
def State.runWrite (s : State) (d : PDesc) (i v : Nat) : State × Nat := if d.num = 0x1020 then s.startWrite v else s.writeElem d i v

/-- Step 1 of WRITE_BLOCK: the checks over every element; the first that fails, with its status (R427). -/
def State.blockCheck (s : State) (d : PDesc) (i : Nat) : List Nat → Option (Nat × Nat)
  | [] => none
  | v :: t =>
    if s.asleepElem d.num i then some (i, 0x08)
    else if s.notNow d i v then some (i, 0x09)
    else if outOfRange d i v then some (i, 0x0A)
    else s.blockCheck d (i + 1) t

/-- Step 2: elements in ascending order, up to one that is refused. -/
def State.blockWrite (s : State) (d : PDesc) (i : Nat) : List Nat → State × Nat × Nat
  | [] => (s, 0, i)
  | v :: t =>
    let r := s.runWrite d i v
    if r.2 ≠ 0 then (r.1, 0x0B, i) else r.1.blockWrite d (i + 1) t

/-- A WRITE_BLOCK of CAPACITY_MANIFEST stages its bytes; the one that writes the last byte installs it (R310, R427). -/
def State.manifestBlock (s : State) (off : Nat) (bs : List Byte) : State × Nat :=
  if !s.noHiveLive then (s, 0x09)
  else
    let old := Tbl.get s.mgmt.blob [] 0x3100
    let new := (old ++ List.replicate (off - old.length) 0).take off ++ bs ++ old.drop (off + bs.length)
    let total := bytesAt new 4 4
    let keep := fun (s : State) (b : List Byte) => show State from { s with mgmt := { s.mgmt with blob := Tbl.set s.mgmt.blob [] 0x3100 b } }
    if off + bs.length ≠ total then (keep s new, 0)
    else
      let r := s.manifestWrite (new.take total)
      (keep r.1 [], if r.2 then 0 else 0x0B)

/-- DESCRIBE's 40 bytes (R432). -/
def describe (d : PDesc) (i : Nat) : List Byte :=
  let acc := match d.acc with
    | .ro => 0
    | .rw => 1
    | .wo => 2
    | .rws => 3
  let blob := d.ty = 9
  natBytes 1 d.ty ++ natBytes 1 acc ++ natBytes 1 d.priv ++ natBytes 1 d.eff ++ natBytes 4 d.count ++ natBytes 4 d.size ++ natBytes 4 0 ++
    natBytes 8 (if blob then 0 else pdefault d.num i) ++ natBytes 8 (if blob then 0 else d.lo) ++ natBytes 8 (if blob then 0 else d.hi)

/-- A SUBSCRIBE replaces, ends or adds the subscription of a path; false beyond 16 subscribers (R433). -/
def State.subscribe (s : State) (p : Path) (v : Nat) : State × Bool :=
  let w := dwordOf [(31, 16, fld v 31 16), (9, 1, fld v 9 1)]
  let b : Sub := { path := p, word := w, seq := 0, queue := [], lost := 0 }
  let others := s.mgmt.subs.filter (fun b => b.path ≠ p)
  if w = 0 then ({ s with mgmt := { s.mgmt with subs := others } }, true)
  else if s.mgmt.subs.any (fun b => b.path = p) then ({ s with mgmt := { s.mgmt with subs := s.mgmt.subs.map (fun c => if c.path = p then b else c) } }, true)
  else if 16 ≤ s.mgmt.subs.length then (s, false)
  else ({ s with mgmt := { s.mgmt with subs := s.mgmt.subs ++ [b] } }, true)

/-- A READ_BLOCK: whole elements, or bytes of a BLOB (R427). -/
def State.readBlock (s : State) (d : PDesc) (r : YReq) : State × Nat × List Byte :=
  if d.num = 0xF002 then s.testReadBlock r.want
  else if d.num = 0x7202 then (if s.quench.st = 2 then (s, 0, ((s.unitBlob r.index).drop r.offset).take r.want) else (s, 0x09, []))
  else if d.num = 0x7204 then (if s.quench.st = 2 then let m := s.memRead (r.want / 80); (m.1, 0, m.2) else (s, 0x09, []))
  else if d.size = 0 ∨ 1024 < d.size then (s, 0, (s.blobBytes d.num r.index r.offset r.want).2)
  else (s, 0, ((List.range (r.want / d.size)).map (fun i => natBytes d.size (s.elem d.num (r.index + i) r.active))).flatten)

/-- What an operation other than COMMIT does: the state, the status, the answer's payload and its index (R426 to R433). -/
def State.perform (s : State) (d : PDesc) (r : YReq) : State × Nat × List Byte × Nat :=
  match r.op with
  | 1 => (s, 0, natBytes d.size (s.elem d.num r.index r.active), r.index)
  | 2 => let x := s.runWrite d r.index (bytesNat r.payload); (x.1, x.2, [], r.index)
  | 3 => let x := s.readBlock d r; (x.1, x.2.1, x.2.2, r.index)
  | 4 =>
    if d.num = 0xF002 then let x := s.testWriteBlock r.payload; (x.1, x.2, [], r.index)
    else if d.num = 0x3100 then let x := s.manifestBlock r.offset r.payload; (x.1, x.2, [], r.index)
    else match s.blockCheck d r.index (r.values d.size) with
      | some e => (s, e.2, [], e.1)
      | none => let x := s.blockWrite d r.index (r.values d.size); (x.1, x.2.1, [], if x.2.1 = 0 then r.index else x.2.2)
  | 6 => (s, 0, describe d r.index, r.index)
  | _ => let x := s.subscribe r.path (bytesNat r.payload); (x.1, if x.2 then 0 else 0x0B, [], r.index)

/-- The parameter of a request; COMMIT and SUBSCRIBE name none, and take ARB_COMMIT's and SUBSCRIBERS' place. -/
def YReq.desc (r : YReq) : Option PDesc := if r.op = 5 then pdesc 0x2FFF else if r.op = 7 then pdesc 0x7020 else pdesc r.param

/-- Stage B of an operation other than COMMIT: DENIED once more, a wipe, and the operation (R428, R437, R438). -/
def State.runOp (s : State) (r : YReq) : State × Nat × List Byte × Nat :=
  match r.desc with
  | none => (s, 0x02, [], r.index)
  | some d =>
    if s.denied d r then (s.sayDenied r 0x06, 0x06, [], r.index)
    else if s.mgmt.wipe && s.feature d r ≠ 0 then (s, 0x09, [], r.index)
    else
      let x := s.perform d r
      (if x.2.1 = 0x06 then x.1.sayDenied r 0x06 else x.1, x.2)

/-- The commit a request asked for runs. -/
def State.committing (s : State) (r : YReq) : Bool := match s.sched.commit with
  | some c => c.req = some r.no
  | none => false

/-- The order of R429: of one path in arrival order, a read behind every earlier write of its path, a write behind every earlier write. -/
def State.mayRun (s : State) (r : YReq) : Bool :=
  r.go && !r.ran && !s.committing r && s.mgmt.reqs.all (fun q =>
    decide (r.no ≤ q.no) || s.committing q ||
      ((q.path ≠ r.path || q.ran) && (!writeOp r.op || !writeOp q.op || q.ran) && (writeOp r.op || q.path ≠ r.path || !writeOp q.op || q.commit)))

/-- The operation of a path that runs next, if it has the code of a row. -/
def State.nextReq (s : State) (p : Path) (op : Nat) : Option YReq := s.mgmt.reqs.find? (fun r => r.path = p && r.op = op && s.mayRun r)

/-- A COMMIT: refused while one is pending and before the clock root runs, else started (R71, R429, R455). -/
def State.runCommit (s : State) (r : YReq) : State :=
  let done := fun (s : State) (st : Nat) => s.finish r.no st [s.sched.result] r.index
  match r.desc with
  | none => done s 0x02
  | some d =>
    if s.denied d r then done (s.sayDenied r 0x06) 0x06
    else if s.sched.commit.isSome || !s.clk.rootOn then done s 0x09
    else s.commitGo (some r.no)

/-- Runs the next operation of a path that has the code of a row. -/
def State.runNext (s : State) (p : Path) (op : Nat) : State :=
  if !s.yppUp then s
  else match s.nextReq p op with
    | none => s
    | some r =>
      if r.commit then s.runCommit r
      else
        let x := s.runOp r
        x.1.finish r.no x.2.1 x.2.2.1 x.2.2.2

/-- YPP_READ. -/
def execYppRead (p : Path) (s : State) : Host.Outcome State Fault Refusal := .next (s.runNext p 1)
/-- YPP_WRITE. -/
def execYppWrite (p : Path) (s : State) : Host.Outcome State Fault Refusal := .next (s.runNext p 2)
/-- YPP_READ_BLOCK. -/
def execYppReadBlock (p : Path) (s : State) : Host.Outcome State Fault Refusal := .next (s.runNext p 3)
/-- YPP_WRITE_BLOCK. -/
def execYppWriteBlock (p : Path) (s : State) : Host.Outcome State Fault Refusal := .next (s.runNext p 4)
/-- YPP_COMMIT. -/
def execYppCommit (p : Path) (s : State) : Host.Outcome State Fault Refusal := .next (s.runNext p 5)
/-- YPP_DESCRIBE. -/
def execYppDescribe (p : Path) (s : State) : Host.Outcome State Fault Refusal := .next (s.runNext p 6)
/-- YPP_SUBSCRIBE. -/
def execYppSubscribe (p : Path) (s : State) : Host.Outcome State Fault Refusal := .next (s.runNext p 7)

/-! ### Blocks with rows of their own -/

/-- A whole operation of a path, with the path's privilege and no identifier: its arrival, its checks and its answer. -/
def State.whole (s : State) (p : Path) (op param idx off want : Nat) (payload : List Byte) : State :=
  let hdr := pack [(7, 0, 1), (15, 8, op), (17, 16, ceiling p), (79, 64, param), (95, 80, payload.length), (127, 96, idx), (159, 128, off), (175, 160, want)]
  let r := yreqOf p 0 false hdr payload
  let busy := match p with
    | .mb k => s.mbState k.val ≠ 0
    | .mctp _ => false
  if !s.yppUp || busy then s
  else if s.mirror.st = .leaving && !leavingServes r then s
  else
    let st := s.stageA (badFrame hdr payload.length) r
    if st ≠ 0 then (if st = 0x06 then s.sayDenied r st else s).sendRsp (r.rsp st [] r.index)
    else
      let s := if writeOp op then s.recInput 4 0 0 (recorded p 0 false hdr payload) true else s
      let x := s.runOp r
      x.1.sendRsp (r.rsp x.2.1 x.2.2.1 x.2.2.2)

/-- TEST_READ_BLOCK: a READ_BLOCK of TEST_DATA (R315). -/
def execTestReadBlock (p : Path) (want : Nat) (s : State) : Host.Outcome State Fault Refusal := .next (s.whole p 3 0xF002 0 0 want [])
/-- TEST_WRITE_BLOCK: a WRITE_BLOCK of TEST_DATA. -/
def execTestWriteBlock (p : Path) (bytes : List Byte) (s : State) : Host.Outcome State Fault Refusal := .next (s.whole p 4 0xF002 0 0 0 bytes)
/-- QUENCH_UNIT_READ: a READ_BLOCK of QUENCH_UNIT (R416). -/
def execQuenchUnitRead (p : Path) (u : UnitId) (off want : Nat) (s : State) : Host.Outcome State Fault Refusal :=
  .next (s.whole p 3 0x7202 u.val off want [])
/-- QUENCH_MEM_READ: a READ_BLOCK of QUENCH_MEM (R418). -/
def execQuenchMemRead (p : Path) (want : Nat) (s : State) : Host.Outcome State Fault Refusal := .next (s.whole p 3 0x7204 0 0 want [])

end Sys2Proof.Machine
end

