-- ==== Sys2Proof/Machine/Start.lean ====
section
/-!
DEFINITION. Start.lean: resets (R449, R450), the firmware image (R451), the order of start-up and its failures (R452 to R455), the
lifecycle and debug authorisation (R436 to R438), the supply reset (R379) and interrupts (R448).
-/
namespace Sys2Proof.Machine

/-! ### Warm reset (R449, R450) -/

/-- Parameters stored as values that a warm reset returns: TEST_MODE, TEST_GA, TS_NEXT, and the status that fast-clock units
report: T1_TIMING, T1_CHANNEL_STATE, T1_REF_SLOTS, T2_WINDOW_BYTES, CART_LIFE_USED. -/
def returnedParams : List Nat := [0xF000, 0xF001, 0x6063, 0x1105, 0x1106, 0x2400, 0x2401, 0x1144]

/-- A cartridge slot after a warm reset: the state ABSENT and no identity; the pins and what the cartridge stores stay, and with tier 1 kept
the Placement Table, none of whose blocks is moving any more. -/
def Cart.warm (c : Cart) (kept : Bool) : Cart :=
  let place : Tbl Dword := if kept then c.place.map (fun (e : Nat × Dword) => (e.1, BitVec.ofNat 64 (setFld e.2.toNat 37 37 0))) else []
  { present := c.present, linkUp := c.linkUp, store := c.store, storeId := c.storeId, place := place
    from_ := if !place.any (fun (e : Nat × Dword) => plProm e.2) then 0 else if c.from_ = 0 then c.serial else c.from_ }

/-- The fast-clock units reset. `kept` tells that tier 1 keeps its contents. What is not named returns to its reset value; requests
whose journal entries are left open, and a commit in progress, end without an answer. -/
def State.warm (s : State) (kept : Bool) : State :=
  let lost := fun (r : YReq) => r.jseq.isSome || s.committing r
  let slots := (s.mgmt.reqs.filter lost).foldl (fun (t : Tbl Slot) r => match r.path with
    | .mb k => Tbl.set t {} k.val { Tbl.get t {} k.val with st := 0 }
    | .mctp _ => t) s.mgmt.slots
  let kp := s.mgmt.kept && kept
  let effective := (listed s.mgmt.active 0x2200).filter (fun (e : Nat × Nat) => e.2 ≠ 0)
  let vals := s.mgmt.vals.filter (fun (e : Nat × Nat) => !returnedParams.contains (e.1 / 2^24))
  let vals := vals.map (fun (e : Nat × Nat) => if e.1 / 2^24 = 0x6010 then (e.1, setFld e.2 58 58 0) else e)
  { State.reset with
    pending := s.pending
    nextId := s.nextId
    free := s.free
    clk := { s.clk with rootOn := false, droop := 0, droopAt := 0, lag16 := 0, tsLoad := none }
    sched := { effective := effective }
    mem := { t1 := if kp then s.mem.t1 else [], t2 := s.mem.t2 }
    tiers := { carts := s.tiers.carts.map (fun (e : Nat × Cart) => (e.1, e.2.warm kp)), hpRst := kp && s.tiers.hpRst }
    err := { s.err with
      log := [], walkers := [], wbs := [], retire := 0, chkCmd := 0, chkData := 0, genLoad := s.err.gen, changed := false }
    mirror := { region := s.mirror.region.map (fun (e : Nat × Quad) => (e.1, withMrState e.2 0))
                reserve := s.mirror.reserve.map (fun (e : Nat × Quad) => (e.1, withMrState e.2 0)) }
    journal := { own := if kp then s.journal.own else [], partner := if kp then s.journal.partner else []
                 recBuf := if kp then s.journal.recBuf else [] }
    power := s.power
    trace := { mode := s.trace.mode, buffer := if kp then s.trace.buffer else [] }
    mgmt := { s.mgmt with
      vals := vals, reqs := s.mgmt.reqs.filter (fun r => !lost r), slots := slots, wipe := false, kept := kp, goWait := false, reloadWait := false, idWrote := false
      phase := if s.mgmt.fw then 2 else s.mgmt.phase } }

/-- GO is implied on entry to CONFIG (R452). -/
def State.goImplied (s : State) (b : Bool) : State := { s with mgmt := { s.mgmt with goWait := s.mgmt.goWait || (b && s.mgmt.phase = 2) } }

/-- wrst_n_i is asserted. `fclkRan` tells that fclk_i runs throughout. -/
def execWarmReset (fclkRan : Bool) (s : State) : Host.Outcome State Fault Refusal :=
  .next (
    if s.mgmt.por || s.mgmt.wrst then s
    else
      let t := s.warm fclkRan
      { t with clk := { t.clk with fclkOn := s.clk.fclkOn && fclkRan }, mgmt := { t.mgmt with wrst := true } })

/-- wrst_n_i is released: start-up resumes, in CONFIG with GO implied where auto is 1. -/
def execWarmResetRelease (s : State) : Host.Outcome State Fault Refusal :=
  .next (if s.mgmt.por || !s.mgmt.wrst then s else ({ s with mgmt := { s.mgmt with wrst := false } }).goImplied s.mgmt.auto)

/-! ### Power-on reset -/

/-- por_n_i is asserted: everything resets but what the cartridges hold and the levels of their pins. -/
def State.powerOn (s : State) : State :=
  { State.reset with
    pending := s.pending
    nextId := s.nextId
    free := s.free
    mem := { t2 := s.mem.t2 }
    tiers := { carts := s.tiers.carts.map (fun (e : Nat × Cart) =>
      (e.1, { present := e.2.present, linkUp := e.2.linkUp, store := e.2.store, storeId := e.2.storeId : Cart })) } }

/-- POR_ASSERT. -/
def execPorAssert (s : State) : Host.Outcome State Fault Refusal := .next s.powerOn

/-- The lifecycle state of a level of lifecycle_i: 0b00 acts as SEALED (R436). -/
def lifeOf (v : Nat) : Nat := if v = 0 then 2 else v

/-- por_n_i is released: the Hearth ROM runs and takes the lifecycle (R437, R453). -/
def execPorRelease (lifecycle : BitVec 2) (auth : Bool) (s : State) : Host.Outcome State Fault Refusal :=
  .next (
    if !s.mgmt.por then s
    else { s with mgmt := { s.mgmt with por := false, life := lifeOf lifecycle.toNat, seen := lifecycle.toNat, auth := auth } })

/-- VDD_AON at its reset level resets the block as por_n_i does; a fast rail at its reset level resets the fast-clock units, which start again,
GO implied, when every rail is back above the recovery level (R379, R452). -/
def execSupplyReset (r : RailId) (s : State) : Host.Outcome State Fault Refusal :=
  .next (
    if s.mgmt.por then s
    else if r.val = 3 then
      let t := s.powerOn
      { t with mgmt := { t.mgmt with por := false, life := lifeOf s.mgmt.seen, seen := s.mgmt.seen, auth := s.mgmt.auth } }
    else
      let t := (s.warm s.clk.fclkOn).goImplied true
      ({ t with mgmt := { t.mgmt with railLow := true } }).raise { code := 0x87, unit := uHearth, obj := r.val })

/-! ### Lifecycle and debug authorisation (R436 to R438) -/

/-- Subscribers are told that LIFECYCLE has changed (R434). -/
def State.lifeNotice (s : State) : State := s.notice 0x7000 0 (natBytes 4 s.lifecycleReg)

/-- TEST_MODE is cleared where the matrix no longer allows it. -/
def State.testRecheck (s : State) : State := if s.mgmt.life = 1 || s.mgmt.auth then s else s.setPv 0xF000 0 0

/-- A lifecycle change is taken and counted. -/
def State.lifeTake (s : State) (n : Nat) : State :=
  { s with mgmt := { s.mgmt with life := n, changes := if s.mgmt.changes = BitVec.allOnes 16 then s.mgmt.changes else s.mgmt.changes + 1 } }

/-- A stable change of lifecycle_i: taken, taken through the wipe, or not taken; each is logged. -/
def execLifecycleChange (v : BitVec 2) (s : State) : Host.Outcome State Fault Refusal :=
  .next (
    if s.mgmt.por || v.toNat = s.mgmt.seen then s
    else
      let old := s.mgmt.life
      let new := lifeOf v.toNat
      let s := { s with mgmt := { s.mgmt with seen := v.toNat } }
      let taken := (old = 1 && new = 2) || (old ≠ 3 && new = 3)
      let s := if !taken then s else if new = 3 then (s.warm false).lifeTake 3 else s.lifeTake new
      ((s.testRecheck).raise { code := 0x19, unit := uHearth, obj := old, late := new, count := b2n taken }).lifeNotice)

/-- A stable change of dbg_auth_i. Operations not yet run are checked again when they run. -/
def execDbgAuthChange (v : Bool) (s : State) : Host.Outcome State Fault Refusal :=
  .next (if s.mgmt.por || v = s.mgmt.auth then s else ({ s with mgmt := { s.mgmt with auth := v } }).testRecheck.lifeNotice)

/-! ### The image (R451) and the first phases -/

/-- START_FAIL: the phase and the cause, whose coding the spec leaves open. Causes: 1 the ROM check, 2 the image, 3 fclk_i, 4 no stack, 5 no
room for an extent. -/
def State.startFail (s : State) (phase cause : Nat) : State :=
  ({ s with mgmt := { s.mgmt with step := phase, code := 0x1A } }).raise
    { code := 0x1A, unit := uHearth, obj := phase, aux := (Config.causeCode 0x1A cause).toNat }

/-- Start-up ends in FAILED. -/
def State.startFailed (s : State) (phase cause : Nat) : State :=
  let s := s.startFail phase cause
  ({ s with mgmt := { s.mgmt with phase := 8 } }).irq 2

/-- In IMAGE an accepted image starts: its version is published, and CONFIG begins. -/
def State.fwStart (s : State) : State :=
  if s.mgmt.phase = 1 && s.mgmt.imgSt = 2 then
    { s with mgmt := { s.mgmt with version := BitVec.ofNat 64 (bytesAt s.mgmt.image 0 8), fw := true, phase := 2 } }
  else s

/-- The ROM self-check ends. -/
def execRomCheckDone (ok : Bool) (s : State) : Host.Outcome State Fault Refusal :=
  .next (
    if s.mgmt.por || s.mgmt.phase ≠ 0 then s
    else if ok then ({ s with mgmt := { s.mgmt with phase := 1 } }).fwStart
    else s.startFailed 0 1)

/-- BEGIN with a size of 64 B or more. -/
def execImageBegin (size : BitVec 20) (s : State) : Host.Outcome State Fault Refusal :=
  .next (
    if s.mgmt.por || size.toNat < 64 then s
    else { s with mgmt := { s.mgmt with imgSt := 1, imgSize := size.toNat, image := [] } })

/-- An IMG_DATA write; bytes beyond the size are ignored. -/
def execImageData (v : Dword) (s : State) : Host.Outcome State Fault Refusal :=
  .next (
    if s.mgmt.por || s.mgmt.imgSt ≠ 1 then s
    else { s with mgmt := { s.mgmt with image := (s.mgmt.image ++ natBytes 8 v.toNat).take s.mgmt.imgSize } })

/-- The image is whole: its size and its CRC match its header. -/
def State.imageGood (s : State) : Bool :=
  let b := s.mgmt.image
  b.length = s.mgmt.imgSize && bytesAt b 8 4 = s.mgmt.imgSize && bytesAt b 12 4 = (crc32 (b.drop 16)).toNat

/-- END: the image is accepted or refused. -/
def execImageEnd (fwOk : Bool) (s : State) : Host.Outcome State Fault Refusal :=
  .next (
    if s.mgmt.por || s.mgmt.imgSt ≠ 1 then s
    else if fwOk && s.imageGood then ({ s with mgmt := { s.mgmt with imgSt := 2 } }).fwStart
    else
      let s := { s with mgmt := { s.mgmt with imgSt := 3 } }
      if s.mgmt.phase ≤ 1 then s.startFail s.mgmt.phase 2 else s)

/-- IMG_CTL as read (R451). -/
def State.imgCtl (s : State) : Nat := pack [(63, 60, s.mgmt.imgSt), (19, 0, s.mgmt.imgSize)]

/-! ### GO and RELOAD (R452, R453) -/

/-- The domains that POWER brings ON wait for their power-up, each Hive's logic before its segments and stores. -/
def State.wakeAll (s : State) : State :=
  let dom : Tbl Domain := ((List.range 3584).filter (fun k => !s.mgmt.pwr || k % 14 = 0)).map (fun k => (k, { st := .cold, target := .on, phase := .queued }))
  ({ s with hives := { s.hives with dom := dom } }).admitWakes

/-- GO: fclk_i is checked, the clock root starts with count 0, POWER and TIER1 begin. -/
def State.go (s : State) (fclk : Bool) : State :=
  if s.mgmt.por || s.mgmt.phase ≠ 2 || s.mgmt.wrst || s.mgmt.railLow then s
  else
    let s := { s with mgmt := { s.mgmt with goWait := false } }
    if !fclk then ({ s with clk := { s.clk with fclkOn := false } }).startFailed 3 3
    else
      let c := s.pv 0x4000 0
      ({ s with
        clk := { s.clk with rootOn := true, fclkOn := true, count0 := s.clk.now }
        sched := { s.sched with wheel0 := s.clk.now }
        tiers := { s.tiers with trainReq := true, hpRst := true }
        power := { s.power with scale := [], need := [], cap0 := c, capNow := c, capPend := none }
        mgmt := { s.mgmt with phase := 3, phaseAt := s.clk.ts.toNat } }).recStart.wakeAll

/-- START_GO. -/
def execStartGo (fclk : Bool) (s : State) : Host.Outcome State Fault Refusal := .next (s.go fclk)

/-- RELOAD: a warm reset, and the image starts anew from IMAGE. -/
def State.reload (s : State) : State :=
  if s.mgmt.por || (s.mgmt.phase ≠ 7 && s.mgmt.phase ≠ 8) then s
  else
    let t := s.warm s.clk.fclkOn
    ({ t with mgmt := { t.mgmt with phase := 1, fw := false } }).fwStart.goImplied s.mgmt.auto

/-- START_RELOAD. -/
def execStartReload (s : State) : Host.Outcome State Fault Refusal := .next s.reload

/-! ### Tier-1 bring-up (R247, R251, R254, R259, R453, R454) -/

/-- A stack may still report: training runs and it has neither succeeded nor failed. -/
def State.training (s : State) (k : Nat) : Bool :=
  s.clk.rootOn && s.tiers.trainReq && !s.tiers.ready.contains k && !s.tiers.failedSt.contains k

/-- A stack fails as a whole: its channels are failed, and T1_STACK_FAIL tells the stack and the step, whose coding the spec leaves open. Steps: 1
training, 2 the geometry, 3 the on-die ECC. -/
def State.stackFail (s : State) (k step : Nat) : State :=
  let s := { s with tiers := { s.tiers with failedSt := addOnce s.tiers.failedSt k }, mgmt := { s.mgmt with code := 0x4D } }
  let s := (List.range 32).foldl (fun s c => s.failChannel k c) s
  s.raise { code := 0x4D, unit := uT1 k, obj := k, aux := (Config.causeCode 0x4D step).toNat }

/-- Merges listed entries over a table; both rise by key. -/
def mergeOver : Nat → Tbl Nat → Tbl Nat → Tbl Nat
  | 0, new, _ => new
  | _ + 1, [], old => old
  | _ + 1, new, [] => new
  | f + 1, (j, v) :: new, (k, w) :: old =>
    if j < k then (j, v) :: mergeOver f new ((k, w) :: old)
    else if k < j then (k, w) :: mergeOver f ((j, v) :: new) old
    else (j, v) :: mergeOver f new old

/-- The REF pattern of every channel wheel (R96): n REF entries in a wheel, in shadow and in force. -/
def State.refPattern (s : State) (n : Nat) : State :=
  let half := n / 2
  let one := ((List.range half).map (fun j => 2 * (512 * j / half))).flatMap (fun e => [e, e + 1])
  let all : Tbl Nat := (List.range 256).flatMap (fun w => one.map (fun e => (pkey 0x2500 (1024 * w + e), 0x8000)))
  let m := fun (t : Tbl Nat) => mergeOver (all.length + t.length + 1) all t
  { s with mgmt := { s.mgmt with active := m s.mgmt.active, shadow := m s.mgmt.shadow } }

/-- Once every stack is ready or failed, the REF pattern is written. -/
def State.trainEnd (s : State) : State :=
  if s.tiers.ready.length + s.tiers.failedSt.length = 8 then (s.refPattern (s.pv 0x2400 0)) else s

/-- A stack's training ends: its channels that failed are failed, its timing and refresh requirement are published. -/
def execT1TrainDone (k : StackId) (r : TrainResult) (s : State) : Host.Outcome State Fault Refusal :=
  .next (
    if !s.training k.val then s
    else if !r.geometry then (s.stackFail k.val 2).trainEnd
    else if !r.onDieEcc then (s.stackFail k.val 3).trainEnd
    else
      let s := (((r.timing.take 10).zipIdx).foldl (fun s e => s.setPv 0x1105 e.2 (e.1 % 2^16)) s)
      let s := s.setPv 0x2400 0 (max (s.pv 0x2400 0) (min 1024 (r.refSlots + r.refSlots % 2)))
      let s := { s with tiers := { s.tiers with ready := addOnce s.tiers.ready k.val } }
      let s := (List.range 32).foldl (fun s c => if r.failMask.getLsbD c then s.failChannel k.val c else s) s
      s.trainEnd)

/-- A stack has not finished training within T1_TRAIN_MS. -/
def execT1TrainTimeout (k : StackId) (s : State) : Host.Outcome State Fault Refusal :=
  .next (
    if s.training k.val && decide (s.mgmt.phaseAt + msNs * s.pv 0x1024 0 ≤ s.clk.ts.toNat) then (s.stackFail k.val 1).trainEnd else s)

/-- Tier 1 is written with initial contents, unless it kept its own. -/
def State.t1Initialise (s : State) : State :=
  if s.mgmt.kept then s
  else { s with
    mem := { s.mem with t1 := [] }
    tiers := { s.tiers with carts := s.tiers.carts.map (fun (e : Nat × Cart) => (e.1, { e.2 with place := [], from_ := 0 })) }
    journal := { s.journal with own := [], partner := [], recBuf := if s.recording then s.journal.recBuf else [] }
    trace := { s.trace with buffer := [] }
    mgmt := { s.mgmt with kept := true } }

/-! ### Reserved extents (R13, R305, R308, R310) -/

/-- The populated ranges of tier 1, as offsets within the tier, rising (R242). -/
def State.t1Ranges (s : State) : List (Nat × Nat) :=
  let rs := ((List.range 32).map s.region).filter (fun r => r.2.2 ≠ 0)
  let ins := fun (l : List (Nat × Nat × Nat)) (r : Nat × Nat × Nat) => l.takeWhile (fun x => x.2.1 < r.2.1) ++ [r] ++ l.dropWhile (fun x => x.2.1 < r.2.1)
  let sorted := rs.foldl ins []
  let p := sorted.foldl (fun (a : Nat × List (Nat × Nat)) r =>
    let off := if a.1 < r.2.1 then [(a.1, r.2.1)] else []
    (r.2.1 + r.2.2, a.2 ++ off ++ [(r.2.1, r.2.1 + (if r.1 = 0 then r.2.2 else r.2.2 / 32 * 31))])) (0, [])
  p.2 ++ (if p.1 < 8192 * granBytes then [(p.1, 8192 * granBytes)] else [])

/-- Takes a range out of ranges. -/
def cutRange (l : List (Nat × Nat)) (c : Nat × Nat) : List (Nat × Nat) :=
  l.flatMap (fun r =>
    if c.2 ≤ r.1 || r.2 ≤ c.1 then [r]
    else (if r.1 < c.1 then [(r.1, c.1)] else []) ++ (if c.2 < r.2 then [(c.2, r.2)] else []))

/-- The data range of a tier-1 page that is retired by itself or waits for it. Banks and channels that are retired take lines of every few pages,
which no extent can avoid (log entry 47). -/
def State.retiredRanges (s : State) : List (Nat × Nat) :=
  (s.err.tierRet.filter (fun e => e.kind = 0)).map (fun e =>
    let o := s.offOf 1 (4096 * e.loc)
    (o, o + (if s.strength 1 (4096 * e.loc) = 0 then 4096 else 62 * 64)))

/-- An extent lies in ranges. -/
def inRanges (l : List (Nat × Nat)) (base len : Nat) : Bool :=
  decide (t1Base ≤ base) && l.any (fun r => decide (r.1 ≤ base - t1Base) && decide (base - t1Base + len ≤ r.2))

/-- Firmware assigns an extent its address, which the spec leaves open: some 4 KiB-aligned place in the ranges. -/
def State.placeExtent (s : State) (l : List (Nat × Nat)) (len : Nat) : Option (Nat × State) :=
  let fit := (l.map (fun r => ((r.1 + 4095) / 4096 * 4096, r.2))).filter (fun r => decide (r.1 + len ≤ r.2))
  if fit.isEmpty then none
  else
    let a := s.draw
    let r := (fit[a.1 % fit.length]?).getD (0, 0)
    let b := a.2.draw
    some (t1Base + r.1 + 4096 * (b.1 % ((r.2 - r.1 - len) / 4096 + 1)), b.2)

/-- The tier-1 extents that firmware needs: kind and length. -/
def State.extentNeeds (s : State) : List (Nat × Nat) :=
  [(1, 65536 * 64)] ++ List.replicate 4 (2, 6291456 * 8) ++ (if s.pv 0x6002 0 = 0 then [] else [(3, s.pv 0x6002 0)]) ++
    (if s.pv 0x5502 0 = 0 then [] else [(4, s.pv 0x5502 0)])

/-- Places one extent: a kept one of its kind and length that is still free of retired pages, or a new one. The state goes with the ranges still
free, the kept extents not yet used and those placed. -/
def placeStep (a : Option (State × List (Nat × Nat) × List Extent × List Extent)) (need : Nat × Nat) :
    Option (State × List (Nat × Nat) × List Extent × List Extent) :=
  match a with
  | none => none
  | some (s, l, old, done) =>
    match old.find? (fun e => e.kind = need.1 && e.len = need.2 && inRanges l e.base e.len) with
    | some e => some (s, cutRange l (e.base - t1Base, e.base - t1Base + e.len), old.erase e, done ++ [e])
    | none => match s.placeExtent l need.2 with
      | some (g, s) => some (s, cutRange l (g - t1Base, g - t1Base + need.2), old, done ++ [{ kind := need.1, tier := 1, base := g, len := need.2 }])
      | none => none

/-- The extents whose place is given: the promotion region and the ledger blocks. -/
def State.fixedExtents (s : State) : List Extent :=
  (if s.pv 0x1153 1 = 0 then [] else [{ kind := 5, tier := 1, base := s.pv 0x1153 0, len := 65536 * s.pv 0x1153 1 }]) ++
    (List.range 4).map (fun k => { kind := 7, tier := 2, base := t2Base + s.cartTop k - 65536, len := 65536 })

/-- The partner's reservation: the one kept, else one of a size the spec leaves open. -/
def State.partnerNeed (s : State) (l : List (Nat × Nat)) : State × Nat :=
  match s.err.extents.find? (fun e => e.kind = 6) with
  | some e => (s, e.len)
  | none =>
    let most := l.foldl (fun a r => max a ((r.2 - (r.1 + 4095) / 4096 * 4096) / 4096)) 0
    let d := s.draw
    (d.2, 4096 * (d.1 % (most + 1)))

/-- PLACE: every extent gets its place, and pages that waited become retired. None where an extent finds no place. -/
def State.placeAll (s : State) : Option State :=
  let fixed := s.fixedExtents
  let taken := (fixed.filter (fun e => e.tier = 1)).map (fun e => (e.base - t1Base, e.base - t1Base + e.len))
  let l := (taken ++ s.retiredRanges).foldl cutRange s.t1Ranges
  match s.extentNeeds.foldl placeStep (some (s, l, s.err.extents.filter (fun e => e.tier = 1), [])) with
  | none => none
  | some (s1, l1, old1, done1) =>
    let p := s1.partnerNeed l1
    match (if p.2 = 0 then some (p.1, l1, old1, done1) else placeStep (some (p.1, l1, old1, done1)) (6, p.2)) with
    | none => none
    | some (s2, _, _, done) =>
      let ext := done ++ fixed
      let ret := s2.err.tierRet.map (fun e => if e.kind = 0 then { e with pend := false } else e)
      let moved := ext ≠ s2.err.extents || ret ≠ s2.err.tierRet
      some { s2 with err := { s2.err with extents := ext, tierRet := ret, changed := s2.err.changed || moved } }

/-- Entries left open from before the reset are marked ABANDONED, and the numbers start at 0 (R339, R345). -/
def State.abandonOld (s : State) : State :=
  let open_ := s.journal.own.filter (fun e => jState e.2 ≠ 0 && !jFinal e.2)
  let own := s.journal.own.map (fun e => if jState e.2 ≠ 0 && !jFinal e.2 then (e.1, finalEntry e.2 jAbandoned 0 false s.clk.ts) else e)
  let s := { s with journal := { s.journal with own := own, head := 0, tail := 0 } }
  open_.foldl (fun s e => s.notice 0x5302 e.1 (natBytes 64 (s.jEntry e.1).toNat)) s

/-! ### The later phases -/

/-- Every domain that POWER concerns is ON. -/
def State.powered (s : State) : Bool :=
  (List.range 256).all (fun h => (List.range 14).all (fun d => (s.mgmt.pwr && d ≠ 0) || (s.domain h d).st = .on))

/-- TIER2 attaches the cartridges that are there, unless the lifecycle is RETURN (R437). -/
def State.attachAll (s : State) : State :=
  (List.range 4).foldl (fun s k => if (s.cart k).present then (s.cartAttach k).1 else s) s

/-- READY: the Hives are released, LIVE where their logic is ON, and the generation is set (R310). -/
def State.releaseHives (s : State) : State :=
  let clock : Tbl HClock := (List.range 256).map (fun h => (h, .live))
  let active : Tbl Nat := if s.clk.now = 0 then [] else (List.range 256).map (fun h => (h, s.clk.now))
  let gen := if s.err.changed then s.err.genLoad + 1 else s.err.genLoad
  let tell := gen ≠ s.err.gen
  let s := { s with
    hives := { s.hives with clock := clock, active := active }
    err := { s.err with gen := gen, genLoad := gen, changed := false }
    mgmt := { s.mgmt with phase := 7 } }
  (if tell then s.notice 0x3100 0 (s.manifest.take 64) else s).irq 2

/-- A start-up phase ends and the next begins. CONFIG ends with the GO that is written or implied; an absent fclk_i is START_GO's to tell. -/
def execStartPhaseEnd (s : State) : Host.Outcome State Fault Refusal :=
  .next (
    let enter := fun (s : State) (p : Nat) => show State from { s with mgmt := { s.mgmt with phase := p, phaseAt := s.clk.ts.toNat } }
    if s.mgmt.por then s
    else if s.mgmt.phase = 2 then (if s.mgmt.goWait then s.go true else s)
    else if !s.clk.rootOn then s
    else match s.mgmt.phase with
      | 3 => if s.powered then { s with mgmt := { s.mgmt with phase := 4 } } else s
      | 4 =>
        if s.tiers.ready.length + s.tiers.failedSt.length < 8 then s
        else if s.tiers.ready.isEmpty then s.startFailed 4 4
        else if s.power.hold && !s.mgmt.kept then s
        else enter { s.t1Initialise with tiers := { s.t1Initialise.tiers with trainReq := false } } 5
      | 5 => match s.placeAll with
        | none => s.startFailed 5 5
        | some t => (enter t.abandonOld 6).attachAll
      | 6 => if (List.range 4).any (fun k => (s.cart k).st = .attaching) then s else s.releaseHives
      | _ => s)

/-! ### Interrupts -/

/-- A write of IRQ_PEND clears the lines written with 1, where they are lines that a write clears (R448). -/
def execIrqClear (v : Byte) (s : State) : Host.Outcome State Fault Refusal := .next (if s.mgmt.por then s else s.irqClear v.toNat)

end Sys2Proof.Machine
end

