-- ==== Sys2Proof/Machine/Replay.lean ====
section
/-!
DEFINITION. Replay.lean: the inputs that a replay takes from the record buffer (R348, R350).
-/
namespace Sys2Proof.Machine

/-- Runs an input as if it came from outside, past the refusal that R350 gives inputs from outside. -/
def State.fromRecord (s : State) (go : State → State) : State :=
  let t := go { s with journal := { s.journal with recState := 0 } }
  { t with journal := { t.journal with recState := s.journal.recState } }

/-- A recorded frame arrives at FXP k (R132, R326): its header and payload, and behind a cross-chip frame the Hive it is bound for. -/
def State.frameReplay (s : State) (k : FxpId) (bs : List Byte) : State :=
  let f := frameOf (bs.take (bs.length - 1)) (bytesAt bs (bs.length - 1) 1)
  let m := mframeOf bs
  match bytesAt bs 31 1 with
  | 0x01 => after (execRwriteRecv k f s) s
  | 0x02 => after (execRaccRecv k f s) s
  | 0x03 => after (execRatomicRecv k f s) s
  | 0x10 => after (execRackRecv k f s) s
  | 0x20 => after (execCreditReqRecv k f s) s
  | 0x21 => after (execCreditGrantRecv k f s) s
  | 0x22 => after (execCreditReturnRecv k f s) s
  | 0x23 => after (execClosingRecv k f s) s
  | 0x24 => after (execRevokeRecv k f s) s
  | 0x25 => after (execRedirectRecv k f s) s
  | 0x26 => after (execRedirectAckRecv k f s) s
  | 0x27 => after (execSwitchMarkRecv k f s) s
  | 0x28 => after (execTsprobeRecv k f s) s
  | 0x40 => after (execMwriteRecv m s) s
  | 0x41 => after (execMaccRecv m s) s
  | 0x42 => after (execMjournalRecv m s) s
  | 0x43 => after (execMheartRecv m s) s
  | 0x44 => after (execMackRecv m s) s
  | 0x45 => after (execMfenceRecv m s) s
  | 0x46 => after (execMsetupRecv m s) s
  | 0x47 => after (execMreqRecv m s) s
  | 0x48 => after (execMretRecv m s) s
  | _ => s

/-- A recorded write-class operation arrives: its path, its tag and its form, then its header and payload. -/
def State.yppReplay (s : State) (bs : List Byte) : State :=
  let p := bytesAt bs 0 2
  let path : Path := if p < 0x100 then .mctp (BitVec.ofNat 8 p) else .mb (Fin.ofNat 3 (p - 0x100))
  let hdr := bytesNat ((bs.drop 4).take 32)
  let payload := bs.drop 36
  s.takeReq path (bytesAt bs 2 1) (bit (bytesAt bs 3 1) 0) hdr payload (badFrame hdr payload.length) true

/-- A recorded supply hold starts or ends; the record tells neither its rail nor its levels, which are free values. -/
def State.holdReplay (s : State) : State :=
  if s.power.hold then s.holdEnd
  else
    let a := s.draw
    let b := a.2.draw
    b.2.holdStart (a.1 % 3) (b.1 % 2^16)

/-- REPLAY_INPUT: the input that the record buffer has due is presented in its cycle, or not before it; one whose hash differs from the record
diverges. Lines of stacks and cartridges are presented by the stacks and cartridges themselves (T1_READ_DATA, CXL_RESPONSE). -/
def execReplayInput (i : RecInput) (s : State) : Host.Outcome State Fault Refusal :=
  .next (
    match s.replayDue with
    | none => s
    | some e =>
      if !s.clk.rootOn || e.kind ≠ i.kind.toNat || e.unit ≠ i.unit.toNat || e.tag ≠ i.tag.toNat || decide (s.recCycle < e.cycle) || decide (e.kind < 3) then s
      else
        let bs := s.replayData e
        let t := match e.kind with
          | 3 => s.fromRecord (fun s => s.frameReplay (Fin.ofNat 4 e.unit) bs)
          | 4 => s.yppReplay bs
          | 5 => if s.mgmt.phase = 7 then s.epochEdge else s
          | 6 => s.tsync
          | 7 => s.fromRecord State.holdReplay
          | _ => s
        t.replayNext e i.hash)

end Sys2Proof.Machine
end

