-- ==== Sys2Proof/Machine/Dispatch.lean ====
section
/-!
DEFINITION. Dispatch.lean: one arm per command, each a direct call of its meaning.
-/
namespace Sys2Proof.Machine

/-- The effect of a command on everything but the queue it came from. -/
def exec (i : Instr) (s : State) : Host.Outcome State Fault Refusal :=
  match i with
  | .portRequest h r => Sys2Proof.Machine.execPortRequest h r s
  | .sxpAccess h r => Sys2Proof.Machine.execSxpAccess h r s
  | .registerWrite t v => Sys2Proof.Machine.execRegisterWrite t v s
  | .mipInbound x => Sys2Proof.Machine.execMipInbound x s
  | .scoreboardStallEnd x => Sys2Proof.Machine.execScoreboardStallEnd x s
  | .ringSlotStallEnd x => Sys2Proof.Machine.execRingSlotStallEnd x s
  | .bankGrant a => Sys2Proof.Machine.execBankGrant a s
  | .requestExpire x => Sys2Proof.Machine.execRequestExpire x s
  | .responseDeliver x => Sys2Proof.Machine.execResponseDeliver x s
  | .writeComplete x => Sys2Proof.Machine.execWriteComplete x s
  | .flcFill x => Sys2Proof.Machine.execFlcFill x s
  | .flcWritebackDone x => Sys2Proof.Machine.execFlcWritebackDone x s
  | .flcFlush h c cell => Sys2Proof.Machine.execFlcFlush h c cell s
  | .flcInval h c cell => Sys2Proof.Machine.execFlcInval h c cell s
  | .flcFlushAll h c cell => Sys2Proof.Machine.execFlcFlushAll h c cell s
  | .flcInvalAll h c cell => Sys2Proof.Machine.execFlcInvalAll h c cell s
  | .flcOpDone h c => Sys2Proof.Machine.execFlcOpDone h c s
  | .bankOwnerWrite p c h b v => Sys2Proof.Machine.execBankOwnerWrite p c h b v s
  | .handoverDrainEnd h b => Sys2Proof.Machine.execHandoverDrainEnd h b s
  | .handoverClearEnd h b => Sys2Proof.Machine.execHandoverClearEnd h b s
  | .arbCommitGo v => Sys2Proof.Machine.execArbCommitGo v s
  | .commitChecksDone => Sys2Proof.Machine.execCommitChecksDone s
  | .commitSwitch => Sys2Proof.Machine.execCommitSwitch s
  | .commitNoEpoch => Sys2Proof.Machine.execCommitNoEpoch s
  | .epochEdge => Sys2Proof.Machine.execEpochEdge s
  | .epochStart => Sys2Proof.Machine.execEpochStart s
  | .epochEnd => Sys2Proof.Machine.execEpochEnd s
  | .routerForward h d => Sys2Proof.Machine.execRouterForward h d s
  | .fxpSchedRelease x => Sys2Proof.Machine.execFxpSchedRelease x s
  | .hiveIdleGate h => Sys2Proof.Machine.execHiveIdleGate h s
  | .hiveWakeEnd h => Sys2Proof.Machine.execHiveWakeEnd h s
  | .powerIntentGate h j => Sys2Proof.Machine.execPowerIntentGate h j s
  | .powerIntentWake h j => Sys2Proof.Machine.execPowerIntentWake h j s
  | .regWindowBoundary => Sys2Proof.Machine.execRegWindowBoundary s
  | .t1Slot k c => Sys2Proof.Machine.execT1Slot k c s
  | .t1RefreshForced k c half bank => Sys2Proof.Machine.execT1RefreshForced k c half bank s
  | .handleLoad src h c j => Sys2Proof.Machine.execHandleLoad src h c j s
  | .handleDrop src h c j => Sys2Proof.Machine.execHandleDrop src h c j s
  | .handleRead h c j => Sys2Proof.Machine.execHandleRead h c j s
  | .handleDrainEnd h c j => Sys2Proof.Machine.execHandleDrainEnd h c j s
  | .hierarchyModeWrite v => Sys2Proof.Machine.execHierarchyModeWrite v s
  | .poolContribWrite v => Sys2Proof.Machine.execPoolContribWrite v s
  | .chipIdWrite v => Sys2Proof.Machine.execChipIdWrite v s
  | .winOpen h c w => Sys2Proof.Machine.execWinOpen h c w s
  | .winClose h c w => Sys2Proof.Machine.execWinClose h c w s
  | .winRevoke h c w => Sys2Proof.Machine.execWinRevoke h c w s
  | .winForward h c w => Sys2Proof.Machine.execWinForward h c w s
  | .winRead h c w => Sys2Proof.Machine.execWinRead h c w s
  | .winCloseTimeout h w => Sys2Proof.Machine.execWinCloseTimeout h w s
  | .rwriteRecv k f => Sys2Proof.Machine.execRwriteRecv k f s
  | .raccRecv k f => Sys2Proof.Machine.execRaccRecv k f s
  | .ratomicRecv k f => Sys2Proof.Machine.execRatomicRecv k f s
  | .rackRecv k f => Sys2Proof.Machine.execRackRecv k f s
  | .creditReqRecv k f => Sys2Proof.Machine.execCreditReqRecv k f s
  | .creditGrantRecv k f => Sys2Proof.Machine.execCreditGrantRecv k f s
  | .creditReturnRecv k f => Sys2Proof.Machine.execCreditReturnRecv k f s
  | .closingRecv k f => Sys2Proof.Machine.execClosingRecv k f s
  | .revokeRecv k f => Sys2Proof.Machine.execRevokeRecv k f s
  | .redirectRecv k f => Sys2Proof.Machine.execRedirectRecv k f s
  | .redirectAckRecv k f => Sys2Proof.Machine.execRedirectAckRecv k f s
  | .switchMarkRecv k f => Sys2Proof.Machine.execSwitchMarkRecv k f s
  | .rackTimer h chip hive => Sys2Proof.Machine.execRackTimer h chip hive s
  | .movePassEnd h => Sys2Proof.Machine.execMovePassEnd h s
  | .ctxSave h c ref => Sys2Proof.Machine.execCtxSave h c ref s
  | .ctxSaveDone h => Sys2Proof.Machine.execCtxSaveDone h s
  | .ctxRestore h c ref => Sys2Proof.Machine.execCtxRestore h c ref s
  | .fxDelivered k chip idx => Sys2Proof.Machine.execFxDelivered k chip idx s
  | .fxLost k chip => Sys2Proof.Machine.execFxLost k chip s
  | .t1cFlush k cell => Sys2Proof.Machine.execT1cFlush k cell s
  | .t1cFlushDone k => Sys2Proof.Machine.execT1cFlushDone k s
  | .persist k cell => Sys2Proof.Machine.execPersist k cell s
  | .persistDone k => Sys2Proof.Machine.execPersistDone k s
  | .msync cell => Sys2Proof.Machine.execMsync cell s
  | .chanEnable h k => Sys2Proof.Machine.execChanEnable h k s
  | .chanDisable h k => Sys2Proof.Machine.execChanDisable h k s
  | .ringTailWrite h k v => Sys2Proof.Machine.execRingTailWrite h k v s
  | .descFetch h k => Sys2Proof.Machine.execDescFetch h k s
  | .dmaTile h k => Sys2Proof.Machine.execDmaTile h k s
  | .dmaFill h k => Sys2Proof.Machine.execDmaFill h k s
  | .dmaCopy h k => Sys2Proof.Machine.execDmaCopy h k s
  | .dmaMove h k => Sys2Proof.Machine.execDmaMove h k s
  | .dmaNop h k => Sys2Proof.Machine.execDmaNop h k s
  | .boundWordReturn h k => Sys2Proof.Machine.execBoundWordReturn h k s
  | .dmaLinePresent h => Sys2Proof.Machine.execDmaLinePresent h s
  | .fillCmdRecv x => Sys2Proof.Machine.execFillCmdRecv x s
  | .descComplete h k => Sys2Proof.Machine.execDescComplete h k s
  | .chanResume h k => Sys2Proof.Machine.execChanResume h k s
  | .chanSkip h k => Sys2Proof.Machine.execChanSkip h k s
  | .chanAbort h k => Sys2Proof.Machine.execChanAbort h k s
  | .chanPause h k => Sys2Proof.Machine.execChanPause h k s
  | .chanContinue h k => Sys2Proof.Machine.execChanContinue h k s
  | .chanDrainEnd h k => Sys2Proof.Machine.execChanDrainEnd h k s
  | .jobSubmit h c target => Sys2Proof.Machine.execJobSubmit h c target s
  | .jobQueueAccept h slot => Sys2Proof.Machine.execJobQueueAccept h slot s
  | .jobRelease h c slot => Sys2Proof.Machine.execJobRelease h c slot s
  | .scarabJobStart u => Sys2Proof.Machine.execScarabJobStart u s
  | .scarabSliceReturn u => Sys2Proof.Machine.execScarabSliceReturn u s
  | .scarabJobComplete u => Sys2Proof.Machine.execScarabJobComplete u s
  | .fence h c => Sys2Proof.Machine.execFence h c s
  | .fenceChip h c chip => Sys2Proof.Machine.execFenceChip h c chip s
  | .ringDeclare h c j => Sys2Proof.Machine.execRingDeclare h c j s
  | .ringUndeclare h c j => Sys2Proof.Machine.execRingUndeclare h c j s
  | .ringRead h c j => Sys2Proof.Machine.execRingRead h c j s
  | .ringTimeout x => Sys2Proof.Machine.execRingTimeout x s
  | .wait h c cond tmo cell => Sys2Proof.Machine.execWait h c cond tmo cell s
  | .waitdec h c tmo cell => Sys2Proof.Machine.execWaitdec h c tmo cell s
  | .waitCancel h c reg => Sys2Proof.Machine.execWaitCancel h c reg s
  | .releasePass h => Sys2Proof.Machine.execReleasePass h s
  | .waitTimeout h n => Sys2Proof.Machine.execWaitTimeout h n s
  | .waitResultRead h c => Sys2Proof.Machine.execWaitResultRead h c s
  | .barrierArrive x => Sys2Proof.Machine.execBarrierArrive x s
  | .outerRegionWrite e v => Sys2Proof.Machine.execOuterRegionWrite e v s
  | .t1Request x => Sys2Proof.Machine.execT1Request x s
  | .t1ReadData k c half ecc raw => Sys2Proof.Machine.execT1ReadData k c half ecc raw s
  | .t1ParityErr k c bits => Sys2Proof.Machine.execT1ParityErr k c bits s
  | .t1Cattrip k => Sys2Proof.Machine.execT1Cattrip k s
  | .t1RowIdlePrecharge k c half bank => Sys2Proof.Machine.execT1RowIdlePrecharge k c half bank s
  | .pageBufferIdleClose u page => Sys2Proof.Machine.execPageBufferIdleClose u page s
  | .pageBufferCloseDone u page => Sys2Proof.Machine.execPageBufferCloseDone u page s
  | .outerDecodeDone u => Sys2Proof.Machine.execOuterDecodeDone u s
  | .t1EcsRead k c => Sys2Proof.Machine.execT1EcsRead k c s
  | .t1MrrData k c count row refSlots => Sys2Proof.Machine.execT1MrrData k c count row refSlots s
  | .t2Request x => Sys2Proof.Machine.execT2Request x s
  | .cxlResponse k hdr data => Sys2Proof.Machine.execCxlResponse k hdr data s
  | .cartLinkLost k linkUp present => Sys2Proof.Machine.execCartLinkLost k linkUp present s
  | .cartAttach k => Sys2Proof.Machine.execCartAttach k s
  | .cartAttachEnd k r => Sys2Proof.Machine.execCartAttachEnd k r s
  | .cartTrust k => Sys2Proof.Machine.execCartTrust k s
  | .cartDetach k => Sys2Proof.Machine.execCartDetach k s
  | .cartDetachDrop k => Sys2Proof.Machine.execCartDetachDrop k s
  | .cartDetachEnd k => Sys2Proof.Machine.execCartDetachEnd k s
  | .cartHealthPoll k lifeUsed => Sys2Proof.Machine.execCartHealthPoll k lifeUsed s
  | .heatDecayEpoch k => Sys2Proof.Machine.execHeatDecayEpoch k s
  | .promoteCandidate k => Sys2Proof.Machine.execPromoteCandidate k s
  | .blockMoveDone k block => Sys2Proof.Machine.execBlockMoveDone k block s
  | .errTableAck v => Sys2Proof.Machine.execErrTableAck v s
  | .weevilScrubRead h => Sys2Proof.Machine.execWeevilScrubRead h s
  | .weevilWriteback h => Sys2Proof.Machine.execWeevilWriteback h s
  | .weevilPageScrub u flags raw => Sys2Proof.Machine.execWeevilPageScrub u flags raw s
  | .scrubShortfall u => Sys2Proof.Machine.execScrubShortfall u s
  | .rowRepair h kind bank row badSpares => Sys2Proof.Machine.execRowRepair h kind bank row badSpares s
  | .retireGraceExpire h kind stripe => Sys2Proof.Machine.execRetireGraceExpire h kind stripe s
  | .retireHiveStripe h loc => Sys2Proof.Machine.execRetireHiveStripe h loc s
  | .retireMatrixStripe h loc => Sys2Proof.Machine.execRetireMatrixStripe h loc s
  | .retireVectorStripe h loc => Sys2Proof.Machine.execRetireVectorStripe h loc s
  | .retireT1Page unit loc => Sys2Proof.Machine.execRetireT1Page unit loc s
  | .retireT1Bank unit loc => Sys2Proof.Machine.execRetireT1Bank unit loc s
  | .retireT2Page unit loc => Sys2Proof.Machine.execRetireT2Page unit loc s
  | .repairMapWrite idx v => Sys2Proof.Machine.execRepairMapWrite idx v s
  | .manifestWrite bytes => Sys2Proof.Machine.execManifestWrite bytes s
  | .readRaw target unit spare loc => Sys2Proof.Machine.execReadRaw target unit spare loc s
  | .writeRaw target unit spare loc => Sys2Proof.Machine.execWriteRaw target unit spare loc s
  | .testReadBlock p want => Sys2Proof.Machine.execTestReadBlock p want s
  | .testWriteBlock p bytes => Sys2Proof.Machine.execTestWriteBlock p bytes s
  | .pairJoin => Sys2Proof.Machine.execPairJoin s
  | .pairLeave => Sys2Proof.Machine.execPairLeave s
  | .mheartSend => Sys2Proof.Machine.execMheartSend s
  | .heartbeatTimeout => Sys2Proof.Machine.execHeartbeatTimeout s
  | .mwriteRecv f => Sys2Proof.Machine.execMwriteRecv f s
  | .maccRecv f => Sys2Proof.Machine.execMaccRecv f s
  | .mjournalRecv f => Sys2Proof.Machine.execMjournalRecv f s
  | .mheartRecv f => Sys2Proof.Machine.execMheartRecv f s
  | .mackRecv f => Sys2Proof.Machine.execMackRecv f s
  | .mfenceRecv f => Sys2Proof.Machine.execMfenceRecv f s
  | .msetupRecv f => Sys2Proof.Machine.execMsetupRecv f s
  | .mreqRecv f => Sys2Proof.Machine.execMreqRecv f s
  | .mretRecv f => Sys2Proof.Machine.execMretRecv f s
  | .mirrorRegionWrite j v => Sys2Proof.Machine.execMirrorRegionWrite j v s
  | .mirrorReserveWrite j v => Sys2Proof.Machine.execMirrorReserveWrite j v s
  | .mirrorSeedRead j => Sys2Proof.Machine.execMirrorSeedRead j s
  | .mackTimer => Sys2Proof.Machine.execMackTimer s
  | .mirrorLag => Sys2Proof.Machine.execMirrorLag s
  | .fenceAck => Sys2Proof.Machine.execFenceAck s
  | .selfFenced => Sys2Proof.Machine.execSelfFenced s
  | .fenceTimeout => Sys2Proof.Machine.execFenceTimeout s
  | .failoverReplayDone => Sys2Proof.Machine.execFailoverReplayDone s
  | .mirrorRestorePassEnd j => Sys2Proof.Machine.execMirrorRestorePassEnd j s
  | .journalEntryComplete seq => Sys2Proof.Machine.execJournalEntryComplete seq s
  | .journalTailWrite v => Sys2Proof.Machine.execJournalTailWrite v s
  | .replayInput j => Sys2Proof.Machine.execReplayInput j s
  | .estimatorWindowEnd temps => Sys2Proof.Machine.execEstimatorWindowEnd temps s
  | .railTelemetrySample r mw => Sys2Proof.Machine.execRailTelemetrySample r mw s
  | .telemetryLost r => Sys2Proof.Machine.execTelemetryLost r s
  | .pwrDivergence => Sys2Proof.Machine.execPwrDivergence s
  | .capUnmet => Sys2Proof.Machine.execCapUnmet s
  | .powerCapWrite v => Sys2Proof.Machine.execPowerCapWrite v s
  | .pwrDivAck => Sys2Proof.Machine.execPwrDivAck s
  | .droopTrip d => Sys2Proof.Machine.execDroopTrip d s
  | .droopReleaseStep => Sys2Proof.Machine.execDroopReleaseStep s
  | .supplyWarning r mv => Sys2Proof.Machine.execSupplyWarning r mv s
  | .supplyRecovery mv => Sys2Proof.Machine.execSupplyRecovery mv s
  | .supplyStall => Sys2Proof.Machine.execSupplyStall s
  | .supplyReset r => Sys2Proof.Machine.execSupplyReset r s
  | .temperPeriodEnd slack => Sys2Proof.Machine.execTemperPeriodEnd slack s
  | .temperStepUp m slack => Sys2Proof.Machine.execTemperStepUp m slack s
  | .hivePowerWrite p h v => Sys2Proof.Machine.execHivePowerWrite p h v s
  | .domainDrainEnd h d => Sys2Proof.Machine.execDomainDrainEnd h d s
  | .domainWakeEnd h d => Sys2Proof.Machine.execDomainWakeEnd h d s
  | .snap => Sys2Proof.Machine.execSnap s
  | .thaw => Sys2Proof.Machine.execThaw s
  | .snapEdge => Sys2Proof.Machine.execSnapEdge s
  | .snapshotTake => Sys2Proof.Machine.execSnapshotTake s
  | .traceLongExpire u x => Sys2Proof.Machine.execTraceLongExpire u x s
  | .traceAppend k => Sys2Proof.Machine.execTraceAppend k s
  | .appenderPadTimeout k => Sys2Proof.Machine.execAppenderPadTimeout k s
  | .traceMark h c v => Sys2Proof.Machine.execTraceMark h c v s
  | .traceModeWrite v => Sys2Proof.Machine.execTraceModeWrite v s
  | .triggerAction j => Sys2Proof.Machine.execTriggerAction j s
  | .wfgBuild => Sys2Proof.Machine.execWfgBuild s
  | .wfgBuildDone => Sys2Proof.Machine.execWfgBuildDone s
  | .tsprobeSend k chip => Sys2Proof.Machine.execTsprobeSend k chip s
  | .tsprobeRecv k f => Sys2Proof.Machine.execTsprobeRecv k f s
  | .tsyncEdge => Sys2Proof.Machine.execTsyncEdge s
  | .quenchRequest => Sys2Proof.Machine.execQuenchRequest s
  | .quenchCtlWrite v => Sys2Proof.Machine.execQuenchCtlWrite v s
  | .quenchTake => Sys2Proof.Machine.execQuenchTake s
  | .quenchRefresh k => Sys2Proof.Machine.execQuenchRefresh k s
  | .quenchUnitRead p u off want => Sys2Proof.Machine.execQuenchUnitRead p u off want s
  | .quenchMemRead p want => Sys2Proof.Machine.execQuenchMemRead p want s
  | .queueOccClear idx v => Sys2Proof.Machine.execQueueOccClear idx v s
  | .mctpMessage eid tag bytes => Sys2Proof.Machine.execMctpMessage eid tag bytes s
  | .yppRead p => Sys2Proof.Machine.execYppRead p s
  | .yppWrite p => Sys2Proof.Machine.execYppWrite p s
  | .yppReadBlock p => Sys2Proof.Machine.execYppReadBlock p s
  | .yppWriteBlock p => Sys2Proof.Machine.execYppWriteBlock p s
  | .yppCommit p => Sys2Proof.Machine.execYppCommit p s
  | .yppDescribe p => Sys2Proof.Machine.execYppDescribe p s
  | .yppSubscribe p => Sys2Proof.Machine.execYppSubscribe p s
  | .mbGo u bytes => Sys2Proof.Machine.execMbGo u bytes s
  | .mbRspack u => Sys2Proof.Machine.execMbRspack u s
  | .mbEvack u => Sys2Proof.Machine.execMbEvack u s
  | .lifecycleChange v => Sys2Proof.Machine.execLifecycleChange v s
  | .dbgAuthChange v => Sys2Proof.Machine.execDbgAuthChange v s
  | .porAssert => Sys2Proof.Machine.execPorAssert s
  | .porRelease lifecycle auth => Sys2Proof.Machine.execPorRelease lifecycle auth s
  | .warmReset fclkRan => Sys2Proof.Machine.execWarmReset fclkRan s
  | .romCheckDone ok => Sys2Proof.Machine.execRomCheckDone ok s
  | .imageBegin size => Sys2Proof.Machine.execImageBegin size s
  | .imageData v => Sys2Proof.Machine.execImageData v s
  | .imageEnd fwOk => Sys2Proof.Machine.execImageEnd fwOk s
  | .startGo fclk => Sys2Proof.Machine.execStartGo fclk s
  | .startReload => Sys2Proof.Machine.execStartReload s
  | .startPhaseEnd => Sys2Proof.Machine.execStartPhaseEnd s
  | .t1TrainDone k r => Sys2Proof.Machine.execT1TrainDone k r s
  | .t1TrainTimeout k => Sys2Proof.Machine.execT1TrainTimeout k s
  | .cartAttachTimeout k => Sys2Proof.Machine.execCartAttachTimeout k s
  | .irqClear v => Sys2Proof.Machine.execIrqClear v s
  | .t2LinkRetrain k gts width => Sys2Proof.Machine.execT2LinkRetrain k gts width s
  | .warmResetRelease => Sys2Proof.Machine.execWarmResetRelease s

end Sys2Proof.Machine
end

