-- ==== Sys2Proof/Machine/Tick.lean ====
section
/-!
DEFINITION. Tick.lean: what passes in a cycle when no command waits (log entry 1): the clocks (R353, R354), the counters that count cycles
(R74, R352, R382, R386 to R388), messages that leave, and waiting work that may go on.
-/
namespace Sys2Proof.Machine

/-! ### The clocks (R353, R354, R410) -/

/-- A time of n sixteenths of an fclk_i period passes for the Hearth and the timestamp: 4 every 9 edges of fclk_i, or 20 in each Hearth cycle
without it. A load of TS_NEXT takes effect at the ninth edge after its sample. -/
def State.passTime (s : State) (n : Nat) : State :=
  let c := s.clk
  let beats := (c.h16 + n) / 720
  let edges := (c.fclk16 + n) / 144
  let adv := if c.fclkOn then 4 * edges else 20 * beats
  let s := s.cadd 0x6700 (8 * uHearth) beats
  let s := if s.noHiveLive then s else { s with power := { s.power with liveNs := s.power.liveNs + adv } }
  let c := { s.clk with hnow := c.hnow + beats, h16 := (c.h16 + n) % 720 }
  if !c.fclkOn then { s with clk := { c with ts := c.ts + BitVec.ofNat 64 adv } }
  else match c.tsLoad with
    | some (left, v) =>
      if left ≤ n then
        ({ s with clk := { c with ts := BitVec.ofNat 64 (v + 4 * ((n - left) / 144)), fclk16 := (n - left) % 144, tsLoad := none } }).traceAt
          { kind := 0x0B, unit := uHearth, aux := c.ts.toNat % 2^48 } v
      else { s with clk := { c with ts := c.ts + BitVec.ofNat 64 adv, fclk16 := (c.fclk16 + n) % 144, tsLoad := some (left - n, v) } }
    | none => { s with clk := { c with ts := c.ts + BitVec.ofNat 64 adv, fclk16 := (c.fclk16 + n) % 144 } }

/-- A replay waits for an input due in this cycle (R350). -/
def State.replayStop (s : State) : Bool := match s.replayDue with
  | some e => decide (e.cycle ≤ s.recCycle)
  | none => false

/-! ### What is counted each cycle -/

/-- Counts the items of a list, each under a parameter and an element. -/
def State.countAll (s : State) (l : List (Nat × Nat × Nat)) : State := l.foldl (fun s e => if e.2.2 = 0 then s else s.cadd e.1 e.2.1 e.2.2) s

/-- Requests that lost their cycle at a bank, an operand store or the injection stage, and those the scoreboard stalls (R74): each with its Hive,
kind and master. -/
def State.conflicts (s : State) : List (Nat × Nat × Nat) :=
  let now := s.clk.now
  let beat := fun (k : Nat) => s.flight.any (fun y => y.dir = 3 && !y.mesh && y.half = .answer && y.since = now && y.loc.arb = k)
  let kindAt := fun (k : Nat) (held : Option Nat) => match s.hives.granted.find? (fun g => g.1 = k) with
    | some g => some (if g.2 then 1 else if beat k then 2 else 0)
    | none => if now < s.freeAt k then some 2 else held
  let bank := s.flight.filterMap (fun x =>
    if x.stage = .arbiter && x.half = .request && x.loc.arb < 0x30000 && decide (x.ready ≤ now) && s.orderOk x then
      (kindAt x.loc.arb (if x.sched then none else if s.beatHeld x then some 2
        else if s.groupHeld x || (decide (2 ≤ s.bankCycles x) && s.reserved x.loc.unit (now + 2) x.loc) then some 1 else none)).map (fun k => (x.loc.unit, k, x.port))
    else none)
  let inj := s.flight.filterMap (fun x =>
    if x.stage = .meshIf && decide (x.unit < 256) && decide (x.ready ≤ now) then
      (kindAt (0x40000 + x.unit) none).map (fun k => (x.unit, k, if x.half = .answer then 4 else x.srcPort))
    else none)
  let sb := (s.flight.filter (fun x => x.stage = .scoreboard)).map (fun x => (x.grp, x.srcUnit, x.port))
  bank ++ inj ++ sb.eraseDups.map (fun e => (e.2.1, 3, e.2.2))

/-- Contexts with a request in a stage, each once. -/
def State.ctxIn (s : State) (pick : Xact → Bool) : List (Nat × Nat) :=
  ((s.flight.filter (fun x => pick x && x.srcChip.isNone && decide (x.srcUnit < 256))).map (fun x => (x.srcUnit, x.ctx))).eraseDups

/-- Cycles that contexts stall or keep a fence busy (R388). -/
def State.ctxCycles (s : State) : List (Nat × Nat × Nat) :=
  let at_ := fun (k : Nat) (l : List (Nat × Nat)) => l.map (fun (e : Nat × Nat) => ((0x6800, 16 * (8 * e.1 + e.2) + k, 1) : Nat × Nat × Nat))
  at_ 4 (s.ctxIn (fun x => x.stage = .scoreboard)) ++ at_ 5 (s.ctxIn (fun x => x.stage = .ringStall)) ++
  at_ 6 ((s.hives.cmdq.filter (fun e => match e.2 with
    | .waitResultRead _ _ :: _ => true
    | _ => false)).map (fun e => (e.1 / 8, e.1 % 8))) ++
  at_ 7 (s.ctxIn (fun x => x.stage = .issueStall && x.win.isSome)) ++ at_ 13 ((s.hives.fences.map (fun f => (f.hive, f.ctx))).eraseDups)

/-- Entries of a unit's reorder buffer and its job queue (R387). -/
def State.scarabLoad (s : State) (u : Nat) : List Nat :=
  let l := s.scarab u
  [l.length, l.foldl (fun a k => a + (s.job k).rob.length) 0]

/-- The numbers that the observed queues of a unit hold, in the order of R387. -/
def State.queues (s : State) (u : Nat) : List Nat :=
  let staged := (Tbl.get s.trace.staging {} u).recs.length
  if u < 256 then
    let sc := s.scarabLoad u
    [s.sbHeld u true, s.sbHeld u false, s.mipLoad u, s.tagsHeld u 3, ((s.wbs u).filter Xact.wbHeld).length, (s.fills u).length,
     (s.hives.waits.filter (fun e => e.1 / 128 = u && e.2.state = 1)).length, (Tbl.get s.hives.passes [] u).length,
     (s.jobs.filter (fun e => e.1 / 256 = u && e.2.st ≠ .free)).length] ++ sc ++ [s.fwdQueue u, staged]
  else if u < 264 then
    let k := u - 256
    [((s.t1Queue u).filter (fun x => !x.sched)).length, (s.flight.filter (fun x => x.stage = .schedStaging && x.loc.unit = u && x.half = .request)).length,
     (s.bufsOf k).length, (s.tiers.decs.filter (fun d => d.unit = k)).length] ++ s.scarabLoad u ++ [s.fwdQueue u, staged, (s.app k).staged.length]
  else if u < 268 then
    let k := u - 264
    [(s.t2Tags k).length, (s.bufsOf (8 + k)).length, s.t2Held k, (s.cart k).cands.length, (s.tiers.decs.filter (fun d => d.unit = 8 + k)).length] ++
      s.scarabLoad u ++ [staged]
  else if u < 272 then
    let k := u - 268
    [(s.early k).length, s.retained k, staged, (s.flight.filter (fun x => x.stage = .edgeIngress && x.unit = u)).length, 0]
  else if u = 272 then [s.lag, (s.mirror.waits.filter (fun w => match w.2 with
    | .write _ => true
    | _ => false)).length, staged]
  else [s.hostQueue, s.unread.length, ((List.range (s.journal.head - s.journal.tail)).filter (fun i => !jFinal (s.jEntry (s.journal.tail + i)))).length,
    (s.hives.dom.filter (fun e => e.2.phase = .queued)).length]

/-- QUEUE_OCC of a unit for a cycle (R387). -/
def State.occupancy (s : State) (u : Nat) : State :=
  ((s.queues u).zipIdx).foldl (fun s e =>
    if e.1 = 0 then s else (s.cadd 0x6600 (2 * (16 * u + e.2)) e.1).cmax 0x6600 (2 * (16 * u + e.2) + 1) e.1) s

/-- The Hive or edge unit of an arbiter, a link or an engine by its key. -/
def busyUnit (k : Nat) : Nat :=
  if k < 0x10000 then k / 64 else if k < 0x20000 then (k - 0x10000) / 16 else if k < 0x30000 then (k - 0x20000) / 8
  else if k < 0x40000 then k - 0x30000 else if k < 0x50000 then k - 0x40000 else if k < 0x60000 then 0x1000
  else if k < 0x80000 then (k - 0x60000) / 8 else if k < 0x90000 then k - 0x80000 else if k < 0xA0000 then k - 0x90000 else k - 0xA0000

/-- Units with a bank, a slot, a link stage or a request in service in this cycle (R386). -/
def State.inService (s : State) : List Nat :=
  let keys := (s.hives.busy.filter (fun e => decide (s.clk.now < e.2))).map (fun e => busyUnit e.1)
  let xs := s.flight.filterMap (fun x =>
    if x.stage = .link then some x.unit
    else if x.stage = .outstanding || x.stage = .pageBuffer || x.stage = .decoder then some x.loc.unit
    else if x.stage = .fxpEgress || x.stage = .fxpRelease then some (268 + x.unit)
    else if x.stage = .mirrorQueue then some 272
    else none)
  ((keys ++ xs ++ (if s.mgmt.reqs.isEmpty then [] else [273])).filter (fun u => decide (u < 274))).eraseDups

/-- Units whose clock runs in this cycle: the Hives that are not gated, and every edge unit. -/
def State.clocked (s : State) : List Nat :=
  (s.hives.clock.filter (fun e => e.2 = .live && s.domLive e.1 0)).map (fun e => e.1) ++ List.range' 256 17

/-- Everything that a block cycle counts. -/
def State.countCycle (s : State) : State :=
  let waits := (s.mirror.waits.filter (fun w => match w.2 with
    | .write _ => true
    | _ => false)).length
  let beat := s.paired && decide (s.mirror.lastHb < s.clk.now) && (s.clk.now - s.mirror.lastHb) % 22500 = 0
  let live := (s.hives.clock.filter (fun e => e.2 = .live && s.domLive e.1 0)).length
  let conf := s.conflicts.map (fun e => (0x8200, 32 * e.1 + 8 * e.2.1 + e.2.2, 1))
  let util := (s.clocked.map (fun u => (0x6700, 8 * u, 1))) ++ s.inService.map (fun u => (0x6700, 8 * u + 1, 1))
  let own := [(0x6500, 0, b2n (s.clk.cap ≠ 0)), (0x6500, 2, b2n (s.clk.droop ≠ 0)), (0x6500, 4, b2n s.power.hold),
    (0x6400, 4, b2n s.mirror.throttle), (0x6400, 5, waits), (0x6400, 6, b2n beat)]
  let s := ((s.countAll (conf ++ s.ctxCycles ++ util ++ own)).pev 3 live)
  (List.range 274).foldl State.occupancy s

/-! ### What leaves and what goes on -/

/-- Event lines fall, and what was handed over in the last cycle has gone; events of MCTP subscribers are sent (R434, R447). -/
def State.outputs (s : State) : State :=
  let sends := fun (b : Sub) => match b.path with
    | .mctp _ => true
    | .mb _ => false
  let out := ((s.mgmt.subs.filter sends).map (fun b => b.queue)).flatten
  { s with
    hives := { s.hives with events := [], outs := [], granted := [], busy := s.hives.busy.filter (fun e => decide (s.clk.now < e.2)) }
    mgmt := { s.mgmt with out := out, subs := s.mgmt.subs.map (fun b => if sends b then Sub.settle { b with queue := [] } else b) } }

/-- Hives that were to gate do so once their accesses have completed (R104). -/
def State.gates (s : State) : State :=
  s.hives.gatePend.foldl (fun s h =>
    if s.clockOf h = .warm || s.clockOf h = .off then { s with hives := { s.hives with gatePend := without s.hives.gatePend h } }
    else if s.clockOf h = .live && s.quiet h then { s.setClock h .warm with hives := { (s.setClock h .warm).hives with gatePend := without s.hives.gatePend h } }
    else s) s

/-- Work that waits goes on where it may: commands behind a full journal, channels, scalar accesses, jobs, cache walks, copies for the partner
and the requests of tier 2. -/
def State.pumps (s : State) : State :=
  let s := State.jPump 16 (State.jAdvance 65536 s)
  let s := (State.drainCopies 64 (State.sendHeld 64 s.edgeRegs)).probeRoll.gates
  let s := if s.hives.closing.isEmpty then s else s.ringClose
  let s := s.hives.flcCmds.foldl (fun s f => s.flcStart f) s
  let s := ((s.flight.filter (fun x => x.srcPort = 2 && (x.stage = .issueStall || x.stage = .farLine))).map (fun x => x.srcUnit)).eraseDups.foldl
    (fun s h => if h < 256 then s.sxpRetry h else s) s
  let s := ((s.chans.map (fun e => e.1 / 16)).eraseDups).foldl (fun s h => if s.ctlOpen h then s.chanPump h else s) s
  let s := ((s.flight.filter (fun x => x.stage = .issueStall && x.win.isSome && x.srcChip.isNone)).map Xact.hive).eraseDups.foldl State.retryLines s
  let s := if s.submits.isEmpty && s.jobs.isEmpty then s else s.submitsTry
  let s := s.scarabs.foldl (fun s e => State.jobActs 128 (s.scarabPump e.1) e.1) s
  (List.range 4).foldl (fun s k => if s.flight.any (fun x => x.loc.unit = uT2 k && x.stage = .controller) then s.t2Pump k else s) s

/-- The next cycle begins: no port has presented a request in it, no scoreboard entry was released in it (R56, R220), and the classes that
reached their budgets in the last one are demoted (R111). -/
def State.nextCycle (s : State) (lv : Nat) : State :=
  { s with
    clk := { s.clk with now := s.clk.now + 1, lag16 := s.clk.lag16 + lv }
    hives := { s.hives with ported := [], sbGone := [] }
    sched := { s.sched with demoted := s.sched.demoted ++ s.sched.demNext, demNext := [] } }

/-- One cycle: a block cycle while the clock root runs, a Hearth cycle while it does not, and a period of fclk_i while a replay waits. Nothing
passes while por_n_i is low. -/
def State.tick (s : State) : State :=
  if s.mgmt.por then s
  else
    let stop := s.replayStop
    let s := State.logPump 32 (if s.clk.rootOn && !stop then s.countCycle else s).outputs
    if s.mgmt.reloadWait then s.reload
    else if !s.clk.rootOn then s.passTime 720
    else if stop then s.passTime 16
    else
      let s := s.cycleMisses.pumps
      (s.nextCycle s.stretch).passTime (16 + s.stretch)

/-- What the block does when no command waits: a CMD access that stalled and may go on, goes on; else a cycle passes. -/
def State.idle (s : State) : Host.Outcome State Fault Refusal :=
  match (if s.clk.rootOn && !s.replayStop then s.cmdReady else none) with
  | some (i, t) => exec i t
  | none => .next s.tick

end Sys2Proof.Machine
end

