-- ==== Sys2Proof/Safety.lean ====
section
/-!
DEFINITION. Safety.lean: what holds of the block in every state that its commands lead to from reset, in the terms the statements use.
-/
namespace Sys2Proof.Machine

/-- The stored memories are in canonical form: in each, addresses rise strictly; no physical row and no sync-page word is listed that
equals what an unlisted one reads as. -/
def Mem.wf (m : Mem) : Prop :=
  Tbl.wf m.rows {} = true ∧ Tbl.wf m.sync {} = true ∧ Tbl.rising m.t1 = true ∧ Tbl.rising m.t2 = true

/-- The phase shown by START_CTL is one of the nine that R452 names. -/
def State.phaseLegal (s : State) : Prop := s.mgmt.phase ≤ 8

/-- Transactions carry rising numbers, all below `n`. -/
def numbered (l : List Xact) (n : Nat) : Prop := l.Pairwise (fun x y => x.id < y.id) ∧ ∀ x ∈ l, x.id < n

/-- What every step keeps: canonical memories, a legal start-up phase, and a number of its own for every transaction in flight. -/
def State.Inv (s : State) : Prop := s.mem.wf ∧ s.phaseLegal ∧ numbered s.flight s.nextId

/-- A command gives a next state. -/
def runs (c : Instr) (s : State) : Prop := ∃ t, exec c s = .next t

/-- What tells an access apart wherever it stands: who asked, and for which bytes. -/
structure SameAccess (x y : Xact) : Prop where
  id       : y.id = x.id
  grp      : y.grp = x.grp
  kind     : y.kind = x.kind
  code     : y.code = x.code
  qos      : y.qos = x.qos
  ctx      : y.ctx = x.ctx
  ga       : y.ga = x.ga
  mask     : y.mask = x.mask
  loc      : y.loc = x.loc
  srcUnit  : y.srcUnit = x.srcUnit
  srcPort  : y.srcPort = x.srcPort
  srcChan  : y.srcChan = x.srcChan
  layer    : y.layer = x.layer
  operator : y.operator = x.operator

/-- A request that has passed its issue checks, waits at one of them, or has been refused by one (R47, R52, R220, R225): presented to the
arbiter of its place, or to the mesh interface. -/
def Xact.judged (y : Xact) : Prop :=
  (y.half = .request ∧ (y.stage = .issueStall ∨ y.stage = .scoreboard ∨ y.stage = .ringStall ∨ y.stage = .arbiter ∨ y.stage = .meshIf)) ∨
  (y.half = .answer ∧ y.stage = .returned ∧ ∃ c, y.result = .refused c)

/-- A CMD access of a context reaches its register now: its Hive is released and on, and no access of the context waits or takes its turn. -/
def State.cmdFree (s : State) (h : HiveId) (c : CtxId) : Prop :=
  s.ctlOpen h.val = true ∧ s.hives.cmdTurn ≠ some (8 * h.val + c.val) ∧ s.cmdWaits h.val c.val = []

/-- Parts of the state, by the names of State's fields; the queue of commands is none of them. -/
structure Parts where
  flight   : Bool := false
  nextId   : Bool := false
  free     : Bool := false
  clk      : Bool := false
  sched    : Bool := false
  mem      : Bool := false
  hives    : Bool := false
  wins     : Bool := false
  chans    : Bool := false
  chTurn   : Bool := false
  jobs     : Bool := false
  scarabs  : Bool := false
  submits  : Bool := false
  tiers    : Bool := false
  fxps     : Bool := false
  err      : Bool := false
  mirror   : Bool := false
  journal  : Bool := false
  power    : Bool := false
  trace    : Bool := false
  count    : Bool := false
  quench   : Bool := false
  mgmt     : Bool := false
deriving DecidableEq, Repr

/-- From `s` to `t` no part of the state changes but those named, and the queue stays as it was. -/
structure Only (p : Parts) (s t : State) : Prop where
  pending  : t.pending = s.pending
  flight   : p.flight = true ∨ t.flight = s.flight
  nextId   : p.nextId = true ∨ t.nextId = s.nextId
  free     : p.free = true ∨ t.free = s.free
  clk      : p.clk = true ∨ t.clk = s.clk
  sched    : p.sched = true ∨ t.sched = s.sched
  mem      : p.mem = true ∨ t.mem = s.mem
  hives    : p.hives = true ∨ t.hives = s.hives
  wins     : p.wins = true ∨ t.wins = s.wins
  chans    : p.chans = true ∨ t.chans = s.chans
  chTurn   : p.chTurn = true ∨ t.chTurn = s.chTurn
  jobs     : p.jobs = true ∨ t.jobs = s.jobs
  scarabs  : p.scarabs = true ∨ t.scarabs = s.scarabs
  submits  : p.submits = true ∨ t.submits = s.submits
  tiers    : p.tiers = true ∨ t.tiers = s.tiers
  fxps     : p.fxps = true ∨ t.fxps = s.fxps
  err      : p.err = true ∨ t.err = s.err
  mirror   : p.mirror = true ∨ t.mirror = s.mirror
  journal  : p.journal = true ∨ t.journal = s.journal
  power    : p.power = true ∨ t.power = s.power
  trace    : p.trace = true ∨ t.trace = s.trace
  count    : p.count = true ∨ t.count = s.count
  quench   : p.quench = true ∨ t.quench = s.quench
  mgmt     : p.mgmt = true ∨ t.mgmt = s.mgmt

/-- What a command does to the block as a whole: it gives a next state that keeps the invariant and differs in the parts named alone. -/
def Keeps (p : Parts) (s t : State) : Prop := (s.Inv → t.Inv) ∧ Only p s t


/-- The parts of the state that a command may change; of every other part it changes nothing. -/
def cmdParts : Instr → Parts
  | .portRequest .. | .ringSlotStallEnd .. | .flcFlush .. | .flcInval .. | .flcFlushAll .. | .flcInvalAll .. | .fillCmdRecv .. 
  | .ringTimeout .. =>
    { flight := true, nextId := true, sched := true, hives := true, err := true, trace := true, count := true, mgmt := true }
  | .sxpAccess .. | .scoreboardStallEnd .. | .flcFill .. | .flcWritebackDone .. | .flcOpDone .. | .handoverDrainEnd .. =>
    { flight := true, nextId := true, sched := true, hives := true, wins := true, fxps := true, err := true, power := true, trace := true, count := true, mgmt := true }
  | .registerWrite .. | .testReadBlock .. | .testWriteBlock .. | .quenchUnitRead .. | .quenchMemRead .. | .yppRead .. | .yppWrite .. 
  | .yppReadBlock .. | .yppWriteBlock .. | .yppCommit .. | .yppDescribe .. | .yppSubscribe .. =>
    { all with clk := false, chTurn := false, scarabs := false }
  | .mipInbound .. | .handleDrainEnd .. | .winOpen .. | .winClose .. | .winRevoke .. | .winForward .. | .winCloseTimeout .. | .rackRecv .. 
  | .creditGrantRecv .. | .creditReturnRecv .. | .closingRecv .. | .revokeRecv .. | .redirectRecv .. | .redirectAckRecv .. | .switchMarkRecv .. =>
    { all with free := false, clk := false, mem := false, chans := false, chTurn := false, jobs := false, scarabs := false, submits := false, tiers := false, quench := false }
  | .bankGrant .. | .hierarchyModeWrite .. | .poolContribWrite .. | .barrierArrive .. =>
    { flight := true, nextId := true, sched := true, mem := true, hives := true, fxps := true, err := true, mirror := true, power := true, trace := true, count := true, mgmt := true }
  | .requestExpire .. =>
    { flight := true }
  | .responseDeliver .. | .writeComplete .. =>
    { all with clk := false, chTurn := false, submits := false, quench := false }
  | .bankOwnerWrite .. | .hiveIdleGate .. | .hiveWakeEnd .. | .powerIntentGate .. | .powerIntentWake .. | .handleRead .. | .winRead .. 
  | .ringDeclare .. | .ringUndeclare .. | .ringRead .. | .waitCancel .. | .waitResultRead .. | .hivePowerWrite .. =>
    { hives := true }
  | .handoverClearEnd .. =>
    { all with free := false, clk := false, chans := false, chTurn := false, jobs := false, scarabs := false, submits := false, tiers := false, journal := false, quench := false }
  | .arbCommitGo .. | .epochEnd .. =>
    { sched := true }
  | .commitChecksDone .. | .commitNoEpoch .. | .mctpMessage .. | .mbGo .. =>
    { flight := true, nextId := true, sched := true, fxps := true, err := true, mirror := true, journal := true, power := true, trace := true, count := true, mgmt := true }
  | .commitSwitch .. | .journalTailWrite .. =>
    { flight := true, nextId := true, sched := true, fxps := true, mirror := true, journal := true, power := true, count := true, mgmt := true }
  | .epochEdge .. =>
    { sched := true, err := true, journal := true, trace := true, mgmt := true }
  | .epochStart .. =>
    { flight := true, clk := true, sched := true, hives := true, err := true, power := true, trace := true, count := true, mgmt := true }
  | .routerForward .. =>
    { flight := true, sched := true, hives := true, fxps := true, err := true, power := true, trace := true, count := true, mgmt := true }
  | .fxpSchedRelease .. =>
    { flight := true, sched := true, hives := true, err := true, trace := true, count := true, mgmt := true }
  | .regWindowBoundary .. =>
    { sched := true, count := true, mgmt := true }
  | .t1Slot .. | .t2Request .. =>
    { all with free := false, clk := false, wins := false, chans := false, chTurn := false, jobs := false, scarabs := false, submits := false, journal := false, quench := false }
  | .t1RefreshForced .. | .t1RowIdlePrecharge .. | .pageBufferIdleClose .. | .t1EcsRead .. | .heatDecayEpoch .. | .promoteCandidate .. =>
    { tiers := true }
  | .handleLoad .. | .handleDrop .. =>
    { flight := true, nextId := true, sched := true, hives := true, fxps := true, mirror := true, journal := true, power := true, count := true, mgmt := true }
  | .chipIdWrite .. | .mbRspack .. | .mbEvack .. | .dbgAuthChange .. | .porRelease .. | .imageBegin .. | .imageData .. | .irqClear .. 
  | .warmResetRelease .. =>
    { mgmt := true }
  | .rwriteRecv .. | .raccRecv .. | .ratomicRecv .. =>
    { flight := true, nextId := true, sched := true, hives := true, fxps := true, err := true, journal := true, power := true, trace := true, count := true, mgmt := true }
  | .creditReqRecv .. =>
    { hives := true, wins := true, fxps := true, err := true, journal := true, power := true, trace := true, count := true, mgmt := true }
  | .rackTimer .. =>
    { flight := true, nextId := true, hives := true, wins := true, fxps := true, err := true, power := true, trace := true, count := true, mgmt := true }
  | .movePassEnd .. =>
    { all with free := false, clk := false, mem := false, chTurn := false, scarabs := false, submits := false, tiers := false, mirror := false, journal := false, quench := false }
  | .ctxSave .. | .wait .. | .waitdec .. | .waitTimeout .. =>
    { hives := true, err := true, trace := true, count := true, mgmt := true }
  | .ctxSaveDone .. | .ctxRestore .. =>
    { all with clk := false, chTurn := false, scarabs := false, quench := false }
  | .fxDelivered .. =>
    { fxps := true }
  | .fxLost .. =>
    { flight := true, nextId := true, hives := true, fxps := true, err := true, mirror := true, trace := true, count := true, mgmt := true }
  | .t1cFlush .. | .persist .. =>
    { hives := true, tiers := true }
  | .t1cFlushDone .. | .persistDone .. =>
    { flight := true, nextId := true, hives := true, tiers := true, count := true }
  | .msync .. =>
    { flight := true, nextId := true, sched := true, hives := true, tiers := true, fxps := true, mirror := true, power := true, count := true }
  | .chanEnable .. | .ringTailWrite .. | .boundWordReturn .. | .chanResume .. | .chanContinue .. =>
    { all with clk := false, chTurn := false, jobs := false, scarabs := false, submits := false, journal := false, quench := false }
  | .chanDisable .. | .chanPause .. =>
    { hives := true, chans := true }
  | .descFetch .. | .dmaTile .. | .dmaFill .. | .dmaCopy .. | .dmaMove .. | .dmaNop .. | .descComplete .. | .chanSkip .. 
  | .journalEntryComplete .. =>
    { all with clk := false, chTurn := false, jobs := false, scarabs := false, submits := false, quench := false }
  | .dmaLinePresent .. =>
    { all with clk := false, jobs := false, scarabs := false, submits := false, quench := false }
  | .chanAbort .. =>
    { flight := true, nextId := true, sched := true, hives := true, wins := true, chans := true, fxps := true, err := true, power := true, trace := true, count := true, mgmt := true }
  | .chanDrainEnd .. =>
    { flight := true, nextId := true, sched := true, hives := true, chans := true, fxps := true, mirror := true, journal := true, power := true, count := true, mgmt := true }
  | .jobSubmit .. =>
    { nextId := true, hives := true, jobs := true, submits := true, err := true, trace := true, count := true, mgmt := true }
  | .jobQueueAccept .. =>
    { nextId := true, hives := true, jobs := true, scarabs := true }
  | .jobRelease .. =>
    { hives := true, jobs := true }
  | .scarabJobStart .. | .scarabSliceReturn .. =>
    { flight := true, nextId := true, sched := true, hives := true, wins := true, jobs := true, fxps := true, err := true, power := true, trace := true, count := true, mgmt := true }
  | .scarabJobComplete .. =>
    { all with free := false, clk := false, mem := false, chans := false, chTurn := false, submits := false, tiers := false, mirror := false, journal := false, quench := false }
  | .fence .. | .fenceChip .. =>
    { flight := true, nextId := true, hives := true, err := true, trace := true, count := true, mgmt := true }
  | .releasePass .. =>
    { mem := true, hives := true, err := true, trace := true, mgmt := true }
  | .outerRegionWrite .. =>
    { mem := true, err := true, mgmt := true }
  | .t1Request .. =>
    { flight := true, nextId := true, sched := true, hives := true, tiers := true, fxps := true, err := true, mirror := true, power := true, trace := true, count := true, mgmt := true }
  | .t1ReadData .. =>
    { all with free := false, clk := false, mem := false, wins := false, chans := false, chTurn := false, jobs := false, scarabs := false, submits := false }
  | .t1ParityErr .. | .t1Cattrip .. | .retireHiveStripe .. | .retireMatrixStripe .. | .retireVectorStripe .. | .retireT1Page .. 
  | .retireT1Bank .. | .retireT2Page .. | .t1TrainDone .. | .t1TrainTimeout .. =>
    { flight := true, sched := true, hives := true, tiers := true, err := true, trace := true, count := true, mgmt := true }
  | .pageBufferCloseDone .. =>
    { flight := true, nextId := true, sched := true, mem := true, hives := true, tiers := true, err := true, power := true, trace := true, count := true, mgmt := true }
  | .outerDecodeDone .. =>
    { flight := true, nextId := true, sched := true, mem := true, tiers := true, fxps := true, err := true, mirror := true, power := true, trace := true, count := true, mgmt := true }
  | .t1MrrData .. =>
    { sched := true, tiers := true, err := true, trace := true, count := true, mgmt := true }
  | .cxlResponse .. =>
    { all with free := false, clk := false, wins := false, chans := false, chTurn := false, jobs := false, scarabs := false, submits := false }
  | .cartLinkLost .. =>
    { flight := true, hives := true, tiers := true, err := true, trace := true, count := true, mgmt := true }
  | .cartAttach .. | .cartDetach .. | .cartDetachDrop .. =>
    { tiers := true, mgmt := true }
  | .cartAttachEnd .. =>
    { free := true, mem := true, hives := true, tiers := true, err := true, trace := true, mgmt := true }
  | .cartTrust .. | .cartDetachEnd .. =>
    { mem := true, hives := true, tiers := true, err := true, trace := true, count := true, mgmt := true }
  | .cartHealthPoll .. | .cartAttachTimeout .. =>
    { hives := true, tiers := true, err := true, trace := true, mgmt := true }
  | .blockMoveDone .. =>
    { flight := true, mem := true, hives := true, tiers := true, err := true, trace := true, count := true, mgmt := true }
  | .errTableAck .. | .repairMapWrite .. =>
    { err := true }
  | .weevilScrubRead .. =>
    { mem := true, hives := true, err := true, trace := true, count := true, mgmt := true }
  | .weevilWriteback .. =>
    { mem := true, hives := true, err := true, count := true }
  | .weevilPageScrub .. =>
    { tiers := true, err := true, trace := true, count := true, mgmt := true }
  | .scrubShortfall .. | .traceLongExpire .. | .romCheckDone .. | .imageEnd .. =>
    { err := true, trace := true, mgmt := true }
  | .rowRepair .. =>
    { free := true, sched := true, mem := true, hives := true, fxps := true, err := true, mirror := true, power := true, trace := true, count := true, mgmt := true }
  | .retireGraceExpire .. =>
    { sched := true, err := true, trace := true, mgmt := true }
  | .manifestWrite .. =>
    { flight := true, nextId := true, sched := true, mem := true, fxps := true, err := true, mirror := true, power := true, trace := true, count := true, mgmt := true }
  | .readRaw .. | .writeRaw .. =>
    { mem := true, hives := true, err := true }
  | .pairJoin .. =>
    { mirror := true, mgmt := true }
  | .pairLeave .. | .mirrorRegionWrite .. | .mackTimer .. =>
    { sched := true, fxps := true, mirror := true, power := true, count := true }
  | .mheartSend .. =>
    { sched := true, fxps := true, mirror := true, power := true, count := true, mgmt := true }
  | .heartbeatTimeout .. | .mirrorReserveWrite .. =>
    { mirror := true }
  | .mwriteRecv .. | .maccRecv .. =>
    { sched := true, mem := true, tiers := true, fxps := true, err := true, mirror := true, journal := true, power := true, trace := true, count := true, mgmt := true }
  | .mjournalRecv .. | .msetupRecv .. | .mreqRecv .. =>
    { sched := true, fxps := true, err := true, mirror := true, journal := true, power := true, trace := true, count := true, mgmt := true }
  | .mheartRecv .. | .mackRecv .. | .mfenceRecv .. =>
    { all with free := false, clk := false, mem := false, wins := false, chans := false, chTurn := false, jobs := false, scarabs := false, submits := false, quench := false }
  | .mretRecv .. =>
    { sched := true, mem := true, hives := true, tiers := true, fxps := true, err := true, mirror := true, journal := true, power := true, trace := true, count := true, mgmt := true }
  | .mirrorSeedRead .. =>
    { flight := true, nextId := true, sched := true, hives := true, fxps := true, mirror := true, power := true, count := true }
  | .mirrorLag .. | .selfFenced .. | .fenceTimeout .. =>
    { err := true, mirror := true, trace := true, mgmt := true }
  | .fenceAck .. =>
    { flight := true, nextId := true, hives := true, tiers := true, mirror := true, count := true }
  | .failoverReplayDone .. =>
    { all with free := false, clk := false, wins := false, chans := false, chTurn := false, jobs := false, scarabs := false, submits := false, quench := false }
  | .mirrorRestorePassEnd .. =>
    { sched := true, fxps := true, err := true, mirror := true, power := true, trace := true, count := true, mgmt := true }
  | .replayInput .. =>
    { all with chans := false, chTurn := false, jobs := false, scarabs := false, submits := false }
  | .estimatorWindowEnd .. =>
    { clk := true, err := true, power := true, trace := true, count := true, mgmt := true }
  | .railTelemetrySample .. | .pwrDivAck .. =>
    { power := true }
  | .telemetryLost .. | .pwrDivergence .. | .capUnmet .. | .supplyStall .. | .temperPeriodEnd .. | .temperStepUp .. =>
    { err := true, power := true, trace := true, mgmt := true }
  | .powerCapWrite .. =>
    { power := true, mgmt := true }
  | .droopTrip .. =>
    { clk := true, power := true, count := true }
  | .droopReleaseStep .. =>
    { clk := true }
  | .supplyWarning .. =>
    { clk := true, err := true, journal := true, power := true, trace := true, count := true, mgmt := true }
  | .supplyRecovery .. =>
    { all with free := false, wins := false, chans := false, chTurn := false, jobs := false, scarabs := false, submits := false, quench := false }
  | .supplyReset .. | .porAssert .. =>
    { all with nextId := false, free := false }
  | .domainDrainEnd .. =>
    { flight := true, nextId := true, sched := true, mem := true, hives := true, wins := true, jobs := true, err := true, trace := true, count := true, mgmt := true }
  | .domainWakeEnd .. =>
    { all with free := false, clk := false, chans := false, chTurn := false, scarabs := false, submits := false, tiers := false, journal := false, quench := false }
  | .snap .. | .thaw .. | .snapEdge .. | .snapshotTake .. | .queueOccClear .. =>
    { count := true }
  | .traceAppend .. =>
    { flight := true, nextId := true, sched := true, err := true, power := true, trace := true, count := true, mgmt := true }
  | .appenderPadTimeout .. | .traceModeWrite .. =>
    { flight := true, nextId := true, err := true, trace := true, mgmt := true }
  | .traceMark .. =>
    { hives := true, err := true, trace := true, mgmt := true }
  | .triggerAction .. =>
    { flight := true, nextId := true, err := true, trace := true, count := true, quench := true, mgmt := true }
  | .wfgBuild .. | .wfgBuildDone .. =>
    { trace := true }
  | .tsprobeSend .. =>
    { free := true, fxps := true, err := true, power := true, trace := true, mgmt := true }
  | .tsprobeRecv .. =>
    { fxps := true, err := true, journal := true, power := true, trace := true, mgmt := true }
  | .tsyncEdge .. =>
    { clk := true, err := true, journal := true, trace := true, mgmt := true }
  | .quenchRequest .. | .quenchCtlWrite .. =>
    { quench := true }
  | .quenchTake .. =>
    { clk := true, tiers := true, err := true, trace := true, count := true, quench := true, mgmt := true }
  | .quenchRefresh .. =>
    { tiers := true, quench := true }
  | .lifecycleChange .. | .warmReset .. | .startReload .. =>
    { all with nextId := false, free := false, power := false }
  | .startGo .. =>
    { clk := true, sched := true, hives := true, tiers := true, err := true, journal := true, power := true, trace := true, mgmt := true }
  | .startPhaseEnd .. =>
    { free := true, clk := true, sched := true, mem := true, hives := true, tiers := true, err := true, journal := true, power := true, trace := true, mgmt := true }
  | .t2LinkRetrain .. =>
    { free := true, sched := true, tiers := true, err := true, trace := true, mgmt := true }
where
  /-- Every part. -/
  all : Parts := ⟨true, true, true, true, true, true, true, true, true, true, true, true, true, true, true, true, true, true, true, true, true, true, true⟩

end Sys2Proof.Machine
end

