-- ==== Sys2Proof/Certificates/Slice0/Obligations.lean ====
section
/-!
DEFINITION. Obligations.lean: what is claimed of the block, each claim by the rules of the spec it rests on.
-/
open Sys2Proof Sys2Proof.Machine

/-- The queue is served first in, first out: a step takes its front command and runs it with the queue's rest. -/
def Obligations.StepRunsFrontCommand : Prop :=
  ∀ (c : Instr) (rest : List Instr) (s : State), s.pending = c :: rest → step s = exec c { s with pending := rest }

/-- The model's choice, log entry 1: with an empty queue a step lets the block go on by itself; it gives a next state, whose queue is
empty and which keeps the invariant, and while power-on reset is asserted nothing changes. -/
def Obligations.EmptyQueueStepKeepsTime : Prop :=
  ∀ s : State, s.pending = [] →
    (∃ t, step s = .next t ∧ t.pending = [] ∧ (s.Inv → t.Inv)) ∧
    (s.mgmt.por = true → s.clk.rootOn = false → step s = .next s)

/-- The state right after reset meets the invariant that every step keeps; nothing is in flight and no command waits. -/
def Obligations.ResetMeetsInvariant : Prop :=
  State.reset.Inv ∧ State.reset.pending = [] ∧ State.reset.flight = [] ∧ State.reset.mgmt.por = true

/-- From every state that meets the invariant, whichever command is in front or none, a step leads to a state that meets it: memories in
canonical form, one of the nine phases of START_CTL, and a number of its own for every transaction in flight. -/
def Obligations.EveryStepKeepsInvariant : Prop :=
  ∀ s t : State, s.Inv → step s = .next t → t.Inv

/-- No command stops the block: each row of the opcode table, in every state, gives a next state and leaves the queue as it was. -/
def Obligations.EveryCommandGivesNextState : Prop :=
  ∀ (c : Instr) (s : State), ∃ t, exec c s = .next t ∧ t.pending = s.pending

/-- The frame of every command: a command changes no part of the state but those `cmdParts` lists for it. -/
def Obligations.CommandsChangeOnlyTheirParts : Prop :=
  ∀ (c : Instr) (s t : State), exec c s = .next t → Only (cmdParts c) s t

/-- R103, R104: how a Hive's clock gates and wakes. -/
def Obligations.HiveClockGatesAndWakes : Prop :=
  ∀ (s : State) (h : HiveId) (j : Fin 16),
    (s.clk.rootOn = true → s.determ = false → s.clockOf h.val = .live → s.domLive h.val 0 = true → s.quiet h.val = true →
      64 ≤ s.idleFor h.val →
      ∃ t, exec (.hiveIdleGate h) s = .next t ∧ t = { s with hives := { s.hives with clock := t.hives.clock } } ∧
        t.clockOf h.val = .warm ∧ ∀ g, g ≠ h.val → t.clockOf g = s.clockOf g) ∧
    (∀ c, s.clk.rootOn = true → s.clockOf h.val = .waking c → c ≤ s.clk.now →
      ∃ t, exec (.hiveWakeEnd h) s = .next t ∧
        t = { s with hives := { s.hives with clock := t.hives.clock, active := t.hives.active } } ∧
        t.clockOf h.val = .live ∧ t.idleFor h.val = 0 ∧ ∀ g, g ≠ h.val → t.clockOf g = s.clockOf g ∧ t.idleFor g = s.idleFor g) ∧
    (s.intentDue h.val j.val 1 = true → s.clockOf h.val ≠ .off →
      ∃ t, exec (.powerIntentGate h j) s = .next t ∧ t = { s with hives := { s.hives with gatePend := t.hives.gatePend } } ∧
        h.val ∈ t.hives.gatePend ∧ ∀ g, g ≠ h.val → (g ∈ t.hives.gatePend ↔ g ∈ s.hives.gatePend)) ∧
    (s.intentDue h.val j.val 2 = true →
      ∃ t, exec (.powerIntentWake h j) s = .next t ∧
        t = { s with hives := { s.hives with clock := t.hives.clock, gatePend := t.hives.gatePend } } ∧
        t.clockOf h.val = (if s.clockOf h.val = .warm then .waking (s.clk.now + 4) else s.clockOf h.val) ∧
        h.val ∉ t.hives.gatePend ∧ ∀ g, g ≠ h.val → t.clockOf g = s.clockOf g ∧ (g ∈ t.hives.gatePend ↔ g ∈ s.hives.gatePend))

/-- R71, R89: the course of a commit started by a write of ARB_COMMIT. -/
def Obligations.CommitTakesEffectOrFails : Prop :=
  ∀ (s : State) (v : BitVec 32) (c : Commit), s.mgmt.por = false →
    (v.getLsbD 0 = true → s.sched.commit = none →
      ∃ t, exec (.arbCommitGo v) s = .next t ∧ t = { s with sched := { s.sched with commit := t.sched.commit } } ∧
        t.sched.commit = some { goAt := s.clk.now, checked := none, req := none, at_ := 0 }) ∧
    (s.sched.commit = some c → exec (.arbCommitGo v) s = .next s) ∧
    (s.sched.commit = some c → c.req = none →
      (c.checked = none →
        ∃ t, exec .commitChecksDone s = .next t ∧ (∀ p i, t.act p i = s.act p i ∧ t.shd p i = s.shd p i) ∧
          (s.firstInvalid.isSome → t.sched.commit = none ∧ t.sched.result = 0x52) ∧
          (s.firstInvalid = none → s.firstOver.isSome ∨ s.meshFits = false → t.sched.commit = none ∧ t.sched.result = 0x50) ∧
          (s.firstInvalid = none → s.firstOver = none → s.meshFits = true →
            t.sched.commit = some { c with checked := some s.clk.now, at_ := s.clk.ts.toNat } ∧ t.sched.result = s.sched.result)) ∧
      (∀ n, c.checked = some n → s.clk.rootOn = true → s.switchDue n = true →
        ∃ t, exec .commitSwitch s = .next t ∧ t.sched.commit = none ∧ t.sched.result = 0 ∧
          t.sched.effective = listed s.mgmt.shadow 0x2200 ∧ t.sched.reduced = [] ∧
          (∀ p i, p < 0x3200 ∨ 0x3202 < p → i < 2^24 → t.act p i = s.shd p i) ∧
          (∀ p, 0x3200 ≤ p → p ≤ 0x3202 → t.act p 0 = s.pv p 0) ∧
          (∀ p i, t.shd p i = s.shd p i)) ∧
      (∀ n, c.checked = some n → s.shd 0x2000 0 = 1 → s.switchDue n = false → c.at_ + 1000 * s.pv 0x2003 0 ≤ s.clk.ts.toNat →
        ∃ t, exec .commitNoEpoch s = .next t ∧ t.sched.commit = none ∧ t.sched.result = 0x56 ∧
          ∀ p i, t.act p i = s.act p i ∧ t.shd p i = s.shd p i))

/-- R86 to R88, R111: epochs and regulation windows. `p` is the start of the epoch that an edge meets: the one pending last, else the running one. -/
def Obligations.EpochsStartAndEnd : Prop :=
  ∀ (s : State) (p : Nat) (rest : List Nat), s.clk.rootOn = true →
    (s.mgmt.phase = 7 → s.replaying = false →
      ∃ t, exec .epochEdge s = .next t ∧ t.sched.running = s.sched.running ∧ t.sched.epoch = s.sched.epoch ∧
        (s.sched.pendStart = [] → s.sched.running = false → t.sched.pendStart = [s.clk.now + 16]) ∧
        (s.sched.pendStart.getLast? = some p ∨ (s.sched.pendStart = [] ∧ s.sched.running = true ∧ s.sched.start = p) →
          t.sched.pendStart =
            if s.epochEndOf p ≤ s.clk.now + 16 + 256 then s.sched.pendStart ++ [s.clk.now + 16] else s.sched.pendStart)) ∧
    (s.sched.pendStart = p :: rest → p ≤ s.clk.now →
      ∃ t, exec .epochStart s = .next t ∧ t.sched.running = true ∧ t.sched.epoch = s.sched.epoch + 1 ∧ t.sched.start = p ∧
        t.sched.pendStart = rest ∧ t.clk.lag16 = 0 ∧ t.power.epochAt = s.clk.hnow ∧
        (s.determ = true → t.position = some ((s.clk.now - p) % 256)) ∧
        (∀ c, s.determ = true → s.power.capPend = some c → t.power.capNow = c ∧ t.power.capPend = none) ∧
        (s.determ = false → t.power.capNow = s.power.capNow ∧ t.power.capPend = s.power.capPend) ∧
        (s.sched.running = false ∨ s.epochEndOf s.sched.start ≤ p → t.flight = s.flight) ∧
        (s.Inv → s.sched.running = true → p < s.epochEndOf s.sched.start → ∀ n x, s.xact n = some x → x.sched = true →
          x.stage = .meshIf ∨ x.stage = .link ∨ (x.stage = .arbiter ∧ p ≤ x.ready) → t.xact n = some (x.missed s.clk.now s.clk.count0))) ∧
    (s.sched.running = true → s.epochEndOf s.sched.start ≤ s.clk.now →
      ∃ t, exec .epochEnd s = .next t ∧ t = { s with sched := { s.sched with running := false } }) ∧
    ((s.clk.now - s.clk.count0) % 4096 = 0 →
      ∃ t, exec .regWindowBoundary s = .next t ∧ t.sched.winBytes = [] ∧ t.sched.demoted = [] ∧ t.sched.demNext = [] ∧
        (s.determ = true → t = { s with sched := { s.sched with winBytes := [], demoted := [], demNext := [], demSeen := [] } }))

/-- R56, R62: a port's request enters flight, a transaction for each line. -/
def Obligations.PortRequestEntersFlight : Prop :=
  ∀ (s : State) (h : HiveId) (r : PortReq), s.Inv → s.clk.rootOn = true → s.clockOf h.val ≠ .off →
    (r.sched = false → (r.port = 3 ∨ r.port = 5) → s.throttled 0 = false) →
    s.hives.ctxJobs.all (fun j => j.hive ≠ h.val ∨ j.ctx ≠ r.ctx.val) = true →
    reqShape r.port.val r.lines (r.lines.map (fun l => s.locate l.ga.toNat)) = true →
    s.tagFree h.val r.port.val r.chan.val = true →
    (s.portFree h.val r.port.val = false → exec (.portRequest h r) s = .next s) ∧
    (s.portFree h.val r.port.val = true → ∃ t, exec (.portRequest h r) s = .next t ∧ (∀ n, n < s.nextId → t.xact n = s.xact n) ∧
      ∀ i (hi : i < r.lines.length), ∃ y, t.xact (s.nextId + i) = some y ∧ y.judged ∧ y.grp = s.nextId ∧
        y.kind = r.kind ∧ y.code = r.code ∧ y.qos = r.qos.val ∧ y.ctx = r.ctx.val ∧
        y.srcUnit = h.val ∧ y.srcPort = r.port.val ∧ y.srcChan = r.chan.val ∧ y.layer = r.layer ∧ y.operator = r.operator ∧
        y.ga = r.lines[i].ga ∧ y.mask = r.lines[i].mask ∧ y.loc = s.locate r.lines[i].ga.toNat)

/-- R76, R77, R127: the ways a scalar access goes, through a handle whose class is not WINDOW. -/
def Obligations.ScalarAccessIsServedOrRefused : Prop :=
  ∀ (s : State) (h : HiveId) (r : SxpReq) (x : Xact), s.Inv → s.sxpReady h r = true → x = s.sxpX h r → s.sxpHeld x = false →
    ∃ t, exec (.sxpAccess h r) s = .next t ∧
      (∀ f, s.sxpHandle x = .inr f → ∃ y, t.xact s.nextId = some y ∧ SameAccess x y ∧ y.half = .answer ∧ y.stage = .returned ∧
        y.ready = s.clk.now + 5 ∧ y.result = .refused (BitVec.ofNat 8 f.code)) ∧
      (∀ i, s.sxpHandle x = .inl i → s.hives.moves.all (fun m => !(m.final && m.slot = hkey h.val x.ctx i)) = true →
        hClass (s.handle h.val x.ctx i) ≠ 6 →
        (s.cacheable x (s.handle h.val x.ctx i) = false → ∃ y, t.xact s.nextId = some y ∧ SameAccess x y ∧ y.judged) ∧
        (s.cacheable x (s.handle h.val x.ctx i) = true → s.issueRefusal x = none → s.sbBlock (x.checked s.clk.now) = none →
          ∀ w, s.flcFind h.val r.ga.toNat = some w →
            let v := s.way h.val (flcSet r.ga.toNat) w
            (isWr r.kind = false → x.mask &&& v.valid = x.mask → wayRead v (touched x.mask) = some (v, 0) →
              ∃ y, t.xact s.nextId = some y ∧ y.half = .answer ∧ y.stage = .returned ∧ y.ready = s.clk.now + 4 ∧ y.data = v.data ∧ y.result = .ok) ∧
            (isWr r.kind = true →
              wayRead v ((touched x.mask).filter (fun g => fld x.mask.toNat (8 * g + 7) (8 * g) ≠ 255)) = some (v, 0) →
              (∃ y, t.xact s.nextId = some y ∧ y.half = .answer ∧ y.stage = .returned ∧ y.ready = s.clk.now + 4 ∧ y.result = .ok) ∧
              let u := t.way h.val (flcSet r.ga.toNat) w
              u.data = mergeLine v.data x.data x.mask ∧ u.valid = (v.valid ||| x.mask) ∧ u.dirty = (v.dirty ||| x.mask) ∧ u.tag = v.tag)))

/-- R67, R220, R225, R226: the end of a stall at issue, and expiry. -/
def Obligations.StalledRequestsGoOn : Prop :=
  ∀ (s : State) (x : Nat) (y : Xact), s.xact x = some y → s.clk.rootOn = true → y.half = .request →
    (y.stage = .scoreboard → y.mesh = false → y.dest ∉ s.hives.sbGone → s.sbWait y = none →
      (s.sbNeeds y = true → s.sbRoom y.srcUnit false = true) →
      ((∀ o n, y.purpose ≠ .scalar o n) → y.win = none →
        ∃ t, t = (s.sbStall y).reissueAll y .scoreboard ∧ exec (.scoreboardStallEnd x) s = .next t ∧
          (s.atIssue y = [y] → y.sched = false → ∃ z, t.xact x = some z ∧ SameAccess y z ∧ z.judged ∧ z.stage ≠ .scoreboard)) ∧
      ((∀ o n, y.purpose ≠ .scalar o n) → ∀ k, y.win = some k →
        exec (.scoreboardStallEnd x) s = .next ((s.sbStall y).windowLine { y with stage := .portInput } k y.wbase)) ∧
      (∀ o n, y.purpose = .scalar o n → exec (.scoreboardStallEnd x) s = .next ((s.sbStall y).sxpGo { y with stage := .portInput, dest := 0 }))) ∧
    (y.stage = .ringStall → s.ringWait y = none →
      (y.mesh = true → exec (.ringSlotStallEnd x) s = .next ((s.ringStallRec y false).reissue y)) ∧
      (y.mesh = false → ∃ t, t = (s.ringStallRec y false).reissueAll y .ringStall ∧ exec (.ringSlotStallEnd x) s = .next t ∧
        (s.atIssue y = [y] → y.sched = false → ∃ z, t.xact x = some z ∧ SameAccess y z ∧ z.judged ∧ z.stage ≠ .ringStall))) ∧
    (∀ h i n, y.stage = .ringStall → s.ringBlock y = some (h, i, n) → (s.ringAt h i).tmo ≤ s.clk.now - y.since → y.mesh = false →
      ∃ t, exec (.ringTimeout x) s = .next t ∧
        (∀ o m, y.purpose = .scalar o m →
          (∃ z, t.xact x = some z ∧ SameAccess y z ∧ z.half = .answer ∧ z.stage = .returned ∧ z.ready = s.clk.now + 5 ∧ z.result = .refused 0x30) ∧
          (t.ringAt h i).timeouts.toNat = min (2^32 - 1) ((s.ringAt h i).timeouts.toNat + 1)) ∧
        ((∀ o m, y.purpose ≠ .scalar o m) → (∀ a b, y.purpose ≠ .flcFill a b) →
          ∃ z, t.xact x = some z ∧ SameAccess y z ∧ z.judged ∧ (s.atIssue y = [y] → z.stage ≠ .ringStall))) ∧
    (y.expired = none → y.dueAt s.clk.count0 ≤ s.clk.now →
      ∃ t, exec (.requestExpire x) s = .next t ∧ t = { s with flight := t.flight } ∧
        t.xact x = some { y with expired := some (y.dueAt s.clk.count0) } ∧ ∀ n, n ≠ x → t.xact n = s.xact n)

/-- R33, R47, R52, R64, R66: the checks at a request's target, and the grant of a row. -/
def Obligations.TargetsCheckAndGrantRequests : Prop :=
  ∀ (s : State) (x : Xact), s.clk.rootOn = true → s.xact x.id = some x →
    (x.stage = .mipHeld → x.isFill = false → x.srcChip = none → x.ready ≤ s.clk.now → s.windowInbound x = none →
      ∃ t z, exec (.mipInbound x.id) s = .next t ∧ t.xact x.id = some z ∧ SameAccess x z ∧
        (∀ c, s.mipRefusal x = some c → z.half = .answer ∧ z.result = .refused (BitVec.ofNat 8 c)) ∧
        (s.mipRefusal x = none →
          (s.ownership x.loc (s.ownCtx x) = .held → z.stage = .issueStall) ∧
          (s.ownership x.loc (s.ownCtx x) ≠ .held → (s.ringBlock x).isSome = true → z.stage = .ringStall) ∧
          (s.ownership x.loc (s.ownCtx x) ≠ .held → s.ringBlock x = none →
            z.stage = .arbiter ∧ z.ready = (s.wakeHive x.loc.unit).servesAt x.loc.unit + xbar 4 false x.loc))) ∧
    (∀ a, (∀ h, a ≠ .inject h) → s.freeAt (arbKey a) ≤ s.clk.now → s.power.hold = false →
      (((s.before (arbKey a)).filter s.eligible = [] → exec (.bankGrant a) s = .next s) ∧
      (firstBy s.bankOrder ((s.before (arbKey a)).filter s.eligible) = some x →
        (∀ y ∈ (s.before (arbKey a)).filter s.eligible, lexLt (s.bankOrder y) (s.bankOrder x) = false) ∧
        ∀ k h b r, x.loc.rowId = some (k, h, b, r) → (s.rowAt (s.rowPlace k h b r)).split = false →
          let p := s.rowPlace k h b r
          let o := bankAccess (s.rowAt p) (s.rowPz k h b r) x.kind x.code.toNat x.mask x.data (x.ga.toNat % 64)
          ∃ t z, exec (.bankGrant a) s = .next t ∧ t.freeAt (arbKey a) = s.clk.now + o.cyc ∧
            t.xact x.id = some z ∧ SameAccess x z ∧ z.half = .answer ∧ z.result = x.resultOf o.bad ∧
            (isWr x.kind = false ∨ x.kind = .atomic → z.data = o.data) ∧
            t.rowAt p = (if o.wrote then o.row else s.rowAt p) ∧ (∀ q, q ≠ p → t.rowAt q = s.rowAt q) ∧
            t.mem = { s.mem with rows := t.mem.rows })))

/-- R77 to R80, R83: the far-line cache's commands, and the ends of its fills and write-backs. -/
def Obligations.CacheCommandsRunAndEnd : Prop :=
  ∀ (s : State) (h : HiveId) (c : CtxId) (cell : Ga),
    (s.cmdFree h c → ∀ i op, (i, op) ∈ [(Instr.flcFlush h c cell, 1), (.flcInval h c cell, 2), (.flcFlushAll h c cell, 3), (.flcInvalAll h c cell, 4)] →
      (s.status h.val c.val 0x110 = 1 → exec i s = .next s) ∧
      (s.status h.val c.val 0x110 ≠ 1 → ∃ t, exec i s = .next t ∧
        (s.cellOk cell.toNat = false → t.status h.val c.val 0x110 = 4 ∧ t.hives.flcCmds = s.hives.flcCmds) ∧
        (s.cellOk cell.toNat = true → op < 3 ∧ (s.page h.val c.val 0x108).toNat % 2^48 = 0 → t.status h.val c.val 0x110 = 2) ∧
        (s.cellOk cell.toNat = true → ¬(op < 3 ∧ (s.page h.val c.val 0x108).toNat % 2^48 = 0) →
          t.status h.val c.val 0x110 = 1 ∧ ∃ f ∈ t.hives.flcCmds, f.hive = h.val ∧ f.ctx = c.val ∧ f.op = op ∧ f.cell.toNat = cell.toNat))) ∧
    (∀ f, s.clk.rootOn = true → s.hives.flcCmds.find? (fun f => f.hive = h.val && f.ctx = c.val) = some f → f.due ≠ 0 → f.due ≤ s.clk.now →
      (s.wbs h.val).all (fun x => x.purpose ≠ .flcWriteback (1 + c.val)) = true →
      ∃ t, exec (.flcOpDone h c) s = .next t ∧ t.status h.val c.val 0x110 = (if f.lost then 3 else 2) ∧
        t = ((({ s with hives := { s.hives with flcCmds := s.hives.flcCmds.filter (fun g => g ≠ f) } }.setStatus h.val c.val 0x110 (if f.lost then 3 else 2) 0).addCell
              f.cell.toNat { chip := s.chipId, unit := h.val, ctx := c.val, port := 7 }).sxpRetry h.val) ∧
        (∀ g ∈ s.hives.flcCmds, g ≠ f → ∃ g2 ∈ t.hives.flcCmds, g2.hive = g.hive ∧ g2.ctx = g.ctx ∧ g2.op = g.op ∧ g2.cell = g.cell) ∧
        (∀ g2 ∈ t.hives.flcCmds, ∃ g ∈ s.hives.flcCmds, g ≠ f ∧ g2.hive = g.hive ∧ g2.ctx = g.ctx ∧ g2.op = g.op ∧ g2.cell = g.cell)) ∧
    (∀ p g w, s.Inv → s.locate cell.toNat = .sync g w → cell.toNat ≠ 0 → ∃ z, (s.addCell cell.toNat p).xact s.nextId = some z ∧
      z.purpose = .cellAdd ∧ z.kind = .atomic ∧ z.code = 2 ∧ z.ga = cell ∧ z.data = 1 ∧ z.by_ = p.packed ∧ (z.stage = .arbiter ∨ z.stage = .meshIf ∨ z.stage = .link)) ∧
    (∀ x y, s.Inv → s.clk.rootOn = true → s.xact x = some y → y.stage = .returned → y.half = .answer → y.ready ≤ s.clk.now →
      (∀ set way, y.purpose = .flcFill set way → ∃ t, exec (.flcFill x) s = .next t ∧ t.xact x = none ∧
        t = ((((s.flcInstall y set way).dropX x).ringDone y).sxpRetry y.srcUnit) ∧
        let w := s.way y.srcUnit set way
        ((s.wayFill y.srcUnit set way).map (fun f => f.id) = some y.id → w.used = true → w.tag.toNat = flcTag y.ga.toNat →
          wayRead w (touched w.dirty) = some (w, 0) → y.result = .ok →
          (s.flcInstall y set way).way y.srcUnit set way =
            { w with valid := fullMask, fill := false }.put (mergeLine y.data w.data w.dirty) allGrans)) ∧
      (∀ k, y.purpose = .flcWriteback k → s.mirrorWaits x = false → ∃ t, exec (.flcWritebackDone x) s = .next t ∧ t.xact x = none))

/-- R50 to R53: the handover of a main bank. -/
def Obligations.BankHandoverRuns : Prop :=
  ∀ (s : State) (h : HiveId) (b : BankId),
    let o := s.ownerOf h.val b.val
    (∀ p c v, s.mgmt.por = false → (p = .ctl → c = 0 ∧ s.cmdFree h c) →
      (o.pend = true → exec (.bankOwnerWrite p c h b v) s = .next s) ∧
      (o.pend = false → ∃ t, exec (.bankOwnerWrite p c h b v) s = .next t ∧
        t.ownerOf h.val b.val = { owner := o.owner, next := v.toNat % 8, pend := true, clear := v.toNat.testBit 6, since := s.clk.now } ∧
        ∀ g k, (g, k) ≠ (h, b) → t.ownerOf g.val k.val = s.ownerOf g.val k.val)) ∧
    (s.clk.rootOn = true → o.pend = true → o.clrAt = none → s.ownerBusy h.val b.val o.owner = false →
      ∃ t, exec (.handoverDrainEnd h b) s = .next t ∧
        t.ownerOf h.val b.val = (if o.clear then { o with clrAt := some (s.clk.now + 8) } else { owner := o.next, next := o.next }) ∧
        (∀ g k, (g, k) ≠ (h, b) → t.ownerOf g.val k.val = s.ownerOf g.val k.val) ∧ t.mem = s.mem) ∧
    (∀ c, s.clk.rootOn = true → o.clrAt = some c → c ≤ s.clk.now →
      ∃ t, exec (.handoverClearEnd h b) s = .next t ∧
        t.ownerOf h.val b.val = { owner := o.next, next := o.next } ∧
        (∀ g k, (g, k) ≠ (h, b) → t.ownerOf g.val k.val = s.ownerOf g.val k.val) ∧
        ∀ k, let served := (keyParts k).1 = 0 ∧ (keyParts k).2.1 = h.val ∧ (keyParts k).2.2.1 = b.val ∧ ∃ r, s.logicalRow k = some r ∧ s.inPool r = false
          (served → t.rowAt k = { s.rowAt k with cells := 0 }) ∧ (¬served → t.rowAt k = s.rowAt k))

/-- R35, R48, R64, R65: the delivery of a request to an engine or to the scalar core. -/
def Obligations.AnswersReachTheirMasters : Prop :=
  ∀ (s : State) (x : Xact), s.Inv → s.clk.rootOn = true → s.xact x.id = some x → x.cacheOwn = false →
    let ends := fun (o : Host.Outcome State Fault Refusal) =>
      (s.deliverable (s.groupOf x) = false → o = .next s) ∧
      (s.deliverable (s.groupOf x) = true → ∃ t, o = .next t ∧
        (∀ n, n < s.nextId → s.xact n = none → t.xact n = none) ∧ (∀ y ∈ s.groupOf x, t.xact y.id = none) ∧
        ((∀ y ∈ s.groupOf x, y.purpose = .engine) → t.hives.outs = s.hives.outs ++ (s.groupOf x).map engineDeliv) ∧
        (∀ off size, s.groupOf x = [x] → x.purpose = .scalar off size → t.hives.outs = s.hives.outs ++ [scalarDeliv x off size]))
    (x.kind = .read ∨ x.kind = .fetch ∨ x.kind = .atomic → ends (exec (.responseDeliver x.id) s)) ∧
    (x.kind = .write ∨ x.kind = .acc ∨ x.kind = .atomic → ends (exec (.writeComplete x.id) s))

/-- R15, R92, R93, R114: what leaves a router's output. -/
def Obligations.RoutersForwardPackets : Prop :=
  ∀ (s : State) (h : HiveId) (d : Fin 8), s.Inv → s.clk.rootOn = true → d ≠ 5 → s.freeAt (linkKey h.val d.val) ≤ s.clk.now →
    let here := fun (y : Xact) => decide (y.stage = .link) && decide (y.unit = h.val) && decide (y.dir = d.val) && decide (y.ready ≤ s.clk.now)
    let u := s.linkMismatch h.val d.val here
    let able := fun y => here y && u.exitRoom d.val y
    let bound := fun (y : Xact) => decide (y.stage = .link) && decide (y.unit = h.val) && decide (y.dir = d.val)
    (u.linkPick h.val d.val bound able (fun y => y.inp) = none → exec (.routerForward h d) s = .next u) ∧
    (∀ x, u.linkPick h.val d.val bound able (fun y => y.inp) = some x →
      (d = 6 → x.half = .request → 268 ≤ x.dest → x.dest < 272 → x.purpose = .regAccess) →
      ∃ t, exec (.routerForward h d) s = .next t ∧ t.freeAt (linkKey h.val d.val) = s.clk.now + 1 ∧
        (∀ y ∈ packetOf (u.flight.filter able) x, t.xact y.id = some (
          if d = 4 then (if y.half = .request then { y with stage := .mipHeld, unit := y.loc.unit, ready := s.clk.now + 1, since := s.clk.now }
            else { y with stage := .returned, ready := s.clk.now + 4, since := s.clk.now })
          else if d = 6 then (if x.half = .answer then { y with stage := .returned, ready := s.clk.now + 1, since := s.clk.now }
            else { y with stage := .edgeIngress, inp := 0, unit := x.dest, ready := s.clk.now + 1, since := s.clk.now })
          else if d = 7 then y.enter h.val 5 s.clk.now else y.enter (stepDir h.val d.val) (inputOf d.val) s.clk.now)) ∧
        ∀ n, (∀ y ∈ packetOf (u.flight.filter able) x, y.id ≠ n) → t.xact n = u.xact n)

/-- R134, R135, R138, R139: the window commands and the timeout of a close. -/
def Obligations.WindowCommandsRun : Prop :=
  ∀ (s : State) (h : HiveId) (c : CtxId) (w : Fin 32),
    let q := s.win h.val w.val
    let st := s.winStaged h.val c.val
    let hs := (s.winx h.val w.val).holders
    let ops := [(Instr.winOpen h c w, 1), (.winClose h c w, 2), (.winRevoke h c w, 3), (.winForward h c w, 4)]
    let mid := fun (u : State) (n : Nat) => u.status h.val c.val 0x230 = 1 ∧ wState (u.win h.val w.val) = n ∧ wGen (u.win h.val w.val) = wGen q ∧
      wOwner (u.win h.val w.val) = wOwner q ∧ wBase (u.win h.val w.val) = wBase q ∧ wExtent (u.win h.val w.val) = wExtent q ∧
      (u.winx h.val w.val).holders = hs ∧ u.mem = s.mem ∧ u.flight = s.flight ∧ u.clk = s.clk ∧
      ∀ g v, 32 * g + v ≠ 32 * h.val + w.val → u.win g v = s.win g v
    (s.cmdFree h c →
      (s.status h.val c.val 0x230 = 1 → exec (.winRead h c w) s = .next s ∧ ∀ i op, (i, op) ∈ ops → exec i s = .next s) ∧
      (s.status h.val c.val 0x230 ≠ 1 →
        (∃ t, exec (.winRead h c w) s = .next t ∧ t.status h.val c.val 0x230 = 2 ∧ t.winStaged h.val c.val = q ∧ t.wins = s.wins) ∧
        (s.cqJournal h.val c.val = true → ∀ i op, (i, op) ∈ ops → ∃ t, exec i s = .next t ∧ t.status h.val c.val 0x230 = 1 ∧ t.wins = s.wins) ∧
        (s.cqJournal h.val c.val = false →
          (∀ i op, (i, op) ∈ ops → s.winRefused h.val c.val w.val op st = true →
            ∃ t, exec i s = .next t ∧ t.status h.val c.val 0x230 = 4 ∧ t.wins = s.wins) ∧
          (s.winRefused h.val c.val w.val 1 st = false → ∃ t, exec (.winOpen h c w) s = .next t ∧ t.status h.val c.val 0x230 = 2 ∧
            wState (t.win h.val w.val) = 1 ∧ wOwner (t.win h.val w.val) = c.val ∧ wGen (t.win h.val w.val) = wGen q ∧
            wBase (t.win h.val w.val) = wBase st ∧ wExtent (t.win h.val w.val) = wExtent st ∧ wLo (t.win h.val w.val) = wLo st ∧
            wHi (t.win h.val w.val) = wHi st ∧ wCredits (t.win h.val w.val) = wCredits st ∧
            t.winx h.val w.val = { free := wCredits st, ctlCtx := c.val, since := s.clk.now }) ∧
          (s.winRefused h.val c.val w.val 2 st = false → ∃ t u : State, exec (.winClose h c w) s = .next t ∧ mid u 2 ∧
            t = (hs.foldl (fun (v : State) (o : Holder) => if o.chip = v.chipId then v.closingAt o.hive (u.chipId, h.val, w.val, wGen q)
              else v.sendFrame 0x23 (v.ctlFrame h.val o.chip o.hive w.val (wGen q) 0 (winGa h.val q))) u).winTry h.val w.val) ∧
          (s.winRefused h.val c.val w.val 3 st = false → ∃ t u : State, exec (.winRevoke h c w) s = .next t ∧ mid u 3 ∧
            t = (hs.foldl (fun (v : State) (o : Holder) => if o.chip = v.chipId then v.revokeAt o.hive (u.chipId, h.val, w.val, wGen q)
              else v.sendFrame 0x24 (v.ctlFrame h.val o.chip o.hive w.val (wGen q) 0 (winGa h.val q))) u).winTry h.val w.val) ∧
          (s.winRefused h.val c.val w.val 4 st = false → ∃ t u : State, exec (.winForward h c w) s = .next t ∧ mid u 4 ∧
            t = if wFwdChip st = u.chipId then
                u.sendRedirects h.val w.val (wGen (u.win (wFwdHive st) (wFwdWin st))) (winGa (wFwdHive st) (u.win (wFwdHive st) (wFwdWin st)))
              else u.sendFrame 0x20 (u.ctlFrame h.val (wFwdChip st) (wFwdHive st) (wFwdWin st) 0 64 0))))) ∧
    (s.clk.rootOn = true → 2 ≤ wState q → (s.winx h.val w.val).sinceTs + usNs * (s.winx h.val w.val).tmo ≤ s.clk.ts.toNat →
      ∃ t, exec (.winCloseTimeout h w) s = .next t ∧ wState (t.win h.val w.val) = 0 ∧ wGen (t.win h.val w.val) = (wGen q + 1) % 256 ∧
        t.winx h.val w.val = {} ∧ t.winSignal h.val w.val = 0)

/-- R102, R132, R134, R137, R445: what becomes of the lines of a frame. -/
def Obligations.LineFramesReachTheirWindow : Prop :=
  (∀ (s : State) (k : FxpId) (f : Frame), s.Inv →
    let due := if f.sched && s.determ then s.releaseDue f.relEpoch.toNat f.relPeriod.toNat f.relPos.toNat else some (0, false)
    let behind := (s.early k.val).any (fun y => y.srcChip = some (f.srcChip.val, f.srcHive.val))
    let comes := fun (kind : AccKind) (go : Host.Outcome State Fault Refusal) =>
      (s.frameOpen f = false → go = .next s) ∧
      (s.frameOpen f = true → (due = none ∨ behind = true) →
        (256 < (s.early k.val).length + f.payload.length → go = .next s) ∧
        ((s.early k.val).length + f.payload.length ≤ 256 →
          ∃ t, go = .next t ∧ t.wins = s.wins ∧ t.mem = s.mem ∧ ∀ j (hj : j < f.payload.length), ∃ y, t.xact (s.nextId + j) = some y ∧
            y.stage = .fxpRelease ∧ y.unit = k.val ∧ y.kind = kind ∧ y.data = f.payload[j] ∧ y.srcChip = some (f.srcChip.val, f.srcHive.val))) ∧
      (s.frameOpen f = true → ∀ late e, due = some (late, e) → behind = false →
        (1024 < (s.ingress k.val).length + f.payload.length → go = .next s) ∧
        ((s.ingress k.val).length + f.payload.length ≤ 1024 →
          ∃ t, go = .next t ∧ t.wins = s.wins ∧ t.mem = s.mem ∧ ∀ j (hj : j < f.payload.length), ∃ y, t.xact (s.nextId + j) = some y ∧
            y.stage = .link ∧ y.dir = 7 ∧ y.unit = fxpRouter k.val y.dest ∧ y.kind = kind ∧ y.data = f.payload[j] ∧
            y.srcChip = some (f.srcChip.val, f.srcHive.val) ∧ (f.sched = false ∨ late ≠ 0 → y.sched = false)))
    comes .write (exec (.rwriteRecv k f) s) ∧ comes .acc (exec (.raccRecv k f) s) ∧ comes .atomic (exec (.ratomicRecv k f) s)) ∧
  (∀ (s : State) x y, s.clk.rootOn = true → s.xact x = some y → y.stage = .fxpRelease →
    s.flight.all (fun z => z.stage ≠ .fxpRelease ∨ z.unit ≠ y.unit ∨ z.srcChip ≠ y.srcChip ∨ y.seq ≤ z.seq) = true →
    (s.ingress y.unit).length < 1024 →
    let due := if y.sched then s.releaseDue y.release.1 y.release.2.1 y.release.2.2 else some (0, false)
    (due = none → exec (.fxpSchedRelease x) s = .next s) ∧
    (∀ late e, due = some (late, e) →
      ∃ t z, exec (.fxpSchedRelease x) s = .next t ∧ t.xact x = some z ∧ z.stage = .link ∧ z.dir = 7 ∧ z.unit = fxpRouter y.unit y.dest ∧
        z.kind = y.kind ∧ z.data = y.data ∧ z.ga = y.ga ∧ z.sched = (y.sched && decide (late = 0)) ∧ t.mem = s.mem ∧ (∀ n, n ≠ x → t.xact n = s.xact n) ∧
        (late ≠ 0 → t = (s.remoteLate y.unit (if e then 9 else 7) late y).1.fxpInject y.unit (y.missed s.clk.now s.clk.count0)))) ∧
  (∀ (s : State) x y, s.clk.rootOn = true → s.xact x = some y → y.stage = .mipHeld → y.isFill = false → y.ready ≤ s.clk.now → y.srcChip.isSome = true →
    s.flight.all (fun z => z.purpose ≠ y.purpose ∨ z.srcChip ≠ y.srcChip ∨ z.win.isNone ∨ y.seq ≤ z.seq ∨ z.half = .answer) = true →
    let u := s.dropX x
    let f := s.earlyFrame y
    let h := frameHive f
    let q := u.win h f.win.val
    exec (.mipInbound x) s = .next (((u.frameAt y).winTry y.dest (y.win.getD (0, 0, 0, 0)).2.2.1).markTry y.dest (y.win.getD (0, 0, 0, 0)).2.2.1) ∧
    (y.forwarded = false → wState q ≠ 4 → (wState q = 1 → (u.winx h f.win.val).sources = []) →
      (∀ c, u.lineCheck h f.win.val f.winGen.toNat f.srcChip.val f.srcHive.val f.ga.toNat = some c →
        u.frameAt y = (u.discard h c (wOwner q) (kindByte y.kind) f).rackCount h f.win.val f.srcChip.val f.srcHive.val) ∧
      (u.lineCheck h f.win.val f.winGen.toNat f.srcChip.val f.srcHive.val f.ga.toNat = none →
        ∃ z, u.frameAt y = (u.spend h f.win.val f.srcChip.val f.srcHive.val).applyLine h f.win.val z ∧ z.ga = y.ga ∧ z.mask = y.mask ∧
          z.data = y.data ∧ z.kind = (winKind q y.kind f.op.toNat).1 ∧ z.srcChip = y.srcChip)))

/-- R133, R136 to R140: the control frames of windows. -/
def Obligations.ControlFramesMoveCredits : Prop :=
  ∀ (s : State) (k : FxpId) (f : Frame),
    let h := f.dstHive.val
    let w := f.win.val
    let chip := f.srcChip.val
    let hive := f.srcHive.val
    let n := f.count.toNat
    let x := s.winx h w
    (s.frameOpen f = false → ∀ i ∈ [Instr.rackRecv k f, .creditReqRecv k f, .creditGrantRecv k f, .creditReturnRecv k f, .closingRecv k f, .revokeRecv k f,
      .redirectRecv k f, .redirectAckRecv k f, .switchMarkRecv k f], exec i s = .next s) ∧
    (s.frameOpen f = true →
      (let v := ((s.frameSeen k.val 0x10 f).unappliedAt f).rackAt h chip hive w n
       exec (.rackRecv k f) s = .next ((v.retryLines h).closeReturn h) ∧
       v.wins.allots = s.wins.allots.map (fun a => if a.hive = h && a.chip = chip && a.dhive = hive && a.win = w && a.st = .held then { a with credit := a.credit + n } else a)) ∧
      (f.op ≠ 1 → wLo (s.win h w) ≤ chip → chip ≤ wHi (s.win h w) →
        (wState (s.win h w) = 1 → x.sources = [] → ∃ t : State, exec (.creditReqRecv k f) s = .next t ∧
          (∀ o, x.holder chip hive = some o → t.winx h w = { (x.mapHolder chip hive (fun o => { o with credit := o.credit + min n x.free })) with free := x.free - min n x.free }) ∧
          (x.holder chip hive = none → t.winx h w = { x with free := x.free - min n x.free, holders := x.holders ++ [⟨chip, hive, min n x.free, false, false⟩] }) ∧
          ∃ r ∈ t.fxps.retain, r.kind = 0x21 ∧ r.frame.count = BitVec.ofNat 16 (min n x.free) ∧ r.frame.dstChip = chipFin chip ∧ r.frame.dstHive = hiveFin hive) ∧
        (wState (s.win h w) = 2 ∨ wState (s.win h w) = 3 → ∃ t : State, exec (.creditReqRecv k f) s = .next t ∧ t.wins = s.wins ∧
          ∃ r ∈ t.fxps.retain, r.kind = 0x23 ∧ r.frame.dstChip = chipFin chip ∧ r.frame.dstHive = hiveFin hive ∧ r.frame.winGen = BitVec.ofNat 8 (wGen (s.win h w)))) ∧
      (s.awaiting h chip hive w = [] → (∀ v, v < 32 → wState (s.win h v) ≠ 4) →
        let v := (s.frameSeen k.val 0x21 f).grantAt h (framePlace f) n f.ga.toNat f.mask.toNat
        exec (.creditGrantRecv k f) s = .next (v.retryLines h) ∧
        v.wins.allots = s.wins.allots.map (fun a => if a.hive = h && (a.chip, a.dhive, a.win, a.gen) = framePlace f then
            { a with credit := a.credit + n, st := if a.st = .asked then .held else a.st, base := if a.extent = 0 then f.ga.toNat else a.base,
                     extent := if a.extent = 0 then f.mask.toNat else a.extent } else a)) ∧
      (wGen (s.win h w) = f.winGen.toNat →
        exec (.creditReturnRecv k f) s = .next (((s.frameSeen k.val 0x22 f).setWinx h w
          { (x.mapHolder chip hive (fun o => { o with credit := o.credit - n })) with free := x.free + n }).winTry h w)) ∧
      (let v := (s.frameSeen k.val 0x23 f).mapAllot (fun a => a.hive = h && (a.chip, a.dhive, a.win, a.gen) = framePlace f && (a.st = .asked || a.st = .held))
          (fun a => { a with st := .closing, since := (s.frameSeen k.val 0x23 f).clk.now })
       exec (.closingRecv k f) s = .next ((v.retryLines h).closeReturn h)) ∧
      (∀ a, s.allot h chip hive w f.winGen.toNat = some a →
        exec (.revokeRecv k f) s = .next ((((s.frameSeen k.val 0x24 f).mapAllot (fun b => b = a) (fun b => { b with credit := 0, st := .revoked })).retryLines h).giveBack
          h (framePlace f) a.credit a.base) ∧
        ∀ p, p = unpackPlace f.mask → p.1 ≠ s.chipId → chip ≠ s.chipId →
          let v := (s.frameSeen k.val 0x25 f).mapAllot (fun b => b = a) (fun b => { b with credit := 0, st := .redirected, next := some p })
          (v.allot h p.1 p.2.1 p.2.2.1 p.2.2.2).isSome = true →
          let c := max 1 (v.creditStalled h (framePlace f)).length
          let y := v.sendFrame 0x20 { v.ctlFrame h p.1 p.2.1 p.2.2.1 p.2.2.2 c (unpackBase f.mask) with op := 1 }
          exec (.redirectRecv k f) s = .next ((y.sendFrame 0x26 (y.ctlFrame h chip hive w f.winGen.toNat a.credit a.base)).retryLines h)) ∧
      exec (.redirectAckRecv k f) s = .next (State.fwdPump 2000 ((s.frameSeen k.val 0x26 f).setWinx h w
        { (x.mapHolder chip hive (fun o => { o with credit := o.credit - n, acked := true })) with free := x.free + n }) h w) ∧
      (x.toMark = [] →
        (s.flight.any (fun y => y.purpose = .window (32 * h + w) && y.half = .request && y.forwarded) = false → 
          let v := (((s.frameSeen k.val 0x27 f).setWinx h w { x with toMark := [(chip, hive, f.winGen.toNat)] }).setWinx h w x).markSource h chip hive w f.winGen.toNat
          exec (.switchMarkRecv k f) s = .next (v.releaseHeld h w chip hive) ∧ v.wins.held = s.wins.held ∧
          v.winx h w = { x with sources := x.sources.filter (fun p => p ≠ (chip, hive)),
                                holders := x.holders.map (fun o => if o.chip = chip && o.hive = hive && wGen (s.win h w) = f.winGen.toNat then { o with marked := true } else o) }) ∧
        (s.flight.any (fun y => y.purpose = .window (32 * h + w) && y.half = .request && y.forwarded) = true → ∃ t,
          exec (.switchMarkRecv k f) s = .next t ∧ t.winx h w = { x with toMark := [(chip, hive, f.winGen.toNat)] })))

/-- R133, R415, R445: what the fabric reports to senders. -/
def Obligations.FabricReportsActOnSenders : Prop :=
  ∀ (s : State) (k : FxpId) (chip : ChipId), s.clk.rootOn = true →
    (∀ h hive, chip.val ≠ s.chipId → ∃ t, exec (.rackTimer h chip hive) s = .next t ∧ ∀ w : Fin 32,
      let r := Tbl.get s.wins.racks {} (rackKey h.val w.val chip.val hive.val)
      let due := r.lines ≠ 0 ∧ (64 ≤ r.lines ∨ r.since + 256 ≤ s.clk.now)
      (due → Tbl.get t.wins.racks {} (rackKey h.val w.val chip.val hive.val) = {} ∧
        t.winx h.val w.val = (if wState (s.win h.val w.val) = 1 then
          (s.winx h.val w.val).mapHolder chip.val hive.val (fun o => { o with credit := o.credit + r.lines }) else s.winx h.val w.val)) ∧
      (¬due → Tbl.get t.wins.racks {} (rackKey h.val w.val chip.val hive.val) = r ∧ t.winx h.val w.val = s.winx h.val w.val)) ∧
    (∀ idx, ∃ t, exec (.fxDelivered k chip idx) s = .next t ∧ t = { s with fxps := t.fxps } ∧
      t.fxps.retain = s.fxps.retain.filter (fun r => !(r.fxp = k.val && r.chip = chip.val && decide (r.idx ≤ idx.toNat))) ∧
      t.fxps.mretain = (if chip.val = s.pv 0x5000 0 ∧ s.fxpOf chip.val = k.val then s.fxps.mretain.filter (fun r => decide (idx.toNat < r.idx)) else s.fxps.mretain)) ∧
    (chip.val ≠ s.pv 0x5000 0 → ∃ t, exec (.fxLost k chip) s = .next t ∧ chip.val ∈ t.fxps.lost ∧
      t.fxps.retain = s.fxps.retain.filter (fun r => !(r.fxp = k.val && r.chip = chip.val)) ∧ t.fxps.mretain = s.fxps.mretain ∧ t.mem.rows = s.mem.rows)

/-- R121, R123 to R125: HANDLE_OP, HANDLE_TABLE and the end of a drain. -/
def Obligations.HandleCommandsRun : Prop :=
  ∀ (s : State) (h : HiveId) (c : CtxId) (i : Fin 64),
    let key := hkey h.val c.val i.val
    (s.cmdFree h 0 →
      (s.status h.val 0 0x210 = 1 → ∀ a ∈ [Instr.handleLoad .ctl h c i, .handleDrop .ctl h c i, .handleRead h c i], exec a s = .next s) ∧
      (s.status h.val 0 0x210 ≠ 1 →
        (∃ t, exec (.handleRead h c i) s = .next t ∧ t.status h.val 0 0x210 = 2 ∧ t.handleStaged h.val = s.handle h.val c.val i.val ∧
          t.hives.handles = s.hives.handles) ∧
        let op := fun (o : Host.Outcome State Fault Refusal) (q : Quad) => ∃ t, o = .next t ∧ t.hives.handles = s.hives.handles ∧
            (s.cqJournal h.val 0 = true → t.status h.val 0 0x210 = 1) ∧
            (s.cqJournal h.val 0 = false → (s.draining h.val c.val i.val = true ∨ s.loadRefused q = true) →
              t.status h.val 0 0x210 = 4 ∧ t.hives.drains = s.hives.drains) ∧
            (s.cqJournal h.val 0 = false → s.draining h.val c.val i.val = false → s.loadRefused q = false →
              t.status h.val 0 0x210 = 1 ∧ Tbl.find t.hives.drains key = some { entry := q, since := s.clk.now, ctl := true, jseq := none, again := false })
        op (exec (.handleLoad .ctl h c i) s) (s.handleStaged h.val) ∧ op (exec (.handleDrop .ctl h c i) s) 0)) ∧
    (s.clk.rootOn = true → s.mgmt.por = false →
      let wr := fun (o : Host.Outcome State Fault Refusal) (q : Quad) =>
        ((s.draining h.val c.val i.val = true ∨ s.loadRefused q = true) → o = .next s) ∧
        (s.draining h.val c.val i.val = false → s.loadRefused q = false → ∃ t, o = .next t ∧ t.hives.handles = s.hives.handles ∧
          Tbl.find t.hives.drains key = some { entry := if hClass q = 0 then 0 else q, since := s.clk.now, ctl := false, jseq := none, again := false })
      (∀ q, wr (exec (.handleLoad (.ypp q) h c i) s) q) ∧ wr (exec (.handleDrop .ypp h c i) s) 0) ∧
    (∀ d, s.clk.rootOn = true → Tbl.find s.hives.drains key = some d → s.handleBusy h.val c.val i.val = false →
      ∃ t, exec (.handleDrainEnd h c i) s = .next t ∧ Tbl.find t.hives.drains key = none ∧
        (d.again = false → t.handle h.val c.val i.val = withGen d.entry ((hGen (s.handle h.val c.val i.val) + 1) % 256)) ∧
        ∀ g e j, (g, e, j) ≠ (h, c, i) → t.handle g.val e.val j.val = s.handle g.val e.val j.val)

/-- R45, R120: the writes that fix the hierarchy, the pool and the chip's number. -/
def Obligations.PoolAndModeChangesClear : Prop :=
  ∀ (s : State), s.mgmt.por = false →
    (∀ i p w, ((∃ v : Byte, i = Instr.hierarchyModeWrite v ∧ p = 0x1000 ∧ w = v.toNat) ∨ (∃ v : BitVec 16, i = .poolContribWrite v ∧ p = 0x1001 ∧ w = v.toNat)) →
      let legal := (p = 0x1000 ∧ w ≤ 1) ∨ (p = 0x1001 ∧ w ∈ [0, 128, 256, 384, 512])
      ((s.noHiveLive = false ∨ ¬legal ∨ w = s.pv p 0) → exec i s = .next s) ∧
      (s.noHiveLive = true → legal → w ≠ s.pv p 0 → ∃ t, exec i s = .next t ∧ t.pv p 0 = w ∧
        (∀ k, (keyParts k).2.2.2 < 768 →
          let moved := (keyParts k).1 = 0 ∧ 768 - max s.poolC t.poolC ≤ (keyParts k).2.2.2 ∧ (keyParts k).2.2.2 < 768 - min s.poolC t.poolC
          (moved → t.rowAt k = { s.rowAt k with cells := 0 }) ∧ (¬moved → t.rowAt k = s.rowAt k)) ∧
        (p = 0x1000 ∨ s.poolC ≠ t.poolC → ∀ e ∈ t.hives.handles, hClass e.2 = 2 → (Tbl.find s.hives.drains e.1).isSome = true))) ∧
    (∀ v : BitVec 16,
      ((1023 < v.toNat ∨ (s.mgmt.idWrote = true ∧ v.toNat ≠ s.chipId)) → exec (.chipIdWrite v) s = .next s) ∧
      (v.toNat ≤ 1023 → (s.mgmt.idWrote = false ∨ v.toNat = s.chipId) → ∃ t, exec (.chipIdWrite v) s = .next t ∧ t.chipId = v.toNat ∧
        t.mgmt.idWrote = true ∧ t = { s with mgmt := t.mgmt }))

/-- R141, R142: SAVE, RESTORE and the passes of a MOVE. -/
def Obligations.ContextsSaveRestoreAndMove : Prop :=
  ∀ (s : State) (h : HiveId) (c : CtxId) (ref : BitVec 16),
    let a := s.wakeHive h.val
    (s.cmdFree h 0 →
      (∀ i, i = Instr.ctxSave h c ref ∨ i = .ctxRestore h c ref → a.status h.val 0 0x240 = 1 → exec i s = .next a) ∧
      (∀ f, a.status h.val 0 0x240 ≠ 1 → a.ctxRef h.val ref.toNat (a.ctxOff h.val) true = .inl f →
        ∃ t, exec (.ctxSave h c ref) s = .next t ∧ t.status h.val 0 0x240 = 4 ∧ t.hives.ctxJobs = s.hives.ctxJobs) ∧
      (∀ ga, a.status h.val 0 0x240 ≠ 1 → a.ctxRef h.val ref.toNat (a.ctxOff h.val) true = .inr ga → ∃ t, exec (.ctxSave h c ref) s = .next t ∧
        t.status h.val 0 0x240 = (if a.ownsOpen h.val c.val then 4 else 1) ∧
        t.hives.ctxJobs = (if a.ownsOpen h.val c.val then s.hives.ctxJobs else s.hives.ctxJobs ++ [{ hive := h.val, ctx := c.val, base := ga, slot := ref.toNat % 64, lost := [] }])) ∧
      (∀ f, a.status h.val 0 0x240 ≠ 1 → a.ctxRef h.val ref.toNat (a.ctxOff h.val) false = .inl f →
        ∃ t, exec (.ctxRestore h c ref) s = .next t ∧ t.status h.val 0 0x240 = 4 ∧ t.hives.handles = s.hives.handles) ∧
      (∀ ga, a.status h.val 0 0x240 ≠ 1 → a.ctxRef h.val ref.toNat (a.ctxOff h.val) false = .inr ga →
        let ls := (List.range (imageBytes / 64)).map (fun j => a.peek (ga + 64 * j))
        let img := (ls.zipIdx).foldl (fun a e => a + e.1.1.toNat * 2^(512 * e.2)) 0
        let bad := !a.imageOk ga || ls.any (fun l => l.2) || imageGet img 0 2 ≠ 1 || imageGet img imageCrcAt 4 ≠ imageCrc img
        ((bad = true ∨ a.restoreInto h.val c.val img = none) → ∃ t, exec (.ctxRestore h c ref) s = .next t ∧ t.status h.val 0 0x240 = 4 ∧ t.hives.handles = s.hives.handles) ∧
        (∀ u, bad = false → a.restoreInto h.val c.val img = some u → exec (.ctxRestore h c ref) s = .next ((u.ctxStatus h.val 2).ctxGo h.val)))) ∧
    (∀ j, s.clk.rootOn = true → s.hives.ctxJobs.find? (fun j => j.hive = h.val) = some j → s.ctxQuiet h.val j.ctx = true → s.ctxFenced h.val j.ctx = true →
      let ends := fun (u : State) (st : Nat) =>
        (State.ctxStatus { u with hives := { u.hives with ctxJobs := u.hives.ctxJobs.filter (fun k => k.hive ≠ h.val) } } h.val st).ctxGo h.val
      let l := s.ctxAllots h.val j.ctx
      (s.imageOk j.base = false → exec (.ctxSaveDone h) s = .next (ends s 4)) ∧
      (s.imageOk j.base = true → exec (.ctxSaveDone h) s = .next (ends ((List.range (imageBytes / 64)).foldl (fun (u : State) n => u.poke (j.base + 64 * n) fullMask
          (BitVec.ofNat 512 (imageGet ((s.ctxReturn l).ctxImage h.val j.ctx l) (64 * n) 64))) (s.ctxReturn l)) 2))) ∧
    (∀ m, s.clk.rootOn = true → s.hives.moves.find? (fun m => m.hive = h.val) = some m → (s.chan (m.slot / 512) m.chan).st = .run → s.movePassed m = true →
      (m.final = false → ∃ t, exec (.movePassEnd h) s = .next t ∧ t = { s with hives := { s.hives with moves := t.hives.moves } } ∧
        t.hives.moves = s.hives.moves.map (fun (n : Move) => if n.slot = m.slot then
          { n with pass := m.pass + 1, todo := n.dirty, final := decide (n.dirty.length ≤ m.few) || decide (m.most ≤ m.pass + 1) } else n)) ∧
      (m.final = true → ∃ t, exec (.movePassEnd h) s = .next t ∧ t = s.moveCommit m ∧
        ∀ d i, (s.chan (m.slot / 512) m.chan).desc? m.desc = some d → i < 64 → m.slot % 64 = i →
          let q := s.handle (m.slot / 512) (m.slot / 64 % 8) i
          t.handle (m.slot / 512) (m.slot / 64 % 8) i = BitVec.ofNat 128 (setFld (setFld (setFld q.toNat 99 92 ((hGen q + 1) % 256)) 87 84
            (hClass (s.handle (m.slot / 512) (m.slot / 64 % 8) (dDstRef d.w % 64)))) 41 0 (m.dst / 64))))

/-- R214, R235: RFENCE and barrier arrivals. -/
def Obligations.FencesAndBarriersCount : Prop :=
  ∀ (s : State) (h : HiveId) (c : CtxId),
    (s.cmdFree h c →
      let a := s.wakeHive h.val
      let g0 := (a.page h.val c.val 0x328).toNat % 2^48
      let cell := g0 / 8 * 8
      let begins := fun (o : Host.Outcome State Fault Refusal) (n : Nat) (all : Bool) =>
        (s.status h.val c.val 0x320 = 1 → o = .next s) ∧
        (s.status h.val c.val 0x320 ≠ 1 → a.cellOk cell = false → ∃ t, o = .next t ∧ t.status h.val c.val 0x320 = 4 ∧ t.hives.fences = s.hives.fences) ∧
        (s.status h.val c.val 0x320 ≠ 1 → a.cellOk cell = true →
          let need := if all then (a.hives.sent.filter (fun e => e.1 / 1024 = 8 * h.val + c.val)).map (fun e => (e.1 % 1024, e.2.sent))
            else [(n, (Tbl.get a.hives.sent {} (ctxChip h.val c.val n)).sent)]
          let acked := fun m => (Tbl.get a.hives.sent {} (ctxChip h.val c.val m)).acked
          let f : Fence := { hive := h.val, ctx := c.val, need := need, lost := [], all := all, since := s.clk.now }
          let done := need.all (fun m => decide (m.2 ≤ acked m.1) || a.fxps.lost.contains m.1) &&
            !a.fencePend f (fun k => (all || need.any (fun m => m.1 = k)) && !a.fxps.lost.contains k)
          let lost := need.any (fun m => a.fxps.lost.contains m.1 && decide (acked m.1 < m.2))
          ∃ t, o = .next t ∧ t.status h.val c.val 0x320 = (if done then if lost then 3 else 2 else 1) ∧
            (done = false → t.hives.fences = s.hives.fences ++ [f]) ∧
            (done = true → t.hives.fences = s.hives.fences.filter (fun g => g ≠ f) ∧
              ∀ g w, s.Inv → a.locate g0 = .sync g w → g0 ≠ 0 →
                ∃ z, t.xact s.nextId = some z ∧ z.purpose = .cellAdd ∧ z.kind = .atomic ∧ z.code = 2 ∧ z.ga = BitVec.ofNat 48 g0 ∧ z.data = 1))
      begins (exec (.fence h c) s) 0 true ∧ ∀ chip, begins (exec (.fenceChip h c chip) s) chip.val false) ∧
    (∀ x w, s.clk.rootOn = true → x.loc = .sync h.val w → x.syncWords = [w % 8] → 8064 ≤ w → (w - 8064) % 4 = 0 → isWr x.kind = true → s.freeAt x.loc.arb ≤ s.clk.now →
      firstBy s.bankOrder ((s.before x.loc.arb).filter s.eligible) = some x → s.xact x.id = some x → (s.syncAt h.val w).chk = 0 →
      let b := (w - 8064) / 4
      let d : Dword := if x.kind = .atomic then BitVec.ofNat 64 (x.data.toNat % 2^64) else Line.gran x.data (w % 8)
      let p := d.toNat % 64
      let e := s.barrier h.val b
      let bit : Dword := BitVec.ofNat 64 (2^p)
      ∃ t z, exec (.barrierArrive x.id) s = .next t ∧ t.xact x.id = some z ∧ z.half = .answer ∧
        (x.kind = .atomic → z.data = Line.setGran 0 (w % 8) e.state) ∧
        let v := t.barrier h.val b
        v.mask = e.mask ∧
        (e.mask &&& bit = 0 → v = e) ∧
        (e.mask &&& bit ≠ 0 → e.arrived &&& bit = 0 → e.arrived ||| bit ≠ e.mask → v.gen = e.gen ∧ v.arrived = e.arrived ||| bit ∧ v.held = e.held) ∧
        (e.mask &&& bit ≠ 0 → e.arrived &&& bit = 0 → e.arrived ||| bit = e.mask → e.held ≠ e.mask → v.gen = e.gen + 1 ∧ v.arrived = e.held ∧ v.held = 0) ∧
        (e.mask &&& bit ≠ 0 → e.arrived &&& bit = 0 → e.arrived ||| bit = e.mask → e.held = e.mask → v.gen = e.gen + 2 ∧ v.arrived = 0 ∧ v.held = 0) ∧
        (e.mask &&& bit ≠ 0 → e.arrived &&& bit ≠ 0 → v.gen = e.gen ∧ v.arrived = e.arrived ∧ v.held = e.held ||| bit))

/-- R223, R224: RING_OP. -/
def Obligations.RingCommandsRun : Prop :=
  ∀ (s : State) (h : HiveId) (c : CtxId) (i : Fin 16), s.cmdFree h c →
    (s.status h.val c.val 0x940 = 1 → ∀ a ∈ [Instr.ringDeclare h c i, .ringUndeclare h c i, .ringRead h c i], exec a s = .next s) ∧
    (s.status h.val c.val 0x940 ≠ 1 →
      let e := s.ringStaged h.val c.val
      let r : Ring :=
        { en := true, owner := c.val, full := BitVec.ofNat 256 (fld e 511 256), tmo := fld e 247 216, nslots := fld e 199 192,
          lines := fld e 191 176, base := fld e 175 160 }
      let lo := r.base
      let hi := r.base + (r.nslots + 1) * r.lines
      let bad := (s.ringAt h.val i.val).en = true ∨ r.tmo = 0 ∨ r.lines = 0 ∨ 64 < r.lines ∨ 768 * 64 < hi ∨
        s.inPool (lo / 64) ≠ s.inPool ((hi - 1) / 64) ∨
        (∃ j < 16, let g := s.ringAt h.val j; g.en = true ∧ g.base < hi ∧ lo < g.base + (g.nslots + 1) * g.lines) ∨
        (s.inPool (lo / 64) = false ∧ ∃ l, lo ≤ l ∧ l < hi ∧ (s.ownerOf h.val (l % 64)).owner ≠ c.val)
      ∃ t u v, exec (.ringDeclare h c i) s = .next t ∧ exec (.ringUndeclare h c i) s = .next u ∧ exec (.ringRead h c i) s = .next v ∧
        (bad → t.status h.val c.val 0x940 = 4 ∧ t.hives.rings = s.hives.rings) ∧
        (¬bad → t.status h.val c.val 0x940 = 2 ∧ t.ringAt h.val i.val = r) ∧
        ((s.ringAt h.val i.val).en = true → (s.ringAt h.val i.val).owner = c.val → u.status h.val c.val 0x940 = 2 ∧ u.ringAt h.val i.val = {}) ∧
        ((s.ringAt h.val i.val).en = false ∨ (s.ringAt h.val i.val).owner ≠ c.val → u.status h.val c.val 0x940 = 4 ∧ u.hives.rings = s.hives.rings) ∧
        v.status h.val c.val 0x940 = 2 ∧ v.ringStaged h.val c.val = (s.ringAt h.val i.val).entry.toNat ∧ v.hives.rings = s.hives.rings ∧
        ∀ g j, (g, j) ≠ (h, i) → t.ringAt g.val j.val = s.ringAt g.val j.val ∧ u.ringAt g.val j.val = s.ringAt g.val j.val)

/-- R228 to R233: WAIT_OP, WAIT_RESULT, release passes and timeouts. -/
def Obligations.WaitsArmAndRelease : Prop :=
  ∀ (s : State) (h : HiveId) (c : CtxId),
    (s.cmdFree h c → let a := s.wakeHive h.val
      (∀ dec (cond : Fin 8) (tmo : BitVec 24) (cell : BitVec 13),
        let i := if dec then Instr.waitdec h c tmo cell else .wait h c cond tmo cell
        let arg := a.page h.val c.val 0x300
        let bad := if dec then arg = 0 ∨ 8064 ≤ cell.toNat else cond = 7 ∨ (8064 ≤ cell.toNat ∧ cell.toNat % 4 ≠ 1)
        ((bad ∨ ∀ n < 128, (s.wait h.val n).state ≠ 0) →
          ∃ t, exec i s = .next t ∧ t.status h.val c.val 0x308 = 4 ∧ t.hives.waits = s.hives.waits) ∧
        (∀ n < 128, ¬bad → (s.wait h.val n).state = 0 → (∀ m < n, (s.wait h.val m).state ≠ 0) →
          (16 ≤ (Tbl.get s.hives.passes [] h.val).length → exec i s = .next (a.cmdHold h.val c.val i)) ∧
          ((Tbl.get s.hives.passes [] h.val).length < 16 → ∃ t, exec i s = .next t ∧ t.status h.val c.val 0x308 = 2 ∧
            fld (t.page h.val c.val 0x308).toNat 52 46 = n ∧ t.hives.armNo = s.hives.armNo + 1 ∧
            t.wait h.val n = { state := 1, ctx := c.val, cond := if dec then 0 else cond.val, dec := dec, cell := cell.toNat, tmo := tmo.toNat,
                               value := arg, order := s.hives.armNo + 1, armed := s.clk.now } ∧
            (∀ m, m ≠ n → t.wait h.val m = s.wait h.val m) ∧
            ∃ p, p.cell = cell.toNat ∧ Tbl.get t.hives.passes [] h.val = Tbl.get s.hives.passes [] h.val ++ [p]))) ∧
      (∀ r : Fin 128, let mine := (s.wait h.val r.val).state = 1 ∧ (s.wait h.val r.val).ctx = c.val
        ∃ t, exec (.waitCancel h c r) s = .next t ∧ (mine → t.status h.val c.val 0x308 = 0 ∧ t.wait h.val r.val = {}) ∧
          (¬mine → t.status h.val c.val 0x308 = 4 ∧ t.hives.waits = s.hives.waits) ∧ ∀ m, m ≠ r.val → t.wait h.val m = s.wait h.val m) ∧
      (∀ n < 128, 2 ≤ (s.wait h.val n).state → (s.wait h.val n).ctx = c.val →
        (∀ m < n, (s.wait h.val m).state < 2 ∨ (s.wait h.val m).ctx ≠ c.val) →
        ∃ t, exec (.waitResultRead h c) s = .next t ∧ t.page h.val c.val 0x310 = dwordOf [(63, 62, (s.wait h.val n).state), (6, 0, n)] ∧
          t.page h.val c.val 0x318 = (s.wait h.val n).value ∧ t.wait h.val n = {} ∧ ∀ m, m ≠ n → t.wait h.val m = s.wait h.val m) ∧
      ((∀ m < 128, (s.wait h.val m).state < 2 ∨ (s.wait h.val m).ctx ≠ c.val) →
        ((∃ m < 128, (s.wait h.val m).state = 1 ∧ (s.wait h.val m).ctx = c.val) → exec (.waitResultRead h c) s = .next (a.cmdHold h.val c.val (.waitResultRead h c))) ∧
        ((∀ m < 128, (s.wait h.val m).state = 0 ∨ (s.wait h.val m).ctx ≠ c.val) →
          ∃ t, exec (.waitResultRead h c) s = .next t ∧ t.page h.val c.val 0x310 = 0 ∧ t.hives.waits = s.hives.waits))) ∧
    (∀ n : Fin 128, let w := s.wait h.val n.val
      s.ctlOpen h.val = true → w.state = 1 → w.tmo ≠ 0 → 256 * w.tmo ≤ s.clk.now - w.armed →
      ∃ t, exec (.waitTimeout h n) s = .next t ∧ t.wait h.val n.val = { w with state := 3 } ∧
        (∀ m, m ≠ n.val → t.wait h.val m = s.wait h.val m) ∧ t.mem.sync = s.mem.sync) ∧
    (∀ p q, Tbl.get s.hives.passes [] h.val = p :: q → s.ctlOpen h.val = true → s.power.hold = false → s.freeAt (passKey h.val) ≤ s.clk.now →
      let on := fun dec m => m < 128 ∧ (s.wait h.val m).state = 1 ∧ (s.wait h.val m).cell = p.cell ∧ (s.wait h.val m).dec = dec
      let v := s.syncVal h.val p.cell
      ∃ t, exec (.releasePass h) s = .next t ∧ Tbl.get t.hives.passes [] h.val = q ∧
        ((∀ m, ¬on true m) → t.mem.sync = s.mem.sync ∧ ∀ m, t.wait h.val m =
          (if on false m ∧ condHolds (s.wait h.val m).cond v (s.wait h.val m).value = true then { s.wait h.val m with state := 2, value := v } else s.wait h.val m)) ∧
        (∀ n, p.cell < 8064 → (∀ m, ¬on false m) → (∀ m, on true m ↔ m = n) → ∀ m, t.wait h.val m =
          (if m = n ∧ (s.wait h.val n).value.toNat ≤ v.toNat then { s.wait h.val n with state := 2, value := v } else s.wait h.val m)) ∧
        (∀ n, p.cell < 8064 → (∀ m, ¬on false m) → (∀ m, on true m ↔ m = n) → (s.wait h.val n).value.toNat ≤ v.toNat →
          t.syncRead h.val p.cell = v - (s.wait h.val n).value))

/-- R146 to R148, R178: RING_CTL, RING_TAIL, CHAN_CMD and the end of a drain. -/
def Obligations.ChannelsTakeCommands : Prop :=
  ∀ (s : State) (h : HiveId) (k : ChanId) (o : CtxId),
    (s.chCtx h.val k.val = o.val → s.cmdFree h o → let a := s.wakeHive h.val
      let c := s.chan h.val k.val
      (c.en = true → exec (.chanEnable h k) s = .next a) ∧
      (c.en = false → exec (.chanEnable h k) s = .next ((a.setChan h.val k.val
          { c with en := true, st := (if c.st = .idle then .run else c.st), failed := 0, next := (if c.descs.isEmpty then c.done else c.next) }).chanFetch h.val k.val)) ∧
      (∃ t, exec (.chanDisable h k) s = .next t ∧
        t.chan h.val k.val = { c with en := false, st := if c.st = .run ∧ c.descs = [] then .idle else c.st }) ∧
      (∀ v : BitVec 16, (2^c.lsize < (v.toNat + 65536 - c.done.toNat) % 65536 → exec (.ringTailWrite h k v) s = .next a) ∧
        ((v.toNat + 65536 - c.done.toNat) % 65536 ≤ 2^c.lsize →
          exec (.ringTailWrite h k v) s = .next ((a.setChan h.val k.val { c with tailPend := c.tailPend ++ [(v.toNat, s.nextId)] }).tailApply h.val k.val) ∧
          (c.tailPend = [] → (∀ x ∈ s.flight, x.srcUnit = h.val → x.ctx = o.val → x.srcChip = none → isWr x.kind = true →
              x.srcPort ≠ 0 ∧ x.srcPort ≠ 1 ∧ x.srcPort ≠ 2 ∧ x.srcPort ≠ 6) →
            exec (.ringTailWrite h k v) s = .next (((a.setChan h.val k.val { c with tailPend := [(v.toNat, s.nextId)] }).setChan h.val k.val { c with tail := v }).chanFetch h.val k.val)))) ∧
      (c.st ≠ .halted → exec (.chanResume h k) s = .next a ∧ exec (.chanSkip h k) s = .next a) ∧
      (c.st = .halted → ∀ d, c.desc? c.desc.toNat = some d →
        (let e := { d with phase := .fetching, resumed := d.phase = .issued || d.phase = .presented || d.resumed, src := [] }
          let u := (a.setChan h.val k.val { c with st := .run }).setDesc h.val k.val e
          let off := c.slotOff c.desc.toNat
          exec (.chanResume h k) s = .next (match u.checkHandle h.val o.val c.ringRef.toNat true false (some (off, off + 63)) with
            | some f => u.chanHandleHalt h.val k.val c.desc.toNat f (u.refGa h.val o.val c.ringRef.toNat off)
            | none => u.chanReq h.val k.val (u.refGa h.val o.val c.ringRef.toNat off) .read 0 fullMask 0 0 .ringFetch c.desc.toNat)) ∧
        (let d' := { d with phase := .complete, noAct := true }
          let v := ((a.setChan h.val k.val { c with st := .run, failed := c.failed + 1 }).setDesc h.val k.val d').footEnd h.val k.val d.idx
          exec (.chanSkip h k) s = .next ((if d.jseq.isSome then v.descJournal h.val k.val d' jFailed c.code.toNat else v).chanAdvance h.val k.val))) ∧
      (c.st = .idle ∨ c.st = .draining → exec (.chanAbort h k) s = .next a) ∧
      (c.st = .run ∨ c.st = .halted ∨ c.st = .paused →
        let u := (a.chanStop h.val k.val true).setChan h.val k.val { c with st := .draining, pausing := false }
        exec (.chanAbort h k) s = .next ({ u with hives := { u.hives with moves := u.hives.moves.filter (fun m => !(m.slot / 512 = h.val && m.chan = k.val)) } }.sxpRetry h.val)) ∧
      (c.st ≠ .run → exec (.chanPause h k) s = .next a) ∧
      (c.st = .run → let edge := ∀ d, c.head? = some d → d.phase ≠ .issued ∨ (d.wrLine = 0 ∧ dOp d.w ≠ 4)
        ∃ t, exec (.chanPause h k) s = .next t ∧ (edge → t.chan h.val k.val = { c with st := .paused, pausing := false }) ∧
          (¬edge → t.chan h.val k.val = { c with pausing := true })) ∧
      (c.st ≠ .paused → exec (.chanContinue h k) s = .next a) ∧
      (c.st = .paused → exec (.chanContinue h k) s = .next ((a.setChan h.val k.val { c with st := .run }).chanFetch h.val k.val))) ∧
    (
      let c := s.chan h.val k.val
      let held := s.ctlOpen h.val = false ∨ c.en = false ∨ c.st ≠ .run ∨ c.pausing = true ∨ c.next = c.tail ∨ (∃ d ∈ c.descs, d.sentAll = false) ∨
        s.fetchHeld h.val (s.chCtx h.val k.val) = true ∨ s.jFull = true ∨ (c.fenceWait = true ∧ c.descs ≠ []) ∨ s.tagFree h.val 3 k.val = false ∨ s.throttled 0 = true ∨
        s.movedRef h.val (s.chCtx h.val k.val) c.ringRef.toNat = true
      let off := c.slotOff c.next.toNat
      (held → s.chanFetch h.val k.val = s) ∧
      (¬held → let u := s.setChan h.val k.val { c with descs := c.descs ++ [{ idx := c.next.toNat }], next := c.next + 1, fenceWait := false, desc := c.next }
        s.chanFetch h.val k.val = (match u.checkHandle h.val (s.chCtx h.val k.val) c.ringRef.toNat true false (some (off, off + 63)) with
          | some f => u.chanHandleHalt h.val k.val c.next.toNat f (u.refGa h.val (s.chCtx h.val k.val) c.ringRef.toNat off)
          | none => u.chanReq h.val k.val (u.refGa h.val (s.chCtx h.val k.val) c.ringRef.toNat off) .read 0 fullMask 0 0 .ringFetch c.next.toNat)) ∧
      ∀ (u : State) ga kind code mask data w p tag y, let n := u.nextId
        let t := u.addX { grp := n, kind := kind, code := BitVec.ofNat 4 code, qos := descQos w, ctx := u.chCtx h.val k.val,
                          deadline := u.deadlineAt (u.dlOffset (descQos w) (descDl w)), ga := BitVec.ofNat 48 ga, mask := mask, data := data, srcUnit := h.val,
                          srcPort := 3, srcChan := k.val, layer := BitVec.ofNat 16 (dLayer w), operator := BitVec.ofNat 16 (dOper w), unit := h.val,
                          since := u.clk.now, born := u.clk.now, loc := u.locate ga, purpose := p, tag := tag, dxpTag := u.dxpTagOf h.val k.val }
        t.xact n = some y → u.chanReq h.val k.val ga kind code mask data w p tag =
          if t.dxpFree y.srcUnit = false ∨ 1024 < t.tagsHeld y.srcUnit 3 ∨ 64 < t.chanTags y.srcUnit y.srcChan then t
          else (t.occupy (dxpKey y.srcUnit) 1).issue (y.stamped t.clk.now) true) ∧
    (
      let c := s.chan h.val k.val
      s.clk.rootOn = true → c.st = .draining →
      (∀ x ∈ s.flight, x.ofChan h.val k.val = true → x.stage = .mirrorQueue) →
      ∃ t, exec (.chanDrainEnd h k) s = .next t ∧ t.chan h.val k.val =
        { c with st := .idle, en := false, failed := c.failed + (c.tail - c.done), done := c.tail, next := c.tail, descs := [],
                 fenceWait := false })

/-- R126, R147 to R150, R155, R156, R161, R167: from the fetch of a descriptor to its issue. -/
def Obligations.DescriptorsAreCheckedAndIssued : Prop :=
  ∀ (s : State) (h : HiveId) (k : ChanId) (d : Desc), s.clk.rootOn = true →
    let c := s.chan h.val k.val
    let ctx := s.chCtx h.val k.val
    let ready := d.phase = .ready ∧ d.jwait = false ∧ d.resumed = false ∧ ∀ i < 64, descUses d i = true → s.movedRef h.val ctx i = false
    c.head? = some d → c.st = .run →
    (d.phase = .fetching → ∀ l, Tbl.find d.src 0 = some l →
      let back := dFence l.data = true ∧ d.resumed = false ∧ 1 < c.descs.length
      let d' := { d with w := l.data, phase := .accepted, src := [] }
      (l.result ≠ .ok → exec (.descFetch h k) s = .next (s.chanHalt h.val k.val d.idx l.result.dmaCode (c.ringRef.toNat % 64)
        (s.refGa h.val ctx c.ringRef.toNat (c.slotOff d.idx)))) ∧
      (l.result = .ok → back → ∃ t, exec (.descFetch h k) s = .next t ∧
        t.chan h.val k.val = { c with descs := c.descs.filter (fun e => e.idx ≠ d.idx), next := BitVec.ofNat 16 d.idx, fenceWait := true }) ∧
      (l.result = .ok → ¬back → let u := s.setDesc h.val k.val d'
        let bad := s.descBad h.val k.val l.data = true ∨ (indDims l.data = [] ∧ d'.cutShort = true)
        (dJournal l.data = true → d.jseq = none → exec (.descFetch h k) s = .next (u.descAccept h.val k.val d')) ∧
        (dJournal l.data = false ∨ d.jseq ≠ none →
          (bad → exec (.descFetch h k) s = .next (u.chanHalt h.val k.val d.idx 0x16 0 0)) ∧
          (¬bad → indDims l.data = [] → exec (.descFetch h k) s = .next (u.setDesc h.val k.val { d' with phase := .ready, jwait := false }) ∧
            ((u.setDesc h.val k.val { d' with phase := .ready, jwait := false }).chan h.val k.val).desc? d.idx = some { d' with phase := .ready, jwait := false })))) ∧
    (d.phase = .bounds → (∀ j ∈ indDims d.w, ∃ l, Tbl.find d.src j = some l ∧ l.result = .ok) →
      let b := { d with bnd := (indDims d.w).map (fun j => (j, (Tbl.get d.src ⟨0, 0, .ok⟩ j).data.toNat % 2^64)), src := [], rdLine := 0 }
      (b.cutShort = false → ∃ t e, exec (.boundWordReturn h k) s = .next t ∧ (t.chan h.val k.val).desc? d.idx = some e ∧ e = { b with phase := .ready }) ∧
      (b.cutShort = true → exec (.boundWordReturn h k) s = .next ((s.setDesc h.val k.val b).chanHalt h.val k.val d.idx 0x16 0 0))) ∧
    (
      let issues := fun (o : Host.Outcome State Fault Refusal) (op : Nat) => ready → dOp d.w = op →
        (s.sbRoom h.val true = false → d.sb = 0 → o = .next s) ∧
        (s.sbRoom h.val true = true ∨ d.sb ≠ 0 →
          ∀ f ga, s.descFault h.val k.val d = some (f, ga) → o = .next (s.chanHandleHalt h.val k.val d.idx f ga)) ∧
        (s.sbRoom h.val true = true → s.descFault h.val k.val d = none → d.sb = 0 → d.jseq = none →
          let r := s.footGa h.val ctx (dDstRef d.w) d.dstFoot
          let q := s.handle h.val ctx (dDstRef d.w % 64)
          let off := if hClass q = 6 then s.chipSpace (hChip q) else 0
          ∃ t e, o = .next t ∧ (t.chan h.val k.val).desc? d.idx = some e ∧ e.w = d.w ∧ e.sb = s.nextId ∧
            e.wrRow = 0 ∧ e.wrLine = 0 ∧ e.wrN = 0 ∧ e.rdRow = 0 ∧ e.rdLine = 0 ∧ e.src = [] ∧ t.mem = s.mem ∧
            (d.nextOut 0 < dRows d.w → e.phase = .issued ∧ t.hives.sb = s.hives.sb ++
              [{ id := s.nextId, hive := h.val, lo := off + r.1, hi := off + r.2, port := 3, chan := k.val, desc := d.idx, ctx := ctx, since := s.clk.now }]) ∧
            (dRows d.w ≤ d.nextOut 0 → e.phase = .presented ∧ t.hives.sb = s.hives.sb.filter (fun e => e.id ≠ s.nextId)))
      issues (exec (.dmaTile h k) s) 1 ∧ issues (exec (.dmaFill h k) s) 2 ∧ issues (exec (.dmaCopy h k) s) 3) ∧
    (ready → dOp d.w = 0 →
      (∀ f ga, s.descFault h.val k.val d = some (f, ga) → exec (.dmaNop h k) s = .next (s.chanHandleHalt h.val k.val d.idx f ga)) ∧
      (s.descFault h.val k.val d = none → d.jseq = none → ∃ t e, exec (.dmaNop h k) s = .next t ∧
        (t.chan h.val k.val).desc? d.idx = some e ∧ e.phase = .presented ∧ t.mem = s.mem)) ∧
    (ready → dOp d.w = 4 →
      let q := s.handle h.val ctx (dSrcRef d.w % 64)
      let len : Int := 64 * hExtent q
      let dst := s.checkHandle h.val ctx (dDstRef d.w) false true (some (dDstOff d.w, dDstOff d.w + len - 1))
      (∀ f, s.checkHandle h.val ctx (dSrcRef d.w) true false none = some f → exec (.dmaMove h k) s = .next (s.chanHandleHalt h.val k.val d.idx f (hBase q))) ∧
      (s.checkHandle h.val ctx (dSrcRef d.w) true false none = none → dst = none → s.cmplCheck h.val ctx (dCmpl d.w) (dCmplRef d.w) (dCmplWord d.w) = none →
        let src := hBase q / 0x400000
        (moveRefused q = true → exec (.dmaMove h k) s = .next (s.chanHalt h.val k.val d.idx 0x16 0 0)) ∧
        (moveRefused q = false → (∃ m ∈ s.hives.moves, m.hive = src) → exec (.dmaMove h k) s = .next s) ∧
        (moveRefused q = false → (∀ m ∈ s.hives.moves, m.hive ≠ src) → d.jseq = none → ∃ t e m, exec (.dmaMove h k) s = .next t ∧
          (t.chan h.val k.val).desc? d.idx = some e ∧ e.phase = .issued ∧ t.hives.moves = s.hives.moves ++ [m] ∧
          m.hive = src ∧ m.slot = hkey h.val ctx (dSrcRef d.w % 64) ∧ m.lines = hExtent q ∧ m.dst = s.refGa h.val ctx (dDstRef d.w) (dDstOff d.w) ∧
          m.pass = 0 ∧ m.dirty = [] ∧ ∀ l, l ∈ m.todo ↔ ∃ j < hExtent q, l = hBase q % 0x400000 / 64 + j)))

/-- R159, R163, R165, R166, R174, R175: the lines of a channel, commands at their unit, and the end of a descriptor. -/
def Obligations.LinesGoOutAndDescriptorsComplete : Prop :=
  ∀ (s : State) (h : HiveId) (k : ChanId),
    let c := s.chan h.val k.val
    let s' := s.dxpPump h.val
    (s.ctlOpen h.val = false → exec (.dmaLinePresent h) s = .next s) ∧
    (s.ctlOpen h.val = true → s'.dxpFree h.val = false → exec (.dmaLinePresent h) s = .next (s'.chanPump h.val)) ∧
    (s.ctlOpen h.val = true → s'.dxpFree h.val = true →
      exec (.dmaLinePresent h) s = .next ((s'.dxpRequest h.val).chanPump h.val) ∧
      ((∀ j < 16, ∀ b, State.chanOffer 64 s' h.val j [] b = (s', none)) → exec (.dmaLinePresent h) s = .next (s'.chanPump h.val))) ∧
    (∀ used sched n,
      let held := fun (d : Desc) => ∃ i < 64, descUses d i = true ∧ s.movedRef h.val (s.chCtx h.val k.val) i = true
      ((∀ d, c.head? = some d → c.st ≠ .run ∨ d.phase ≠ .issued ∨ d.jwait = true ∨ (dOp d.w = 4 ∧ s.moveOf h.val k.val d = none) ∨
          (dOp d.w ≠ 4 ∧ (held d ∨ (c.pausing = true ∧ d.wrLine = 0)))) →
        State.chanOffer (n + 1) s h.val k.val used sched = (s, none)) ∧
      (∀ d, c.head? = some d → c.st = .run → d.phase = .issued → d.jwait = false → dOp d.w ≠ 4 → ¬held d → (c.pausing = false ∨ d.wrLine ≠ 0) →
        let fits := fun (o : Offer) => o.sched = sched ∧ lineBank o.x ∉ used ∧ s.lineMatch h.val o.x = true ∧ (o.sched = true ∨ s.throttled 0 = false)
        (∀ o, s.nextWrite h.val k.val d = .offer o → fits o → c.ahead + o.lines ≤ 65 → s.chanStalled h.val k.val = false →
          State.chanOffer (n + 1) s h.val k.val used sched = (s, some o)) ∧
        (∀ o, s.offerRead h.val k.val d = some o → fits o → s.nextWrite h.val k.val d = .none →
          (∀ x ∈ s.flight, x.ofChan h.val k.val = true → isWr x.kind = true → x.unsent = true → o.x.hi ≤ x.lo ∨ x.hi ≤ o.x.lo) →
          State.chanOffer (n + 1) s h.val k.val used sched = (s, some o)) ∧
        (∀ code ga, s.nextWrite h.val k.val d = .halt code ga →
          State.chanOffer (n + 1) s h.val k.val used sched = (s.chanHalt h.val k.val d.idx code (dSrcRef d.w % 64) ga, none)))) ∧
    (∀ x, s.xact x.id = some x → s.clk.rootOn = true → x.isFill = true → x.half = .request → (x.stage = .mipHeld ∨ x.stage = .edgeIngress) → x.ready ≤ s.clk.now →
      let y := { x with stage := .bankFirst, unit := x.loc.unit, by_ := 0, mask := 0 }
      (x.code ≠ 1 → exec (.fillCmdRecv x.id) s = .next ((List.range y.runCount).foldl (fun s i => s.cmdLineWrite y y.fillBytes i) (s.setX y))) ∧
      (x.code = 1 → exec (.fillCmdRecv x.id) s = .next ((List.range ((y.runSrc + y.runLen - 1) / 64 - y.runSrc / 64 + 1)).foldl
        (fun s j => s.runAccess y .read (64 * (y.runSrc / 64 + j)) j fullMask 0) (s.setX y)))) ∧
    (∀ (u : State) (y : Xact) kind ga i mask data, (∀ x ∈ u.flight, x.id < u.nextId) → ∃ z t, t.xact u.nextId = some z ∧ t.mem = u.mem ∧
      u.runAccess y kind ga i mask data = (if y.loc.unit < 256 then t.mipCheck z else t) ∧ z.kind = kind ∧ z.ga = BitVec.ofNat 48 ga ∧ z.mask = mask ∧
      z.data = data ∧ z.tag = i ∧ z.loc = u.locate ga ∧ z.purpose = .run y.id ∧ z.stage = .edgeIngress ∧ z.sched = false ∧ z.seq = y.seq ∧ z.ctx = y.ctx) ∧
    (∀ (u : State) x y cmd, u.xact cmd = some y → isWr x.kind = true →
      let z := if x.result = .ok then { y with mask := y.mask ||| BitVec.ofNat 64 (2^x.tag) } else y.runFault x.tag false x.result x.ga.toNat
      let v := u.setX z
      u.runLineEnd x cmd = if v.runs cmd = [] then (match v.xact cmd with
        | some z => v.answer z z.loc.unit 1
        | none => v) else v) ∧
    (∀ d l, c.descs = d :: l → (∀ e ∈ l, e.idx ≠ d.idx) → s.clk.rootOn = true → d.phase = .presented → d.open_ = [] → d.jwait = false → c.st ≠ .draining →
      d.noAct = false → (c.st = .halted → c.desc.toNat ≠ d.idx) → s.movedRef h.val (s.chCtx h.val k.val) (dCmplRef d.w) = false →
      (d.jseq = none ∨ (∃ n, d.jseq = some n ∧ jState (s.jEntry n) = jDone) →
        (dCmpl d.w = 0 → (∀ e, l.head? = some e → e.phase ≠ .complete ∨ e.jwait = true) →
          let u := State.descPop 64 (s.setDesc h.val k.val { d with phase := .complete, jwait := false }) h.val k.val
          exec (.descComplete h k) s = .next ((u.chanFetch h.val k.val).chanIdle h.val k.val) ∧ u.chan h.val k.val = { c with descs := l, done := c.done + 1 }) ∧
        (dCmpl d.w ≠ 0 → let w := s.refGa h.val (s.chCtx h.val k.val) (dCmplRef d.w) (8 * dCmplWord d.w)
          let u := s.setDesc h.val k.val { d with jwait := false, noAct := true }
          exec (.descComplete h k) s = .next (u.chanReq h.val k.val w .atomic 2 (byteMask (w % 64) 8) 1 d.w .completion d.idx) ∧
            u.chan h.val k.val = { c with descs := { d with noAct := true } :: l })) ∧
      (∀ n, d.jseq = some n → jState (s.jEntry n) ≠ jDone → let p := s.persisted h.val k.val d
        exec (.descComplete h k) s = .next (if p.2 then p.1.descJournal h.val k.val d jDone 0 else p.1)))

/-- R194 to R199, R201, R18: JOB_OP, the queue of a Scarab, accumulation and the end of a job. -/
def Obligations.ScarabJobsRunAndEnd : Prop :=
  ∀ (s : State) (h : HiveId) (c : CtxId),
    (s.cmdFree h c → let a := s.wakeHive h.val
      (∀ target : BitVec 4, (s.status h.val c.val 0xC40 = 1 → exec (.jobSubmit h c target) s = .next a) ∧
        (s.status h.val c.val 0xC40 ≠ 1 → 12 < target.toNat → ∃ t, exec (.jobSubmit h c target) s = .next t ∧ t.status h.val c.val 0xC40 = 4 ∧ t.jobs = s.jobs) ∧
        (s.status h.val c.val 0xC40 ≠ 1 → target.toNat ≤ 12 →
          let t := a.setStatus h.val c.val 0xC40 1 (fld (a.page h.val c.val 0xC40).toNat 55 48 * 2^48)
          let u := { t with submits := s.submits ++ [(h.val, c.val, target.toNat, a.jobStaged h.val c.val)] }
          exec (.jobSubmit h c target) s = .next u.submitsTry ∧ u.status h.val c.val 0xC40 = 1 ∧ u.jobs = s.jobs)) ∧
      (∀ n : Fin 256, let key := jobKey h.val n.val
        let j := s.job key
        let mine := j.ctx = c.val ∧ (j.st = .done ∨ j.st = .failed)
        s.status h.val c.val 0xC40 ≠ 1 →
        (mine → ∃ t, exec (.jobRelease h c n) s = .next t ∧ t.status h.val c.val 0xC40 = 0 ∧
          ((∀ e ∈ s.scarabs, key ∉ e.2) → t.job key = {}) ∧ ((∃ e ∈ s.scarabs, key ∈ e.2) → t.job key = { j with st := .free })) ∧
        (¬mine → ∃ t, exec (.jobRelease h c n) s = .next t ∧ t.status h.val c.val 0xC40 = 4 ∧ t.jobs = s.jobs))) ∧
    (∀ w target n, s.fetchHeld h.val c.val = false → (∀ i < 64, jobUses w i = true → s.movedRef h.val c.val i = false) → n < 256 → s.job (jobKey h.val n) = {} → (∀ m < n, s.job (jobKey h.val m) ≠ {}) →
      let key := jobKey h.val n
      let q := fun (r : Nat) => (s.handle h.val c.val (r % 64)).toNat
      ((s.jobInvalid h.val c.val w = true ∨ (s.jobFault h.val c.val w).isSome = true) →
        ∃ t, s.submitTry (h.val, c.val, target, w) = t ∧ t.status h.val c.val 0xC40 = 4 ∧ t.jobs = s.jobs) ∧
      (s.jobInvalid h.val c.val w = false → s.jobFault h.val c.val w = none →
        let v := show State from { s with submits := s.submits.filter (fun x => !(x.1 = h.val && x.2.1 = c.val)) }
        let j : Job := { st := .waiting, w := w, ctx := c.val, target := target,
                         refs := [q (sTblRef w), q (sIdxRef w), q (sAuxRef w), q (sWgtRef w), q (sOutRef w), q (sCmplRef w)] }
        let u := (v.setJob key j).setStatus h.val c.val 0xC40 1 (n * 2^48)
        s.submitTry (h.val, c.val, target, w) = u.jobRegister key ∧ u.status h.val c.val 0xC40 = 1 ∧ u.job key = j)) ∧
    (∀ n : Fin 256, let key := jobKey h.val n.val
      let j := s.job key
      let u := scarabUnit h.val j.target
      s.clk.rootOn = true → j.st = .waiting →
      (j.sb = 0 → (∃ r ∈ j.listRanges, ∃ e ∈ s.hives.sb, e.hive = h.val ∧ e.lo < r.2 ∧ r.1 < e.hi) ∨ s.sbRoom h.val true = false →
        exec (.jobQueueAccept h n) s = .next s) ∧
      (j.sb ≠ 0 → s.queueRoom h.val u = false → exec (.jobQueueAccept h n) s = .next s) ∧
      (j.sb ≠ 0 → s.queueRoom h.val u = true → ∃ t, exec (.jobQueueAccept h n) s = .next t ∧ t.job key = { j with st := .queued } ∧
        t.scarab u = s.scarab u ++ [key] ∧ t.status h.val j.ctx 0xC40 = 2)) ∧
    (∀ u : ScarabId, s.clk.rootOn = true →
      (∀ key, (s.scarab u.val).find? (fun k => !(s.job k).readAll) = some key → (s.job key).st = .queued →
        let v := s.scarabStart u.val
        exec (.scarabJobStart u) s = .next (v.scarabPump u.val) ∧
          v.job key = { s.job key with st := .running, readAll := decide (sIdx (s.job key).w = 0) } ∧ ∀ k, k ≠ key → v.job k = s.job k) ∧
      (∀ key r l, (s.scarab u.val).find? (fun k => !(s.job k).rob.isEmpty) = some key → (s.job key).rob = r :: l →
        let j := s.job key
        (j.headReady u.val r = false → exec (.scarabSliceReturn u) s = .next (s.scarabPump u.val)) ∧
        (j.headReady u.val r = true → let v := s.robTake u.val key r
          exec (.scarabSliceReturn u) s = .next (v.scarabPump u.val) ∧
          (r.kind ≠ .fault → (r.kind = .row → j.rowResult r = .ok) → (v.job key).rob = l) ∧
          (r.kind = .row → j.rowResult r = .ok → sKind j.w = 1 →
            (v.job key).bagN = j.bagN + 1 ∧
            ∀ i, (j.colSpan u.val r.col).1 ≤ i → i < (j.colSpan u.val r.col).2 →
              let x := elem32 (sTblFmt j.w) (j.rowOf r 0) (sElems j.w) i
              let x := if sRed j.w = 3 then mul32 x r.wgt.toNat else x
              let o := (Tbl.get j.acc 0 (accKey r.bag i)).toNat
              Tbl.get (v.job key).acc 0 (accKey r.bag i) = BitVec.ofNat 64
                (if sRed j.w = 2 then (if j.bagN = 0 then max32 x x else max32 o x) else if j.bagN = 0 then x else add32 o x)))) ∧
      (∀ key, (s.scarab u.val).find? (fun k => (s.job k).st = .running && (s.job k).readAll && (s.job k).rob.isEmpty && (s.job k).outQ.isEmpty && (s.job k).outs = 0) = some key →
        let v := s.jobEnd u.val key
        exec (.scarabJobComplete u) s = .next (State.jobActs 128 v u.val) ∧
          (v.job key).st = (if (s.job key).stop then .failed else .done) ∧ (v.job key).sb = 0 ∧
          v.hives.sb = s.hives.sb.filter (fun e => e.id ≠ (s.job key).sb)) ∧
      (∀ key l n, s.scarab u.val = key :: l → let j := s.job key
        (j.ended = false ∨ j.acted = true → State.jobActs (n + 1) s u.val = s) ∧
        (j.ended = true → j.acted = false → j.stop = false → sCmpl j.w ≠ 0 → let w := j.at_ 5 (8 * sCmplWord j.w)
          State.jobActs (n + 1) s u.val = (s.setJob key { j with acted := true }).jobReq u.val key 0 w .atomic 2 (byteMask (w % 64) 8) 1 .completion none) ∧
        (j.ended = true → j.acted = false → j.stop = true ∨ sCmpl j.w = 0 → let v := s.jobLeave u.val key
          State.jobActs (n + 1) s u.val = State.jobActs n v u.val ∧ v.scarab u.val = without (key :: l) key ∧ (j.st = .free ∨ (j.st = .done ∧ j.fails = 0 ∧ j.code = 0) → v.job key = {}))))

/-- R119, R257, R267, R328: the commands of the edge units and their completions. -/
def Obligations.EdgeCommandsFlushAndPersist : Prop :=
  ∀ (s : State) (cell : Ga), s.clk.rootOn = true →
    let st := fun (t : State) (u : Nat) => fld (t.edgeReg u 0).toNat 63 60
    let ended := fun (i : Instr) (c : EdgeCmd) (n unit : Nat) => let v := { s with tiers := { s.tiers with cmds := s.tiers.cmds.filter (fun d => d ≠ c) } }.edgeStatus c.unit n
      exec i s = .next (v.addCell c.cell.toNat { chip := s.chipId, unit := unit }) ∧ st v c.unit = n ∧ v.tiers.cmds = s.tiers.cmds.filter (fun d => d ≠ c) ∧ v.tiers.bufs = s.tiers.bufs ∧ v.mem = s.mem ∧ v.flight = s.flight
    let starts := fun (o : Host.Outcome State Fault Refusal) (u : Nat) =>
      (st s u = 1 → o = .next s) ∧
      (st s u ≠ 1 → s.cellOk cell.toNat = false → ∃ t, o = .next t ∧ st t u = 4 ∧ t.tiers = s.tiers ∧ t.mem = s.mem) ∧
      (st s u ≠ 1 → s.cellOk cell.toNat = true → ∃ t, o = .next t ∧ st t u = 1 ∧ t.mem = s.mem ∧ t.flight = s.flight ∧
        t.tiers.cmds = s.tiers.cmds ++ [{ unit := u, cell := cell, need := s.nextId, pages := (s.bufsOf u).map (fun b => b.page) }] ∧
        t.tiers.bufs = s.tiers.bufs.map (fun b => if b.unit = u then { b with closing := true } else b))
    (∀ k : StackId, starts (exec (.t1cFlush k cell) s) k.val) ∧ (∀ k : CartId, starts (exec (.persist k cell) s) (8 + k.val)) ∧
    (st s 16 = 1 → exec (.msync cell) s = .next s) ∧
    (st s 16 ≠ 1 → s.cellOk cell.toNat = false → ∃ t, exec (.msync cell) s = .next t ∧ st t 16 = 4 ∧ t.tiers = s.tiers ∧ t.mirror = s.mirror) ∧
    (st s 16 ≠ 1 → s.cellOk cell.toNat = true → let c : EdgeCmd := { unit := 16, cell := cell, need := s.mirror.sendSeq, pages := [] }
      (s.paired = false → ended (.msync cell) c 3 uMu) ∧
      (s.paired = true → let u := s.edgeStatus 16 1
        exec (.msync cell) s = .next ({ u with tiers := { u.tiers with cmds := s.tiers.cmds ++ [c] } }.sendSeq 0x45 0 0 0 0 0 [] [.msync] false) ∧ st u 16 = 1)) ∧
    (∀ (k : StackId) c, s.tiers.cmds.find? (fun c => c.unit = k.val) = some c → let clear := ∀ p ∈ c.pages, s.bufOf k.val p = none
      (clear → ended (.t1cFlushDone k) c 2 (uT1 k.val)) ∧ (¬clear → exec (.t1cFlushDone k) s = .next s)) ∧
    (∀ (k : CartId) c, s.tiers.cmds.find? (fun c => c.unit = 8 + k.val) = some c →
      let clear := (∀ p ∈ c.pages, s.bufOf (8 + k.val) p = none) ∧ ∀ x ∈ s.flight, x.half = .request → x.loc.unit = uT2 k.val → isWr x.kind = true →
        ¬(x.stage = .outstanding ∧ x.id < c.need) ∧ ¬(x.purpose = .pageOp ∧ x.tn / 64 ∈ c.pages)
      (clear → ended (.persistDone k) c 2 (uT2 k.val)) ∧ (¬clear → exec (.persistDone k) s = .next s))

/-- R252, R256 to R258: T1_REQUEST, PAGE_BUFFER_IDLE_CLOSE and PAGE_BUFFER_CLOSE_DONE. -/
def Obligations.T1RequestsTakeTheirWay : Prop :=
  ∀ (s : State), s.clk.rootOn = true →
    (∀ n y raw, s.xact n = some y → y.loc = .t1 raw → y.half = .request → y.isFill = false →
      (y.stage = .edgeIngress ∨ y.stage = .pageBuffer) → y.ready ≤ s.clk.now →
      let k := t1Stack raw
      let x0 := { y with stage := .edgeIngress }
      let line := y.tn
      let coded := s.strength 1 (64 * line) ≠ 0
      let gone := s.tiers.failedSt.contains k = true ∨ s.t1Retired (64 * line) = true ∨ s.copyKept y.ga.toNat = true ∨
        (y.purpose ≠ .observe ∧ s.inTrace y.ga.toNat = true)
      let dead := y.sched = true ∧ s.t1Failed k (y.place.pc / 2) = true
      let go := exec (.t1Request n) s
      let m := s.t1Sched x0 k
      let x := m.2
      let v := m.1.setX x
      let queue := fun (w : State) (u : Nat) => w.setX { x with stage := .controller, unit := u, since := v.clk.now, ready := v.clk.now + 4 }
      (gone → ¬dead → go = .next (s.refuseAt x0 (uT1 k) 0x14)) ∧
      (gone → dead → go = .next ((s.slotMiss (256 + 32 * k + y.place.pc / 2) 12 0 (0x900 + 32 * k + y.place.pc / 2) x0.core.1 x0.core.2 y.flow.toNat
        y.layer.toNat y.operator.toNat).refuseAt x0 (uT1 k) 0x14)) ∧
      (¬gone → (s.behind x0 = true ∨ s.tierHold x0 = true) → go = .next s) ∧
      (y.sched = false → m = (s, x0)) ∧ (y.sched = true → s.determ = false → m = (s, { x0 with sched := false })) ∧
      (y.sched = true → s.determ = true → s.sched.running = false → x = x0.missed s.clk.now s.clk.count0) ∧
      (y.sched = true → s.determ = true → s.sched.running = true → s.flowSlots k (y.place.pc / 2) (y.place.pc % 2) y.flow.toNat = [] →
        m = (s.mismatch (uT1 k) 4 y.layer.toNat y.operator.toNat, { x0 with sched := false })) ∧
      (¬gone → s.behind x0 = false → s.tierHold x0 = false →
        (x.sched = true → (isWr x.kind = false ∨ ¬coded) → go = .next (v.t1Stage x k)) ∧
        (∀ q, x.sched = true → isWr x.kind = true → coded → v.seqStep x k = some q →
          go = .next (((v.dropBuf k (line / 64)).setSeq q).t1Stage { x with inp := 1 } k)) ∧
        (x.sched = false →
          (v.pageWait k (line / 64) (isWr x.kind) = true → go = .next v) ∧
          (v.pageWait k (line / 64) (isWr x.kind) = false →
            (isWr x.kind = true → ¬coded → go = .next (queue v (uT1 k))) ∧
            (isWr x.kind = true → coded → let p := v.bufGet k (line / 64)
              (p.2 = false → go = .next (p.1.setX { x with stage := .pageBuffer, unit := bufUnit k, since := v.clk.now })) ∧
              (p.2 = true → x.kind = .write → x.mask = fullMask → go = .next (p.1.bufApply x k 0 7)) ∧
              (p.2 = true → ¬(x.kind = .write ∧ x.mask = fullMask) → match (p.1.bufOf k (line / 64)).bind (fun b => b.line (line % 64)) with
                | some l => go = .next (p.1.bufApply x k l 7)
                | none => go = .next (queue p.1 (bufUnit k)))) ∧
            (isWr x.kind = false → match (v.bufOf k (line / 64)).bind (fun b => b.line (line % 64)) with
              | some l => go = .next (v.tierData x (uT1 k) l (v.linePoison 1 line) 11)
              | none => go = .next (queue v (uT1 k))))))) ∧
    (∀ (u : Fin 12) page b, s.bufOf u.val page = some b →
      let idle := b.closing = false ∧ s.decoding u.val page = false ∧ b.last + 512 ≤ s.clk.now
      let clean := b.closing = true ∧ s.decoding u.val page = false ∧ b.dirty = 0
      (idle → exec (.pageBufferIdleClose u page) s = .next (s.setBuf { b with closing := true })) ∧
      (¬idle → exec (.pageBufferIdleClose u page) s = .next s) ∧
      (clean → exec (.pageBufferCloseDone u page) s = .next (s.dropBuf u.val page)) ∧
      (b.closing = true → s.decoding u.val page = false → b.dirty ≠ 0 → s.power.hold = true → exec (.pageBufferCloseDone u page) s = .next s) ∧
      (b.closing = true → s.decoding u.val page = false → b.dirty ≠ 0 → s.power.hold = false → u.val < 8 →
        let w := ((s.cadd 0x6300 (8 * u.val) b.transfers.1).cadd 0x6300 (8 * u.val + 1) b.transfers.2).cadd 0x6300 (8 * u.val + (if b.dirty = dataMask then 2 else 3)) 1
        exec (.pageBufferCloseDone u page) s = .next ((w.storePage 1 page (s.bufImage b).1 (s.bufImage b).2).dropBuf u.val page)))

/-- R94, R251 to R255, R261: T1_SLOT, T1_REFRESH_FORCED, T1_ROW_IDLE_PRECHARGE, T1_ECS_READ and T1_CATTRIP. -/
def Obligations.T1SlotsRefreshAndTransfer : Prop :=
  ∀ (s : State) (k : StackId) (c : T1ChId) (half : Fin 2) (bank : Fin 16), s.clk.rootOn = true → s.tiers.ready.contains k.val = true →
    let key := bankKey k.val (2 * c.val + half.val) bank.val
    let b := s.t1Bank key
    (∀ i, s.t1SlotNow = some i → s.t1Failed k.val c.val = false →
      let h := i % 2
      let go := exec (.t1Slot k c) s
      let due := s.t1Due k.val c.val h
      let miss := fun (cause : Nat) => match due with
        | some x => s.t1Miss x k.val cause
        | none => s
      let ref := s.t1Kind k.val c.val i = 2 ∧ 2 * s.refBefore k.val c.val i < s.pv 0x2400 0
      (∀ f, s.t1Forced k.val c.val h = some f → go = .next (((miss 5).t1Refresh k.val c.val h f).cadd 0x6300 (8 * k.val + 6) 1)) ∧
      (s.t1Forced k.val c.val h = none → ref → go = .next (s.t1Refresh k.val c.val h (s.refBefore k.val c.val i % 16))) ∧
      (s.t1Forced k.val c.val h = none → ¬ref → ∀ x, due = some x →
        let mine := s.t1Kind k.val c.val i = 1 ∧ fld (s.t1Entry k.val c.val i) 11 0 = x.flow.toNat
        let held := isWr x.kind = true ∧ s.power.hold = true
        (held → go = .next (s.t1Miss x k.val 11)) ∧ (¬held → ¬mine → go = .next (s.t1Dynamic k.val c.val h)) ∧
        (¬held → mine → s.t1RowOk k.val x.place = false → go = .next (s.t1Miss x k.val 6)) ∧
        (¬held → mine → s.t1RowOk k.val x.place = true → go = .next (
          (if (s.t1Bank (bankKey k.val x.place.pc x.place.bank)).row = some x.place.row then s
            else s.t1Act k.val x.place (s.clk.now - s.t1T 0)).t1Transfer x k.val))) ∧
      (s.t1Forced k.val c.val h = none → ¬ref → due = none → s.t1Kind k.val c.val i ≠ 1 → go = .next (s.t1Dynamic k.val c.val h)) ∧
      (s.t1Forced k.val c.val h = none → ¬ref → due = none → s.t1Kind k.val c.val i = 1 →
        let t := s.seqFill k.val c.val h (fld (s.t1Entry k.val c.val i) 11 0)
        go = .next (if t = s then s.t1Dynamic k.val c.val h else t))) ∧
    (
      let xs := s.flight.filter (s.t1Ready k.val c.val half.val)
      let at_ := fun (x : Xact) => s.t1Bank (bankKey k.val x.place.pc x.place.bank)
      let order := s.t1Order k.val c.val
      let first := firstBy order (xs.filter (fun x => (at_ x).row = some x.place.row && decide ((at_ x).act + s.t1T 0 ≤ s.clk.now)))
      let wants := xs.filter (fun x => (at_ x).row ≠ some x.place.row &&
        !xs.any (fun y => y.place.bank = x.place.bank && (at_ y).row = some y.place.row) &&
        ((at_ x).act = 0 || decide ((at_ x).act + s.t1T 3 ≤ s.clk.now + (if (at_ x).row.isSome then s.t1T 1 else 0))) &&
        ((at_ x).row.isNone || decide ((at_ x).act + s.t1T 2 ≤ s.clk.now)))
      (∀ x, first = some x → s.t1Dynamic k.val c.val half.val = s.t1Transfer x k.val ∧ x ∈ s.flight ∧ x.stage = .controller ∧ x.ready ≤ s.clk.now) ∧
      (first = none → firstBy order wants = none → s.t1Dynamic k.val c.val half.val = s) ∧
      (∀ x, first = none → firstBy order wants = some x → let t := s.clk.now + (if (at_ x).row.isSome then s.t1T 1 else 0)
        s.t1Dynamic k.val c.val half.val = if s.actOk k.val x.place.pc t then s.t1Act k.val x.place t else s)) ∧
    (∀ x : Xact, let p := x.place
      let r := 0x900 + 32 * k.val + p.pc / 2
      let key := bankKey k.val p.pc p.bank
      let u := (((s.setT1Bank key { s.t1Bank key with hit := s.clk.now }).account r x.qos 64 x.sched).countGrant (uT1 k.val) x (s.bestEffort r x.qos)).pev 7 1
      let coded := decide (u.strength 1 (64 * x.tn) ≠ 0)
      (isWr x.kind = false ∨ (x.inp ≠ 1 ∧ x.writes coded = false) → s.t1Transfer x k.val = ((u.cadd 0x6300 (8 * k.val) 1).t1Cmd k.val (p.pc / 2) (cmdWord 2 (p.pc % 2) p.bank p.row p.col)).setX
        { x with stage := .outstanding, unit := uT1 k.val, ready := s.clk.now + s.t1T 6, inp := 0 }) ∧
      (x.writes coded = true → x.purpose ≠ .pageOp →
        let w := (u.cadd 0x6300 (8 * k.val + 1) 1).t1Cmd k.val (p.pc / 2) (cmdWord 3 (p.pc % 2) p.bank p.row p.col)
        let new := if x.dir = 1 then x.data else mergeLine (u.tline 1 x.tn) x.data x.mask
        let v := w.setTline 1 x.tn new
        s.t1Transfer x k.val = (v.tierForward x new).tierData x (uT1 k.val) 0 false (v.t1T 6 + 3))) ∧
    (
      let t := s.setT1Bank key { b with owed := max 1 (s.t1T 9) }
      exec (.t1RefreshForced k c half bank) s = .next t ∧ ∃ f ≤ bank.val, t.t1Forced k.val c.val half.val = some f) ∧
    (b.row.isSome = true → b.hit + 64 ≤ s.clk.now → b.act + s.t1T 2 ≤ s.clk.now → exec (.t1RowIdlePrecharge k c half bank) s =
      .next ((s.setT1Bank key { b with row := none }).t1Cmd k.val c.val (cmdWord 4 half.val bank.val 0 0))) ∧
    (¬(b.row.isSome = true ∧ b.hit + 64 ≤ s.clk.now ∧ b.act + s.t1T 2 ≤ s.clk.now) → exec (.t1RowIdlePrecharge k c half bank) s = .next s) ∧
    (s.t1Failed k.val c.val = false → exec (.t1EcsRead k c) s = .next (s.t1Cmd k.val c.val (cmdWord 9 0 0 0 0))) ∧
    exec (.t1Cattrip k) s = .next ((List.range 32).foldl (fun s c => s.failChannel k.val c) s)

/-- R253, R255, R289 to R291: what a stack returns and the end of an outer decode. -/
def Obligations.T1DataReturnsAndDecodes : Prop :=
  ∀ (s : State), s.clk.rootOn = true →
    (∀ (k : StackId) (c : T1ChId) (half : Fin 2) (ecc : BitVec 4) (raw : Line),
      let go := exec (.t1ReadData k c half ecc raw) s
      let lo := fld ecc.toNat 1 0
      let hi := fld ecc.toNat 3 2
      (s.t1Oldest k.val c.val half.val = none → s.closeRead k.val c.val half.val = none → go = .next s) ∧
      (∀ x, s.t1Oldest k.val c.val half.val = some x → let n := x.tn
        let st := s.strength 1 (64 * n)
        (s.quench.st = 2 → go = .next (s.setX { x with stage := .landed, half := .answer, data := raw, inp := ecc.toNat })) ∧
        (s.quench.st ≠ 2 → s.clk.now < x.ready → go = .next s) ∧
        (s.quench.st ≠ 2 → x.ready ≤ s.clk.now → ∀ v, s.inputGate 1 (32 * k.val + c.val) half.val
            (natBytes 64 (if 2 ≤ lo ∨ 2 ≤ hi then raw else s.tline 1 n).toNat) = some v →
          let w := if lo = 1 ∨ hi = 1 then
              (v.cadd 0x6300 (8 * k.val + 4) 1).integrity (tierEvent 0x46 k.val 0 (b2n (lo = 1) + b2n (hi = 1)) st (64 * n) (some x))
            else v
          let u := w.cadd 0x6300 (8 * k.val + 5) 1
          (lo < 2 → hi < 2 → go = .next (w.t1Line x k.val (s.tline 1 n))) ∧
          (2 ≤ lo ∨ 2 ≤ hi → st = 0 → go = .next ((u.integrity (tierEvent 0x43 k.val 0 0 st (64 * n) (some x))).tierData x (uT1 k.val) 0 true 3)) ∧
          (2 ≤ lo ∨ 2 ≤ hi → st ≠ 0 → x.sched = false → u.decoding k.val (n / 64) = true ∨ u.decRoom k.val = false →
            go = .next (u.setX { x with stage := .controller, ready := u.clk.now })) ∧
          (2 ≤ lo ∨ 2 ≤ hi → st ≠ 0 → x.sched = false → u.decoding k.val (n / 64) = false → u.decRoom k.val = true →
            go = .next ((u.decStart k.val (n / 64) (some x.id) (n % 64) raw).setX { x with stage := .decoder, data := x.data }))))) ∧
    (∀ (k : StackId) (c : T1ChId) (bits : BitVec 2), s.tiers.ready.contains k.val = true → s.t1Failed k.val c.val = false → bits ≠ 0 →
      let v := (s.cadd 0x6300 (8 * k.val + 7) 1).faultAt (uT1 k.val) (genRec { code := 0x45, unit := uT1 k.val, obj := c.val, aux := bits.toNat } s.clk.ts)
      exec (.t1ParityErr k c bits) s = .next ((match v.parityNamed k.val c.val with
        | some x => v.parityRepeat x k.val c.val
        | none => v).linkErr k.val c.val)) ∧
    (∀ (k c : Nat), let l := (Tbl.get s.tiers.linkErrs [] (32 * k + c)).filter (fun t => decide (s.clk.ts.toNat - t < msNs)) ++ [s.clk.ts.toNat]
      let v : State := { s with tiers := { s.tiers with linkErrs := Tbl.set s.tiers.linkErrs [] (32 * k + c) l } }
      (l.length < 4 → s.linkErr k c = v) ∧ (4 ≤ l.length → s.linkErr k c = v.failChannel k c)) ∧
    (∀ (k : StackId) (c : T1ChId) (n row : BitVec 16) (slots : Nat), s.tiers.ready.contains k.val = true → let key := 32 * k.val + c.val
      let old := Tbl.get s.tiers.ecs 0 key
      let need := 2 * ceilDiv slots 2
      let v : State := { s with tiers := { s.tiers with ecs := Tbl.set s.tiers.ecs 0 key n.toNat } }
      let w := if old < n.toNat then v.integrity { code := 0x46, kind := 5, det := 2, gmask := sat 255 (n.toNat - old), unit := uT1 k.val,
                                                   loc := row.toNat * 1024 + c.val * 2^26 } else v
      (need ≤ s.pv 0x2400 0 → exec (.t1MrrData k c n row slots) s = .next w) ∧
      (s.pv 0x2400 0 < need → exec (.t1MrrData k c n row slots) s = .next ((((List.range 256).map (fun i => w.netNow (0x900 + i))).zipIdx).foldl
        (fun s e => if t1Count s.mgmt.active e.2 2 < need then s.capacityLoss (uT1 (e.2 / 32)) (0x900 + e.2) e.1 4 else s) (w.setPv 0x2400 0 need)))) ∧
    (∀ (u : Fin 12) d, s.tiers.decs.find? (fun d => d.unit = u.val) = some d →
      (s.clk.now < d.due → exec (.outerDecodeDone u) s = .next s) ∧
      (d.due ≤ s.clk.now → d.walker = false →
        exec (.outerDecodeDone u) s = .next ((s.decEnd d).1.decServe u.val d (s.decEnd d).2)) ∧
      (d.due ≤ s.clk.now → d.walker = true → s.decChanges d = true → (s.bufGet d.unit d.page).2 = false →
        exec (.outerDecodeDone u) s = .next (s.bufGet d.unit d.page).1)) ∧
    (∀ (u : Nat) (d : DecJob) (x : Xact) (o : Option Nat), d.req.bind s.xact = some x → isWr x.kind = false →
      s.decServe u d o = match o with
        | some pg => s.tierData x (bufUnit u) (pageLine pg (x.tn % 64)) false 3
        | none => s.tierData x (bufUnit u) 0 true 3)

/-- R264 to R271: T2_REQUEST and CXL_RESPONSE. -/
def Obligations.T2RequestsAreJudgedAndAnswered : Prop :=
  ∀ (s : State), s.clk.rootOn = true →
    (∀ n y k raw, s.xact n = some y → y.loc = .t2 k raw → y.half = .request →
      let go := exec (.t2Request n) s
      let c := s.cart k
      let gone := s.t2Retired k (64 * y.tn % cartBytes) = true
      (y.isFill = false → (y.stage = .edgeIngress ∨ y.stage = .pageBuffer) → y.ready ≤ s.clk.now → y.inp < 6 →
        (s.behind y = true ∨ s.tierHold y = true → go = .next s) ∧
        (s.behind y = false → s.tierHold y = false →
          (c.st = .trusted → gone → go = .next (s.refuseAt y (uT2 k) 0x14)) ∧
          (c.st = .trusted → ¬gone → go = .next (s.t2Place { y with sched := false } k)) ∧
          (c.st = .untrusted → isWr y.kind = false → go = .next (s.refuseAt y (uT2 k) 0x61)) ∧
          (c.st = .untrusted → isWr y.kind = true → gone → go = .next (s.refuseAt y (uT2 k) 0x14)) ∧
          (c.st = .untrusted → isWr y.kind = true → ¬gone → c.ended = true → go = .next (s.refuseAt y (uT2 k) 0x60)) ∧
          (c.st = .untrusted → isWr y.kind = true → ¬gone → c.ended = false → go = .next (s.t2Serve { y with sched := false } k)) ∧
          (c.st ≠ .trusted → c.st ≠ .untrusted → go = .next (s.refuseAt y (uT2 k) 0x64)))) ∧
      (y.stage = .controller → y.inp < 7 → go = .next (s.t2Issue y k) ∧
        (s.t2Free k = none → go = .next s) ∧
        (∀ t, s.t2Free k = some t → t < 1024 ∧ t ∉ s.t2Tags k ∧ ∀ a < t, a ∈ s.t2Tags k))) ∧
    (∀ (k : CartId) (hdr : BitVec 32) (data : Line),
      let go := exec (.cxlResponse k hdr data) s
      let tag := fld hdr.toNat 15 0
      let opc := fld hdr.toNat 29 26
      let o := s.flight.find? (fun x => x.stage = .outstanding && x.half = .request && x.loc.unit = uT2 k.val && x.dest = tag)
      (s.quench.st = 2 → ∀ y, o = some y → go = .next (s.setX { y with stage := .landed, half := .answer, data := data, inp := fld hdr.toNat 31 24 })) ∧
      (s.quench.st = 2 → o = none → go = .next s) ∧
      (s.quench.st ≠ 2 → s.inputGate 2 k.val tag (natBytes 64 data.toNat) = none → go = .next s) ∧
      (s.quench.st ≠ 2 → ∀ v, s.inputGate 2 k.val tag (natBytes 64 data.toNat) = some v →
        (o = none → go = .next (v.cartErr k.val 0x65 hdr.toNat 0 0)) ∧
        (∀ y, o = some y → let wr := y.memWrNext (v.strength 2 (64 * y.tn) ≠ 0)
          (fld hdr.toNat 31 30 = 2 → wr = false → go = .next ((v.cxlData y k.val data (bit hdr.toNat 25 || opc ≠ 0)).t2Pump k.val)) ∧
          (fld hdr.toNat 31 30 = 1 → wr = true → opc ≤ 2 → go = .next ((v.cxlDone y k.val).t2Pump k.val)) ∧
          (¬(fld hdr.toNat 31 30 = 2 ∧ wr = false) → ¬(fld hdr.toNat 31 30 = 1 ∧ wr = true ∧ opc ≤ 2) →
            go = .next (v.cartErr k.val 0x65 hdr.toNat 0 0))))) ∧
    (∀ (y : Xact) (k : Nat) (l : Line), let n := y.tn
      (y.purpose = .pageOp → (s.cxlDone y k).mem = (s.setTline 2 n y.data).mem ∧ (s.cxlDone y k) = (s.setTline 2 n y.data).dropX y.id) ∧
      (isWr y.kind = false → s.cxlData y k l false = (s.setTline 2 n l).tierData y (uT2 k) l ((s.setTline 2 n l).linePoison 2 n) 5) ∧
      (s.strength 2 (64 * n) = 0 → s.cxlData y k l true =
        ((s.cadd 0x6310 (8 * k + 2) 1).integrity (tierEvent 0x43 (8 + k) 0 0 0 (64 * n % cartBytes) (some y))).tierData y (uT2 k) 0 true 5))

/-- R268 to R273: the commands and events of a cartridge slot. -/
def Obligations.CartridgesAttachLiveAndDetach : Prop :=
  ∀ (s : State) (k : CartId), s.clk.rootOn = true →
    let c := s.cart k.val
    let goes := fun (i : Instr) (st : CartSt) => ∃ t, exec i s = .next t ∧ (t.cart k.val).st = st ∧ t.mem = s.mem
    (s.mayAttach k.val = true → ∃ t, exec (.cartAttach k) s = .next t ∧
      t.cart k.val = { c with st := .attaching, attachAt := s.clk.ts.toNat, step := 1, warned := false, ended := false, diverged := false,
                              dropping := false, cands := [], cached := [] }) ∧
    (s.mayAttach k.val = false → exec (.cartAttach k) s = .next s) ∧
    (∀ r : AttachResult, let go := exec (.cartAttachEnd k r) s
      (c.st ≠ .attaching → go = .next s) ∧
      (c.st = .attaching → ∀ f, r.failStep = some f → goes (.cartAttachEnd k r) .failed) ∧
      (c.st = .attaching → r.failStep = none → r.capacity.toNat < cartBytes → goes (.cartAttachEnd k r) .failed) ∧
      (c.st = .attaching → r.failStep = none → cartBytes ≤ r.capacity.toNat → ∃ t, go = .next t ∧ let d := t.cart k.val
        d.serial = r.serial ∧ d.capacity = r.capacity ∧ d.budget = r.budget ∧ d.lifeUsed = r.lifeUsed ∧
        d.ledger = BitVec.ofNat 64 (max (ledgerPick (ledgerRead r.ledger0) (ledgerRead r.ledger1)).1 (r.lifeUsed.toNat * r.budget.toNat / 100)) ∧
        d.st = (if r.serial.toNat = s.pv 0x1142 k.val ∧ r.serial ≠ 0 then .trusted else .untrusted))) ∧
    (c.st = .attaching → c.attachAt + msNs * s.pv 0x1025 0 ≤ s.clk.ts.toNat → goes (.cartAttachTimeout k) .failed) ∧
    (c.st ≠ .attaching ∨ s.clk.ts.toNat < c.attachAt + msNs * s.pv 0x1025 0 → exec (.cartAttachTimeout k) s = .next s) ∧
    (c.st ≠ .untrusted → exec (.cartTrust k) s = .next s) ∧
    (c.st = .untrusted → ∃ t, exec (.cartTrust k) s = .next t ∧ (t.cart k.val).st = .trusted ∧ (t.cart k.val).from_ = 0 ∧
      t.pv 0x1142 k.val = c.serial.toNat ∧ (c.from_ = 0 → t.mem = s.mem ∧ t.cart k.val = { c with st := .trusted })) ∧
    (∀ i drop, ((i = Instr.cartDetach k ∧ drop = false) ∨ (i = .cartDetachDrop k ∧ drop = true)) →
      (c.st ≠ .untrusted → c.st ≠ .trusted → exec i s = .next s) ∧
      ((c.st = .untrusted ∨ c.st = .trusted) → drop = false → s.stranded k.val ≠ 0 → exec i s = .next (s.cartNotice k.val)) ∧
      ((c.st = .untrusted ∨ c.st = .trusted) → (drop = true ∨ s.stranded k.val = 0) → ∃ t, exec i s = .next t ∧
        t.cart k.val = { c with st := .detaching, dropping := drop } ∧
        t.tiers.bufs = s.tiers.bufs.map (fun b => if b.unit = 8 + k.val then { b with closing := true } else b))) ∧
    ((c.st ≠ .detaching ∨ s.cartBusy k.val = true) → exec (.cartDetachEnd k) s = .next s) ∧
    (c.st = .detaching → s.cartBusy k.val = false → ∃ t, exec (.cartDetachEnd k) s = .next t ∧ (t.cart k.val).st = .detached ∧
      (t.cart k.val).place = [] ∧ (t.cart k.val).cached = [] ∧ (t.cart k.val).cands = []) ∧
    (∀ used : Byte, (c.st = .trusted ∨ c.st = .untrusted) →
      exec (.cartHealthPoll k used) s = .next ((s.setCart k.val { c with lifeUsed := used }).lifeCheck k.val)) ∧
    ((s.lifeCheck k.val).cart k.val = { c with warned := c.warned || c.life.1, ended := c.ended || c.life.2.1, diverged := c.diverged || c.life.2.2 }) ∧
    (∀ up here : Bool, ((up = true ∧ here = true) ∨ c.st = .absent ∨ c.st = .detached ∨ c.st = .failed →
        exec (.cartLinkLost k up here) s = .next (s.setCart k.val { c with linkUp := up, present := here })) ∧
      (up = false ∨ here = false → c.st ≠ .absent → c.st ≠ .detached → c.st ≠ .failed → ∃ t, exec (.cartLinkLost k up here) s = .next t ∧
        (t.cart k.val).st = .failed ∧ t.pv 0x1142 k.val = 0 ∧ (∀ b ∈ t.tiers.bufs, b.unit ≠ 8 + k.val) ∧ (∀ d ∈ t.tiers.decs, d.unit ≠ 8 + k.val) ∧
        (t.cart k.val).place = (c.place.filter (fun e => plProm e.2 && plDirty e.2)).map (fun e => (e.1, BitVec.ofNat 64 (setFld e.2.toNat 37 37 0))) ∧
        (t.cart k.val).cached = [] ∧ (t.cart k.val).cands = [])) ∧
    (∀ (gts : BitVec 7) (width : BitVec 5), ∃ t, exec (.t2LinkRetrain k gts width) s = .next t ∧ t.cart k.val = { c with gts := gts.toNat, width := width.toNat } ∧ t.mem = s.mem)

/-- R274 to R276: heat and the promotion of blocks. -/
def Obligations.HeatPromotesAndDemotesBlocks : Prop :=
  ∀ (s : State) (k : CartId), s.clk.rootOn = true →
    let c := s.cart k.val
    (∀ (e : Dword) (epoch : Nat), plHeat (plTouch e epoch) = min 255 (plHeat (plDecay e epoch) + 1) ∧ fld (plTouch e epoch).toNat 55 40 = epoch % 65536 ∧
      plHeat (plDecay e epoch) = plHeat e / 2^(min 8 ((epoch % 65536 + 65536 - fld e.toNat 55 40) % 65536))) ∧
    (s.clk.ts.toNat < c.lastDecay + usNs * s.pv 0x1150 0 → exec (.heatDecayEpoch k) s = .next s) ∧
    (c.lastDecay + usNs * s.pv 0x1150 0 ≤ s.clk.ts.toNat → ∃ t, exec (.heatDecayEpoch k) s = .next t ∧
      (t.cart k.val).decay = c.decay + 1 ∧ (t.cart k.val).lastDecay = s.clk.ts.toNat ∧ t.mem = s.mem ∧ t.flight = s.flight ∧
      (∀ e ∈ (t.cart k.val).place, ∃ o ∈ c.place, o.1 = e.1 ∧
        e.2 = if (c.decay + 1) % 32768 * 192 ≤ e.1 ∧ e.1 < (c.decay + 1) % 32768 * 192 + 192 then plDecay o.2 (c.decay + 1) else o.2)) ∧
    (c.cands = [] ∨ c.st ≠ .trusted → exec (.promoteCandidate k) s = .next s) ∧
    (∀ b rest, c.cands = b :: rest → c.st = .trusted →
      let go := exec (.promoteCandidate k) s
      let v := s.setCart k.val { c with cands := rest }
      let stays := plProm (s.placeEnt k.val b) = true ∨ plBusy (s.placeEnt k.val b) = true
      (v.cart k.val = { c with cands := rest } ∧ ∀ a, v.placeEnt k.val a = s.placeEnt k.val a) ∧
      (stays → go = .next v) ∧
      (¬stays → ∀ i, v.freeSlot = some i → go = .next (v.startMove k.val b i 1)) ∧
      (¬stays → v.freeSlot = none → v.coolest k.val = none → go = .next v) ∧
      (¬stays → v.freeSlot = none → ∀ a e, v.coolest k.val = some (a, e) →
        (plHeat (plDecay (s.placeEnt k.val b) c.decay) ≤ plHeat (plDecay e c.decay) + v.pv 0x1152 0 → go = .next v) ∧
        (plHeat (plDecay e c.decay) + v.pv 0x1152 0 < plHeat (plDecay (s.placeEnt k.val b) c.decay) → ∃ t, go = .next t ∧
          t.placeEnt k.val a = BitVec.ofNat 64 (setFld (setFld (s.placeEnt k.val a).toNat 37 37 1) 21 0 (plSlot e)) ∧
          (t.cart k.val).moving = c.moving ++ [(a, 2), (b, 3)] ∧ (t.cart k.val).cands = rest))) ∧
    (∀ b i d, let t := s.startMove k.val b i d
      t.placeEnt k.val b = BitVec.ofNat 64 (setFld (setFld (s.placeEnt k.val b).toNat 37 37 1) 21 0 i) ∧ (t.cart k.val).moving = c.moving ++ [(b, d)]) ∧
    (∀ block, c.moving.find? (fun m => m.1 = block && m.2 ≠ 3) = none → exec (.blockMoveDone k block) s = .next s) ∧
    (∀ block m, c.moving.find? (fun m => m.1 = block && m.2 ≠ 3) = some m →
      (s.power.hold = true ∨ s.blockBusy k.val block = true → exec (.blockMoveDone k block) s = .next s) ∧
      (s.power.hold = false → s.blockBusy k.val block = false →
        let e := s.placeEnt k.val block
        let v := if m.2 = 1 then s.copyBlock k.val block (plSlot e) true
          else if plDirty e then s.copyBlock k.val block (plSlot e) false else s.cadd 0x6310 (8 * k.val + 4) 1
        let n := setFld (setFld (setFld e.toNat 39 37 0) 21 0 0) 39 39 (if m.2 = 1 then 1 else 0)
        let done := BitVec.ofNat 64 (if m.2 = 1 then setFld n 21 0 (plSlot e) else n)
        let rest := (v.cart k.val).moving.filter (fun x => x ≠ m)
        let next := if m.2 = 2 then rest.find? (fun x => x.2 = 3) else none
        ∃ t, exec (.blockMoveDone k block) s = .next t ∧ t.mem = v.mem ∧
          (next = none → t.placeEnt k.val block = done ∧ (t.cart k.val).moving = rest) ∧
          (∀ w, next = some w → (t.cart k.val).moving = rest.filter (fun x => x ≠ w) ++ [(w.1, 1)] ∧
            (w.1 ≠ block → t.placeEnt k.val block = done ∧ t.placeEnt k.val w.1 = BitVec.ofNat 64 (setFld (setFld (v.placeEnt k.val w.1).toNat 37 37 1) 21 0 (plSlot e))))))

/-- R287, R288, R292 to R295: the table's tail and the walkers. The order of the banks in a pass is the model's: log entry 41. -/
def Obligations.WalkersReadAndWriteBack : Prop :=
  ∀ (s : State), s.clk.rootOn = true → s.mgmt.por = false →
    (∀ v : BitVec 9, exec (.errTableAck v) s = .next (if (v.toNat + 512 - s.err.tail.toNat) % 512 ≤ (s.err.head.toNat + 512 - s.err.tail.toNat) % 512
      then { s with err := { s.err with tail := v } } else s)) ∧
    (∀ h : HiveId, let p := spotAt (s.walker h.val).lead (s.walker h.val).pos
      let loc := p.loc h.val
      let go := exec (.weevilScrubRead h) s
      let may := s.clockOf h.val = .live ∧ s.domLive h.val 0 = true ∧ s.paced h.val hiveSpots = true
      (¬may → go = .next s) ∧
      (may → s.domLive h.val p.dom = false → go = .next (s.walked h.val hiveSpots true)) ∧
      (may → s.domLive h.val p.dom = true → s.bankIdle loc = false → go = .next s) ∧
      (may → s.domLive h.val p.dom = true → s.bankIdle loc = true → go = .next
        (((((if p.kind = 3 then s.scrubWord h.val p.row else s.scrubRow h.val p).occupy loc.arb 1).cadd 0x3500 (8 * h.val + 4) 1)).walked h.val hiveSpots false))) ∧
    (∀ (h : Nat) (p : Spot), let place := s.rowPlace p.kind h p.bank p.row
      let r := s.rowAt place
      let x := readGrans r allGrans
      let t := fun bad => s.integrity (weevilEvent h (p.loc h) p.kind x.gmask x.synd.toNat bad (s.spareFor p.kind h p.bank p.row).isSome)
      let bad := x.bad = true ∨ s.rowPz p.kind h p.bank p.row = true
      r.split = false →
        (r.valid = false ∨ (¬bad ∧ x.gmask = 0) → s.scrubRow h p = s) ∧
        (r.valid = true → bad → s.scrubRow h p = t true) ∧
        (r.valid = true → ¬bad → x.gmask ≠ 0 → s.scrubRow h p = { t false with err := { (t false).err with wbs := addOnce (t false).err.wbs place } })) ∧
    (∀ h : HiveId, let go := exec (.weevilWriteback h) s
      (s.err.wbs.find? (fun k => wbHive k = h.val) = none → go = .next s) ∧
      (∀ k, s.err.wbs.find? (fun k => wbHive k = h.val) = some k →
        (s.power.hold = true ∨ s.hiveUp h.val = false ∨ s.bankIdle (s.wbLoc k) = false → go = .next s) ∧
        (s.power.hold = false → s.hiveUp h.val = true → s.bankIdle (s.wbLoc k) = true → ∃ t, go = .next t ∧
          t.err.wbs = s.err.wbs.filter (fun x => x ≠ k) ∧
          (k < 2^30 → (s.rowAt k).valid = true → (readGrans (s.rowAt k) allGrans).bad = false → t.rowAt k =
            { s.rowAt k with data := (readGrans (s.rowAt k) allGrans).data, chk := lineChk (readGrans (s.rowAt k) allGrans).data })))) ∧
    (∀ (u : Fin 12) (flags : Dword) (raw : List Line), let w := bufUnit u.val
      let page := walkPage u.val (s.walker w).pos
      let up := if u.val < 8 then s.tiers.ready.contains u.val else decide ((s.cart (u.val - 8)).st = .trusted)
      let gone := if u.val < 8 then s.t1Retired (4096 * page) else s.t2Retired (u.val - 8) (4096 * page % cartBytes)
      let er := (List.range 64).filter (fun j => flags.getLsbD j)
      let go := exec (.weevilPageScrub u flags raw) s
      let v := (s.cadd (if u.val < 8 then 0x6300 else 0x6310) (8 * (u.val % 8)) 64).cadd 0x3500 (8 * w + 4) 1
      let may := up = true ∧ s.paced w (walkPages u.val) = true
      (¬may → go = .next s) ∧
      (may → gone = true → go = .next (s.walked w (walkPages u.val) true)) ∧
      (may → gone = false → s.pageWait u.val page true = true ∨ s.decRoom u.val = false → go = .next s) ∧
      (may → gone = false → s.pageWait u.val page true = false → s.decRoom u.val = true →
        (s.strength (tierOf u.val) (4096 * page) = 0 → go = .next ((er.foldl (fun s j => s.integrity
          (tierEvent 0x4C u.val 1 0 0 (locIn (tierOf u.val) (64 * page + j)) none)) v).walked w (walkPages u.val) false)) ∧
        (s.strength (tierOf u.val) (4096 * page) ≠ 0 → ∃ t, go = .next t ∧ t.tiers.decs = s.tiers.decs ++ [
          { unit := u.val, page := page, flagged := flags, raw := er.map (fun j => (j, raw.getD j 0)), req := none, due := s.clk.now + 320, walker := true }]))) ∧
    (∀ (u total : Nat) (sk : Bool), let w := s.walker u
      let w' := (s.walked u total sk).walker u
      (s.walked u total sk).mem = s.mem ∧
      (w.pos + 1 < total → w'.pos = w.pos + 1 ∧ w'.skip = w.skip + b2n sk ∧ w'.lead = w.lead ∧ w'.excess = w.excess) ∧
      (total ≤ w.pos + 1 → let took := s.clk.ts.toNat - (if w.pos = 0 then max 1 s.clk.ts.toNat else w.began)
        w'.pos = 0 ∧ w'.skip = 0 ∧ w'.lead = w.first ∧ w'.first = [] ∧
        w'.excess = (if 5 * s.passNs u < 4 * took then some (took, w.skip + b2n sk) else w.excess) ∧ ∃ v : State, s.walked u total sk = v.cadd 0x3500 (8 * u + 7) 1)) ∧
    (∀ u : ScarabId, let w := s.walker u.val
      (w.excess = none → exec (.scrubShortfall u) s = .next s) ∧
      (∀ took skip, w.excess = some (took, skip) → exec (.scrubShortfall u) s = .next ((s.setWalker u.val { w with excess := none }).raise
        { code := 0x47, unit := u.val, aux := s.passNs u.val / msNs, ga := took / msNs, late := skip / 65536, count := skip % 65536 })))

/-- R297 to R303: field repair, the repair map and the retirement of stripes. -/
def Obligations.RowsAreRepairedAndStripesRetired : Prop :=
  ∀ (s : State), s.clk.rootOn = true → s.mgmt.por = false →
    (∀ (h : HiveId) (kind : Fin 3) (bank : BankId) (row : BitVec 10) (badSpares : BitVec 16),
      let p : Spot := { kind := kind.val, bank := bank.val, row := row.toNat }
      let loc := p.loc h.val
      let log := s.logOf h.val kind.val loc.local
      let uncorr := ∃ q, log = some q ∧ corrCode (recCode q) = false
      let due := uncorr ∨ ∃ q, log = some q ∧ s.pv 0x3104 0 ≤ fld q.toNat 191 176
      let may := s.power.hold = false ∧ bank.val < bankCount kind.val ∧ row.toNat < rowCount kind.val ∧ s.isRetired kind.val h.val row.toNat = false ∧
        s.hiveUp h.val = true ∧ s.domOn h.val p.dom = true ∧ s.freeAt loc.arb ≤ s.clk.now ∧ s.clearing loc = false
      let go := exec (.rowRepair h kind bank row badSpares) s
      let q := s.testSpares kind.val h.val bank.val badSpares.toNat (s.freeSpares kind.val h.val bank.val)
      q.2 = (s.freeSpares kind.val h.val bank.val).find? (fun sp => !bit badSpares.toNat sp) ∧
      (¬due ∨ ¬may → go = .next s) ∧
      (due → may → q.2 = none → (uncorr → go = .next (q.1.noSpare kind.val h.val bank.val row.toNat true)) ∧
        (¬uncorr → go = .next (q.1.noSpare kind.val h.val bank.val row.toNat false))) ∧
      (due → may → ∀ sp, q.2 = some sp →
        (s.determ = true → (List.range 3).any (fun i => s.reserved h.val (s.clk.now + i) loc) = true → go = .next s) ∧
        (s.determ = false → ∃ t, go = .next t ∧
          let r := q.1.rowAt (q.1.rowPlace kind.val h.val bank.val row.toNat)
          let x := readGrans r allGrans
          let pz := (r.valid && x.bad) || q.1.rowPz kind.val h.val bank.val row.toNat
          t.repairAt (repairKey kind.val h.val bank.val sp) = BitVec.ofNat 16 (0x8000 + 0x4000 * b2n pz + row.toNat) ∧
          t.rowAt (rowKey kind.val h.val bank.val (768 + sp)) =
            { data := if r.valid then x.data else r.data, chk := lineChk (if r.valid then x.data else r.data), cells := if r.valid then 7 else 0 }))) ∧
    (∀ kind h b row, (s.noSpare kind h b row true = s.retireStripe kind h row (some b)) ∧
      (s.isRetired kind h row = true ∨ s.err.graces.any (fun g => g.hive = h && g.kind = kind && g.stripe = row) = true → s.noSpare kind h b row false = s) ∧
      (s.isRetired kind h row = false → s.err.graces.any (fun g => g.hive = h && g.kind = kind && g.stripe = row) = false →
        (s.noSpare kind h b row false).err.graces = s.err.graces ++ [{ hive := h, kind := kind, stripe := row, due := s.clk.ts.toNat + s.pv 0x3103 0 * msNs }])) ∧
    (∀ (h : HiveId) (kind : Fin 3) (st : BitVec 10), let g := s.err.graces.find? (fun g => g.hive = h.val && g.kind = kind.val && g.stripe = st.toNat)
      ((g = none ∨ ∃ a, g = some a ∧ s.clk.ts.toNat < a.due) → exec (.retireGraceExpire h kind st) s = .next s) ∧
      (∀ a, g = some a → a.due ≤ s.clk.ts.toNat → exec (.retireGraceExpire h kind st) s = .next (s.retireStripe kind.val h.val st.toNat none))) ∧
    (∀ kind h st failed, (s.isRetired kind h st = true → s.retireStripe kind h st failed = s) ∧
      (s.isRetired kind h st = false → let t := s.retireStripe kind h st failed
        t.isRetired kind h st = true ∧ t.err.graces = s.err.graces.filter (fun g => !(g.hive = h && g.kind = kind && g.stripe = st)) ∧ t.mem = s.mem)) ∧
    (∀ (i : Nat) (v : BitVec 16), let p := repairParts i
      let row := v.toNat % 1024
      let refused := 286720 ≤ i ∨ s.hiveUp p.2.1 = true ∨ (rowCount p.1 ≤ row ∧ row ≠ 0x3FF) ∨ (bit v.toNat 15 = true ∧ row = 0x3FF) ∨
        (bit v.toNat 15 = true ∧ ∃ sp, s.spareFor p.1 p.2.1 p.2.2.1 row = some sp ∧ sp ≠ p.2.2.2)
      (refused → exec (.repairMapWrite i v) s = .next s) ∧
      (¬refused → exec (.repairMapWrite i v) s = .next (s.setRepair i (v.toNat / 16384 * 16384 + row))))

/-- R359: what a write of HIVE_POWER does. -/
def Obligations.HivePowerWritesAreChecked : Prop :=
  ∀ (s : State) (p : RegPath) (h : HiveId) (v : Dword), s.clk.rootOn = true → s.mgmt.por = false → s.hiveUp h.val = true → (p = .ctl → s.cmdFree h 0) →
    let f := powerField v.toNat
    let go := exec (.hivePowerWrite p h v) s
    let res := fun (r : Nat) => show State from { s with hives := { s.hives with pwrRes := Tbl.set s.hives.pwrRes 0 h.val r } }
    let bad := (∃ d, d < 14 ∧ f d = 3) ∨ (f 0 ≠ 0 ∧ ∃ d, 1 ≤ d ∧ d < 14 ∧ f d = 0) ∨ (f 0 = 2 ∧ ∃ d, 1 ≤ d ∧ d < 14 ∧ f d ≠ 2)
    let must := ∃ d, d < 14 ∧ s.domLive h.val d = true ∧ f d ≠ 0 ∧ (if d = 0 then s.logicBusy h.val else s.segBusy h.val d) = true
    (s.pwrBusy h.val = true → go = .next s) ∧
    (s.pwrBusy h.val = false → bad → go = .next (res 2)) ∧
    (s.pwrBusy h.val = false → ¬bad → must → go = .next (res 3)) ∧
    (s.pwrBusy h.val = false → ¬bad → ¬must →
      let u := (List.range 14).foldl (fun s d => match domOf (f d) with
        | some t => s.startDomain h.val d t
        | none => s) (res 0)
      go = .next u.admitWakes ∧ Tbl.get u.hives.pwrRes 0 h.val = 0 ∧
      ∀ d, d < 14 → ∃ t, domOf (f d) = some t ∧ u.domain h.val d = if (s.domain h.val d).st = t then s.domain h.val d
        else { s.domain h.val d with target := t, phase := if (s.domain h.val d).st = .cold then .queued
          else if (s.domain h.val d).st = .ember ∧ t = .on then .waking (s.clk.ts.toNat + 1500) else .draining })

/-- R91: the validity of Hive wheel entries, and that the commit's search misses none. -/
def Obligations.WheelEntriesAreJudged : Prop :=
  (∀ (tiered : Bool) (v : Nat), let named := fun port => ∃ k, k < 18 ∧ fld v (3 * k + 2) (3 * k) = port
    let cost := fun (port n : Nat) => if wheelNames v port then n else 0
    (∀ port, wheelNames v port = true ↔ named port) ∧
    (wheelValid tiered v = true ↔
      (tiered = true → (fld v 50 48 = 0 ∨ fld v 50 48 = 3 ∨ fld v 50 48 = 7) ∧ (fld v 53 51 = 1 ∨ fld v 53 51 = 3 ∨ fld v 53 51 = 7)) ∧
      cost 0 128 + cost 1 64 + cost 2 1 + fld v 63 56 ≤ 200)) ∧
  (∀ s : State, s.firstInvalid = none → ∀ e ∈ listed s.mgmt.shadow 0x8400, wheelValid s.tiered e.2 = true)

/-- R303 to R306, R310, R313, R314, R241: software's view of retirement, of the manifest and of raw contents. -/
def Obligations.SoftwareRetiresLocations : Prop :=
  ∀ (s : State), s.mgmt.por = false →
    let put := fun (t : State) (st : Nat) => show State from { t with err := { t.err with retire := dwordOf [(63, 60, st)] } }
    let stripe := fun (o : Host.Outcome State Fault Refusal) (k h row : Nat) =>
      (rowCount k ≤ row → o = .next (put s 4)) ∧ (row < rowCount k → o = .next (put (s.retireStripe k h row none) 2))
    let place := fun (o : Host.Outcome State Fault Refusal) (e : TierRet) (bad pend : Bool) =>
      let same := fun (x : TierRet) => x.kind = e.kind && x.unit = e.unit && x.loc = e.loc
      let full := 65536 ≤ s.err.tierRet.length ∧ s.err.tierRet.any same = false
      (bad = true → o = .next (put s 4)) ∧
      (bad = false → s.err.tierRet.any (fun x => same x && !x.pend) = true → o = .next (put s 2)) ∧
      (bad = false → s.err.tierRet.any (fun x => same x && !x.pend) = false →
        (full → o = .next (put s 4)) ∧
        (¬full → pend = true → o = .next (put (if s.err.tierRet.any same then s else
          { s with err := { s.err with tierRet := s.err.tierRet ++ [{ e with pend := true }] } }) 3)) ∧
        (¬full → pend = false → o = .next (put (s.retireTier e) 2) ∧
          (s.retireTier e).err.tierRet = s.err.tierRet.filter (fun x => !same x) ++ [{ e with pend := false }]))
    (∀ (h : HiveId) (loc : BitVec 48), stripe (exec (.retireHiveStripe h loc) s) 0 h.val loc.toNat ∧
      stripe (exec (.retireMatrixStripe h loc) s) 1 h.val loc.toNat ∧ stripe (exec (.retireVectorStripe h loc) s) 2 h.val loc.toNat) ∧
    (∀ (unit : BitVec 8) (loc : BitVec 48), let u := unit.toNat; let n := loc.toNat
      place (exec (.retireT1Page unit loc) s) ⟨0, false, u, n⟩ (8 ≤ u || 2^27 ≤ n || t1Stack (4096 * n) ≠ u) (s.inExtent 1 n) ∧
      place (exec (.retireT1Bank unit loc) s) ⟨1, false, u, n % 1024⟩ (decide (8 ≤ u)) (s.bankInExtent u (n % 1024)) ∧
      place (exec (.retireT2Page unit loc) s) ⟨2, false, u, n⟩ (4 ≤ u || n / (cartBytes / 4096) ≠ u) (s.inExtent 2 n)) ∧
    (∀ bs : List Byte, (s.noHiveLive = false ∨ s.manifestBad bs = true → exec (.manifestWrite bs) s = .next s) ∧
      (s.noHiveLive = true → s.manifestBad bs = false → ∃ t, exec (.manifestWrite bs) s = .next t ∧
        t.err.gen = BitVec.ofNat 64 (bytesAt bs 8 8) ∧ t.err.changed = false ∧
        t.err.stripes = ((List.range 256).map (fun h => bitsSet (bytesAt bs (64 + 160 * h) 96) 768 (768 * h))).flatten)) ∧
    (∀ (e : Fin 64) (v : Dword), exec (.outerRegionWrite e v) s = .next (s.outerRegion e.val v).1 ∧
      ((s.outerRegion e.val v).2 = false → (s.outerRegion e.val v).1 = s) ∧
      (s.noHiveLive = false ∨ 4 < fld v.toNat 34 32 ∨ (if e.val < 32 then 8192 else 24576) < fld v.toNat 15 0 + fld v.toNat 31 16 →
        (s.outerRegion e.val v).2 = false)) ∧
    (∀ (target : BitVec 4) (unit : BitVec 8) (spare : BitVec 5) (loc : BitVec 39), let p := s.rawSpot target.toNat unit.toNat spare.toNat loc.toNat
      let done := fun (t : State) (st : Nat) => show State from { t with err := { t.err with chkCmd := dwordOf [(63, 60, st)] } }
      let may := s.clk.rootOn = true ∧ s.mgmt.wipe = false ∧ s.chkDenied target.toNat unit.toNat spare.toNat loc.toNat = false
      (¬may → exec (.readRaw target unit spare loc) s = .next s ∧ exec (.writeRaw target unit spare loc) s = .next s) ∧
      (may → s.power.hold = true → exec (.writeRaw target unit spare loc) s = .next s) ∧
      (may → p = none → exec (.readRaw target unit spare loc) s = .next (done s 4) ∧
        (s.power.hold = false → exec (.writeRaw target unit spare loc) s = .next (done s 4))) ∧
      (may → ∀ q, p = some q → (∃ t, exec (.readRaw target unit spare loc) s = .next t ∧ t.mem = s.mem ∧
          t.err.chkCmd = dwordOf [(63, 60, 2)] ∧ t.err.chkData = BitVec.ofNat 640 (s.rawData q)) ∧
        (s.power.hold = false → exec (.writeRaw target unit spare loc) s = .next (done ((s.rawCycle q).storeRaw q) 2))))

/-- R424, R425, R428, R430, R431: the arrival of requests. -/
def Obligations.RequestsArriveAndAreChecked : Prop :=
  ∀ (s : State), s.yppUp = true →
    (∀ (eid : Byte) (tag : Fin 8) (bs : List Byte), let ic := bit (bytesAt bs 0 1) 7
      let body := if ic then bs.take (bs.length - 4) else bs
      let hdr := bytesNat ((body.drop 5).take 32)
      let ok := bytesAt bs 0 1 % 128 = 0x7F ∧ bytesAt bs 1 1 * 2^24 + bytesAt bs 2 1 * 2^16 + bytesAt bs 3 1 * 2^8 + bytesAt bs 4 1 = s.pv 0x0004 0 ∧
        5 ≤ bs.length ∧ (ic = true → bytesAt bs (bs.length - 4) 4 = (crc32 body).toNat)
      let r := yreqOf (.mctp eid) tag.val ic hdr (body.drop 37)
      let many := 16 ≤ s.mctpHeld.length ∨ s.mctpHeld.any (fun q => q.path = .mctp eid && q.tag = tag.val) = true
      let gone := s.mirror.st = .leaving ∧ leavingServes r = false
      let go := exec (.mctpMessage eid tag bs) s
      (¬ok → go = .next s) ∧
      (ok → many → gone → go = .next s) ∧
      (ok → many → ¬gone → go = .next (s.sendRsp (r.rsp 0x0C [s.sched.result] r.index))) ∧
      (ok → ¬many → go = .next (s.takeReq (.mctp eid) tag.val ic hdr (body.drop 37) (badFrame hdr (body.drop 37).length || decide (body.length < 37)) false))) ∧
    (∀ (k : Fin 3) (bs : List Byte), let hdr := bytesNat (bs.take 32)
      let n := min (fld hdr 95 80) 1024
      (s.mbState k.val ≠ 0 → exec (.mbGo k bs) s = .next s) ∧
      (s.mbState k.val = 0 → 
        let u := show State from { s with mgmt := { s.mgmt with slots := Tbl.set s.mgmt.slots {} k.val { Tbl.get s.mgmt.slots {} k.val with st := 1, req := bs } } }
        exec (.mbGo k bs) s = .next (u.takeReq (.mb k) 0 false hdr (natBytes n (bytesNat ((bs.drop 32).take n))) (badFrame hdr (fld hdr 95 80)) false))) ∧
    (∀ (p : Path) (tag : Nat) (ic : Bool) (hdr : Nat) (pl : List Byte) (bad free : Bool), let r := yreqOf p tag ic hdr pl
      let st := s.stageA bad r
      let answer := fun n => s.sendRsp (r.rsp n [s.sched.result] r.index)
      let go := s.takeReq p tag ic hdr pl bad free
      let outside := free = false ∧ s.replaying = true ∧ writeOp r.op = true ∧ ¬(0x7200 ≤ r.param ∧ r.param ≤ 0x7204) ∧ r.param < 0xF000
      (s.mirror.st = .leaving → leavingServes r = false → go = s.slotDrop p) ∧
      ((s.mirror.st ≠ .leaving ∨ leavingServes r = true) →
        (st = 0x06 → go = (answer st).sayDenied r st) ∧ (st = 0x0D → go = (answer st).jSayFull) ∧ (st ≠ 0 → st ≠ 0x06 → st ≠ 0x0D → go = answer st) ∧
        (st = 0 → outside → go = answer 0x0B) ∧
        (st = 0 → ¬outside → 
          let v := if writeOp r.op = true then s.recInput 4 0 0 (recorded p tag ic hdr pl) true else s
          go = State.logPump 32 { v with mgmt := { v.mgmt with reqs := s.mgmt.reqs ++ [{ r with no := s.mgmt.reqNo, go := !v.logs { r with no := s.mgmt.reqNo } }], reqNo := s.mgmt.reqNo + 1 } }))) ∧
    (∀ r : YReq, (s.stageA true r = 0x01) ∧ (r.op ≠ 5 → r.op ≠ 7 → pdesc r.param = none → s.stageA false r = 0x02) ∧
      (∀ d, pdesc r.param = some d → let onVal := r.op ≠ 5 ∧ r.op ≠ 7
        s.stageA false r =
          if onVal ∧ d.count ≤ r.index then 0x03
          else if r.op = 0 ∨ 7 < r.op ∨ (onVal ∧ writeOp r.op = true ∧ d.roAt r.index = true) then 0x04
          else if s.badLength d r = true then 0x05
          else if s.denied d r = true then 0x06
          else if s.quench.st = 2 ∧ quenchServes r = false then 0x07
          else if writeOp r.op = true ∧ 32 ≤ s.hostQueue then 0x0C
          else if s.logs r = true ∧ s.jFull = true then 0x0D
          else 0)) ∧
    (∀ k : Fin 3, (s.mbState k.val ≠ 2 → exec (.mbRspack k) s = .next s) ∧
      (s.mbState k.val = 2 → ∃ t, exec (.mbRspack k) s = .next t ∧ Tbl.get t.mgmt.slots {} k.val = { Tbl.get s.mgmt.slots {} k.val with st := 0, rsp := [] })) ∧
    (∀ k : Fin 3, ∃ t, exec (.mbEvack k) s = .next t ∧
      t.mgmt.subs = s.mgmt.subs.map (fun b => if b.path = .mb k then Sub.settle { b with queue := b.queue.drop 1 } else b) ∧ t.mgmt.slots = s.mgmt.slots)

/-- R426 to R433, R315, R416, R418, R422: stage B. That a whole operation has a row of its own is the table's. -/
def Obligations.OperationsRunInOrder : Prop :=
  ∀ (s : State),
    (∀ p : Path,
      let runs := fun (o : Host.Outcome State Fault Refusal) (op : Nat) =>
        (s.yppUp = false ∨ s.nextReq p op = none → o = .next s) ∧
        (∀ r, s.yppUp = true → s.nextReq p op = some r →
          (r ∈ s.mgmt.reqs ∧ r.path = p ∧ r.op = op ∧ r.go = true ∧ r.ran = false ∧ (∀ q ∈ s.mgmt.reqs, q.no < r.no → s.committing q = false → q.ran = false →
            q.path ≠ p ∧ (writeOp op = true → writeOp q.op = false))) ∧
          (r.commit = true → o = .next (s.runCommit r)) ∧
          (r.commit = false → o = .next ((s.runOp r).1.finish r.no (s.runOp r).2.1 (s.runOp r).2.2.1 (s.runOp r).2.2.2)))
      runs (exec (.yppRead p) s) 1 ∧ runs (exec (.yppWrite p) s) 2 ∧ runs (exec (.yppReadBlock p) s) 3 ∧ runs (exec (.yppWriteBlock p) s) 4 ∧
      runs (exec (.yppCommit p) s) 5 ∧ runs (exec (.yppDescribe p) s) 6 ∧ runs (exec (.yppSubscribe p) s) 7) ∧
    (∀ (r : YReq) (d : PDesc), r.desc = some d →
      (s.denied d r = true → s.runCommit r = (s.sayDenied r 0x06).finish r.no 0x06 [(s.sayDenied r 0x06).sched.result] r.index ∧
        s.runOp r = (s.sayDenied r 0x06, 0x06, [], r.index)) ∧
      (s.denied d r = false → (s.sched.commit ≠ none ∨ s.clk.rootOn = false → s.runCommit r = s.finish r.no 0x09 [s.sched.result] r.index) ∧
        (s.sched.commit = none → s.clk.rootOn = true → s.runCommit r = s.commitGo (some r.no)) ∧
        (s.mgmt.wipe = true → s.feature d r ≠ 0 → s.runOp r = (s, 0x09, [], r.index)) ∧
        (s.mgmt.wipe = false ∨ s.feature d r = 0 →
          (r.op = 1 → s.runOp r = (s, 0, natBytes d.size (s.elem d.num r.index r.active), r.index)) ∧
          (r.op = 6 → s.runOp r = (s, 0, describe d r.index, r.index)) ∧
          (r.op = 2 → let x := s.runWrite d r.index (bytesNat r.payload)
            s.runOp r = (if x.2 = 0x06 then x.1.sayDenied r 0x06 else x.1, x.2, [], r.index)) ∧
          (r.op = 4 → d.num ≠ 0xF002 → d.num ≠ 0x3100 → ∀ e, s.blockCheck d r.index (r.values d.size) = some e → s.runOp r = (s, e.2, [], e.1)) ∧
          (r.op = 7 → let x := s.subscribe r.path (bytesNat r.payload)
            s.runOp r = (x.1, if x.2 then 0 else 0x0B, [], r.index))))) ∧
    (∀ (p : Path) (v : Nat), 16 ≤ s.mgmt.subs.length → (∀ b ∈ s.mgmt.subs, b.path ≠ p) → dwordOf [(31, 16, fld v 31 16), (9, 1, fld v 9 1)] ≠ 0 →
      s.subscribe p v = (s, false)) ∧
    (∀ (p : Path),
      let ends := fun (o : Host.Outcome State Fault Refusal) (op prm idx off want : Nat) (pl : List Byte) =>
        let hdr := pack [(7, 0, 1), (15, 8, op), (17, 16, ceiling p), (79, 64, prm), (95, 80, pl.length), (127, 96, idx), (159, 128, off), (175, 160, want)]
        let r := yreqOf p 0 false hdr pl
        let st := s.stageA (badFrame hdr pl.length) r
        let busy := ∃ k : Fin 3, p = .mb k ∧ s.mbState k.val ≠ 0
        let gone := s.mirror.st = .leaving ∧ leavingServes r = false
        let w := if writeOp op then s.recInput 4 0 0 (recorded p 0 false hdr pl) true else s
        (s.yppUp = false ∨ busy ∨ gone → o = .next s) ∧
        (s.yppUp = true → ¬busy → ¬gone → (st ≠ 0 → o = .next ((if st = 0x06 then s.sayDenied r st else s).sendRsp (r.rsp st [] r.index))) ∧
          (st = 0 → o = .next ((w.runOp r).1.sendRsp (r.rsp (w.runOp r).2.1 (w.runOp r).2.2.1 (w.runOp r).2.2.2))))
      (∀ want, ends (exec (.testReadBlock p want) s) 3 0xF002 0 0 want []) ∧ (∀ pl, ends (exec (.testWriteBlock p pl) s) 4 0xF002 0 0 0 pl) ∧
      (∀ (u : UnitId) off want, ends (exec (.quenchUnitRead p u off want) s) 3 0x7202 u.val off want []) ∧
      (∀ want, ends (exec (.quenchMemRead p want) s) 3 0x7204 0 0 want [])) ∧
    (∀ (t : RegTarget) (v : Dword), (s.mgmt.por = true → exec (.registerWrite t v) s = .next s) ∧ (s.mgmt.por = false →
      (∀ h c off, t = .page h c off →
        exec (.registerWrite t v) s = .next (if off.toNat % 8 = 0 then s.pageWrite h c off.toNat v.toNat else s) ∧
        (off.toNat % 8 = 0 → plainReg off.toNat = true → (ctx0Only off.toNat = true → c.val = 0) → s.cmdFree h c →
          off.toNat ∉ [0x110, 0x210, 0x230, 0x240, 0x308, 0x310, 0x318, 0x320, 0x940, 0xC40] → ∃ t', exec (.registerWrite t v) s = .next t' ∧
          t'.page h.val c.val off.toNat = BitVec.ofNat 64 ((pageReserved off.toNat).foldl (fun v r => setFld v r.1 r.2 0) v.toNat) ∧ t'.mem = s.mem)) ∧
      (∀ h c u off, t = .edge h c u off → s.cmdFree h c →
        (17 ≤ u.val ∨ off.toNat % 8 ≠ 0 → exec (.registerWrite t v) s = .next s) ∧
        (u.val < 17 → off.toNat % 8 = 0 → (∀ x ∈ s.flight, x.id < s.nextId) → ∃ t' z, exec (.registerWrite t v) s = .next t' ∧ t'.xact s.nextId = some z ∧
          z.purpose = .regAccess ∧ z.stage = .meshIf ∧ z.kind = .write ∧ z.loc = .edge u.val off.toNat ∧ z.ctx = c.val ∧ z.srcUnit = h.val ∧
          z.data = BitVec.ofNat 512 (v.toNat * 2^(8 * (off.toNat % 64))))) ∧
      (∀ n j, t = .param n j → (pdesc n.toNat = none → exec (.registerWrite t v) s = .next s) ∧
        (∀ d, pdesc n.toNat = some d →
          exec (.registerWrite t v) s = .next (if d.roAt j ∨ d.count ≤ j ∨ 2^(8 * d.size) ≤ v.toNat then s else (s.writeElem d j v.toNat).1) ∧
          (d.roAt j = false → j < d.count → v.toNat < 2^(8 * d.size) → s.asleepElem d.num j = false → s.notNow d j v.toNat = false →
            outOfRange d j v.toNat = false → s.storeOwn d.num j v.toNat = none →
            exec (.registerWrite t v) s = .next (if d.acc = .rws then s.setShd d.num j (v.toNat &&& wmask d.num j) else s.setPv d.num j (v.toNat &&& wmask d.num j)))))))

/-- R318, R319, R331 to R336, R344, R346: the states of a pair. The JOIN flag's place is the model's: log entry 44. -/
def Obligations.PairsJoinBeatAndFence : Prop :=
  ∀ (s : State), s.clk.rootOn = true →
    let m := s.mirror
    let leaves := s.paired = true ∧ m.fenceReq = false ∧ m.waits.any (fun w => w.2 = MWait.leave) = false
    let due := m.beatDue ≤ s.clk.now ∧ m.fenceReq = false ∧ m.replay = false ∧ (m.st = .joining ∨ m.st = .paired ∨ m.st = .restoring)
    let late := m.fenceReq = true ∧ m.st ≠ .fenceWait ∧ m.fenceTs + usNs * s.pv 0x5002 0 ≤ s.clk.ts.toNat
    let lively := (m.st = .paired ∨ m.st = .restoring) ∧ m.fenceReq = false ∧ m.replay = false
    let open_ := (s.journal.partner.filter (fun e => jState e.2 ≠ 0 && !jFinal e.2)).foldl (fun l e => insertSeq e l) []
    let r := open_.foldl State.replayStep (s, 0, 0)
    (m.st = .unpaired → s.pv 0x5000 0 ≤ 1023 → ∃ t, exec .pairJoin s = .next t ∧ t.mirror = { m with st := .joining, beatDue := s.clk.now, joinSent := false }) ∧
    (m.st ≠ .unpaired ∨ 1023 < s.pv 0x5000 0 → exec .pairJoin s = .next s) ∧
    ((leaves → exec .pairLeave s = .next (s.sendSeq 0x45 0 0 0 0 0 [] [.leave] false)) ∧ (¬leaves → exec .pairLeave s = .next s)) ∧
    ((¬due → exec .mheartSend s = .next s) ∧
      (due → m.joinGot = none ∨ m.st ≠ .joining → exec .mheartSend s = .next s.sendHeart) ∧
      (due → ∀ c, m.joinGot = some c → m.st = .joining → exec .mheartSend s = .next (s.sendHeart.pairUp (if c = 3 ∨ c = 6 then .restoring else .paired))) ∧
      s.sendHeart.mirror.beatDue = s.clk.now + 22500 ∧ s.sendHeart.mirror.ackSent = m.expect - 1) ∧
    (∀ st : PairSt, (s.pairUp st).mirror.st = st ∧ (s.pairUp st).mirror.expect = 1 ∧ (s.pairUp st).mirror.lastHb = s.clk.now) ∧
    (s.clk.now < m.lastHb + 67500 → exec .heartbeatTimeout s = .next s) ∧
    (m.lastHb + 67500 ≤ s.clk.now → exec .heartbeatTimeout s = .next (s.partnerLost 1)) ∧
    (∀ cause, (¬lively → s.partnerLost cause = s) ∧
      (lively → (s.partnerLost cause).mirror = { m with fenceReq := true, lossCause := cause, lossTs := s.clk.ts.toNat, fenceTs := s.clk.ts.toNat })) ∧
    (∀ f : MFrame, let v := s.mframeSeen 0x43 f
      let join := f.flags.getLsbD 0 = true
      let theirs := fld (f.payload.headD 0).toNat 127 120
      let st := if theirs = 3 ∨ theirs = 6 then PairSt.restoring else .paired
      let noted := show State from { v with mirror := { v.mirror with joinGot := some theirs } }
      let beat := show State from { v with mirror := { v.mirror with lastHb := v.clk.now } }
      let go := exec (.mheartRecv f) s
      (s.mframeOpen f = false ∨ m.st = .fenced → go = .next s) ∧
      (s.mframeOpen f = true → v.mirror.st = m.st → v.mirror.joinSent = m.joinSent →
        (m.st = .unpaired ∨ m.st = .joining ∨ m.st = .solo → ¬join → go = .next v) ∧
        (m.st = .unpaired ∨ (m.st = .joining ∧ m.joinSent = false) → join → go = .next noted) ∧
        (m.st = .joining → m.joinSent = true → join → go = .next (v.pairUp st)) ∧
        (m.st = .solo → join → go = .next (v.pairUp .restoring)) ∧
        (m.st ≠ .unpaired → m.st ≠ .joining → m.st ≠ .solo → m.st ≠ .fenced → go = .next (if beat.seqOpen then beat.mackTake f.ack.toNat 0 else beat)))) ∧
    (m.fenceReq = false → exec .fenceAck s = .next s) ∧
    (m.fenceReq = true → ∃ t, exec .fenceAck s = .next t ∧ t.mirror.replay = true ∧ t.mirror.fenceReq = false ∧ t.mirror.waits = [] ∧ t.mirror.flight = [] ∧
      t.mirror.reserve = m.reserve.map (fun e => (e.1, if mrState e.2 = 3 || mrState e.2 = 5 then withMrState e.2 4
        else if mrState e.2 = 2 then BitVec.ofNat 128 (setFld (withMrState e.2 4).toNat 124 124 1) else e.2)) ∧
      t.mirror.region = (m.region.map (fun e => (e.1, withMrState e.2 (if mrEn e.2 then 3 else 0)))).filter (fun e => e.2 ≠ 0)) ∧
    (m.st = .unpaired ∨ m.st = .fenced → exec .selfFenced s = .next s) ∧
    (m.st ≠ .unpaired → m.st ≠ .fenced → ∃ t, exec .selfFenced s = .next t ∧
      t.mirror = { m with st := .fenced, cause := if m.fenceReq then m.lossCause else 0, fenceReq := false, heldOut := [] }) ∧
    ((¬late → exec .fenceTimeout s = .next s) ∧
      (late → ∃ t, exec .fenceTimeout s = .next t ∧ t.mirror = { m with st := .fenceWait, cause := m.lossCause })) ∧
    (m.replay = false → exec .failoverReplayDone s = .next s) ∧
    (m.replay = true → exec .failoverReplayDone s = .next (r.1.goSolo r.2.1 r.2.2)) ∧
    (∀ a b, (s.goSolo a b).mirror = { m with st := .solo, replay := false, cause := m.lossCause })

/-- R19, R20, R322, R326 to R330, R337, R343, R346: frames of the mirror. -/
def Obligations.MirrorFramesApplyInOrder : Prop :=
  ∀ (s : State) (f : MFrame),
    (∀ (kind : Nat) (now_ : Bool) (g : State → State × Nat), let v := s.mframeSeen kind f
      let go := s.seqApply kind f now_ g
      let may := s.mframeOpen f = true ∧ s.seqOpen = true
      let held := s.power.hold = true ∨ s.mirror.heldIn ≠ []
      (¬may → go = s) ∧
      (may → held → go = { s with mirror := { s.mirror with heldIn := s.mirror.heldIn ++ [(kind, f)] } }) ∧
      (may → ¬held → f.seq.toNat ≠ v.mirror.expect → go =
        (v.raise { code := 0x72, unit := uMu, obj := f.srcChip.val, aux := v.mirror.expect, ga := f.seq.toNat }).partnerLost 3) ∧
      (may → ¬held → f.seq.toNat = v.mirror.expect →
        let since := if v.mirror.ackSent + 1 = v.mirror.expect then v.clk.now else v.mirror.ackSince
        let w := show State from { v with mirror := { v.mirror with expect := v.mirror.expect + 1, ackSince := since, ackLines := v.mirror.ackLines + f.payload.length } }
        let r := g (w.cadd 0x6400 2 1)
        (now_ = true → go = r.1.sendMack r.2) ∧
        (now_ = false → 64 ≤ r.1.mirror.ackLines → go = r.1.sendMack 0) ∧ (now_ = false → r.1.mirror.ackLines < 64 → go = r.1))) ∧
    (∀ flags, (s.sendMack flags).mirror.ackSent = (s.sendMack flags).mApplied ∧ (s.sendMack flags).mirror.ackLines = 0) ∧
    exec (.mwriteRecv f) s = .next (s.seqApply 0x40 f (f.flags.getLsbD 0) (fun s => (s.copyFrame f .write, 0))) ∧
    exec (.maccRecv f) s = .next (s.seqApply 0x41 f (f.flags.getLsbD 0) (fun s => (s.copyFrame f .acc, 0))) ∧
    (∃ g, exec (.mjournalRecv f) s = .next (s.seqApply 0x42 f (f.flags.getLsbD 0) g) ∧ ∀ u : State, (g u).2 = 0 ∧ (g u).1.mem = u.mem ∧
      (g u).1.journal.partner = Tbl.set (if u.mirror.fresh then [] else u.journal.partner) 0 (f.off.toNat / 64 % 65536) (f.payload.headD 0)) ∧
    (∃ g, exec (.msetupRecv f) s = .next (s.seqApply 0x46 f true g) ∧ ∀ u : State, let q := u.mreserve f.region.val
      let p : Quad := BitVec.ofNat 128 ((f.payload.headD 0).toNat % 2^100)
      let same := mrCopy q = mrBase p ∧ mrPages q = mrPages p ∧ mrBase q = mrCopy p
      (same → mrState q = 1 → g u = (u.setReserve f.region.val (withMrState q 2), 0)) ∧ (same → mrState q = 4 → g u = (u.startRestore f.region.val, 32)) ∧
      (¬same ∨ (mrState q ≠ 1 ∧ mrState q ≠ 4) → g u = (u, 16))) ∧
    (∃ g, exec (.mreqRecv f) s = .next (s.seqApply 0x47 f false g) ∧ ∀ u : State, (mrState (u.mreserve f.region.val) ≠ 3 → g u = (u, 0)) ∧
      (mrState (u.mreserve f.region.val) = 3 → g u = ((List.range f.lines.toNat).foldl (fun (v : State) j =>
        let off := f.off.toNat / 64 * 64 + 64 * j
        if mrPages (u.mreserve f.region.val) * 4096 ≤ off then v
        else v.sendSeq 0x48 f.region.val 0 0 off fullMask [(v.peek (4096 * mrBase (u.mreserve f.region.val) + off)).1] [] false) u, 0))) ∧
    (∃ g, exec (.mretRecv f) s = .next (s.seqApply 0x48 f (f.flags.getLsbD 0) g) ∧ ∀ u : State, let q := u.mregion f.region.val
      let v := (f.payload.zipIdx).foldl (fun (v : State) e =>
        let off := f.off.toNat / 64 * 64 + 64 * e.2
        if mrPages q * 4096 ≤ off then v else v.ownLine (4096 * mrBase q + off) e.1) u
      (f.flags.getLsbD 2 = true → mrState q = 4 → g u = ((v.setRegion f.region.val (withMrState q 2)).restoredTry, 0)) ∧
      (f.flags.getLsbD 2 = false ∨ mrState q ≠ 4 → g u = (v, 0))) ∧
    (∃ g : State → State × Nat, (∀ u : State, let q := u.mreserve f.region.val
        g u = (if f.flags.getLsbD 6 && (mrState q = 2 || mrState q = 3 || mrState q = 5) then u.setReserve f.region.val (withMrState q 1) else u, 0)) ∧
      (f.flags.getLsbD 3 = false → exec (.mfenceRecv f) s = .next (s.seqApply 0x45 f true g)) ∧
      (f.flags.getLsbD 3 = true → s.mframeOpen f = true → s.seqOpen = true → f.seq.toNat = s.mirror.expect →
        let u := s.seqApply 0x45 f true g
        exec (.mfenceRecv f) s = .next (({ u with mirror := { u.mirror with lossCause := 4, lossTs := u.clk.ts.toNat } } : State).aliasAll.goSolo 0 0))) ∧
    (s.mframeOpen f = false ∨ s.seqOpen = false → exec (.mackRecv f) s = .next s) ∧
    (s.mframeOpen f = true → s.seqOpen = true → exec (.mackRecv f) s = .next ((s.mframeSeen 0x44 f).mackTake f.ack.toNat f.flags.toNat)) ∧
    (∀ i l, mrState (s.mregion i) = 1 → s.mwaitEnd 0 l (.last i) = (s.setRegion i (withMrState (s.mregion i) 2)).restoredTry) ∧
    (let due := s.clk.rootOn = true ∧ s.seqOpen = true ∧ s.mirror.ackSent < s.mApplied ∧ s.mirror.ackSince + 256 ≤ s.clk.now;
      (¬due → exec .mackTimer s = .next s) ∧ (due → exec .mackTimer s = .next (s.sendMack 0))) ∧
    (let due := s.clk.rootOn = true ∧ s.mirror.throttle = false ∧ (4096 < s.lag ∨ 45000 < s.lagAge);
      (¬due → exec .mirrorLag s = .next s) ∧ (due → ∃ t, exec .mirrorLag s = .next t ∧ t.mirror.throttle = true ∧ t.mem = s.mem))

/-- R320 to R322, R337: regions and reserves, seeding and restoration. -/
def Obligations.MirrorRegionsSeedAndRestore : Prop :=
  ∀ (s : State) (i : Fin 64), s.mgmt.por = false → s.clk.rootOn = true →
    (∀ v : Quad, let old := s.mregion i.val
      let new : Quad := BitVec.ofNat 128 (pack [(127, 125, mrState old), (124, 124, b2n (mrSync v)), (123, 123, b2n (mrEn v)), (99, 64, mrCopy v),
        (63, 36, mrPages v), (35, 0, mrBase v)])
      let moved := mrBase v ≠ mrBase old ∨ mrPages v ≠ mrPages old ∨ mrCopy v ≠ mrCopy old
      let meets := ∃ j, j < 64 ∧ j ≠ i.val ∧ mrEn (s.mregion j) = true ∧ runsMeet (mrBase v) (mrPages v) (mrBase (s.mregion j)) (mrPages (s.mregion j)) = true
      let bad := mrPages v = 0 ∨ s.regionFits (mrBase v) (mrPages v) = false ∨ meets ∨ (mrEn v = true ∧ moved ∧ mrState old ≠ 0)
      let up := s.paired = true ∨ s.mirror.st = .restoring
      let t := s.setRegion i.val new
      let go := exec (.mirrorRegionWrite i v) s
      (bad → go = .next s) ∧
      (¬bad → mrEn v = true → mrEn old = false → (up → go = .next (t.sendSetup i.val)) ∧ (¬up → go = .next (t.setRegion i.val (withMrState new 3)))) ∧
      (¬bad → mrEn v = false → mrEn old = true →
        (up → mrState old ≠ 3 → go = .next (t.sendSeq 0x45 i.val 0 64 0 0 [] [.disable i.val] false)) ∧
        (¬up ∨ mrState old = 3 → go = .next (t.setRegion i.val (withMrState new 0)))) ∧
      (¬bad → mrEn v = mrEn old → go = .next t)) ∧
    (∀ v : Quad, let old := s.mreserve i.val
      let new : Quad := BitVec.ofNat 128 (pack [(127, 125, if mrPages v = 0 then 0 else 1), (99, 64, mrCopy v), (63, 36, mrPages v), (35, 0, mrBase v)])
      let lo := 4096 * mrBase v
      let hi := lo + 4096 * mrPages v
      let inside := ∃ e ∈ s.err.extents, e.kind = 6 ∧ e.base ≤ lo ∧ hi ≤ e.base + e.len
      let meets := ∃ j, j < 64 ∧ j ≠ i.val ∧ mrState (s.mreserve j) ≠ 0 ∧ runsMeet (mrBase v) (mrPages v) (mrBase (s.mreserve j)) (mrPages (s.mreserve j)) = true
      let go := exec (.mirrorReserveWrite i v) s
      (2 ≤ mrState old → go = .next s) ∧
      (mrState old < 2 → mrPages v = 0 → go = .next (s.setReserve i.val 0)) ∧
      (mrState old < 2 → mrPages v ≠ 0 → (¬inside ∨ meets → go = .next s) ∧ (inside → ¬meets → go = .next (s.setReserve i.val new)))) ∧
    (∀ v : Quad, (s.setRegion i.val v).mregion i.val = v ∧ (s.setReserve i.val v).mreserve i.val = v) ∧
    (let q := s.mregion i.val;
      let p := Tbl.get s.mirror.prog {} i.val;
      let ga := 4096 * mrBase q + 64 * p.next;
      let loc := s.locate ga;
      let x : Xact := { kind := .write, ga := BitVec.ofNat 48 ga, mask := fullMask, data := (s.peek ga).1, unit := loc.unit, dest := i.val, dir := b2n (p.next + 1 = 64 * mrPages q), purpose := .mirrorSeed i.val };
      let may := s.throttled 2 = false ∧ mrState q = 1 ∧ mrEn q = true ∧ p.next < 64 * mrPages q ∧ s.fwdQueue loc.unit < 1024 ∧ (loc.rowId = none ∨ s.freeAt loc.arb ≤ s.clk.now);
      (¬may → exec (.mirrorSeedRead i) s = .next s) ∧
      (may →
        let u := if loc.rowId.isSome = true then s.occupy loc.arb 1 else s
        exec (.mirrorSeedRead i) s = .next (({ u with mirror := { u.mirror with prog := Tbl.set u.mirror.prog {} i.val { p with next := p.next + 1 } } } : State).putCopy x))) ∧
    (let q := s.mreserve i.val;
      let p := Tbl.get s.mirror.prog {} (64 + i.val);
      let may := mrState q = 5 ∧ s.mayMirror = true;
      (¬may → exec (.mirrorRestorePassEnd i) s = .next s) ∧
      let todo := if p.pass = 0 then List.range (64 * mrPages q) else p.todo;
      let send := fun (lines : List Nat) => (lines.zipIdx).foldl (fun (s : State) e =>
        s.sendSeq 0x48 i.val 0 (if p.final = true ∧ e.2 + 1 = lines.length then 4 else 0) (64 * e.1) fullMask [(s.peek (4096 * mrBase q + 64 * e.1)).1] [] false) s;
      (may → p.final = false →
        let v := send todo
        let after : MProg := { next := 0, pass := p.pass + 1, final := decide (p.dirty.length ≤ s.pv 0x1014 0) || decide (s.pv 0x1015 0 ≤ p.pass + 1), dirty := [], todo := p.dirty }
        exec (.mirrorRestorePassEnd i) s = .next { v with mirror := { v.mirror with prog := Tbl.set v.mirror.prog {} (64 + i.val) after } }) ∧
      (may → p.final = true →
        let v := (send (if todo = [] then [64 * mrPages q - 1] else todo)).setReserve i.val (withMrState q 3)
        exec (.mirrorRestorePassEnd i) s = .next ({ v with mirror := { v.mirror with prog := Tbl.erase v.mirror.prog (64 + i.val) } } : State).restoredTry))

/-- R339 to R342, R347 to R350: the journal and the replay of inputs. -/
def Obligations.JournalAndReplayGoOn : Prop :=
  ∀ (s : State),
    (∀ seq : BitVec 48, let e := s.journal.pending.find? (fun p => p.1 = seq.toNat)
      let go := exec (.journalEntryComplete seq) s
      (e = none ∨ s.jWaits seq.toNat = true ∨ s.power.hold = true ∨ s.clk.rootOn = false → go = .next s) ∧
      (∀ p, e = some p → s.jWaits seq.toNat = false → s.power.hold = false → s.clk.rootOn = true →
        let v := show State from { s with journal := { s.journal with pending := s.journal.pending.erase p } }
        go = .next (State.jPump 16 (State.jAdvance 65536 (match p.2 with
          | .host n => v.hostEntryDone seq.toNat n
          | .desc h k idx => v.descEntryDone h k idx
          | .handle slot => v.handleEntryDone seq.toNat slot
          | .win slot _ => v.winEntryDone seq.toNat slot
          | .none => v))))) ∧
    (∀ seq n r, s.yreq n = some r → let st := jState (s.jEntry seq)
      (st = 1 → s.hostEntryDone seq n = s.jChange seq jStarted 0 (.host n)) ∧ (st = 2 → s.hostEntryDone seq n = s.setReq { r with go := true }) ∧
      (st ≠ 1 → st ≠ 2 → s.hostEntryDone seq n = s.respond r)) ∧
    (∀ seq slot, let e := (s.jEntry seq).toNat
      let q : Quad := BitVec.ofNat 128 (fld e 319 192)
      let bad := s.draining (slot / 512) (slot / 64 % 8) (slot % 64) = true ∨ s.loadRefused q = true
      let no := s.winRefused (slot / 32) (fld e 435 433) (slot % 32) (fld e 191 188) q
      (fld e 463 461 = 2 → s.handleEntryDone seq slot = s.startDrain slot { entry := q, since := s.clk.now, ctl := true, jseq := some seq, again := false }) ∧
      (fld e 463 461 = 1 → (bad → s.handleEntryDone seq slot = s.jChange seq jFailed 0 (.handle slot)) ∧
        (¬bad → s.handleEntryDone seq slot = s.jChange seq jStarted 0 (.handle slot)) ∧
        s.winEntryDone seq slot = s.jChange seq (if no then jFailed else jStarted) 0 (.win slot (fld e 191 188))) ∧
      (fld e 463 461 = 2 → s.winEntryDone seq slot = s.winEffect (slot / 32) (fld e 435 433) (slot % 32) (fld e 191 188) q (some seq)) ∧
      (3 ≤ fld e 463 461 → let st := if fld e 463 461 = 3 then 2 else 4
        s.handleEntryDone seq slot = s.handleStatus (slot / 512) st ∧
        s.winEntryDone seq slot = s.setStatus (slot / 32) (fld e 435 433) 0x230 st (slot % 32))) ∧
    (∀ v : Dword, let t := s.journal.tail
      let bad := v.toNat < t ∨ s.journal.head < v.toNat ∨ ∃ k, k < v.toNat - t ∧ jFinal (s.jEntry (t + k)) = false
      (s.mgmt.por = true ∨ bad → exec (.journalTailWrite v) s = .next s) ∧
      (s.mgmt.por = false → ¬bad → exec (.journalTailWrite v) s = .next (State.jPump 16
        { s with journal := { s.journal with tail := v.toNat, fullSaid := s.journal.fullSaid && v.toNat = t } }))) ∧
    (∀ i : RecInput, (s.replayDue = none → exec (.replayInput i) s = .next s) ∧
      (∀ e, s.replayDue = some e → let fits := s.clk.rootOn = true ∧ e.kind = i.kind.toNat ∧ e.unit = i.unit.toNat ∧ e.tag = i.tag.toNat ∧ e.cycle ≤ s.recCycle ∧ 3 ≤ e.kind
        (¬fits → exec (.replayInput i) s = .next s) ∧
        (fits → (e.kind = 3 → exec (.replayInput i) s = .next ((s.fromRecord (fun u => u.frameReplay (Fin.ofNat 4 e.unit) (s.replayData e))).replayNext e i.hash)) ∧
          (e.kind = 4 → exec (.replayInput i) s = .next ((s.yppReplay (s.replayData e)).replayNext e i.hash)) ∧
          (e.kind = 5 → exec (.replayInput i) s = .next ((if s.mgmt.phase = 7 then s.epochEdge else s).replayNext e i.hash)) ∧
          (e.kind = 6 → exec (.replayInput i) s = .next (s.tsync.replayNext e i.hash)) ∧
          (e.kind = 7 → exec (.replayInput i) s = .next ((s.fromRecord State.holdReplay).replayNext e i.hash)) ∧
          (7 < e.kind → exec (.replayInput i) s = .next (s.replayNext e i.hash)))))

/-- R366 to R375 and R381. How sums of powers are rounded is left open: log entry 7. -/
def Obligations.PowerControllerRuns : Prop :=
  ∀ (s : State), s.mgmt.por = false →
    let est := uwAdd (uwAdd (s.estOf 0) (s.estOf 1)) (s.estOf 2)
    let all := uwAdd (uwAdd (uwAdd (s.measured 0) (s.measured 1)) (s.measured 2)) (s.measured 3)
    let margin := uwMw (1000 * s.pv 0x4004 0)
    let ctl := if s.power.tlost ≠ [] then (if s.power.div then uwAdd est margin else est) else if s.power.div then uwAdd all margin else uwMax est all
    (∀ temps, (s.clk.hnow < s.power.winAt + 200 → exec (.estimatorWindowEnd temps) s = .next s) ∧
      (s.power.winAt + 200 ≤ s.clk.hnow → ∃ t, exec (.estimatorWindowEnd temps) s = .next t ∧ t.power.winAt = s.power.winAt + 200 ∧
        t.clk.cap = nextCap s.clk.cap ctl s.power.capNow ∧ t.power.events = [] ∧ t.mem = s.mem ∧
        (∀ g, g < 3 → t.duty g = max 4 (s.duty g - 1) ∨ t.duty g = min 16 (s.duty g + 1)) ∧
        (t.clk.thermal = s.clk.thermal ∨ t.clk.thermal = min 15 (s.clk.thermal + 1) ∨ t.clk.thermal = s.clk.thermal - 1))) ∧
    (∀ (level c : Nat) (p : Int × Nat), let cap := uwMw (1000 * c)
      (uwLt cap p = true → nextCap level p c ≤ 15 ∧ min 15 (level + 1) ≤ nextCap level p c) ∧
      (uwLt cap p = false → nextCap level p c = if uwLt (p.1 * 100, p.2) (cap.1 * 97, 1) then level - 1 else level)) ∧
    (∀ (r : RailId) (mw : BitVec 20), ∃ t, exec (.railTelemetrySample r mw) s = .next t ∧ t.clk = s.clk ∧ t.mem = s.mem ∧
      let w := max 1 (s.clk.hnow - Tbl.get s.power.lastSmp 0 r.val)
      Tbl.get t.power.lastSmp 0 r.val = s.clk.hnow ∧ Tbl.get t.power.lastMw 0 r.val = mw.toNat ∧ t.power.tlost.contains r.val = false ∧
      t.power.mean = Tbl.insert s.power.mean r.val ((Tbl.get s.power.mean (0, 0) r.val).1 + mw.toNat * w, (Tbl.get s.power.mean (0, 0) r.val).2 + w)) ∧
    (∀ r : RailId, let due := s.power.tlost.contains r.val = false ∧ Tbl.get s.power.lastSmp 0 r.val + 800 ≤ s.clk.hnow
      (¬due → exec (.telemetryLost r) s = .next s) ∧
      (due → ∃ t, exec (.telemetryLost r) s = .next t ∧ t.power.tlost = addOnce s.power.tlost r.val ∧ t.mem = s.mem)) ∧
    (s.power.div = true ∨ s.power.divRun < s.pv 0x4005 0 → exec .pwrDivergence s = .next s) ∧
    (s.power.div = false → s.pv 0x4005 0 ≤ s.power.divRun → ∃ t, exec .pwrDivergence s = .next t ∧ t.power = { s.power with div := true, divRun := 0, divOk := 0 }) ∧
    exec .pwrDivAck s = .next { s with power := { s.power with div := false, divRun := 0, divOk := 0 } } ∧
    (s.power.capSaid = true ∨ s.power.over15 < 16 → exec .capUnmet s = .next s) ∧
    (s.power.capSaid = false → 16 ≤ s.power.over15 → ∃ t, exec .capUnmet s = .next t ∧ t.power = { s.power with capSaid := true }) ∧
    (∀ v : BitVec 16, (v.toNat < 40 ∨ 320 < v.toNat → exec (.powerCapWrite v) s = .next s) ∧
      (40 ≤ v.toNat → v.toNat ≤ 320 → ∃ t, exec (.powerCapWrite v) s = .next t ∧ t.power = { s.power with capPend := some v.toNat } ∧ t.clk = s.clk)) ∧
    (∀ slack : Nat, let good := s.pv 0x4072 0 ≤ slack ∧ s.power.droops ≤ s.pv 0x4073 0 ∧ s.power.warns = 0 ∧ 15 < s.margin
      let elapsed := 3600 * secNs * s.pv 0x4071 0 ≤ s.power.liveNs
      (¬elapsed → exec (.temperPeriodEnd slack) s = .next s) ∧
      (elapsed → good → exec (.temperPeriodEnd slack) s = .next (s.temperRestart.temperStep (s.margin - 5) slack)) ∧
      (elapsed → ¬good → exec (.temperPeriodEnd slack) s = .next s.temperRestart)) ∧
    (∀ (m : Fin 16) (slack : Nat),
      let low := s.clk.rootOn = true ∧ s.stretch = 0 ∧ (s.power.marginAt = 0 ∨ s.power.marginAt + 100 * usNs ≤ s.clk.ts.toNat) ∧ 2 * slack < s.pv 0x4072 0
      (¬low → exec (.temperStepUp m slack) s = .next s) ∧
      (low → s.margin < 45 → exec (.temperStepUp m slack) s = .next (s.temperRestart.temperStep (s.margin + 5) slack)) ∧
      (low → 45 ≤ s.margin → exec (.temperStepUp m slack) s = .next s.temperRestart)) ∧
    (∀ m slack, (s.temperStep m slack).margin = m ∧ (s.temperStep m slack).power = { s.power with marginAt := s.clk.ts.toNat }) ∧
    s.temperRestart.power = { s.power with liveNs := 0, droops := 0, warns := 0 }

/-- R30, R357, R360 to R362, R374, R376 to R378: supply, droop and domains. What COLD rows hold is the model's: log entry 15. -/
def Obligations.SupplyDroopAndDomainsAct : Prop :=
  ∀ (s : State), s.mgmt.por = false → s.clk.rootOn = true →
    (∀ d : Fin 16, ∃ t, exec (.droopTrip d) s = .next t ∧ t.clk = { s.clk with droop := s.pv 0x4041 0, droopAt := s.clk.now + 64 } ∧
      t.power = { s.power with droops := s.power.droops + 1 }) ∧
    (s.clk.droop = 0 ∨ s.clk.now < s.clk.droopAt → exec .droopReleaseStep s = .next s) ∧
    (s.clk.droop ≠ 0 → s.clk.droopAt ≤ s.clk.now →
      exec .droopReleaseStep s = .next { s with clk := { s.clk with droop := s.clk.droop - 1, droopAt := s.clk.now + 16 } }) ∧
    (∀ (r : RailId) (mv : Nat), let low := s.pv 0x4050 r.val ≠ 0 ∧ 100 * mv < 94 * s.pv 0x4050 r.val
      (s.replaying = true ∨ ¬low → exec (.supplyWarning r mv) s = .next s) ∧
      (s.replaying = false → low → s.power.hold = true →
        exec (.supplyWarning r mv) s = .next { s with power := { s.power with holdMin := min s.power.holdMin mv } }) ∧
      (s.replaying = false → low → s.power.hold = false → ∃ t, exec (.supplyWarning r mv) s = .next t ∧ t.clk.supply = 8 ∧ t.mem = s.mem ∧
        t.power = { s.power with hold := true, holdAt := s.clk.ts.toNat, holdRail := r.val, holdMin := mv, holdLim := usNs * s.pv 0x4051 0, stallSaid := false })) ∧
    (∀ mv : Nat, let u := show State from { s with mgmt := { s.mgmt with railLow := false } }
      (u.replaying = true ∨ s.power.hold = false → exec (.supplyRecovery mv) s = .next u) ∧
      (u.replaying = false → s.power.hold = true → exec (.supplyRecovery mv) s = .next
        ({ u with power := { u.power with holdMin := min u.power.holdMin mv } } : State).holdEnd)) ∧
    (let u := (s.recInput 7 0 0 [] false).holdRelease;
      s.holdEnd = ({ u with power := { u.power with warns := u.power.warns + 1 } } : State).raise
        { code := 0x81, unit := uHearth, obj := s.power.holdRail, aux := s.power.holdMin, ga := s.clk.ts.toNat - s.power.holdAt }) ∧
    (let due := s.power.hold = true ∧ s.power.stallSaid = false ∧ s.power.holdAt + s.power.holdLim ≤ s.clk.ts.toNat;
      (¬due → exec .supplyStall s = .next s) ∧ (due → ∃ t, exec .supplyStall s = .next t ∧ t.power = { s.power with stallSaid := true } ∧ t.mem = s.mem)) ∧
    (∀ r : RailId, (r.val = 3 → exec (.supplyReset r) s = .next { s.powerOn with mgmt :=
        { s.powerOn.mgmt with por := false, life := lifeOf s.mgmt.seen, seen := s.mgmt.seen, auth := s.mgmt.auth } }) ∧
      (r.val ≠ 3 →
        let t := (s.warm s.clk.fclkOn).goImplied true
        exec (.supplyReset r) s = .next (({ t with mgmt := { t.mgmt with railLow := true } } : State).raise { code := 0x87, unit := uHearth, obj := r.val }))) ∧
    (∀ (h : HiveId) (d : Fin 14), let x := s.domain h.val d.val
      let dirty := d.val = 0 ∧ s.hives.ways.any (fun e => e.1 / 2048 = h.val) = true
      let go := exec (.domainDrainEnd h d) s
      let done := s.setDomain h.val d.val { st := x.target, target := x.target, phase := .idle }
      (x.phase ≠ .draining ∨ s.domBusy h.val d.val = true → go = .next s) ∧
      (x.phase = .draining → s.domBusy h.val d.val = false →
        (dirty → go = .next (s.flcWalk h.val 0 9 (fun _ => true) true).1) ∧
        (¬dirty → x.target ≠ .cold → go = .next (done.powerSettled h.val)) ∧
        (¬dirty → x.target = .cold → go = .next ((if d.val = 0 then done.coldLogic h.val else done.loseRows h.val d.val).powerSettled h.val)))) ∧
    (∀ (h : HiveId) (d : Fin 14), let x := s.domain h.val d.val
      let go := exec (.domainWakeEnd h d) s
      ((∀ n, x.phase ≠ .waking n) → go = .next s) ∧
      (∀ n, x.phase = .waking n → (s.clk.ts.toNat < n → go = .next s) ∧
        (n ≤ s.clk.ts.toNat →
          let t := s.setDomain h.val d.val { st := x.target, target := x.target, phase := .idle }
          let u := if x.st = .cold ∧ d.val ≠ 0 then t.clearValid h.val (fun k _ row => if d.val = 13 then k ≠ 0 else k = 0 && row / 64 = d.val - 1) else t
          let w := Tbl.get u.err.walkers {} h.val
          let l := if x.st = .cold then { u.coldLogic h.val with count := { u.count with cnt := u.count.cnt.filter (fun e => !(e.1 / 2^24 = 0x6800 && e.1 % 2^24 / 128 = h.val)) } } else u
          (1 ≤ d.val → d.val ≤ 12 → go = .next (({ u with err := { u.err with walkers := Tbl.set u.err.walkers {} h.val { w with first := addOnce w.first d.val } } } : State).admitWakes.powerSettled h.val)) ∧
          (d.val = 13 → go = .next (u.admitWakes.powerSettled h.val)) ∧
          (d.val = 0 → go = .next ((if l.clockOf h.val ≠ .off then (l.setClock h.val .live).active h.val else l).admitWakes.powerSettled h.val)) ∧
          (x.st = .cold → 1 ≤ d.val → d.val ≤ 12 → ∀ k row, (keyParts k).1 = 0 → (keyParts k).2.1 = h.val → s.logicalRow k = some row →
            row / 64 = d.val - 1 → (u.rowAt k).cells = 0))))

/-- R389 to R404: counters, snapshots, trace and triggers. -/
def Obligations.SnapshotsAndTraceRun : Prop :=
  ∀ (s : State), s.mgmt.por = false → s.clk.rootOn = true →
    (∀ i, (i = Instr.snap ∨ i = .snapEdge) →
      (s.count.frozen = true → exec i s = .next { s with count := { s.count with ignored := if s.count.ignored = 255 then 255 else s.count.ignored + 1 } }) ∧
      (s.count.frozen = false → s.count.pend ≠ none → exec i s = .next s) ∧
      (s.count.frozen = false → s.count.pend = none → exec i s = .next { s with count := { s.count with pend := some (s.clk.now + 16) } })) ∧
    exec .thaw s = .next { s with count := { s.count with frozen := false } } ∧
    (s.count.pend = none → exec .snapshotTake s = .next s) ∧
    (∀ c, s.count.pend = some c → (s.clk.now < c → exec .snapshotTake s = .next s) ∧ (c ≤ s.clk.now → exec .snapshotTake s = .next { s with
      count := { s.count with frozen := true, snap := s.count.cnt, pend := none, time := BitVec.ofNat 48 s.clk.ts.toNat } })) ∧
    (∀ p i, s.countRead p i = Tbl.get (if s.count.frozen then s.count.snap else s.count.cnt) 0 (pkey p i)) ∧
    (∀ (u : UnitId) (x : Nat), let e := (s.openWaits u.val).find? (fun w => w.id = x)
      let go := exec (.traceLongExpire u x) s
      (e = none → go = .next s) ∧
      (∀ w, e = some w → (s.trace.longSaid.contains w.key = true ∨ s.clk.now < w.since + s.pv 0x6007 0 → go = .next s) ∧
        (s.trace.longSaid.contains w.key = false → w.since + s.pv 0x6007 0 ≤ s.clk.now →
          let keep := s.trace.longSaid.filter (fun k => k / 2^104 % 512 ≠ u.val || (s.openWaits u.val).any (fun v => v.key = k))
          go = .next (({ s with trace := { s.trace with longSaid := keep ++ [w.key] } } : State).traceGen w.trec)))) ∧
    (∀ (h : HiveId) (c : CtxId) (v : Dword), s.cmdFree h c → exec (.traceMark h c v) s = .next (s.traceGen
      { kind := 0x0C, unit := h.val, ctx := c.val, port := 7, layer := fld v.toNat 63 48, oper := fld v.toNat 47 32, aux := fld v.toNat 31 0 })) ∧
    (∀ v : Byte, (2 < v.toNat → exec (.traceModeWrite v) s = .next s) ∧
      (v.toNat ≤ 2 → ∃ t, exec (.traceModeWrite v) s = .next t ∧ t.pv 0x6000 0 = v.toNat ∧ t.trace.mode = v.toNat ∧ t.trace.frozen = false ∧
        (s.trace.mode = 0 → v.toNat ≠ 0 → t.trace.buffer = [] ∧ t.trace.apps = [])) ∧
      (v.toNat = 0 → s.trace.mode ≠ 0 →
        let w := (List.range 8).foldl (fun s k => State.appWrite 256 s k true) s
        exec (.traceModeWrite v) s = .next (((List.range 8).foldl (fun (s : State) k => s.headerPut k true)
          { w with trace := { w.trace with mode := 0, dropSaid := false, frozen := false } }).setPv 0x6000 0 0))) ∧
    (∀ k : StackId, let v := s.obsRetry k.val
      let done := fun (u : State) => show State from (State.appWrite 256 u k.val (u.trace.mode = 0)).headerPut k.val ((State.appWrite 256 u k.val (u.trace.mode = 0)).trace.mode = 0)
      (v.trace.staging.find? (fun e => appenderOf e.1 = k.val) = none ∨ v.trace.mode = 0 → exec (.traceAppend k) s = .next (done v)) ∧
      (∀ e, v.trace.staging.find? (fun e => appenderOf e.1 = k.val) = some e → v.trace.mode ≠ 0 → exec (.traceAppend k) s = .next
        (done (((v.obsPacket e.1).2.cadd 0x6700 (8 * e.1 + 7) (32 * (v.obsPacket e.1).1.length)).obsSend k.val (v.obsPacket e.1).1 (obsRoute e.1 k.val))))) ∧
    (∀ k : StackId, let due := (s.app k.val).staged.length = 1 ∧ (s.app k.val).since + 256 ≤ s.clk.now
      (¬due → exec (.appenderPadTimeout k) s = .next s) ∧
      (due → exec (.appenderPadTimeout k) s = .next ((State.appWrite 1 s k.val true).headerPut k.val false))) ∧
    (∀ i : Fin 4, let e := s.trace.fires.find? (fun f => f.1 = i.val)
      let act := fld (s.trigger i.val) 62 61
      let go := exec (.triggerAction i) s
      (e = none → go = .next s) ∧
      (∀ f, e = some f → let v := show State from { s with trace := { s.trace with fires := s.trace.fires.filter (fun g => g ≠ f) } }
        let due := f.2.1 + (if act = 0 then 8 else 24)
        let say := fun (u : State) => u.raise { code := 0x92, unit := uHearth, obj := i.val, aux := f.2.2 / 2^224, ga := f.2.2 % 2^48 }
        (s.clk.now < due → go = .next s) ∧
        (due ≤ s.clk.now → (act = 0 → go = .next (v.quenchAsk 3 i.val (f.2.1 + 8))) ∧
          (act = 1 → go = .next (say ((List.range 8).foldl (fun s k => s.headerPut k true) { v with trace := { v.trace with frozen := true } }))) ∧
          (act = 2 → go = .next (say (if v.count.frozen then v.snapAsk 0 else v.snapTake))) ∧ (act = 3 → go = .next (say v)))))

/-- R387, R405 to R419: the graph, the timestamps and the Quench. -/
def Obligations.ClocksGraphAndQuenchAct : Prop :=
  ∀ (s : State),
    (s.mgmt.por = false → s.trace.wfgBusy ≠ 1 → exec .wfgBuild s = .next { s with trace := { s.trace with wfgBusy := 1, wfgAt := s.clk.ts.toNat } }) ∧
    (s.mgmt.por = true ∨ s.trace.wfgBusy = 1 → exec .wfgBuild s = .next s) ∧
    (s.trace.wfgBusy ≠ 1 → exec .wfgBuildDone s = .next s) ∧
    (s.trace.wfgBusy = 1 → exec .wfgBuildDone s = .next { s with trace := { s.trace with wfg := s.wfgBlob, wfgBusy := 2 } }) ∧
    (∀ (k : FxpId) (chip : ChipId), let v := s.probeRoll
      let may := s.clk.rootOn = true ∧ s.mgmt.phase = 7 ∧ s.mirror.st ≠ .fenced ∧ v.fxps.probe.contains (k.val, chip.val) = true
      (¬may → exec (.tsprobeSend k chip) s = .next s) ∧
      (may → ∃ (u : State) (f : Frame), exec (.tsprobeSend k chip) s = .next ((u.sendFrame 0x28 f).traceGen { kind := 0x0D, unit := uFx k.val, obj := chip.val }) ∧
        f.mask = u.clk.ts ∧ f.qos = fin8 7 ∧ u.fxps.probe = v.fxps.probe.filter (fun e => e ≠ (k.val, chip.val)))) ∧
    (∀ (k : FxpId) (f : Frame), (s.frameOpen f = false → exec (.tsprobeRecv k f) s = .next s) ∧
      (s.frameOpen f = true → exec (.tsprobeRecv k f) s = .next ((s.frameSeen k.val 0x28 f).traceGen
        { kind := 0x0E, unit := uFx k.val, src := { chip := f.srcChip.val, unit := f.srcHive.val }, aux := f.mask.toNat }))) ∧
    (let may := s.mgmt.por = false ∧ s.clk.fclkOn = true ∧ s.replaying = false ∧ s.pv 0x6061 0 = 1 ∧ s.pv 0x6063 0 ≠ 0;
      (¬may → exec .tsyncEdge s = .next s) ∧
      (may → ∃ t, exec .tsyncEdge s = .next t ∧ t.clk = { s.clk with tsLoad := some (144, s.pv 0x6063 0) } ∧ t.pv 0x6063 0 = 0 ∧ t.mem = s.mem)) ∧
    (∀ (source trig r : Nat),
      (s.quench.st ≠ 0 ∨ s.clk.rootOn = false → s.quenchAsk source trig r =
        { s with quench := { s.quench with ignored := if s.quench.ignored = BitVec.allOnes 32 then s.quench.ignored else s.quench.ignored + 1 } }) ∧
      (s.quench.st = 0 → s.clk.rootOn = true → s.quenchAsk source trig r =
        { s with quench := { s.quench with st := 1, source := source, trig := trig, at_ := r + 16, out := true } })) ∧
    exec .quenchRequest s = .next (s.quenchAsk 1 0 s.clk.now) ∧
    (∀ v : Byte, (v = 1 → s.clk.rootOn = true → exec (.quenchCtlWrite v) s = .next (s.quenchAsk 2 0 s.clk.now)) ∧
      (v ≠ 1 ∨ s.clk.rootOn = false → exec (.quenchCtlWrite v) s = .next s)) ∧
    (let due := s.quench.st = 1 ∧ s.clk.rootOn = true ∧ s.quench.at_ ≤ s.clk.now;
      (¬due → exec .quenchTake s = .next s) ∧
      (due → ∃ t, exec .quenchTake s = .next t ∧ t.clk = { s.clk with rootOn := false } ∧ t.count.pend = none ∧
        t.quench = { s.quench with st := 2, ts := s.clk.ts, count := BitVec.ofNat 16 s.count16, elem2 := dwordOf [(47, 0, s.sched.epoch.toNat), (63, 48, s.period)],
                                   elem3 := dwordOf [(7, 0, s.position.getD 0), (8, 8, b2n s.sched.running)] } ∧
        t.mgmt.reqs = [] ∧ t.trace.wfgBusy = 1 ∧ t.mem = s.mem ∧ (∀ e ∈ t.tiers.banks, e.2.row = none))) ∧
    (∀ k : StackId, let may := s.quench.st = 2 ∧ s.clk.fclkOn = true ∧ s.tiers.ready.contains k.val = true
      (¬may → exec (.quenchRefresh k) s = .next s) ∧
      (may → ∃ t, exec (.quenchRefresh k) s = .next t ∧ t.clk = s.clk ∧ t.mem = s.mem ∧ Tbl.get t.quench.refAt 0 k.val = s.clk.ts.toNat ∧
        (∀ e ∈ t.tiers.banks, e.1 / 1024 = k.val → e.2.row = none ∧ e.2.owed = 0))) ∧
    (∀ (i : Nat) (v : Dword), let may := s.mgmt.por = false ∧ i % 2 = 1 ∧ i < 8768 ∧ v = 0
      (¬may → exec (.queueOccClear i v) s = .next s) ∧ (may → exec (.queueOccClear i v) s = .next (s.setCounter 0x6600 i 0)))

/-- R379, R436 to R438, R447 to R450, R452: resets, the life cycle and the interrupt lines. -/
def Obligations.ResetsAndLifecycle : Prop :=
  ∀ (s : State),
    (∃ t, exec .porAssert s = .next t ∧ t.clk = State.reset.clk ∧ t.hives = State.reset.hives ∧ t.mgmt = State.reset.mgmt ∧ t.sched = State.reset.sched ∧
      t.err = State.reset.err ∧ t.mirror = State.reset.mirror ∧ t.journal = State.reset.journal ∧ t.power = State.reset.power ∧ t.count = State.reset.count ∧
      t.flight = [] ∧ t.mem = { State.reset.mem with t2 := s.mem.t2 } ∧
      t.tiers.carts.map (fun e => (e.1, e.2.present, e.2.store)) = s.tiers.carts.map (fun e => (e.1, e.2.present, e.2.store))) ∧
    (∀ (l : BitVec 2) (auth : Bool), (s.mgmt.por = false → exec (.porRelease l auth) s = .next s) ∧
      (s.mgmt.por = true → exec (.porRelease l auth) s = .next { s with mgmt := { s.mgmt with por := false, life := lifeOf l.toNat, seen := l.toNat, auth := auth } })) ∧
    (lifeOf 0 = 2 ∧ ∀ n, n ≠ 0 → lifeOf n = n) ∧
    (∀ ran : Bool, (s.mgmt.por = true ∨ s.mgmt.wrst = true → exec (.warmReset ran) s = .next s) ∧
      (s.mgmt.por = false → s.mgmt.wrst = false → ∃ t, exec (.warmReset ran) s = .next t ∧ t.clk.rootOn = false ∧ t.clk.ts = s.clk.ts ∧
        t.clk.fclkOn = (s.clk.fclkOn && ran) ∧ t.hives = State.reset.hives ∧ t.flight = [] ∧ t.chans = State.reset.chans ∧ t.wins = State.reset.wins ∧
        t.mem = { State.reset.mem with t1 := if s.mgmt.kept && ran then s.mem.t1 else [], t2 := s.mem.t2 } ∧ t.power = s.power ∧ t.mgmt.wrst = true ∧
        t.mgmt.kept = (s.mgmt.kept && ran) ∧ t.mgmt.phase = (if s.mgmt.fw then 2 else s.mgmt.phase) ∧ t.err.repair = s.err.repair ∧ t.err.stripes = s.err.stripes ∧
        t.mirror.region = s.mirror.region.map (fun e => (e.1, withMrState e.2 0)) ∧ t.mirror.st = State.reset.mirror.st)) ∧
    (s.mgmt.por = true ∨ s.mgmt.wrst = false → exec .warmResetRelease s = .next s) ∧
    (s.mgmt.por = false → s.mgmt.wrst = true → exec .warmResetRelease s = .next
      { s with mgmt := { s.mgmt with wrst := false, goWait := s.mgmt.goWait || (s.mgmt.auto && s.mgmt.phase = 2) } }) ∧
    (∀ v : BitVec 2, let old := s.mgmt.life
      let new := lifeOf v.toNat
      let taken := (old = 1 ∧ new = 2) ∨ (old ≠ 3 ∧ new = 3)
      let u := show State from { s with mgmt := { s.mgmt with seen := v.toNat } }
      let go := exec (.lifecycleChange v) s
      let tell := fun (t : State) (n : Nat) => (t.testRecheck.raise { code := 0x19, unit := uHearth, obj := old, late := new, count := n }).lifeNotice
      (s.mgmt.por = true ∨ v.toNat = s.mgmt.seen → go = .next s) ∧
      (s.mgmt.por = false → v.toNat ≠ s.mgmt.seen → (¬taken → go = .next (tell u 0)) ∧ (taken → new ≠ 3 → go = .next (tell (u.lifeTake new) 1)) ∧
        (taken → new = 3 → go = .next (tell ((u.warm false).lifeTake 3) 1)))) ∧
    (∀ n, (s.lifeTake n).mgmt.life = n ∧ (s.lifeTake n).clk = s.clk ∧
      (s.lifeTake n).mgmt.changes = if s.mgmt.changes = BitVec.allOnes 16 then s.mgmt.changes else s.mgmt.changes + 1) ∧
    (s.mgmt.life = 1 ∨ s.mgmt.auth = true → s.testRecheck = s) ∧ (s.mgmt.life ≠ 1 → s.mgmt.auth = false → s.testRecheck.pv 0xF000 0 = 0) ∧
    (∀ v : Bool, (s.mgmt.por = true ∨ v = s.mgmt.auth → exec (.dbgAuthChange v) s = .next s) ∧
      (s.mgmt.por = false → v ≠ s.mgmt.auth → exec (.dbgAuthChange v) s =
        .next ({ s with mgmt := { s.mgmt with auth := v } } : State).testRecheck.lifeNotice)) ∧
    (∀ v : Byte, (s.mgmt.por = true → exec (.irqClear v) s = .next s) ∧ (s.mgmt.por = false → ∃ t, exec (.irqClear v) s = .next t ∧
      t.mgmt.irqPend = s.mgmt.irqPend &&& ~~~(v &&& 0xC6#8) ∧ t.mem = s.mem ∧ t.clk = s.clk))

/-- R447, R451 to R454, R247, R254: start-up. -/
def Obligations.StartUpRunsItsPhases : Prop :=
  ∀ (s : State), s.mgmt.por = false →
    let m := s.mgmt
    (∀ ok : Bool, (m.phase ≠ 0 → exec (.romCheckDone ok) s = .next s) ∧ (m.phase = 0 → ok = false → exec (.romCheckDone ok) s = .next (s.startFailed 0 1)) ∧
      (m.phase = 0 → ok = true → exec (.romCheckDone ok) s = .next ({ s with mgmt := { m with phase := 1 } } : State).fwStart)) ∧
    ((m.phase ≠ 1 ∨ m.imgSt ≠ 2 → s.fwStart = s) ∧ (m.phase = 1 → m.imgSt = 2 →
      s.fwStart = { s with mgmt := { m with version := BitVec.ofNat 64 (bytesAt m.image 0 8), fw := true, phase := 2 } })) ∧
    (∀ size : BitVec 20, (size.toNat < 64 → exec (.imageBegin size) s = .next s) ∧
      (64 ≤ size.toNat → exec (.imageBegin size) s = .next { s with mgmt := { m with imgSt := 1, imgSize := size.toNat, image := [] } })) ∧
    (∀ v : Dword, (m.imgSt ≠ 1 → exec (.imageData v) s = .next s) ∧
      (m.imgSt = 1 → exec (.imageData v) s = .next { s with mgmt := { m with image := (m.image ++ natBytes 8 v.toNat).take m.imgSize } })) ∧
    (∀ ok : Bool, let good := ok = true ∧ m.image.length = m.imgSize ∧ bytesAt m.image 8 4 = m.imgSize ∧ bytesAt m.image 12 4 = (crc32 (m.image.drop 16)).toNat
      let bad := show State from { s with mgmt := { m with imgSt := 3 } }
      (m.imgSt ≠ 1 → exec (.imageEnd ok) s = .next s) ∧
      (m.imgSt = 1 → good → exec (.imageEnd ok) s = .next ({ s with mgmt := { m with imgSt := 2 } } : State).fwStart) ∧
      (m.imgSt = 1 → ¬good → exec (.imageEnd ok) s = .next (if m.phase ≤ 1 then bad.startFail m.phase 2 else bad))) ∧
    (∀ fclk : Bool, let may := m.phase = 2 ∧ m.wrst = false ∧ m.railLow = false
      (¬may → exec (.startGo fclk) s = .next s) ∧
      (may → fclk = false → exec (.startGo fclk) s = .next
        (({ s with mgmt := { m with goWait := false }, clk := { s.clk with fclkOn := false } } : State).startFailed 3 3)) ∧
      (may → fclk = true →
        let cap := ({ s with mgmt := { m with goWait := false } } : State).pv 0x4000 0
        exec (.startGo fclk) s = .next ({ s with
          clk := { s.clk with rootOn := true, fclkOn := true, count0 := s.clk.now }
          sched := { s.sched with wheel0 := s.clk.now }
          tiers := { s.tiers with trainReq := true, hpRst := true }
          power := { s.power with scale := [], need := [], cap0 := cap, capNow := cap, capPend := none }
          mgmt := { m with goWait := false, phase := 3, phaseAt := s.clk.ts.toNat } } : State).recStart.wakeAll)) ∧
    (m.phase ≠ 7 → m.phase ≠ 8 → exec .startReload s = .next s) ∧
    (m.phase = 7 ∨ m.phase = 8 →
      let t := s.warm s.clk.fclkOn
      exec .startReload s = .next (({ t with mgmt := { t.mgmt with phase := 1, fw := false } } : State).fwStart.goImplied m.auto) ∧
        t.clk.rootOn = false ∧ t.hives = State.reset.hives) ∧
    (let go := exec .startPhaseEnd s;
      (m.phase = 2 → go = .next (if m.goWait then s.go true else s)) ∧
      (m.phase ≠ 2 → s.clk.rootOn = false ∨ m.phase < 3 ∨ 6 < m.phase → go = .next s) ∧
      (s.clk.rootOn = true → m.phase = 3 → go = .next (if s.powered then { s with mgmt := { m with phase := 4 } } else s)) ∧
      (s.clk.rootOn = true → m.phase = 4 → (s.tiers.ready.length + s.tiers.failedSt.length < 8 → go = .next s) ∧
        (8 ≤ s.tiers.ready.length + s.tiers.failedSt.length → (s.tiers.ready = [] → go = .next (s.startFailed 4 4)) ∧
          (s.tiers.ready ≠ [] → s.power.hold = true → m.kept = false → go = .next s) ∧
          (s.tiers.ready ≠ [] → s.power.hold = false ∨ m.kept = true → ∃ t, go = .next t ∧ t.mgmt.phase = 5 ∧ t.tiers.trainReq = false ∧ t.mem = s.t1Initialise.mem))) ∧
      (s.clk.rootOn = true → m.phase = 5 → (s.placeAll = none → go = .next (s.startFailed 5 5)) ∧
        (∀ t, s.placeAll = some t →
          let v := t.abandonOld
          go = .next ({ v with mgmt := { v.mgmt with phase := 6, phaseAt := v.clk.ts.toNat } } : State).attachAll)) ∧
      (s.clk.rootOn = true → m.phase = 6 → let waits := ∃ k, k < 4 ∧ (s.cart k).st = .attaching
        (waits → go = .next s) ∧ (¬waits → go = .next s.releaseHives))) ∧
    (s.releaseHives.mgmt.phase = 7 ∧ s.releaseHives.mem = s.mem ∧ s.releaseHives.hives.clock = (List.range 256).map (fun h => (h, HClock.live))) ∧
    (∀ (k : StackId) (r : TrainResult), (s.training k.val = false → exec (.t1TrainDone k r) s = .next s) ∧
      (s.training k.val = true → r.geometry = false → exec (.t1TrainDone k r) s = .next (s.stackFail k.val 2).trainEnd) ∧
      (s.training k.val = true → r.geometry = true → r.onDieEcc = false → exec (.t1TrainDone k r) s = .next (s.stackFail k.val 3).trainEnd) ∧
      (s.training k.val = true → r.geometry = true → r.onDieEcc = true →
        let v := ((r.timing.take 10).zipIdx).foldl (fun (s : State) e => s.setPv 0x1105 e.2 (e.1 % 2^16)) s
        let w := v.setPv 0x2400 0 (max (v.pv 0x2400 0) (min 1024 (r.refSlots + r.refSlots % 2)))
        let u := show State from { w with tiers := { w.tiers with ready := addOnce w.tiers.ready k.val } }
        exec (.t1TrainDone k r) s = .next ((List.range 32).foldl (fun s c => if r.failMask.getLsbD c then s.failChannel k.val c else s) u).trainEnd)) ∧
    (∀ k : StackId, let due := s.training k.val = true ∧ m.phaseAt + msNs * s.pv 0x1024 0 ≤ s.clk.ts.toNat
      (¬due → exec (.t1TrainTimeout k) s = .next s) ∧ (due → exec (.t1TrainTimeout k) s = .next (s.stackFail k.val 1).trainEnd))

/-- R279, R280: what the inner code makes of one wrong bit and of two; bit k of 72 is data bit k, or from 64 on check bit k - 64. -/
def Obligations.GranuleCodeCorrectsAndDetects : Prop :=
  ∀ d : Dword,
    let data := fun (k : Nat) => if k < 64 then BitVec.ofNat 64 (2^k) else 0
    let check := fun (k : Nat) => if k < 64 then (0 : Byte) else BitVec.ofNat 8 (2^(k - 64))
    decodeGran d (checkByte d) = .clean ∧
    (∀ i, i < 64 → decodeGran (d ^^^ data i) (checkByte d) = .corr d (BitVec.ofNat 8 (eccCols.getD i 0))) ∧
    (∀ j, j < 8 → decodeGran d (checkByte d ^^^ check (64 + j)) = .corr d (BitVec.ofNat 8 (2^j))) ∧
    (∀ a b, a < b → b < 72 → ∃ s, decodeGran (d ^^^ data a ^^^ data b) (checkByte d ^^^ check a ^^^ check b) = .bad s)

/-- R44: where the pool's stripes lie. -/
def Obligations.PoolHashPlacesOnePerHive : Prop :=
  ∀ (s : State) (C q : Nat), s.tiered = true → s.pv 0x1001 0 = C → C ≤ 512 → q < C →
    let lies := fun (r : Nat) (h : HiveId) => ∀ b, b < 4096 → s.locate (0x40000000 + (256 * q + r) * 4096 + b) = .row h.val (b / 64) (768 - C + q)
    (∀ r, r < 256 → ∃ h, lies r h ∧ ∀ g, lies r g → g = h) ∧
    (∀ h : HiveId, ∃ r, r < 256 ∧ lies r h ∧ ∀ p, p < 256 → lies p h → p = r)

/-- R29: accesses of an invalid row. -/
def Obligations.InvalidRowsReadZeroAndFill : Prop :=
  ∀ (r : Row) (pz : Bool) (kind : AccKind) (code off : Nat) (m : Dword) (d : Line), r.valid = false →
    let o := bankAccess r pz kind code m d off
    (o.bad = false ∧ o.gmask = 0 ∧ o.data = 0) ∧
    (isWr kind = false → o.row = r ∧ o.wrote = false ∧ o.cyc = 1) ∧
    (isWr kind = true → o.wrote = true ∧ o.row.valid = true) ∧
    (kind = .write → o.cyc = 1 ∧ (∀ n, n < 512 → o.row.data.getLsbD n = (m.getLsbD (n / 8) && d.getLsbD n)) ∧ (m = fullMask → o.row.data = d))
end

