-- ==== Sys2Proof/Laws/Flight.lean ====
section
/-!
SUPPORT. Flight.lean: what the transactions in flight are after one is added, replaced or taken out.
-/
set_option Elab.async false
namespace Sys2Proof.Machine

theorem State.xact_id {s : State} {n : Nat} {x : Xact} (h : s.xact n = some x) : x.id = n := by
  have := List.find?_some h
  simpa using this

/-- A replaced transaction is found under its number. -/
theorem State.xact_setX_same {s : State} {x y : Xact} {n : Nat} (h : s.xact n = some y) (hx : x.id = n) : (s.setX x).xact n = some x := by
  unfold State.xact State.setX at *
  dsimp only
  generalize s.flight = l at h
  induction l with
  | nil => simp at h
  | cons z l ih =>
    simp only [List.map_cons, List.find?_cons]
    by_cases hz : z.id = n
    · simp [hz, hx]
    · have hne : ¬ z.id = x.id := fun e => hz (e.trans hx)
      simp only [hne, if_false, hz, decide_false]
      simp only [List.find?_cons, hz, decide_false] at h
      exact ih h

/-- Replacing one transaction leaves every other as it was. -/
theorem State.xact_setX_other {s : State} {x : Xact} {n : Nat} (hx : x.id ≠ n) : (s.setX x).xact n = s.xact n := by
  unfold State.xact State.setX
  dsimp only
  generalize s.flight = l
  induction l with
  | nil => rfl
  | cons z l ih =>
    simp only [List.map_cons, List.find?_cons]
    by_cases hz : z.id = x.id
    · have hn : ¬ z.id = n := fun e => hx (hz.symm.trans e)
      simp only [hz, if_true, hx, decide_false]
      exact ih
    · simp only [hz, if_false]
      split
      · rfl
      · exact ih

/-- A transaction taken out is in flight no more. -/
theorem State.xact_dropX_same (s : State) (n : Nat) : (s.dropX n).xact n = none := by
  unfold State.xact State.dropX
  simp [List.find?_eq_none]

theorem State.xact_dropX_other (s : State) {n m : Nat} (h : n ≠ m) : (s.dropX n).xact m = s.xact m := by
  unfold State.xact State.dropX
  dsimp only
  generalize s.flight = l
  induction l with
  | nil => rfl
  | cons z l ih =>
    simp only [List.filter_cons, List.find?_cons]
    by_cases hz : z.id = n
    · have hm : ¬ z.id = m := fun e => h (hz.symm.trans e)
      have hd : decide (z.id ≠ n) = false := by simp [hz]
      simp only [hd, hm, decide_false, Bool.false_eq_true, if_false]
      exact ih
    · simp only [ne_eq, hz, not_false_eq_true, decide_true, if_true, List.find?_cons]
      split
      · rfl
      · exact ih

/-- A transaction added is found under the number it takes. -/
theorem State.xact_addX_same {s : State} (x : Xact) (h : ∀ y ∈ s.flight, y.id < s.nextId) :
    (s.addX x).xact s.nextId = some { x with id := s.nextId, seq := s.nextId } := by
  unfold State.xact State.addX
  dsimp only
  rw [List.find?_append, List.find?_eq_none.mpr]
  · simp
  · intro y hy
    have := h y hy
    simp; omega

theorem State.xact_addX_other {s : State} (x : Xact) {n : Nat} (h : n ≠ s.nextId) : (s.addX x).xact n = s.xact n := by
  unfold State.xact State.addX
  dsimp only
  rw [List.find?_append]
  have : s.nextId ≠ n := fun e => h e.symm
  simp [this]

/-- Each transaction of a list is replaced by what a function of it says, and no other changes. -/
theorem State.xact_foldl_setX {g : State → Xact → State} {f : Nat → Xact → Xact} (hg : ∀ s x, g s x = s.setX (f s.clk.now x)) (hf : ∀ n x, (f n x).id = x.id) :
    ∀ (l : List Xact) (s : State), l.Pairwise (fun a b => a.id ≠ b.id) → (∀ y ∈ l, ∃ z, s.xact y.id = some z) →
      (∀ y ∈ l, (l.foldl g s).xact y.id = some (f s.clk.now y)) ∧ (∀ n, (∀ y ∈ l, y.id ≠ n) → (l.foldl g s).xact n = s.xact n) ∧
      (l.foldl g s).clk = s.clk ∧ (l.foldl g s).hives = s.hives := by
  intro l
  induction l with
  | nil => intro s _ _; exact ⟨by simp, fun _ _ => rfl, rfl, rfl⟩
  | cons a l ih =>
    intro s hp hx
    rw [List.pairwise_cons] at hp
    have ha : (f s.clk.now a).id = a.id := hf _ _
    have hne : ∀ y ∈ l, a.id ≠ y.id := hp.1
    obtain ⟨h1, h2, h3, h4⟩ := ih (g s a) hp.2 (fun y hy => by
      obtain ⟨z, hz⟩ := hx y (List.mem_cons_of_mem _ hy)
      refine ⟨z, ?_⟩
      rw [hg, State.xact_setX_other (by rw [ha]; exact hne y hy)]
      exact hz)
    have hc : (g s a).clk = s.clk := by rw [hg]; rfl
    rw [List.foldl_cons]
    refine ⟨fun y hy => ?_, fun n hn => ?_, h3.trans hc, h4.trans (by rw [hg]; rfl)⟩
    · rcases List.mem_cons.mp hy with rfl | hy
      · rw [h2 y.id (fun z hz e => hne z hz e.symm), hg]
        obtain ⟨z, hz⟩ := hx y List.mem_cons_self
        exact State.xact_setX_same hz ha
      · rw [h1 y hy, hc]
    · rw [h2 n (fun y hy => hn y (List.mem_cons_of_mem _ hy)), hg]
      exact State.xact_setX_other (by rw [ha]; exact hn a List.mem_cons_self)

end Sys2Proof.Machine
end

