-- ==== Sys2Proof/Laws/Keeps.lean ====
section
/-!
SUPPORT. Keeps.lean: how `Keeps` is shown: it is reflexive and transitive, a change of a part that the invariant does not read keeps it,
and the tables of memory stay canonical under the operations on them.
-/
set_option Elab.async false
namespace Sys2Proof.Machine

theorem Tbl.rising_iff {α : Type} (t : Tbl α) : Tbl.rising t = true ↔ t.Pairwise (fun a b => a.1 < b.1) := by
  simp [Tbl.rising]

theorem Tbl.mem_insert {α : Type} (t : Tbl α) (k : Nat) (v : α) (e : Nat × α) (h : e ∈ Tbl.insert t k v) : e = (k, v) ∨ e ∈ t := by
  induction t with
  | nil => simpa [Tbl.insert] using h
  | cons a t ih =>
    unfold Tbl.insert at h
    split at h
    · simpa using h
    · split at h
      · rcases List.mem_cons.mp h with h | h
        · exact .inl h
        · exact .inr (List.mem_cons_of_mem _ h)
      · rcases List.mem_cons.mp h with h | h
        · exact .inr (by simp [h])
        · rcases ih h with h | h
          · exact .inl h
          · exact .inr (List.mem_cons_of_mem _ h)

theorem Tbl.rising_insert {α : Type} (t : Tbl α) (k : Nat) (v : α) (h : Tbl.rising t = true) : Tbl.rising (Tbl.insert t k v) = true := by
  rw [Tbl.rising_iff] at h ⊢
  induction t with
  | nil => simp [Tbl.insert]
  | cons a t ih =>
    obtain ⟨j, w⟩ := a
    rw [List.pairwise_cons] at h
    unfold Tbl.insert
    split
    · rename_i hk
      refine List.pairwise_cons.mpr ⟨fun e he => ?_, List.pairwise_cons.mpr h⟩
      rcases List.mem_cons.mp he with he | he
      · simpa [he] using hk
      · exact Nat.lt_trans hk (h.1 e he)
    · split
      · rename_i hk
        exact List.pairwise_cons.mpr ⟨fun e he => by rw [hk]; exact h.1 e he, h.2⟩
      · refine List.pairwise_cons.mpr ⟨fun e he => ?_, ih h.2⟩
        rcases Tbl.mem_insert t k v e he with he | he
        · simp only [he]; omega
        · exact h.1 e he

theorem Tbl.rising_filter {α : Type} (t : Tbl α) (p : Nat × α → Bool) (h : Tbl.rising t = true) : Tbl.rising (List.filter p t) = true := by
  rw [Tbl.rising_iff] at h ⊢
  exact h.filter p

theorem Tbl.rising_erase {α : Type} (t : Tbl α) (k : Nat) (h : Tbl.rising t = true) : Tbl.rising (Tbl.erase t k) = true :=
  Tbl.rising_filter t _ h

theorem Tbl.rising_set {α : Type} [DecidableEq α] (t : Tbl α) (d : α) (k : Nat) (v : α) (h : Tbl.rising t = true) :
    Tbl.rising (Tbl.set t d k v) = true := by
  unfold Tbl.set
  split
  · exact Tbl.rising_erase t k h
  · exact Tbl.rising_insert t k v h

theorem Tbl.wf_iff {α : Type} [DecidableEq α] (t : Tbl α) (d : α) : Tbl.wf t d = true ↔ Tbl.rising t = true ∧ ∀ e ∈ t, e.2 ≠ d := by
  simp [Tbl.wf]

theorem Tbl.wf_filter {α : Type} [DecidableEq α] (t : Tbl α) (d : α) (p : Nat × α → Bool) (h : Tbl.wf t d = true) :
    Tbl.wf (List.filter p t) d = true := by
  rw [Tbl.wf_iff] at h ⊢
  exact ⟨Tbl.rising_filter t p h.1, fun e he => h.2 e (List.mem_filter.mp he).1⟩

theorem Tbl.wf_erase {α : Type} [DecidableEq α] (t : Tbl α) (d : α) (k : Nat) (h : Tbl.wf t d = true) : Tbl.wf (Tbl.erase t k) d = true :=
  Tbl.wf_filter t d _ h

theorem Tbl.wf_set {α : Type} [DecidableEq α] (t : Tbl α) (d : α) (k : Nat) (v : α) (h : Tbl.wf t d = true) :
    Tbl.wf (Tbl.set t d k v) d = true := by
  unfold Tbl.set
  split
  · exact Tbl.wf_erase t d k h
  · rename_i hv
    rw [Tbl.wf_iff] at h ⊢
    refine ⟨Tbl.rising_insert t k v h.1, fun e he => ?_⟩
    rcases Tbl.mem_insert t k v e he with he | he
    · simpa [he] using hv
    · exact h.2 e he

/-- Entries taken out one after another where a test fails. -/
theorem Tbl.wf_eraseEach {α : Type} [DecidableEq α] (t : Tbl α) (d : α) (l : List Nat) (p : Nat → Prop) [DecidablePred p] (k : Nat → Nat)
    (h : Tbl.wf t d = true) : Tbl.wf (l.foldl (fun t j => if p j then t else Tbl.erase t (k j)) t) d = true := by
  induction l generalizing t with
  | nil => exact h
  | cons j l ih =>
    refine ih _ ?_
    dsimp only
    split
    · exact h
    · exact Tbl.wf_erase t d _ h

theorem Mem.wf_setRow {m : Mem} {k : Nat} {v : Row} (h : m.wf) : Mem.wf { rows := Tbl.set m.rows {} k v, sync := m.sync, t1 := m.t1, t2 := m.t2 } :=
  ⟨Tbl.wf_set _ _ _ _ h.1, h.2⟩

theorem Mem.wf_setSync {m : Mem} {k : Nat} {v : Word8} (h : m.wf) : Mem.wf { rows := m.rows, sync := Tbl.set m.sync {} k v, t1 := m.t1, t2 := m.t2 } :=
  ⟨h.1, Tbl.wf_set _ _ _ _ h.2.1, h.2.2⟩

theorem Mem.wf_eraseSync {m : Mem} {k : Nat} (h : m.wf) : Mem.wf { rows := m.rows, sync := Tbl.erase m.sync k, t1 := m.t1, t2 := m.t2 } :=
  ⟨h.1, Tbl.wf_erase _ _ _ h.2.1, h.2.2⟩

theorem Mem.wf_filterRows {m : Mem} {p : Nat × Row → Bool} (h : m.wf) : Mem.wf { rows := List.filter p m.rows, sync := m.sync, t1 := m.t1, t2 := m.t2 } :=
  ⟨Tbl.wf_filter _ _ _ h.1, h.2⟩

theorem Mem.wf_filterSync {m : Mem} {p : Nat × Word8 → Bool} (h : m.wf) : Mem.wf { rows := m.rows, sync := List.filter p m.sync, t1 := m.t1, t2 := m.t2 } :=
  ⟨h.1, Tbl.wf_filter _ _ _ h.2.1, h.2.2⟩

theorem Mem.wf_setT1 {m : Mem} {k : Nat} {d v : Line} (h : m.wf) : Mem.wf { rows := m.rows, sync := m.sync, t1 := Tbl.set m.t1 d k v, t2 := m.t2 } :=
  ⟨h.1, h.2.1, Tbl.rising_set _ _ _ _ h.2.2.1, h.2.2.2⟩

theorem Mem.wf_setT2 {m : Mem} {k : Nat} {d v : Line} (h : m.wf) : Mem.wf { rows := m.rows, sync := m.sync, t1 := m.t1, t2 := Tbl.set m.t2 d k v } :=
  ⟨h.1, h.2.1, h.2.2.1, Tbl.rising_set _ _ _ _ h.2.2.2⟩

theorem Mem.wf_filterT1 {m : Mem} {p : Nat × Line → Bool} (h : m.wf) : Mem.wf { rows := m.rows, sync := m.sync, t1 := List.filter p m.t1, t2 := m.t2 } :=
  ⟨h.1, h.2.1, Tbl.rising_filter _ _ h.2.2.1, h.2.2.2⟩

theorem Mem.wf_filterT2 {m : Mem} {p : Nat × Line → Bool} (h : m.wf) : Mem.wf { rows := m.rows, sync := m.sync, t1 := m.t1, t2 := List.filter p m.t2 } :=
  ⟨h.1, h.2.1, h.2.2.1, Tbl.rising_filter _ _ h.2.2.2⟩

theorem Only.refl (p : Parts) (s : State) : Only p s s := ⟨rfl, .inr rfl, .inr rfl, .inr rfl, .inr rfl, .inr rfl, .inr rfl, .inr rfl, .inr rfl, .inr
      rfl, .inr rfl, .inr rfl, .inr rfl, .inr rfl, .inr rfl, .inr rfl, .inr rfl, .inr rfl, .inr rfl, .inr rfl, .inr rfl, .inr rfl, .inr rfl, .inr rfl⟩

theorem Parts.step {α : Type} {b : Bool} {x y z : α} (h : b = true ∨ y = x) (k : b = true ∨ z = y) : b = true ∨ z = x := by
  rcases h with h | h
  · exact .inl h
  · exact h ▸ k

theorem Only.trans {p : Parts} {a b c : State} (h : Only p a b) (k : Only p b c) : Only p a c :=
  ⟨k.pending.trans h.pending, Parts.step h.flight k.flight, Parts.step h.nextId k.nextId, Parts.step h.free k.free, Parts.step h.clk k.clk, Parts.step
        h.sched k.sched, Parts.step h.mem k.mem, Parts.step h.hives k.hives, Parts.step h.wins k.wins, Parts.step h.chans k.chans, Parts.step h.chTurn
        k.chTurn, Parts.step h.jobs k.jobs, Parts.step h.scarabs k.scarabs, Parts.step h.submits k.submits, Parts.step h.tiers k.tiers, Parts.step
        h.fxps k.fxps, Parts.step h.err k.err, Parts.step h.mirror k.mirror, Parts.step h.journal k.journal, Parts.step h.power k.power, Parts.step
        h.trace k.trace, Parts.step h.count k.count, Parts.step h.quench k.quench, Parts.step h.mgmt k.mgmt⟩

theorem Keeps.refl (p : Parts) (s : State) : Keeps p s s := ⟨id, Only.refl p s⟩

theorem Keeps.trans {p : Parts} {a b c : State} (h : Keeps p a b) (k : Keeps p b c) : Keeps p a c := ⟨k.1 ∘ h.1, h.2.trans k.2⟩

/-- The part of `Keeps` that says what a command leaves as it was, of a command that gives a next state. -/
theorem Keeps.only {p : Parts} {s t : State} {o : Host.Outcome State Fault Refusal} (h : ∃ t, o = .next t ∧ Keeps p s t) (e : o = .next t) : Only p s
      t := by
  obtain ⟨u, hu, hk⟩ := h
  rw [e] at hu
  cases hu
  exact hk.2

theorem phase_same {m n : Mgmt} (h : n.phase = m.phase) (k : m.phase ≤ 8) : n.phase ≤ 8 := h ▸ k

theorem numbered_same {l k : List Xact} {m n : Nat} (e : k = l) (h : numbered l m) (hid : m ≤ n) : numbered k n :=
  e ▸ ⟨h.1, fun x hx => Nat.lt_of_lt_of_le (h.2 x hx) hid⟩

theorem numbered_mono {l : List Xact} {m n : Nat} (h : numbered l m) (k : m ≤ n) : numbered l n :=
  ⟨h.1, fun x hx => Nat.lt_of_lt_of_le (h.2 x hx) k⟩

theorem numbered_filter {l : List Xact} {n : Nat} {p : Xact → Bool} (h : numbered l n) : numbered (l.filter p) n :=
  ⟨h.1.filter p, fun x hx => h.2 x (List.mem_filter.mp hx).1⟩

theorem numbered_map {l : List Xact} {n : Nat} {f : Xact → Xact} (h : numbered l n) (hf : ∀ x, (f x).id = x.id) : numbered (l.map f) n := by
  refine ⟨List.pairwise_map.mpr (h.1.imp (fun {a b} k => by rw [hf a, hf b]; exact k)), fun x hx => ?_⟩
  obtain ⟨y, hy, rfl⟩ := List.mem_map.mp hx
  rw [hf y]
  exact h.2 y hy

theorem numbered_add {l : List Xact} {n : Nat} {x : Xact} (h : numbered l n) (hx : x.id = n) : numbered (l ++ [x]) (n + 1) := by
  refine ⟨List.pairwise_append.mpr ⟨h.1, List.pairwise_singleton _ _, fun a ha b hb => ?_⟩, fun y hy => ?_⟩
  · rw [List.mem_singleton.mp hb, hx]
    exact h.2 a ha
  · rcases List.mem_append.mp hy with hy | hy
    · exact Nat.lt_succ_of_lt (h.2 y hy)
    · rw [List.mem_singleton.mp hy, hx]
      exact Nat.lt_succ_self n

/-- A state that differs in none of the parts the invariant reads. -/
theorem Keeps.lit {pm : Parts} {a s : State} {flight nextId free clk sched hives wins chans chTurn jobs scarabs submits tiers fxps err mirror journal
      power trace count quench mgmt}
    (h : Keeps pm a s) (hm : mgmt.phase = s.mgmt.phase)
    (hid : s.nextId ≤ nextId := by first | (with_reducible exact Nat.le_refl _) | (with_reducible exact Nat.le_succ _))
    (hfl : flight = s.flight := by with_reducible rfl)
    (hnextId : pm.nextId = true ∨ nextId = s.nextId := by first | (right; with_reducible rfl) | (left; assumption))
    (hfree : pm.free = true ∨ free = s.free := by first | (right; with_reducible rfl) | (left; assumption))
    (hclk : pm.clk = true ∨ clk = s.clk := by first | (right; with_reducible rfl) | (left; assumption))
    (hsched : pm.sched = true ∨ sched = s.sched := by first | (right; with_reducible rfl) | (left; assumption))
    (hhives : pm.hives = true ∨ hives = s.hives := by first | (right; with_reducible rfl) | (left; assumption))
    (hwins : pm.wins = true ∨ wins = s.wins := by first | (right; with_reducible rfl) | (left; assumption))
    (hchans : pm.chans = true ∨ chans = s.chans := by first | (right; with_reducible rfl) | (left; assumption))
    (hchTurn : pm.chTurn = true ∨ chTurn = s.chTurn := by first | (right; with_reducible rfl) | (left; assumption))
    (hjobs : pm.jobs = true ∨ jobs = s.jobs := by first | (right; with_reducible rfl) | (left; assumption))
    (hscarabs : pm.scarabs = true ∨ scarabs = s.scarabs := by first | (right; with_reducible rfl) | (left; assumption))
    (hsubmits : pm.submits = true ∨ submits = s.submits := by first | (right; with_reducible rfl) | (left; assumption))
    (htiers : pm.tiers = true ∨ tiers = s.tiers := by first | (right; with_reducible rfl) | (left; assumption))
    (hfxps : pm.fxps = true ∨ fxps = s.fxps := by first | (right; with_reducible rfl) | (left; assumption))
    (herr : pm.err = true ∨ err = s.err := by first | (right; with_reducible rfl) | (left; assumption))
    (hmirror : pm.mirror = true ∨ mirror = s.mirror := by first | (right; with_reducible rfl) | (left; assumption))
    (hjournal : pm.journal = true ∨ journal = s.journal := by first | (right; with_reducible rfl) | (left; assumption))
    (hpower : pm.power = true ∨ power = s.power := by first | (right; with_reducible rfl) | (left; assumption))
    (htrace : pm.trace = true ∨ trace = s.trace := by first | (right; with_reducible rfl) | (left; assumption))
    (hcount : pm.count = true ∨ count = s.count := by first | (right; with_reducible rfl) | (left; assumption))
    (hquench : pm.quench = true ∨ quench = s.quench := by first | (right; with_reducible rfl) | (left; assumption))
    (hmgmt : pm.mgmt = true ∨ mgmt = s.mgmt := by first | (right; with_reducible rfl) | (left; assumption)) :
    Keeps pm a { pending := s.pending, flight := flight, nextId := nextId, free := free, clk := clk, sched := sched, mem := s.mem, hives := hives
                 wins := wins, chans := chans, chTurn := chTurn, jobs := jobs, scarabs := scarabs, submits := submits, tiers := tiers, fxps := fxps
                 err := err, mirror := mirror, journal := journal, power := power, trace := trace, count := count, quench := quench, mgmt := mgmt } :=
  h.trans ⟨fun i => ⟨i.1, phase_same hm i.2.1, numbered_same hfl i.2.2 hid⟩, ⟨rfl, .inr hfl, hnextId, hfree, hclk, hsched, .inr rfl, hhives, hwins,
        hchans, hchTurn, hjobs, hscarabs, hsubmits, htiers, hfxps, herr, hmirror, hjournal, hpower, htrace, hcount, hquench, hmgmt⟩⟩

/-- A state that differs in memory: the new memory is canonical if the old one is. -/
theorem Keeps.mem {pm : Parts} {a s : State} {flight nextId free clk sched hives wins chans chTurn jobs scarabs submits tiers fxps err mirror journal
      power trace count quench mgmt m}
    (h : Keeps pm a s) (hw : s.mem.wf → m.wf) (hm : mgmt.phase = s.mgmt.phase)
    (hid : s.nextId ≤ nextId := by first | (with_reducible exact Nat.le_refl _) | (with_reducible exact Nat.le_succ _))
    (hfl : flight = s.flight := by with_reducible rfl)
    (hnextId : pm.nextId = true ∨ nextId = s.nextId := by first | (right; with_reducible rfl) | (left; assumption))
    (hfree : pm.free = true ∨ free = s.free := by first | (right; with_reducible rfl) | (left; assumption))
    (hclk : pm.clk = true ∨ clk = s.clk := by first | (right; with_reducible rfl) | (left; assumption))
    (hsched : pm.sched = true ∨ sched = s.sched := by first | (right; with_reducible rfl) | (left; assumption))
    (hhives : pm.hives = true ∨ hives = s.hives := by first | (right; with_reducible rfl) | (left; assumption))
    (hwins : pm.wins = true ∨ wins = s.wins := by first | (right; with_reducible rfl) | (left; assumption))
    (hchans : pm.chans = true ∨ chans = s.chans := by first | (right; with_reducible rfl) | (left; assumption))
    (hchTurn : pm.chTurn = true ∨ chTurn = s.chTurn := by first | (right; with_reducible rfl) | (left; assumption))
    (hjobs : pm.jobs = true ∨ jobs = s.jobs := by first | (right; with_reducible rfl) | (left; assumption))
    (hscarabs : pm.scarabs = true ∨ scarabs = s.scarabs := by first | (right; with_reducible rfl) | (left; assumption))
    (hsubmits : pm.submits = true ∨ submits = s.submits := by first | (right; with_reducible rfl) | (left; assumption))
    (htiers : pm.tiers = true ∨ tiers = s.tiers := by first | (right; with_reducible rfl) | (left; assumption))
    (hfxps : pm.fxps = true ∨ fxps = s.fxps := by first | (right; with_reducible rfl) | (left; assumption))
    (herr : pm.err = true ∨ err = s.err := by first | (right; with_reducible rfl) | (left; assumption))
    (hmirror : pm.mirror = true ∨ mirror = s.mirror := by first | (right; with_reducible rfl) | (left; assumption))
    (hjournal : pm.journal = true ∨ journal = s.journal := by first | (right; with_reducible rfl) | (left; assumption))
    (hpower : pm.power = true ∨ power = s.power := by first | (right; with_reducible rfl) | (left; assumption))
    (htrace : pm.trace = true ∨ trace = s.trace := by first | (right; with_reducible rfl) | (left; assumption))
    (hcount : pm.count = true ∨ count = s.count := by first | (right; with_reducible rfl) | (left; assumption))
    (hquench : pm.quench = true ∨ quench = s.quench := by first | (right; with_reducible rfl) | (left; assumption))
    (hmgmt : pm.mgmt = true ∨ mgmt = s.mgmt := by first | (right; with_reducible rfl) | (left; assumption))
    (hmem : pm.mem = true := by assumption) :
    Keeps pm a { pending := s.pending, flight := flight, nextId := nextId, free := free, clk := clk, sched := sched, mem := m, hives := hives
                 wins := wins, chans := chans, chTurn := chTurn, jobs := jobs, scarabs := scarabs, submits := submits, tiers := tiers, fxps := fxps
                 err := err, mirror := mirror, journal := journal, power := power, trace := trace, count := count, quench := quench, mgmt := mgmt } :=
  h.trans ⟨fun i => ⟨hw i.1, phase_same hm i.2.1, numbered_same hfl i.2.2 hid⟩, ⟨rfl, .inr hfl, hnextId, hfree, hclk, hsched, .inl hmem, hhives,
        hwins, hchans, hchTurn, hjobs, hscarabs, hsubmits, htiers, hfxps, herr, hmirror, hjournal, hpower, htrace, hcount, hquench, hmgmt⟩⟩

/-- A state that differs in the start-up phase: the new one is legal. -/
theorem Keeps.phase {pm : Parts} {a s : State} {flight nextId free clk sched hives wins chans chTurn jobs scarabs submits tiers fxps err mirror
      journal power trace count quench mgmt}
    (h : Keeps pm a s) (hm : mgmt.phase ≤ 8)
    (hid : s.nextId ≤ nextId := by first | (with_reducible exact Nat.le_refl _) | (with_reducible exact Nat.le_succ _))
    (hfl : flight = s.flight := by with_reducible rfl)
    (hnextId : pm.nextId = true ∨ nextId = s.nextId := by first | (right; with_reducible rfl) | (left; assumption))
    (hfree : pm.free = true ∨ free = s.free := by first | (right; with_reducible rfl) | (left; assumption))
    (hclk : pm.clk = true ∨ clk = s.clk := by first | (right; with_reducible rfl) | (left; assumption))
    (hsched : pm.sched = true ∨ sched = s.sched := by first | (right; with_reducible rfl) | (left; assumption))
    (hhives : pm.hives = true ∨ hives = s.hives := by first | (right; with_reducible rfl) | (left; assumption))
    (hwins : pm.wins = true ∨ wins = s.wins := by first | (right; with_reducible rfl) | (left; assumption))
    (hchans : pm.chans = true ∨ chans = s.chans := by first | (right; with_reducible rfl) | (left; assumption))
    (hchTurn : pm.chTurn = true ∨ chTurn = s.chTurn := by first | (right; with_reducible rfl) | (left; assumption))
    (hjobs : pm.jobs = true ∨ jobs = s.jobs := by first | (right; with_reducible rfl) | (left; assumption))
    (hscarabs : pm.scarabs = true ∨ scarabs = s.scarabs := by first | (right; with_reducible rfl) | (left; assumption))
    (hsubmits : pm.submits = true ∨ submits = s.submits := by first | (right; with_reducible rfl) | (left; assumption))
    (htiers : pm.tiers = true ∨ tiers = s.tiers := by first | (right; with_reducible rfl) | (left; assumption))
    (hfxps : pm.fxps = true ∨ fxps = s.fxps := by first | (right; with_reducible rfl) | (left; assumption))
    (herr : pm.err = true ∨ err = s.err := by first | (right; with_reducible rfl) | (left; assumption))
    (hmirror : pm.mirror = true ∨ mirror = s.mirror := by first | (right; with_reducible rfl) | (left; assumption))
    (hjournal : pm.journal = true ∨ journal = s.journal := by first | (right; with_reducible rfl) | (left; assumption))
    (hpower : pm.power = true ∨ power = s.power := by first | (right; with_reducible rfl) | (left; assumption))
    (htrace : pm.trace = true ∨ trace = s.trace := by first | (right; with_reducible rfl) | (left; assumption))
    (hcount : pm.count = true ∨ count = s.count := by first | (right; with_reducible rfl) | (left; assumption))
    (hquench : pm.quench = true ∨ quench = s.quench := by first | (right; with_reducible rfl) | (left; assumption))
    (hmgmt : pm.mgmt = true ∨ mgmt = s.mgmt := by first | (right; with_reducible rfl) | (left; assumption)) :
    Keeps pm a { pending := s.pending, flight := flight, nextId := nextId, free := free, clk := clk, sched := sched, mem := s.mem, hives := hives
                 wins := wins, chans := chans, chTurn := chTurn, jobs := jobs, scarabs := scarabs, submits := submits, tiers := tiers, fxps := fxps
                 err := err, mirror := mirror, journal := journal, power := power, trace := trace, count := count, quench := quench, mgmt := mgmt } :=
  h.trans ⟨fun i => ⟨i.1, hm, numbered_same hfl i.2.2 hid⟩, ⟨rfl, .inr hfl, hnextId, hfree, hclk, hsched, .inr rfl, hhives, hwins, hchans, hchTurn,
        hjobs, hscarabs, hsubmits, htiers, hfxps, herr, hmirror, hjournal, hpower, htrace, hcount, hquench, hmgmt⟩⟩

/-- A state that differs in the transactions in flight: the new ones are numbered if the old ones are. -/
theorem Keeps.flight {pm : Parts} {a s : State} {flight nextId free clk sched hives wins chans chTurn jobs scarabs submits tiers fxps err mirror
      journal power trace count quench mgmt}
    (h : Keeps pm a s) (hn : ∀ n, numbered s.flight n → numbered flight n) (hm : mgmt.phase = s.mgmt.phase)
    (hid : s.nextId ≤ nextId := by first | (with_reducible exact Nat.le_refl _) | (with_reducible exact Nat.le_succ _))
    (hfl : pm.flight = true := by assumption)
    (hnextId : pm.nextId = true ∨ nextId = s.nextId := by first | (right; with_reducible rfl) | (left; assumption))
    (hfree : pm.free = true ∨ free = s.free := by first | (right; with_reducible rfl) | (left; assumption))
    (hclk : pm.clk = true ∨ clk = s.clk := by first | (right; with_reducible rfl) | (left; assumption))
    (hsched : pm.sched = true ∨ sched = s.sched := by first | (right; with_reducible rfl) | (left; assumption))
    (hhives : pm.hives = true ∨ hives = s.hives := by first | (right; with_reducible rfl) | (left; assumption))
    (hwins : pm.wins = true ∨ wins = s.wins := by first | (right; with_reducible rfl) | (left; assumption))
    (hchans : pm.chans = true ∨ chans = s.chans := by first | (right; with_reducible rfl) | (left; assumption))
    (hchTurn : pm.chTurn = true ∨ chTurn = s.chTurn := by first | (right; with_reducible rfl) | (left; assumption))
    (hjobs : pm.jobs = true ∨ jobs = s.jobs := by first | (right; with_reducible rfl) | (left; assumption))
    (hscarabs : pm.scarabs = true ∨ scarabs = s.scarabs := by first | (right; with_reducible rfl) | (left; assumption))
    (hsubmits : pm.submits = true ∨ submits = s.submits := by first | (right; with_reducible rfl) | (left; assumption))
    (htiers : pm.tiers = true ∨ tiers = s.tiers := by first | (right; with_reducible rfl) | (left; assumption))
    (hfxps : pm.fxps = true ∨ fxps = s.fxps := by first | (right; with_reducible rfl) | (left; assumption))
    (herr : pm.err = true ∨ err = s.err := by first | (right; with_reducible rfl) | (left; assumption))
    (hmirror : pm.mirror = true ∨ mirror = s.mirror := by first | (right; with_reducible rfl) | (left; assumption))
    (hjournal : pm.journal = true ∨ journal = s.journal := by first | (right; with_reducible rfl) | (left; assumption))
    (hpower : pm.power = true ∨ power = s.power := by first | (right; with_reducible rfl) | (left; assumption))
    (htrace : pm.trace = true ∨ trace = s.trace := by first | (right; with_reducible rfl) | (left; assumption))
    (hcount : pm.count = true ∨ count = s.count := by first | (right; with_reducible rfl) | (left; assumption))
    (hquench : pm.quench = true ∨ quench = s.quench := by first | (right; with_reducible rfl) | (left; assumption))
    (hmgmt : pm.mgmt = true ∨ mgmt = s.mgmt := by first | (right; with_reducible rfl) | (left; assumption)) :
    Keeps pm a { pending := s.pending, flight := flight, nextId := nextId, free := free, clk := clk, sched := sched, mem := s.mem, hives := hives
                 wins := wins, chans := chans, chTurn := chTurn, jobs := jobs, scarabs := scarabs, submits := submits, tiers := tiers, fxps := fxps
                 err := err, mirror := mirror, journal := journal, power := power, trace := trace, count := count, quench := quench, mgmt := mgmt } :=
  h.trans ⟨fun i => ⟨i.1, phase_same hm i.2.1, numbered_mono (hn _ i.2.2) hid⟩, ⟨rfl, .inl hfl, hnextId, hfree, hclk, hsched, .inr rfl, hhives, hwins,
        hchans, hchTurn, hjobs, hscarabs, hsubmits, htiers, hfxps, herr, hmirror, hjournal, hpower, htrace, hcount, hquench, hmgmt⟩⟩

theorem Keeps.ite {pm : Parts} {a s t : State} {c : Prop} [Decidable c] (h : Keeps pm a s) (k : Keeps pm a t) : Keeps pm a (if c then s else t) := by
  split <;> assumption

theorem Keeps.foldl {pm : Parts} {α : Type} {a s : State} {f : State → α → State} {l : List α} (h : Keeps pm a s) (hf : ∀ s x, Keeps pm a s → Keeps pm a (f s x)) :
    Keeps pm a (l.foldl f s) := by
  induction l generalizing s with
  | nil => exact h
  | cons x l ih => exact ih (hf s x h)

/-- A fold over a state beside a value. -/
theorem Keeps.foldlP {pm : Parts} {α β : Type} {a : State} {p : State × β} {f : State × β → α → State × β} {l : List α} (h : Keeps pm a p.1)
    (hf : ∀ p x, Keeps pm a p.1 → Keeps pm a (f p x).1) : Keeps pm a (l.foldl f p).1 := by
  induction l generalizing p with
  | nil => exact h
  | cons x l ih => exact ih (hf p x h)

/-- A fold over a state behind a value. -/
theorem Keeps.foldlQ {pm : Parts} {α β : Type} {a : State} {p : β × State} {f : β × State → α → β × State} {l : List α} (h : Keeps pm a p.2)
    (hf : ∀ p x, Keeps pm a p.2 → Keeps pm a (f p x).2) : Keeps pm a (l.foldl f p).2 := by
  induction l generalizing p with
  | nil => exact h
  | cons x l ih => exact ih (hf p x h)

theorem Keeps.ofFst {pm : Parts} {α : Type} {a t : State} {p : State × α} {x : α} (h : p = (t, x)) (k : Keeps pm a p.1) : Keeps pm a t := by
  subst h; exact k

theorem Keeps.ofSnd {pm : Parts} {α : Type} {a t : State} {p : α × State} {x : α} (h : p = (x, t)) (k : Keeps pm a p.2) : Keeps pm a t := by
  subst h; exact k

theorem Keeps.ofNext {pm : Parts} {a t : State} {o : Host.Outcome State Fault Refusal} (h : ∃ t, o = .next t ∧ Keeps pm a t) (e : o = .next t) : Keeps pm a t := by
  obtain ⟨u, hu, hk⟩ := h
  rw [e] at hu
  cases hu
  exact hk

theorem Keeps.fst {pm : Parts} {α : Type} {a s : State} {x : α} (h : Keeps pm a s) : Keeps pm a (s, x).1 := h

theorem Keeps.iteFst {pm : Parts} {α : Type} {a : State} {s t : State × α} {c : Prop} [Decidable c] (h : Keeps pm a s.1) (k : Keeps pm a t.1) :
    Keeps pm a (if c then s else t).1 := by
  split <;> assumption

end Sys2Proof.Machine
end

