-- ==== Sys2Proof/Laws/KeepDict.lean ====
section
/-!
SUPPORT. KeepDict.lean: each operation of Machine/Dict.lean keeps: the invariant, the queue, and every part of the state that no hypothesis names.
-/
namespace Sys2Proof.Machine
set_option Elab.async false

theorem State.setPv_keeps {pm : Parts} {st0 : State} {s : State} {p : Nat} {idx : Nat} {v : Nat} (hk0 : Keeps pm st0 s) (p_mgmt : pm.mgmt = true := by
    assumption) : Keeps pm st0 (State.setPv s p idx v) := by
  unfold State.setPv
  try dsimp only
  with_reducible repeat' (first | assumption | (refine Keeps.lit ?_ rfl; first | assumption) | (split <;> try dsimp only))

theorem State.setShd_keeps {pm : Parts} {st0 : State} {s : State} {p : Nat} {idx : Nat} {v : Nat} (hk0 : Keeps pm st0 s) (p_mgmt : pm.mgmt = true :=
    by assumption) : Keeps pm st0 (State.setShd s p idx v) := by
  unfold State.setShd
  try dsimp only
  with_reducible repeat' (first | assumption | (refine Keeps.lit ?_ rfl; first | assumption) | (split <;> try dsimp only))

theorem State.setAct_keeps {pm : Parts} {st0 : State} {s : State} {p : Nat} {idx : Nat} {v : Nat} (hk0 : Keeps pm st0 s) (p_mgmt : pm.mgmt = true :=
    by assumption) : Keeps pm st0 (State.setAct s p idx v) := by
  unfold State.setAct
  try dsimp only
  with_reducible repeat' (first | assumption | (refine Keeps.lit ?_ rfl; first | assumption) | (split <;> try dsimp only))

end Sys2Proof.Machine
end

