-- ==== Sys2Proof/Laws/KeepFlags.lean ====
section
/-!
SUPPORT. KeepFlags.lean: each operation of Machine/Flags.lean keeps: the invariant, the queue, and every part of the state that no hypothesis names.
-/
namespace Sys2Proof.Machine
set_option Elab.async false

theorem State.setCmds_keeps {pm : Parts} {st0 : State} {s : State} {h : Nat} {c : Nat} {l : List Instr} (hk0 : Keeps pm st0 s) (p_hives : pm.hives =
    true := by assumption) : Keeps pm st0 (State.setCmds s h c l) := by
  unfold State.setCmds
  try dsimp only
  with_reducible repeat' (first | assumption | (refine Keeps.lit ?_ rfl; first | assumption) | (split <;> try dsimp only))

theorem State.cmd_keeps {pm : Parts} {st0 s : State} {h c : Nat} {i : Instr} {go : State → State} (hk0 : Keeps pm st0 s)
    (hgo : ∀ s, Keeps pm st0 s → Keeps pm st0 (go s)) (p_hives : pm.hives = true := by assumption) : Keeps pm st0 (s.cmd h c i go) := by
  unfold State.cmd
  split
  · exact hgo _ (Keeps.lit hk0 rfl)
  · split
    · exact hgo s hk0
    · exact State.setCmds_keeps hk0

theorem State.cmdHold_keeps {pm : Parts} {st0 : State} {s : State} {h : Nat} {c : Nat} {i : Instr} (hk0 : Keeps pm st0 s) (p_hives : pm.hives = true
    := by assumption) : Keeps pm st0 (State.cmdHold s h c i) := by
  unfold State.cmdHold
  try dsimp only
  with_reducible repeat' (first | assumption | apply State.setCmds_keeps | (split <;> try dsimp only))

theorem State.setCounter_keeps {pm : Parts} {st0 : State} {s : State} {p : Nat} {idx : Nat} {v : Nat} (hk0 : Keeps pm st0 s) (p_count : pm.count =
    true := by assumption) : Keeps pm st0 (State.setCounter s p idx v) := by
  unfold State.setCounter
  try dsimp only
  with_reducible repeat' (first | assumption | (refine Keeps.lit ?_ rfl; first | assumption) | (split <;> try dsimp only))

theorem State.cadd_keeps {pm : Parts} {st0 : State} {s : State} {p : Nat} {idx : Nat} {n : Nat} (hk0 : Keeps pm st0 s) (p_count : pm.count = true :=
    by assumption) : Keeps pm st0 (State.cadd s p idx n) := by
  unfold State.cadd
  try dsimp only
  with_reducible repeat' (first | assumption | apply State.setCounter_keeps | apply Keeps.ite | (split <;> try dsimp only))

theorem State.cmax_keeps {pm : Parts} {st0 : State} {s : State} {p : Nat} {idx : Nat} {v : Nat} (hk0 : Keeps pm st0 s) (p_count : pm.count = true :=
    by assumption) : Keeps pm st0 (State.cmax s p idx v) := by
  unfold State.cmax
  try dsimp only
  with_reducible repeat' (first | assumption | apply State.setCounter_keeps | apply Keeps.ite | (split <;> try dsimp only))

theorem State.ctxAdd_keeps {pm : Parts} {st0 : State} {s : State} {h : Nat} {c : Nat} {k : Nat} {n : Nat} (hk0 : Keeps pm st0 s) (p_count : pm.count =
    true := by assumption) : Keeps pm st0 (State.ctxAdd s h c k n) := by
  unfold State.ctxAdd
  try dsimp only
  with_reducible repeat' (first | assumption | apply State.cadd_keeps | (split <;> try dsimp only))

theorem State.pulse_keeps {pm : Parts} {st0 : State} {s : State} {h : Nat} {c : Nat} (hk0 : Keeps pm st0 s) (p_hives : pm.hives = true := by
    assumption) : Keeps pm st0 (State.pulse s h c) := by
  unfold State.pulse
  try dsimp only
  with_reducible repeat' (first | assumption | apply Keeps.ite | (refine Keeps.lit ?_ rfl; first | assumption | apply Keeps.ite)
                                | (split <;> try dsimp only))

theorem State.irq_keeps {pm : Parts} {st0 : State} {s : State} {line : Nat} (hk0 : Keeps pm st0 s) (p_mgmt : pm.mgmt = true := by assumption) : Keeps
    pm st0 (State.irq s line) := by
  unfold State.irq
  try dsimp only
  with_reducible repeat' (first | assumption | (refine Keeps.lit ?_ rfl; first | assumption) | (split <;> try dsimp only))

theorem State.event_keeps {pm : Parts} {st0 : State} {s : State} {sel : Nat} {param : Nat} {index : Nat} {payload : List Byte} (hk0 : Keeps pm st0 s)
    (p_mgmt : pm.mgmt = true := by assumption) : Keeps pm st0 (State.event s sel param index payload) := by
  unfold State.event
  try dsimp only
  with_reducible repeat' (first | assumption | apply Keeps.ite | (refine Keeps.lit ?_ rfl; first | assumption | apply Keeps.ite)
                                | (split <;> try dsimp only))

theorem State.notice_keeps {pm : Parts} {st0 : State} {s : State} {param : Nat} {index : Nat} {payload : List Byte} (hk0 : Keeps pm st0 s) (p_mgmt :
    pm.mgmt = true := by assumption) : Keeps pm st0 (State.notice s param index payload) := by
  unfold State.notice
  try dsimp only
  with_reducible repeat' (first | assumption | apply State.event_keeps | (split <;> try dsimp only))

theorem State.last64_keeps {pm : Parts} {st0 : State} {s : State} {u : Nat} {r : Rec} (hk0 : Keeps pm st0 s) (p_trace : pm.trace = true := by
    assumption) : Keeps pm st0 (State.last64 s u r) := by
  unfold State.last64
  try dsimp only
  with_reducible repeat' (first | assumption | (refine Keeps.lit ?_ rfl; first | assumption) | (split <;> try dsimp only))

theorem State.fire_keeps {pm : Parts} {st0 : State} {s : State} {i : Nat} {r : Rec} (hk0 : Keeps pm st0 s) (p_trace : pm.trace = true := by
    assumption) (p_mgmt : pm.mgmt = true := by assumption) : Keeps pm st0 (State.fire s i r) := by
  unfold State.fire
  try dsimp only
  with_reducible repeat' (first | assumption | apply State.setPv_keeps | (refine Keeps.lit ?_ rfl; first | assumption | apply State.setPv_keeps)
                                | (split <;> try dsimp only))

theorem State.testTriggers_keeps {pm : Parts} {st0 : State} {s : State} {src : Nat} {m : Nat → Bool} {r : Rec} (hk0 : Keeps pm st0 s) (p_trace :
    pm.trace = true := by assumption) (p_mgmt : pm.mgmt = true := by assumption) : Keeps pm st0 (State.testTriggers s src m r) := by
  unfold State.testTriggers
  try dsimp only
  with_reducible repeat' (first | assumption | apply State.fire_keeps | apply Keeps.ite | apply Keeps.foldl | refine Keeps.foldlP ?_ ?_
                                | (intro _ _ _; try dsimp only) | (split <;> try dsimp only))

theorem State.tableStore_keeps {pm : Parts} {st0 : State} {s : State} {slot : Nat} {r : Rec} (hk0 : Keeps pm st0 s) (p_err : pm.err = true := by
    assumption) (p_mgmt : pm.mgmt = true := by assumption) : Keeps pm st0 (State.tableStore s slot r) := by
  unfold State.tableStore
  try dsimp only
  with_reducible repeat' (first | assumption | apply State.event_keeps | (refine Keeps.lit ?_ rfl; first | assumption | apply State.event_keeps)
                                | (split <;> try dsimp only))

theorem codeIrq_keeps {pm : Parts} {st0 : State} {code : Nat} {s : State} (hk0 : Keeps pm st0 s) (p_mgmt : pm.mgmt = true := by assumption) : Keeps pm
    st0 (codeIrq code s) := by
  unfold codeIrq
  try dsimp only
  with_reducible repeat' (first | assumption | apply State.irq_keeps | apply Keeps.ite | (split <;> try dsimp only))

theorem State.tableRing_keeps {pm : Parts} {st0 : State} {s : State} {r : Rec} (hk0 : Keeps pm st0 s) (p_err : pm.err = true := by assumption) (p_mgmt
    : pm.mgmt = true := by assumption) : Keeps pm st0 (State.tableRing s r) := by
  unfold State.tableRing
  try dsimp only
  with_reducible repeat' (first | assumption | apply State.tableStore_keeps | apply Keeps.ite
                                | (refine Keeps.lit ?_ rfl; first | assumption | apply State.tableStore_keeps | apply Keeps.ite)
                                | (split <;> try dsimp only))

theorem State.tableAdd_keeps {pm : Parts} {st0 : State} {s : State} {r : Rec} {ids : Nat × Nat} (hk0 : Keeps pm st0 s) (p_err : pm.err = true := by
    assumption) (p_trace : pm.trace = true := by assumption) (p_mgmt : pm.mgmt = true := by assumption) : Keeps pm st0 (State.tableAdd s r ids) := by
  unfold State.tableAdd
  try dsimp only
  with_reducible repeat' (first | assumption | apply State.testTriggers_keeps | apply codeIrq_keeps | apply State.tableRing_keeps
                                | (split <;> try dsimp only))

theorem State.raise_keeps {pm : Parts} {st0 : State} {s : State} {f : RecF} (hk0 : Keeps pm st0 s) (p_err : pm.err = true := by assumption) (p_trace :
    pm.trace = true := by assumption) (p_mgmt : pm.mgmt = true := by assumption) : Keeps pm st0 (State.raise s f) := by
  unfold State.raise
  try dsimp only
  with_reducible repeat' (first | assumption | apply State.tableAdd_keeps | (split <;> try dsimp only))

theorem State.faultAt_keeps {pm : Parts} {st0 : State} {s : State} {u : Nat} {r : Rec} {ids : Nat × Nat} (hk0 : Keeps pm st0 s) (p_hives : pm.hives =
    true := by assumption) (p_err : pm.err = true := by assumption) (p_trace : pm.trace = true := by assumption) (p_mgmt : pm.mgmt = true := by
    assumption) : Keeps pm st0 (State.faultAt s u r ids) := by
  unfold State.faultAt
  try dsimp only
  with_reducible repeat' (first | assumption | apply State.tableAdd_keeps | apply State.last64_keeps
                                | (refine Keeps.lit ?_ rfl; first | assumption | apply State.tableAdd_keeps | apply State.last64_keeps)
                                | (split <;> try dsimp only))

theorem State.faultAccess_keeps {pm : Parts} {st0 : State} {s : State} {u : Nat} {h : Nat} {c : Nat} {r : Rec} {ids : Nat × Nat} (hk0 : Keeps pm st0
    s) (p_hives : pm.hives = true := by assumption) (p_err : pm.err = true := by assumption) (p_trace : pm.trace = true := by assumption) (p_count :
    pm.count = true := by assumption) (p_mgmt : pm.mgmt = true := by assumption) : Keeps pm st0 (State.faultAccess s u h c r ids) := by
  unfold State.faultAccess
  try dsimp only
  with_reducible repeat' (first | assumption | apply State.pulse_keeps | apply State.ctxAdd_keeps | apply State.faultAt_keeps
                                | (split <;> try dsimp only))

theorem State.setLog_keeps {pm : Parts} {st0 : State} {s : State} {u : Nat} {n : Nat} {r : Rec} (hk0 : Keeps pm st0 s) (p_err : pm.err = true := by
    assumption) : Keeps pm st0 (State.setLog s u n r) := by
  unfold State.setLog
  try dsimp only
  with_reducible repeat' (first | assumption | (refine Keeps.lit ?_ rfl; first | assumption) | (split <;> try dsimp only))

theorem State.integrity_keeps {pm : Parts} {st0 : State} {s : State} {e : Integ} (hk0 : Keeps pm st0 s) (p_err : pm.err = true := by assumption)
    (p_trace : pm.trace = true := by assumption) (p_count : pm.count = true := by assumption) (p_mgmt : pm.mgmt = true := by assumption) : Keeps pm
    st0 (State.integrity s e) := by
  unfold State.integrity
  try dsimp only
  with_reducible repeat' (first | assumption | apply State.cadd_keeps | apply State.last64_keeps | apply State.setLog_keeps
                                | apply State.tableAdd_keeps | apply Keeps.ite | (split <;> try dsimp only))

theorem State.clearLog_keeps {pm : Parts} {st0 : State} {s : State} {u : Nat} {kind : Nat} {loc : Nat} (hk0 : Keeps pm st0 s) (p_err : pm.err = true
    := by assumption) : Keeps pm st0 (State.clearLog s u kind loc) := by
  unfold State.clearLog
  try dsimp only
  with_reducible repeat' (first | assumption | apply State.setLog_keeps | (split <;> try dsimp only))

theorem State.dropSaid_keeps {pm : Parts} {st0 : State} {s : State} {u : Nat} {cause : Nat} (hk0 : Keeps pm st0 s) (p_err : pm.err = true := by
    assumption) (p_trace : pm.trace = true := by assumption) (p_mgmt : pm.mgmt = true := by assumption) : Keeps pm st0 (State.dropSaid s u cause) :=
    by
  unfold State.dropSaid
  try dsimp only
  with_reducible repeat' (first | assumption | apply State.raise_keeps | apply Keeps.ite
                                | (refine Keeps.lit ?_ rfl; first | assumption | apply State.raise_keeps | apply Keeps.ite)
                                | (split <;> try dsimp only))

theorem State.stage_keeps {pm : Parts} {st0 : State} {s : State} {u : Nat} {r : Rec} {time : Nat} (hk0 : Keeps pm st0 s) (p_err : pm.err = true := by
    assumption) (p_trace : pm.trace = true := by assumption) (p_mgmt : pm.mgmt = true := by assumption) : Keeps pm st0 (State.stage s u r time) := by
  unfold State.stage
  try dsimp only
  with_reducible repeat' (first | assumption | apply State.dropSaid_keeps | apply Keeps.ite
                                | (refine Keeps.lit ?_ rfl; first | assumption | apply State.dropSaid_keeps | apply Keeps.ite)
                                | (split <;> try dsimp only))

theorem State.traceAt_keeps {pm : Parts} {st0 : State} {s : State} {f : TraceF} {time : Nat} (hk0 : Keeps pm st0 s) (p_err : pm.err = true := by
    assumption) (p_trace : pm.trace = true := by assumption) (p_mgmt : pm.mgmt = true := by assumption) : Keeps pm st0 (State.traceAt s f time) := by
  unfold State.traceAt
  try dsimp only
  with_reducible repeat' (first | assumption | apply State.last64_keeps | apply State.testTriggers_keeps | apply State.stage_keeps | apply Keeps.ite
                                | (split <;> try dsimp only))

theorem State.traceGen_keeps {pm : Parts} {st0 : State} {s : State} {f : TraceF} (hk0 : Keeps pm st0 s) (p_err : pm.err = true := by assumption)
    (p_trace : pm.trace = true := by assumption) (p_mgmt : pm.mgmt = true := by assumption) : Keeps pm st0 (State.traceGen s f) := by
  unfold State.traceGen
  try dsimp only
  with_reducible repeat' (first | assumption | apply State.traceAt_keeps | (split <;> try dsimp only))

end Sys2Proof.Machine
end

