-- ==== Sys2Proof/Laws/KeepOperands.lean ====
section
/-!
SUPPORT. KeepOperands.lean: each operation of Machine/Operands.lean keeps: the invariant, the queue, and every part of the state that no hypothesis names.
-/
namespace Sys2Proof.Machine
set_option Elab.async false

theorem State.handleFault_keeps {pm : Parts} {st0 : State} {s : State} {f : HFault} {w : FaultSite} (hk0 : Keeps pm st0 s) (p_hives : pm.hives = true
    := by assumption) (p_err : pm.err = true := by assumption) (p_trace : pm.trace = true := by assumption) (p_count : pm.count = true := by
    assumption) (p_mgmt : pm.mgmt = true := by assumption) : Keeps pm st0 (State.handleFault s f w) := by
  unfold State.handleFault
  try dsimp only
  with_reducible repeat' (first | assumption | apply State.faultAccess_keeps | (split <;> try dsimp only))

end Sys2Proof.Machine
end

