-- ==== Sys2Proof/Laws/KeepOps.lean ====
section
/-!
SUPPORT. KeepOps.lean: each operation of Machine/Ops.lean keeps: the invariant, the queue, and every part of the state that no hypothesis names.
-/
namespace Sys2Proof.Machine
set_option Elab.async false

theorem State.demote_keeps {pm : Parts} {st0 : State} {s : State} {key : Nat} (hk0 : Keeps pm st0 s) (p_sched : pm.sched = true := by assumption)
    (p_count : pm.count = true := by assumption) : Keeps pm st0 (State.demote s key) := by
  unfold State.demote
  try dsimp only
  with_reducible repeat' (first | assumption | apply State.cadd_keeps | apply Keeps.ite
                                | (refine Keeps.lit ?_ rfl; first | assumption | apply State.cadd_keeps | apply Keeps.ite)
                                | (split <;> try dsimp only))

theorem State.regrade_keeps {pm : Parts} {st0 : State} {s : State} (hk0 : Keeps pm st0 s) (p_sched : pm.sched = true := by assumption) (p_count :
    pm.count = true := by assumption) : Keeps pm st0 (State.regrade s) := by
  unfold State.regrade
  try dsimp only
  with_reducible repeat' (first | assumption | apply State.demote_keeps | apply Keeps.foldl | refine Keeps.foldlP ?_ ?_
                                | (refine Keeps.lit ?_ rfl; first | assumption | apply State.demote_keeps | apply Keeps.foldl)
                                | (intro _ _ _; try dsimp only) | (split <;> try dsimp only))

theorem State.account_keeps {pm : Parts} {st0 : State} {s : State} {r : Nat} {q : Nat} {n : Nat} {sched : Bool} (hk0 : Keeps pm st0 s) (p_sched :
    pm.sched = true := by assumption) (p_count : pm.count = true := by assumption) : Keeps pm st0 (State.account s r q n sched) := by
  unfold State.account
  try dsimp only
  with_reducible repeat' (first | assumption | apply State.cadd_keeps | apply State.demote_keeps | apply Keeps.ite
                                | (refine Keeps.lit ?_ rfl; first | assumption | apply State.cadd_keeps | apply State.demote_keeps | apply Keeps.ite)
                                | (split <;> try dsimp only))

theorem State.setX_keeps {pm : Parts} {st0 : State} {s : State} {x : Xact} (hk0 : Keeps pm st0 s) (p_flight : pm.flight = true := by assumption) :
    Keeps pm st0 (State.setX s x) := by
  unfold State.setX
  refine Keeps.flight hk0 (fun n hn => numbered_map hn (fun y => ?_)) rfl
  split
  · rename_i h
    exact h.symm
  · rfl

theorem State.addX_keeps {pm : Parts} {st0 : State} {s : State} {x : Xact} (hk0 : Keeps pm st0 s) (p_flight : pm.flight = true := by assumption)
    (p_nextId : pm.nextId = true := by assumption) : Keeps pm st0 (State.addX s x) := by
  unfold State.addX
  refine hk0.trans ⟨fun i => ⟨i.1, i.2.1, numbered_add i.2.2 rfl⟩, by constructor <;> first | rfl | (right; rfl) | (left; assumption)⟩

theorem State.dropX_keeps {pm : Parts} {st0 : State} {s : State} {n : Nat} (hk0 : Keeps pm st0 s) (p_flight : pm.flight = true := by assumption) :
    Keeps pm st0 (State.dropX s n) := by
  unfold State.dropX
  exact Keeps.flight hk0 (fun n hn => numbered_filter hn) rfl

theorem State.slotMiss_keeps {pm : Parts} {st0 : State} {s : State} {e : Nat} {cause : Nat} {late : Nat} {res : Nat} {sigH : Nat} {sigC : Nat} {flow :
    Nat} {layer : Nat} {oper : Nat} {rel : Option (Nat × Nat × Nat)} (hk0 : Keeps pm st0 s) (p_sched : pm.sched = true := by assumption) (p_hives :
    pm.hives = true := by assumption) (p_err : pm.err = true := by assumption) (p_trace : pm.trace = true := by assumption) (p_count : pm.count = true
    := by assumption) (p_mgmt : pm.mgmt = true := by assumption) : Keeps pm st0 (State.slotMiss s e cause late res sigH sigC flow layer oper rel) :=
    by
  unfold State.slotMiss
  try dsimp only
  with_reducible repeat' (first | assumption | apply State.ctxAdd_keeps | apply State.cadd_keeps | apply State.pulse_keeps | apply State.faultAt_keeps
                                | apply Keeps.ite
                                | (refine Keeps.lit ?_ rfl; first | assumption | apply State.ctxAdd_keeps | apply State.cadd_keeps | apply State.pulse_keeps | apply State.faultAt_keeps | apply Keeps.ite)
                                | (split <;> try dsimp only))

theorem State.mismatch_keeps {pm : Parts} {st0 : State} {s : State} {h : Nat} {port : Nat} {layer : Nat} {oper : Nat} (hk0 : Keeps pm st0 s) (p_sched
    : pm.sched = true := by assumption) (p_hives : pm.hives = true := by assumption) (p_err : pm.err = true := by assumption) (p_trace : pm.trace =
    true := by assumption) (p_mgmt : pm.mgmt = true := by assumption) : Keeps pm st0 (State.mismatch s h port layer oper) := by
  unfold State.mismatch
  try dsimp only
  with_reducible repeat' (first | assumption | apply State.faultAt_keeps | apply Keeps.ite
                                | (refine Keeps.lit ?_ rfl; first | assumption | apply State.faultAt_keeps | apply Keeps.ite)
                                | (split <;> try dsimp only))

theorem State.setRow_keeps {pm : Parts} {st0 : State} {s : State} {place : Nat} {r : Row} (hk0 : Keeps pm st0 s) (p_mem : pm.mem = true := by
    assumption) : Keeps pm st0 (State.setRow s place r) := by
  unfold State.setRow
  exact Keeps.mem hk0 Mem.wf_setRow rfl

theorem State.found_keeps {pm : Parts} {st0 : State} {s : State} {x : Xact} {loc : Loc} {kind : Nat} {h : Nat} {bad : Bool} {spare : Bool} {gmask :
    Nat} {synd : Nat} (hk0 : Keeps pm st0 s) (p_hives : pm.hives = true := by assumption) (p_err : pm.err = true := by assumption) (p_trace : pm.trace
    = true := by assumption) (p_count : pm.count = true := by assumption) (p_mgmt : pm.mgmt = true := by assumption) : Keeps pm st0 (State.found s x
    loc kind h bad spare gmask synd) := by
  unfold State.found
  try dsimp only
  with_reducible repeat' (first | assumption | apply State.integrity_keeps | apply State.pulse_keeps | apply Keeps.ite | (split <;> try dsimp only))

theorem State.pev_keeps {pm : Parts} {st0 : State} {s : State} {k : Nat} {n : Nat} (hk0 : Keeps pm st0 s) (p_power : pm.power = true := by assumption)
    : Keeps pm st0 (State.pev s k n) := by
  unfold State.pev
  try dsimp only
  with_reducible repeat' (first | assumption | (refine Keeps.lit ?_ rfl; first | assumption) | (split <;> try dsimp only))

theorem State.fixCells_keeps {pm : Parts} {st0 : State} {s : State} {place : Nat} {x : Xact} {loc : Loc} {kind : Nat} {h : Nat} {spare : Bool} (hk0 :
    Keeps pm st0 s) (p_mem : pm.mem = true := by assumption) (p_err : pm.err = true := by assumption) (p_trace : pm.trace = true := by assumption)
    (p_count : pm.count = true := by assumption) (p_mgmt : pm.mgmt = true := by assumption) : Keeps pm st0 (State.fixCells s place x loc kind h spare)
    := by
  unfold State.fixCells
  try dsimp only
  with_reducible repeat' (first | assumption | apply State.integrity_keeps | apply State.setRow_keeps | apply Keeps.ite | (split <;> try dsimp only))

theorem State.rowTouched_keeps {pm : Parts} {st0 : State} {s : State} {place : Nat} {h : Nat} {line : Nat} (hk0 : Keeps pm st0 s) (p_hives : pm.hives
    = true := by assumption) (p_err : pm.err = true := by assumption) : Keeps pm st0 (State.rowTouched s place h line) := by
  unfold State.rowTouched
  try dsimp only
  with_reducible repeat' (first | assumption | apply Keeps.ite | (refine Keeps.lit ?_ rfl; first | assumption | apply Keeps.ite)
                                | (split <;> try dsimp only))

theorem State.moveRead_keeps {pm : Parts} {st0 : State} {s : State} {x : Xact} {h : Nat} {line : Nat} (hk0 : Keeps pm st0 s) (p_hives : pm.hives =
    true := by assumption) : Keeps pm st0 (State.moveRead s x h line) := by
  unfold State.moveRead
  try dsimp only
  with_reducible repeat' (first | assumption | apply Keeps.ite | (refine Keeps.lit ?_ rfl; first | assumption | apply Keeps.ite)
                                | (split <;> try dsimp only))

theorem State.clearPz_keeps {pm : Parts} {st0 : State} {s : State} {kind : Nat} {h : Nat} {bank : Nat} {row : Nat} (hk0 : Keeps pm st0 s) (p_err :
    pm.err = true := by assumption) : Keeps pm st0 (State.clearPz s kind h bank row) := by
  unfold State.clearPz
  try dsimp only
  with_reducible repeat' (first | assumption | (refine Keeps.lit ?_ rfl; first | assumption) | (split <;> try dsimp only))

theorem State.rowAccess_keeps {pm : Parts} {st0 : State} {s : State} {x : Xact} {loc : Loc} {kind : Nat} {h : Nat} {bank : Nat} {row : Nat} (hk0 :
    Keeps pm st0 s) (p_mem : pm.mem = true := by assumption) (p_hives : pm.hives = true := by assumption) (p_err : pm.err = true := by assumption)
    (p_power : pm.power = true := by assumption) (p_trace : pm.trace = true := by assumption) (p_count : pm.count = true := by assumption) (p_mgmt :
    pm.mgmt = true := by assumption) : Keeps pm st0 (State.rowAccess s x loc kind h bank row).1 := by
  unfold State.rowAccess
  try dsimp only
  with_reducible repeat' (first | assumption | apply State.fixCells_keeps | apply State.found_keeps | apply State.pev_keeps
                                | apply State.rowTouched_keeps | apply State.setRow_keeps | apply State.clearPz_keeps | apply State.moveRead_keeps
                                | apply Keeps.ite | (apply Keeps.iteFst <;> try dsimp only) | (split <;> try dsimp only))

theorem State.setSync_keeps {pm : Parts} {st0 : State} {s : State} {h : Nat} {w : Nat} {d : Dword} (hk0 : Keeps pm st0 s) (p_mem : pm.mem = true := by
    assumption) (p_err : pm.err = true := by assumption) : Keeps pm st0 (State.setSync s h w d) := by
  unfold State.setSync
  exact Keeps.mem hk0 Mem.wf_setSync rfl

theorem State.queuePass_keeps {pm : Parts} {st0 : State} {s : State} {h : Nat} {cell : Nat} {p : Party} (hk0 : Keeps pm st0 s) (p_hives : pm.hives =
    true := by assumption) : Keeps pm st0 (State.queuePass s h cell p) := by
  unfold State.queuePass
  try dsimp only
  with_reducible repeat' (first | assumption | (refine Keeps.lit ?_ rfl; first | assumption) | (split <;> try dsimp only))

theorem State.cellWrite_keeps {pm : Parts} {st0 : State} {s : State} {h : Nat} {w : Nat} {d : Dword} {p : Party} (hk0 : Keeps pm st0 s) (p_mem :
    pm.mem = true := by assumption) (p_hives : pm.hives = true := by assumption) (p_err : pm.err = true := by assumption) : Keeps pm st0
    (State.cellWrite s h w d p) := by
  unfold State.cellWrite
  try dsimp only
  with_reducible repeat' (first | assumption | apply State.queuePass_keeps | apply State.setSync_keeps | (split <;> try dsimp only))

theorem State.setBarrier_keeps {pm : Parts} {st0 : State} {s : State} {h : Nat} {b : Nat} {x : Barrier} (hk0 : Keeps pm st0 s) (p_mem : pm.mem = true
    := by assumption) (p_hives : pm.hives = true := by assumption) : Keeps pm st0 (State.setBarrier s h b x) := by
  unfold State.setBarrier
  exact Keeps.mem hk0 (fun w => ⟨w.1, Tbl.wf_eraseEach _ _ _ (fun j => (s.barrier h b).word j = x.word j) (fun j => 8192 * h + 8064 + 4 * b + j) w.2.1, w.2.2⟩) rfl

theorem State.barrierLog_keeps {pm : Parts} {st0 : State} {s : State} {code : Nat} {h : Nat} {b : Nat} {p : Nat} {disc : Nat} {src : Party} (hk0 :
    Keeps pm st0 s) (p_hives : pm.hives = true := by assumption) (p_err : pm.err = true := by assumption) (p_trace : pm.trace = true := by assumption)
    (p_mgmt : pm.mgmt = true := by assumption) : Keeps pm st0 (State.barrierLog s code h b p disc src) := by
  unfold State.barrierLog
  try dsimp only
  with_reducible repeat' (first | assumption | apply State.faultAt_keeps | (split <;> try dsimp only))

theorem State.arrive_keeps {pm : Parts} {st0 : State} {s : State} {h : Nat} {b : Nat} {p : Nat} {src : Party} (hk0 : Keeps pm st0 s) (p_mem : pm.mem =
    true := by assumption) (p_hives : pm.hives = true := by assumption) (p_err : pm.err = true := by assumption) (p_trace : pm.trace = true := by
    assumption) (p_mgmt : pm.mgmt = true := by assumption) : Keeps pm st0 (State.arrive s h b p src) := by
  unfold State.arrive
  try dsimp only
  with_reducible repeat' (first | assumption | apply State.barrierLog_keeps | apply State.setBarrier_keeps | apply State.traceGen_keeps
                                | apply State.queuePass_keeps | apply Keeps.ite | apply Keeps.foldl | refine Keeps.foldlP ?_ ?_
                                | (intro _ _ _; try dsimp only) | (split <;> try dsimp only))

theorem State.maskWrite_keeps {pm : Parts} {st0 : State} {s : State} {h : Nat} {b : Nat} {d : Dword} (hk0 : Keeps pm st0 s) (p_mem : pm.mem = true :=
    by assumption) (p_hives : pm.hives = true := by assumption) : Keeps pm st0 (State.maskWrite s h b d) := by
  unfold State.maskWrite
  dsimp only
  split
  · with_reducible exact Keeps.mem (State.setBarrier_keeps hk0) Mem.wf_eraseSync rfl
  · exact hk0

theorem State.setSyncRaw_keeps {pm : Parts} {st0 : State} {s : State} {h : Nat} {w : Nat} {d : Dword} {c : Byte} (hk0 : Keeps pm st0 s) (p_mem :
    pm.mem = true := by assumption) (p_hives : pm.hives = true := by assumption) : Keeps pm st0 (State.setSyncRaw s h w d c) := by
  unfold State.setSyncRaw
  dsimp only
  split
  · with_reducible exact Keeps.mem hk0 Mem.wf_setSync rfl
  · with_reducible exact Keeps.mem (State.setBarrier_keeps hk0) Mem.wf_setSync rfl

theorem Keeps.iteSync {pm : Parts} {st0 : State} {s t : SyncOut} {c : Prop} [Decidable c] (h : Keeps pm st0 s.s) (k : Keeps pm st0 t.s) :
    Keeps pm st0 (if c then s else t).s := by
  split <;> assumption

theorem State.syncAccess_keeps {pm : Parts} {st0 s : State} {x : Xact} {h w : Nat} {m : Byte} {d : Dword} (hk0 : Keeps pm st0 s)
    (p_mem : pm.mem = true := by assumption) (p_hives : pm.hives = true := by assumption) (p_err : pm.err = true := by assumption)
    (p_trace : pm.trace = true := by assumption) (p_count : pm.count = true := by assumption) (p_mgmt : pm.mgmt = true := by assumption) :
    Keeps pm st0 (s.syncAccess x h w m d).s := by
  unfold State.syncAccess
  generalize decodeGran (s.syncRaw h w).data (s.syncRaw h w).chk = dec
  cases dec <;> dsimp only
  all_goals with_reducible repeat' (first | assumption | apply State.found_keeps | apply State.cellWrite_keeps | apply State.arrive_keeps
                                          | apply State.maskWrite_keeps | apply Keeps.ite | (apply Keeps.iteSync <;> try dsimp only)
                                          | (split <;> try dsimp only))

end Sys2Proof.Machine
end

