-- ==== Sys2Proof/Laws/KeepForward.lean ====
section
/-!
SUPPORT. KeepForward.lean: each operation of Machine/Forward.lean keeps: the invariant, the queue, and every part of the state that no hypothesis names.
-/
namespace Sys2Proof.Machine
set_option Elab.async false

theorem State.drawIdx_keeps {pm : Parts} {st0 : State} {s : State} {k : Nat} {chip : Nat} (hk0 : Keeps pm st0 s) (p_fxps : pm.fxps = true := by
    assumption) : Keeps pm st0 (State.drawIdx s k chip).2 := by
  unfold State.drawIdx
  try dsimp only
  with_reducible repeat' (first | assumption | (refine Keeps.lit ?_ rfl; first | assumption) | (split <;> try dsimp only))

theorem State.sendFrame_keeps {pm : Parts} {st0 : State} {s : State} {kind : Nat} {f : Frame} (hk0 : Keeps pm st0 s) (p_fxps : pm.fxps = true := by
    assumption) (p_power : pm.power = true := by assumption) : Keeps pm st0 (State.sendFrame s kind f) := by
  unfold State.sendFrame
  try dsimp only
  with_reducible repeat' (first | assumption | apply State.drawIdx_keeps | apply State.pev_keeps | apply Keeps.ite
                                | (refine Keeps.ofSnd (by assumption) ?_)
                                | (refine Keeps.lit ?_ rfl; first | assumption | apply State.drawIdx_keeps | apply State.pev_keeps | apply Keeps.ite | (refine Keeps.ofSnd (by assumption) ?_))
                                | (split <;> try dsimp only))

theorem State.sendM_keeps {pm : Parts} {st0 : State} {s : State} {kind : Nat} {f : MFrame} (hk0 : Keeps pm st0 s) (p_sched : pm.sched = true := by
    assumption) (p_fxps : pm.fxps = true := by assumption) (p_power : pm.power = true := by assumption) (p_count : pm.count = true := by assumption) :
    Keeps pm st0 (State.sendM s kind f) := by
  unfold State.sendM
  try dsimp only
  with_reducible repeat' (first | assumption | apply State.account_keeps | apply State.drawIdx_keeps | apply State.pev_keeps | apply State.cadd_keeps
                                | apply Keeps.ite | (refine Keeps.ofSnd (by assumption) ?_)
                                | (refine Keeps.lit ?_ rfl; first | assumption | apply State.account_keeps | apply State.drawIdx_keeps | apply State.pev_keeps | apply State.cadd_keeps | apply Keeps.ite | (refine Keeps.ofSnd (by assumption) ?_))
                                | (split <;> try dsimp only))

theorem State.offerM_keeps {pm : Parts} {st0 : State} {s : State} {kind : Nat} {f : MFrame} (hk0 : Keeps pm st0 s) (p_sched : pm.sched = true := by
    assumption) (p_fxps : pm.fxps = true := by assumption) (p_mirror : pm.mirror = true := by assumption) (p_power : pm.power = true := by assumption)
    (p_count : pm.count = true := by assumption) : Keeps pm st0 (State.offerM s kind f) := by
  unfold State.offerM
  try dsimp only
  with_reducible repeat' (first | assumption | apply State.sendM_keeps | apply Keeps.ite
                                | (refine Keeps.lit ?_ rfl; first | assumption | apply State.sendM_keeps | apply Keeps.ite)
                                | (split <;> try dsimp only))

theorem State.sendHeld_keeps {pm : Parts} {st0 : State} {a0 : Nat} {a1 : State} (hk0 : Keeps pm st0 a1) (p_sched : pm.sched = true := by assumption)
    (p_fxps : pm.fxps = true := by assumption) (p_mirror : pm.mirror = true := by assumption) (p_power : pm.power = true := by assumption) (p_count :
    pm.count = true := by assumption) : Keeps pm st0 (State.sendHeld a0 a1) := by
  induction a0 generalizing a1 with
  | zero =>
    unfold State.sendHeld
    try dsimp only
    with_reducible repeat' (first | assumption | apply State.sendM_keeps | apply ih | apply Keeps.ite
                                  | (refine Keeps.lit ?_ rfl; first | assumption | apply State.sendM_keeps | apply ih | apply Keeps.ite)
                                  | (split <;> try dsimp only))
  | succ n ih =>
    unfold State.sendHeld
    try dsimp only
    with_reducible repeat' (first | assumption | apply State.sendM_keeps | apply ih | apply Keeps.ite
                                  | (refine Keeps.lit ?_ rfl; first | assumption | apply State.sendM_keeps | apply ih | apply Keeps.ite)
                                  | (split <;> try dsimp only))

theorem State.setRegion_keeps {pm : Parts} {st0 : State} {s : State} {i : Nat} {q : Quad} (hk0 : Keeps pm st0 s) (p_mirror : pm.mirror = true := by
    assumption) : Keeps pm st0 (State.setRegion s i q) := by
  unfold State.setRegion
  try dsimp only
  with_reducible repeat' (first | assumption | (refine Keeps.lit ?_ rfl; first | assumption) | (split <;> try dsimp only))

theorem State.setReserve_keeps {pm : Parts} {st0 : State} {s : State} {i : Nat} {q : Quad} (hk0 : Keeps pm st0 s) (p_mirror : pm.mirror = true := by
    assumption) : Keeps pm st0 (State.setReserve s i q) := by
  unfold State.setReserve
  try dsimp only
  with_reducible repeat' (first | assumption | (refine Keeps.lit ?_ rfl; first | assumption) | (split <;> try dsimp only))

theorem State.sendSeq_keeps {pm : Parts} {st0 : State} {s : State} {kind : Nat} {region : Nat} {op : Nat} {flags : Nat} {off : Nat} {mask : Dword}
    {payload : List Line} {w : List MWait} {async : Bool} (hk0 : Keeps pm st0 s) (p_sched : pm.sched = true := by assumption) (p_fxps : pm.fxps = true
    := by assumption) (p_mirror : pm.mirror = true := by assumption) (p_power : pm.power = true := by assumption) (p_count : pm.count = true := by
    assumption) : Keeps pm st0 (State.sendSeq s kind region op flags off mask payload w async) := by
  unfold State.sendSeq
  try dsimp only
  with_reducible repeat' (first | assumption | apply State.offerM_keeps | apply Keeps.ite
                                | (refine Keeps.lit ?_ rfl; first | assumption | apply State.offerM_keeps | apply Keeps.ite)
                                | (split <;> try dsimp only))

theorem State.sendCopy_keeps {pm : Parts} {st0 : State} {s : State} {x : Xact} (hk0 : Keeps pm st0 s) (p_sched : pm.sched = true := by assumption)
    (p_fxps : pm.fxps = true := by assumption) (p_mirror : pm.mirror = true := by assumption) (p_power : pm.power = true := by assumption) (p_count :
    pm.count = true := by assumption) : Keeps pm st0 (State.sendCopy s x) := by
  unfold State.sendCopy
  try dsimp only
  with_reducible repeat' (first | assumption | apply State.sendSeq_keeps | apply Keeps.ite | (split <;> try dsimp only))

theorem State.putCopy_keeps {pm : Parts} {st0 : State} {s : State} {x : Xact} (hk0 : Keeps pm st0 s) (p_flight : pm.flight = true := by assumption)
    (p_nextId : pm.nextId = true := by assumption) (p_sched : pm.sched = true := by assumption) (p_fxps : pm.fxps = true := by assumption) (p_mirror :
    pm.mirror = true := by assumption) (p_power : pm.power = true := by assumption) (p_count : pm.count = true := by assumption) : Keeps pm st0
    (State.putCopy s x) := by
  unfold State.putCopy
  try dsimp only
  with_reducible repeat' (first | assumption | apply State.sendCopy_keeps | apply State.addX_keeps | apply Keeps.ite | (split <;> try dsimp only))

theorem State.drainCopies_keeps {pm : Parts} {st0 : State} {a0 : Nat} {a1 : State} (hk0 : Keeps pm st0 a1) (p_flight : pm.flight = true := by
    assumption) (p_sched : pm.sched = true := by assumption) (p_fxps : pm.fxps = true := by assumption) (p_mirror : pm.mirror = true := by assumption)
    (p_power : pm.power = true := by assumption) (p_count : pm.count = true := by assumption) : Keeps pm st0 (State.drainCopies a0 a1) := by
  induction a0 generalizing a1 with
  | zero =>
    unfold State.drainCopies
    try dsimp only
    with_reducible repeat' (first | assumption | apply State.dropX_keeps | apply State.sendCopy_keeps | apply ih | apply Keeps.ite
                                  | (split <;> try dsimp only))
  | succ n ih =>
    unfold State.drainCopies
    try dsimp only
    with_reducible repeat' (first | assumption | apply State.dropX_keeps | apply State.sendCopy_keeps | apply ih | apply Keeps.ite
                                  | (split <;> try dsimp only))

theorem State.forward_keeps {pm : Parts} {st0 : State} {s : State} {u : Nat} {x : Xact} {kind : AccKind} {mask : Dword} {line : Line} (hk0 : Keeps pm
    st0 s) (p_flight : pm.flight = true := by assumption) (p_nextId : pm.nextId = true := by assumption) (p_sched : pm.sched = true := by assumption)
    (p_fxps : pm.fxps = true := by assumption) (p_err : pm.err = true := by assumption) (p_mirror : pm.mirror = true := by assumption) (p_power :
    pm.power = true := by assumption) (p_trace : pm.trace = true := by assumption) (p_count : pm.count = true := by assumption) (p_mgmt : pm.mgmt =
    true := by assumption) : Keeps pm st0 (State.forward s u x kind mask line) := by
  unfold State.forward
  try dsimp only
  with_reducible repeat' (first | assumption | apply State.setRegion_keeps | apply State.raise_keeps | apply State.putCopy_keeps | apply Keeps.ite
                                | (refine Keeps.lit ?_ rfl; first | assumption | apply State.setRegion_keeps | apply State.raise_keeps | apply State.putCopy_keeps | apply Keeps.ite)
                                | (split <;> try dsimp only))

theorem State.copyTouched_keeps {pm : Parts} {st0 : State} {s : State} {ga : Nat} (hk0 : Keeps pm st0 s) (p_mirror : pm.mirror = true := by
    assumption) : Keeps pm st0 (State.copyTouched s ga) := by
  unfold State.copyTouched
  try dsimp only
  with_reducible repeat' (first | assumption | apply Keeps.ite | (refine Keeps.lit ?_ rfl; first | assumption | apply Keeps.ite)
                                | (split <;> try dsimp only))

end Sys2Proof.Machine
end

