-- ==== Sys2Proof/Laws/KeepIssue.lean ====
section
/-!
SUPPORT. KeepIssue.lean: each operation of Machine/Issue.lean keeps: the invariant, the queue, and every part of the state that no hypothesis names.
-/
namespace Sys2Proof.Machine
set_option Elab.async false

theorem State.occupy_keeps {pm : Parts} {st0 : State} {s : State} {k : Nat} {n : Nat} (hk0 : Keeps pm st0 s) (p_hives : pm.hives = true := by
    assumption) : Keeps pm st0 (State.occupy s k n) := by
  unfold State.occupy
  try dsimp only
  with_reducible repeat' (first | assumption | (refine Keeps.lit ?_ rfl; first | assumption) | (split <;> try dsimp only))

theorem State.active_keeps {pm : Parts} {st0 : State} {s : State} {h : Nat} (hk0 : Keeps pm st0 s) (p_hives : pm.hives = true := by assumption) :
    Keeps pm st0 (State.active s h) := by
  unfold State.active
  try dsimp only
  with_reducible repeat' (first | assumption | (refine Keeps.lit ?_ rfl; first | assumption) | (split <;> try dsimp only))

theorem State.wakeHive_keeps {pm : Parts} {st0 : State} {s : State} {h : Nat} (hk0 : Keeps pm st0 s) (p_hives : pm.hives = true := by assumption) :
    Keeps pm st0 (State.wakeHive s h) := by
  unfold State.wakeHive
  try dsimp only
  with_reducible repeat' (first | assumption | apply State.active_keeps | apply Keeps.ite
                                | (refine Keeps.lit ?_ rfl; first | assumption | apply State.active_keeps | apply Keeps.ite)
                                | (split <;> try dsimp only))

theorem State.sbAdd_keeps {pm : Parts} {st0 : State} {s : State} {h : Nat} {port : Nat} {chan : Nat} {desc : Nat} {ctx : Nat} {lo : Nat} {hi : Nat}
    (hk0 : Keeps pm st0 s) (p_nextId : pm.nextId = true := by assumption) (p_hives : pm.hives = true := by assumption) : Keeps pm st0 (State.sbAdd s h
    port chan desc ctx lo hi) := by
  unfold State.sbAdd
  try dsimp only
  with_reducible repeat' (first | assumption | (refine Keeps.lit ?_ rfl; first | assumption) | (split <;> try dsimp only))

theorem State.sbDrop_keeps {pm : Parts} {st0 : State} {s : State} {id : Nat} (hk0 : Keeps pm st0 s) (p_hives : pm.hives = true := by assumption) :
    Keeps pm st0 (State.sbDrop s id) := by
  unfold State.sbDrop
  try dsimp only
  with_reducible repeat' (first | assumption | apply Keeps.ite | (refine Keeps.lit ?_ rfl; first | assumption | apply Keeps.ite)
                                | (split <;> try dsimp only))

theorem State.sbPort_keeps {pm : Parts} {st0 : State} {s : State} {x : Xact} (hk0 : Keeps pm st0 s) (p_nextId : pm.nextId = true := by assumption)
    (p_hives : pm.hives = true := by assumption) : Keeps pm st0 (State.sbPort s x) := by
  unfold State.sbPort
  try dsimp only
  with_reducible repeat' (first | assumption | apply State.sbAdd_keeps | apply Keeps.ite | apply Keeps.foldl | refine Keeps.foldlP ?_ ?_
                                | (intro _ _ _; try dsimp only) | (split <;> try dsimp only))

theorem State.setRing_keeps {pm : Parts} {st0 : State} {s : State} {h : Nat} {i : Nat} {r : Ring} (hk0 : Keeps pm st0 s) (p_hives : pm.hives = true :=
    by assumption) : Keeps pm st0 (State.setRing s h i r) := by
  unfold State.setRing
  try dsimp only
  with_reducible repeat' (first | assumption | (refine Keeps.lit ?_ rfl; first | assumption) | (split <;> try dsimp only))

theorem State.setFull_keeps {pm : Parts} {st0 : State} {s : State} {h : Nat} {i : Nat} {n : Nat} {v : Bool} {p : Party} (hk0 : Keeps pm st0 s)
    (p_hives : pm.hives = true := by assumption) : Keeps pm st0 (State.setFull s h i n v p) := by
  unfold State.setFull
  try dsimp only
  with_reducible repeat' (first | assumption | apply State.setRing_keeps | apply Keeps.ite | (split <;> try dsimp only))

theorem State.ringClose_keeps {pm : Parts} {st0 : State} {s : State} (hk0 : Keeps pm st0 s) (p_hives : pm.hives = true := by assumption) : Keeps pm
    st0 (State.ringClose s) := by
  unfold State.ringClose
  try dsimp only
  with_reducible repeat' (first | assumption | apply State.setFull_keeps | apply Keeps.ite | apply Keeps.foldl | refine Keeps.foldlP ?_ ?_
                                | (refine Keeps.lit ?_ rfl; first | assumption | apply State.setFull_keeps | apply Keeps.ite | apply Keeps.foldl)
                                | (intro _ _ _; try dsimp only) | (split <;> try dsimp only))

theorem State.ringDone_keeps {pm : Parts} {st0 : State} {s : State} {x : Xact} (hk0 : Keeps pm st0 s) (p_hives : pm.hives = true := by assumption) :
    Keeps pm st0 (State.ringDone s x) := by
  unfold State.ringDone
  try dsimp only
  with_reducible repeat' (first | assumption | apply State.ringClose_keeps | apply State.setFull_keeps | apply Keeps.ite
                                | (refine Keeps.lit ?_ rfl; first | assumption | apply State.ringClose_keeps | apply State.setFull_keeps | apply Keeps.ite)
                                | (split <;> try dsimp only))

theorem State.refused_keeps {pm : Parts} {st0 : State} {s : State} {code : Nat} {unit : Nat} {x : Xact} (hk0 : Keeps pm st0 s) (p_hives : pm.hives =
    true := by assumption) (p_err : pm.err = true := by assumption) (p_trace : pm.trace = true := by assumption) (p_count : pm.count = true := by
    assumption) (p_mgmt : pm.mgmt = true := by assumption) : Keeps pm st0 (State.refused s code unit x) := by
  unfold State.refused
  try dsimp only
  with_reducible repeat' (first | assumption | apply State.faultAccess_keeps | apply State.faultAt_keeps | apply State.last64_keeps | apply Keeps.ite
                                | (refine Keeps.lit ?_ rfl; first | assumption | apply State.faultAccess_keeps | apply State.faultAt_keeps | apply State.last64_keeps | apply Keeps.ite)
                                | (split <;> try dsimp only))

theorem State.bounce_keeps {pm : Parts} {st0 : State} {s : State} {x : Xact} {code : Nat} (hk0 : Keeps pm st0 s) (p_flight : pm.flight = true := by
    assumption) : Keeps pm st0 (State.bounce s x code) := by
  unfold State.bounce
  try dsimp only
  with_reducible repeat' (first | assumption | apply State.setX_keeps | (split <;> try dsimp only))

theorem State.refuseLocal_keeps {pm : Parts} {st0 : State} {s : State} {x : Xact} {code : Nat} (hk0 : Keeps pm st0 s) (p_flight : pm.flight = true :=
    by assumption) (p_hives : pm.hives = true := by assumption) (p_err : pm.err = true := by assumption) (p_trace : pm.trace = true := by assumption)
    (p_count : pm.count = true := by assumption) (p_mgmt : pm.mgmt = true := by assumption) : Keeps pm st0 (State.refuseLocal s x code) := by
  unfold State.refuseLocal
  try dsimp only
  with_reducible repeat' (first | assumption | apply State.bounce_keeps | apply State.refused_keeps | (split <;> try dsimp only))

theorem State.countReq_keeps {pm : Parts} {st0 : State} {s : State} {x : Xact} (hk0 : Keeps pm st0 s) (p_count : pm.count = true := by assumption) :
    Keeps pm st0 (State.countReq s x) := by
  unfold State.countReq
  try dsimp only
  with_reducible repeat' (first | assumption | apply State.ctxAdd_keeps | apply Keeps.ite | (split <;> try dsimp only))

theorem State.present_keeps {pm : Parts} {st0 : State} {s : State} {x : Xact} (hk0 : Keeps pm st0 s) (p_flight : pm.flight = true := by assumption)
    (p_hives : pm.hives = true := by assumption) (p_count : pm.count = true := by assumption) : Keeps pm st0 (State.present s x) := by
  unfold State.present
  try dsimp only
  with_reducible repeat' (first | assumption | apply State.countReq_keeps | apply State.wakeHive_keeps | apply State.setX_keeps | apply Keeps.ite
                                | (split <;> try dsimp only))

theorem State.schedJudge_keeps {pm : Parts} {st0 : State} {s : State} {x : Xact} {whole : Bool} (hk0 : Keeps pm st0 s) (p_sched : pm.sched = true :=
    by assumption) (p_hives : pm.hives = true := by assumption) (p_err : pm.err = true := by assumption) (p_trace : pm.trace = true := by assumption)
    (p_mgmt : pm.mgmt = true := by assumption) : Keeps pm st0 (State.schedJudge s x whole).1 := by
  unfold State.schedJudge
  try dsimp only
  with_reducible repeat' (first | assumption | apply State.mismatch_keeps | apply Keeps.ite | (apply Keeps.iteFst <;> try dsimp only)
                                | (split <;> try dsimp only))

theorem State.issueMiss_keeps {pm : Parts} {st0 : State} {s : State} {x : Xact} {cause : Nat} {late : Nat} (hk0 : Keeps pm st0 s) (p_sched : pm.sched
    = true := by assumption) (p_hives : pm.hives = true := by assumption) (p_err : pm.err = true := by assumption) (p_trace : pm.trace = true := by
    assumption) (p_count : pm.count = true := by assumption) (p_mgmt : pm.mgmt = true := by assumption) : Keeps pm st0 (State.issueMiss s x cause
    late).1 := by
  unfold State.issueMiss
  try dsimp only
  with_reducible repeat' (first | assumption | apply State.slotMiss_keeps | apply Keeps.ite | (apply Keeps.iteFst <;> try dsimp only)
                                | (split <;> try dsimp only))

theorem State.schedIssue_keeps {pm : Parts} {st0 : State} {s : State} {x : Xact} (hk0 : Keeps pm st0 s) (p_sched : pm.sched = true := by assumption)
    (p_hives : pm.hives = true := by assumption) (p_err : pm.err = true := by assumption) (p_trace : pm.trace = true := by assumption) (p_count :
    pm.count = true := by assumption) (p_mgmt : pm.mgmt = true := by assumption) : Keeps pm st0 (State.schedIssue s x).1 := by
  unfold State.schedIssue
  try dsimp only
  with_reducible repeat' (first | assumption | apply State.issueMiss_keeps | apply Keeps.ite | (refine Keeps.ofFst (by assumption) ?_)
                                | (apply Keeps.iteFst <;> try dsimp only) | (split <;> try dsimp only))

theorem State.stallAt_keeps {pm : Parts} {st0 : State} {s : State} {x : Xact} {st : Stage} {by_ : Nat} (hk0 : Keeps pm st0 s) (p_flight : pm.flight =
    true := by assumption) (p_hives : pm.hives = true := by assumption) : Keeps pm st0 (State.stallAt s x st by_) := by
  unfold State.stallAt
  try dsimp only
  with_reducible repeat' (first | assumption | apply State.setX_keeps | apply State.active_keeps | (split <;> try dsimp only))

theorem State.stallMiss_keeps {pm : Parts} {st0 : State} {s : State} {x : Xact} {cause : Nat} (hk0 : Keeps pm st0 s) (p_sched : pm.sched = true := by
    assumption) (p_hives : pm.hives = true := by assumption) (p_err : pm.err = true := by assumption) (p_trace : pm.trace = true := by assumption)
    (p_count : pm.count = true := by assumption) (p_mgmt : pm.mgmt = true := by assumption) : Keeps pm st0 (State.stallMiss s x cause).1 := by
  unfold State.stallMiss
  try dsimp only
  with_reducible repeat' (first | assumption | apply State.issueMiss_keeps | apply Keeps.ite | (refine Keeps.ofFst (by assumption) ?_)
                                | (apply Keeps.iteFst <;> try dsimp only) | (split <;> try dsimp only))

theorem State.issue_keeps {pm : Parts} {st0 : State} {s : State} {x : Xact} {whole : Bool} (hk0 : Keeps pm st0 s) (p_flight : pm.flight = true := by
    assumption) (p_nextId : pm.nextId = true := by assumption) (p_sched : pm.sched = true := by assumption) (p_hives : pm.hives = true := by
    assumption) (p_err : pm.err = true := by assumption) (p_trace : pm.trace = true := by assumption) (p_count : pm.count = true := by assumption)
    (p_mgmt : pm.mgmt = true := by assumption) : Keeps pm st0 (State.issue s x whole) := by
  unfold State.issue
  try dsimp only
  with_reducible repeat' (first | assumption | apply State.refuseLocal_keeps | apply State.schedJudge_keeps | apply State.stallMiss_keeps
                                | apply State.stallAt_keeps | apply State.schedIssue_keeps | apply State.sbPort_keeps | apply State.present_keeps
                                | apply Keeps.ite | (refine Keeps.ofFst (by assumption) ?_) | (apply Keeps.iteFst <;> try dsimp only)
                                | (split <;> try dsimp only))

theorem State.issueAll_keeps {pm : Parts} {st0 : State} {s : State} {ids : List Nat} {whole : Bool} (hk0 : Keeps pm st0 s) (p_flight : pm.flight =
    true := by assumption) (p_nextId : pm.nextId = true := by assumption) (p_sched : pm.sched = true := by assumption) (p_hives : pm.hives = true :=
    by assumption) (p_err : pm.err = true := by assumption) (p_trace : pm.trace = true := by assumption) (p_count : pm.count = true := by assumption)
    (p_mgmt : pm.mgmt = true := by assumption) : Keeps pm st0 (State.issueAll s ids whole) := by
  unfold State.issueAll
  try dsimp only
  with_reducible repeat' (first | assumption | apply State.issue_keeps | apply Keeps.foldl | refine Keeps.foldlP ?_ ?_ | (intro _ _ _; try dsimp only)
                                | (split <;> try dsimp only))

theorem State.answerMesh_keeps {pm : Parts} {st0 : State} {s : State} {x : Xact} {unit : Nat} {wait : Nat} (hk0 : Keeps pm st0 s) (p_flight :
    pm.flight = true := by assumption) : Keeps pm st0 (State.answerMesh s x unit wait) := by
  unfold State.answerMesh
  try dsimp only
  with_reducible repeat' (first | assumption | apply State.setX_keeps | apply Keeps.ite | (split <;> try dsimp only))

theorem State.answer_keeps {pm : Parts} {st0 : State} {s : State} {x : Xact} {unit : Nat} {grant : Nat} (hk0 : Keeps pm st0 s) (p_flight : pm.flight =
    true := by assumption) : Keeps pm st0 (State.answer s x unit grant) := by
  unfold State.answer
  try dsimp only
  with_reducible repeat' (first | assumption | apply State.setX_keeps | apply State.answerMesh_keeps | apply Keeps.ite | (split <;> try dsimp only))

theorem State.fromEdge_keeps {pm : Parts} {st0 : State} {s : State} {x : Xact} (hk0 : Keeps pm st0 s) (p_flight : pm.flight = true := by assumption) :
    Keeps pm st0 (State.fromEdge s x) := by
  unfold State.fromEdge
  try dsimp only
  with_reducible repeat' (first | assumption | apply State.setX_keeps | (split <;> try dsimp only))

theorem State.extentWrite_keeps {pm : Parts} {st0 : State} {s : State} {u : Nat} {ga : Nat} {d : Line} {p : Purpose} (hk0 : Keeps pm st0 s) (p_flight
    : pm.flight = true := by assumption) (p_nextId : pm.nextId = true := by assumption) : Keeps pm st0 (State.extentWrite s u ga d p) := by
  unfold State.extentWrite
  try dsimp only
  with_reducible repeat' (first | assumption | apply State.addX_keeps | apply State.setX_keeps | apply State.fromEdge_keeps | apply Keeps.ite
                                | (split <;> try dsimp only))

theorem State.postCell_keeps {pm : Parts} {st0 : State} {s : State} {u : Nat} {ga : Nat} {kind : AccKind} {data : Dword} {p : Party} (hk0 : Keeps pm
    st0 s) (p_flight : pm.flight = true := by assumption) (p_nextId : pm.nextId = true := by assumption) (p_hives : pm.hives = true := by assumption)
    (p_count : pm.count = true := by assumption) : Keeps pm st0 (State.postCell s u ga kind data p) := by
  unfold State.postCell
  try dsimp only
  with_reducible repeat' (first | assumption | apply State.addX_keeps | apply State.setX_keeps | apply State.wakeHive_keeps
                                | apply State.present_keeps | apply State.fromEdge_keeps | apply Keeps.ite | (split <;> try dsimp only))

theorem State.addCell_keeps {pm : Parts} {st0 : State} {s : State} {cell : Nat} {p : Party} (hk0 : Keeps pm st0 s) (p_flight : pm.flight = true := by
    assumption) (p_nextId : pm.nextId = true := by assumption) (p_hives : pm.hives = true := by assumption) (p_count : pm.count = true := by
    assumption) : Keeps pm st0 (State.addCell s cell p) := by
  unfold State.addCell
  try dsimp only
  with_reducible repeat' (first | assumption | apply State.postCell_keeps | apply Keeps.ite | (split <;> try dsimp only))

theorem State.refuseAt_keeps {pm : Parts} {st0 : State} {s : State} {x : Xact} {unit : Nat} {code : Nat} (hk0 : Keeps pm st0 s) (p_flight : pm.flight
    = true := by assumption) (p_hives : pm.hives = true := by assumption) (p_err : pm.err = true := by assumption) (p_trace : pm.trace = true := by
    assumption) (p_count : pm.count = true := by assumption) (p_mgmt : pm.mgmt = true := by assumption) : Keeps pm st0 (State.refuseAt s x unit code)
    := by
  unfold State.refuseAt
  try dsimp only
  with_reducible repeat' (first | assumption | apply State.answer_keeps | apply State.refused_keeps | (split <;> try dsimp only))

end Sys2Proof.Machine
end

