-- ==== Sys2Proof/Laws/KeepJournalOps.lean ====
section
/-!
SUPPORT. KeepJournalOps.lean: each operation of Machine/JournalOps.lean keeps: the invariant, the queue, and every part of the state that no hypothesis names.
-/
namespace Sys2Proof.Machine
set_option Elab.async false

theorem State.jWrite_keeps {pm : Parts} {st0 : State} {s : State} {seq : Nat} {e : BitVec 512} {next : JNext} (hk0 : Keeps pm st0 s) (p_flight :
    pm.flight = true := by assumption) (p_nextId : pm.nextId = true := by assumption) (p_sched : pm.sched = true := by assumption) (p_fxps : pm.fxps =
    true := by assumption) (p_mirror : pm.mirror = true := by assumption) (p_journal : pm.journal = true := by assumption) (p_power : pm.power = true
    := by assumption) (p_count : pm.count = true := by assumption) (p_mgmt : pm.mgmt = true := by assumption) : Keeps pm st0 (State.jWrite s seq e
    next) := by
  unfold State.jWrite
  try dsimp only
  with_reducible repeat' (first | assumption | apply State.extentWrite_keeps | apply State.notice_keeps | apply State.sendSeq_keeps | apply Keeps.ite
                                | (refine Keeps.lit ?_ rfl; first | assumption | apply State.extentWrite_keeps | apply State.notice_keeps | apply State.sendSeq_keeps | apply Keeps.ite)
                                | (split <;> try dsimp only))

theorem State.jAccept_keeps {pm : Parts} {st0 : State} {s : State} {c : JCmd} {next : JNext} (hk0 : Keeps pm st0 s) (p_flight : pm.flight = true := by
    assumption) (p_nextId : pm.nextId = true := by assumption) (p_sched : pm.sched = true := by assumption) (p_fxps : pm.fxps = true := by assumption)
    (p_mirror : pm.mirror = true := by assumption) (p_journal : pm.journal = true := by assumption) (p_power : pm.power = true := by assumption)
    (p_count : pm.count = true := by assumption) (p_mgmt : pm.mgmt = true := by assumption) : Keeps pm st0 (State.jAccept s c next) := by
  unfold State.jAccept
  try dsimp only
  with_reducible repeat' (first | assumption | apply State.jWrite_keeps | (refine Keeps.lit ?_ rfl; first | assumption | apply State.jWrite_keeps)
                                | (split <;> try dsimp only))

theorem State.jChange_keeps {pm : Parts} {st0 : State} {s : State} {seq : Nat} {st : Nat} {code : Nat} {next : JNext} (hk0 : Keeps pm st0 s) (p_flight
    : pm.flight = true := by assumption) (p_nextId : pm.nextId = true := by assumption) (p_sched : pm.sched = true := by assumption) (p_fxps : pm.fxps
    = true := by assumption) (p_mirror : pm.mirror = true := by assumption) (p_journal : pm.journal = true := by assumption) (p_power : pm.power =
    true := by assumption) (p_count : pm.count = true := by assumption) (p_mgmt : pm.mgmt = true := by assumption) : Keeps pm st0 (State.jChange s seq
    st code next) := by
  unfold State.jChange
  try dsimp only
  with_reducible repeat' (first | assumption | apply State.jWrite_keeps | (split <;> try dsimp only))

theorem State.jAdvance_keeps {pm : Parts} {st0 : State} {a0 : Nat} {a1 : State} (hk0 : Keeps pm st0 a1) (p_journal : pm.journal = true := by
    assumption) : Keeps pm st0 (State.jAdvance a0 a1) := by
  induction a0 generalizing a1 with
  | zero =>
    unfold State.jAdvance
    try dsimp only
    with_reducible repeat' (first | assumption | apply ih | apply Keeps.ite
                                  | (refine Keeps.lit ?_ rfl; first | assumption | apply ih | apply Keeps.ite) | (split <;> try dsimp only))
  | succ n ih =>
    unfold State.jAdvance
    try dsimp only
    with_reducible repeat' (first | assumption | apply ih | apply Keeps.ite
                                  | (refine Keeps.lit ?_ rfl; first | assumption | apply ih | apply Keeps.ite) | (split <;> try dsimp only))

theorem State.jSayFull_keeps {pm : Parts} {st0 : State} {s : State} (hk0 : Keeps pm st0 s) (p_err : pm.err = true := by assumption) (p_journal :
    pm.journal = true := by assumption) (p_trace : pm.trace = true := by assumption) (p_mgmt : pm.mgmt = true := by assumption) : Keeps pm st0
    (State.jSayFull s) := by
  unfold State.jSayFull
  try dsimp only
  with_reducible repeat' (first | assumption | apply State.raise_keeps | apply Keeps.ite
                                | (refine Keeps.lit ?_ rfl; first | assumption | apply State.raise_keeps | apply Keeps.ite)
                                | (split <;> try dsimp only))

end Sys2Proof.Machine
end

