-- ==== Sys2Proof/Laws/KeepYppOps.lean ====
section
/-!
SUPPORT. KeepYppOps.lean: each operation of Machine/YppOps.lean keeps: the invariant, the queue, and every part of the state that no hypothesis names.
-/
namespace Sys2Proof.Machine
set_option Elab.async false

theorem State.sendRsp_keeps {pm : Parts} {st0 : State} {s : State} {m : YMsg} (hk0 : Keeps pm st0 s) (p_mgmt : pm.mgmt = true := by assumption) :
    Keeps pm st0 (State.sendRsp s m) := by
  unfold State.sendRsp
  try dsimp only
  with_reducible repeat' (first | assumption | (refine Keeps.lit ?_ rfl; first | assumption) | (split <;> try dsimp only))

theorem State.respond_keeps {pm : Parts} {st0 : State} {s : State} {r : YReq} (hk0 : Keeps pm st0 s) (p_mgmt : pm.mgmt = true := by assumption) :
    Keeps pm st0 (State.respond s r) := by
  unfold State.respond
  try dsimp only
  with_reducible repeat' (first | assumption | apply State.sendRsp_keeps | (refine Keeps.lit ?_ rfl; first | assumption | apply State.sendRsp_keeps)
                                | (split <;> try dsimp only))

theorem State.setReq_keeps {pm : Parts} {st0 : State} {s : State} {r : YReq} (hk0 : Keeps pm st0 s) (p_mgmt : pm.mgmt = true := by assumption) : Keeps
    pm st0 (State.setReq s r) := by
  unfold State.setReq
  try dsimp only
  with_reducible repeat' (first | assumption | apply Keeps.ite | (refine Keeps.lit ?_ rfl; first | assumption | apply Keeps.ite)
                                | (split <;> try dsimp only))

theorem State.finish_keeps {pm : Parts} {st0 : State} {s : State} {n : Nat} {status : Nat} {ans : List Byte} {idx : Nat} (hk0 : Keeps pm st0 s)
    (p_flight : pm.flight = true := by assumption) (p_nextId : pm.nextId = true := by assumption) (p_sched : pm.sched = true := by assumption) (p_fxps
    : pm.fxps = true := by assumption) (p_mirror : pm.mirror = true := by assumption) (p_journal : pm.journal = true := by assumption) (p_power :
    pm.power = true := by assumption) (p_count : pm.count = true := by assumption) (p_mgmt : pm.mgmt = true := by assumption) : Keeps pm st0
    (State.finish s n status ans idx) := by
  unfold State.finish
  try dsimp only
  with_reducible repeat' (first | assumption | apply State.jChange_keeps | apply State.setReq_keeps | apply State.respond_keeps | apply Keeps.ite
                                | (split <;> try dsimp only))

theorem State.quenchAsk_keeps {pm : Parts} {st0 : State} {s : State} {source : Nat} {trig : Nat} {r : Nat} (hk0 : Keeps pm st0 s) (p_quench :
    pm.quench = true := by assumption) : Keeps pm st0 (State.quenchAsk s source trig r) := by
  unfold State.quenchAsk
  try dsimp only
  with_reducible repeat' (first | assumption | apply Keeps.ite | (refine Keeps.lit ?_ rfl; first | assumption | apply Keeps.ite)
                                | (split <;> try dsimp only))

theorem State.recInput_keeps {pm : Parts} {st0 : State} {s : State} {kind : Nat} {unit : Nat} {tag : Nat} {data : List Byte} {whole : Bool} (hk0 :
    Keeps pm st0 s) (p_err : pm.err = true := by assumption) (p_journal : pm.journal = true := by assumption) (p_trace : pm.trace = true := by
    assumption) (p_mgmt : pm.mgmt = true := by assumption) : Keeps pm st0 (State.recInput s kind unit tag data whole) := by
  unfold State.recInput
  try dsimp only
  with_reducible repeat' (first | assumption | apply State.raise_keeps | apply Keeps.ite
                                | (refine Keeps.lit ?_ rfl; first | assumption | apply State.raise_keeps | apply Keeps.ite)
                                | (split <;> try dsimp only))

theorem State.replayNext_keeps {pm : Parts} {st0 : State} {s : State} {e : RecE} {hash : BitVec 32} (hk0 : Keeps pm st0 s) (p_err : pm.err = true :=
    by assumption) (p_journal : pm.journal = true := by assumption) (p_trace : pm.trace = true := by assumption) (p_quench : pm.quench = true := by
    assumption) (p_mgmt : pm.mgmt = true := by assumption) : Keeps pm st0 (State.replayNext s e hash) := by
  unfold State.replayNext
  try dsimp only
  with_reducible repeat' (first | assumption | apply State.raise_keeps | apply State.quenchAsk_keeps | apply Keeps.ite
                                | (refine Keeps.lit ?_ rfl; first | assumption | apply State.raise_keeps | apply State.quenchAsk_keeps | apply Keeps.ite)
                                | (split <;> try dsimp only))

theorem State.inputGate_keeps {pm : Parts} {st0 : State} {s : State} {kind : Nat} {unit : Nat} {tag : Nat} {data : List Byte} {t0 : State} (hk0 :
    Keeps pm st0 s) (he : State.inputGate s kind unit tag data = some t0) (p_err : pm.err = true := by assumption) (p_journal : pm.journal = true :=
    by assumption) (p_trace : pm.trace = true := by assumption) (p_quench : pm.quench = true := by assumption) (p_mgmt : pm.mgmt = true := by
    assumption) : Keeps pm st0 t0 := by
  unfold State.inputGate at he
  try dsimp only at he
  repeat' (split at he)
  all_goals first | contradiction | (replace he := Option.some.inj he; first | cases he | skip) | skip
  all_goals (try dsimp only)
  all_goals with_reducible repeat' (first | assumption | apply State.replayNext_keeps | apply State.recInput_keeps | apply Keeps.ite
                                          | (split <;> try dsimp only))

end Sys2Proof.Machine
end

