-- ==== Sys2Proof/Laws/KeepCommit.lean ====
section
/-!
SUPPORT. KeepCommit.lean: each operation of Machine/Commit.lean keeps: the invariant, the queue, and every part of the state that no hypothesis names.
-/
namespace Sys2Proof.Machine
set_option Elab.async false

theorem State.commitEnd_keeps {pm : Parts} {st0 : State} {s : State} {result : Nat} (hk0 : Keeps pm st0 s) (p_flight : pm.flight = true := by
    assumption) (p_nextId : pm.nextId = true := by assumption) (p_sched : pm.sched = true := by assumption) (p_fxps : pm.fxps = true := by assumption)
    (p_mirror : pm.mirror = true := by assumption) (p_journal : pm.journal = true := by assumption) (p_power : pm.power = true := by assumption)
    (p_count : pm.count = true := by assumption) (p_mgmt : pm.mgmt = true := by assumption) : Keeps pm st0 (State.commitEnd s result) := by
  unfold State.commitEnd
  try dsimp only
  with_reducible repeat' (first | assumption | apply State.notice_keeps | apply State.finish_keeps | apply Keeps.ite
                                | (refine Keeps.lit ?_ rfl; first | assumption | apply State.notice_keeps | apply State.finish_keeps | apply Keeps.ite)
                                | (split <;> try dsimp only))

theorem State.commitGo_keeps {pm : Parts} {st0 : State} {s : State} {req : Option Nat} (hk0 : Keeps pm st0 s) (p_sched : pm.sched = true := by
    assumption) : Keeps pm st0 (State.commitGo s req) := by
  unfold State.commitGo
  try dsimp only
  with_reducible repeat' (first | assumption | apply Keeps.ite | (refine Keeps.lit ?_ rfl; first | assumption | apply Keeps.ite)
                                | (split <;> try dsimp only))

theorem execArbCommitGo_keeps {pm : Parts} {st0 : State} {v : BitVec 32} {s : State} (hk0 : Keeps pm st0 s) (p_sched : pm.sched = true := by
    assumption) : ∃ u0, execArbCommitGo v s = .next u0 ∧ Keeps pm st0 u0 := by
  unfold execArbCommitGo
  refine ⟨_, rfl, ?_⟩
  try dsimp only
  with_reducible repeat' (first | assumption | apply State.commitGo_keeps | apply Keeps.ite | (split <;> try dsimp only))

theorem execCommitChecksDone_keeps {pm : Parts} {st0 : State} {s : State} (hk0 : Keeps pm st0 s) (p_flight : pm.flight = true := by assumption)
    (p_nextId : pm.nextId = true := by assumption) (p_sched : pm.sched = true := by assumption) (p_fxps : pm.fxps = true := by assumption) (p_err :
    pm.err = true := by assumption) (p_mirror : pm.mirror = true := by assumption) (p_journal : pm.journal = true := by assumption) (p_power :
    pm.power = true := by assumption) (p_trace : pm.trace = true := by assumption) (p_count : pm.count = true := by assumption) (p_mgmt : pm.mgmt =
    true := by assumption) : ∃ u0, execCommitChecksDone s = .next u0 ∧ Keeps pm st0 u0 := by
  unfold execCommitChecksDone
  refine ⟨_, rfl, ?_⟩
  split
  · apply Keeps.ite hk0
    generalize s.firstInvalid = o
    rcases o with _ | ⟨p, i⟩
    · generalize s.firstOver.or _ = o
      cases o
      · with_reducible exact Keeps.lit hk0 rfl
      · exact State.commitEnd_keeps (State.raise_keeps hk0)
    · exact State.commitEnd_keeps (State.raise_keeps hk0)
  · exact hk0

theorem State.switchAll_keeps {pm : Parts} {st0 : State} {s : State} (hk0 : Keeps pm st0 s) (p_sched : pm.sched = true := by assumption) (p_count :
    pm.count = true := by assumption) (p_mgmt : pm.mgmt = true := by assumption) : Keeps pm st0 (State.switchAll s) := by
  unfold State.switchAll
  try dsimp only
  with_reducible repeat' (first | assumption | apply State.setAct_keeps | apply State.regrade_keeps | apply Keeps.foldl | refine Keeps.foldlP ?_ ?_
                                | (refine Keeps.lit ?_ rfl; first | assumption | apply State.setAct_keeps | apply State.regrade_keeps | apply Keeps.foldl)
                                | (intro _ _ _; try dsimp only) | (split <;> try dsimp only))

theorem execCommitSwitch_keeps {pm : Parts} {st0 : State} {s : State} (hk0 : Keeps pm st0 s) (p_flight : pm.flight = true := by assumption) (p_nextId
    : pm.nextId = true := by assumption) (p_sched : pm.sched = true := by assumption) (p_fxps : pm.fxps = true := by assumption) (p_mirror : pm.mirror
    = true := by assumption) (p_journal : pm.journal = true := by assumption) (p_power : pm.power = true := by assumption) (p_count : pm.count = true
    := by assumption) (p_mgmt : pm.mgmt = true := by assumption) : ∃ u0, execCommitSwitch s = .next u0 ∧ Keeps pm st0 u0 := by
  unfold execCommitSwitch
  refine ⟨_, rfl, ?_⟩
  try dsimp only
  with_reducible repeat' (first | assumption | apply State.commitEnd_keeps | apply State.switchAll_keeps | apply Keeps.ite
                                | (split <;> try dsimp only))

theorem execCommitNoEpoch_keeps {pm : Parts} {st0 : State} {s : State} (hk0 : Keeps pm st0 s) (p_flight : pm.flight = true := by assumption) (p_nextId
    : pm.nextId = true := by assumption) (p_sched : pm.sched = true := by assumption) (p_fxps : pm.fxps = true := by assumption) (p_err : pm.err =
    true := by assumption) (p_mirror : pm.mirror = true := by assumption) (p_journal : pm.journal = true := by assumption) (p_power : pm.power = true
    := by assumption) (p_trace : pm.trace = true := by assumption) (p_count : pm.count = true := by assumption) (p_mgmt : pm.mgmt = true := by
    assumption) : ∃ u0, execCommitNoEpoch s = .next u0 ∧ Keeps pm st0 u0 := by
  unfold execCommitNoEpoch
  refine ⟨_, rfl, ?_⟩
  try dsimp only
  with_reducible repeat' (first | assumption | apply State.commitEnd_keeps | apply State.raise_keeps | apply Keeps.ite | (split <;> try dsimp only))

theorem State.epochEdge_keeps {pm : Parts} {st0 : State} {s : State} (hk0 : Keeps pm st0 s) (p_sched : pm.sched = true := by assumption) (p_err :
    pm.err = true := by assumption) (p_trace : pm.trace = true := by assumption) (p_mgmt : pm.mgmt = true := by assumption) : Keeps pm st0
    (State.epochEdge s) := by
  unfold State.epochEdge
  try dsimp only
  with_reducible repeat' (first | assumption | apply State.raise_keeps | apply Keeps.ite
                                | (refine Keeps.lit ?_ rfl; first | assumption | apply State.raise_keeps | apply Keeps.ite)
                                | (split <;> try dsimp only))

theorem execEpochEdge_keeps {pm : Parts} {st0 : State} {s : State} (hk0 : Keeps pm st0 s) (p_sched : pm.sched = true := by assumption) (p_err : pm.err
    = true := by assumption) (p_journal : pm.journal = true := by assumption) (p_trace : pm.trace = true := by assumption) (p_mgmt : pm.mgmt = true :=
    by assumption) : ∃ u0, execEpochEdge s = .next u0 ∧ Keeps pm st0 u0 := by
  unfold execEpochEdge
  refine ⟨_, rfl, ?_⟩
  try dsimp only
  with_reducible repeat' (first | assumption | apply State.epochEdge_keeps | apply State.recInput_keeps | apply Keeps.ite
                                | (split <;> try dsimp only))

theorem State.reducedNow_keeps {pm : Parts} {st0 : State} {s : State} (hk0 : Keeps pm st0 s) (p_sched : pm.sched = true := by assumption) (p_count :
    pm.count = true := by assumption) (p_mgmt : pm.mgmt = true := by assumption) : Keeps pm st0 (State.reducedNow s) := by
  unfold State.reducedNow
  try dsimp only
  with_reducible repeat' (first | assumption | apply State.regrade_keeps | apply State.notice_keeps | apply Keeps.ite | apply Keeps.foldl
                                | refine Keeps.foldlP ?_ ?_
                                | (refine Keeps.lit ?_ rfl; first | assumption | apply State.regrade_keeps | apply State.notice_keeps | apply Keeps.ite | apply Keeps.foldl)
                                | (intro _ _ _; try dsimp only) | (split <;> try dsimp only))

theorem execEpochEnd_keeps {pm : Parts} {st0 : State} {s : State} (hk0 : Keeps pm st0 s) (p_sched : pm.sched = true := by assumption) : ∃ u0,
    execEpochEnd s = .next u0 ∧ Keeps pm st0 u0 := by
  unfold execEpochEnd
  refine ⟨_, rfl, ?_⟩
  try dsimp only
  with_reducible repeat' (first | assumption | apply Keeps.ite | (refine Keeps.lit ?_ rfl; first | assumption | apply Keeps.ite)
                                | (split <;> try dsimp only))

theorem execRegWindowBoundary_keeps {pm : Parts} {st0 : State} {s : State} (hk0 : Keeps pm st0 s) (p_sched : pm.sched = true := by assumption)
    (p_count : pm.count = true := by assumption) (p_mgmt : pm.mgmt = true := by assumption) : ∃ u0, execRegWindowBoundary s = .next u0 ∧ Keeps pm st0
    u0 := by
  unfold execRegWindowBoundary
  refine ⟨_, rfl, ?_⟩
  try dsimp only
  with_reducible repeat' (first | assumption | apply State.reducedNow_keeps | apply Keeps.ite
                                | (refine Keeps.lit ?_ rfl; first | assumption | apply State.reducedNow_keeps | apply Keeps.ite)
                                | (split <;> try dsimp only))

theorem State.capacityLoss_keeps {pm : Parts} {st0 : State} {s : State} {unit : Nat} {r : Nat} {old : Int} {reason : Nat} (hk0 : Keeps pm st0 s)
    (p_sched : pm.sched = true := by assumption) (p_err : pm.err = true := by assumption) (p_trace : pm.trace = true := by assumption) (p_mgmt :
    pm.mgmt = true := by assumption) : Keeps pm st0 (State.capacityLoss s unit r old reason) := by
  unfold State.capacityLoss
  try dsimp only
  with_reducible repeat' (first | assumption | apply State.raise_keeps | apply Keeps.ite | apply Keeps.foldl | refine Keeps.foldlP ?_ ?_
                                | (refine Keeps.lit ?_ rfl; first | assumption | apply State.raise_keeps | apply Keeps.ite | apply Keeps.foldl)
                                | (intro _ _ _; try dsimp only) | (split <;> try dsimp only))

theorem State.void_keeps {pm : Parts} {st0 : State} {s : State} {k : Nat} (hk0 : Keeps pm st0 s) (p_sched : pm.sched = true := by assumption) : Keeps
    pm st0 (State.void s k) := by
  unfold State.void
  try dsimp only
  with_reducible repeat' (first | assumption | (refine Keeps.lit ?_ rfl; first | assumption) | (split <;> try dsimp only))

end Sys2Proof.Machine
end

