-- ==== Sys2Proof/Laws/KeepPorts.lean ====
section
/-!
SUPPORT. KeepPorts.lean: each operation of Machine/Ports.lean keeps: the invariant, the queue, and every part of the state that no hypothesis names.
-/
namespace Sys2Proof.Machine
set_option Elab.async false

theorem State.addLines_keeps {pm : Parts} {st0 : State} {s : State} {base : Xact} {ls : List LineReq} (hk0 : Keeps pm st0 s) (p_flight : pm.flight =
    true := by assumption) (p_nextId : pm.nextId = true := by assumption) : Keeps pm st0 (State.addLines s base ls).1 := by
  unfold State.addLines
  try dsimp only
  with_reducible repeat' (first | assumption | apply State.addX_keeps | apply Keeps.foldl | refine Keeps.foldlP ?_ ?_ | (intro _ _ _; try dsimp only)
                                | (split <;> try dsimp only))

theorem State.portTake_keeps {pm : Parts} {st0 : State} {s : State} {h : Nat} {port : Nat} (hk0 : Keeps pm st0 s) (p_hives : pm.hives = true := by
    assumption) : Keeps pm st0 (State.portTake s h port) := by
  unfold State.portTake
  try dsimp only
  with_reducible repeat' (first | assumption | (refine Keeps.lit ?_ rfl; first | assumption) | (split <;> try dsimp only))

theorem execPortRequest_keeps {pm : Parts} {st0 : State} {h : HiveId} {r : PortReq} {s : State} (hk0 : Keeps pm st0 s) (p_flight : pm.flight = true :=
    by assumption) (p_nextId : pm.nextId = true := by assumption) (p_sched : pm.sched = true := by assumption) (p_hives : pm.hives = true := by
    assumption) (p_err : pm.err = true := by assumption) (p_trace : pm.trace = true := by assumption) (p_count : pm.count = true := by assumption)
    (p_mgmt : pm.mgmt = true := by assumption) : ∃ u0, execPortRequest h r s = .next u0 ∧ Keeps pm st0 u0 := by
  unfold execPortRequest
  refine ⟨_, rfl, ?_⟩
  try dsimp only
  with_reducible repeat' (first | assumption | apply State.mismatch_keeps | apply State.addLines_keeps | apply State.portTake_keeps
                                | apply State.issueAll_keeps | apply Keeps.ite | (refine Keeps.ofFst (by assumption) ?_)
                                | (apply Keeps.iteFst <;> try dsimp only) | (split <;> try dsimp only))

theorem State.atTarget_keeps {pm : Parts} {st0 : State} {s : State} {x : Xact} (hk0 : Keeps pm st0 s) (p_flight : pm.flight = true := by assumption)
    (p_sched : pm.sched = true := by assumption) (p_hives : pm.hives = true := by assumption) (p_err : pm.err = true := by assumption) (p_trace :
    pm.trace = true := by assumption) (p_count : pm.count = true := by assumption) (p_mgmt : pm.mgmt = true := by assumption) : Keeps pm st0
    (State.atTarget s x) := by
  unfold State.atTarget
  try dsimp only
  with_reducible repeat' (first | assumption | apply State.slotMiss_keeps | apply State.mismatch_keeps | apply State.wakeHive_keeps
                                | apply State.setX_keeps | apply Keeps.ite | (split <;> try dsimp only))

theorem State.mipCheck_keeps {pm : Parts} {st0 : State} {s : State} {x : Xact} (hk0 : Keeps pm st0 s) (p_flight : pm.flight = true := by assumption)
    (p_sched : pm.sched = true := by assumption) (p_hives : pm.hives = true := by assumption) (p_err : pm.err = true := by assumption) (p_trace :
    pm.trace = true := by assumption) (p_count : pm.count = true := by assumption) (p_mgmt : pm.mgmt = true := by assumption) : Keeps pm st0
    (State.mipCheck s x) := by
  unfold State.mipCheck
  try dsimp only
  with_reducible repeat' (first | assumption | apply State.refuseAt_keeps | apply State.slotMiss_keeps | apply State.setX_keeps
                                | apply State.atTarget_keeps | apply Keeps.ite | (split <;> try dsimp only))

theorem State.reissue_keeps {pm : Parts} {st0 : State} {s : State} {x : Xact} (hk0 : Keeps pm st0 s) (p_flight : pm.flight = true := by assumption)
    (p_nextId : pm.nextId = true := by assumption) (p_sched : pm.sched = true := by assumption) (p_hives : pm.hives = true := by assumption) (p_err :
    pm.err = true := by assumption) (p_trace : pm.trace = true := by assumption) (p_count : pm.count = true := by assumption) (p_mgmt : pm.mgmt = true
    := by assumption) : Keeps pm st0 (State.reissue s x) := by
  unfold State.reissue
  try dsimp only
  with_reducible repeat' (first | assumption | apply State.mipCheck_keeps | apply State.issue_keeps | apply Keeps.ite | (split <;> try dsimp only))

theorem State.reissueAll_keeps {pm : Parts} {st0 : State} {s : State} {x : Xact} {st : Stage} (hk0 : Keeps pm st0 s) (p_flight : pm.flight = true :=
    by assumption) (p_nextId : pm.nextId = true := by assumption) (p_sched : pm.sched = true := by assumption) (p_hives : pm.hives = true := by
    assumption) (p_err : pm.err = true := by assumption) (p_trace : pm.trace = true := by assumption) (p_count : pm.count = true := by assumption)
    (p_mgmt : pm.mgmt = true := by assumption) : Keeps pm st0 (State.reissueAll s x st) := by
  unfold State.reissueAll
  try dsimp only
  with_reducible repeat' (first | assumption | apply State.reissue_keeps | apply Keeps.ite | apply Keeps.foldl | refine Keeps.foldlP ?_ ?_
                                | (intro _ _ _; try dsimp only) | (split <;> try dsimp only))

theorem State.sbStall_keeps {pm : Parts} {st0 : State} {s : State} {x : Xact} (hk0 : Keeps pm st0 s) (p_err : pm.err = true := by assumption) (p_trace
    : pm.trace = true := by assumption) (p_mgmt : pm.mgmt = true := by assumption) : Keeps pm st0 (State.sbStall s x) := by
  unfold State.sbStall
  try dsimp only
  with_reducible repeat' (first | assumption | apply State.traceGen_keeps | (split <;> try dsimp only))

theorem State.ringStallRec_keeps {pm : Parts} {st0 : State} {s : State} {x : Xact} {tmo : Bool} (hk0 : Keeps pm st0 s) (p_err : pm.err = true := by
    assumption) (p_trace : pm.trace = true := by assumption) (p_mgmt : pm.mgmt = true := by assumption) : Keeps pm st0 (State.ringStallRec s x tmo) :=
    by
  unfold State.ringStallRec
  try dsimp only
  with_reducible repeat' (first | assumption | apply State.traceGen_keeps | (split <;> try dsimp only))

theorem execRingSlotStallEnd_keeps {pm : Parts} {st0 : State} {x : Nat} {s : State} (hk0 : Keeps pm st0 s) (p_flight : pm.flight = true := by
    assumption) (p_nextId : pm.nextId = true := by assumption) (p_sched : pm.sched = true := by assumption) (p_hives : pm.hives = true := by
    assumption) (p_err : pm.err = true := by assumption) (p_trace : pm.trace = true := by assumption) (p_count : pm.count = true := by assumption)
    (p_mgmt : pm.mgmt = true := by assumption) : ∃ u0, execRingSlotStallEnd x s = .next u0 ∧ Keeps pm st0 u0 := by
  unfold execRingSlotStallEnd
  refine ⟨_, rfl, ?_⟩
  try dsimp only
  with_reducible repeat' (first | assumption | apply State.ringStallRec_keeps | apply State.reissue_keeps | apply State.reissueAll_keeps
                                | apply Keeps.ite | (split <;> try dsimp only))

theorem State.countGrant_keeps {pm : Parts} {st0 : State} {s : State} {u : Nat} {x : Xact} {be : Bool} (hk0 : Keeps pm st0 s) (p_count : pm.count =
    true := by assumption) : Keeps pm st0 (State.countGrant s u x be) := by
  unfold State.countGrant
  try dsimp only
  with_reducible repeat' (first | assumption | apply State.cadd_keeps | apply Keeps.ite | (split <;> try dsimp only))

theorem State.forwardRow_keeps {pm : Parts} {st0 : State} {s : State} {x : Xact} {wasValid : Bool} {o : BankOut} (hk0 : Keeps pm st0 s) (p_flight :
    pm.flight = true := by assumption) (p_nextId : pm.nextId = true := by assumption) (p_sched : pm.sched = true := by assumption) (p_fxps : pm.fxps =
    true := by assumption) (p_err : pm.err = true := by assumption) (p_mirror : pm.mirror = true := by assumption) (p_power : pm.power = true := by
    assumption) (p_trace : pm.trace = true := by assumption) (p_count : pm.count = true := by assumption) (p_mgmt : pm.mgmt = true := by assumption) :
    Keeps pm st0 (State.forwardRow s x wasValid o) := by
  unfold State.forwardRow
  try dsimp only
  with_reducible repeat' (first | assumption | apply State.forward_keeps | apply Keeps.ite | (split <;> try dsimp only))

theorem State.burstBeat_keeps {pm : Parts} {st0 : State} {s : State} {x : Xact} (hk0 : Keeps pm st0 s) (p_flight : pm.flight = true := by assumption)
    : Keeps pm st0 (State.burstBeat s x) := by
  unfold State.burstBeat
  try dsimp only
  with_reducible repeat' (first | assumption
                                | (refine Keeps.flight ?_ (fun n hn => numbered_map hn (fun y => ?_)) rfl; first | assumption | assumption)
                                | apply Keeps.ite
                                | (refine Keeps.lit ?_ rfl; first | assumption | (refine Keeps.flight ?_ (fun n hn => numbered_map hn (fun y => ?_)) rfl; first | assumption | assumption) | apply Keeps.ite)
                                | (split <;> try dsimp only))

theorem State.grantRow_keeps {pm : Parts} {st0 : State} {s : State} {x : Xact} {kind : Nat} {h : Nat} {bank : Nat} {row : Nat} (hk0 : Keeps pm st0 s)
    (p_flight : pm.flight = true := by assumption) (p_nextId : pm.nextId = true := by assumption) (p_sched : pm.sched = true := by assumption) (p_mem
    : pm.mem = true := by assumption) (p_hives : pm.hives = true := by assumption) (p_fxps : pm.fxps = true := by assumption) (p_err : pm.err = true
    := by assumption) (p_mirror : pm.mirror = true := by assumption) (p_power : pm.power = true := by assumption) (p_trace : pm.trace = true := by
    assumption) (p_count : pm.count = true := by assumption) (p_mgmt : pm.mgmt = true := by assumption) : Keeps pm st0 (State.grantRow s x kind h bank
    row) := by
  unfold State.grantRow
  try dsimp only
  with_reducible repeat' (first | assumption | apply State.rowAccess_keeps | apply State.account_keeps | apply State.burstBeat_keeps
                                | apply State.occupy_keeps | apply State.countGrant_keeps | apply State.forwardRow_keeps | apply State.answer_keeps
                                | apply Keeps.ite | (refine Keeps.ofFst (by assumption) ?_) | (apply Keeps.iteFst <;> try dsimp only)
                                | (split <;> try dsimp only))

theorem syncWord_keeps {pm : Parts} {st0 : State} {x : Xact} {h : Nat} {w : Nat} {p : State × Line × Bool × Nat} {g : Nat} (hk0 : Keeps pm st0 p.1)
    (p_mem : pm.mem = true := by assumption) (p_hives : pm.hives = true := by assumption) (p_err : pm.err = true := by assumption) (p_trace : pm.trace
    = true := by assumption) (p_count : pm.count = true := by assumption) (p_mgmt : pm.mgmt = true := by assumption) : Keeps pm st0 (syncWord x h w p
    g).1 := by
  unfold syncWord
  try dsimp only
  with_reducible repeat' (first | assumption | apply State.syncAccess_keeps | apply Keeps.ite | (apply Keeps.iteFst <;> try dsimp only)
                                | (split <;> try dsimp only))

theorem State.grantSync_keeps {pm : Parts} {st0 : State} {s : State} {x : Xact} {h : Nat} {w : Nat} (hk0 : Keeps pm st0 s) (p_flight : pm.flight =
    true := by assumption) (p_mem : pm.mem = true := by assumption) (p_hives : pm.hives = true := by assumption) (p_err : pm.err = true := by
    assumption) (p_trace : pm.trace = true := by assumption) (p_count : pm.count = true := by assumption) (p_mgmt : pm.mgmt = true := by assumption) :
    Keeps pm st0 (State.grantSync s x h w) := by
  unfold State.grantSync
  try dsimp only
  with_reducible repeat' (first | assumption | apply syncWord_keeps | apply State.occupy_keeps | apply State.countGrant_keeps
                                | apply State.answer_keeps | apply Keeps.ite | apply Keeps.foldl | (refine Keeps.ofFst (by assumption) ?_)
                                | (apply Keeps.iteFst <;> try dsimp only) | refine Keeps.foldlP ?_ ?_ | (intro _ _ _; try dsimp only)
                                | (split <;> try dsimp only))

theorem State.noteGrant_keeps {pm : Parts} {st0 : State} {s : State} {k : Nat} {sched : Bool} (hk0 : Keeps pm st0 s) (p_hives : pm.hives = true := by
    assumption) : Keeps pm st0 (State.noteGrant s k sched) := by
  unfold State.noteGrant
  try dsimp only
  with_reducible repeat' (first | assumption | (refine Keeps.lit ?_ rfl; first | assumption) | (split <;> try dsimp only))

theorem State.grant_keeps {pm : Parts} {st0 : State} {s : State} {x : Xact} (hk0 : Keeps pm st0 s) (p_flight : pm.flight = true := by assumption)
    (p_nextId : pm.nextId = true := by assumption) (p_sched : pm.sched = true := by assumption) (p_mem : pm.mem = true := by assumption) (p_hives :
    pm.hives = true := by assumption) (p_fxps : pm.fxps = true := by assumption) (p_err : pm.err = true := by assumption) (p_mirror : pm.mirror = true
    := by assumption) (p_power : pm.power = true := by assumption) (p_trace : pm.trace = true := by assumption) (p_count : pm.count = true := by
    assumption) (p_mgmt : pm.mgmt = true := by assumption) : Keeps pm st0 (State.grant s x) := by
  unfold State.grant
  try dsimp only
  with_reducible repeat' (first | assumption | apply State.noteGrant_keeps | apply State.grantSync_keeps | apply State.active_keeps
                                | apply State.grantRow_keeps | (split <;> try dsimp only))

theorem State.missHere_keeps {pm : Parts} {st0 : State} {s : State} {cause : Nat} {pick : Xact → Bool} (hk0 : Keeps pm st0 s) (p_flight : pm.flight =
    true := by assumption) (p_sched : pm.sched = true := by assumption) (p_hives : pm.hives = true := by assumption) (p_err : pm.err = true := by
    assumption) (p_trace : pm.trace = true := by assumption) (p_count : pm.count = true := by assumption) (p_mgmt : pm.mgmt = true := by assumption) :
    Keeps pm st0 (State.missHere s cause pick) := by
  unfold State.missHere
  try dsimp only
  with_reducible repeat' (first | assumption | apply State.setX_keeps | apply State.slotMiss_keeps | apply Keeps.foldl | refine Keeps.foldlP ?_ ?_
                                | (intro _ _ _; try dsimp only) | (split <;> try dsimp only))

theorem State.cycleMisses_keeps {pm : Parts} {st0 : State} {s : State} (hk0 : Keeps pm st0 s) (p_flight : pm.flight = true := by assumption) (p_sched
    : pm.sched = true := by assumption) (p_hives : pm.hives = true := by assumption) (p_err : pm.err = true := by assumption) (p_trace : pm.trace =
    true := by assumption) (p_count : pm.count = true := by assumption) (p_mgmt : pm.mgmt = true := by assumption) : Keeps pm st0 (State.cycleMisses
    s) := by
  unfold State.cycleMisses
  try dsimp only
  with_reducible repeat' (first | assumption | apply State.missHere_keeps | (split <;> try dsimp only))

theorem State.bankGrant_keeps {pm : Parts} {st0 : State} {s : State} {k : Nat} (hk0 : Keeps pm st0 s) (p_flight : pm.flight = true := by assumption)
    (p_nextId : pm.nextId = true := by assumption) (p_sched : pm.sched = true := by assumption) (p_mem : pm.mem = true := by assumption) (p_hives :
    pm.hives = true := by assumption) (p_fxps : pm.fxps = true := by assumption) (p_err : pm.err = true := by assumption) (p_mirror : pm.mirror = true
    := by assumption) (p_power : pm.power = true := by assumption) (p_trace : pm.trace = true := by assumption) (p_count : pm.count = true := by
    assumption) (p_mgmt : pm.mgmt = true := by assumption) : Keeps pm st0 (State.bankGrant s k) := by
  unfold State.bankGrant
  try dsimp only
  with_reducible repeat' (first | assumption | apply State.missHere_keeps | apply State.grant_keeps | apply Keeps.ite | (split <;> try dsimp only))

theorem State.linkMismatch_keeps {pm : Parts} {st0 : State} {s : State} {h : Nat} {d : Nat} {pick : Xact → Bool} (hk0 : Keeps pm st0 s) (p_flight :
    pm.flight = true := by assumption) (p_sched : pm.sched = true := by assumption) (p_hives : pm.hives = true := by assumption) (p_err : pm.err =
    true := by assumption) (p_trace : pm.trace = true := by assumption) (p_mgmt : pm.mgmt = true := by assumption) : Keeps pm st0 (State.linkMismatch
    s h d pick) := by
  unfold State.linkMismatch
  try dsimp only
  with_reducible repeat' (first | assumption | apply State.mismatch_keeps | apply State.setX_keeps | apply Keeps.ite | apply Keeps.foldl
                                | refine Keeps.foldlP ?_ ?_ | (intro _ _ _; try dsimp only) | (split <;> try dsimp only))

theorem State.injectGrant_keeps {pm : Parts} {st0 : State} {s : State} {h : Nat} (hk0 : Keeps pm st0 s) (p_flight : pm.flight = true := by assumption)
    (p_nextId : pm.nextId = true := by assumption) (p_sched : pm.sched = true := by assumption) (p_hives : pm.hives = true := by assumption) (p_err :
    pm.err = true := by assumption) (p_trace : pm.trace = true := by assumption) (p_count : pm.count = true := by assumption) (p_mgmt : pm.mgmt = true
    := by assumption) : Keeps pm st0 (State.injectGrant s h) := by
  unfold State.injectGrant
  try dsimp only
  with_reducible repeat' (first | assumption | apply State.linkMismatch_keeps | apply State.occupy_keeps | apply State.cadd_keeps
                                | apply State.account_keeps | apply State.noteGrant_keeps | apply State.setX_keeps | apply Keeps.ite
                                | apply Keeps.foldl | refine Keeps.foldlP ?_ ?_
                                | (refine Keeps.lit ?_ rfl; first | assumption | apply State.linkMismatch_keeps | apply State.occupy_keeps | apply State.cadd_keeps | apply State.account_keeps | apply State.noteGrant_keeps | apply State.setX_keeps | apply Keeps.ite | apply Keeps.foldl)
                                | (intro _ _ _; try dsimp only) | (split <;> try dsimp only))

theorem execBankGrant_keeps {pm : Parts} {st0 : State} {a : Arbiter} {s : State} (hk0 : Keeps pm st0 s) (p_flight : pm.flight = true := by assumption)
    (p_nextId : pm.nextId = true := by assumption) (p_sched : pm.sched = true := by assumption) (p_mem : pm.mem = true := by assumption) (p_hives :
    pm.hives = true := by assumption) (p_fxps : pm.fxps = true := by assumption) (p_err : pm.err = true := by assumption) (p_mirror : pm.mirror = true
    := by assumption) (p_power : pm.power = true := by assumption) (p_trace : pm.trace = true := by assumption) (p_count : pm.count = true := by
    assumption) (p_mgmt : pm.mgmt = true := by assumption) : ∃ u0, execBankGrant a s = .next u0 ∧ Keeps pm st0 u0 := by
  unfold execBankGrant
  refine ⟨_, rfl, ?_⟩
  try dsimp only
  with_reducible repeat' (first | assumption | apply State.injectGrant_keeps | apply State.bankGrant_keeps | apply Keeps.ite
                                | (split <;> try dsimp only))

theorem execBarrierArrive_keeps {pm : Parts} {st0 : State} {x : Nat} {s : State} (hk0 : Keeps pm st0 s) (p_flight : pm.flight = true := by assumption)
    (p_nextId : pm.nextId = true := by assumption) (p_sched : pm.sched = true := by assumption) (p_mem : pm.mem = true := by assumption) (p_hives :
    pm.hives = true := by assumption) (p_fxps : pm.fxps = true := by assumption) (p_err : pm.err = true := by assumption) (p_mirror : pm.mirror = true
    := by assumption) (p_power : pm.power = true := by assumption) (p_trace : pm.trace = true := by assumption) (p_count : pm.count = true := by
    assumption) (p_mgmt : pm.mgmt = true := by assumption) : ∃ u0, execBarrierArrive x s = .next u0 ∧ Keeps pm st0 u0 := by
  unfold execBarrierArrive
  refine ⟨_, rfl, ?_⟩
  try dsimp only
  with_reducible repeat' (first | assumption | apply State.grant_keeps | apply Keeps.ite | (split <;> try dsimp only))

theorem execRequestExpire_keeps {pm : Parts} {st0 : State} {x : Nat} {s : State} (hk0 : Keeps pm st0 s) (p_flight : pm.flight = true := by assumption)
    : ∃ u0, execRequestExpire x s = .next u0 ∧ Keeps pm st0 u0 := by
  unfold execRequestExpire
  refine ⟨_, rfl, ?_⟩
  try dsimp only
  with_reducible repeat' (first | assumption | apply State.setX_keeps | apply Keeps.ite | (split <;> try dsimp only))

end Sys2Proof.Machine
end

