-- ==== Sys2Proof/Laws/KeepWinOps.lean ====
section
/-!
SUPPORT. KeepWinOps.lean: each operation of Machine/WinOps.lean keeps: the invariant, the queue, and every part of the state that no hypothesis names.
-/
namespace Sys2Proof.Machine
set_option Elab.async false

theorem State.setWin_keeps {pm : Parts} {st0 : State} {s : State} {h : Nat} {w : Nat} {q : Quad} (hk0 : Keeps pm st0 s) (p_wins : pm.wins = true := by
    assumption) : Keeps pm st0 (State.setWin s h w q) := by
  unfold State.setWin
  try dsimp only
  with_reducible repeat' (first | assumption | (refine Keeps.lit ?_ rfl; first | assumption) | (split <;> try dsimp only))

theorem State.setWinx_keeps {pm : Parts} {st0 : State} {s : State} {h : Nat} {w : Nat} {x : WinX} (hk0 : Keeps pm st0 s) (p_wins : pm.wins = true :=
    by assumption) : Keeps pm st0 (State.setWinx s h w x) := by
  unfold State.setWinx
  try dsimp only
  with_reducible repeat' (first | assumption | (refine Keeps.lit ?_ rfl; first | assumption) | (split <;> try dsimp only))

theorem State.setPage_keeps {pm : Parts} {st0 : State} {s : State} {h : Nat} {c : Nat} {off : Nat} {v : Dword} (hk0 : Keeps pm st0 s) (p_hives :
    pm.hives = true := by assumption) : Keeps pm st0 (State.setPage s h c off v) := by
  unfold State.setPage
  try dsimp only
  with_reducible repeat' (first | assumption | (refine Keeps.lit ?_ rfl; first | assumption) | (split <;> try dsimp only))

theorem State.setStatus_keeps {pm : Parts} {st0 : State} {s : State} {h : Nat} {c : Nat} {off : Nat} {st : Nat} {keep : Nat} (hk0 : Keeps pm st0 s)
    (p_hives : pm.hives = true := by assumption) : Keeps pm st0 (State.setStatus s h c off st keep) := by
  unfold State.setStatus
  try dsimp only
  with_reducible repeat' (first | assumption | apply State.setPage_keeps | (split <;> try dsimp only))

theorem State.winChange_keeps {pm : Parts} {st0 : State} {s : State} {h : Nat} {w : Nat} {old : Nat} {new : Nat} {since : Nat} (hk0 : Keeps pm st0 s)
    (p_err : pm.err = true := by assumption) (p_trace : pm.trace = true := by assumption) (p_mgmt : pm.mgmt = true := by assumption) : Keeps pm st0
    (State.winChange s h w old new since) := by
  unfold State.winChange
  try dsimp only
  with_reducible repeat' (first | assumption | apply State.traceGen_keeps | (split <;> try dsimp only))

theorem State.discard_keeps {pm : Parts} {st0 : State} {s : State} {h : Nat} {code : Nat} {c : Nat} {kind : Nat} {f : Frame} (hk0 : Keeps pm st0 s)
    (p_hives : pm.hives = true := by assumption) (p_err : pm.err = true := by assumption) (p_trace : pm.trace = true := by assumption) (p_count :
    pm.count = true := by assumption) (p_mgmt : pm.mgmt = true := by assumption) : Keeps pm st0 (State.discard s h code c kind f) := by
  unfold State.discard
  try dsimp only
  with_reducible repeat' (first | assumption | apply State.faultAccess_keeps | (split <;> try dsimp only))

theorem State.fenceTry_keeps {pm : Parts} {st0 : State} {s : State} {f : Fence} {by_ : Party} (hk0 : Keeps pm st0 s) (p_flight : pm.flight = true :=
    by assumption) (p_nextId : pm.nextId = true := by assumption) (p_hives : pm.hives = true := by assumption) (p_err : pm.err = true := by
    assumption) (p_trace : pm.trace = true := by assumption) (p_count : pm.count = true := by assumption) (p_mgmt : pm.mgmt = true := by assumption) :
    Keeps pm st0 (State.fenceTry s f by_) := by
  unfold State.fenceTry
  try dsimp only
  with_reducible repeat' (first | assumption | apply State.setStatus_keeps | apply State.addCell_keeps | apply State.traceGen_keeps | apply Keeps.ite
                                | apply Keeps.foldl | refine Keeps.foldlP ?_ ?_
                                | (refine Keeps.lit ?_ rfl; first | assumption | apply State.setStatus_keeps | apply State.addCell_keeps | apply State.traceGen_keeps | apply Keeps.ite | apply Keeps.foldl)
                                | (intro _ _ _; try dsimp only) | (split <;> try dsimp only))

theorem State.fencesTry_keeps {pm : Parts} {st0 : State} {s : State} {by_ : Party} (hk0 : Keeps pm st0 s) (p_flight : pm.flight = true := by
    assumption) (p_nextId : pm.nextId = true := by assumption) (p_hives : pm.hives = true := by assumption) (p_err : pm.err = true := by assumption)
    (p_trace : pm.trace = true := by assumption) (p_count : pm.count = true := by assumption) (p_mgmt : pm.mgmt = true := by assumption) : Keeps pm
    st0 (State.fencesTry s by_) := by
  unfold State.fencesTry
  try dsimp only
  with_reducible repeat' (first | assumption | apply State.fenceTry_keeps | apply Keeps.foldl | refine Keeps.foldlP ?_ ?_
                                | (intro _ _ _; try dsimp only) | (split <;> try dsimp only))

theorem State.ackLines_keeps {pm : Parts} {st0 : State} {s : State} {h : Nat} {chip : Nat} {dhive : Nat} {w : Nat} {n : Nat} (hk0 : Keeps pm st0 s)
    (p_hives : pm.hives = true := by assumption) (p_wins : pm.wins = true := by assumption) : Keeps pm st0 (State.ackLines s h chip dhive w n) := by
  unfold State.ackLines
  try dsimp only
  with_reducible repeat' (first | assumption | apply Keeps.ite | apply Keeps.foldl | refine Keeps.foldlP ?_ ?_
                                | (refine Keeps.lit ?_ rfl; first | assumption | apply Keeps.ite | apply Keeps.foldl) | (intro _ _ _; try dsimp only)
                                | (split <;> try dsimp only))

theorem State.mapAllot_keeps {pm : Parts} {st0 : State} {s : State} {p : Allot → Bool} {f : Allot → Allot} (hk0 : Keeps pm st0 s) (p_wins : pm.wins =
    true := by assumption) : Keeps pm st0 (State.mapAllot s p f) := by
  unfold State.mapAllot
  try dsimp only
  with_reducible repeat' (first | assumption | apply Keeps.ite | (refine Keeps.lit ?_ rfl; first | assumption | apply Keeps.ite)
                                | (split <;> try dsimp only))

theorem State.creditAnswer_keeps {pm : Parts} {st0 : State} {s : State} {h : Nat} {w : Nat} {chip : Nat} {hive : Nat} {n : Nat} (hk0 : Keeps pm st0 s)
    (p_hives : pm.hives = true := by assumption) (p_wins : pm.wins = true := by assumption) (p_err : pm.err = true := by assumption) (p_trace :
    pm.trace = true := by assumption) (p_count : pm.count = true := by assumption) (p_mgmt : pm.mgmt = true := by assumption) : Keeps pm st0
    (State.creditAnswer s h w chip hive n).1 := by
  unfold State.creditAnswer
  try dsimp only
  with_reducible repeat' (first | assumption | apply State.discard_keeps | apply State.setWinx_keeps | apply Keeps.ite
                                | (apply Keeps.iteFst <;> try dsimp only) | (split <;> try dsimp only))

theorem State.winClosed_keeps {pm : Parts} {st0 : State} {s : State} {h : Nat} {w : Nat} (hk0 : Keeps pm st0 s) (p_flight : pm.flight = true := by
    assumption) (p_nextId : pm.nextId = true := by assumption) (p_sched : pm.sched = true := by assumption) (p_hives : pm.hives = true := by
    assumption) (p_wins : pm.wins = true := by assumption) (p_fxps : pm.fxps = true := by assumption) (p_err : pm.err = true := by assumption)
    (p_mirror : pm.mirror = true := by assumption) (p_journal : pm.journal = true := by assumption) (p_power : pm.power = true := by assumption)
    (p_trace : pm.trace = true := by assumption) (p_count : pm.count = true := by assumption) (p_mgmt : pm.mgmt = true := by assumption) : Keeps pm
    st0 (State.winClosed s h w) := by
  unfold State.winClosed
  try dsimp only
  with_reducible repeat' (first | assumption | apply State.winChange_keeps | apply State.setPage_keeps | apply State.setWin_keeps
                                | apply State.jChange_keeps | apply State.setStatus_keeps | apply State.setWinx_keeps | apply Keeps.ite
                                | (split <;> try dsimp only))

theorem State.winTry_keeps {pm : Parts} {st0 : State} {s : State} {h : Nat} {w : Nat} (hk0 : Keeps pm st0 s) (p_flight : pm.flight = true := by
    assumption) (p_nextId : pm.nextId = true := by assumption) (p_sched : pm.sched = true := by assumption) (p_hives : pm.hives = true := by
    assumption) (p_wins : pm.wins = true := by assumption) (p_fxps : pm.fxps = true := by assumption) (p_err : pm.err = true := by assumption)
    (p_mirror : pm.mirror = true := by assumption) (p_journal : pm.journal = true := by assumption) (p_power : pm.power = true := by assumption)
    (p_trace : pm.trace = true := by assumption) (p_count : pm.count = true := by assumption) (p_mgmt : pm.mgmt = true := by assumption) : Keeps pm
    st0 (State.winTry s h w) := by
  unfold State.winTry
  try dsimp only
  with_reducible repeat' (first | assumption | apply State.winClosed_keeps | apply Keeps.ite | (split <;> try dsimp only))

theorem State.winReturn_keeps {pm : Parts} {st0 : State} {s : State} {h : Nat} {w : Nat} {chip : Nat} {hive : Nat} {n : Nat} (hk0 : Keeps pm st0 s)
    (p_flight : pm.flight = true := by assumption) (p_nextId : pm.nextId = true := by assumption) (p_sched : pm.sched = true := by assumption)
    (p_hives : pm.hives = true := by assumption) (p_wins : pm.wins = true := by assumption) (p_fxps : pm.fxps = true := by assumption) (p_err : pm.err
    = true := by assumption) (p_mirror : pm.mirror = true := by assumption) (p_journal : pm.journal = true := by assumption) (p_power : pm.power =
    true := by assumption) (p_trace : pm.trace = true := by assumption) (p_count : pm.count = true := by assumption) (p_mgmt : pm.mgmt = true := by
    assumption) : Keeps pm st0 (State.winReturn s h w chip hive n) := by
  unfold State.winReturn
  try dsimp only
  with_reducible repeat' (first | assumption | apply State.winTry_keeps | apply State.setWinx_keeps | (split <;> try dsimp only))

theorem State.rackAt_keeps {pm : Parts} {st0 : State} {s : State} {h : Nat} {chip : Nat} {dhive : Nat} {w : Nat} {n : Nat} (hk0 : Keeps pm st0 s)
    (p_flight : pm.flight = true := by assumption) (p_nextId : pm.nextId = true := by assumption) (p_hives : pm.hives = true := by assumption) (p_wins
    : pm.wins = true := by assumption) (p_err : pm.err = true := by assumption) (p_trace : pm.trace = true := by assumption) (p_count : pm.count =
    true := by assumption) (p_mgmt : pm.mgmt = true := by assumption) : Keeps pm st0 (State.rackAt s h chip dhive w n) := by
  unfold State.rackAt
  try dsimp only
  with_reducible repeat' (first | assumption | apply State.ackLines_keeps | apply State.mapAllot_keeps | apply State.fencesTry_keeps
                                | (split <;> try dsimp only))

theorem State.rackSend_keeps {pm : Parts} {st0 : State} {s : State} {h : Nat} {w : Nat} {chip : Nat} {hive : Nat} (hk0 : Keeps pm st0 s) (p_flight :
    pm.flight = true := by assumption) (p_nextId : pm.nextId = true := by assumption) (p_hives : pm.hives = true := by assumption) (p_wins : pm.wins =
    true := by assumption) (p_fxps : pm.fxps = true := by assumption) (p_err : pm.err = true := by assumption) (p_power : pm.power = true := by
    assumption) (p_trace : pm.trace = true := by assumption) (p_count : pm.count = true := by assumption) (p_mgmt : pm.mgmt = true := by assumption) :
    Keeps pm st0 (State.rackSend s h w chip hive) := by
  unfold State.rackSend
  try dsimp only
  with_reducible repeat' (first | assumption | apply State.setWinx_keeps | apply State.rackAt_keeps | apply State.sendFrame_keeps | apply Keeps.ite
                                | (refine Keeps.lit ?_ rfl; first | assumption | apply State.setWinx_keeps | apply State.rackAt_keeps | apply State.sendFrame_keeps | apply Keeps.ite)
                                | (split <;> try dsimp only))

theorem State.rackBad_keeps {pm : Parts} {st0 : State} {s : State} {h : Nat} {w : Nat} {chip : Nat} {hive : Nat} {code : Nat} {x : Xact} (hk0 : Keeps
    pm st0 s) (p_wins : pm.wins = true := by assumption) (p_fxps : pm.fxps = true := by assumption) (p_power : pm.power = true := by assumption) :
    Keeps pm st0 (State.rackBad s h w chip hive code x) := by
  unfold State.rackBad
  try dsimp only
  with_reducible repeat' (first | assumption | apply State.setWinx_keeps | apply State.sendFrame_keeps | apply Keeps.ite
                                | (refine Keeps.lit ?_ rfl; first | assumption | apply State.setWinx_keeps | apply State.sendFrame_keeps | apply Keeps.ite)
                                | (split <;> try dsimp only))

theorem State.rackCount_keeps {pm : Parts} {st0 : State} {s : State} {h : Nat} {w : Nat} {chip : Nat} {hive : Nat} (hk0 : Keeps pm st0 s) (p_flight :
    pm.flight = true := by assumption) (p_nextId : pm.nextId = true := by assumption) (p_hives : pm.hives = true := by assumption) (p_wins : pm.wins =
    true := by assumption) (p_fxps : pm.fxps = true := by assumption) (p_err : pm.err = true := by assumption) (p_power : pm.power = true := by
    assumption) (p_trace : pm.trace = true := by assumption) (p_count : pm.count = true := by assumption) (p_mgmt : pm.mgmt = true := by assumption) :
    Keeps pm st0 (State.rackCount s h w chip hive) := by
  unfold State.rackCount
  try dsimp only
  with_reducible repeat' (first | assumption | apply State.rackSend_keeps | apply Keeps.ite
                                | (refine Keeps.lit ?_ rfl; first | assumption | apply State.rackSend_keeps | apply Keeps.ite)
                                | (split <;> try dsimp only))

theorem State.doorbell_keeps {pm : Parts} {st0 : State} {s : State} {h : Nat} {w : Nat} {line : Nat} {x : Xact} (hk0 : Keeps pm st0 s) (p_flight :
    pm.flight = true := by assumption) (p_nextId : pm.nextId = true := by assumption) (p_hives : pm.hives = true := by assumption) (p_count : pm.count
    = true := by assumption) : Keeps pm st0 (State.doorbell s h w line x) := by
  unfold State.doorbell
  try dsimp only
  with_reducible repeat' (first | assumption | apply State.postCell_keeps | apply Keeps.ite | (split <;> try dsimp only))

theorem State.windowApplied_keeps {pm : Parts} {st0 : State} {s : State} {h : Nat} {w : Nat} {x : Xact} {done : Bool} (hk0 : Keeps pm st0 s) (p_flight
    : pm.flight = true := by assumption) (p_nextId : pm.nextId = true := by assumption) (p_sched : pm.sched = true := by assumption) (p_hives :
    pm.hives = true := by assumption) (p_wins : pm.wins = true := by assumption) (p_fxps : pm.fxps = true := by assumption) (p_err : pm.err = true :=
    by assumption) (p_mirror : pm.mirror = true := by assumption) (p_journal : pm.journal = true := by assumption) (p_power : pm.power = true := by
    assumption) (p_trace : pm.trace = true := by assumption) (p_count : pm.count = true := by assumption) (p_mgmt : pm.mgmt = true := by assumption) :
    Keeps pm st0 (State.windowApplied s h w x done) := by
  unfold State.windowApplied
  try dsimp only
  with_reducible repeat' (first | assumption | apply State.doorbell_keeps | apply State.rackCount_keeps | apply State.rackBad_keeps
                                | apply State.setWinx_keeps | apply State.winTry_keeps | apply Keeps.ite | (split <;> try dsimp only))

theorem State.spend_keeps {pm : Parts} {st0 : State} {s : State} {h : Nat} {w : Nat} {chip : Nat} {hive : Nat} (hk0 : Keeps pm st0 s) (p_wins :
    pm.wins = true := by assumption) : Keeps pm st0 (State.spend s h w chip hive) := by
  unfold State.spend
  try dsimp only
  with_reducible repeat' (first | assumption | apply State.setWinx_keeps | (split <;> try dsimp only))

theorem State.applyLine_keeps {pm : Parts} {st0 : State} {s : State} {h : Nat} {w : Nat} {x : Xact} (hk0 : Keeps pm st0 s) (p_flight : pm.flight =
    true := by assumption) (p_nextId : pm.nextId = true := by assumption) (p_sched : pm.sched = true := by assumption) (p_hives : pm.hives = true :=
    by assumption) (p_wins : pm.wins = true := by assumption) (p_fxps : pm.fxps = true := by assumption) (p_err : pm.err = true := by assumption)
    (p_mirror : pm.mirror = true := by assumption) (p_journal : pm.journal = true := by assumption) (p_power : pm.power = true := by assumption)
    (p_trace : pm.trace = true := by assumption) (p_count : pm.count = true := by assumption) (p_mgmt : pm.mgmt = true := by assumption) : Keeps pm
    st0 (State.applyLine s h w x) := by
  unfold State.applyLine
  try dsimp only
  with_reducible repeat' (first | assumption | apply State.windowApplied_keeps | apply State.discard_keeps | apply State.refused_keeps
                                | apply State.addX_keeps | apply State.mipCheck_keeps | apply Keeps.ite | (split <;> try dsimp only))

theorem State.applyFrame_keeps {pm : Parts} {st0 : State} {s : State} {y : Xact} (hk0 : Keeps pm st0 s) (p_flight : pm.flight = true := by assumption)
    (p_nextId : pm.nextId = true := by assumption) (p_sched : pm.sched = true := by assumption) (p_hives : pm.hives = true := by assumption) (p_wins :
    pm.wins = true := by assumption) (p_fxps : pm.fxps = true := by assumption) (p_err : pm.err = true := by assumption) (p_mirror : pm.mirror = true
    := by assumption) (p_journal : pm.journal = true := by assumption) (p_power : pm.power = true := by assumption) (p_trace : pm.trace = true := by
    assumption) (p_count : pm.count = true := by assumption) (p_mgmt : pm.mgmt = true := by assumption) : Keeps pm st0 (State.applyFrame s y) := by
  unfold State.applyFrame
  try dsimp only
  with_reducible repeat' (first | assumption | apply State.rackCount_keeps | apply State.discard_keeps | apply State.applyLine_keeps
                                | apply State.spend_keeps | (split <;> try dsimp only))

theorem State.winFault_keeps {pm : Parts} {st0 : State} {s : State} {x : Xact} {code : Nat} (hk0 : Keeps pm st0 s) (p_flight : pm.flight = true := by
    assumption) (p_hives : pm.hives = true := by assumption) (p_err : pm.err = true := by assumption) (p_trace : pm.trace = true := by assumption)
    (p_count : pm.count = true := by assumption) (p_mgmt : pm.mgmt = true := by assumption) : Keeps pm st0 (State.winFault s x code) := by
  unfold State.winFault
  try dsimp only
  with_reducible repeat' (first | assumption | apply State.bounce_keeps | apply State.faultAccess_keeps | (split <;> try dsimp only))

theorem State.grantAt_keeps {pm : Parts} {st0 : State} {s : State} {h : Nat} {k : Nat × Nat × Nat × Nat} {n : Nat} {base : Nat} {extent : Nat} (hk0 :
    Keeps pm st0 s) (p_wins : pm.wins = true := by assumption) : Keeps pm st0 (State.grantAt s h k n base extent) := by
  unfold State.grantAt
  try dsimp only
  with_reducible repeat' (first | assumption | apply State.mapAllot_keeps | apply Keeps.ite | (split <;> try dsimp only))

theorem State.noteHolder_keeps {pm : Parts} {st0 : State} {s : State} {h : Nat} {w : Nat} {chip : Nat} {hive : Nat} (hk0 : Keeps pm st0 s) (p_wins :
    pm.wins = true := by assumption) : Keeps pm st0 (State.noteHolder s h w chip hive) := by
  unfold State.noteHolder
  try dsimp only
  with_reducible repeat' (first | assumption | apply State.setWinx_keeps | apply Keeps.ite | (split <;> try dsimp only))

theorem State.askCredits_keeps {pm : Parts} {st0 : State} {s : State} {h : Nat} {k : Nat × Nat × Nat × Nat} {n : Nat} {base : Nat} (hk0 : Keeps pm st0
    s) (p_hives : pm.hives = true := by assumption) (p_wins : pm.wins = true := by assumption) (p_fxps : pm.fxps = true := by assumption) (p_err :
    pm.err = true := by assumption) (p_power : pm.power = true := by assumption) (p_trace : pm.trace = true := by assumption) (p_count : pm.count =
    true := by assumption) (p_mgmt : pm.mgmt = true := by assumption) : Keeps pm st0 (State.askCredits s h k n base) := by
  unfold State.askCredits
  try dsimp only
  with_reducible repeat' (first | assumption | apply State.creditAnswer_keeps | apply State.grantAt_keeps | apply State.mapAllot_keeps
                                | apply State.noteHolder_keeps | apply State.sendFrame_keeps | apply Keeps.ite
                                | (refine Keeps.ofFst (by assumption) ?_) | (apply Keeps.iteFst <;> try dsimp only) | (split <;> try dsimp only))

theorem State.countSent_keeps {pm : Parts} {st0 : State} {s : State} {h : Nat} {c : Nat} {k : Nat × Nat × Nat × Nat} (hk0 : Keeps pm st0 s) (p_hives :
    pm.hives = true := by assumption) (p_wins : pm.wins = true := by assumption) (p_count : pm.count = true := by assumption) : Keeps pm st0
    (State.countSent s h c k) := by
  unfold State.countSent
  try dsimp only
  with_reducible repeat' (first | assumption | apply State.ctxAdd_keeps | apply Keeps.ite
                                | (refine Keeps.lit ?_ rfl; first | assumption | apply State.ctxAdd_keeps | apply Keeps.ite)
                                | (split <;> try dsimp only))

theorem State.windowGo_keeps {pm : Parts} {st0 : State} {s : State} {x : Xact} {k : Nat × Nat × Nat × Nat} (hk0 : Keeps pm st0 s) (p_flight :
    pm.flight = true := by assumption) (p_wins : pm.wins = true := by assumption) (p_count : pm.count = true := by assumption) : Keeps pm st0
    (State.windowGo s x k) := by
  unfold State.windowGo
  try dsimp only
  with_reducible repeat' (first | assumption | apply State.countReq_keeps | apply State.spend_keeps | apply State.setX_keeps | apply Keeps.ite
                                | (split <;> try dsimp only))

theorem State.spendAt_keeps {pm : Parts} {st0 : State} {s : State} {x : Xact} {k : Nat × Nat × Nat × Nat} {a : Allot} (hk0 : Keeps pm st0 s) (p_flight
    : pm.flight = true := by assumption) (p_hives : pm.hives = true := by assumption) (p_wins : pm.wins = true := by assumption) (p_count : pm.count =
    true := by assumption) : Keeps pm st0 (State.spendAt s x k a) := by
  unfold State.spendAt
  try dsimp only
  with_reducible repeat' (first | assumption | apply State.windowGo_keeps | apply State.countSent_keeps | apply State.mapAllot_keeps
                                | (split <;> try dsimp only))

theorem State.windowStall_keeps {pm : Parts} {st0 : State} {s : State} {x : Xact} {k0 : Nat × Nat × Nat × Nat} {base : Nat} (hk0 : Keeps pm st0 s)
    (p_flight : pm.flight = true := by assumption) : Keeps pm st0 (State.windowStall s x k0 base) := by
  unfold State.windowStall
  try dsimp only
  with_reducible repeat' (first | assumption | apply State.setX_keeps | apply Keeps.ite | (split <;> try dsimp only))

theorem State.windowSend_keeps {pm : Parts} {st0 : State} {s : State} {x : Xact} {k0 : Nat × Nat × Nat × Nat} {k : Nat × Nat × Nat × Nat} {base : Nat}
    {a : Allot} (hk0 : Keeps pm st0 s) (p_flight : pm.flight = true := by assumption) (p_hives : pm.hives = true := by assumption) (p_wins : pm.wins =
    true := by assumption) (p_err : pm.err = true := by assumption) (p_trace : pm.trace = true := by assumption) (p_count : pm.count = true := by
    assumption) (p_mgmt : pm.mgmt = true := by assumption) : Keeps pm st0 (State.windowSend s x k0 k base a) := by
  unfold State.windowSend
  try dsimp only
  with_reducible repeat' (first | assumption | apply State.winFault_keeps | apply State.windowStall_keeps | apply State.spendAt_keeps
                                | apply Keeps.ite | (split <;> try dsimp only))

theorem State.windowAsk_keeps {pm : Parts} {st0 : State} {s : State} {h : Nat} {k : Nat × Nat × Nat × Nat} {base : Nat} (hk0 : Keeps pm st0 s)
    (p_hives : pm.hives = true := by assumption) (p_wins : pm.wins = true := by assumption) (p_fxps : pm.fxps = true := by assumption) (p_err : pm.err
    = true := by assumption) (p_power : pm.power = true := by assumption) (p_trace : pm.trace = true := by assumption) (p_count : pm.count = true :=
    by assumption) (p_mgmt : pm.mgmt = true := by assumption) : Keeps pm st0 (State.windowAsk s h k base) := by
  unfold State.windowAsk
  try dsimp only
  with_reducible repeat' (first | assumption | apply State.askCredits_keeps | apply State.mapAllot_keeps
                                | (refine Keeps.lit ?_ rfl; first | assumption | apply State.askCredits_keeps | apply State.mapAllot_keeps)
                                | (split <;> try dsimp only))

theorem State.windowLine_keeps {pm : Parts} {st0 : State} {s : State} {x : Xact} {k0 : Nat × Nat × Nat × Nat} {base : Nat} (hk0 : Keeps pm st0 s)
    (p_flight : pm.flight = true := by assumption) (p_hives : pm.hives = true := by assumption) (p_wins : pm.wins = true := by assumption) (p_fxps :
    pm.fxps = true := by assumption) (p_err : pm.err = true := by assumption) (p_power : pm.power = true := by assumption) (p_trace : pm.trace = true
    := by assumption) (p_count : pm.count = true := by assumption) (p_mgmt : pm.mgmt = true := by assumption) : Keeps pm st0 (State.windowLine s x k0
    base) := by
  unfold State.windowLine
  try dsimp only
  with_reducible repeat' (first | assumption | apply State.stallAt_keeps | apply State.windowAsk_keeps | apply State.windowSend_keeps
                                | apply State.windowStall_keeps | apply Keeps.ite | (split <;> try dsimp only))

theorem State.retryLines_keeps {pm : Parts} {st0 : State} {s : State} {h : Nat} (hk0 : Keeps pm st0 s) (p_flight : pm.flight = true := by assumption)
    (p_hives : pm.hives = true := by assumption) (p_wins : pm.wins = true := by assumption) (p_fxps : pm.fxps = true := by assumption) (p_err : pm.err
    = true := by assumption) (p_power : pm.power = true := by assumption) (p_trace : pm.trace = true := by assumption) (p_count : pm.count = true :=
    by assumption) (p_mgmt : pm.mgmt = true := by assumption) : Keeps pm st0 (State.retryLines s h) := by
  unfold State.retryLines
  try dsimp only
  with_reducible repeat' (first | assumption | apply State.windowLine_keeps | apply State.traceGen_keeps | apply Keeps.ite | apply Keeps.foldl
                                | refine Keeps.foldlP ?_ ?_ | (intro _ _ _; try dsimp only) | (split <;> try dsimp only))

end Sys2Proof.Machine
end

