-- ==== Sys2Proof/Laws/KeepTierOps.lean ====
section
/-!
SUPPORT. KeepTierOps.lean: each operation of Machine/TierOps.lean keeps: the invariant, the queue, and every part of the state that no hypothesis names.
-/
namespace Sys2Proof.Machine
set_option Elab.async false

theorem State.setTline_keeps {pm : Parts} {st0 : State} {s : State} {tier : Nat} {n : Nat} {d : Line} (hk0 : Keeps pm st0 s) (p_mem : pm.mem = true :=
    by assumption) : Keeps pm st0 (State.setTline s tier n d) := by
  unfold State.setTline
  split
  · exact Keeps.mem hk0 Mem.wf_setT1 rfl
  · exact Keeps.mem hk0 Mem.wf_setT2 rfl

theorem State.storePage_keeps {pm : Parts} {st0 : State} {s : State} {tier : Nat} {page : Nat} {data : Nat → Line} {poison : Nat} (hk0 : Keeps pm st0
    s) (p_mem : pm.mem = true := by assumption) : Keeps pm st0 (State.storePage s tier page data poison) := by
  unfold State.storePage
  try dsimp only
  with_reducible repeat' (first | assumption | apply State.setTline_keeps | apply Keeps.ite | apply Keeps.foldl | refine Keeps.foldlP ?_ ?_
                                | (intro _ _ _; try dsimp only) | (split <;> try dsimp only))

theorem State.setBuf_keeps {pm : Parts} {st0 : State} {s : State} {b : PageBuf} (hk0 : Keeps pm st0 s) (p_tiers : pm.tiers = true := by assumption) :
    Keeps pm st0 (State.setBuf s b) := by
  unfold State.setBuf
  try dsimp only
  with_reducible repeat' (first | assumption | apply Keeps.ite | (refine Keeps.lit ?_ rfl; first | assumption | apply Keeps.ite)
                                | (split <;> try dsimp only))

theorem State.dropBuf_keeps {pm : Parts} {st0 : State} {s : State} {u : Nat} {page : Nat} (hk0 : Keeps pm st0 s) (p_tiers : pm.tiers = true := by
    assumption) : Keeps pm st0 (State.dropBuf s u page) := by
  unfold State.dropBuf
  try dsimp only
  with_reducible repeat' (first | assumption | (refine Keeps.lit ?_ rfl; first | assumption) | (split <;> try dsimp only))

theorem State.bufGet_keeps {pm : Parts} {st0 : State} {s : State} {u : Nat} {page : Nat} (hk0 : Keeps pm st0 s) (p_tiers : pm.tiers = true := by
    assumption) : Keeps pm st0 (State.bufGet s u page).1 := by
  unfold State.bufGet
  try dsimp only
  with_reducible repeat' (first | assumption | apply State.setBuf_keeps | apply Keeps.ite | (apply Keeps.iteFst <;> try dsimp only)
                                | (refine Keeps.lit ?_ rfl; first | assumption | apply State.setBuf_keeps | apply Keeps.ite)
                                | (split <;> try dsimp only))

theorem State.tierWrite_keeps {pm : Parts} {st0 : State} {s : State} {tier : Nat} {n : Nat} {mask : Dword} {d : Line} (hk0 : Keeps pm st0 s) (p_mem :
    pm.mem = true := by assumption) (p_tiers : pm.tiers = true := by assumption) : Keeps pm st0 (State.tierWrite s tier n mask d) := by
  unfold State.tierWrite
  try dsimp only
  with_reducible repeat' (first | assumption | apply State.setBuf_keeps | apply State.setTline_keeps | apply State.storePage_keeps | apply Keeps.ite
                                | (split <;> try dsimp only))

theorem State.poisonLine_keeps {pm : Parts} {st0 : State} {s : State} {tier : Nat} {n : Nat} (hk0 : Keeps pm st0 s) (p_mem : pm.mem = true := by
    assumption) : Keeps pm st0 (State.poisonLine s tier n) := by
  unfold State.poisonLine
  try dsimp only
  with_reducible repeat' (first | assumption | apply State.storePage_keeps | (split <;> try dsimp only))

theorem State.decStart_keeps {pm : Parts} {st0 : State} {s : State} {u : Nat} {page : Nat} {req : Option Nat} {j : Nat} {raw : Line} (hk0 : Keeps pm
    st0 s) (p_tiers : pm.tiers = true := by assumption) : Keeps pm st0 (State.decStart s u page req j raw) := by
  unfold State.decStart
  try dsimp only
  with_reducible repeat' (first | assumption | apply State.bufGet_keeps | (refine Keeps.ofFst (by assumption) ?_)
                                | (refine Keeps.lit ?_ rfl; first | assumption | apply State.bufGet_keeps | (refine Keeps.ofFst (by assumption) ?_))
                                | (split <;> try dsimp only))

theorem State.pendPage_keeps {pm : Parts} {st0 : State} {s : State} {u : Nat} {page : Nat} (hk0 : Keeps pm st0 s) (p_err : pm.err = true := by
    assumption) : Keeps pm st0 (State.pendPage s u page) := by
  unfold State.pendPage
  try dsimp only
  with_reducible repeat' (first | assumption | apply Keeps.ite | (refine Keeps.lit ?_ rfl; first | assumption | apply Keeps.ite)
                                | (split <;> try dsimp only))

theorem State.setCart_keeps {pm : Parts} {st0 : State} {s : State} {k : Nat} {c : Cart} (hk0 : Keeps pm st0 s) (p_tiers : pm.tiers = true := by
    assumption) : Keeps pm st0 (State.setCart s k c) := by
  unfold State.setCart
  try dsimp only
  with_reducible repeat' (first | assumption | (refine Keeps.lit ?_ rfl; first | assumption) | (split <;> try dsimp only))

theorem State.memWr_keeps {pm : Parts} {st0 : State} {s : State} {k : Nat} {n : Nat} (hk0 : Keeps pm st0 s) (p_tiers : pm.tiers = true := by
    assumption) (p_count : pm.count = true := by assumption) : Keeps pm st0 (State.memWr s k n) := by
  unfold State.memWr
  try dsimp only
  with_reducible repeat' (first | assumption | apply State.cadd_keeps | apply State.setCart_keeps | (split <;> try dsimp only))

theorem State.decWith_keeps {pm : Parts} {st0 : State} {s : State} {d : DecJob} {pg : Nat} {o : Option Nat} (hk0 : Keeps pm st0 s) (p_mem : pm.mem =
    true := by assumption) (p_tiers : pm.tiers = true := by assumption) (p_err : pm.err = true := by assumption) (p_trace : pm.trace = true := by
    assumption) (p_count : pm.count = true := by assumption) (p_mgmt : pm.mgmt = true := by assumption) : Keeps pm st0 (State.decWith s d pg o).1 :=
    by
  unfold State.decWith
  try dsimp only
  with_reducible repeat' (first | assumption | apply State.setBuf_keeps | apply State.cadd_keeps | apply State.integrity_keeps
                                | apply State.storePage_keeps | apply State.memWr_keeps | apply State.pendPage_keeps | apply Keeps.ite
                                | apply Keeps.foldl | (apply Keeps.iteFst <;> try dsimp only) | refine Keeps.foldlP ?_ ?_
                                | (refine Keeps.lit ?_ rfl; first | assumption | apply State.setBuf_keeps | apply State.cadd_keeps | apply State.integrity_keeps | apply State.storePage_keeps | apply State.memWr_keeps | apply State.pendPage_keeps | apply Keeps.ite | apply Keeps.foldl)
                                | (intro _ _ _; try dsimp only) | (split <;> try dsimp only))

theorem State.decEnd_keeps {pm : Parts} {st0 : State} {s : State} {d : DecJob} (hk0 : Keeps pm st0 s) (p_mem : pm.mem = true := by assumption)
    (p_tiers : pm.tiers = true := by assumption) (p_err : pm.err = true := by assumption) (p_trace : pm.trace = true := by assumption) (p_count :
    pm.count = true := by assumption) (p_mgmt : pm.mgmt = true := by assumption) : Keeps pm st0 (State.decEnd s d).1 := by
  unfold State.decEnd
  try dsimp only
  with_reducible repeat' (first | assumption | apply State.decWith_keeps | (refine Keeps.ofFst (by assumption) ?_) | (split <;> try dsimp only))

theorem State.genUp_keeps {pm : Parts} {st0 : State} {s : State} (hk0 : Keeps pm st0 s) (p_err : pm.err = true := by assumption) (p_mgmt : pm.mgmt =
    true := by assumption) : Keeps pm st0 (State.genUp s) := by
  unfold State.genUp
  try dsimp only
  with_reducible repeat' (first | assumption | apply State.notice_keeps | apply Keeps.ite
                                | (refine Keeps.lit ?_ rfl; first | assumption | apply State.notice_keeps | apply Keeps.ite)
                                | (split <;> try dsimp only))

theorem State.t1Void_keeps {pm : Parts} {st0 : State} {s : State} {x : Xact} {k : Nat} (hk0 : Keeps pm st0 s) (p_sched : pm.sched = true := by
    assumption) (p_hives : pm.hives = true := by assumption) (p_err : pm.err = true := by assumption) (p_trace : pm.trace = true := by assumption)
    (p_count : pm.count = true := by assumption) (p_mgmt : pm.mgmt = true := by assumption) : Keeps pm st0 (State.t1Void s x k) := by
  unfold State.t1Void
  try dsimp only
  with_reducible repeat' (first | assumption | apply State.slotMiss_keeps | apply Keeps.ite | (split <;> try dsimp only))

theorem State.t1Gone_keeps {pm : Parts} {st0 : State} {s : State} {k : Nat} (hk0 : Keeps pm st0 s) (p_flight : pm.flight = true := by assumption)
    (p_sched : pm.sched = true := by assumption) (p_hives : pm.hives = true := by assumption) (p_tiers : pm.tiers = true := by assumption) (p_err :
    pm.err = true := by assumption) (p_trace : pm.trace = true := by assumption) (p_count : pm.count = true := by assumption) (p_mgmt : pm.mgmt = true
    := by assumption) : Keeps pm st0 (State.t1Gone s k) := by
  unfold State.t1Gone
  try dsimp only
  with_reducible repeat' (first | assumption | apply State.refuseAt_keeps | apply State.t1Void_keeps | apply Keeps.foldl | refine Keeps.foldlP ?_ ?_
                                | (refine Keeps.lit ?_ rfl; first | assumption | apply State.refuseAt_keeps | apply State.t1Void_keeps | apply Keeps.foldl)
                                | (intro _ _ _; try dsimp only) | (split <;> try dsimp only))

theorem State.failChannel_keeps {pm : Parts} {st0 : State} {s : State} {k : Nat} {c : Nat} (hk0 : Keeps pm st0 s) (p_flight : pm.flight = true := by
    assumption) (p_sched : pm.sched = true := by assumption) (p_hives : pm.hives = true := by assumption) (p_tiers : pm.tiers = true := by assumption)
    (p_err : pm.err = true := by assumption) (p_trace : pm.trace = true := by assumption) (p_count : pm.count = true := by assumption) (p_mgmt :
    pm.mgmt = true := by assumption) : Keeps pm st0 (State.failChannel s k c) := by
  unfold State.failChannel
  try dsimp only
  with_reducible repeat' (first | assumption | apply State.setPv_keeps | apply State.t1Gone_keeps | apply State.capacityLoss_keeps
                                | apply State.void_keeps | apply State.genUp_keeps | apply Keeps.ite
                                | (refine Keeps.lit ?_ rfl; first | assumption | apply State.setPv_keeps | apply State.t1Gone_keeps | apply State.capacityLoss_keeps | apply State.void_keeps | apply State.genUp_keeps | apply Keeps.ite)
                                | (split <;> try dsimp only))

end Sys2Proof.Machine
end

