-- ==== Sys2Proof/Laws/KeepTier1.lean ====
section
/-!
SUPPORT. KeepTier1.lean: each operation of Machine/Tier1.lean keeps: the invariant, the queue, and every part of the state that no hypothesis names.
-/
namespace Sys2Proof.Machine
set_option Elab.async false

theorem State.setT1Bank_keeps {pm : Parts} {st0 : State} {s : State} {key : Nat} {b : T1Bank} (hk0 : Keeps pm st0 s) (p_tiers : pm.tiers = true := by
    assumption) : Keeps pm st0 (State.setT1Bank s key b) := by
  unfold State.setT1Bank
  try dsimp only
  with_reducible repeat' (first | assumption | (refine Keeps.lit ?_ rfl; first | assumption) | (split <;> try dsimp only))

theorem State.t1Cmd_keeps {pm : Parts} {st0 : State} {s : State} {k : Nat} {c : Nat} {w : BitVec 40} (hk0 : Keeps pm st0 s) (p_tiers : pm.tiers = true
    := by assumption) : Keeps pm st0 (State.t1Cmd s k c w) := by
  unfold State.t1Cmd
  try dsimp only
  with_reducible repeat' (first | assumption | (refine Keeps.lit ?_ rfl; first | assumption) | (split <;> try dsimp only))

theorem State.tierForward_keeps {pm : Parts} {st0 : State} {s : State} {x : Xact} {new : Line} (hk0 : Keeps pm st0 s) (p_flight : pm.flight = true :=
    by assumption) (p_nextId : pm.nextId = true := by assumption) (p_sched : pm.sched = true := by assumption) (p_fxps : pm.fxps = true := by
    assumption) (p_err : pm.err = true := by assumption) (p_mirror : pm.mirror = true := by assumption) (p_power : pm.power = true := by assumption)
    (p_trace : pm.trace = true := by assumption) (p_count : pm.count = true := by assumption) (p_mgmt : pm.mgmt = true := by assumption) : Keeps pm
    st0 (State.tierForward s x new) := by
  unfold State.tierForward
  try dsimp only
  with_reducible repeat' (first | assumption | apply State.copyTouched_keeps | apply State.forward_keeps | (split <;> try dsimp only))

theorem State.tierData_keeps {pm : Parts} {st0 : State} {s : State} {x : Xact} {unit : Nat} {d : Line} {bad : Bool} {wait : Nat} (hk0 : Keeps pm st0
    s) (p_flight : pm.flight = true := by assumption) : Keeps pm st0 (State.tierData s x unit d bad wait) := by
  unfold State.tierData
  try dsimp only
  with_reducible repeat' (first | assumption | apply State.answer_keeps | apply Keeps.ite | (split <;> try dsimp only))

theorem State.bufApply_keeps {pm : Parts} {st0 : State} {s : State} {x : Xact} {u : Nat} {old : Line} {wait : Nat} (hk0 : Keeps pm st0 s) (p_flight :
    pm.flight = true := by assumption) (p_nextId : pm.nextId = true := by assumption) (p_sched : pm.sched = true := by assumption) (p_tiers : pm.tiers
    = true := by assumption) (p_fxps : pm.fxps = true := by assumption) (p_err : pm.err = true := by assumption) (p_mirror : pm.mirror = true := by
    assumption) (p_power : pm.power = true := by assumption) (p_trace : pm.trace = true := by assumption) (p_count : pm.count = true := by assumption)
    (p_mgmt : pm.mgmt = true := by assumption) : Keeps pm st0 (State.bufApply s x u old wait) := by
  unfold State.bufApply
  try dsimp only
  with_reducible repeat' (first | assumption | apply State.setBuf_keeps | apply State.tierData_keeps | apply State.tierForward_keeps
                                | (split <;> try dsimp only))

theorem State.bufMerge_keeps {pm : Parts} {st0 : State} {s : State} {b : PageBuf} {x : Xact} {u : Nat} {l : Line} {wait : Nat} (hk0 : Keeps pm st0 s)
    (p_flight : pm.flight = true := by assumption) (p_nextId : pm.nextId = true := by assumption) (p_sched : pm.sched = true := by assumption)
    (p_tiers : pm.tiers = true := by assumption) (p_fxps : pm.fxps = true := by assumption) (p_err : pm.err = true := by assumption) (p_mirror :
    pm.mirror = true := by assumption) (p_power : pm.power = true := by assumption) (p_trace : pm.trace = true := by assumption) (p_count : pm.count =
    true := by assumption) (p_mgmt : pm.mgmt = true := by assumption) : Keeps pm st0 (State.bufMerge s b x u l wait) := by
  unfold State.bufMerge
  try dsimp only
  with_reducible repeat' (first | assumption | apply State.bufApply_keeps | apply State.setBuf_keeps | (split <;> try dsimp only))

theorem State.setSeq_keeps {pm : Parts} {st0 : State} {s : State} {q : SeqPage} (hk0 : Keeps pm st0 s) (p_tiers : pm.tiers = true := by assumption) :
    Keeps pm st0 (State.setSeq s q) := by
  unfold State.setSeq
  try dsimp only
  with_reducible repeat' (first | assumption | (refine Keeps.lit ?_ rfl; first | assumption) | (split <;> try dsimp only))

theorem State.t1Stage_keeps {pm : Parts} {st0 : State} {s : State} {x : Xact} {k : Nat} (hk0 : Keeps pm st0 s) (p_flight : pm.flight = true := by
    assumption) (p_sched : pm.sched = true := by assumption) (p_hives : pm.hives = true := by assumption) (p_err : pm.err = true := by assumption)
    (p_trace : pm.trace = true := by assumption) (p_count : pm.count = true := by assumption) (p_mgmt : pm.mgmt = true := by assumption) : Keeps pm
    st0 (State.t1Stage s x k) := by
  unfold State.t1Stage
  try dsimp only
  with_reducible repeat' (first | assumption | apply State.setX_keeps | apply State.slotMiss_keeps | apply Keeps.ite | (split <;> try dsimp only))

theorem State.t1Sched_keeps {pm : Parts} {st0 : State} {s : State} {x : Xact} {k : Nat} (hk0 : Keeps pm st0 s) (p_sched : pm.sched = true := by
    assumption) (p_hives : pm.hives = true := by assumption) (p_err : pm.err = true := by assumption) (p_trace : pm.trace = true := by assumption)
    (p_count : pm.count = true := by assumption) (p_mgmt : pm.mgmt = true := by assumption) : Keeps pm st0 (State.t1Sched s x k).1 := by
  unfold State.t1Sched
  try dsimp only
  with_reducible repeat' (first | assumption | apply State.slotMiss_keeps | apply State.mismatch_keeps | apply Keeps.ite
                                | (apply Keeps.iteFst <;> try dsimp only) | (split <;> try dsimp only))

theorem State.codedWrite_keeps {pm : Parts} {st0 : State} {s : State} {x : Xact} {u : Nat} {wait : Nat} (hk0 : Keeps pm st0 s) (p_flight : pm.flight =
    true := by assumption) (p_nextId : pm.nextId = true := by assumption) (p_sched : pm.sched = true := by assumption) (p_tiers : pm.tiers = true :=
    by assumption) (p_fxps : pm.fxps = true := by assumption) (p_err : pm.err = true := by assumption) (p_mirror : pm.mirror = true := by assumption)
    (p_power : pm.power = true := by assumption) (p_trace : pm.trace = true := by assumption) (p_count : pm.count = true := by assumption) (p_mgmt :
    pm.mgmt = true := by assumption) : Keeps pm st0 (State.codedWrite s x u wait) := by
  unfold State.codedWrite
  try dsimp only
  with_reducible repeat' (first | assumption | apply State.bufGet_keeps | apply State.setX_keeps | apply State.bufApply_keeps | apply Keeps.ite
                                | (refine Keeps.ofFst (by assumption) ?_) | (apply Keeps.iteFst <;> try dsimp only) | (split <;> try dsimp only))

theorem State.t1Take_keeps {pm : Parts} {st0 : State} {s : State} {x : Xact} {k : Nat} (hk0 : Keeps pm st0 s) (p_flight : pm.flight = true := by
    assumption) (p_nextId : pm.nextId = true := by assumption) (p_sched : pm.sched = true := by assumption) (p_hives : pm.hives = true := by
    assumption) (p_tiers : pm.tiers = true := by assumption) (p_fxps : pm.fxps = true := by assumption) (p_err : pm.err = true := by assumption)
    (p_mirror : pm.mirror = true := by assumption) (p_power : pm.power = true := by assumption) (p_trace : pm.trace = true := by assumption) (p_count
    : pm.count = true := by assumption) (p_mgmt : pm.mgmt = true := by assumption) : Keeps pm st0 (State.t1Take s x k) := by
  unfold State.t1Take
  try dsimp only
  with_reducible repeat' (first | assumption | apply State.refuseAt_keeps | apply State.t1Void_keeps | apply State.t1Sched_keeps
                                | apply State.setX_keeps | apply State.t1Stage_keeps | apply State.setSeq_keeps | apply State.dropBuf_keeps
                                | apply State.codedWrite_keeps | apply State.tierData_keeps | apply Keeps.ite
                                | (refine Keeps.ofFst (by assumption) ?_) | (apply Keeps.iteFst <;> try dsimp only) | (split <;> try dsimp only))

theorem execT1Request_keeps {pm : Parts} {st0 : State} {x : Nat} {s : State} (hk0 : Keeps pm st0 s) (p_flight : pm.flight = true := by assumption)
    (p_nextId : pm.nextId = true := by assumption) (p_sched : pm.sched = true := by assumption) (p_hives : pm.hives = true := by assumption) (p_tiers
    : pm.tiers = true := by assumption) (p_fxps : pm.fxps = true := by assumption) (p_err : pm.err = true := by assumption) (p_mirror : pm.mirror =
    true := by assumption) (p_power : pm.power = true := by assumption) (p_trace : pm.trace = true := by assumption) (p_count : pm.count = true := by
    assumption) (p_mgmt : pm.mgmt = true := by assumption) : ∃ u0, execT1Request x s = .next u0 ∧ Keeps pm st0 u0 := by
  unfold execT1Request
  refine ⟨_, rfl, ?_⟩
  try dsimp only
  with_reducible repeat' (first | assumption | apply State.t1Take_keeps | apply Keeps.ite | (split <;> try dsimp only))

theorem State.t1Transfer_keeps {pm : Parts} {st0 : State} {s : State} {x : Xact} {k : Nat} (hk0 : Keeps pm st0 s) (p_flight : pm.flight = true := by
    assumption) (p_nextId : pm.nextId = true := by assumption) (p_sched : pm.sched = true := by assumption) (p_mem : pm.mem = true := by assumption)
    (p_tiers : pm.tiers = true := by assumption) (p_fxps : pm.fxps = true := by assumption) (p_err : pm.err = true := by assumption) (p_mirror :
    pm.mirror = true := by assumption) (p_power : pm.power = true := by assumption) (p_trace : pm.trace = true := by assumption) (p_count : pm.count =
    true := by assumption) (p_mgmt : pm.mgmt = true := by assumption) : Keeps pm st0 (State.t1Transfer s x k) := by
  unfold State.t1Transfer
  try dsimp only
  with_reducible repeat' (first | assumption | apply State.setT1Bank_keeps | apply State.pev_keeps | apply State.countGrant_keeps
                                | apply State.account_keeps | apply State.t1Cmd_keeps | apply State.cadd_keeps | apply State.tierData_keeps
                                | apply State.tierForward_keeps | apply State.setSeq_keeps | apply State.setTline_keeps | apply State.dropX_keeps
                                | apply State.setX_keeps | apply Keeps.ite | (split <;> try dsimp only))

theorem State.t1Refresh_keeps {pm : Parts} {st0 : State} {s : State} {k : Nat} {c : Nat} {half : Nat} {bank : Nat} (hk0 : Keeps pm st0 s) (p_tiers :
    pm.tiers = true := by assumption) : Keeps pm st0 (State.t1Refresh s k c half bank) := by
  unfold State.t1Refresh
  try dsimp only
  with_reducible repeat' (first | assumption | apply State.t1Cmd_keeps | apply State.setT1Bank_keeps | (split <;> try dsimp only))

theorem State.t1Miss_keeps {pm : Parts} {st0 : State} {s : State} {x : Xact} {k : Nat} {cause : Nat} (hk0 : Keeps pm st0 s) (p_flight : pm.flight =
    true := by assumption) (p_sched : pm.sched = true := by assumption) (p_hives : pm.hives = true := by assumption) (p_err : pm.err = true := by
    assumption) (p_trace : pm.trace = true := by assumption) (p_count : pm.count = true := by assumption) (p_mgmt : pm.mgmt = true := by assumption) :
    Keeps pm st0 (State.t1Miss s x k cause) := by
  unfold State.t1Miss
  try dsimp only
  with_reducible repeat' (first | assumption | apply State.setX_keeps | apply State.slotMiss_keeps | (split <;> try dsimp only))

theorem State.t1Act_keeps {pm : Parts} {st0 : State} {s : State} {k : Nat} {p : T1Place} {t : Nat} (hk0 : Keeps pm st0 s) (p_tiers : pm.tiers = true
    := by assumption) : Keeps pm st0 (State.t1Act s k p t) := by
  unfold State.t1Act
  try dsimp only
  with_reducible repeat' (first | assumption | apply State.t1Cmd_keeps | apply State.setT1Bank_keeps | (split <;> try dsimp only))

theorem State.seqFill_keeps {pm : Parts} {st0 : State} {s : State} {k : Nat} {c : Nat} {half : Nat} {flow : Nat} (hk0 : Keeps pm st0 s) (p_mem :
    pm.mem = true := by assumption) (p_tiers : pm.tiers = true := by assumption) (p_count : pm.count = true := by assumption) : Keeps pm st0
    (State.seqFill s k c half flow) := by
  unfold State.seqFill
  try dsimp only
  with_reducible repeat' (first | assumption | apply State.cadd_keeps | apply State.setSeq_keeps | apply State.storePage_keeps | apply Keeps.ite
                                | (refine Keeps.lit ?_ rfl; first | assumption | apply State.cadd_keeps | apply State.setSeq_keeps | apply State.storePage_keeps | apply Keeps.ite)
                                | (split <;> try dsimp only))

theorem State.t1Dynamic_keeps {pm : Parts} {st0 : State} {s : State} {k : Nat} {c : Nat} {half : Nat} (hk0 : Keeps pm st0 s) (p_flight : pm.flight =
    true := by assumption) (p_nextId : pm.nextId = true := by assumption) (p_sched : pm.sched = true := by assumption) (p_mem : pm.mem = true := by
    assumption) (p_tiers : pm.tiers = true := by assumption) (p_fxps : pm.fxps = true := by assumption) (p_err : pm.err = true := by assumption)
    (p_mirror : pm.mirror = true := by assumption) (p_power : pm.power = true := by assumption) (p_trace : pm.trace = true := by assumption) (p_count
    : pm.count = true := by assumption) (p_mgmt : pm.mgmt = true := by assumption) : Keeps pm st0 (State.t1Dynamic s k c half) := by
  unfold State.t1Dynamic
  try dsimp only
  with_reducible repeat' (first | assumption | apply State.t1Transfer_keeps | apply State.t1Act_keeps | apply Keeps.ite | (split <;> try dsimp only))

theorem State.t1Slot_keeps {pm : Parts} {st0 : State} {s : State} {k : Nat} {c : Nat} {i : Nat} (hk0 : Keeps pm st0 s) (p_flight : pm.flight = true :=
    by assumption) (p_nextId : pm.nextId = true := by assumption) (p_sched : pm.sched = true := by assumption) (p_mem : pm.mem = true := by
    assumption) (p_hives : pm.hives = true := by assumption) (p_tiers : pm.tiers = true := by assumption) (p_fxps : pm.fxps = true := by assumption)
    (p_err : pm.err = true := by assumption) (p_mirror : pm.mirror = true := by assumption) (p_power : pm.power = true := by assumption) (p_trace :
    pm.trace = true := by assumption) (p_count : pm.count = true := by assumption) (p_mgmt : pm.mgmt = true := by assumption) : Keeps pm st0
    (State.t1Slot s k c i) := by
  unfold State.t1Slot
  try dsimp only
  with_reducible repeat' (first | assumption | apply State.t1Miss_keeps | apply State.cadd_keeps | apply State.t1Refresh_keeps
                                | apply State.t1Dynamic_keeps | apply State.t1Act_keeps | apply State.t1Transfer_keeps | apply State.seqFill_keeps
                                | apply Keeps.ite | (split <;> try dsimp only))

theorem execT1Slot_keeps {pm : Parts} {st0 : State} {k : StackId} {c : T1ChId} {s : State} (hk0 : Keeps pm st0 s) (p_flight : pm.flight = true := by
    assumption) (p_nextId : pm.nextId = true := by assumption) (p_sched : pm.sched = true := by assumption) (p_mem : pm.mem = true := by assumption)
    (p_hives : pm.hives = true := by assumption) (p_tiers : pm.tiers = true := by assumption) (p_fxps : pm.fxps = true := by assumption) (p_err :
    pm.err = true := by assumption) (p_mirror : pm.mirror = true := by assumption) (p_power : pm.power = true := by assumption) (p_trace : pm.trace =
    true := by assumption) (p_count : pm.count = true := by assumption) (p_mgmt : pm.mgmt = true := by assumption) : ∃ u0, execT1Slot k c s = .next u0
    ∧ Keeps pm st0 u0 := by
  unfold execT1Slot
  refine ⟨_, rfl, ?_⟩
  try dsimp only
  with_reducible repeat' (first | assumption | apply State.t1Slot_keeps | apply Keeps.ite | (split <;> try dsimp only))

theorem execT1RefreshForced_keeps {pm : Parts} {st0 : State} {k : StackId} {c : T1ChId} {half : Fin 2} {bank : Fin 16} {s : State} (hk0 : Keeps pm st0
    s) (p_tiers : pm.tiers = true := by assumption) : ∃ u0, execT1RefreshForced k c half bank s = .next u0 ∧ Keeps pm st0 u0 := by
  unfold execT1RefreshForced
  refine ⟨_, rfl, ?_⟩
  try dsimp only
  with_reducible repeat' (first | assumption | apply State.setT1Bank_keeps | apply Keeps.ite | (split <;> try dsimp only))

theorem execT1RowIdlePrecharge_keeps {pm : Parts} {st0 : State} {k : StackId} {c : T1ChId} {half : Fin 2} {bank : Fin 16} {s : State} (hk0 : Keeps pm
    st0 s) (p_tiers : pm.tiers = true := by assumption) : ∃ u0, execT1RowIdlePrecharge k c half bank s = .next u0 ∧ Keeps pm st0 u0 := by
  unfold execT1RowIdlePrecharge
  refine ⟨_, rfl, ?_⟩
  try dsimp only
  with_reducible repeat' (first | assumption | apply State.t1Cmd_keeps | apply State.setT1Bank_keeps | apply Keeps.ite | (split <;> try dsimp only))

theorem State.t1Line_keeps {pm : Parts} {st0 : State} {s : State} {x : Xact} {k : Nat} {l : Line} (hk0 : Keeps pm st0 s) (p_flight : pm.flight = true
    := by assumption) (p_nextId : pm.nextId = true := by assumption) (p_sched : pm.sched = true := by assumption) (p_tiers : pm.tiers = true := by
    assumption) (p_fxps : pm.fxps = true := by assumption) (p_err : pm.err = true := by assumption) (p_mirror : pm.mirror = true := by assumption)
    (p_power : pm.power = true := by assumption) (p_trace : pm.trace = true := by assumption) (p_count : pm.count = true := by assumption) (p_mgmt :
    pm.mgmt = true := by assumption) : Keeps pm st0 (State.t1Line s x k l) := by
  unfold State.t1Line
  try dsimp only
  with_reducible repeat' (first | assumption | apply State.tierData_keeps | apply State.bufMerge_keeps | apply State.setX_keeps
                                | apply State.tierForward_keeps | apply State.addX_keeps | apply Keeps.ite | (split <;> try dsimp only))

theorem State.t1CloseFlag_keeps {pm : Parts} {st0 : State} {s : State} {k : Nat} {c : Nat} {half : Nat} {ecc : BitVec 4} {raw : Line} (hk0 : Keeps pm
    st0 s) (p_tiers : pm.tiers = true := by assumption) (p_err : pm.err = true := by assumption) (p_journal : pm.journal = true := by assumption)
    (p_trace : pm.trace = true := by assumption) (p_count : pm.count = true := by assumption) (p_quench : pm.quench = true := by assumption) (p_mgmt :
    pm.mgmt = true := by assumption) : Keeps pm st0 (State.t1CloseFlag s k c half ecc raw) := by
  unfold State.t1CloseFlag
  try dsimp only
  with_reducible repeat' (first | assumption | apply State.decStart_keeps | apply State.cadd_keeps | (refine State.inputGate_keeps ?_ (by assumption))
                                | apply Keeps.ite | (split <;> try dsimp only))

theorem execT1ReadData_keeps {pm : Parts} {st0 : State} {k : StackId} {c : T1ChId} {half : Fin 2} {ecc : BitVec 4} {raw : Line} {s : State} (hk0 :
    Keeps pm st0 s) (p_flight : pm.flight = true := by assumption) (p_nextId : pm.nextId = true := by assumption) (p_sched : pm.sched = true := by
    assumption) (p_hives : pm.hives = true := by assumption) (p_tiers : pm.tiers = true := by assumption) (p_fxps : pm.fxps = true := by assumption)
    (p_err : pm.err = true := by assumption) (p_mirror : pm.mirror = true := by assumption) (p_journal : pm.journal = true := by assumption) (p_power
    : pm.power = true := by assumption) (p_trace : pm.trace = true := by assumption) (p_count : pm.count = true := by assumption) (p_quench :
    pm.quench = true := by assumption) (p_mgmt : pm.mgmt = true := by assumption) : ∃ u0, execT1ReadData k c half ecc raw s = .next u0 ∧ Keeps pm st0
    u0 := by
  unfold execT1ReadData
  refine ⟨_, rfl, ?_⟩
  try dsimp only
  with_reducible repeat' (first | assumption | apply State.t1CloseFlag_keeps | apply State.setX_keeps | apply State.integrity_keeps
                                | apply State.cadd_keeps | apply State.t1Line_keeps | apply State.tierData_keeps | apply State.slotMiss_keeps
                                | apply State.decStart_keeps | (refine State.inputGate_keeps ?_ (by assumption)) | apply Keeps.ite
                                | (split <;> try dsimp only))

theorem State.decAnswer_keeps {pm : Parts} {st0 : State} {s : State} {u : Nat} {x : Xact} {o : Option Nat} (hk0 : Keeps pm st0 s) (p_flight :
    pm.flight = true := by assumption) (p_nextId : pm.nextId = true := by assumption) (p_sched : pm.sched = true := by assumption) (p_tiers : pm.tiers
    = true := by assumption) (p_fxps : pm.fxps = true := by assumption) (p_err : pm.err = true := by assumption) (p_mirror : pm.mirror = true := by
    assumption) (p_power : pm.power = true := by assumption) (p_trace : pm.trace = true := by assumption) (p_count : pm.count = true := by assumption)
    (p_mgmt : pm.mgmt = true := by assumption) : Keeps pm st0 (State.decAnswer s u x o) := by
  unfold State.decAnswer
  try dsimp only
  with_reducible repeat' (first | assumption | apply State.tierData_keeps | apply State.bufMerge_keeps | apply Keeps.ite | (split <;> try dsimp only))

theorem State.decBuffer_keeps {pm : Parts} {st0 : State} {s : State} {d : DecJob} {changes : Bool} (hk0 : Keeps pm st0 s) (p_tiers : pm.tiers = true
    := by assumption) : Keeps pm st0 (State.decBuffer s d changes).1 := by
  unfold State.decBuffer
  try dsimp only
  with_reducible repeat' (first | assumption | apply State.bufGet_keeps | apply Keeps.ite | (refine Keeps.ofFst (by assumption) ?_)
                                | (apply Keeps.iteFst <;> try dsimp only) | (split <;> try dsimp only))

theorem State.decServe_keeps {pm : Parts} {st0 : State} {s : State} {u : Nat} {d : DecJob} {o : Option Nat} (hk0 : Keeps pm st0 s) (p_flight :
    pm.flight = true := by assumption) (p_nextId : pm.nextId = true := by assumption) (p_sched : pm.sched = true := by assumption) (p_tiers : pm.tiers
    = true := by assumption) (p_fxps : pm.fxps = true := by assumption) (p_err : pm.err = true := by assumption) (p_mirror : pm.mirror = true := by
    assumption) (p_power : pm.power = true := by assumption) (p_trace : pm.trace = true := by assumption) (p_count : pm.count = true := by assumption)
    (p_mgmt : pm.mgmt = true := by assumption) : Keeps pm st0 (State.decServe s u d o) := by
  unfold State.decServe
  try dsimp only
  with_reducible repeat' (first | assumption | apply State.decAnswer_keeps | (split <;> try dsimp only))

theorem State.decRun_keeps {pm : Parts} {st0 : State} {s : State} {u : Nat} {d : DecJob} {room : Bool} (hk0 : Keeps pm st0 s) (p_flight : pm.flight =
    true := by assumption) (p_nextId : pm.nextId = true := by assumption) (p_sched : pm.sched = true := by assumption) (p_mem : pm.mem = true := by
    assumption) (p_tiers : pm.tiers = true := by assumption) (p_fxps : pm.fxps = true := by assumption) (p_err : pm.err = true := by assumption)
    (p_mirror : pm.mirror = true := by assumption) (p_power : pm.power = true := by assumption) (p_trace : pm.trace = true := by assumption) (p_count
    : pm.count = true := by assumption) (p_mgmt : pm.mgmt = true := by assumption) : Keeps pm st0 (State.decRun s u d room) := by
  unfold State.decRun
  try dsimp only
  with_reducible repeat' (first | assumption | apply State.decServe_keeps | apply State.decEnd_keeps | apply Keeps.ite
                                | (refine Keeps.ofFst (by assumption) ?_) | (apply Keeps.iteFst <;> try dsimp only) | (split <;> try dsimp only))

theorem execOuterDecodeDone_keeps {pm : Parts} {st0 : State} {u : Fin 12} {s : State} (hk0 : Keeps pm st0 s) (p_flight : pm.flight = true := by
    assumption) (p_nextId : pm.nextId = true := by assumption) (p_sched : pm.sched = true := by assumption) (p_mem : pm.mem = true := by assumption)
    (p_tiers : pm.tiers = true := by assumption) (p_fxps : pm.fxps = true := by assumption) (p_err : pm.err = true := by assumption) (p_mirror :
    pm.mirror = true := by assumption) (p_power : pm.power = true := by assumption) (p_trace : pm.trace = true := by assumption) (p_count : pm.count =
    true := by assumption) (p_mgmt : pm.mgmt = true := by assumption) : ∃ u0, execOuterDecodeDone u s = .next u0 ∧ Keeps pm st0 u0 := by
  unfold execOuterDecodeDone
  refine ⟨_, rfl, ?_⟩
  try dsimp only
  with_reducible repeat' (first | assumption | apply State.decBuffer_keeps | apply State.decRun_keeps | apply Keeps.ite
                                | (refine Keeps.ofFst (by assumption) ?_) | (apply Keeps.iteFst <;> try dsimp only) | (split <;> try dsimp only))

theorem State.parityRepeat_keeps {pm : Parts} {st0 : State} {s : State} {x : Xact} {k : Nat} {c : Nat} (hk0 : Keeps pm st0 s) (p_flight : pm.flight =
    true := by assumption) (p_sched : pm.sched = true := by assumption) (p_hives : pm.hives = true := by assumption) (p_tiers : pm.tiers = true := by
    assumption) (p_err : pm.err = true := by assumption) (p_trace : pm.trace = true := by assumption) (p_count : pm.count = true := by assumption)
    (p_mgmt : pm.mgmt = true := by assumption) : Keeps pm st0 (State.parityRepeat s x k c) := by
  unfold State.parityRepeat
  try dsimp only
  with_reducible repeat' (first | assumption | apply State.t1Cmd_keeps | apply State.setT1Bank_keeps | apply State.slotMiss_keeps
                                | apply State.setX_keeps | apply Keeps.ite | (split <;> try dsimp only))

theorem State.linkErr_keeps {pm : Parts} {st0 : State} {s : State} {k : Nat} {c : Nat} (hk0 : Keeps pm st0 s) (p_flight : pm.flight = true := by
    assumption) (p_sched : pm.sched = true := by assumption) (p_hives : pm.hives = true := by assumption) (p_tiers : pm.tiers = true := by assumption)
    (p_err : pm.err = true := by assumption) (p_trace : pm.trace = true := by assumption) (p_count : pm.count = true := by assumption) (p_mgmt :
    pm.mgmt = true := by assumption) : Keeps pm st0 (State.linkErr s k c) := by
  unfold State.linkErr
  try dsimp only
  with_reducible repeat' (first | assumption | apply State.failChannel_keeps | apply Keeps.ite
                                | (refine Keeps.lit ?_ rfl; first | assumption | apply State.failChannel_keeps | apply Keeps.ite)
                                | (split <;> try dsimp only))

theorem execT1ParityErr_keeps {pm : Parts} {st0 : State} {k : StackId} {c : T1ChId} {bits : BitVec 2} {s : State} (hk0 : Keeps pm st0 s) (p_flight :
    pm.flight = true := by assumption) (p_sched : pm.sched = true := by assumption) (p_hives : pm.hives = true := by assumption) (p_tiers : pm.tiers =
    true := by assumption) (p_err : pm.err = true := by assumption) (p_trace : pm.trace = true := by assumption) (p_count : pm.count = true := by
    assumption) (p_mgmt : pm.mgmt = true := by assumption) : ∃ u0, execT1ParityErr k c bits s = .next u0 ∧ Keeps pm st0 u0 := by
  unfold execT1ParityErr
  refine ⟨_, rfl, ?_⟩
  try dsimp only
  with_reducible repeat' (first | assumption | apply State.faultAt_keeps | apply State.cadd_keeps | apply State.parityRepeat_keeps
                                | apply State.linkErr_keeps | apply Keeps.ite | (split <;> try dsimp only))

theorem execT1Cattrip_keeps {pm : Parts} {st0 : State} {k : StackId} {s : State} (hk0 : Keeps pm st0 s) (p_flight : pm.flight = true := by assumption)
    (p_sched : pm.sched = true := by assumption) (p_hives : pm.hives = true := by assumption) (p_tiers : pm.tiers = true := by assumption) (p_err :
    pm.err = true := by assumption) (p_trace : pm.trace = true := by assumption) (p_count : pm.count = true := by assumption) (p_mgmt : pm.mgmt = true
    := by assumption) : ∃ u0, execT1Cattrip k s = .next u0 ∧ Keeps pm st0 u0 := by
  unfold execT1Cattrip
  refine ⟨_, rfl, ?_⟩
  try dsimp only
  with_reducible repeat' (first | assumption | apply State.failChannel_keeps | apply Keeps.ite | apply Keeps.foldl | refine Keeps.foldlP ?_ ?_
                                | (intro _ _ _; try dsimp only) | (split <;> try dsimp only))

theorem execT1EcsRead_keeps {pm : Parts} {st0 : State} {k : StackId} {c : T1ChId} {s : State} (hk0 : Keeps pm st0 s) (p_tiers : pm.tiers = true := by
    assumption) : ∃ u0, execT1EcsRead k c s = .next u0 ∧ Keeps pm st0 u0 := by
  unfold execT1EcsRead
  refine ⟨_, rfl, ?_⟩
  try dsimp only
  with_reducible repeat' (first | assumption | apply State.t1Cmd_keeps | apply Keeps.ite | (split <;> try dsimp only))

theorem execT1MrrData_keeps {pm : Parts} {st0 : State} {k : StackId} {c : T1ChId} {count : BitVec 16} {row : BitVec 16} {refSlots : Nat} {s : State}
    (hk0 : Keeps pm st0 s) (p_sched : pm.sched = true := by assumption) (p_tiers : pm.tiers = true := by assumption) (p_err : pm.err = true := by
    assumption) (p_trace : pm.trace = true := by assumption) (p_count : pm.count = true := by assumption) (p_mgmt : pm.mgmt = true := by assumption) :
    ∃ u0, execT1MrrData k c count row refSlots s = .next u0 ∧ Keeps pm st0 u0 := by
  unfold execT1MrrData
  refine ⟨_, rfl, ?_⟩
  try dsimp only
  with_reducible repeat' (first | assumption | apply State.integrity_keeps | apply State.setPv_keeps | apply State.capacityLoss_keeps
                                | apply Keeps.ite | apply Keeps.foldl | refine Keeps.foldlP ?_ ?_
                                | (refine Keeps.lit ?_ rfl; first | assumption | apply State.integrity_keeps | apply State.setPv_keeps | apply State.capacityLoss_keeps | apply Keeps.ite | apply Keeps.foldl)
                                | (intro _ _ _; try dsimp only) | (split <;> try dsimp only))

theorem State.epochShort_keeps {pm : Parts} {st0 : State} {s : State} {p : Nat} (hk0 : Keeps pm st0 s) (p_flight : pm.flight = true := by assumption)
    (p_sched : pm.sched = true := by assumption) (p_hives : pm.hives = true := by assumption) (p_err : pm.err = true := by assumption) (p_trace :
    pm.trace = true := by assumption) (p_count : pm.count = true := by assumption) (p_mgmt : pm.mgmt = true := by assumption) : Keeps pm st0
    (State.epochShort s p) := by
  unfold State.epochShort
  try dsimp only
  with_reducible repeat' (first | assumption | apply State.t1Miss_keeps | apply State.setX_keeps | apply State.slotMiss_keeps | apply Keeps.ite
                                | apply Keeps.foldl | refine Keeps.foldlP ?_ ?_ | (intro _ _ _; try dsimp only) | (split <;> try dsimp only))

theorem execEpochStart_keeps {pm : Parts} {st0 : State} {s : State} (hk0 : Keeps pm st0 s) (p_flight : pm.flight = true := by assumption) (p_clk :
    pm.clk = true := by assumption) (p_sched : pm.sched = true := by assumption) (p_hives : pm.hives = true := by assumption) (p_err : pm.err = true
    := by assumption) (p_power : pm.power = true := by assumption) (p_trace : pm.trace = true := by assumption) (p_count : pm.count = true := by
    assumption) (p_mgmt : pm.mgmt = true := by assumption) : ∃ u0, execEpochStart s = .next u0 ∧ Keeps pm st0 u0 := by
  unfold execEpochStart
  refine ⟨_, rfl, ?_⟩
  try dsimp only
  with_reducible repeat' (first | assumption | apply State.epochShort_keeps | apply State.reducedNow_keeps | apply Keeps.ite
                                | (refine Keeps.lit ?_ rfl; first | assumption | apply State.epochShort_keeps | apply State.reducedNow_keeps | apply Keeps.ite)
                                | (split <;> try dsimp only))

theorem execPageBufferIdleClose_keeps {pm : Parts} {st0 : State} {u : Fin 12} {page : Nat} {s : State} (hk0 : Keeps pm st0 s) (p_tiers : pm.tiers =
    true := by assumption) : ∃ u0, execPageBufferIdleClose u page s = .next u0 ∧ Keeps pm st0 u0 := by
  unfold execPageBufferIdleClose
  refine ⟨_, rfl, ?_⟩
  try dsimp only
  with_reducible repeat' (first | assumption | apply State.setBuf_keeps | apply Keeps.ite | (split <;> try dsimp only))

theorem State.outerRegion_keeps {pm : Parts} {st0 : State} {s : State} {e : Nat} {v : Dword} (hk0 : Keeps pm st0 s) (p_mem : pm.mem = true := by
    assumption) (p_err : pm.err = true := by assumption) (p_mgmt : pm.mgmt = true := by assumption) : Keeps pm st0 (State.outerRegion s e v).1 := by
  unfold State.outerRegion
  try dsimp only
  with_reducible repeat' (first | assumption | apply State.setPv_keeps | apply State.genUp_keeps
                                | (refine Keeps.mem ?_ Mem.wf_filterT1 rfl; first | assumption | apply State.setPv_keeps)
                                | (refine Keeps.mem ?_ Mem.wf_filterT2 rfl; first | assumption | apply State.setPv_keeps) | apply Keeps.ite
                                | apply Keeps.foldl | (apply Keeps.iteFst <;> try dsimp only) | refine Keeps.foldlP ?_ ?_
                                | (refine Keeps.lit ?_ rfl; first | assumption | apply State.setPv_keeps | apply State.genUp_keeps | (refine Keeps.mem ?_ Mem.wf_filterT1 rfl; first | assumption | apply State.setPv_keeps) | (refine Keeps.mem ?_ Mem.wf_filterT2 rfl; first | assumption | apply State.setPv_keeps) | apply Keeps.ite | apply Keeps.foldl)
                                | (intro _ _ _; try dsimp only) | (split <;> try dsimp only))

theorem execOuterRegionWrite_keeps {pm : Parts} {st0 : State} {e : Fin 64} {v : Dword} {s : State} (hk0 : Keeps pm st0 s) (p_mem : pm.mem = true := by
    assumption) (p_err : pm.err = true := by assumption) (p_mgmt : pm.mgmt = true := by assumption) : ∃ u0, execOuterRegionWrite e v s = .next u0 ∧
    Keeps pm st0 u0 := by
  unfold execOuterRegionWrite
  refine ⟨_, rfl, ?_⟩
  try dsimp only
  with_reducible repeat' (first | assumption | apply State.outerRegion_keeps | apply Keeps.ite | (refine Keeps.ofFst (by assumption) ?_)
                                | (apply Keeps.iteFst <;> try dsimp only) | (split <;> try dsimp only))

end Sys2Proof.Machine
end

