-- ==== Sys2Proof/Laws/KeepRouter.lean ====
section
/-!
SUPPORT. KeepRouter.lean: each operation of Machine/Router.lean keeps: the invariant, the queue, and every part of the state that no hypothesis names.
-/
namespace Sys2Proof.Machine
set_option Elab.async false

theorem State.fxpTake_keeps {pm : Parts} {st0 : State} {s : State} {k : Nat} {ps : List Xact} (hk0 : Keeps pm st0 s) (p_flight : pm.flight = true :=
    by assumption) (p_sched : pm.sched = true := by assumption) (p_fxps : pm.fxps = true := by assumption) (p_power : pm.power = true := by
    assumption) (p_count : pm.count = true := by assumption) : Keeps pm st0 (State.fxpTake s k ps) := by
  unfold State.fxpTake
  try dsimp only
  with_reducible repeat' (first | assumption | apply State.sendFrame_keeps | apply State.answerMesh_keeps | apply State.account_keeps
                                | apply Keeps.foldl | refine Keeps.foldlP ?_ ?_ | (intro _ _ _; try dsimp only) | (split <;> try dsimp only))

theorem State.eject_keeps {pm : Parts} {st0 : State} {s : State} {x : Xact} (hk0 : Keeps pm st0 s) (p_flight : pm.flight = true := by assumption) :
    Keeps pm st0 (State.eject s x) := by
  unfold State.eject
  try dsimp only
  with_reducible repeat' (first | assumption | apply State.setX_keeps | (split <;> try dsimp only))

theorem State.edgeIn_keeps {pm : Parts} {st0 : State} {s : State} {ps : List Xact} (hk0 : Keeps pm st0 s) (p_flight : pm.flight = true := by
    assumption) (p_sched : pm.sched = true := by assumption) (p_fxps : pm.fxps = true := by assumption) (p_power : pm.power = true := by assumption)
    (p_count : pm.count = true := by assumption) : Keeps pm st0 (State.edgeIn s ps) := by
  unfold State.edgeIn
  try dsimp only
  with_reducible repeat' (first | assumption | apply State.setX_keeps | apply State.fxpTake_keeps | apply Keeps.ite | apply Keeps.foldl
                                | refine Keeps.foldlP ?_ ?_ | (intro _ _ _; try dsimp only) | (split <;> try dsimp only))

theorem State.routerForward_keeps {pm : Parts} {st0 : State} {s : State} {h : Nat} {d : Nat} (hk0 : Keeps pm st0 s) (p_flight : pm.flight = true := by
    assumption) (p_sched : pm.sched = true := by assumption) (p_hives : pm.hives = true := by assumption) (p_fxps : pm.fxps = true := by assumption)
    (p_err : pm.err = true := by assumption) (p_power : pm.power = true := by assumption) (p_trace : pm.trace = true := by assumption) (p_count :
    pm.count = true := by assumption) (p_mgmt : pm.mgmt = true := by assumption) : Keeps pm st0 (State.routerForward s h d) := by
  unfold State.routerForward
  try dsimp only
  with_reducible repeat' (first | assumption | apply State.linkMismatch_keeps | apply State.occupy_keeps | apply State.cadd_keeps
                                | apply State.account_keeps | apply State.pev_keeps | apply State.eject_keeps | apply State.edgeIn_keeps
                                | apply State.setX_keeps | apply Keeps.ite | apply Keeps.foldl | refine Keeps.foldlP ?_ ?_
                                | (intro _ _ _; try dsimp only) | (split <;> try dsimp only))

theorem execRouterForward_keeps {pm : Parts} {st0 : State} {h : HiveId} {d : Fin 8} {s : State} (hk0 : Keeps pm st0 s) (p_flight : pm.flight = true :=
    by assumption) (p_sched : pm.sched = true := by assumption) (p_hives : pm.hives = true := by assumption) (p_fxps : pm.fxps = true := by
    assumption) (p_err : pm.err = true := by assumption) (p_power : pm.power = true := by assumption) (p_trace : pm.trace = true := by assumption)
    (p_count : pm.count = true := by assumption) (p_mgmt : pm.mgmt = true := by assumption) : ∃ u0, execRouterForward h d s = .next u0 ∧ Keeps pm st0
    u0 := by
  unfold execRouterForward
  refine ⟨_, rfl, ?_⟩
  try dsimp only
  with_reducible repeat' (first | assumption | apply State.routerForward_keeps | apply Keeps.ite | (split <;> try dsimp only))

end Sys2Proof.Machine
end

