-- ==== Sys2Proof/Laws/KeepWindows.lean ====
section
/-!
SUPPORT. KeepWindows.lean: each operation of Machine/Windows.lean keeps: the invariant, the queue, and every part of the state that no hypothesis names.
-/
namespace Sys2Proof.Machine
set_option Elab.async false

theorem State.giveBack_keeps {pm : Parts} {st0 : State} {s : State} {h : Nat} {k : Nat × Nat × Nat × Nat} {n : Nat} {base : Nat} (hk0 : Keeps pm st0
    s) (p_flight : pm.flight = true := by assumption) (p_nextId : pm.nextId = true := by assumption) (p_sched : pm.sched = true := by assumption)
    (p_hives : pm.hives = true := by assumption) (p_wins : pm.wins = true := by assumption) (p_fxps : pm.fxps = true := by assumption) (p_err : pm.err
    = true := by assumption) (p_mirror : pm.mirror = true := by assumption) (p_journal : pm.journal = true := by assumption) (p_power : pm.power =
    true := by assumption) (p_trace : pm.trace = true := by assumption) (p_count : pm.count = true := by assumption) (p_mgmt : pm.mgmt = true := by
    assumption) : Keeps pm st0 (State.giveBack s h k n base) := by
  unfold State.giveBack
  try dsimp only
  with_reducible repeat' (first | assumption | apply State.winReturn_keeps | apply State.sendFrame_keeps | apply Keeps.ite
                                | (split <;> try dsimp only))

theorem State.closeReturn_keeps {pm : Parts} {st0 : State} {s : State} {h : Nat} (hk0 : Keeps pm st0 s) (p_flight : pm.flight = true := by assumption)
    (p_nextId : pm.nextId = true := by assumption) (p_sched : pm.sched = true := by assumption) (p_hives : pm.hives = true := by assumption) (p_wins :
    pm.wins = true := by assumption) (p_fxps : pm.fxps = true := by assumption) (p_err : pm.err = true := by assumption) (p_mirror : pm.mirror = true
    := by assumption) (p_journal : pm.journal = true := by assumption) (p_power : pm.power = true := by assumption) (p_trace : pm.trace = true := by
    assumption) (p_count : pm.count = true := by assumption) (p_mgmt : pm.mgmt = true := by assumption) : Keeps pm st0 (State.closeReturn s h) := by
  unfold State.closeReturn
  try dsimp only
  with_reducible repeat' (first | assumption | apply State.giveBack_keeps | apply State.mapAllot_keeps | apply Keeps.ite | apply Keeps.foldl
                                | refine Keeps.foldlP ?_ ?_ | (intro _ _ _; try dsimp only) | (split <;> try dsimp only))

theorem State.closingAt_keeps {pm : Parts} {st0 : State} {s : State} {h : Nat} {k : Nat × Nat × Nat × Nat} (hk0 : Keeps pm st0 s) (p_flight :
    pm.flight = true := by assumption) (p_nextId : pm.nextId = true := by assumption) (p_sched : pm.sched = true := by assumption) (p_hives : pm.hives
    = true := by assumption) (p_wins : pm.wins = true := by assumption) (p_fxps : pm.fxps = true := by assumption) (p_err : pm.err = true := by
    assumption) (p_mirror : pm.mirror = true := by assumption) (p_journal : pm.journal = true := by assumption) (p_power : pm.power = true := by
    assumption) (p_trace : pm.trace = true := by assumption) (p_count : pm.count = true := by assumption) (p_mgmt : pm.mgmt = true := by assumption) :
    Keeps pm st0 (State.closingAt s h k) := by
  unfold State.closingAt
  try dsimp only
  with_reducible repeat' (first | assumption | apply State.mapAllot_keeps | apply State.closeReturn_keeps | apply State.retryLines_keeps
                                | (split <;> try dsimp only))

theorem State.revokeAt_keeps {pm : Parts} {st0 : State} {s : State} {h : Nat} {k : Nat × Nat × Nat × Nat} (hk0 : Keeps pm st0 s) (p_flight : pm.flight
    = true := by assumption) (p_nextId : pm.nextId = true := by assumption) (p_sched : pm.sched = true := by assumption) (p_hives : pm.hives = true :=
    by assumption) (p_wins : pm.wins = true := by assumption) (p_fxps : pm.fxps = true := by assumption) (p_err : pm.err = true := by assumption)
    (p_mirror : pm.mirror = true := by assumption) (p_journal : pm.journal = true := by assumption) (p_power : pm.power = true := by assumption)
    (p_trace : pm.trace = true := by assumption) (p_count : pm.count = true := by assumption) (p_mgmt : pm.mgmt = true := by assumption) : Keeps pm
    st0 (State.revokeAt s h k) := by
  unfold State.revokeAt
  try dsimp only
  with_reducible repeat' (first | assumption | apply State.mapAllot_keeps | apply State.giveBack_keeps | apply State.retryLines_keeps
                                | (split <;> try dsimp only))

theorem State.markSource_keeps {pm : Parts} {st0 : State} {s : State} {h : Nat} {chip : Nat} {hive : Nat} {w : Nat} {gen : Nat} (hk0 : Keeps pm st0 s)
    (p_wins : pm.wins = true := by assumption) : Keeps pm st0 (State.markSource s h chip hive w gen) := by
  unfold State.markSource
  try dsimp only
  with_reducible repeat' (first | assumption | apply State.setWinx_keeps | apply Keeps.ite | (split <;> try dsimp only))

theorem State.releaseHeld_keeps {pm : Parts} {st0 : State} {s : State} {h : Nat} {w : Nat} {chip : Nat} {hive : Nat} (hk0 : Keeps pm st0 s) (p_flight
    : pm.flight = true := by assumption) (p_nextId : pm.nextId = true := by assumption) (p_sched : pm.sched = true := by assumption) (p_hives :
    pm.hives = true := by assumption) (p_wins : pm.wins = true := by assumption) (p_fxps : pm.fxps = true := by assumption) (p_err : pm.err = true :=
    by assumption) (p_mirror : pm.mirror = true := by assumption) (p_journal : pm.journal = true := by assumption) (p_power : pm.power = true := by
    assumption) (p_trace : pm.trace = true := by assumption) (p_count : pm.count = true := by assumption) (p_mgmt : pm.mgmt = true := by assumption) :
    Keeps pm st0 (State.releaseHeld s h w chip hive) := by
  unfold State.releaseHeld
  try dsimp only
  with_reducible repeat' (first | assumption | apply State.setWinx_keeps | apply State.applyFrame_keeps | apply Keeps.foldl
                                | refine Keeps.foldlP ?_ ?_
                                | (refine Keeps.lit ?_ rfl; first | assumption | apply State.setWinx_keeps | apply State.applyFrame_keeps | apply Keeps.foldl)
                                | (intro _ _ _; try dsimp only) | (split <;> try dsimp only))

theorem State.markTry_keeps {pm : Parts} {st0 : State} {s : State} {h : Nat} {w : Nat} (hk0 : Keeps pm st0 s) (p_flight : pm.flight = true := by
    assumption) (p_nextId : pm.nextId = true := by assumption) (p_sched : pm.sched = true := by assumption) (p_hives : pm.hives = true := by
    assumption) (p_wins : pm.wins = true := by assumption) (p_fxps : pm.fxps = true := by assumption) (p_err : pm.err = true := by assumption)
    (p_mirror : pm.mirror = true := by assumption) (p_journal : pm.journal = true := by assumption) (p_power : pm.power = true := by assumption)
    (p_trace : pm.trace = true := by assumption) (p_count : pm.count = true := by assumption) (p_mgmt : pm.mgmt = true := by assumption) : Keeps pm
    st0 (State.markTry s h w) := by
  unfold State.markTry
  try dsimp only
  with_reducible repeat' (first | assumption | apply State.setWinx_keeps | apply State.releaseHeld_keeps | apply State.markSource_keeps
                                | apply Keeps.ite | apply Keeps.foldl | refine Keeps.foldlP ?_ ?_ | (intro _ _ _; try dsimp only)
                                | (split <;> try dsimp only))

theorem State.markAt_keeps {pm : Parts} {st0 : State} {s : State} {h : Nat} {w : Nat} {chip : Nat} {hive : Nat} {gen : Nat} (hk0 : Keeps pm st0 s)
    (p_flight : pm.flight = true := by assumption) (p_nextId : pm.nextId = true := by assumption) (p_sched : pm.sched = true := by assumption)
    (p_hives : pm.hives = true := by assumption) (p_wins : pm.wins = true := by assumption) (p_fxps : pm.fxps = true := by assumption) (p_err : pm.err
    = true := by assumption) (p_mirror : pm.mirror = true := by assumption) (p_journal : pm.journal = true := by assumption) (p_power : pm.power =
    true := by assumption) (p_trace : pm.trace = true := by assumption) (p_count : pm.count = true := by assumption) (p_mgmt : pm.mgmt = true := by
    assumption) : Keeps pm st0 (State.markAt s h w chip hive gen) := by
  unfold State.markAt
  try dsimp only
  with_reducible repeat' (first | assumption | apply State.markTry_keeps | apply State.setWinx_keeps | (split <;> try dsimp only))

theorem State.applyForwarded_keeps {pm : Parts} {st0 : State} {s : State} {y : Xact} (hk0 : Keeps pm st0 s) (p_flight : pm.flight = true := by
    assumption) (p_nextId : pm.nextId = true := by assumption) (p_sched : pm.sched = true := by assumption) (p_hives : pm.hives = true := by
    assumption) (p_wins : pm.wins = true := by assumption) (p_fxps : pm.fxps = true := by assumption) (p_err : pm.err = true := by assumption)
    (p_mirror : pm.mirror = true := by assumption) (p_journal : pm.journal = true := by assumption) (p_power : pm.power = true := by assumption)
    (p_trace : pm.trace = true := by assumption) (p_count : pm.count = true := by assumption) (p_mgmt : pm.mgmt = true := by assumption) : Keeps pm
    st0 (State.applyForwarded s y) := by
  unfold State.applyForwarded
  try dsimp only
  with_reducible repeat' (first | assumption | apply State.rackCount_keeps | apply State.discard_keeps | apply State.applyLine_keeps
                                | apply State.spend_keeps | (split <;> try dsimp only))

theorem State.forwardLine_keeps {pm : Parts} {st0 : State} {s : State} {h : Nat} {w : Nat} {kind : AccKind} {f : Frame} {t0 : State} (hk0 : Keeps pm
    st0 s) (he : State.forwardLine s h w kind f = some t0) (p_flight : pm.flight = true := by assumption) (p_nextId : pm.nextId = true := by
    assumption) (p_wins : pm.wins = true := by assumption) (p_fxps : pm.fxps = true := by assumption) (p_power : pm.power = true := by assumption) :
    Keeps pm st0 t0 := by
  unfold State.forwardLine at he
  try dsimp only at he
  repeat' (split at he)
  all_goals first | contradiction | (replace he := Option.some.inj he; first | cases he | skip) | skip
  all_goals (try dsimp only)
  all_goals with_reducible repeat' (first | assumption | apply State.mapAllot_keeps | apply State.addX_keeps | apply State.sendFrame_keeps
                                          | apply Keeps.ite
                                          | (refine Keeps.lit ?_ rfl; first | assumption | apply State.mapAllot_keeps | apply State.addX_keeps | apply State.sendFrame_keeps | apply Keeps.ite)
                                          | (split <;> try dsimp only))

theorem State.fwdAsk_keeps {pm : Parts} {st0 : State} {s : State} {h : Nat} {w : Nat} (hk0 : Keeps pm st0 s) (p_hives : pm.hives = true := by
    assumption) (p_wins : pm.wins = true := by assumption) (p_fxps : pm.fxps = true := by assumption) (p_err : pm.err = true := by assumption)
    (p_power : pm.power = true := by assumption) (p_trace : pm.trace = true := by assumption) (p_count : pm.count = true := by assumption) (p_mgmt :
    pm.mgmt = true := by assumption) : Keeps pm st0 (State.fwdAsk s h w) := by
  unfold State.fwdAsk
  try dsimp only
  with_reducible repeat' (first | assumption | apply State.askCredits_keeps | (split <;> try dsimp only))

theorem State.fwdPump_keeps {pm : Parts} {st0 : State} {a0 : Nat} {a1 : State} {a2 : Nat} {a3 : Nat} (hk0 : Keeps pm st0 a1) (p_flight : pm.flight =
    true := by assumption) (p_nextId : pm.nextId = true := by assumption) (p_sched : pm.sched = true := by assumption) (p_hives : pm.hives = true :=
    by assumption) (p_wins : pm.wins = true := by assumption) (p_fxps : pm.fxps = true := by assumption) (p_err : pm.err = true := by assumption)
    (p_mirror : pm.mirror = true := by assumption) (p_journal : pm.journal = true := by assumption) (p_power : pm.power = true := by assumption)
    (p_trace : pm.trace = true := by assumption) (p_count : pm.count = true := by assumption) (p_mgmt : pm.mgmt = true := by assumption) : Keeps pm
    st0 (State.fwdPump a0 a1 a2 a3) := by
  induction a0 generalizing a1 a2 a3 with
  | zero =>
    unfold State.fwdPump
    try dsimp only
    with_reducible repeat' (first | assumption | apply State.setWinx_keeps | apply State.markAt_keeps | apply State.sendFrame_keeps
                                  | apply State.winTry_keeps | apply State.fwdAsk_keeps | (refine State.forwardLine_keeps ?_ (by assumption))
                                  | apply ih | apply Keeps.ite | apply Keeps.foldl | refine Keeps.foldlP ?_ ?_
                                  | (refine Keeps.lit ?_ rfl; first | assumption | apply State.setWinx_keeps | apply State.markAt_keeps | apply State.sendFrame_keeps | apply State.winTry_keeps | apply State.fwdAsk_keeps | (refine State.forwardLine_keeps ?_ (by assumption)) | apply ih | apply Keeps.ite | apply Keeps.foldl)
                                  | (intro _ _ _; try dsimp only) | (split <;> try dsimp only))
  | succ n ih =>
    unfold State.fwdPump
    try dsimp only
    with_reducible repeat' (first | assumption | apply State.setWinx_keeps | apply State.markAt_keeps | apply State.sendFrame_keeps
                                  | apply State.winTry_keeps | apply State.fwdAsk_keeps | (refine State.forwardLine_keeps ?_ (by assumption))
                                  | apply ih | apply Keeps.ite | apply Keeps.foldl | refine Keeps.foldlP ?_ ?_
                                  | (refine Keeps.lit ?_ rfl; first | assumption | apply State.setWinx_keeps | apply State.markAt_keeps | apply State.sendFrame_keeps | apply State.winTry_keeps | apply State.fwdAsk_keeps | (refine State.forwardLine_keeps ?_ (by assumption)) | apply ih | apply Keeps.ite | apply Keeps.foldl)
                                  | (intro _ _ _; try dsimp only) | (split <;> try dsimp only))

theorem State.holdLine_keeps {pm : Parts} {st0 : State} {s : State} {h : Nat} {w : Nat} {kind : AccKind} {f : Frame} (hk0 : Keeps pm st0 s) (p_wins :
    pm.wins = true := by assumption) : Keeps pm st0 (State.holdLine s h w kind f) := by
  unfold State.holdLine
  try dsimp only
  with_reducible repeat' (first | assumption | (refine Keeps.lit ?_ rfl; first | assumption) | (split <;> try dsimp only))

theorem State.redirectAckAt_keeps {pm : Parts} {st0 : State} {s : State} {h : Nat} {w : Nat} {chip : Nat} {hive : Nat} {n : Nat} (hk0 : Keeps pm st0
    s) (p_flight : pm.flight = true := by assumption) (p_nextId : pm.nextId = true := by assumption) (p_sched : pm.sched = true := by assumption)
    (p_hives : pm.hives = true := by assumption) (p_wins : pm.wins = true := by assumption) (p_fxps : pm.fxps = true := by assumption) (p_err : pm.err
    = true := by assumption) (p_mirror : pm.mirror = true := by assumption) (p_journal : pm.journal = true := by assumption) (p_power : pm.power =
    true := by assumption) (p_trace : pm.trace = true := by assumption) (p_count : pm.count = true := by assumption) (p_mgmt : pm.mgmt = true := by
    assumption) : Keeps pm st0 (State.redirectAckAt s h w chip hive n) := by
  unfold State.redirectAckAt
  try dsimp only
  with_reducible repeat' (first | assumption | apply State.fwdPump_keeps | apply State.setWinx_keeps | (split <;> try dsimp only))

theorem State.redirectAt_keeps {pm : Parts} {st0 : State} {s : State} {h : Nat} {k : Nat × Nat × Nat × Nat} {new : Nat × Nat × Nat × Nat} {nbase :
    Nat} (hk0 : Keeps pm st0 s) (p_flight : pm.flight = true := by assumption) (p_nextId : pm.nextId = true := by assumption) (p_sched : pm.sched =
    true := by assumption) (p_hives : pm.hives = true := by assumption) (p_wins : pm.wins = true := by assumption) (p_fxps : pm.fxps = true := by
    assumption) (p_err : pm.err = true := by assumption) (p_mirror : pm.mirror = true := by assumption) (p_journal : pm.journal = true := by
    assumption) (p_power : pm.power = true := by assumption) (p_trace : pm.trace = true := by assumption) (p_count : pm.count = true := by assumption)
    (p_mgmt : pm.mgmt = true := by assumption) : Keeps pm st0 (State.redirectAt s h k new nbase) := by
  unfold State.redirectAt
  try dsimp only
  with_reducible repeat' (first | assumption | apply State.mapAllot_keeps | apply State.setWinx_keeps | apply State.askCredits_keeps
                                | apply State.sendFrame_keeps | apply State.redirectAckAt_keeps | apply State.retryLines_keeps | apply Keeps.ite
                                | (refine Keeps.lit ?_ rfl; first | assumption | apply State.mapAllot_keeps | apply State.setWinx_keeps | apply State.askCredits_keeps | apply State.sendFrame_keeps | apply State.redirectAckAt_keeps | apply State.retryLines_keeps | apply Keeps.ite)
                                | (split <;> try dsimp only))

theorem State.sendRedirects_keeps {pm : Parts} {st0 : State} {s : State} {h : Nat} {w : Nat} {gen : Nat} {nbase : Nat} (hk0 : Keeps pm st0 s)
    (p_flight : pm.flight = true := by assumption) (p_nextId : pm.nextId = true := by assumption) (p_sched : pm.sched = true := by assumption)
    (p_hives : pm.hives = true := by assumption) (p_wins : pm.wins = true := by assumption) (p_fxps : pm.fxps = true := by assumption) (p_err : pm.err
    = true := by assumption) (p_mirror : pm.mirror = true := by assumption) (p_journal : pm.journal = true := by assumption) (p_power : pm.power =
    true := by assumption) (p_trace : pm.trace = true := by assumption) (p_count : pm.count = true := by assumption) (p_mgmt : pm.mgmt = true := by
    assumption) : Keeps pm st0 (State.sendRedirects s h w gen nbase) := by
  unfold State.sendRedirects
  try dsimp only
  with_reducible repeat' (first | assumption | apply State.setWinx_keeps | apply State.redirectAt_keeps | apply State.sendFrame_keeps
                                | apply State.fwdPump_keeps | apply Keeps.ite | apply Keeps.foldl | refine Keeps.foldlP ?_ ?_
                                | (intro _ _ _; try dsimp only) | (split <;> try dsimp only))

theorem State.winEffect_keeps {pm : Parts} {st0 : State} {s : State} {h : Nat} {c : Nat} {w : Nat} {op : Nat} {st : Quad} {jseq : Option Nat} (hk0 :
    Keeps pm st0 s) (p_flight : pm.flight = true := by assumption) (p_nextId : pm.nextId = true := by assumption) (p_sched : pm.sched = true := by
    assumption) (p_hives : pm.hives = true := by assumption) (p_wins : pm.wins = true := by assumption) (p_fxps : pm.fxps = true := by assumption)
    (p_err : pm.err = true := by assumption) (p_mirror : pm.mirror = true := by assumption) (p_journal : pm.journal = true := by assumption) (p_power
    : pm.power = true := by assumption) (p_trace : pm.trace = true := by assumption) (p_count : pm.count = true := by assumption) (p_mgmt : pm.mgmt =
    true := by assumption) : Keeps pm st0 (State.winEffect s h c w op st jseq) := by
  unfold State.winEffect
  try dsimp only
  with_reducible repeat' (first | assumption | apply State.setWinx_keeps | apply State.setWin_keeps | apply State.winChange_keeps
                                | apply State.jChange_keeps | apply State.setStatus_keeps | apply State.sendRedirects_keeps
                                | apply State.sendFrame_keeps | apply State.closingAt_keeps | apply State.revokeAt_keeps | apply State.winTry_keeps
                                | apply Keeps.ite | apply Keeps.foldl | refine Keeps.foldlP ?_ ?_ | (intro _ _ _; try dsimp only)
                                | (split <;> try dsimp only))

theorem State.winOp_keeps {pm : Parts} {st0 : State} {s : State} {h : Nat} {c : Nat} {w : Nat} {op : Nat} (hk0 : Keeps pm st0 s) (p_flight : pm.flight
    = true := by assumption) (p_nextId : pm.nextId = true := by assumption) (p_sched : pm.sched = true := by assumption) (p_hives : pm.hives = true :=
    by assumption) (p_wins : pm.wins = true := by assumption) (p_fxps : pm.fxps = true := by assumption) (p_err : pm.err = true := by assumption)
    (p_mirror : pm.mirror = true := by assumption) (p_journal : pm.journal = true := by assumption) (p_power : pm.power = true := by assumption)
    (p_trace : pm.trace = true := by assumption) (p_count : pm.count = true := by assumption) (p_mgmt : pm.mgmt = true := by assumption) : Keeps pm
    st0 (State.winOp s h c w op) := by
  unfold State.winOp
  try dsimp only
  with_reducible repeat' (first | assumption | apply State.wakeHive_keeps | apply State.setStatus_keeps | apply State.jAccept_keeps
                                | apply State.winEffect_keeps | apply Keeps.ite
                                | (refine Keeps.lit ?_ rfl; first | assumption | apply State.wakeHive_keeps | apply State.setStatus_keeps | apply State.jAccept_keeps | apply State.winEffect_keeps | apply Keeps.ite)
                                | (split <;> try dsimp only))

theorem execWinOpen_keeps {pm : Parts} {st0 : State} {h : HiveId} {c : CtxId} {w : Fin 32} {s : State} (hk0 : Keeps pm st0 s) (p_flight : pm.flight =
    true := by assumption) (p_nextId : pm.nextId = true := by assumption) (p_sched : pm.sched = true := by assumption) (p_hives : pm.hives = true :=
    by assumption) (p_wins : pm.wins = true := by assumption) (p_fxps : pm.fxps = true := by assumption) (p_err : pm.err = true := by assumption)
    (p_mirror : pm.mirror = true := by assumption) (p_journal : pm.journal = true := by assumption) (p_power : pm.power = true := by assumption)
    (p_trace : pm.trace = true := by assumption) (p_count : pm.count = true := by assumption) (p_mgmt : pm.mgmt = true := by assumption) : ∃ u0,
    execWinOpen h c w s = .next u0 ∧ Keeps pm st0 u0 := by
  unfold execWinOpen
  refine ⟨_, rfl, ?_⟩
  try dsimp only
  with_reducible repeat' (first | assumption | apply State.cmd_keeps | apply State.winOp_keeps | (intro _ _; try dsimp only)
                                | (split <;> try dsimp only))

theorem execWinClose_keeps {pm : Parts} {st0 : State} {h : HiveId} {c : CtxId} {w : Fin 32} {s : State} (hk0 : Keeps pm st0 s) (p_flight : pm.flight =
    true := by assumption) (p_nextId : pm.nextId = true := by assumption) (p_sched : pm.sched = true := by assumption) (p_hives : pm.hives = true :=
    by assumption) (p_wins : pm.wins = true := by assumption) (p_fxps : pm.fxps = true := by assumption) (p_err : pm.err = true := by assumption)
    (p_mirror : pm.mirror = true := by assumption) (p_journal : pm.journal = true := by assumption) (p_power : pm.power = true := by assumption)
    (p_trace : pm.trace = true := by assumption) (p_count : pm.count = true := by assumption) (p_mgmt : pm.mgmt = true := by assumption) : ∃ u0,
    execWinClose h c w s = .next u0 ∧ Keeps pm st0 u0 := by
  unfold execWinClose
  refine ⟨_, rfl, ?_⟩
  try dsimp only
  with_reducible repeat' (first | assumption | apply State.cmd_keeps | apply State.winOp_keeps | (intro _ _; try dsimp only)
                                | (split <;> try dsimp only))

theorem execWinRevoke_keeps {pm : Parts} {st0 : State} {h : HiveId} {c : CtxId} {w : Fin 32} {s : State} (hk0 : Keeps pm st0 s) (p_flight : pm.flight
    = true := by assumption) (p_nextId : pm.nextId = true := by assumption) (p_sched : pm.sched = true := by assumption) (p_hives : pm.hives = true :=
    by assumption) (p_wins : pm.wins = true := by assumption) (p_fxps : pm.fxps = true := by assumption) (p_err : pm.err = true := by assumption)
    (p_mirror : pm.mirror = true := by assumption) (p_journal : pm.journal = true := by assumption) (p_power : pm.power = true := by assumption)
    (p_trace : pm.trace = true := by assumption) (p_count : pm.count = true := by assumption) (p_mgmt : pm.mgmt = true := by assumption) : ∃ u0,
    execWinRevoke h c w s = .next u0 ∧ Keeps pm st0 u0 := by
  unfold execWinRevoke
  refine ⟨_, rfl, ?_⟩
  try dsimp only
  with_reducible repeat' (first | assumption | apply State.cmd_keeps | apply State.winOp_keeps | (intro _ _; try dsimp only)
                                | (split <;> try dsimp only))

theorem execWinForward_keeps {pm : Parts} {st0 : State} {h : HiveId} {c : CtxId} {w : Fin 32} {s : State} (hk0 : Keeps pm st0 s) (p_flight : pm.flight
    = true := by assumption) (p_nextId : pm.nextId = true := by assumption) (p_sched : pm.sched = true := by assumption) (p_hives : pm.hives = true :=
    by assumption) (p_wins : pm.wins = true := by assumption) (p_fxps : pm.fxps = true := by assumption) (p_err : pm.err = true := by assumption)
    (p_mirror : pm.mirror = true := by assumption) (p_journal : pm.journal = true := by assumption) (p_power : pm.power = true := by assumption)
    (p_trace : pm.trace = true := by assumption) (p_count : pm.count = true := by assumption) (p_mgmt : pm.mgmt = true := by assumption) : ∃ u0,
    execWinForward h c w s = .next u0 ∧ Keeps pm st0 u0 := by
  unfold execWinForward
  refine ⟨_, rfl, ?_⟩
  try dsimp only
  with_reducible repeat' (first | assumption | apply State.cmd_keeps | apply State.winOp_keeps | (intro _ _; try dsimp only)
                                | (split <;> try dsimp only))

theorem execWinRead_keeps {pm : Parts} {st0 : State} {h : HiveId} {c : CtxId} {w : Fin 32} {s : State} (hk0 : Keeps pm st0 s) (p_hives : pm.hives =
    true := by assumption) : ∃ u0, execWinRead h c w s = .next u0 ∧ Keeps pm st0 u0 := by
  unfold execWinRead
  refine ⟨_, rfl, ?_⟩
  try dsimp only
  with_reducible repeat' (first | assumption | apply State.cmd_keeps | apply State.wakeHive_keeps | apply State.setStatus_keeps
                                | apply State.setPage_keeps | apply Keeps.ite | (intro _ _; try dsimp only) | (split <;> try dsimp only))

theorem execWinCloseTimeout_keeps {pm : Parts} {st0 : State} {h : HiveId} {w : Fin 32} {s : State} (hk0 : Keeps pm st0 s) (p_flight : pm.flight = true
    := by assumption) (p_nextId : pm.nextId = true := by assumption) (p_sched : pm.sched = true := by assumption) (p_hives : pm.hives = true := by
    assumption) (p_wins : pm.wins = true := by assumption) (p_fxps : pm.fxps = true := by assumption) (p_err : pm.err = true := by assumption)
    (p_mirror : pm.mirror = true := by assumption) (p_journal : pm.journal = true := by assumption) (p_power : pm.power = true := by assumption)
    (p_trace : pm.trace = true := by assumption) (p_count : pm.count = true := by assumption) (p_mgmt : pm.mgmt = true := by assumption) : ∃ u0,
    execWinCloseTimeout h w s = .next u0 ∧ Keeps pm st0 u0 := by
  unfold execWinCloseTimeout
  refine ⟨_, rfl, ?_⟩
  try dsimp only
  with_reducible repeat' (first | assumption | apply State.faultAt_keeps | apply State.winClosed_keeps | apply Keeps.ite | apply Keeps.foldl
                                | refine Keeps.foldlP ?_ ?_
                                | (refine Keeps.lit ?_ rfl; first | assumption | apply State.faultAt_keeps | apply State.winClosed_keeps | apply Keeps.ite | apply Keeps.foldl)
                                | (intro _ _ _; try dsimp only) | (split <;> try dsimp only))

theorem State.frameSeen_keeps {pm : Parts} {st0 : State} {s : State} {k : Nat} {kind : Nat} {f : Frame} (hk0 : Keeps pm st0 s) (p_fxps : pm.fxps =
    true := by assumption) (p_err : pm.err = true := by assumption) (p_journal : pm.journal = true := by assumption) (p_power : pm.power = true := by
    assumption) (p_trace : pm.trace = true := by assumption) (p_mgmt : pm.mgmt = true := by assumption) : Keeps pm st0 (State.frameSeen s k kind f) :=
    by
  unfold State.frameSeen
  try dsimp only
  with_reducible repeat' (first | assumption | apply State.recInput_keeps | apply State.pev_keeps
                                | (refine Keeps.lit ?_ rfl; first | assumption | apply State.recInput_keeps | apply State.pev_keeps)
                                | (split <;> try dsimp only))

theorem State.frameAt_keeps {pm : Parts} {st0 : State} {s : State} {y : Xact} (hk0 : Keeps pm st0 s) (p_flight : pm.flight = true := by assumption)
    (p_nextId : pm.nextId = true := by assumption) (p_sched : pm.sched = true := by assumption) (p_hives : pm.hives = true := by assumption) (p_wins :
    pm.wins = true := by assumption) (p_fxps : pm.fxps = true := by assumption) (p_err : pm.err = true := by assumption) (p_mirror : pm.mirror = true
    := by assumption) (p_journal : pm.journal = true := by assumption) (p_power : pm.power = true := by assumption) (p_trace : pm.trace = true := by
    assumption) (p_count : pm.count = true := by assumption) (p_mgmt : pm.mgmt = true := by assumption) : Keeps pm st0 (State.frameAt s y) := by
  unfold State.frameAt
  try dsimp only
  with_reducible repeat' (first | assumption | apply State.rackCount_keeps | apply State.discard_keeps | apply State.holdLine_keeps
                                | apply State.spend_keeps | apply State.applyForwarded_keeps | apply State.fwdPump_keeps
                                | apply State.applyFrame_keeps | apply Keeps.ite | (split <;> try dsimp only))

theorem State.fxpInject_keeps {pm : Parts} {st0 : State} {s : State} {k : Nat} {x : Xact} (hk0 : Keeps pm st0 s) (p_flight : pm.flight = true := by
    assumption) : Keeps pm st0 (State.fxpInject s k x) := by
  unfold State.fxpInject
  try dsimp only
  with_reducible repeat' (first | assumption | apply State.setX_keeps | apply Keeps.ite | (split <;> try dsimp only))

theorem State.remoteLate_keeps {pm : Parts} {st0 : State} {s : State} {k : Nat} {cause : Nat} {late : Nat} {x : Xact} (hk0 : Keeps pm st0 s) (p_sched
    : pm.sched = true := by assumption) (p_hives : pm.hives = true := by assumption) (p_err : pm.err = true := by assumption) (p_trace : pm.trace =
    true := by assumption) (p_count : pm.count = true := by assumption) (p_mgmt : pm.mgmt = true := by assumption) : Keeps pm st0 (State.remoteLate s
    k cause late x).1 := by
  unfold State.remoteLate
  try dsimp only
  with_reducible repeat' (first | assumption | apply State.slotMiss_keeps | (split <;> try dsimp only))

theorem State.frameIn_keeps {pm : Parts} {st0 : State} {s : State} {k : Nat} {knd : AccKind} {kind : Nat} {f : Frame} (hk0 : Keeps pm st0 s) (p_flight
    : pm.flight = true := by assumption) (p_nextId : pm.nextId = true := by assumption) (p_sched : pm.sched = true := by assumption) (p_hives :
    pm.hives = true := by assumption) (p_fxps : pm.fxps = true := by assumption) (p_err : pm.err = true := by assumption) (p_journal : pm.journal =
    true := by assumption) (p_power : pm.power = true := by assumption) (p_trace : pm.trace = true := by assumption) (p_count : pm.count = true := by
    assumption) (p_mgmt : pm.mgmt = true := by assumption) : Keeps pm st0 (State.frameIn s k knd kind f) := by
  unfold State.frameIn
  try dsimp only
  with_reducible repeat' (first | assumption | apply State.account_keeps | apply State.frameSeen_keeps | apply State.addX_keeps
                                | apply State.remoteLate_keeps | apply State.fxpInject_keeps | apply Keeps.ite | apply Keeps.foldl
                                | (refine Keeps.ofFst (by assumption) ?_) | (apply Keeps.iteFst <;> try dsimp only) | refine Keeps.foldlP ?_ ?_
                                | (intro _ _ _; try dsimp only) | (split <;> try dsimp only))

theorem execFxpSchedRelease_keeps {pm : Parts} {st0 : State} {x : Nat} {s : State} (hk0 : Keeps pm st0 s) (p_flight : pm.flight = true := by
    assumption) (p_sched : pm.sched = true := by assumption) (p_hives : pm.hives = true := by assumption) (p_err : pm.err = true := by assumption)
    (p_trace : pm.trace = true := by assumption) (p_count : pm.count = true := by assumption) (p_mgmt : pm.mgmt = true := by assumption) : ∃ u0,
    execFxpSchedRelease x s = .next u0 ∧ Keeps pm st0 u0 := by
  unfold execFxpSchedRelease
  refine ⟨_, rfl, ?_⟩
  try dsimp only
  with_reducible repeat' (first | assumption | apply State.remoteLate_keeps | apply State.fxpInject_keeps | apply Keeps.ite
                                | (refine Keeps.ofFst (by assumption) ?_) | (apply Keeps.iteFst <;> try dsimp only) | (split <;> try dsimp only))

theorem execRwriteRecv_keeps {pm : Parts} {st0 : State} {k : FxpId} {f : Frame} {s : State} (hk0 : Keeps pm st0 s) (p_flight : pm.flight = true := by
    assumption) (p_nextId : pm.nextId = true := by assumption) (p_sched : pm.sched = true := by assumption) (p_hives : pm.hives = true := by
    assumption) (p_fxps : pm.fxps = true := by assumption) (p_err : pm.err = true := by assumption) (p_journal : pm.journal = true := by assumption)
    (p_power : pm.power = true := by assumption) (p_trace : pm.trace = true := by assumption) (p_count : pm.count = true := by assumption) (p_mgmt :
    pm.mgmt = true := by assumption) : ∃ u0, execRwriteRecv k f s = .next u0 ∧ Keeps pm st0 u0 := by
  unfold execRwriteRecv
  refine ⟨_, rfl, ?_⟩
  try dsimp only
  with_reducible repeat' (first | assumption | apply State.frameIn_keeps | (split <;> try dsimp only))

theorem execRaccRecv_keeps {pm : Parts} {st0 : State} {k : FxpId} {f : Frame} {s : State} (hk0 : Keeps pm st0 s) (p_flight : pm.flight = true := by
    assumption) (p_nextId : pm.nextId = true := by assumption) (p_sched : pm.sched = true := by assumption) (p_hives : pm.hives = true := by
    assumption) (p_fxps : pm.fxps = true := by assumption) (p_err : pm.err = true := by assumption) (p_journal : pm.journal = true := by assumption)
    (p_power : pm.power = true := by assumption) (p_trace : pm.trace = true := by assumption) (p_count : pm.count = true := by assumption) (p_mgmt :
    pm.mgmt = true := by assumption) : ∃ u0, execRaccRecv k f s = .next u0 ∧ Keeps pm st0 u0 := by
  unfold execRaccRecv
  refine ⟨_, rfl, ?_⟩
  try dsimp only
  with_reducible repeat' (first | assumption | apply State.frameIn_keeps | (split <;> try dsimp only))

theorem execRatomicRecv_keeps {pm : Parts} {st0 : State} {k : FxpId} {f : Frame} {s : State} (hk0 : Keeps pm st0 s) (p_flight : pm.flight = true := by
    assumption) (p_nextId : pm.nextId = true := by assumption) (p_sched : pm.sched = true := by assumption) (p_hives : pm.hives = true := by
    assumption) (p_fxps : pm.fxps = true := by assumption) (p_err : pm.err = true := by assumption) (p_journal : pm.journal = true := by assumption)
    (p_power : pm.power = true := by assumption) (p_trace : pm.trace = true := by assumption) (p_count : pm.count = true := by assumption) (p_mgmt :
    pm.mgmt = true := by assumption) : ∃ u0, execRatomicRecv k f s = .next u0 ∧ Keeps pm st0 u0 := by
  unfold execRatomicRecv
  refine ⟨_, rfl, ?_⟩
  try dsimp only
  with_reducible repeat' (first | assumption | apply State.frameIn_keeps | (split <;> try dsimp only))

theorem State.ctlIn_keeps {pm : Parts} {st0 s : State} {k : FxpId} {kind : Nat} {f : Frame} {go : State → State} (hk0 : Keeps pm st0 s)
    (hgo : ∀ s, Keeps pm st0 s → Keeps pm st0 (go s)) (p_fxps : pm.fxps = true := by assumption) (p_err : pm.err = true := by assumption) (p_journal : pm.journal = true := by assumption) (p_power : pm.power = true := by assumption) (p_trace : pm.trace = true := by assumption) (p_mgmt : pm.mgmt = true := by assumption) : ∃ t, s.ctlIn k kind f go = .next t ∧ Keeps pm st0 t := by
  unfold State.ctlIn
  refine ⟨_, rfl, ?_⟩
  exact Keeps.ite (hgo _ (State.frameSeen_keeps hk0)) hk0

theorem State.unappliedAt_keeps {pm : Parts} {st0 : State} {s : State} {f : Frame} (hk0 : Keeps pm st0 s) (p_hives : pm.hives = true := by assumption)
    (p_err : pm.err = true := by assumption) (p_trace : pm.trace = true := by assumption) (p_count : pm.count = true := by assumption) (p_mgmt :
    pm.mgmt = true := by assumption) : Keeps pm st0 (State.unappliedAt s f) := by
  unfold State.unappliedAt
  try dsimp only
  with_reducible repeat' (first | assumption | apply State.faultAccess_keeps | apply Keeps.ite | (split <;> try dsimp only))

theorem execRackRecv_keeps {pm : Parts} {st0 : State} {k : FxpId} {f : Frame} {s : State} (hk0 : Keeps pm st0 s) (p_flight : pm.flight = true := by
    assumption) (p_nextId : pm.nextId = true := by assumption) (p_sched : pm.sched = true := by assumption) (p_hives : pm.hives = true := by
    assumption) (p_wins : pm.wins = true := by assumption) (p_fxps : pm.fxps = true := by assumption) (p_err : pm.err = true := by assumption)
    (p_mirror : pm.mirror = true := by assumption) (p_journal : pm.journal = true := by assumption) (p_power : pm.power = true := by assumption)
    (p_trace : pm.trace = true := by assumption) (p_count : pm.count = true := by assumption) (p_mgmt : pm.mgmt = true := by assumption) : ∃ u0,
    execRackRecv k f s = .next u0 ∧ Keeps pm st0 u0 := by
  unfold execRackRecv
  refine State.ctlIn_keeps hk0 ?_
  try dsimp only
  with_reducible repeat' (first | assumption | apply State.closeReturn_keeps | apply State.retryLines_keeps | apply State.rackAt_keeps
                                | apply State.unappliedAt_keeps | apply State.ctlIn_keeps | (refine Keeps.ofNext ?_ (by assumption))
                                | (intro _ _; try dsimp only) | (split <;> try dsimp only))

theorem execCreditReqRecv_keeps {pm : Parts} {st0 : State} {k : FxpId} {f : Frame} {s : State} (hk0 : Keeps pm st0 s) (p_hives : pm.hives = true := by
    assumption) (p_wins : pm.wins = true := by assumption) (p_fxps : pm.fxps = true := by assumption) (p_err : pm.err = true := by assumption)
    (p_journal : pm.journal = true := by assumption) (p_power : pm.power = true := by assumption) (p_trace : pm.trace = true := by assumption)
    (p_count : pm.count = true := by assumption) (p_mgmt : pm.mgmt = true := by assumption) : ∃ u0, execCreditReqRecv k f s = .next u0 ∧ Keeps pm st0
    u0 := by
  unfold execCreditReqRecv
  refine State.ctlIn_keeps hk0 ?_
  try dsimp only
  with_reducible repeat' (first | assumption | apply State.setWinx_keeps | apply State.creditAnswer_keeps | apply State.sendFrame_keeps
                                | apply State.noteHolder_keeps | apply State.ctlIn_keeps | apply Keeps.ite | (refine Keeps.ofFst (by assumption) ?_)
                                | (apply Keeps.iteFst <;> try dsimp only) | (refine Keeps.ofNext ?_ (by assumption)) | (intro _ _; try dsimp only)
                                | (split <;> try dsimp only))

theorem execCreditGrantRecv_keeps {pm : Parts} {st0 : State} {k : FxpId} {f : Frame} {s : State} (hk0 : Keeps pm st0 s) (p_flight : pm.flight = true
    := by assumption) (p_nextId : pm.nextId = true := by assumption) (p_sched : pm.sched = true := by assumption) (p_hives : pm.hives = true := by
    assumption) (p_wins : pm.wins = true := by assumption) (p_fxps : pm.fxps = true := by assumption) (p_err : pm.err = true := by assumption)
    (p_mirror : pm.mirror = true := by assumption) (p_journal : pm.journal = true := by assumption) (p_power : pm.power = true := by assumption)
    (p_trace : pm.trace = true := by assumption) (p_count : pm.count = true := by assumption) (p_mgmt : pm.mgmt = true := by assumption) : ∃ u0,
    execCreditGrantRecv k f s = .next u0 ∧ Keeps pm st0 u0 := by
  unfold execCreditGrantRecv
  refine State.ctlIn_keeps hk0 ?_
  try dsimp only
  with_reducible repeat' (first | assumption | apply State.grantAt_keeps | apply State.sendRedirects_keeps | apply State.fwdPump_keeps
                                | apply State.retryLines_keeps | apply State.ctlIn_keeps | apply Keeps.ite | apply Keeps.foldl
                                | refine Keeps.foldlP ?_ ?_ | (refine Keeps.ofNext ?_ (by assumption))
                                | (refine Keeps.lit ?_ rfl; first | assumption | apply State.grantAt_keeps | apply State.sendRedirects_keeps | apply State.fwdPump_keeps | apply State.retryLines_keeps | apply State.ctlIn_keeps | apply Keeps.ite | apply Keeps.foldl)
                                | (intro _ _ _; try dsimp only) | (intro _ _; try dsimp only) | (split <;> try dsimp only))

theorem execCreditReturnRecv_keeps {pm : Parts} {st0 : State} {k : FxpId} {f : Frame} {s : State} (hk0 : Keeps pm st0 s) (p_flight : pm.flight = true
    := by assumption) (p_nextId : pm.nextId = true := by assumption) (p_sched : pm.sched = true := by assumption) (p_hives : pm.hives = true := by
    assumption) (p_wins : pm.wins = true := by assumption) (p_fxps : pm.fxps = true := by assumption) (p_err : pm.err = true := by assumption)
    (p_mirror : pm.mirror = true := by assumption) (p_journal : pm.journal = true := by assumption) (p_power : pm.power = true := by assumption)
    (p_trace : pm.trace = true := by assumption) (p_count : pm.count = true := by assumption) (p_mgmt : pm.mgmt = true := by assumption) : ∃ u0,
    execCreditReturnRecv k f s = .next u0 ∧ Keeps pm st0 u0 := by
  unfold execCreditReturnRecv
  refine State.ctlIn_keeps hk0 ?_
  try dsimp only
  with_reducible repeat' (first | assumption | apply State.winReturn_keeps | apply State.ctlIn_keeps | apply Keeps.ite
                                | (refine Keeps.ofNext ?_ (by assumption)) | (intro _ _; try dsimp only) | (split <;> try dsimp only))

theorem execClosingRecv_keeps {pm : Parts} {st0 : State} {k : FxpId} {f : Frame} {s : State} (hk0 : Keeps pm st0 s) (p_flight : pm.flight = true := by
    assumption) (p_nextId : pm.nextId = true := by assumption) (p_sched : pm.sched = true := by assumption) (p_hives : pm.hives = true := by
    assumption) (p_wins : pm.wins = true := by assumption) (p_fxps : pm.fxps = true := by assumption) (p_err : pm.err = true := by assumption)
    (p_mirror : pm.mirror = true := by assumption) (p_journal : pm.journal = true := by assumption) (p_power : pm.power = true := by assumption)
    (p_trace : pm.trace = true := by assumption) (p_count : pm.count = true := by assumption) (p_mgmt : pm.mgmt = true := by assumption) : ∃ u0,
    execClosingRecv k f s = .next u0 ∧ Keeps pm st0 u0 := by
  unfold execClosingRecv
  refine State.ctlIn_keeps hk0 ?_
  try dsimp only
  with_reducible repeat' (first | assumption | apply State.closingAt_keeps | apply State.ctlIn_keeps | (refine Keeps.ofNext ?_ (by assumption))
                                | (intro _ _; try dsimp only) | (split <;> try dsimp only))

theorem execRevokeRecv_keeps {pm : Parts} {st0 : State} {k : FxpId} {f : Frame} {s : State} (hk0 : Keeps pm st0 s) (p_flight : pm.flight = true := by
    assumption) (p_nextId : pm.nextId = true := by assumption) (p_sched : pm.sched = true := by assumption) (p_hives : pm.hives = true := by
    assumption) (p_wins : pm.wins = true := by assumption) (p_fxps : pm.fxps = true := by assumption) (p_err : pm.err = true := by assumption)
    (p_mirror : pm.mirror = true := by assumption) (p_journal : pm.journal = true := by assumption) (p_power : pm.power = true := by assumption)
    (p_trace : pm.trace = true := by assumption) (p_count : pm.count = true := by assumption) (p_mgmt : pm.mgmt = true := by assumption) : ∃ u0,
    execRevokeRecv k f s = .next u0 ∧ Keeps pm st0 u0 := by
  unfold execRevokeRecv
  refine State.ctlIn_keeps hk0 ?_
  try dsimp only
  with_reducible repeat' (first | assumption | apply State.revokeAt_keeps | apply State.ctlIn_keeps | (refine Keeps.ofNext ?_ (by assumption))
                                | (intro _ _; try dsimp only) | (split <;> try dsimp only))

theorem execRedirectRecv_keeps {pm : Parts} {st0 : State} {k : FxpId} {f : Frame} {s : State} (hk0 : Keeps pm st0 s) (p_flight : pm.flight = true :=
    by assumption) (p_nextId : pm.nextId = true := by assumption) (p_sched : pm.sched = true := by assumption) (p_hives : pm.hives = true := by
    assumption) (p_wins : pm.wins = true := by assumption) (p_fxps : pm.fxps = true := by assumption) (p_err : pm.err = true := by assumption)
    (p_mirror : pm.mirror = true := by assumption) (p_journal : pm.journal = true := by assumption) (p_power : pm.power = true := by assumption)
    (p_trace : pm.trace = true := by assumption) (p_count : pm.count = true := by assumption) (p_mgmt : pm.mgmt = true := by assumption) : ∃ u0,
    execRedirectRecv k f s = .next u0 ∧ Keeps pm st0 u0 := by
  unfold execRedirectRecv
  refine State.ctlIn_keeps hk0 ?_
  try dsimp only
  with_reducible repeat' (first | assumption | apply State.redirectAt_keeps | apply State.ctlIn_keeps | (refine Keeps.ofNext ?_ (by assumption))
                                | (intro _ _; try dsimp only) | (split <;> try dsimp only))

theorem execRedirectAckRecv_keeps {pm : Parts} {st0 : State} {k : FxpId} {f : Frame} {s : State} (hk0 : Keeps pm st0 s) (p_flight : pm.flight = true
    := by assumption) (p_nextId : pm.nextId = true := by assumption) (p_sched : pm.sched = true := by assumption) (p_hives : pm.hives = true := by
    assumption) (p_wins : pm.wins = true := by assumption) (p_fxps : pm.fxps = true := by assumption) (p_err : pm.err = true := by assumption)
    (p_mirror : pm.mirror = true := by assumption) (p_journal : pm.journal = true := by assumption) (p_power : pm.power = true := by assumption)
    (p_trace : pm.trace = true := by assumption) (p_count : pm.count = true := by assumption) (p_mgmt : pm.mgmt = true := by assumption) : ∃ u0,
    execRedirectAckRecv k f s = .next u0 ∧ Keeps pm st0 u0 := by
  unfold execRedirectAckRecv
  refine State.ctlIn_keeps hk0 ?_
  try dsimp only
  with_reducible repeat' (first | assumption | apply State.redirectAckAt_keeps | apply State.ctlIn_keeps | (refine Keeps.ofNext ?_ (by assumption))
                                | (intro _ _; try dsimp only) | (split <;> try dsimp only))

theorem execSwitchMarkRecv_keeps {pm : Parts} {st0 : State} {k : FxpId} {f : Frame} {s : State} (hk0 : Keeps pm st0 s) (p_flight : pm.flight = true :=
    by assumption) (p_nextId : pm.nextId = true := by assumption) (p_sched : pm.sched = true := by assumption) (p_hives : pm.hives = true := by
    assumption) (p_wins : pm.wins = true := by assumption) (p_fxps : pm.fxps = true := by assumption) (p_err : pm.err = true := by assumption)
    (p_mirror : pm.mirror = true := by assumption) (p_journal : pm.journal = true := by assumption) (p_power : pm.power = true := by assumption)
    (p_trace : pm.trace = true := by assumption) (p_count : pm.count = true := by assumption) (p_mgmt : pm.mgmt = true := by assumption) : ∃ u0,
    execSwitchMarkRecv k f s = .next u0 ∧ Keeps pm st0 u0 := by
  unfold execSwitchMarkRecv
  refine State.ctlIn_keeps hk0 ?_
  try dsimp only
  with_reducible repeat' (first | assumption | apply State.markAt_keeps | apply State.ctlIn_keeps | (refine Keeps.ofNext ?_ (by assumption))
                                | (intro _ _; try dsimp only) | (split <;> try dsimp only))

theorem execRackTimer_keeps {pm : Parts} {st0 : State} {h : HiveId} {chip : ChipId} {hive : HiveId} {s : State} (hk0 : Keeps pm st0 s) (p_flight :
    pm.flight = true := by assumption) (p_nextId : pm.nextId = true := by assumption) (p_hives : pm.hives = true := by assumption) (p_wins : pm.wins =
    true := by assumption) (p_fxps : pm.fxps = true := by assumption) (p_err : pm.err = true := by assumption) (p_power : pm.power = true := by
    assumption) (p_trace : pm.trace = true := by assumption) (p_count : pm.count = true := by assumption) (p_mgmt : pm.mgmt = true := by assumption) :
    ∃ u0, execRackTimer h chip hive s = .next u0 ∧ Keeps pm st0 u0 := by
  unfold execRackTimer
  refine ⟨_, rfl, ?_⟩
  try dsimp only
  with_reducible repeat' (first | assumption | apply State.rackSend_keeps | apply Keeps.ite | apply Keeps.foldl | refine Keeps.foldlP ?_ ?_
                                | (intro _ _ _; try dsimp only) | (split <;> try dsimp only))

theorem State.windowInbound_keeps {pm : Parts} {st0 : State} {s : State} {x : Xact} {t0 : State} (hk0 : Keeps pm st0 s) (he : State.windowInbound s x
    = some t0) (p_flight : pm.flight = true := by assumption) (p_nextId : pm.nextId = true := by assumption) (p_sched : pm.sched = true := by
    assumption) (p_hives : pm.hives = true := by assumption) (p_wins : pm.wins = true := by assumption) (p_fxps : pm.fxps = true := by assumption)
    (p_err : pm.err = true := by assumption) (p_mirror : pm.mirror = true := by assumption) (p_journal : pm.journal = true := by assumption) (p_power
    : pm.power = true := by assumption) (p_trace : pm.trace = true := by assumption) (p_count : pm.count = true := by assumption) (p_mgmt : pm.mgmt =
    true := by assumption) : Keeps pm st0 t0 := by
  unfold State.windowInbound at he
  try dsimp only at he
  repeat' (split at he)
  all_goals first | contradiction | (replace he := Option.some.inj he; first | cases he | skip) | skip
  all_goals (try dsimp only)
  all_goals with_reducible repeat' (first | assumption | apply State.answer_keeps | apply State.discard_keeps | apply State.fwdPump_keeps
                                          | apply State.holdLine_keeps | apply Keeps.ite | (split <;> try dsimp only))

theorem State.frameInbound_keeps {pm : Parts} {st0 : State} {s : State} {y : Xact} (hk0 : Keeps pm st0 s) (p_flight : pm.flight = true := by
    assumption) (p_nextId : pm.nextId = true := by assumption) (p_sched : pm.sched = true := by assumption) (p_hives : pm.hives = true := by
    assumption) (p_wins : pm.wins = true := by assumption) (p_fxps : pm.fxps = true := by assumption) (p_err : pm.err = true := by assumption)
    (p_mirror : pm.mirror = true := by assumption) (p_journal : pm.journal = true := by assumption) (p_power : pm.power = true := by assumption)
    (p_trace : pm.trace = true := by assumption) (p_count : pm.count = true := by assumption) (p_mgmt : pm.mgmt = true := by assumption) : Keeps pm
    st0 (State.frameInbound s y) := by
  unfold State.frameInbound
  try dsimp only
  with_reducible repeat' (first | assumption | apply State.markTry_keeps | apply State.winTry_keeps | apply State.frameAt_keeps
                                | apply State.dropX_keeps | apply Keeps.ite | (split <;> try dsimp only))

theorem execMipInbound_keeps {pm : Parts} {st0 : State} {x : Nat} {s : State} (hk0 : Keeps pm st0 s) (p_flight : pm.flight = true := by assumption)
    (p_nextId : pm.nextId = true := by assumption) (p_sched : pm.sched = true := by assumption) (p_hives : pm.hives = true := by assumption) (p_wins :
    pm.wins = true := by assumption) (p_fxps : pm.fxps = true := by assumption) (p_err : pm.err = true := by assumption) (p_mirror : pm.mirror = true
    := by assumption) (p_journal : pm.journal = true := by assumption) (p_power : pm.power = true := by assumption) (p_trace : pm.trace = true := by
    assumption) (p_count : pm.count = true := by assumption) (p_mgmt : pm.mgmt = true := by assumption) : ∃ u0, execMipInbound x s = .next u0 ∧ Keeps
    pm st0 u0 := by
  unfold execMipInbound
  refine ⟨_, rfl, ?_⟩
  try dsimp only
  with_reducible repeat' (first | assumption | apply State.frameInbound_keeps | apply State.mipCheck_keeps
                                | (refine State.windowInbound_keeps ?_ (by assumption)) | apply Keeps.ite | (split <;> try dsimp only))

theorem execFxDelivered_keeps {pm : Parts} {st0 : State} {k : FxpId} {chip : ChipId} {idx : BitVec 48} {s : State} (hk0 : Keeps pm st0 s) (p_fxps :
    pm.fxps = true := by assumption) : ∃ u0, execFxDelivered k chip idx s = .next u0 ∧ Keeps pm st0 u0 := by
  unfold execFxDelivered
  refine ⟨_, rfl, ?_⟩
  try dsimp only
  with_reducible repeat' (first | assumption | apply Keeps.ite | (refine Keeps.lit ?_ rfl; first | assumption | apply Keeps.ite)
                                | (split <;> try dsimp only))

end Sys2Proof.Machine
end

