-- ==== Sys2Proof/Laws/KeepTier2.lean ====
section
/-!
SUPPORT. KeepTier2.lean: each operation of Machine/Tier2.lean keeps: the invariant, the queue, and every part of the state that no hypothesis names.
-/
namespace Sys2Proof.Machine
set_option Elab.async false

theorem State.draw_keeps {pm : Parts} {st0 : State} {s : State} (hk0 : Keeps pm st0 s) (p_free : pm.free = true := by assumption) : Keeps pm st0
    (State.draw s).2 := by
  unfold State.draw
  try dsimp only
  with_reducible repeat' (first | assumption | (refine Keeps.lit ?_ rfl; first | assumption) | (split <;> try dsimp only))

theorem State.setPlace_keeps {pm : Parts} {st0 : State} {s : State} {k : Nat} {b : Nat} {e : Dword} (hk0 : Keeps pm st0 s) (p_tiers : pm.tiers = true
    := by assumption) : Keeps pm st0 (State.setPlace s k b e) := by
  unfold State.setPlace
  try dsimp only
  with_reducible repeat' (first | assumption | apply State.setCart_keeps | (split <;> try dsimp only))

theorem State.cartNotice_keeps {pm : Parts} {st0 : State} {s : State} {k : Nat} (hk0 : Keeps pm st0 s) (p_mgmt : pm.mgmt = true := by assumption) :
    Keeps pm st0 (State.cartNotice s k) := by
  unfold State.cartNotice
  try dsimp only
  with_reducible repeat' (first | assumption | apply State.notice_keeps | (split <;> try dsimp only))

theorem State.cartEnter_keeps {pm : Parts} {st0 : State} {s : State} {k : Nat} {st : CartSt} (hk0 : Keeps pm st0 s) (p_tiers : pm.tiers = true := by
    assumption) (p_mgmt : pm.mgmt = true := by assumption) : Keeps pm st0 (State.cartEnter s k st) := by
  unfold State.cartEnter
  try dsimp only
  with_reducible repeat' (first | assumption | apply State.cartNotice_keeps | apply State.setCart_keeps | (split <;> try dsimp only))

theorem State.cartErr_keeps {pm : Parts} {st0 : State} {s : State} {k : Nat} {code : Nat} {aux : Nat} {count : Nat} {ga : Nat} (hk0 : Keeps pm st0 s)
    (p_hives : pm.hives = true := by assumption) (p_err : pm.err = true := by assumption) (p_trace : pm.trace = true := by assumption) (p_mgmt :
    pm.mgmt = true := by assumption) : Keeps pm st0 (State.cartErr s k code aux count ga) := by
  unfold State.cartErr
  try dsimp only
  with_reducible repeat' (first | assumption | apply State.faultAt_keeps | (split <;> try dsimp only))

theorem State.lifeCheck_keeps {pm : Parts} {st0 : State} {s : State} {k : Nat} (hk0 : Keeps pm st0 s) (p_hives : pm.hives = true := by assumption)
    (p_tiers : pm.tiers = true := by assumption) (p_err : pm.err = true := by assumption) (p_trace : pm.trace = true := by assumption) (p_mgmt :
    pm.mgmt = true := by assumption) : Keeps pm st0 (State.lifeCheck s k) := by
  unfold State.lifeCheck
  try dsimp only
  with_reducible repeat' (first | assumption | apply State.cartNotice_keeps | apply State.cartErr_keeps | apply State.setCart_keeps | apply Keeps.ite
                                | (split <;> try dsimp only))

theorem State.ledgerWrite_keeps {pm : Parts} {st0 : State} {s : State} {k : Nat} (hk0 : Keeps pm st0 s) (p_mem : pm.mem = true := by assumption)
    (p_tiers : pm.tiers = true := by assumption) (p_count : pm.count = true := by assumption) : Keeps pm st0 (State.ledgerWrite s k) := by
  unfold State.ledgerWrite
  try dsimp only
  with_reducible repeat' (first | assumption | apply State.memWr_keeps | apply State.tierWrite_keeps | apply State.setCart_keeps | apply Keeps.ite
                                | (split <;> try dsimp only))

theorem State.ledgerTick_keeps {pm : Parts} {st0 : State} {s : State} {k : Nat} (hk0 : Keeps pm st0 s) (p_mem : pm.mem = true := by assumption)
    (p_hives : pm.hives = true := by assumption) (p_tiers : pm.tiers = true := by assumption) (p_err : pm.err = true := by assumption) (p_trace :
    pm.trace = true := by assumption) (p_count : pm.count = true := by assumption) (p_mgmt : pm.mgmt = true := by assumption) : Keeps pm st0
    (State.ledgerTick s k) := by
  unfold State.ledgerTick
  try dsimp only
  with_reducible repeat' (first | assumption | apply State.lifeCheck_keeps | apply State.ledgerWrite_keeps | apply Keeps.ite
                                | (split <;> try dsimp only))

theorem State.heatUp_keeps {pm : Parts} {st0 : State} {s : State} {k : Nat} {b : Nat} (hk0 : Keeps pm st0 s) (p_tiers : pm.tiers = true := by
    assumption) (p_count : pm.count = true := by assumption) : Keeps pm st0 (State.heatUp s k b) := by
  unfold State.heatUp
  try dsimp only
  with_reducible repeat' (first | assumption | apply State.setPlace_keeps | apply State.cadd_keeps | apply State.setCart_keeps | apply Keeps.ite
                                | (split <;> try dsimp only))

theorem State.edgeSend_keeps {pm : Parts} {st0 : State} {s : State} {x : Xact} (hk0 : Keeps pm st0 s) (p_flight : pm.flight = true := by assumption)
    (p_nextId : pm.nextId = true := by assumption) : Keeps pm st0 (State.edgeSend s x) := by
  unfold State.edgeSend
  try dsimp only
  with_reducible repeat' (first | assumption | apply State.addX_keeps | (split <;> try dsimp only))

theorem State.plCache_keeps {pm : Parts} {st0 : State} {s : State} {k : Nat} {g : Nat} (hk0 : Keeps pm st0 s) (p_tiers : pm.tiers = true := by
    assumption) : Keeps pm st0 (State.plCache s k g) := by
  unfold State.plCache
  try dsimp only
  with_reducible repeat' (first | assumption | apply State.setCart_keeps | (split <;> try dsimp only))

theorem State.t2Issue_keeps {pm : Parts} {st0 : State} {s : State} {x : Xact} {k : Nat} (hk0 : Keeps pm st0 s) (p_flight : pm.flight = true := by
    assumption) (p_sched : pm.sched = true := by assumption) (p_mem : pm.mem = true := by assumption) (p_hives : pm.hives = true := by assumption)
    (p_tiers : pm.tiers = true := by assumption) (p_err : pm.err = true := by assumption) (p_power : pm.power = true := by assumption) (p_trace :
    pm.trace = true := by assumption) (p_count : pm.count = true := by assumption) (p_mgmt : pm.mgmt = true := by assumption) : Keeps pm st0
    (State.t2Issue s x k) := by
  unfold State.t2Issue
  try dsimp only
  with_reducible repeat' (first | assumption | apply State.pev_keeps | apply State.countGrant_keeps | apply State.account_keeps
                                | apply State.ledgerTick_keeps | apply State.memWr_keeps | apply State.cadd_keeps | apply State.setX_keeps
                                | apply Keeps.ite | (split <;> try dsimp only))

theorem State.t2Pump_keeps {pm : Parts} {st0 : State} {s : State} {k : Nat} (hk0 : Keeps pm st0 s) (p_flight : pm.flight = true := by assumption)
    (p_sched : pm.sched = true := by assumption) (p_mem : pm.mem = true := by assumption) (p_hives : pm.hives = true := by assumption) (p_tiers :
    pm.tiers = true := by assumption) (p_err : pm.err = true := by assumption) (p_power : pm.power = true := by assumption) (p_trace : pm.trace = true
    := by assumption) (p_count : pm.count = true := by assumption) (p_mgmt : pm.mgmt = true := by assumption) : Keeps pm st0 (State.t2Pump s k) := by
  unfold State.t2Pump
  try dsimp only
  with_reducible repeat' (first | assumption | apply State.t2Issue_keeps | apply Keeps.foldl | refine Keeps.foldlP ?_ ?_
                                | (intro _ _ _; try dsimp only) | (split <;> try dsimp only))

theorem State.t2Serve_keeps {pm : Parts} {st0 : State} {s : State} {x : Xact} {k : Nat} (hk0 : Keeps pm st0 s) (p_flight : pm.flight = true := by
    assumption) (p_nextId : pm.nextId = true := by assumption) (p_sched : pm.sched = true := by assumption) (p_mem : pm.mem = true := by assumption)
    (p_hives : pm.hives = true := by assumption) (p_tiers : pm.tiers = true := by assumption) (p_fxps : pm.fxps = true := by assumption) (p_err :
    pm.err = true := by assumption) (p_mirror : pm.mirror = true := by assumption) (p_power : pm.power = true := by assumption) (p_trace : pm.trace =
    true := by assumption) (p_count : pm.count = true := by assumption) (p_mgmt : pm.mgmt = true := by assumption) : Keeps pm st0 (State.t2Serve s x
    k) := by
  unfold State.t2Serve
  try dsimp only
  with_reducible repeat' (first | assumption | apply State.t2Issue_keeps | apply State.setX_keeps | apply State.codedWrite_keeps
                                | apply State.tierData_keeps | apply Keeps.ite | (split <;> try dsimp only))

theorem State.t2Promoted_keeps {pm : Parts} {st0 : State} {s : State} {x : Xact} {k : Nat} {e : Dword} (hk0 : Keeps pm st0 s) (p_flight : pm.flight =
    true := by assumption) (p_nextId : pm.nextId = true := by assumption) (p_tiers : pm.tiers = true := by assumption) : Keeps pm st0
    (State.t2Promoted s x k e) := by
  unfold State.t2Promoted
  try dsimp only
  with_reducible repeat' (first | assumption | apply State.setPlace_keeps | apply State.setX_keeps | apply State.edgeSend_keeps | apply Keeps.ite
                                | (split <;> try dsimp only))

theorem State.t2Place_keeps {pm : Parts} {st0 : State} {s : State} {x : Xact} {k : Nat} (hk0 : Keeps pm st0 s) (p_flight : pm.flight = true := by
    assumption) (p_nextId : pm.nextId = true := by assumption) (p_sched : pm.sched = true := by assumption) (p_mem : pm.mem = true := by assumption)
    (p_hives : pm.hives = true := by assumption) (p_tiers : pm.tiers = true := by assumption) (p_fxps : pm.fxps = true := by assumption) (p_err :
    pm.err = true := by assumption) (p_mirror : pm.mirror = true := by assumption) (p_power : pm.power = true := by assumption) (p_trace : pm.trace =
    true := by assumption) (p_count : pm.count = true := by assumption) (p_mgmt : pm.mgmt = true := by assumption) : Keeps pm st0 (State.t2Place s x
    k) := by
  unfold State.t2Place
  try dsimp only
  with_reducible repeat' (first | assumption | apply State.cadd_keeps | apply State.setX_keeps | apply State.edgeSend_keeps | apply State.heatUp_keeps
                                | apply State.plCache_keeps | apply State.t2Promoted_keeps | apply State.refuseAt_keeps | apply State.t2Serve_keeps
                                | apply Keeps.ite | (split <;> try dsimp only))

theorem State.t2Take_keeps {pm : Parts} {st0 : State} {s : State} {x : Xact} {k : Nat} (hk0 : Keeps pm st0 s) (p_flight : pm.flight = true := by
    assumption) (p_nextId : pm.nextId = true := by assumption) (p_sched : pm.sched = true := by assumption) (p_mem : pm.mem = true := by assumption)
    (p_hives : pm.hives = true := by assumption) (p_tiers : pm.tiers = true := by assumption) (p_fxps : pm.fxps = true := by assumption) (p_err :
    pm.err = true := by assumption) (p_mirror : pm.mirror = true := by assumption) (p_power : pm.power = true := by assumption) (p_trace : pm.trace =
    true := by assumption) (p_count : pm.count = true := by assumption) (p_mgmt : pm.mgmt = true := by assumption) : Keeps pm st0 (State.t2Take s x k)
    := by
  unfold State.t2Take
  try dsimp only
  with_reducible repeat' (first | assumption | apply State.t2Place_keeps | apply State.t2Serve_keeps | apply State.refuseAt_keeps | apply Keeps.ite
                                | (split <;> try dsimp only))

theorem execT2Request_keeps {pm : Parts} {st0 : State} {x : Nat} {s : State} (hk0 : Keeps pm st0 s) (p_flight : pm.flight = true := by assumption)
    (p_nextId : pm.nextId = true := by assumption) (p_sched : pm.sched = true := by assumption) (p_mem : pm.mem = true := by assumption) (p_hives :
    pm.hives = true := by assumption) (p_tiers : pm.tiers = true := by assumption) (p_fxps : pm.fxps = true := by assumption) (p_err : pm.err = true
    := by assumption) (p_mirror : pm.mirror = true := by assumption) (p_power : pm.power = true := by assumption) (p_trace : pm.trace = true := by
    assumption) (p_count : pm.count = true := by assumption) (p_mgmt : pm.mgmt = true := by assumption) : ∃ u0, execT2Request x s = .next u0 ∧ Keeps
    pm st0 u0 := by
  unfold execT2Request
  refine ⟨_, rfl, ?_⟩
  try dsimp only
  with_reducible repeat' (first | assumption | apply State.t2Take_keeps | apply State.t2Issue_keeps | apply Keeps.ite | (split <;> try dsimp only))

theorem State.cxlData_keeps {pm : Parts} {st0 : State} {s : State} {y : Xact} {k : Nat} {l : Line} {bad : Bool} (hk0 : Keeps pm st0 s) (p_flight :
    pm.flight = true := by assumption) (p_nextId : pm.nextId = true := by assumption) (p_sched : pm.sched = true := by assumption) (p_mem : pm.mem =
    true := by assumption) (p_hives : pm.hives = true := by assumption) (p_tiers : pm.tiers = true := by assumption) (p_fxps : pm.fxps = true := by
    assumption) (p_err : pm.err = true := by assumption) (p_mirror : pm.mirror = true := by assumption) (p_power : pm.power = true := by assumption)
    (p_trace : pm.trace = true := by assumption) (p_count : pm.count = true := by assumption) (p_mgmt : pm.mgmt = true := by assumption) : Keeps pm
    st0 (State.cxlData s y k l bad) := by
  unfold State.cxlData
  try dsimp only
  with_reducible repeat' (first | assumption | apply State.cadd_keeps | apply State.tierData_keeps | apply State.integrity_keeps
                                | apply State.setX_keeps | apply State.decStart_keeps | apply State.setTline_keeps | apply State.bufMerge_keeps
                                | apply State.t2Issue_keeps | apply Keeps.ite | (split <;> try dsimp only))

theorem State.cxlDone_keeps {pm : Parts} {st0 : State} {s : State} {y : Xact} {k : Nat} (hk0 : Keeps pm st0 s) (p_flight : pm.flight = true := by
    assumption) (p_nextId : pm.nextId = true := by assumption) (p_sched : pm.sched = true := by assumption) (p_mem : pm.mem = true := by assumption)
    (p_fxps : pm.fxps = true := by assumption) (p_err : pm.err = true := by assumption) (p_mirror : pm.mirror = true := by assumption) (p_power :
    pm.power = true := by assumption) (p_trace : pm.trace = true := by assumption) (p_count : pm.count = true := by assumption) (p_mgmt : pm.mgmt =
    true := by assumption) : Keeps pm st0 (State.cxlDone s y k) := by
  unfold State.cxlDone
  try dsimp only
  with_reducible repeat' (first | assumption | apply State.setTline_keeps | apply State.dropX_keeps | apply State.tierData_keeps
                                | apply State.tierForward_keeps | apply Keeps.ite | (split <;> try dsimp only))

theorem execCxlResponse_keeps {pm : Parts} {st0 : State} {k : CartId} {hdr : BitVec 32} {data : Line} {s : State} (hk0 : Keeps pm st0 s) (p_flight :
    pm.flight = true := by assumption) (p_nextId : pm.nextId = true := by assumption) (p_sched : pm.sched = true := by assumption) (p_mem : pm.mem =
    true := by assumption) (p_hives : pm.hives = true := by assumption) (p_tiers : pm.tiers = true := by assumption) (p_fxps : pm.fxps = true := by
    assumption) (p_err : pm.err = true := by assumption) (p_mirror : pm.mirror = true := by assumption) (p_journal : pm.journal = true := by
    assumption) (p_power : pm.power = true := by assumption) (p_trace : pm.trace = true := by assumption) (p_count : pm.count = true := by assumption)
    (p_quench : pm.quench = true := by assumption) (p_mgmt : pm.mgmt = true := by assumption) : ∃ u0, execCxlResponse k hdr data s = .next u0 ∧ Keeps
    pm st0 u0 := by
  unfold execCxlResponse
  refine ⟨_, rfl, ?_⟩
  try dsimp only
  with_reducible repeat' (first | assumption | apply State.setX_keeps | apply State.cartErr_keeps | apply State.t2Pump_keeps
                                | apply State.cxlData_keeps | apply State.cxlDone_keeps | (refine State.inputGate_keeps ?_ (by assumption))
                                | apply Keeps.ite | (split <;> try dsimp only))

theorem State.cartAttach_keeps {pm : Parts} {st0 : State} {s : State} {k : Nat} (hk0 : Keeps pm st0 s) (p_tiers : pm.tiers = true := by assumption)
    (p_mgmt : pm.mgmt = true := by assumption) : Keeps pm st0 (State.cartAttach s k).1 := by
  unfold State.cartAttach
  try dsimp only
  with_reducible repeat' (first | assumption | apply State.cartEnter_keeps | apply State.setCart_keeps | apply Keeps.ite
                                | (apply Keeps.iteFst <;> try dsimp only) | (split <;> try dsimp only))

theorem execCartAttach_keeps {pm : Parts} {st0 : State} {k : CartId} {s : State} (hk0 : Keeps pm st0 s) (p_tiers : pm.tiers = true := by assumption)
    (p_mgmt : pm.mgmt = true := by assumption) : ∃ u0, execCartAttach k s = .next u0 ∧ Keeps pm st0 u0 := by
  unfold execCartAttach
  refine ⟨_, rfl, ?_⟩
  try dsimp only
  with_reducible repeat' (first | assumption | apply State.cartAttach_keeps | (refine Keeps.ofFst (by assumption) ?_) | (split <;> try dsimp only))

theorem State.attachFail_keeps {pm : Parts} {st0 : State} {s : State} {k : Nat} {step : Nat} {val : Nat} (hk0 : Keeps pm st0 s) (p_hives : pm.hives =
    true := by assumption) (p_tiers : pm.tiers = true := by assumption) (p_err : pm.err = true := by assumption) (p_trace : pm.trace = true := by
    assumption) (p_mgmt : pm.mgmt = true := by assumption) : Keeps pm st0 (State.attachFail s k step val) := by
  unfold State.attachFail
  try dsimp only
  with_reducible repeat' (first | assumption | apply State.cartEnter_keeps | apply State.cartErr_keeps | apply State.setCart_keeps | apply Keeps.ite
                                | (refine Keeps.lit ?_ rfl; first | assumption | apply State.cartEnter_keeps | apply State.cartErr_keeps | apply State.setCart_keeps | apply Keeps.ite)
                                | (split <;> try dsimp only))

theorem execCartAttachEnd_keeps {pm : Parts} {st0 : State} {k : CartId} {r : AttachResult} {s : State} (hk0 : Keeps pm st0 s) (p_free : pm.free = true
    := by assumption) (p_mem : pm.mem = true := by assumption) (p_hives : pm.hives = true := by assumption) (p_tiers : pm.tiers = true := by
    assumption) (p_err : pm.err = true := by assumption) (p_trace : pm.trace = true := by assumption) (p_mgmt : pm.mgmt = true := by assumption) : ∃
    u0, execCartAttachEnd k r s = .next u0 ∧ Keeps pm st0 u0 := by
  unfold execCartAttachEnd
  refine ⟨_, rfl, ?_⟩
  try dsimp only
  with_reducible repeat' (first | assumption | apply State.attachFail_keeps | apply State.setCart_keeps | apply State.setTline_keeps
                                | apply State.cartEnter_keeps | apply State.cartErr_keeps | apply State.lifeCheck_keeps | apply Keeps.ite
                                | (refine Keeps.lit ?_ rfl; first | assumption | apply State.attachFail_keeps | apply State.setCart_keeps | apply State.setTline_keeps | apply State.cartEnter_keeps | apply State.cartErr_keeps | apply State.lifeCheck_keeps | apply Keeps.ite)
                                | (refine Keeps.mem ?_ Mem.wf_filterT2 rfl; first | assumption | apply State.attachFail_keeps | apply State.setCart_keeps | apply State.setTline_keeps | apply State.cartEnter_keeps | apply State.cartErr_keeps | apply State.lifeCheck_keeps | apply Keeps.ite)
                                | (split <;> try dsimp only))

theorem execCartAttachTimeout_keeps {pm : Parts} {st0 : State} {k : CartId} {s : State} (hk0 : Keeps pm st0 s) (p_hives : pm.hives = true := by
    assumption) (p_tiers : pm.tiers = true := by assumption) (p_err : pm.err = true := by assumption) (p_trace : pm.trace = true := by assumption)
    (p_mgmt : pm.mgmt = true := by assumption) : ∃ u0, execCartAttachTimeout k s = .next u0 ∧ Keeps pm st0 u0 := by
  unfold execCartAttachTimeout
  refine ⟨_, rfl, ?_⟩
  try dsimp only
  with_reducible repeat' (first | assumption | apply State.attachFail_keeps | apply Keeps.ite | (split <;> try dsimp only))

theorem State.copyTier_keeps {pm : Parts} {st0 : State} {s : State} {t : Nat} {n : Nat} {t' : Nat} {m : Nat} (hk0 : Keeps pm st0 s) (p_mem : pm.mem =
    true := by assumption) (p_tiers : pm.tiers = true := by assumption) : Keeps pm st0 (State.copyTier s t n t' m) := by
  unfold State.copyTier
  try dsimp only
  with_reducible repeat' (first | assumption | apply State.tierWrite_keeps | apply State.poisonLine_keeps | apply Keeps.ite
                                | (split <;> try dsimp only))

theorem State.copyBlock_keeps {pm : Parts} {st0 : State} {s : State} {k : Nat} {b : Nat} {slot : Nat} {up : Bool} (hk0 : Keeps pm st0 s) (p_mem :
    pm.mem = true := by assumption) (p_hives : pm.hives = true := by assumption) (p_tiers : pm.tiers = true := by assumption) (p_err : pm.err = true
    := by assumption) (p_trace : pm.trace = true := by assumption) (p_count : pm.count = true := by assumption) (p_mgmt : pm.mgmt = true := by
    assumption) : Keeps pm st0 (State.copyBlock s k b slot up) := by
  unfold State.copyBlock
  try dsimp only
  with_reducible repeat' (first | assumption | apply State.copyTier_keeps | apply State.cadd_keeps | apply State.ledgerTick_keeps
                                | apply State.memWr_keeps | apply Keeps.ite | apply Keeps.foldl | refine Keeps.foldlP ?_ ?_
                                | (intro _ _ _; try dsimp only) | (split <;> try dsimp only))

theorem State.demoteAll_keeps {pm : Parts} {st0 : State} {s : State} {k : Nat} {write : Bool} (hk0 : Keeps pm st0 s) (p_mem : pm.mem = true := by
    assumption) (p_hives : pm.hives = true := by assumption) (p_tiers : pm.tiers = true := by assumption) (p_err : pm.err = true := by assumption)
    (p_trace : pm.trace = true := by assumption) (p_count : pm.count = true := by assumption) (p_mgmt : pm.mgmt = true := by assumption) : Keeps pm
    st0 (State.demoteAll s k write) := by
  unfold State.demoteAll
  try dsimp only
  with_reducible repeat' (first | assumption | apply State.copyBlock_keeps | apply State.setPlace_keeps | apply Keeps.ite | apply Keeps.foldl
                                | refine Keeps.foldlP ?_ ?_ | (intro _ _ _; try dsimp only) | (split <;> try dsimp only))

theorem State.cartTrust_keeps {pm : Parts} {st0 : State} {s : State} {k : Nat} (hk0 : Keeps pm st0 s) (p_mem : pm.mem = true := by assumption)
    (p_hives : pm.hives = true := by assumption) (p_tiers : pm.tiers = true := by assumption) (p_err : pm.err = true := by assumption) (p_trace :
    pm.trace = true := by assumption) (p_count : pm.count = true := by assumption) (p_mgmt : pm.mgmt = true := by assumption) : Keeps pm st0
    (State.cartTrust s k).1 := by
  unfold State.cartTrust
  try dsimp only
  with_reducible repeat' (first | assumption | apply State.demoteAll_keeps | apply State.setCart_keeps | apply State.cartEnter_keeps
                                | apply State.setPv_keeps | apply Keeps.ite | (apply Keeps.iteFst <;> try dsimp only) | (split <;> try dsimp only))

theorem execCartTrust_keeps {pm : Parts} {st0 : State} {k : CartId} {s : State} (hk0 : Keeps pm st0 s) (p_mem : pm.mem = true := by assumption)
    (p_hives : pm.hives = true := by assumption) (p_tiers : pm.tiers = true := by assumption) (p_err : pm.err = true := by assumption) (p_trace :
    pm.trace = true := by assumption) (p_count : pm.count = true := by assumption) (p_mgmt : pm.mgmt = true := by assumption) : ∃ u0, execCartTrust k
    s = .next u0 ∧ Keeps pm st0 u0 := by
  unfold execCartTrust
  refine ⟨_, rfl, ?_⟩
  try dsimp only
  with_reducible repeat' (first | assumption | apply State.cartTrust_keeps | (refine Keeps.ofFst (by assumption) ?_) | (split <;> try dsimp only))

theorem State.cartDetach_keeps {pm : Parts} {st0 : State} {s : State} {k : Nat} {drop : Bool} (hk0 : Keeps pm st0 s) (p_tiers : pm.tiers = true := by
    assumption) (p_mgmt : pm.mgmt = true := by assumption) : Keeps pm st0 (State.cartDetach s k drop).1 := by
  unfold State.cartDetach
  try dsimp only
  with_reducible repeat' (first | assumption | apply State.cartNotice_keeps | apply State.cartEnter_keeps | apply State.setCart_keeps
                                | apply Keeps.ite | (apply Keeps.iteFst <;> try dsimp only)
                                | (refine Keeps.lit ?_ rfl; first | assumption | apply State.cartNotice_keeps | apply State.cartEnter_keeps | apply State.setCart_keeps | apply Keeps.ite)
                                | (split <;> try dsimp only))

theorem execCartDetach_keeps {pm : Parts} {st0 : State} {k : CartId} {s : State} (hk0 : Keeps pm st0 s) (p_tiers : pm.tiers = true := by assumption)
    (p_mgmt : pm.mgmt = true := by assumption) : ∃ u0, execCartDetach k s = .next u0 ∧ Keeps pm st0 u0 := by
  unfold execCartDetach
  refine ⟨_, rfl, ?_⟩
  try dsimp only
  with_reducible repeat' (first | assumption | apply State.cartDetach_keeps | (refine Keeps.ofFst (by assumption) ?_) | (split <;> try dsimp only))

theorem execCartDetachDrop_keeps {pm : Parts} {st0 : State} {k : CartId} {s : State} (hk0 : Keeps pm st0 s) (p_tiers : pm.tiers = true := by
    assumption) (p_mgmt : pm.mgmt = true := by assumption) : ∃ u0, execCartDetachDrop k s = .next u0 ∧ Keeps pm st0 u0 := by
  unfold execCartDetachDrop
  refine ⟨_, rfl, ?_⟩
  try dsimp only
  with_reducible repeat' (first | assumption | apply State.cartDetach_keeps | (refine Keeps.ofFst (by assumption) ?_) | (split <;> try dsimp only))

theorem execCartDetachEnd_keeps {pm : Parts} {st0 : State} {k : CartId} {s : State} (hk0 : Keeps pm st0 s) (p_mem : pm.mem = true := by assumption)
    (p_hives : pm.hives = true := by assumption) (p_tiers : pm.tiers = true := by assumption) (p_err : pm.err = true := by assumption) (p_trace :
    pm.trace = true := by assumption) (p_count : pm.count = true := by assumption) (p_mgmt : pm.mgmt = true := by assumption) : ∃ u0,
    execCartDetachEnd k s = .next u0 ∧ Keeps pm st0 u0 := by
  unfold execCartDetachEnd
  refine ⟨_, rfl, ?_⟩
  try dsimp only
  with_reducible repeat' (first | assumption | apply State.cartErr_keeps | apply State.demoteAll_keeps | apply State.setCart_keeps
                                | apply State.cartEnter_keeps | apply State.ledgerWrite_keeps | apply Keeps.ite | (split <;> try dsimp only))

theorem execCartHealthPoll_keeps {pm : Parts} {st0 : State} {k : CartId} {lifeUsed : Byte} {s : State} (hk0 : Keeps pm st0 s) (p_hives : pm.hives =
    true := by assumption) (p_tiers : pm.tiers = true := by assumption) (p_err : pm.err = true := by assumption) (p_trace : pm.trace = true := by
    assumption) (p_mgmt : pm.mgmt = true := by assumption) : ∃ u0, execCartHealthPoll k lifeUsed s = .next u0 ∧ Keeps pm st0 u0 := by
  unfold execCartHealthPoll
  refine ⟨_, rfl, ?_⟩
  try dsimp only
  with_reducible repeat' (first | assumption | apply State.lifeCheck_keeps | apply State.setCart_keeps | apply Keeps.ite | (split <;> try dsimp only))

theorem execCartLinkLost_keeps {pm : Parts} {st0 : State} {k : CartId} {linkUp : Bool} {present : Bool} {s : State} (hk0 : Keeps pm st0 s) (p_flight :
    pm.flight = true := by assumption) (p_hives : pm.hives = true := by assumption) (p_tiers : pm.tiers = true := by assumption) (p_err : pm.err =
    true := by assumption) (p_trace : pm.trace = true := by assumption) (p_count : pm.count = true := by assumption) (p_mgmt : pm.mgmt = true := by
    assumption) : ∃ u0, execCartLinkLost k linkUp present s = .next u0 ∧ Keeps pm st0 u0 := by
  unfold execCartLinkLost
  refine ⟨_, rfl, ?_⟩
  try dsimp only
  with_reducible repeat' (first | assumption | apply State.setCart_keeps | apply State.dropX_keeps | apply State.refuseAt_keeps
                                | apply State.cartEnter_keeps | apply State.cartErr_keeps | apply State.setPv_keeps | apply Keeps.ite
                                | apply Keeps.foldl | refine Keeps.foldlP ?_ ?_
                                | (refine Keeps.lit ?_ rfl; first | assumption | apply State.setCart_keeps | apply State.dropX_keeps | apply State.refuseAt_keeps | apply State.cartEnter_keeps | apply State.cartErr_keeps | apply State.setPv_keeps | apply Keeps.ite | apply Keeps.foldl)
                                | (intro _ _ _; try dsimp only) | (split <;> try dsimp only))

theorem execT2LinkRetrain_keeps {pm : Parts} {st0 : State} {k : CartId} {gts : BitVec 7} {width : BitVec 5} {s : State} (hk0 : Keeps pm st0 s) (p_free
    : pm.free = true := by assumption) (p_sched : pm.sched = true := by assumption) (p_tiers : pm.tiers = true := by assumption) (p_err : pm.err =
    true := by assumption) (p_trace : pm.trace = true := by assumption) (p_mgmt : pm.mgmt = true := by assumption) : ∃ u0, execT2LinkRetrain k gts
    width s = .next u0 ∧ Keeps pm st0 u0 := by
  unfold execT2LinkRetrain
  refine ⟨_, rfl, ?_⟩
  try dsimp only
  with_reducible repeat' (first | assumption | apply State.setCart_keeps | apply State.draw_keeps | apply State.setPv_keeps
                                | apply State.capacityLoss_keeps | apply Keeps.ite | apply Keeps.foldl | (refine Keeps.ofSnd (by assumption) ?_)
                                | refine Keeps.foldlP ?_ ?_ | refine Keeps.foldlQ ?_ ?_ | (intro _ _ _; try dsimp only) | (split <;> try dsimp only))

theorem execHeatDecayEpoch_keeps {pm : Parts} {st0 : State} {k : CartId} {s : State} (hk0 : Keeps pm st0 s) (p_tiers : pm.tiers = true := by
    assumption) : ∃ u0, execHeatDecayEpoch k s = .next u0 ∧ Keeps pm st0 u0 := by
  unfold execHeatDecayEpoch
  refine ⟨_, rfl, ?_⟩
  try dsimp only
  with_reducible repeat' (first | assumption | apply State.setCart_keeps | apply Keeps.ite | (split <;> try dsimp only))

theorem State.startMove_keeps {pm : Parts} {st0 : State} {s : State} {k : Nat} {b : Nat} {slot : Nat} {dirn : Nat} (hk0 : Keeps pm st0 s) (p_tiers :
    pm.tiers = true := by assumption) : Keeps pm st0 (State.startMove s k b slot dirn) := by
  unfold State.startMove
  try dsimp only
  with_reducible repeat' (first | assumption | apply State.setPlace_keeps | apply State.setCart_keeps | (split <;> try dsimp only))

theorem execPromoteCandidate_keeps {pm : Parts} {st0 : State} {k : CartId} {s : State} (hk0 : Keeps pm st0 s) (p_tiers : pm.tiers = true := by
    assumption) : ∃ u0, execPromoteCandidate k s = .next u0 ∧ Keeps pm st0 u0 := by
  unfold execPromoteCandidate
  refine ⟨_, rfl, ?_⟩
  try dsimp only
  with_reducible repeat' (first | assumption | apply State.setCart_keeps | apply State.startMove_keeps | apply Keeps.ite | (split <;> try dsimp only))

theorem execBlockMoveDone_keeps {pm : Parts} {st0 : State} {k : CartId} {block : Nat} {s : State} (hk0 : Keeps pm st0 s) (p_flight : pm.flight = true
    := by assumption) (p_mem : pm.mem = true := by assumption) (p_hives : pm.hives = true := by assumption) (p_tiers : pm.tiers = true := by
    assumption) (p_err : pm.err = true := by assumption) (p_trace : pm.trace = true := by assumption) (p_count : pm.count = true := by assumption)
    (p_mgmt : pm.mgmt = true := by assumption) : ∃ u0, execBlockMoveDone k block s = .next u0 ∧ Keeps pm st0 u0 := by
  unfold execBlockMoveDone
  refine ⟨_, rfl, ?_⟩
  try dsimp only
  with_reducible repeat' (first | assumption | apply State.copyBlock_keeps | apply State.cadd_keeps | apply State.setPlace_keeps
                                | apply State.setCart_keeps | apply State.setX_keeps | apply State.startMove_keeps | apply Keeps.ite
                                | apply Keeps.foldl | refine Keeps.foldlP ?_ ?_ | (intro _ _ _; try dsimp only) | (split <;> try dsimp only))

theorem execPageBufferCloseDone_keeps {pm : Parts} {st0 : State} {u : Fin 12} {page : Nat} {s : State} (hk0 : Keeps pm st0 s) (p_flight : pm.flight =
    true := by assumption) (p_nextId : pm.nextId = true := by assumption) (p_sched : pm.sched = true := by assumption) (p_mem : pm.mem = true := by
    assumption) (p_hives : pm.hives = true := by assumption) (p_tiers : pm.tiers = true := by assumption) (p_err : pm.err = true := by assumption)
    (p_power : pm.power = true := by assumption) (p_trace : pm.trace = true := by assumption) (p_count : pm.count = true := by assumption) (p_mgmt :
    pm.mgmt = true := by assumption) : ∃ u0, execPageBufferCloseDone u page s = .next u0 ∧ Keeps pm st0 u0 := by
  unfold execPageBufferCloseDone
  refine ⟨_, rfl, ?_⟩
  try dsimp only
  with_reducible repeat' (first | assumption | apply State.dropBuf_keeps | apply State.cadd_keeps | apply State.storePage_keeps
                                | apply State.t2Pump_keeps | apply State.addX_keeps | apply Keeps.ite | apply Keeps.foldl | refine Keeps.foldlP ?_ ?_
                                | (intro _ _ _; try dsimp only) | (split <;> try dsimp only))

theorem State.edgeStatus_keeps {pm : Parts} {st0 : State} {s : State} {u : Nat} {st : Nat} (hk0 : Keeps pm st0 s) (p_hives : pm.hives = true := by
    assumption) : Keeps pm st0 (State.edgeStatus s u st) := by
  unfold State.edgeStatus
  try dsimp only
  with_reducible repeat' (first | assumption | (refine Keeps.lit ?_ rfl; first | assumption) | (split <;> try dsimp only))

theorem State.edgeFlush_keeps {pm : Parts} {st0 : State} {s : State} {u : Nat} {cell : Ga} (hk0 : Keeps pm st0 s) (p_hives : pm.hives = true := by
    assumption) (p_tiers : pm.tiers = true := by assumption) : Keeps pm st0 (State.edgeFlush s u cell) := by
  unfold State.edgeFlush
  try dsimp only
  with_reducible repeat' (first | assumption | apply State.edgeStatus_keeps | apply Keeps.ite
                                | (refine Keeps.lit ?_ rfl; first | assumption | apply State.edgeStatus_keeps | apply Keeps.ite)
                                | (split <;> try dsimp only))

theorem State.edgeDone_keeps {pm : Parts} {st0 : State} {s : State} {c : EdgeCmd} {st : Nat} {unit : Nat} (hk0 : Keeps pm st0 s) (p_flight : pm.flight
    = true := by assumption) (p_nextId : pm.nextId = true := by assumption) (p_hives : pm.hives = true := by assumption) (p_tiers : pm.tiers = true :=
    by assumption) (p_count : pm.count = true := by assumption) : Keeps pm st0 (State.edgeDone s c st unit) := by
  unfold State.edgeDone
  try dsimp only
  with_reducible repeat' (first | assumption | apply State.addCell_keeps | apply State.edgeStatus_keeps
                                | (refine Keeps.lit ?_ rfl; first | assumption | apply State.addCell_keeps | apply State.edgeStatus_keeps)
                                | (split <;> try dsimp only))

theorem execT1cFlush_keeps {pm : Parts} {st0 : State} {k : StackId} {cell : Ga} {s : State} (hk0 : Keeps pm st0 s) (p_hives : pm.hives = true := by
    assumption) (p_tiers : pm.tiers = true := by assumption) : ∃ u0, execT1cFlush k cell s = .next u0 ∧ Keeps pm st0 u0 := by
  unfold execT1cFlush
  refine ⟨_, rfl, ?_⟩
  try dsimp only
  with_reducible repeat' (first | assumption | apply State.edgeFlush_keeps | (split <;> try dsimp only))

theorem execT1cFlushDone_keeps {pm : Parts} {st0 : State} {k : StackId} {s : State} (hk0 : Keeps pm st0 s) (p_flight : pm.flight = true := by
    assumption) (p_nextId : pm.nextId = true := by assumption) (p_hives : pm.hives = true := by assumption) (p_tiers : pm.tiers = true := by
    assumption) (p_count : pm.count = true := by assumption) : ∃ u0, execT1cFlushDone k s = .next u0 ∧ Keeps pm st0 u0 := by
  unfold execT1cFlushDone
  refine ⟨_, rfl, ?_⟩
  try dsimp only
  with_reducible repeat' (first | assumption | apply State.edgeDone_keeps | apply Keeps.ite | (split <;> try dsimp only))

theorem execPersist_keeps {pm : Parts} {st0 : State} {k : CartId} {cell : Ga} {s : State} (hk0 : Keeps pm st0 s) (p_hives : pm.hives = true := by
    assumption) (p_tiers : pm.tiers = true := by assumption) : ∃ u0, execPersist k cell s = .next u0 ∧ Keeps pm st0 u0 := by
  unfold execPersist
  refine ⟨_, rfl, ?_⟩
  try dsimp only
  with_reducible repeat' (first | assumption | apply State.edgeFlush_keeps | (split <;> try dsimp only))

theorem execPersistDone_keeps {pm : Parts} {st0 : State} {k : CartId} {s : State} (hk0 : Keeps pm st0 s) (p_flight : pm.flight = true := by
    assumption) (p_nextId : pm.nextId = true := by assumption) (p_hives : pm.hives = true := by assumption) (p_tiers : pm.tiers = true := by
    assumption) (p_count : pm.count = true := by assumption) : ∃ u0, execPersistDone k s = .next u0 ∧ Keeps pm st0 u0 := by
  unfold execPersistDone
  refine ⟨_, rfl, ?_⟩
  try dsimp only
  with_reducible repeat' (first | assumption | apply State.edgeDone_keeps | apply Keeps.ite | (split <;> try dsimp only))

theorem execMsync_keeps {pm : Parts} {st0 : State} {cell : Ga} {s : State} (hk0 : Keeps pm st0 s) (p_flight : pm.flight = true := by assumption)
    (p_nextId : pm.nextId = true := by assumption) (p_sched : pm.sched = true := by assumption) (p_hives : pm.hives = true := by assumption) (p_tiers
    : pm.tiers = true := by assumption) (p_fxps : pm.fxps = true := by assumption) (p_mirror : pm.mirror = true := by assumption) (p_power : pm.power
    = true := by assumption) (p_count : pm.count = true := by assumption) : ∃ u0, execMsync cell s = .next u0 ∧ Keeps pm st0 u0 := by
  unfold execMsync
  refine ⟨_, rfl, ?_⟩
  try dsimp only
  with_reducible repeat' (first | assumption | apply State.edgeStatus_keeps | apply State.edgeDone_keeps | apply State.sendSeq_keeps | apply Keeps.ite
                                | (refine Keeps.lit ?_ rfl; first | assumption | apply State.edgeStatus_keeps | apply State.edgeDone_keeps | apply State.sendSeq_keeps | apply Keeps.ite)
                                | (split <;> try dsimp only))

end Sys2Proof.Machine
end

