-- ==== Sys2Proof/Laws/KeepFlc.lean ====
section
/-!
SUPPORT. KeepFlc.lean: each operation of Machine/Flc.lean keeps: the invariant, the queue, and every part of the state that no hypothesis names.
-/
namespace Sys2Proof.Machine
set_option Elab.async false

theorem State.setWay_keeps {pm : Parts} {st0 : State} {s : State} {h : Nat} {set : Nat} {way : Nat} {w : Way} (hk0 : Keeps pm st0 s) (p_hives :
    pm.hives = true := by assumption) : Keeps pm st0 (State.setWay s h set way w) := by
  unfold State.setWay
  try dsimp only
  with_reducible repeat' (first | assumption | (refine Keeps.lit ?_ rfl; first | assumption) | (split <;> try dsimp only))

theorem State.dropWay_keeps {pm : Parts} {st0 : State} {s : State} {h : Nat} {set : Nat} {way : Nat} (hk0 : Keeps pm st0 s) (p_hives : pm.hives = true
    := by assumption) : Keeps pm st0 (State.dropWay s h set way) := by
  unfold State.dropWay
  try dsimp only
  with_reducible repeat' (first | assumption | (refine Keeps.lit ?_ rfl; first | assumption) | (split <;> try dsimp only))

theorem State.touchWay_keeps {pm : Parts} {st0 : State} {s : State} {h : Nat} {set : Nat} {w : Nat} (hk0 : Keeps pm st0 s) (p_hives : pm.hives = true
    := by assumption) : Keeps pm st0 (State.touchWay s h set w) := by
  unfold State.touchWay
  try dsimp only
  with_reducible repeat' (first | assumption | (refine Keeps.lit ?_ rfl; first | assumption) | (split <;> try dsimp only))

theorem State.flcLost_keeps {pm : Parts} {st0 : State} {s : State} {h : Nat} {ga : Nat} {w : Way} {c : Nat} {layer : Nat} {oper : Nat} (hk0 : Keeps pm
    st0 s) (p_hives : pm.hives = true := by assumption) (p_err : pm.err = true := by assumption) (p_trace : pm.trace = true := by assumption) (p_count
    : pm.count = true := by assumption) (p_mgmt : pm.mgmt = true := by assumption) : Keeps pm st0 (State.flcLost s h ga w c layer oper) := by
  unfold State.flcLost
  try dsimp only
  with_reducible repeat' (first | assumption | apply State.faultAccess_keeps | (split <;> try dsimp only))

theorem State.flcCorr_keeps {pm : Parts} {st0 : State} {s : State} {h : Nat} {set : Nat} {way : Nat} {c : Nat} {layer : Nat} {oper : Nat} {gmask :
    Nat} (hk0 : Keeps pm st0 s) (p_err : pm.err = true := by assumption) (p_trace : pm.trace = true := by assumption) (p_count : pm.count = true := by
    assumption) (p_mgmt : pm.mgmt = true := by assumption) : Keeps pm st0 (State.flcCorr s h set way c layer oper gmask) := by
  unfold State.flcCorr
  try dsimp only
  with_reducible repeat' (first | assumption | apply State.integrity_keeps | (split <;> try dsimp only))

theorem State.wbFill_keeps {pm : Parts} {st0 : State} {s : State} {h : Nat} (hk0 : Keeps pm st0 s) (p_flight : pm.flight = true := by assumption)
    (p_nextId : pm.nextId = true := by assumption) (p_sched : pm.sched = true := by assumption) (p_hives : pm.hives = true := by assumption) (p_err :
    pm.err = true := by assumption) (p_trace : pm.trace = true := by assumption) (p_count : pm.count = true := by assumption) (p_mgmt : pm.mgmt = true
    := by assumption) : Keeps pm st0 (State.wbFill s h) := by
  unfold State.wbFill
  try dsimp only
  with_reducible repeat' (first | assumption | apply State.issue_keeps | apply Keeps.ite | apply Keeps.foldl | refine Keeps.foldlP ?_ ?_
                                | (intro _ _ _; try dsimp only) | (split <;> try dsimp only))

theorem State.flcWriteback_keeps {pm : Parts} {st0 : State} {s : State} {h : Nat} {set : Nat} {way : Nat} {cmd : Nat} {c : Nat} {layer : Nat} {oper :
    Nat} (hk0 : Keeps pm st0 s) (p_flight : pm.flight = true := by assumption) (p_nextId : pm.nextId = true := by assumption) (p_sched : pm.sched =
    true := by assumption) (p_hives : pm.hives = true := by assumption) (p_err : pm.err = true := by assumption) (p_trace : pm.trace = true := by
    assumption) (p_count : pm.count = true := by assumption) (p_mgmt : pm.mgmt = true := by assumption) : Keeps pm st0 (State.flcWriteback s h set way
    cmd c layer oper).1 := by
  unfold State.flcWriteback
  try dsimp only
  with_reducible repeat' (first | assumption | apply State.flcLost_keeps | apply State.flcCorr_keeps | apply State.wbFill_keeps
                                | apply State.addX_keeps | apply Keeps.ite | (apply Keeps.iteFst <;> try dsimp only) | (split <;> try dsimp only))

theorem State.handDirty_keeps {pm : Parts} {st0 : State} {s : State} {h : Nat} {set : Nat} {way : Nat} (hk0 : Keeps pm st0 s) (p_flight : pm.flight =
    true := by assumption) : Keeps pm st0 (State.handDirty s h set way) := by
  unfold State.handDirty
  try dsimp only
  with_reducible repeat' (first | assumption
                                | (refine Keeps.flight ?_ (fun n hn => numbered_map hn (fun y => ?_)) rfl; first | assumption | assumption)
                                | apply Keeps.ite
                                | (refine Keeps.lit ?_ rfl; first | assumption | (refine Keeps.flight ?_ (fun n hn => numbered_map hn (fun y => ?_)) rfl; first | assumption | assumption) | apply Keeps.ite)
                                | (split <;> try dsimp only))

theorem State.flcAlloc_keeps {pm : Parts} {st0 : State} {s : State} {x : Xact} {t0 : State} {x0 : _} (hk0 : Keeps pm st0 s) (he : State.flcAlloc s x =
    some (t0, x0)) (p_flight : pm.flight = true := by assumption) (p_nextId : pm.nextId = true := by assumption) (p_sched : pm.sched = true := by
    assumption) (p_hives : pm.hives = true := by assumption) (p_err : pm.err = true := by assumption) (p_trace : pm.trace = true := by assumption)
    (p_count : pm.count = true := by assumption) (p_mgmt : pm.mgmt = true := by assumption) : Keeps pm st0 t0 := by
  unfold State.flcAlloc at he
  try dsimp only at he
  repeat' (split at he)
  all_goals first | contradiction | (replace he := Option.some.inj he; first | cases he | skip) | skip
  all_goals (try dsimp only)
  all_goals with_reducible repeat' (first | assumption | apply State.handDirty_keeps | apply State.flcWriteback_keeps | apply State.setWay_keeps
                                          | apply Keeps.ite | (refine Keeps.ofFst (by assumption) ?_) | (apply Keeps.iteFst <;> try dsimp only)
                                          | (split <;> try dsimp only))

theorem State.flcHit_keeps {pm : Parts} {st0 : State} {s : State} {x : Xact} {data : Line} (hk0 : Keeps pm st0 s) (p_flight : pm.flight = true := by
    assumption) (p_count : pm.count = true := by assumption) : Keeps pm st0 (State.flcHit s x data) := by
  unfold State.flcHit
  try dsimp only
  with_reducible repeat' (first | assumption | apply State.setX_keeps | apply State.countReq_keeps | (split <;> try dsimp only))

theorem State.flcFetch_keeps {pm : Parts} {st0 : State} {s : State} {x : Xact} {way : Nat} (hk0 : Keeps pm st0 s) (p_flight : pm.flight = true := by
    assumption) (p_nextId : pm.nextId = true := by assumption) (p_sched : pm.sched = true := by assumption) (p_hives : pm.hives = true := by
    assumption) (p_err : pm.err = true := by assumption) (p_trace : pm.trace = true := by assumption) (p_count : pm.count = true := by assumption)
    (p_mgmt : pm.mgmt = true := by assumption) : Keeps pm st0 (State.flcFetch s x way).1 := by
  unfold State.flcFetch
  try dsimp only
  with_reducible repeat' (first | assumption | apply State.setWay_keeps | apply State.addX_keeps | apply State.issue_keeps | apply State.setX_keeps
                                | apply Keeps.ite | (apply Keeps.iteFst <;> try dsimp only) | (split <;> try dsimp only))

theorem State.flcStore_keeps {pm : Parts} {st0 : State} {s : State} {x : Xact} {i : Nat} (hk0 : Keeps pm st0 s) (p_hives : pm.hives = true := by
    assumption) (p_err : pm.err = true := by assumption) (p_trace : pm.trace = true := by assumption) (p_count : pm.count = true := by assumption)
    (p_mgmt : pm.mgmt = true := by assumption) : Keeps pm st0 (State.flcStore s x i) := by
  unfold State.flcStore
  try dsimp only
  with_reducible repeat' (first | assumption | apply State.flcCorr_keeps | apply State.flcLost_keeps | apply State.touchWay_keeps
                                | apply State.setWay_keeps | apply Keeps.ite | (split <;> try dsimp only))

theorem State.flcLookup_keeps {pm : Parts} {st0 : State} {s : State} {x : Xact} (hk0 : Keeps pm st0 s) (p_flight : pm.flight = true := by assumption)
    (p_nextId : pm.nextId = true := by assumption) (p_sched : pm.sched = true := by assumption) (p_hives : pm.hives = true := by assumption) (p_err :
    pm.err = true := by assumption) (p_trace : pm.trace = true := by assumption) (p_count : pm.count = true := by assumption) (p_mgmt : pm.mgmt = true
    := by assumption) : Keeps pm st0 (State.flcLookup s x) := by
  unfold State.flcLookup
  try dsimp only
  with_reducible repeat' (first | assumption | apply State.setX_keeps | apply State.flcCorr_keeps | apply State.setWay_keeps
                                | apply State.flcHit_keeps | apply State.ctxAdd_keeps | apply State.touchWay_keeps | apply State.dropWay_keeps
                                | apply State.flcFetch_keeps | apply State.bounce_keeps | apply State.flcLost_keeps | apply State.flcStore_keeps
                                | (refine State.flcAlloc_keeps ?_ (by assumption)) | apply Keeps.ite | (refine Keeps.ofFst (by assumption) ?_)
                                | (apply Keeps.iteFst <;> try dsimp only) | (split <;> try dsimp only))

theorem State.sxpGo_keeps {pm : Parts} {st0 : State} {s : State} {x : Xact} (hk0 : Keeps pm st0 s) (p_flight : pm.flight = true := by assumption)
    (p_nextId : pm.nextId = true := by assumption) (p_sched : pm.sched = true := by assumption) (p_hives : pm.hives = true := by assumption) (p_wins :
    pm.wins = true := by assumption) (p_fxps : pm.fxps = true := by assumption) (p_err : pm.err = true := by assumption) (p_power : pm.power = true :=
    by assumption) (p_trace : pm.trace = true := by assumption) (p_count : pm.count = true := by assumption) (p_mgmt : pm.mgmt = true := by
    assumption) : Keeps pm st0 (State.sxpGo s x) := by
  unfold State.sxpGo
  try dsimp only
  with_reducible repeat' (first | assumption | apply State.setX_keeps | apply State.bounce_keeps | apply State.handleFault_keeps
                                | apply State.windowLine_keeps | apply State.refuseLocal_keeps | apply State.stallAt_keeps
                                | apply State.flcLookup_keeps | apply State.pev_keeps | apply State.wakeHive_keeps | apply State.issue_keeps
                                | apply Keeps.ite | (split <;> try dsimp only))

theorem State.flcWalk_keeps {pm : Parts} {st0 : State} {s : State} {h : Nat} {c : Nat} {cmd : Nat} {inRange : Nat → Bool} {drop : Bool} (hk0 : Keeps
    pm st0 s) (p_flight : pm.flight = true := by assumption) (p_nextId : pm.nextId = true := by assumption) (p_sched : pm.sched = true := by
    assumption) (p_hives : pm.hives = true := by assumption) (p_err : pm.err = true := by assumption) (p_trace : pm.trace = true := by assumption)
    (p_count : pm.count = true := by assumption) (p_mgmt : pm.mgmt = true := by assumption) : Keeps pm st0 (State.flcWalk s h c cmd inRange drop).1 :=
    by
  unfold State.flcWalk
  try dsimp only
  with_reducible repeat' (first | assumption | apply State.handDirty_keeps | apply State.flcWriteback_keeps | apply State.dropWay_keeps
                                | apply State.setWay_keeps | apply Keeps.ite | apply Keeps.foldl | (refine Keeps.ofFst (by assumption) ?_)
                                | (apply Keeps.iteFst <;> try dsimp only) | refine Keeps.foldlP ?_ ?_ | (intro _ _ _; try dsimp only)
                                | (split <;> try dsimp only))

theorem State.setFlcCmd_keeps {pm : Parts} {st0 : State} {s : State} {f : FlcCmd} {g : FlcCmd} (hk0 : Keeps pm st0 s) (p_hives : pm.hives = true := by
    assumption) : Keeps pm st0 (State.setFlcCmd s f g) := by
  unfold State.setFlcCmd
  try dsimp only
  with_reducible repeat' (first | assumption | apply Keeps.ite | (refine Keeps.lit ?_ rfl; first | assumption | apply Keeps.ite)
                                | (split <;> try dsimp only))

theorem State.flcStart_keeps {pm : Parts} {st0 : State} {s : State} {f : FlcCmd} (hk0 : Keeps pm st0 s) (p_flight : pm.flight = true := by assumption)
    (p_nextId : pm.nextId = true := by assumption) (p_sched : pm.sched = true := by assumption) (p_hives : pm.hives = true := by assumption) (p_err :
    pm.err = true := by assumption) (p_trace : pm.trace = true := by assumption) (p_count : pm.count = true := by assumption) (p_mgmt : pm.mgmt = true
    := by assumption) : Keeps pm st0 (State.flcStart s f) := by
  unfold State.flcStart
  try dsimp only
  with_reducible repeat' (first | assumption | apply State.flcWalk_keeps | apply State.setFlcCmd_keeps | apply Keeps.ite
                                | (refine Keeps.ofFst (by assumption) ?_) | (apply Keeps.iteFst <;> try dsimp only) | (split <;> try dsimp only))

theorem State.sxpRetry_keeps {pm : Parts} {st0 : State} {s : State} {h : Nat} (hk0 : Keeps pm st0 s) (p_flight : pm.flight = true := by assumption)
    (p_nextId : pm.nextId = true := by assumption) (p_sched : pm.sched = true := by assumption) (p_hives : pm.hives = true := by assumption) (p_wins :
    pm.wins = true := by assumption) (p_fxps : pm.fxps = true := by assumption) (p_err : pm.err = true := by assumption) (p_power : pm.power = true :=
    by assumption) (p_trace : pm.trace = true := by assumption) (p_count : pm.count = true := by assumption) (p_mgmt : pm.mgmt = true := by
    assumption) : Keeps pm st0 (State.sxpRetry s h) := by
  unfold State.sxpRetry
  try dsimp only
  with_reducible repeat' (first | assumption | apply State.flcLookup_keeps | apply State.sxpGo_keeps | apply State.flcStart_keeps | apply Keeps.ite
                                | apply Keeps.foldl | refine Keeps.foldlP ?_ ?_ | (intro _ _ _; try dsimp only) | (split <;> try dsimp only))

theorem execScoreboardStallEnd_keeps {pm : Parts} {st0 : State} {x : Nat} {s : State} (hk0 : Keeps pm st0 s) (p_flight : pm.flight = true := by
    assumption) (p_nextId : pm.nextId = true := by assumption) (p_sched : pm.sched = true := by assumption) (p_hives : pm.hives = true := by
    assumption) (p_wins : pm.wins = true := by assumption) (p_fxps : pm.fxps = true := by assumption) (p_err : pm.err = true := by assumption)
    (p_power : pm.power = true := by assumption) (p_trace : pm.trace = true := by assumption) (p_count : pm.count = true := by assumption) (p_mgmt :
    pm.mgmt = true := by assumption) : ∃ u0, execScoreboardStallEnd x s = .next u0 ∧ Keeps pm st0 u0 := by
  unfold execScoreboardStallEnd
  refine ⟨_, rfl, ?_⟩
  try dsimp only
  with_reducible repeat' (first | assumption | apply State.sbStall_keeps | apply State.sxpGo_keeps | apply State.windowLine_keeps
                                | apply State.reissueAll_keeps | apply Keeps.ite | (split <;> try dsimp only))

theorem execSxpAccess_keeps {pm : Parts} {st0 : State} {h : HiveId} {r : SxpReq} {s : State} (hk0 : Keeps pm st0 s) (p_flight : pm.flight = true := by
    assumption) (p_nextId : pm.nextId = true := by assumption) (p_sched : pm.sched = true := by assumption) (p_hives : pm.hives = true := by
    assumption) (p_wins : pm.wins = true := by assumption) (p_fxps : pm.fxps = true := by assumption) (p_err : pm.err = true := by assumption)
    (p_power : pm.power = true := by assumption) (p_trace : pm.trace = true := by assumption) (p_count : pm.count = true := by assumption) (p_mgmt :
    pm.mgmt = true := by assumption) : ∃ u0, execSxpAccess h r s = .next u0 ∧ Keeps pm st0 u0 := by
  unfold execSxpAccess
  refine ⟨_, rfl, ?_⟩
  try dsimp only
  with_reducible repeat' (first | assumption | apply State.sxpGo_keeps | apply State.addX_keeps | apply State.portTake_keeps | apply Keeps.ite
                                | (split <;> try dsimp only))

theorem State.flcInstall_keeps {pm : Parts} {st0 : State} {s : State} {x : Xact} {set : Nat} {way : Nat} (hk0 : Keeps pm st0 s) (p_flight : pm.flight
    = true := by assumption) (p_hives : pm.hives = true := by assumption) (p_err : pm.err = true := by assumption) (p_trace : pm.trace = true := by
    assumption) (p_count : pm.count = true := by assumption) (p_mgmt : pm.mgmt = true := by assumption) : Keeps pm st0 (State.flcInstall s x set way)
    := by
  unfold State.flcInstall
  try dsimp only
  with_reducible repeat' (first | assumption | apply State.flcLost_keeps | apply State.dropWay_keeps | apply State.flcCorr_keeps
                                | apply State.touchWay_keeps | apply State.setWay_keeps | apply State.setX_keeps | apply State.countReq_keeps
                                | apply Keeps.ite | apply Keeps.foldl | refine Keeps.foldlP ?_ ?_ | (intro _ _ _; try dsimp only)
                                | (split <;> try dsimp only))

theorem execFlcFill_keeps {pm : Parts} {st0 : State} {x : Nat} {s : State} (hk0 : Keeps pm st0 s) (p_flight : pm.flight = true := by assumption)
    (p_nextId : pm.nextId = true := by assumption) (p_sched : pm.sched = true := by assumption) (p_hives : pm.hives = true := by assumption) (p_wins :
    pm.wins = true := by assumption) (p_fxps : pm.fxps = true := by assumption) (p_err : pm.err = true := by assumption) (p_power : pm.power = true :=
    by assumption) (p_trace : pm.trace = true := by assumption) (p_count : pm.count = true := by assumption) (p_mgmt : pm.mgmt = true := by
    assumption) : ∃ u0, execFlcFill x s = .next u0 ∧ Keeps pm st0 u0 := by
  unfold execFlcFill
  refine ⟨_, rfl, ?_⟩
  try dsimp only
  with_reducible repeat' (first | assumption | apply State.sxpRetry_keeps | apply State.ringDone_keeps | apply State.dropX_keeps
                                | apply State.flcInstall_keeps | apply Keeps.ite | (split <;> try dsimp only))

theorem execFlcWritebackDone_keeps {pm : Parts} {st0 : State} {x : Nat} {s : State} (hk0 : Keeps pm st0 s) (p_flight : pm.flight = true := by
    assumption) (p_nextId : pm.nextId = true := by assumption) (p_sched : pm.sched = true := by assumption) (p_hives : pm.hives = true := by
    assumption) (p_wins : pm.wins = true := by assumption) (p_fxps : pm.fxps = true := by assumption) (p_err : pm.err = true := by assumption)
    (p_power : pm.power = true := by assumption) (p_trace : pm.trace = true := by assumption) (p_count : pm.count = true := by assumption) (p_mgmt :
    pm.mgmt = true := by assumption) : ∃ u0, execFlcWritebackDone x s = .next u0 ∧ Keeps pm st0 u0 := by
  unfold execFlcWritebackDone
  refine ⟨_, rfl, ?_⟩
  try dsimp only
  with_reducible repeat' (first | assumption | apply State.wbFill_keeps | apply State.ringDone_keeps | apply State.dropX_keeps
                                | apply State.issue_keeps | apply State.sxpRetry_keeps | apply Keeps.ite | apply Keeps.foldl
                                | refine Keeps.foldlP ?_ ?_ | (intro _ _ _; try dsimp only) | (split <;> try dsimp only))

theorem State.flcCommand_keeps {pm : Parts} {st0 : State} {s : State} {h : Nat} {c : Nat} {op : Nat} {cell : Nat} (hk0 : Keeps pm st0 s) (p_flight :
    pm.flight = true := by assumption) (p_nextId : pm.nextId = true := by assumption) (p_sched : pm.sched = true := by assumption) (p_hives : pm.hives
    = true := by assumption) (p_err : pm.err = true := by assumption) (p_trace : pm.trace = true := by assumption) (p_count : pm.count = true := by
    assumption) (p_mgmt : pm.mgmt = true := by assumption) : Keeps pm st0 (State.flcCommand s h c op cell) := by
  unfold State.flcCommand
  try dsimp only
  with_reducible repeat' (first | assumption | apply State.setStatus_keeps | apply State.wakeHive_keeps | apply State.addCell_keeps
                                | apply State.flcStart_keeps | apply Keeps.ite
                                | (refine Keeps.lit ?_ rfl; first | assumption | apply State.setStatus_keeps | apply State.wakeHive_keeps | apply State.addCell_keeps | apply State.flcStart_keeps | apply Keeps.ite)
                                | (split <;> try dsimp only))

theorem execFlcFlush_keeps {pm : Parts} {st0 : State} {h : HiveId} {c : CtxId} {cell : Ga} {s : State} (hk0 : Keeps pm st0 s) (p_flight : pm.flight =
    true := by assumption) (p_nextId : pm.nextId = true := by assumption) (p_sched : pm.sched = true := by assumption) (p_hives : pm.hives = true :=
    by assumption) (p_err : pm.err = true := by assumption) (p_trace : pm.trace = true := by assumption) (p_count : pm.count = true := by assumption)
    (p_mgmt : pm.mgmt = true := by assumption) : ∃ u0, execFlcFlush h c cell s = .next u0 ∧ Keeps pm st0 u0 := by
  unfold execFlcFlush
  refine ⟨_, rfl, ?_⟩
  try dsimp only
  with_reducible repeat' (first | assumption | apply State.cmd_keeps | apply State.flcCommand_keeps | (intro _ _; try dsimp only)
                                | (split <;> try dsimp only))

theorem execFlcInval_keeps {pm : Parts} {st0 : State} {h : HiveId} {c : CtxId} {cell : Ga} {s : State} (hk0 : Keeps pm st0 s) (p_flight : pm.flight =
    true := by assumption) (p_nextId : pm.nextId = true := by assumption) (p_sched : pm.sched = true := by assumption) (p_hives : pm.hives = true :=
    by assumption) (p_err : pm.err = true := by assumption) (p_trace : pm.trace = true := by assumption) (p_count : pm.count = true := by assumption)
    (p_mgmt : pm.mgmt = true := by assumption) : ∃ u0, execFlcInval h c cell s = .next u0 ∧ Keeps pm st0 u0 := by
  unfold execFlcInval
  refine ⟨_, rfl, ?_⟩
  try dsimp only
  with_reducible repeat' (first | assumption | apply State.cmd_keeps | apply State.flcCommand_keeps | (intro _ _; try dsimp only)
                                | (split <;> try dsimp only))

theorem execFlcFlushAll_keeps {pm : Parts} {st0 : State} {h : HiveId} {c : CtxId} {cell : Ga} {s : State} (hk0 : Keeps pm st0 s) (p_flight : pm.flight
    = true := by assumption) (p_nextId : pm.nextId = true := by assumption) (p_sched : pm.sched = true := by assumption) (p_hives : pm.hives = true :=
    by assumption) (p_err : pm.err = true := by assumption) (p_trace : pm.trace = true := by assumption) (p_count : pm.count = true := by assumption)
    (p_mgmt : pm.mgmt = true := by assumption) : ∃ u0, execFlcFlushAll h c cell s = .next u0 ∧ Keeps pm st0 u0 := by
  unfold execFlcFlushAll
  refine ⟨_, rfl, ?_⟩
  try dsimp only
  with_reducible repeat' (first | assumption | apply State.cmd_keeps | apply State.flcCommand_keeps | (intro _ _; try dsimp only)
                                | (split <;> try dsimp only))

theorem execFlcInvalAll_keeps {pm : Parts} {st0 : State} {h : HiveId} {c : CtxId} {cell : Ga} {s : State} (hk0 : Keeps pm st0 s) (p_flight : pm.flight
    = true := by assumption) (p_nextId : pm.nextId = true := by assumption) (p_sched : pm.sched = true := by assumption) (p_hives : pm.hives = true :=
    by assumption) (p_err : pm.err = true := by assumption) (p_trace : pm.trace = true := by assumption) (p_count : pm.count = true := by assumption)
    (p_mgmt : pm.mgmt = true := by assumption) : ∃ u0, execFlcInvalAll h c cell s = .next u0 ∧ Keeps pm st0 u0 := by
  unfold execFlcInvalAll
  refine ⟨_, rfl, ?_⟩
  try dsimp only
  with_reducible repeat' (first | assumption | apply State.cmd_keeps | apply State.flcCommand_keeps | (intro _ _; try dsimp only)
                                | (split <;> try dsimp only))

theorem execFlcOpDone_keeps {pm : Parts} {st0 : State} {h : HiveId} {c : CtxId} {s : State} (hk0 : Keeps pm st0 s) (p_flight : pm.flight = true := by
    assumption) (p_nextId : pm.nextId = true := by assumption) (p_sched : pm.sched = true := by assumption) (p_hives : pm.hives = true := by
    assumption) (p_wins : pm.wins = true := by assumption) (p_fxps : pm.fxps = true := by assumption) (p_err : pm.err = true := by assumption)
    (p_power : pm.power = true := by assumption) (p_trace : pm.trace = true := by assumption) (p_count : pm.count = true := by assumption) (p_mgmt :
    pm.mgmt = true := by assumption) : ∃ u0, execFlcOpDone h c s = .next u0 ∧ Keeps pm st0 u0 := by
  unfold execFlcOpDone
  refine ⟨_, rfl, ?_⟩
  try dsimp only
  with_reducible repeat' (first | assumption | apply State.setStatus_keeps | apply State.sxpRetry_keeps | apply State.addCell_keeps | apply Keeps.ite
                                | (refine Keeps.lit ?_ rfl; first | assumption | apply State.setStatus_keeps | apply State.sxpRetry_keeps | apply State.addCell_keeps | apply Keeps.ite)
                                | (split <;> try dsimp only))

end Sys2Proof.Machine
end

