-- ==== Sys2Proof/Laws/Same.lean ====
section
/-!
SUPPORT. Same.lean: a part of the state that a change does not name is as it was.
-/
set_option Elab.async false
namespace Sys2Proof.Machine

theorem Keeps.same_flight {pm : Parts} {s t : State} (h : Keeps pm s t) (hp : pm.flight = false) : t.flight = s.flight :=
  h.2.flight.resolve_left (by rw [hp]; decide)
theorem Keeps.same_nextId {pm : Parts} {s t : State} (h : Keeps pm s t) (hp : pm.nextId = false) : t.nextId = s.nextId :=
  h.2.nextId.resolve_left (by rw [hp]; decide)
theorem Keeps.same_free {pm : Parts} {s t : State} (h : Keeps pm s t) (hp : pm.free = false) : t.free = s.free :=
  h.2.free.resolve_left (by rw [hp]; decide)
theorem Keeps.same_clk {pm : Parts} {s t : State} (h : Keeps pm s t) (hp : pm.clk = false) : t.clk = s.clk :=
  h.2.clk.resolve_left (by rw [hp]; decide)
theorem Keeps.same_sched {pm : Parts} {s t : State} (h : Keeps pm s t) (hp : pm.sched = false) : t.sched = s.sched :=
  h.2.sched.resolve_left (by rw [hp]; decide)
theorem Keeps.same_mem {pm : Parts} {s t : State} (h : Keeps pm s t) (hp : pm.mem = false) : t.mem = s.mem :=
  h.2.mem.resolve_left (by rw [hp]; decide)
theorem Keeps.same_hives {pm : Parts} {s t : State} (h : Keeps pm s t) (hp : pm.hives = false) : t.hives = s.hives :=
  h.2.hives.resolve_left (by rw [hp]; decide)
theorem Keeps.same_wins {pm : Parts} {s t : State} (h : Keeps pm s t) (hp : pm.wins = false) : t.wins = s.wins :=
  h.2.wins.resolve_left (by rw [hp]; decide)
theorem Keeps.same_chans {pm : Parts} {s t : State} (h : Keeps pm s t) (hp : pm.chans = false) : t.chans = s.chans :=
  h.2.chans.resolve_left (by rw [hp]; decide)
theorem Keeps.same_chTurn {pm : Parts} {s t : State} (h : Keeps pm s t) (hp : pm.chTurn = false) : t.chTurn = s.chTurn :=
  h.2.chTurn.resolve_left (by rw [hp]; decide)
theorem Keeps.same_jobs {pm : Parts} {s t : State} (h : Keeps pm s t) (hp : pm.jobs = false) : t.jobs = s.jobs :=
  h.2.jobs.resolve_left (by rw [hp]; decide)
theorem Keeps.same_scarabs {pm : Parts} {s t : State} (h : Keeps pm s t) (hp : pm.scarabs = false) : t.scarabs = s.scarabs :=
  h.2.scarabs.resolve_left (by rw [hp]; decide)
theorem Keeps.same_submits {pm : Parts} {s t : State} (h : Keeps pm s t) (hp : pm.submits = false) : t.submits = s.submits :=
  h.2.submits.resolve_left (by rw [hp]; decide)
theorem Keeps.same_tiers {pm : Parts} {s t : State} (h : Keeps pm s t) (hp : pm.tiers = false) : t.tiers = s.tiers :=
  h.2.tiers.resolve_left (by rw [hp]; decide)
theorem Keeps.same_fxps {pm : Parts} {s t : State} (h : Keeps pm s t) (hp : pm.fxps = false) : t.fxps = s.fxps :=
  h.2.fxps.resolve_left (by rw [hp]; decide)
theorem Keeps.same_err {pm : Parts} {s t : State} (h : Keeps pm s t) (hp : pm.err = false) : t.err = s.err :=
  h.2.err.resolve_left (by rw [hp]; decide)
theorem Keeps.same_mirror {pm : Parts} {s t : State} (h : Keeps pm s t) (hp : pm.mirror = false) : t.mirror = s.mirror :=
  h.2.mirror.resolve_left (by rw [hp]; decide)
theorem Keeps.same_journal {pm : Parts} {s t : State} (h : Keeps pm s t) (hp : pm.journal = false) : t.journal = s.journal :=
  h.2.journal.resolve_left (by rw [hp]; decide)
theorem Keeps.same_power {pm : Parts} {s t : State} (h : Keeps pm s t) (hp : pm.power = false) : t.power = s.power :=
  h.2.power.resolve_left (by rw [hp]; decide)
theorem Keeps.same_trace {pm : Parts} {s t : State} (h : Keeps pm s t) (hp : pm.trace = false) : t.trace = s.trace :=
  h.2.trace.resolve_left (by rw [hp]; decide)
theorem Keeps.same_count {pm : Parts} {s t : State} (h : Keeps pm s t) (hp : pm.count = false) : t.count = s.count :=
  h.2.count.resolve_left (by rw [hp]; decide)
theorem Keeps.same_quench {pm : Parts} {s t : State} (h : Keeps pm s t) (hp : pm.quench = false) : t.quench = s.quench :=
  h.2.quench.resolve_left (by rw [hp]; decide)
theorem Keeps.same_mgmt {pm : Parts} {s t : State} (h : Keeps pm s t) (hp : pm.mgmt = false) : t.mgmt = s.mgmt :=
  h.2.mgmt.resolve_left (by rw [hp]; decide)

end Sys2Proof.Machine
end

