-- ==== Sys2Proof/Laws/Tables.lean ====
section
/-!
SUPPORT. Tables.lean: what a table reads after a write, at the key written and at every other.
-/
set_option Elab.async false
namespace Sys2Proof.Machine

theorem Tbl.find_insert_same {α : Type} (t : Tbl α) (k : Nat) (v : α) : Tbl.find (Tbl.insert t k v) k = some v := by
  induction t with
  | nil => simp [Tbl.insert, Tbl.find]
  | cons e t ih =>
    obtain ⟨j, w⟩ := e
    unfold Tbl.insert
    split
    · simp [Tbl.find]
    · split
      · simp [Tbl.find]
      · have : j ≠ k := by omega
        simp [Tbl.find, this, ih]

theorem Tbl.find_insert_other {α : Type} (t : Tbl α) (k j : Nat) (v : α) (h : j ≠ k) : Tbl.find (Tbl.insert t k v) j = Tbl.find t j := by
  induction t with
  | nil => simp [Tbl.insert, Tbl.find, h.symm]
  | cons e t ih =>
    obtain ⟨i, w⟩ := e
    unfold Tbl.insert
    split
    · simp [Tbl.find, h.symm]
    · split
      · rename_i hk
        simp [Tbl.find, h.symm, ← hk]
      · simp [Tbl.find, ih]

theorem Tbl.find_erase_same {α : Type} (t : Tbl α) (k : Nat) : Tbl.find (Tbl.erase t k) k = none := by
  induction t with
  | nil => simp [Tbl.erase, Tbl.find]
  | cons e t ih =>
    obtain ⟨j, w⟩ := e
    unfold Tbl.erase at ih ⊢
    by_cases h : j = k
    · simpa [List.filter_cons, h] using ih
    · simpa [List.filter_cons, h, Tbl.find] using ih

theorem Tbl.find_erase_other {α : Type} (t : Tbl α) (k j : Nat) (h : j ≠ k) : Tbl.find (Tbl.erase t k) j = Tbl.find t j := by
  induction t with
  | nil => simp [Tbl.erase, Tbl.find]
  | cons e t ih =>
    obtain ⟨i, w⟩ := e
    unfold Tbl.erase at ih ⊢
    by_cases hi : i = k
    · have : i ≠ j := fun e => h (e ▸ hi)
      simpa [List.filter_cons, hi, Tbl.find, h.symm] using ih
    · simp only [List.filter_cons, hi, ne_eq, not_false_eq_true, decide_true, if_true, Tbl.find]
      split
      · rfl
      · exact ih

/-- A key reads as it was last written. -/
@[simp] theorem Tbl.get_set_same {α : Type} [DecidableEq α] (t : Tbl α) (d : α) (k : Nat) (v : α) : Tbl.get (Tbl.set t d k v) d k = v := by
  unfold Tbl.set Tbl.get
  split
  · rename_i h
    rw [Tbl.find_erase_same, h]
    rfl
  · rw [Tbl.find_insert_same]
    rfl

/-- A write leaves every other key as it was. -/
theorem Tbl.get_set_other {α : Type} [DecidableEq α] (t : Tbl α) (d : α) (k j : Nat) (v : α) (h : j ≠ k) {d' : α} :
    Tbl.get (Tbl.set t d k v) d' j = Tbl.get t d' j := by
  unfold Tbl.set Tbl.get
  split
  · rw [Tbl.find_erase_other t k j h]
  · rw [Tbl.find_insert_other t k j v h]

theorem Tbl.find_set_other {α : Type} [DecidableEq α] (t : Tbl α) (d : α) (k j : Nat) (v : α) (h : j ≠ k) :
    Tbl.find (Tbl.set t d k v) j = Tbl.find t j := by
  unfold Tbl.set
  split
  · exact Tbl.find_erase_other t k j h
  · exact Tbl.find_insert_other t k j v h

end Sys2Proof.Machine
end

