-- ==== Sys2Proof/Laws/Report.lean ====
section
/-!
SUPPORT. Report.lean: everything that reporting changes: a record raised in the chip error table, a notice to subscribers, a trace record.
-/
set_option Elab.async false
namespace Sys2Proof.Machine

theorem pkey_inj {p q i j : Nat} (hi : i < 2^24) (hj : j < 2^24) (h : pkey p i = pkey q j) : p = q ∧ i = j := by
  unfold pkey at h
  omega

/-- What reporting may change: the chip error table, interrupts, subscribers' queues and fired triggers, and the trace's own bookkeeping. -/
structure Reported (s t : State) : Prop where
  all   : t = { s with err := t.err, mgmt := t.mgmt, trace := t.trace }
  mgmt  : t.mgmt = { s.mgmt with subs := t.mgmt.subs, irqPend := t.mgmt.irqPend, vals := t.mgmt.vals }
  pv    : ∀ p i, p ≠ 0x6010 → i < 2^24 → t.pv p i = s.pv p i
  err   : t.err = { s.err with table := t.err.table, head := t.err.head, lost := t.err.lost }
  trace : t.trace = { s.trace with fires := t.trace.fires, last64 := t.trace.last64, staging := t.trace.staging, dropSaid := t.trace.dropSaid }

theorem Reported.refl (s : State) : Reported s s := ⟨rfl, rfl, fun _ _ _ _ => rfl, rfl, rfl⟩

theorem Reported.trans {a b c : State} (h : Reported a b) (k : Reported b c) : Reported a c := by
  refine ⟨?_, ?_, fun p i hp hi => (k.pv p i hp hi).trans (h.pv p i hp hi), ?_, ?_⟩
  · rw [k.all, h.all]
  · rw [k.mgmt, h.mgmt]
  · rw [k.err, h.err]
  · rw [k.trace, h.trace]

theorem Reported.foldl {α : Type} {a s : State} {f : State → α → State} {l : List α} (h : Reported a s) (hf : ∀ s x, x ∈ l → Reported s (f s x)) :
    Reported a (l.foldl f s) := by
  induction l generalizing s with
  | nil => exact h
  | cons x l ih => exact ih (h.trans (hf s x (by simp))) (fun s y hy => hf s y (by simp [hy]))

theorem State.event_reported (s : State) (sel param index : Nat) (payload : List Byte) : Reported s (s.event sel param index payload) :=
  ⟨rfl, rfl, fun _ _ _ _ => rfl, rfl, rfl⟩

theorem State.notice_reported (s : State) (param index : Nat) (payload : List Byte) : Reported s (s.notice param index payload) :=
  s.event_reported _ param index payload

theorem State.irq_reported (s : State) (n : Nat) : Reported s (s.irq n) := ⟨rfl, rfl, fun _ _ _ _ => rfl, rfl, rfl⟩

theorem codeIrq_reported (code : Nat) (s : State) : Reported s (codeIrq code s) := by
  unfold codeIrq
  repeat' split
  all_goals first | exact s.irq_reported _ | exact Reported.refl s

theorem State.vals_reported (s : State) (v : Tbl Nat) (f : List (Nat × Nat × Nat))
    (hv : ∀ p i, p ≠ 0x6010 → i < 2^24 → Tbl.get v (pdefault p i) (pkey p i) = s.pv p i) :
    Reported s { s with mgmt := { s.mgmt with vals := v }, trace := { s.trace with fires := f } } := ⟨rfl, rfl, hv, rfl, rfl⟩

theorem State.fire_reported (s : State) (i : Nat) (r : Rec) (hi : i < 4) : Reported s (s.fire i r) := by
  unfold State.fire
  generalize setFld _ _ _ _ = v
  unfold State.setPv
  generalize hk : pkey 0x6010 i = k
  dsimp only
  refine s.vals_reported _ _ (fun p j hp hj => ?_)
  have hk : pkey p j ≠ k := fun h => hp (pkey_inj hj (by omega) (h.trans hk.symm)).1
  exact Tbl.get_set_other _ _ _ _ _ hk

theorem State.testTriggers_reported (s : State) (src : Nat) (m : Nat → Bool) (r : Rec) : Reported s (s.testTriggers src m r) := by
  unfold State.testTriggers
  refine (Reported.refl s).foldl (fun u i hi => ?_)
  dsimp only
  split
  · exact u.fire_reported i r (by simpa using hi)
  · exact Reported.refl u

theorem State.last64_reported (s : State) (u : Nat) (r : Rec) : Reported s (s.last64 u r) := ⟨rfl, rfl, fun _ _ _ _ => rfl, rfl, rfl⟩

theorem State.tableStore_reported (s : State) (slot : Nat) (r : Rec) : Reported s (s.tableStore slot r) :=
  ⟨rfl, rfl, fun _ _ _ _ => rfl, rfl, rfl⟩

theorem State.tableRing_reported (s : State) (r : Rec) : Reported s (s.tableRing r) := by
  unfold State.tableRing
  split
  · exact ⟨rfl, rfl, fun _ _ _ _ => rfl, rfl, rfl⟩
  · split
    · exact s.tableStore_reported _ r
    · exact ⟨rfl, rfl, fun _ _ _ _ => rfl, rfl, rfl⟩

/-- A record sent to the chip error table reports and does nothing else. -/
theorem State.tableAdd_reported (s : State) (r : Rec) (ids : Nat × Nat) : Reported s (s.tableAdd r ids) :=
  ((s.tableRing_reported r).trans (codeIrq_reported _ _)).trans (State.testTriggers_reported _ _ _ _)

/-- Raising a code reports and does nothing else. -/
theorem State.raise_reported (s : State) (f : RecF) : Reported s (s.raise f) := s.tableAdd_reported _ _

theorem State.dropSaid_reported (s : State) (u cause : Nat) : Reported s (s.dropSaid u cause) := by
  unfold State.dropSaid
  split
  · exact Reported.refl s
  · have h : Reported s { s with trace := { s.trace with dropSaid := true } } := ⟨rfl, rfl, fun _ _ _ _ => rfl, rfl, rfl⟩
    exact h.trans (State.raise_reported _ _)

theorem State.stage_reported (s : State) (u : Nat) (r : Rec) (time : Nat) : Reported s (s.stage u r time) := by
  have h : ∀ g, Reported s { s with trace := { s.trace with staging := g } } := fun _ => ⟨rfl, rfl, fun _ _ _ _ => rfl, rfl, rfl⟩
  unfold State.stage
  dsimp only
  split
  · exact h _
  · exact (h _).trans (State.dropSaid_reported _ _ _)

theorem State.traceAt_reported (s : State) (f : TraceF) (time : Nat) : Reported s (s.traceAt f time) := by
  unfold State.traceAt
  split
  · exact Reported.refl s
  · dsimp only
    have h := (s.testTriggers_reported 0 (trigTrace f) (f.record time)).trans (State.last64_reported _ f.unit (f.record time))
    split
    · exact h.trans (State.stage_reported _ _ _ _)
    · exact h

/-- Generating a trace record reports and does nothing else. -/
theorem State.traceGen_reported (s : State) (f : TraceF) : Reported s (s.traceGen f) := s.traceAt_reported f _

/-- Reporting leaves the shadowed parameters, in force and in shadow, as they were. -/
theorem Reported.act {s t : State} (h : Reported s t) (p i : Nat) : t.act p i = s.act p i := by
  unfold State.act
  rw [h.mgmt]

theorem Reported.shd {s t : State} (h : Reported s t) (p i : Nat) : t.shd p i = s.shd p i := by
  unfold State.shd
  rw [h.mgmt]

theorem Reported.sched {s t : State} (h : Reported s t) : t.sched = s.sched := by rw [h.all]
theorem Reported.clk {s t : State} (h : Reported s t) : t.clk = s.clk := by rw [h.all]
theorem Reported.hives {s t : State} (h : Reported s t) : t.hives = s.hives := by rw [h.all]
theorem Reported.flight {s t : State} (h : Reported s t) : t.flight = s.flight := by rw [h.all]
theorem Reported.mem {s t : State} (h : Reported s t) : t.mem = s.mem := by rw [h.all]
theorem Reported.power {s t : State} (h : Reported s t) : t.power = s.power := by rw [h.all]
theorem Reported.tiers {s t : State} (h : Reported s t) : t.tiers = s.tiers := by rw [h.all]
theorem Reported.count {s t : State} (h : Reported s t) : t.count = s.count := by rw [h.all]
theorem Reported.mirror {s t : State} (h : Reported s t) : t.mirror = s.mirror := by rw [h.all]
theorem Reported.fxps {s t : State} (h : Reported s t) : t.fxps = s.fxps := by rw [h.all]
theorem Reported.quench {s t : State} (h : Reported s t) : t.quench = s.quench := by rw [h.all]
theorem Reported.journal {s t : State} (h : Reported s t) : t.journal = s.journal := by rw [h.all]
theorem Reported.wins {s t : State} (h : Reported s t) : t.wins = s.wins := by rw [h.all]

end Sys2Proof.Machine
end

