-- ==== Sys2Proof/Laws/Shared.lean ====
section
/-!
SUPPORT. Shared.lean: what further shared operations do, each said once.
-/
set_option Elab.async false
namespace Sys2Proof.Machine

/-- Recording an input changes the record buffer, and reports when the buffer is full. -/
theorem State.recInput_reported (s : State) (kind unit tag : Nat) (data : List Byte) (whole : Bool) :
    ∃ j, Reported { s with journal := j } (s.recInput kind unit tag data whole) := by
  unfold State.recInput
  split
  · exact ⟨s.journal, Reported.refl s⟩
  · dsimp only
    generalize (if whole = true then data.length else 0) = n
    generalize (if whole = true then recCont (ceilDiv (8 * n) 124) (bytesNat data) else []) = e
    split
    · exact ⟨_, Reported.refl _⟩
    · exact ⟨_, State.raise_reported _ _⟩

/-- A class that reaches its budget changes what regulation holds of classes, and counts. -/
theorem State.demote_eq (s : State) (key : Nat) :
    ∃ n c k, s.demote key = { s with sched := { s.sched with demNext := n, demSeen := c }, count := k } := by
  unfold State.demote State.cadd State.setCounter
  dsimp only
  repeat' split
  all_goals exact ⟨_, _, _, rfl⟩

/-- Comparing the window's counts with the budgets changes which classes are demoted, and counts. -/
theorem State.regrade_eq (s : State) :
    ∃ d n c k, s.regrade = { s with sched := { s.sched with demoted := d, demNext := n, demSeen := c }, count := k } := by
  unfold State.regrade
  dsimp only
  generalize List.map _ _ = past
  generalize List.filter past.contains s.sched.demoted = d0
  generalize List.filter past.contains s.sched.demNext = n0
  have h : ∀ (l : List Nat) (u : State), (∃ n c k, u = { s with sched := { s.sched with demoted := d0, demNext := n, demSeen := c }, count := k }) →
      ∃ n c k, l.foldl State.demote u = { s with sched := { s.sched with demoted := d0, demNext := n, demSeen := c }, count := k } := by
    intro l
    induction l with
    | nil => exact fun u h => h
    | cons a l ih =>
      intro u h
      obtain ⟨n, c, k, rfl⟩ := h
      obtain ⟨n', c', k', e⟩ := State.demote_eq { s with sched := { s.sched with demoted := d0, demNext := n, demSeen := c }, count := k } a
      exact ih _ ⟨n', c', k', e⟩
  obtain ⟨n, c, k, e⟩ := h past { s with sched := { s.sched with demoted := d0, demNext := n0 } } ⟨n0, _, _, rfl⟩
  rw [e]
  exact ⟨_, _, _, _, rfl⟩

/-- Reduced budgets taking effect change the budgets and which classes are demoted, count, and tell subscribers. -/
theorem State.reducedNow_reported (s : State) :
    ∃ e r d n c k, Reported { s with sched := { s.sched with effective := e, reduced := r, demoted := d, demNext := n, demSeen := c }, count := k }
      s.reducedNow := by
  unfold State.reducedNow
  split
  · exact ⟨_, _, _, _, _, _, Reported.refl s⟩
  · dsimp only
    generalize List.foldl (fun t e => Tbl.set t 0 e.fst (e.snd - 1)) s.sched.effective s.sched.reduced = eff
    obtain ⟨d, n, c, k, e⟩ := State.regrade_eq { s with sched := { s.sched with effective := eff, reduced := [] } }
    rw [e]
    exact ⟨eff, [], d, n, c, k, (Reported.refl _).foldl (fun u r _ => u.notice_reported _ _ _)⟩

theorem Reported.pend {s t : State} (h : Reported s t) : t.pending = s.pending := by rw [h.all]
theorem Reported.jobs {s t : State} (h : Reported s t) : t.jobs = s.jobs := by rw [h.all]
theorem Reported.chans {s t : State} (h : Reported s t) : t.chans = s.chans := by rw [h.all]

theorem Reported.determ {s t : State} (h : Reported s t) : t.determ = s.determ := by
  unfold State.determ
  rw [h.act]

end Sys2Proof.Machine
end

