-- ==== Sys2Proof/Laws/Access.lean ====
section
/-!
SUPPORT. Access.lean: what becomes of an access at its issue checks, and what leaves the transactions in flight as they are.
-/
set_option Elab.async false
namespace Sys2Proof.Machine

/-- Every part of the state but the transactions in flight. -/
abbrev noFlight : Parts := { cmdParts.all with flight := false }

theorem Keeps.sameFlight {s t : State} (h : Keeps noFlight s t) : t.flight = s.flight := h.2.flight.resolve_left (by decide)

theorem State.handleFault_clk (s : State) (f : HFault) (w : FaultSite) : (s.handleFault f w).clk = s.clk :=
  Keeps.same_clk (pm := { cmdParts.all with clk := false }) (by apply @State.handleFault_keeps <;> first | exact Keeps.refl _ _ | rfl) rfl
theorem State.countReq_clk (s : State) (x : Xact) : (s.countReq x).clk = s.clk :=
  Keeps.same_clk (pm := { cmdParts.all with clk := false }) (by apply @State.countReq_keeps <;> first | exact Keeps.refl _ _ | rfl) rfl
theorem State.countReq_hives (s : State) (x : Xact) : (s.countReq x).hives = s.hives :=
  Keeps.same_hives (pm := { cmdParts.all with hives := false }) (by apply @State.countReq_keeps <;> first | exact Keeps.refl _ _ | rfl) rfl
theorem State.ctxAdd_clk (s : State) (a b c d : Nat) : (s.ctxAdd a b c d).clk = s.clk :=
  Keeps.same_clk (pm := { cmdParts.all with clk := false }) (by apply @State.ctxAdd_keeps <;> first | exact Keeps.refl _ _ | rfl) rfl
theorem State.ctxAdd_hives (s : State) (a b c d : Nat) : (s.ctxAdd a b c d).hives = s.hives :=
  Keeps.same_hives (pm := { cmdParts.all with hives := false }) (by apply @State.ctxAdd_keeps <;> first | exact Keeps.refl _ _ | rfl) rfl
theorem State.wakeHive_clk (s : State) (h : Nat) : (s.wakeHive h).clk = s.clk :=
  Keeps.same_clk (pm := { cmdParts.all with clk := false }) (by apply @State.wakeHive_keeps <;> first | exact Keeps.refl _ _ | rfl) rfl
theorem State.wakeHive_ways (s : State) (h : Nat) : (s.wakeHive h).hives.ways = s.hives.ways := by
  unfold State.wakeHive State.active; dsimp only; split <;> rfl
theorem State.wakeHive_flight (s : State) (h : Nat) : (s.wakeHive h).flight = s.flight :=
  Keeps.sameFlight (by apply @State.wakeHive_keeps <;> first | exact Keeps.refl _ _ | rfl)
theorem State.countReq_flight (s : State) (x : Xact) : (s.countReq x).flight = s.flight :=
  Keeps.sameFlight (by apply @State.countReq_keeps <;> first | exact Keeps.refl _ _ | rfl)
theorem State.refused_flight (s : State) (code unit : Nat) (x : Xact) : (s.refused code unit x).flight = s.flight :=
  Keeps.sameFlight (by apply @State.refused_keeps <;> first | exact Keeps.refl _ _ | rfl)
theorem State.slotMiss_flight (s : State) (a b c d e f g h i : Nat) : (s.slotMiss a b c d e f g h i).flight = s.flight :=
  Keeps.sameFlight (by apply @State.slotMiss_keeps <;> first | exact Keeps.refl _ _ | rfl)
theorem State.mismatch_flight (s : State) (a b c d : Nat) : (s.mismatch a b c d).flight = s.flight :=
  Keeps.sameFlight (by apply @State.mismatch_keeps <;> first | exact Keeps.refl _ _ | rfl)
theorem State.issueMiss_flight (s : State) (x : Xact) (c l : Nat) : (s.issueMiss x c l).1.flight = s.flight :=
  Keeps.sameFlight (by apply @State.issueMiss_keeps <;> first | exact Keeps.refl _ _ | rfl)
theorem State.schedJudge_flight (s : State) (x : Xact) (w : Bool) : (s.schedJudge x w).1.flight = s.flight :=
  Keeps.sameFlight (by apply @State.schedJudge_keeps <;> first | exact Keeps.refl _ _ | rfl)
theorem State.stallMiss_flight (s : State) (x : Xact) (c : Nat) : (s.stallMiss x c).1.flight = s.flight :=
  Keeps.sameFlight (by apply @State.stallMiss_keeps <;> first | exact Keeps.refl _ _ | rfl)
theorem State.schedIssue_flight (s : State) (x : Xact) : (s.schedIssue x).1.flight = s.flight :=
  Keeps.sameFlight (by apply @State.schedIssue_keeps <;> first | exact Keeps.refl _ _ | rfl)
theorem State.active_flight (s : State) (h : Nat) : (s.active h).flight = s.flight := rfl
theorem State.sbPort_flight (s : State) (x : Xact) : (s.sbPort x).flight = s.flight :=
  Keeps.sameFlight (by apply @State.sbPort_keeps <;> first | exact Keeps.refl _ _ | rfl)

theorem State.handleFault_flight (s : State) (f : HFault) (w : FaultSite) : (s.handleFault f w).flight = s.flight :=
  Keeps.sameFlight (by apply @State.handleFault_keeps <;> first | exact Keeps.refl _ _ | rfl)
theorem State.pev_flight (s : State) (k n : Nat) : (s.pev k n).flight = s.flight := rfl
theorem State.ctxAdd_flight (s : State) (a b c d : Nat) : (s.ctxAdd a b c d).flight = s.flight :=
  Keeps.sameFlight (by apply @State.ctxAdd_keeps <;> first | exact Keeps.refl _ _ | rfl)

theorem SameAccess.refl (x : Xact) : SameAccess x x := ⟨rfl, rfl, rfl, rfl, rfl, rfl, rfl, rfl, rfl, rfl, rfl, rfl, rfl, rfl⟩

theorem SameAccess.trans {x y z : Xact} (h : SameAccess x y) (k : SameAccess y z) : SameAccess x z :=
  ⟨k.1.trans h.1, k.2.trans h.2, k.3.trans h.3, k.4.trans h.4, k.5.trans h.5, k.6.trans h.6, k.7.trans h.7, k.8.trans h.8, k.9.trans h.9,
   k.10.trans h.10, k.11.trans h.11, k.12.trans h.12, k.13.trans h.13, k.14.trans h.14⟩

theorem State.setX_flight {s t : State} (x : Xact) (h : t.flight = s.flight) : (t.setX x).flight = (s.setX x).flight := by
  unfold State.setX; dsimp only; rw [h]

/-- A request as it stands after a check: the same access, on its way out still. -/
def SameReq (x y : Xact) : Prop := SameAccess x y ∧ y.half = x.half

theorem SameReq.refl (x : Xact) : SameReq x x := ⟨SameAccess.refl x, rfl⟩

theorem SameReq.trans {x y z : Xact} (h : SameReq x y) (k : SameReq y z) : SameReq x z := ⟨h.1.trans k.1, k.2.trans h.2⟩

theorem Xact.checked_same (x : Xact) (now : Nat) : SameReq x (x.checked now) := by
  unfold Xact.checked; split <;> exact ⟨⟨rfl, rfl, rfl, rfl, rfl, rfl, rfl, rfl, rfl, rfl, rfl, rfl, rfl, rfl⟩, rfl⟩

theorem Xact.stamped_same (x : Xact) (now : Nat) : SameReq x (x.stamped now) := by
  unfold Xact.stamped; split <;> exact ⟨⟨rfl, rfl, rfl, rfl, rfl, rfl, rfl, rfl, rfl, rfl, rfl, rfl, rfl, rfl⟩, rfl⟩

/-- What a missed cycle may change in a request: its SCHED flag and its deadline (R99). -/
theorem State.issueMiss_same (s : State) (x : Xact) (c l : Nat) : SameReq x (s.issueMiss x c l).2 :=
  ⟨⟨rfl, rfl, rfl, rfl, rfl, rfl, rfl, rfl, rfl, rfl, rfl, rfl, rfl, rfl⟩, rfl⟩

theorem State.schedJudge_same (s : State) (x : Xact) (w : Bool) : SameReq x (s.schedJudge x w).2 := by
  unfold State.schedJudge
  dsimp only
  repeat' split
  all_goals exact ⟨⟨rfl, rfl, rfl, rfl, rfl, rfl, rfl, rfl, rfl, rfl, rfl, rfl, rfl, rfl⟩, rfl⟩

theorem State.stallMiss_same (s : State) (x : Xact) (c : Nat) : SameReq x (s.stallMiss x c).2 := by
  unfold State.stallMiss
  split
  · exact s.issueMiss_same x c 0
  · exact SameReq.refl x

theorem State.schedIssue_same (s : State) (x : Xact) : SameReq x (s.schedIssue x).2 := by
  unfold State.schedIssue
  repeat' split
  all_goals first | exact SameReq.refl x | exact s.issueMiss_same x _ _

/-- A stalled request: where it stands, and that nothing else in flight changes. -/
theorem State.stallAt_flight (s : State) (x : Xact) (st : Stage) (b : Nat) :
    (s.stallAt x st b).flight = (s.setX { x with stage := st, unit := x.srcUnit, since := s.clk.now, by_ := b }).flight :=
  State.setX_flight _ (s.active_flight _)

/-- A request that, judged against the schedule, waits for no scoreboard entry and has room for its own (R219, R220). -/
def State.goesOn (s : State) (x : Xact) (w : Bool) : Bool :=
  let p := s.schedJudge (x.checked s.clk.now) w
  (p.1.sbWait p.2).isNone && !(p.1.sbNeeds p.2 && !p.1.sbRoom p.2.srcUnit false)

/-- A request taken through its issue checks stands where they put it, and nothing else in flight changes. -/
theorem State.issue_spec (s : State) (x : Xact) (w : Bool) (hx : x.half = .request) :
    ∃ y, (s.issue x w).flight = (s.setX y).flight ∧ SameAccess x y ∧ y.judged ∧
      (s.goesOn x w = true → y.stage ≠ .scoreboard) ∧
      ((s.schedJudge (x.checked s.clk.now) w).1.ringWait (s.schedJudge (x.checked s.clk.now) w).2 = none → y.stage ≠ .ringStall) := by
  unfold State.issue State.goesOn
  split
  · rename_i c _
    exact ⟨_, State.setX_flight _ (s.refused_flight c x.srcUnit x), ⟨rfl, rfl, rfl, rfl, rfl, rfl, rfl, rfl, rfl, rfl, rfl, rfl, rfl, rfl⟩,
      .inr ⟨rfl, rfl, _, rfl⟩, fun _ => by simp, fun _ => by simp⟩
  · dsimp only
    have hq := (x.checked_same s.clk.now).trans (s.schedJudge_same (x.checked s.clk.now) w)
    have hf := s.schedJudge_flight (x.checked s.clk.now) w
    generalize s.schedJudge (x.checked s.clk.now) w = p at hq hf ⊢
    split
    · have hm := hq.trans (p.1.stallMiss_same p.2 3)
      refine ⟨_, (State.stallAt_flight _ _ _ _).trans (State.setX_flight _ ((p.1.stallMiss_flight p.2 3).trans hf)), ?_, .inl ⟨?_, .inl rfl⟩,
        fun _ => by simp, fun _ => by simp⟩
      · exact hm.1.trans ⟨rfl, rfl, rfl, rfl, rfl, rfl, rfl, rfl, rfl, rfl, rfl, rfl, rfl, rfl⟩
      · exact hm.2.trans hx
    · have hm := hq.trans (p.1.stallMiss_same p.2 2)
      split
      · rename_i e hblk
        refine ⟨_, (State.stallAt_flight _ _ _ _).trans (State.setX_flight _ ((p.1.stallMiss_flight p.2 2).trans hf)), ?_, .inl ⟨?_, .inr (.inl rfl)⟩,
          fun h => by rw [hblk] at h; simp at h, fun _ => by simp⟩
        · exact hm.1.trans ⟨rfl, rfl, rfl, rfl, rfl, rfl, rfl, rfl, rfl, rfl, rfl, rfl, rfl, rfl⟩
        · exact hm.2.trans hx
      · split
        · rename_i v hring
          refine ⟨_, (State.stallAt_flight _ _ _ _).trans (State.setX_flight _ hf), ?_, .inl ⟨?_, .inr (.inr (.inl rfl))⟩,
            fun _ => by simp, fun h => ?_⟩
          · exact hq.1.trans ⟨rfl, rfl, rfl, rfl, rfl, rfl, rfl, rfl, rfl, rfl, rfl, rfl, rfl, rfl⟩
          · exact hq.2.trans hx
          · split at hring
            · rw [h] at hring; cases hring
            · cases hring
        · split
          · rename_i hroom
            refine ⟨_, (State.stallAt_flight _ _ _ _).trans (State.setX_flight _ ((p.1.stallMiss_flight p.2 2).trans hf)), ?_, .inl ⟨?_, .inr (.inl rfl)⟩,
              fun h => ?_, fun _ => by simp⟩
            · exact hm.1.trans ⟨rfl, rfl, rfl, rfl, rfl, rfl, rfl, rfl, rfl, rfl, rfl, rfl, rfl, rfl⟩
            · exact hm.2.trans hx
            · rw [Bool.and_eq_true] at h; rw [hroom] at h; simp at h
          · have h1 := hq.trans (State.schedIssue_same (p.1.sbPort p.2) p.2)
            have hf := ((State.schedIssue_flight (p.1.sbPort p.2) p.2).trans (p.1.sbPort_flight p.2)).trans hf
            generalize State.schedIssue _ p.2 = q at h1 hf
            unfold State.present
            dsimp only
            have hg : ∀ h, ((q.1.wakeHive h).countReq q.2).flight = s.flight := fun h => (State.countReq_flight _ _).trans ((State.wakeHive_flight _ _).trans hf)
            have h2 := fun n => h1.trans (q.2.stamped_same n)
            split
            · exact ⟨_, State.setX_flight _ (hg _), (h2 _).1.trans ⟨rfl, rfl, rfl, rfl, rfl, rfl, rfl, rfl, rfl, rfl, rfl, rfl, rfl, rfl⟩,
                .inl ⟨(h2 _).2.trans hx, .inr (.inr (.inr (.inl rfl)))⟩, fun _ => by simp, fun _ => by simp⟩
            · exact ⟨_, State.setX_flight _ (hg _), (h2 _).1.trans ⟨rfl, rfl, rfl, rfl, rfl, rfl, rfl, rfl, rfl, rfl, rfl, rfl, rfl, rfl⟩,
                .inl ⟨(h2 _).2.trans hx, .inr (.inr (.inr (.inr rfl)))⟩, fun _ => by simp, fun _ => by simp⟩

theorem State.issue_judged (s : State) (x : Xact) (w : Bool) (hx : x.half = .request) :
    ∃ y, (s.issue x w).flight = (s.setX y).flight ∧ SameAccess x y ∧ y.judged := by
  obtain ⟨y, h1, h2, h3, _⟩ := s.issue_spec x w hx
  exact ⟨y, h1, h2, h3⟩

theorem State.xact_flight {s t : State} (h : t.flight = s.flight) (n : Nat) : t.xact n = s.xact n := by unfold State.xact; rw [h]

/-- One request's issue checks: the request judged, every other transaction as it was. -/
theorem State.issueOne (s : State) (a : Nat) (w : Bool) (hr : ∀ x, s.xact a = some x → x.half = .request) :
    ∃ u, (match s.xact a with
      | some x => s.issue x w
      | none => s) = u ∧ (∀ n, n ≠ a → u.xact n = s.xact n) ∧ (∀ x, s.xact a = some x → ∃ y, u.xact a = some y ∧ SameAccess x y ∧ y.judged) := by
  cases hx : s.xact a with
  | none => exact ⟨s, rfl, fun _ _ => rfl, fun x h => by cases h⟩
  | some x =>
    obtain ⟨y, h1, h2, h3⟩ := s.issue_judged x w (hr x hx)
    refine ⟨_, rfl, fun n hn => ?_, fun z hz => ?_⟩
    · rw [State.xact_flight h1]
      exact State.xact_setX_other (by rw [h2.id, State.xact_id hx]; exact fun e => hn e.symm)
    · cases hz
      rw [State.xact_flight h1]
      exact ⟨y, State.xact_setX_same hx (by rw [h2.id, State.xact_id hx]), h2, h3⟩

/-- The issue checks of several requests: each judged, every other transaction as it was. -/
theorem State.issueAll_judged (ids : List Nat) (w : Bool) (hd : ids.Nodup) (s : State)
    (hr : ∀ n ∈ ids, ∀ x, s.xact n = some x → x.half = .request) :
    (∀ n, n ∉ ids → (s.issueAll ids w).xact n = s.xact n) ∧
    (∀ n ∈ ids, ∀ x, s.xact n = some x → ∃ y, (s.issueAll ids w).xact n = some y ∧ SameAccess x y ∧ y.judged) := by
  induction ids generalizing s with
  | nil => exact ⟨fun _ _ => rfl, fun n h => by cases h⟩
  | cons a ids ih =>
    obtain ⟨ha, hd⟩ := List.nodup_cons.mp hd
    obtain ⟨u, hu, h1, h2⟩ := s.issueOne a w (hr a (by simp))
    have he : s.issueAll (a :: ids) w = u.issueAll ids w := by rw [← hu]; rfl
    have hne : ∀ n ∈ ids, n ≠ a := fun n hn e => ha (e ▸ hn)
    obtain ⟨i1, i2⟩ := ih hd u (fun n hn x hx => hr n (by simp [hn]) x (by rw [← h1 n (hne n hn)]; exact hx))
    rw [he]
    refine ⟨fun n hn => ?_, fun n hn x hx => ?_⟩
    · simp only [List.mem_cons, not_or] at hn
      rw [i1 n hn.2, h1 n hn.1]
    · rcases List.mem_cons.mp hn with rfl | hn
      · rw [i1 n ha]; exact h2 x hx
      · exact i2 n hn x (by rw [h1 n (hne n hn)]; exact hx)

/-- The add that a command of the block makes to the cell it names enters flight under the next number: at its own array, over the mesh, or over
its edge link (R79, R119, R228). -/
theorem State.addCell_spec (s : State) (cell : Nat) (p : Party) {g w : Nat} (hs : ∀ x ∈ s.flight, x.id < s.nextId)
    (hl : s.locate cell = .sync g w) (hc : cell ≠ 0) :
    ∃ z, (s.addCell cell p).xact s.nextId = some z ∧ z.purpose = .cellAdd ∧ z.kind = .atomic ∧ z.code = 2 ∧ z.ga = BitVec.ofNat 48 cell ∧ z.data = 1 ∧
      z.by_ = p.packed ∧ (z.stage = .arbiter ∨ z.stage = .meshIf ∨ z.stage = .link) := by
  have key : ∀ (x : Xact) (own : Bool) (a b : Nat), x.id = s.nextId → x.seq = s.nextId →
      (x.purpose = .cellAdd ∧ x.kind = .atomic ∧ x.code = 2 ∧ x.ga = BitVec.ofNat 48 cell ∧ x.data = 1 ∧ x.by_ = p.packed) →
      ∃ z, (if p.unit < 256 then (if own = true then ((s.addX x).wakeHive p.unit).setX { x with stage := .arbiter, expired := some a, ready := b }
          else (s.addX x).present x) else (s.addX x).fromEdge x).xact s.nextId = some z ∧
        z.purpose = .cellAdd ∧ z.kind = .atomic ∧ z.code = 2 ∧ z.ga = BitVec.ofNat 48 cell ∧ z.data = 1 ∧ z.by_ = p.packed ∧
        (z.stage = .arbiter ∨ z.stage = .meshIf ∨ z.stage = .link) := by
    intro x own a b e2 e0 ⟨f1, f2, f3, f4, f5, f6⟩
    have e1 : (s.addX x).xact s.nextId = some x := by
      have e : ({ x with id := s.nextId, seq := s.nextId } : Xact) = x := by cases x; simp only at e2 e0; rw [e2, e0]
      have := State.xact_addX_same x hs
      rwa [e] at this
    split
    · split
      · refine ⟨_, State.xact_setX_same (y := x) ?_ e2, f1, f2, f3, f4, f5, f6, .inl rfl⟩
        rw [State.xact_flight (State.wakeHive_flight _ _)]; exact e1
      · unfold State.present
        dsimp only
        have e4 : ∀ n, (x.stamped n).id = x.id ∧ (x.stamped n).purpose = x.purpose ∧ (x.stamped n).kind = x.kind ∧ (x.stamped n).code = x.code ∧
            (x.stamped n).ga = x.ga ∧ (x.stamped n).data = x.data ∧ (x.stamped n).by_ = x.by_ := by
          intro n; unfold Xact.stamped; split <;> exact ⟨rfl, rfl, rfl, rfl, rfl, rfl, rfl⟩
        have e5 : ∀ n, (((s.addX x).wakeHive n).countReq x).xact s.nextId = some x := by
          intro n; rw [State.xact_flight ((State.countReq_flight _ _).trans (State.wakeHive_flight _ _))]; exact e1
        split
        · exact ⟨_, State.xact_setX_same (y := x) (e5 _) ((e4 _).1.trans e2), (e4 _).2.1.trans f1, (e4 _).2.2.1.trans f2, (e4 _).2.2.2.1.trans f3,
            (e4 _).2.2.2.2.1.trans f4, (e4 _).2.2.2.2.2.1.trans f5, (e4 _).2.2.2.2.2.2.trans f6, by simp⟩
        · exact ⟨_, State.xact_setX_same (y := x) (e5 _) ((e4 _).1.trans e2), (e4 _).2.1.trans f1, (e4 _).2.2.1.trans f2, (e4 _).2.2.2.1.trans f3,
            (e4 _).2.2.2.2.1.trans f4, (e4 _).2.2.2.2.2.1.trans f5, (e4 _).2.2.2.2.2.2.trans f6, by simp⟩
    · unfold State.fromEdge
      exact ⟨_, State.xact_setX_same (y := x) e1 e2, f1, f2, f3, f4, f5, f6, .inr (.inr rfl)⟩
  unfold State.addCell
  rw [hl]
  dsimp only
  rw [if_neg hc]
  unfold State.postCell
  dsimp only
  exact key _ _ _ _ rfl rfl ⟨rfl, rfl, rfl, rfl, rfl, rfl⟩

end Sys2Proof.Machine
end

