-- ==== Sys2Proof/Laws/Bits.lean ====
section
/-!
SUPPORT. Bits.lean: what a field of a number reads after a field has been replaced.
-/
set_option Elab.async false
namespace Sys2Proof.Machine

/-- A number with a field replaced, by its parts above, in and below the field. -/
theorem setFld_eq (x hi lo v : Nat) (h : lo ≤ hi + 1) :
    setFld x hi lo v = x / 2^(hi + 1) * 2^(hi + 1) + (v % 2^(hi + 1 - lo) * 2^lo + x % 2^lo) := by
  have hp : 2^(hi + 1) = 2^lo * 2^(hi + 1 - lo) := by rw [← Nat.pow_add]; congr 1; omega
  have h1 : x / 2^(hi + 1) = x / 2^lo / 2^(hi + 1 - lo) := by rw [hp, Nat.div_div_eq_div_mul]
  unfold setFld fld
  rw [h1, hp]
  generalize 2^lo = a
  generalize 2^(hi + 1 - lo) = b
  have e1 := Nat.div_add_mod x a
  have e2 := Nat.div_add_mod (x / a) b
  generalize x / a % b = f at *
  generalize x / a / b = q at *
  generalize x % a = r at *
  generalize v % b = w
  have e3 : x = q * (a * b) + f * a + r := by
    rw [← e1, ← e2, Nat.mul_add]
    have : a * (b * q) = q * (a * b) := by rw [Nat.mul_comm q, Nat.mul_assoc]
    rw [this, Nat.mul_comm a f]
  rw [e3]
  omega

theorem setFld_low (hi lo x v : Nat) (h : lo ≤ hi + 1) : v % 2^(hi + 1 - lo) * 2^lo + x % 2^lo < 2^(hi + 1) := by
  have hp : 2^(hi + 1) = 2^(hi + 1 - lo) * 2^lo := by rw [← Nat.pow_add]; congr 1; omega
  rw [hp]
  have h1 : v % 2^(hi + 1 - lo) < 2^(hi + 1 - lo) := Nat.mod_lt _ (Nat.two_pow_pos _)
  have h2 : x % 2^lo < 2^lo := Nat.mod_lt _ (Nat.two_pow_pos _)
  have h3 := Nat.mul_le_mul_right (2^lo) (Nat.succ_le_of_lt h1)
  rw [Nat.succ_mul] at h3
  omega

/-- The field replaced reads the new value. -/
theorem fld_setFld_same (x hi lo v : Nat) (h : lo ≤ hi + 1) : fld (setFld x hi lo v) hi lo = v % 2^(hi + 1 - lo) := by
  have hp : 2^(hi + 1) = 2^(hi + 1 - lo) * 2^lo := by rw [← Nat.pow_add]; congr 1; omega
  unfold fld
  rw [setFld_eq x hi lo v h, hp, ← Nat.mul_assoc, ← Nat.add_assoc, ← Nat.add_mul, Nat.add_comm (_ * 2^lo), Nat.add_mul_div_right _ _ (Nat.two_pow_pos _),
    Nat.div_eq_of_lt (Nat.mod_lt _ (Nat.two_pow_pos _)), Nat.zero_add, Nat.mul_add_mod_self_right, Nat.mod_mod]

/-- A field above the one replaced reads as before. -/
theorem fld_setFld_above (x hi lo v a b : Nat) (h : lo ≤ hi + 1) (hb : hi < b) : fld (setFld x hi lo v) a b = fld x a b := by
  unfold fld
  have hp : 2^b = 2^(hi + 1) * 2^(b - (hi + 1)) := by rw [← Nat.pow_add]; congr 1; omega
  rw [setFld_eq x hi lo v h, hp, ← Nat.div_div_eq_div_mul, ← Nat.div_div_eq_div_mul, Nat.add_comm, Nat.add_mul_div_right _ _ (Nat.two_pow_pos _),
    Nat.div_eq_of_lt (setFld_low hi lo x v h), Nat.zero_add]

/-- A field below the one replaced reads as before. -/
theorem fld_setFld_below (x hi lo v a b : Nat) (h : lo ≤ hi + 1) (ha : a < lo) (hb : b ≤ a + 1) : fld (setFld x hi lo v) a b = fld x a b := by
  have key : ∀ y : Nat, fld y a b = y % 2^(a + 1) / 2^b := by
    intro y
    unfold fld
    have hp : 2^(a + 1) = 2^b * 2^(a + 1 - b) := by rw [← Nat.pow_add]; congr 1; omega
    rw [hp, Nat.mod_mul_right_div_self]
  rw [key, key]
  congr 1
  have hp : 2^lo = 2^(a + 1) * 2^(lo - (a + 1)) := by rw [← Nat.pow_add]; congr 1; omega
  have hq : 2^(hi + 1) = 2^(a + 1) * 2^(hi + 1 - (a + 1)) := by rw [← Nat.pow_add]; congr 1; omega
  rw [setFld_eq x hi lo v h, hq, hp]
  rw [Nat.mul_left_comm, Nat.mul_add_mod, Nat.mul_left_comm, Nat.mul_add_mod, Nat.mod_mul_right_mod]

/-- Replacing a field keeps a number within its width. -/
theorem setFld_lt (x hi lo v n : Nat) (h : lo ≤ hi + 1) (hx : x < 2^n) (hn : hi < n) : setFld x hi lo v < 2^n := by
  rw [setFld_eq x hi lo v h]
  have hp : 2^n = 2^(n - (hi + 1)) * 2^(hi + 1) := by rw [← Nat.pow_add]; congr 1; omega
  have h1 : x / 2^(hi + 1) < 2^(n - (hi + 1)) := by
    rw [Nat.div_lt_iff_lt_mul (Nat.two_pow_pos _), ← hp]; exact hx
  have h2 := setFld_low hi lo x v h
  have h3 := Nat.mul_le_mul_right (2^(hi + 1)) (Nat.succ_le_of_lt h1)
  rw [Nat.succ_mul, ← hp] at h3
  omega

end Sys2Proof.Machine
end

