-- ==== Sys2Proof/Laws/Faulted.lean ====
section
/-!
SUPPORT. Faulted.lean: everything that a fault of an access changes: what reporting changes, the fault register, the event lines and the counters.
-/
set_option Elab.async false
namespace Sys2Proof.Machine

/-- What a fault may change: what reporting changes, fault registers, event lines and counters. -/
structure Faulted (s t : State) : Prop where
  all   : t = { s with err := t.err, mgmt := t.mgmt, trace := t.trace, hives := t.hives, count := t.count }
  mgmt  : t.mgmt = { s.mgmt with subs := t.mgmt.subs, irqPend := t.mgmt.irqPend, vals := t.mgmt.vals }
  pv    : ∀ p i, p ≠ 0x6010 → i < 2^24 → t.pv p i = s.pv p i
  err   : t.err = { s.err with table := t.err.table, head := t.err.head, lost := t.err.lost }
  hives : t.hives = { s.hives with faultReg := t.hives.faultReg, events := t.hives.events }

theorem Reported.faulted {s t : State} (h : Reported s t) : Faulted s t :=
  ⟨by rw [h.all], h.mgmt, h.pv, h.err, by rw [h.all]⟩

theorem Faulted.refl (s : State) : Faulted s s := (Reported.refl s).faulted

theorem Faulted.trans {a b c : State} (h : Faulted a b) (k : Faulted b c) : Faulted a c := by
  refine ⟨?_, ?_, fun p i hp hi => (k.pv p i hp hi).trans (h.pv p i hp hi), ?_, ?_⟩
  · rw [k.all, h.all]
  · rw [k.mgmt, h.mgmt]
  · rw [k.err, h.err]
  · rw [k.hives, h.hives]

theorem State.setCounter_faulted (s : State) (p i n : Nat) : Faulted s (s.setCounter p i n) := ⟨rfl, rfl, fun _ _ _ _ => rfl, rfl, rfl⟩

theorem State.cadd_faulted (s : State) (p i n : Nat) : Faulted s (s.cadd p i n) := by
  unfold State.cadd
  split
  · exact s.setCounter_faulted _ _ _
  · exact Faulted.refl s

theorem State.ctxAdd_faulted (s : State) (h c k n : Nat) : Faulted s (s.ctxAdd h c k n) := s.cadd_faulted _ _ _

theorem State.pulse_faulted (s : State) (h c : Nat) : Faulted s (s.pulse h c) := by
  unfold State.pulse
  split
  · exact ⟨rfl, rfl, fun _ _ _ _ => rfl, rfl, rfl⟩
  · exact Faulted.refl s

theorem State.faultReg_faulted (s : State) (r : Tbl Rec) : Faulted s { s with hives := { s.hives with faultReg := r } } :=
  ⟨rfl, rfl, fun _ _ _ _ => rfl, rfl, rfl⟩

/-- A fault record: its register, the last events, the chip error table. -/
theorem State.faultAt_faulted (s : State) (u : Nat) (r : Rec) (ids : Nat × Nat) : Faulted s (s.faultAt u r ids) :=
  (s.faultReg_faulted _).trans (((State.last64_reported _ u r).trans (State.tableAdd_reported _ r ids)).faulted)

/-- A fault of an access is recorded and signalled, and nothing else changes. -/
theorem State.faultAccess_faulted (s : State) (u h c : Nat) (r : Rec) (ids : Nat × Nat) : Faulted s (s.faultAccess u h c r ids) :=
  ((s.faultAt_faulted u r ids).trans (State.ctxAdd_faulted _ h c 11 1)).trans (State.pulse_faulted _ h c)

theorem State.handleFault_faulted (s : State) (f : HFault) (w : FaultSite) : Faulted s (s.handleFault f w) := s.faultAccess_faulted _ _ _ _ _

theorem State.refused_faulted (s : State) (code unit : Nat) (x : Xact) : Faulted s (s.refused code unit x) := by
  unfold State.refused
  dsimp only
  have h1 : ∀ r : Rec, Faulted s (if x.core.1 < 256 then s.faultAccess unit x.core.1 x.core.2 r else s.faultAt unit r) := by
    intro r
    split
    · exact s.faultAccess_faulted _ _ _ _ _
    · exact s.faultAt_faulted _ _ _
  split
  · exact ((h1 _).trans (State.faultReg_faulted _ _)).trans (State.last64_reported _ _ _).faulted
  · exact h1 _

theorem State.countReq_faulted (s : State) (x : Xact) : Faulted s (s.countReq x) := by
  have h := fun (u : State) (a b c d : Nat) => u.ctxAdd_faulted a b c d
  unfold State.countReq
  dsimp only
  split
  · generalize hu : (if isWr x.kind = true then s.ctxAdd x.srcUnit x.ctx 1 x.bytes else s.ctxAdd x.srcUnit x.ctx 0 x.bytes) = u
    have hs : Faulted s u := by
      rw [← hu]; split <;> exact h _ _ _ _ _
    split
    · exact hs.trans (h _ _ _ _ _)
    · exact hs.trans (h _ _ _ _ _)
    · exact hs
  · exact Faulted.refl s

theorem Faulted.pend {s t : State} (h : Faulted s t) : t.pending = s.pending := by rw [h.all]
theorem Faulted.sched {s t : State} (h : Faulted s t) : t.sched = s.sched := by rw [h.all]
theorem Faulted.clk {s t : State} (h : Faulted s t) : t.clk = s.clk := by rw [h.all]
theorem Faulted.flight {s t : State} (h : Faulted s t) : t.flight = s.flight := by rw [h.all]
theorem Faulted.nextId {s t : State} (h : Faulted s t) : t.nextId = s.nextId := by rw [h.all]
theorem Faulted.mem {s t : State} (h : Faulted s t) : t.mem = s.mem := by rw [h.all]
theorem Faulted.power {s t : State} (h : Faulted s t) : t.power = s.power := by rw [h.all]
theorem Faulted.tiers {s t : State} (h : Faulted s t) : t.tiers = s.tiers := by rw [h.all]
theorem Faulted.mirror {s t : State} (h : Faulted s t) : t.mirror = s.mirror := by rw [h.all]
theorem Faulted.fxps {s t : State} (h : Faulted s t) : t.fxps = s.fxps := by rw [h.all]
theorem Faulted.quench {s t : State} (h : Faulted s t) : t.quench = s.quench := by rw [h.all]
theorem Faulted.journal {s t : State} (h : Faulted s t) : t.journal = s.journal := by rw [h.all]
theorem Faulted.wins {s t : State} (h : Faulted s t) : t.wins = s.wins := by rw [h.all]
theorem Faulted.chans {s t : State} (h : Faulted s t) : t.chans = s.chans := by rw [h.all]
theorem Faulted.jobs {s t : State} (h : Faulted s t) : t.jobs = s.jobs := by rw [h.all]
theorem Faulted.rings {s t : State} (h : Faulted s t) : t.hives.rings = s.hives.rings := by rw [h.hives]
theorem Faulted.pages {s t : State} (h : Faulted s t) : t.hives.pages = s.hives.pages := by rw [h.hives]

/-- A fault leaves the shadowed parameters in force as they were. -/
theorem Faulted.act {s t : State} (h : Faulted s t) (p i : Nat) : t.act p i = s.act p i := by
  unfold State.act
  rw [h.mgmt]

theorem Faulted.shd {s t : State} (h : Faulted s t) (p i : Nat) : t.shd p i = s.shd p i := by
  unfold State.shd
  rw [h.mgmt]

theorem Faulted.chipId {s t : State} (h : Faulted s t) : t.chipId = s.chipId := h.pv 0x1010 0 (by decide) (by decide)

theorem Faulted.determ {s t : State} (h : Faulted s t) : t.determ = s.determ := by
  unfold State.determ
  rw [h.act]

end Sys2Proof.Machine
end

