-- ==== Sys2Proof/Laws/Grant.lean ====
section
/-!
SUPPORT. Grant.lean: the order of R66 as an order, and what a granted access of a Hive row leaves of the rows.
-/
set_option Elab.async false
namespace Sys2Proof.Machine

theorem lexLt_irrefl : ∀ a : List Nat, lexLt a a = false
  | [] => rfl
  | a :: as => by simp [lexLt, lexLt_irrefl as]

theorem lexLt_trans : ∀ {a b c : List Nat}, lexLt a b = true → lexLt b c = true → lexLt a c = true
  | [], [], _, h, _ => by simp [lexLt] at h
  | [], _ :: _, [], _, h => by simp [lexLt] at h
  | [], _ :: _, _ :: _, _, _ => rfl
  | _ :: _, [], _, h, _ => by simp [lexLt] at h
  | _ :: _, _ :: _, [], _, h => by simp [lexLt] at h
  | a :: as, b :: bs, c :: cs, h, k => by
    simp only [lexLt] at *
    split at h
    · split at k
      · rw [if_pos (by omega)]
      · split at k
        · cases k
        · rw [if_pos (by omega)]
    · split at h
      · cases h
      · split at k
        · rw [if_pos (by omega)]
        · split at k
          · cases k
          · rw [if_neg (by omega), if_neg (by omega)]
            exact lexLt_trans h k

/-- The first of a list under a key: a member that none of the list comes before. -/
theorem firstBy_spec (key : Xact → List Nat) (xs : List Xact) :
    match firstBy key xs with
    | some x => x ∈ xs ∧ ∀ y ∈ xs, lexLt (key y) (key x) = false
    | none => xs = [] := by
  have go : ∀ (l : List Xact) (x : Xact) (done : List Xact), x ∈ done → (∀ y ∈ done, lexLt (key y) (key x) = false) →
      ∃ z, l.foldl (fun a x => match a with
        | none => some x
        | some y => if lexLt (key x) (key y) then some x else some y) (some x) = some z ∧ z ∈ done ++ l ∧
        ∀ y ∈ done ++ l, lexLt (key y) (key z) = false := by
    intro l
    induction l with
    | nil => intro x done h1 h2; exact ⟨x, rfl, by simpa using h1, by simpa using h2⟩
    | cons w l ih =>
      intro x done h1 h2
      rw [List.foldl_cons]
      dsimp only
      by_cases hw : lexLt (key w) (key x) = true
      · rw [if_pos hw]
        obtain ⟨z, z1, z2, z3⟩ := ih w (done ++ [w]) (by simp) (by
          intro y hy
          rcases List.mem_append.mp hy with hy | hy
          · cases h : lexLt (key y) (key w) with
            | false => rfl
            | true => rw [← h2 y hy]; exact (lexLt_trans h hw).symm
          · simp only [List.mem_singleton] at hy; rw [hy]; exact lexLt_irrefl _)
        exact ⟨z, z1, by simpa using z2, by simpa using z3⟩
      · rw [if_neg hw]
        obtain ⟨z, z1, z2, z3⟩ := ih x (done ++ [w]) (by simp [h1]) (by
          intro y hy
          rcases List.mem_append.mp hy with hy | hy
          · exact h2 y hy
          · simp only [List.mem_singleton] at hy; rw [hy]; simpa using hw)
        exact ⟨z, z1, by simpa using z2, by simpa using z3⟩
  cases xs with
  | nil => rfl
  | cons x xs =>
    obtain ⟨z, z1, z2, z3⟩ := go xs x [x] (by simp) (by intro y hy; simp only [List.mem_singleton] at hy; rw [hy]; exact lexLt_irrefl _)
    have e : firstBy key (x :: xs) = some z := z1
    rw [e]
    exact ⟨z2, z3⟩

/-- An access of a Hive row whose cells agree leaves every row but its own, and that one as the access found or wrote it. -/
theorem State.rowAccess_rows (s : State) (x : Xact) (loc : Loc) (kind h bank row : Nat)
    (hc : (s.rowAt (s.rowPlace kind h bank row)).split = false) :
    let o := bankAccess (s.rowAt (s.rowPlace kind h bank row)) (s.rowPz kind h bank row) x.kind x.code.toNat x.mask x.data (x.ga.toNat % 64)
    (s.rowAccess x loc kind h bank row).2 = o ∧
    (s.rowAccess x loc kind h bank row).1.mem =
      if o.wrote then { s.mem with rows := Tbl.set s.mem.rows {} (s.rowPlace kind h bank row) o.row } else s.mem := by
  have hf : s.fixCells (s.rowPlace kind h bank row) x loc kind h (s.spareFor kind h bank row).isSome = s := by
    unfold State.fixCells
    dsimp only
    rw [hc]
    rfl
  unfold State.rowAccess
  dsimp only
  rw [hf]
  generalize bankAccess (s.rowAt (s.rowPlace kind h bank row)) (s.rowPz kind h bank row) x.kind x.code.toNat x.mask x.data (x.ga.toNat % 64) = o
  have h1 : (s.found x loc kind h o.bad (s.spareFor kind h bank row).isSome o.gmask o.synd).mem = s.mem :=
    Keeps.same_mem (pm := { cmdParts.all with mem := false }) (by apply @State.found_keeps <;> first | exact Keeps.refl _ _ | rfl) rfl
  generalize s.found x loc kind h o.bad (s.spareFor kind h bank row).isSome o.gmask o.synd = u at h1
  have h2 : (if kind = 0 then u.pev 0 o.cyc else u.pev 2 o.cyc).mem = s.mem := by split <;> exact h1
  generalize (if kind = 0 then u.pev 0 o.cyc else u.pev 2 o.cyc) = v at h2
  have h3 : (if x.kind = .acc ∨ x.kind = .atomic then v.pev 1 1 else v).mem = s.mem := by split <;> exact h2
  generalize (if x.kind = .acc ∨ x.kind = .atomic then v.pev 1 1 else v) = w at h3
  split
  · refine ⟨rfl, ?_⟩
    dsimp only
    have h4 : ∀ z : State, (if o.whole = true then z.clearPz kind h bank row else z).mem = z.mem := by
      intro z
      split
      · exact Keeps.same_mem (pm := { cmdParts.all with mem := false }) (by apply @State.clearPz_keeps <;> first | exact Keeps.refl _ _ | rfl) rfl
      · rfl
    rw [h4]
    unfold State.rowTouched State.setRow
    dsimp only
    rw [h3]
  · refine ⟨rfl, ?_⟩
    have h4 : (w.moveRead x h (loc.local / 64)).mem = w.mem := by unfold State.moveRead; split <;> rfl
    exact h4.trans h3

/-- A copy for the partner goes out at once or stands behind every transaction in flight. -/
theorem State.putCopy_flight (s : State) (z : Xact) : ∃ l, (s.putCopy z).flight = s.flight ++ l := by
  unfold State.putCopy
  split
  · refine ⟨[], ?_⟩
    have h : ∀ z, (s.sendCopy z).flight = s.flight := fun z => Keeps.sameFlight (by apply @State.sendCopy_keeps <;> first | exact Keeps.refl _ _ | rfl)
    rw [h]; simp
  · exact ⟨_, rfl⟩

theorem State.seedAnew_flight (s : State) (i : Nat) (x : Tbl MProg) (y : List (Nat × MWait)) (q : Quad) (r : RecF) :  (State.raise { s.setRegion i q with mirror := { (s.setRegion i q).mirror with prog := x, waits := y }} r).flight = s.flight  := by
  rw [(State.raise_reported _ _).flight]; rfl

theorem State.forward_flight (s : State) (u : Nat) (x : Xact) (kind : AccKind) (mask : Dword) (line : Line) :
    ∃ l, (s.forward u x kind mask line).flight = s.flight ++ l := by
  unfold State.forward
  split
  · exact ⟨[], by simp⟩
  · dsimp only
    split
    · exact ⟨[], by simp⟩
    · split
      · exact ⟨[], by rw [State.seedAnew_flight, List.append_nil]⟩
      · exact State.putCopy_flight _ _

theorem State.forwardRow_flight (s : State) (x : Xact) (v : Bool) (o : BankOut) : ∃ l, (s.forwardRow x v o).flight = s.flight ++ l := by
  unfold State.forwardRow
  repeat' split
  all_goals first | exact s.forward_flight _ _ _ _ _ | exact ⟨[], by simp⟩

/-- A transaction is still in flight. -/
theorem State.xact_grow {s t : State} {l : List Xact} (h : t.flight = s.flight ++ l) {n : Nat} {x : Xact} (hx : s.xact n = some x) : t.xact n = some x := by
  unfold State.xact at *
  rw [h, List.find?_append, hx]
  rfl

theorem State.xact_map {s t : State} {f : Xact → Xact} (h : t.flight = s.flight.map f) (hf : ∀ x, (f x).id = x.id) {n : Nat} {x : Xact}
    (hx : s.xact n = some x) : t.xact n = some (f x) := by
  unfold State.xact at *
  rw [h, List.find?_map]
  have : ((fun x => decide (x.id = n)) ∘ f) = fun x => decide (x.id = n) := by funext y; simp [hf]
  rw [this, hx]
  rfl

theorem State.burstBeat_xact (s : State) (x : Xact) {n : Nat} {y : Xact} (h : s.xact n = some y) : ∃ z, (s.burstBeat x).xact n = some z := by
  unfold State.burstBeat
  split
  · exact ⟨y, h⟩
  · split
    · exact ⟨y, h⟩
    · exact ⟨_, State.xact_map (s := s) rfl (fun z => by split <;> (try split) <;> rfl) h⟩

/-- What a granted access of a row leaves: its row, its arbiter and its answer (R33, R66). -/
theorem State.grantRow_spec (s : State) (x : Xact) (k h b r : Nat) (hx : s.xact x.id = some x)
    (hc : (s.rowAt (s.rowPlace k h b r)).split = false) :
    let p := s.rowPlace k h b r
    let o := bankAccess (s.rowAt p) (s.rowPz k h b r) x.kind x.code.toNat x.mask x.data (x.ga.toNat % 64)
    ∃ u y z w, s.grantRow x k h b r = State.answer u z h w ∧ u.xact x.id = some y ∧ SameAccess x z ∧ z.result = x.resultOf o.bad ∧
      z.data = (if !isWr x.kind || x.kind = .atomic then o.data else 0) ∧ u.freeAt x.loc.arb = s.clk.now + o.cyc ∧
      u.mem = if o.wrote then { s.mem with rows := Tbl.set s.mem.rows {} p o.row } else s.mem := by
  obtain ⟨h1, h2⟩ := s.rowAccess_rows x x.loc k h b r hc
  have h3 : (s.rowAccess x x.loc k h b r).1.flight = s.flight :=
    Keeps.sameFlight (by apply @State.rowAccess_keeps <;> first | exact Keeps.refl _ _ | rfl)
  have h4 : (s.rowAccess x x.loc k h b r).1.clk = s.clk :=
    Keeps.same_clk (pm := { cmdParts.all with clk := false }) (by apply @State.rowAccess_keeps <;> first | exact Keeps.refl _ _ | rfl) rfl
  unfold State.grantRow
  dsimp only at h1 h2 ⊢
  rw [h1]
  generalize (s.rowAccess x x.loc k h b r).1 = ra at h2 h3 h4
  generalize bankAccess (s.rowAt (s.rowPlace k h b r)) (s.rowPz k h b r) x.kind x.code.toNat x.mask x.data (x.ga.toNat % 64) = o at h2
  have hacc : ∀ a b c d, (ra.account a b c d).mem = ra.mem ∧ (ra.account a b c d).flight = ra.flight ∧ (ra.account a b c d).clk = ra.clk := by
    intro a b c d
    refine ⟨?_, ?_, ?_⟩
    · exact Keeps.same_mem (pm := { cmdParts.all with mem := false }) (by apply @State.account_keeps <;> first | exact Keeps.refl _ _ | rfl) rfl
    · exact Keeps.sameFlight (by apply @State.account_keeps <;> first | exact Keeps.refl _ _ | rfl)
    · exact Keeps.same_clk (pm := { cmdParts.all with clk := false }) (by apply @State.account_keeps <;> first | exact Keeps.refl _ _ | rfl) rfl
  have rest : ∀ (v : State) (be : Bool), v.mem = ra.mem → v.flight = ra.flight → v.clk = ra.clk →
      let u := ((((v.countGrant h x be).occupy x.loc.arb o.cyc).burstBeat x).forwardRow x (s.rowAt (s.rowPlace k h b r)).valid o)
      (∃ y, u.xact x.id = some y) ∧ u.freeAt x.loc.arb = s.clk.now + o.cyc ∧
      u.mem = if o.wrote then { s.mem with rows := Tbl.set s.mem.rows {} (s.rowPlace k h b r) o.row } else s.mem := by
    intro v be v1 v2 v3
    have hg : ∀ be, (v.countGrant h x be).mem = v.mem ∧ (v.countGrant h x be).flight = v.flight ∧ (v.countGrant h x be).clk = v.clk := by
      intro be
      refine ⟨?_, ?_, ?_⟩
      · exact Keeps.same_mem (pm := { cmdParts.all with mem := false }) (by apply @State.countGrant_keeps <;> first | exact Keeps.refl _ _ | rfl) rfl
      · exact Keeps.sameFlight (by apply @State.countGrant_keeps <;> first | exact Keeps.refl _ _ | rfl)
      · exact Keeps.same_clk (pm := { cmdParts.all with clk := false }) (by apply @State.countGrant_keeps <;> first | exact Keeps.refl _ _ | rfl) rfl
    obtain ⟨g1, g2, g3⟩ := hg be
    generalize v.countGrant h x be = g at g1 g2 g3
    have hxg : (g.occupy x.loc.arb o.cyc).xact x.id = some x := by
      have : (g.occupy x.loc.arb o.cyc).flight = s.flight := by show g.flight = _; rw [g2, v2, h3]
      rw [State.xact_flight this]; exact hx
    obtain ⟨y, hy⟩ := (g.occupy x.loc.arb o.cyc).burstBeat_xact x hxg
    have b1 : ((g.occupy x.loc.arb o.cyc).burstBeat x).mem = (g.occupy x.loc.arb o.cyc).mem :=
      Keeps.same_mem (pm := { cmdParts.all with mem := false }) (by apply @State.burstBeat_keeps <;> first | exact Keeps.refl _ _ | rfl) rfl
    have b2 : ((g.occupy x.loc.arb o.cyc).burstBeat x).hives = (g.occupy x.loc.arb o.cyc).hives :=
      Keeps.same_hives (pm := { cmdParts.all with hives := false }) (by apply @State.burstBeat_keeps <;> first | exact Keeps.refl _ _ | rfl) rfl
    generalize (g.occupy x.loc.arb o.cyc).burstBeat x = bb at hy b1 b2
    have f1 : ∀ w, (bb.forwardRow x w o).mem = bb.mem := fun w =>
      Keeps.same_mem (pm := { cmdParts.all with mem := false }) (by apply @State.forwardRow_keeps <;> first | exact Keeps.refl _ _ | rfl) rfl
    have f2 : ∀ w, (bb.forwardRow x w o).hives = bb.hives := fun w =>
      Keeps.same_hives (pm := { cmdParts.all with hives := false }) (by apply @State.forwardRow_keeps <;> first | exact Keeps.refl _ _ | rfl) rfl
    obtain ⟨l, hl⟩ := bb.forwardRow_flight x (s.rowAt (s.rowPlace k h b r)).valid o
    refine ⟨⟨y, State.xact_grow hl hy⟩, ?_, ?_⟩
    · unfold State.freeAt
      rw [f2, b2]
      unfold State.occupy
      simp only [Tbl.get_set_same]
      rw [g3, v3, h4]
    · rw [f1, b1]
      show g.mem = _
      rw [g1, v1, h2]
  generalize x.loc.resource = res
  cases res with
  | none =>
    obtain ⟨⟨y, r1⟩, r2, r3⟩ := rest ra false rfl rfl rfl
    exact ⟨_, y, _, _, rfl, r1, ⟨rfl, rfl, rfl, rfl, rfl, rfl, rfl, rfl, rfl, rfl, rfl, rfl, rfl, rfl⟩, rfl, rfl, r2, r3⟩
  | some q =>
    obtain ⟨a1, a2, a3⟩ := hacc q x.qos (64 * o.cyc) x.sched
    obtain ⟨⟨y, r1⟩, r2, r3⟩ := rest (ra.account q x.qos (64 * o.cyc) x.sched) (s.bestEffort q x.qos) a1 a2 a3
    exact ⟨_, y, _, _, rfl, r1, ⟨rfl, rfl, rfl, rfl, rfl, rfl, rfl, rfl, rfl, rfl, rfl, rfl, rfl, rfl⟩, rfl, rfl, r2, r3⟩

end Sys2Proof.Machine
end

