-- ==== Sys2Proof/Laws/KeepHive.lean ====
section
/-!
SUPPORT. KeepHive.lean: each operation of Machine/Hive.lean keeps: the invariant, the queue, and every part of the state that no hypothesis names.
-/
namespace Sys2Proof.Machine
set_option Elab.async false

theorem State.clearValid_keeps {pm : Parts} {st0 : State} {s : State} {h : Nat} {pick : Nat → Nat → Nat → Bool} (hk0 : Keeps pm st0 s) (p_flight :
    pm.flight = true := by assumption) (p_nextId : pm.nextId = true := by assumption) (p_sched : pm.sched = true := by assumption) (p_mem : pm.mem =
    true := by assumption) (p_fxps : pm.fxps = true := by assumption) (p_err : pm.err = true := by assumption) (p_mirror : pm.mirror = true := by
    assumption) (p_power : pm.power = true := by assumption) (p_trace : pm.trace = true := by assumption) (p_count : pm.count = true := by assumption)
    (p_mgmt : pm.mgmt = true := by assumption) : Keeps pm st0 (State.clearValid s h pick) := by
  unfold State.clearValid
  try dsimp only
  with_reducible repeat' (first | assumption | apply State.setRow_keeps | apply State.forward_keeps | apply Keeps.ite | apply Keeps.foldl
                                | refine Keeps.foldlP ?_ ?_ | (intro _ _ _; try dsimp only) | (split <;> try dsimp only))

theorem State.setOwner_keeps {pm : Parts} {st0 : State} {s : State} {h : Nat} {b : Nat} {o : Owner} (hk0 : Keeps pm st0 s) (p_hives : pm.hives = true
    := by assumption) : Keeps pm st0 (State.setOwner s h b o) := by
  unfold State.setOwner
  try dsimp only
  with_reducible repeat' (first | assumption | (refine Keeps.lit ?_ rfl; first | assumption) | (split <;> try dsimp only))

theorem execBankOwnerWrite_keeps {pm : Parts} {st0 : State} {p : RegPath} {c : CtxId} {h : HiveId} {b : BankId} {v : Byte} {s : State} (hk0 : Keeps pm
    st0 s) (p_hives : pm.hives = true := by assumption) : ∃ u0, execBankOwnerWrite p c h b v s = .next u0 ∧ Keeps pm st0 u0 := by
  unfold execBankOwnerWrite
  refine ⟨_, rfl, ?_⟩
  try dsimp only
  with_reducible repeat' (first | assumption | apply State.wakeHive_keeps | apply State.setOwner_keeps | apply State.cmd_keeps | apply Keeps.ite
                                | (intro _ _; try dsimp only) | (split <;> try dsimp only))

theorem State.reissueHeld_keeps {pm : Parts} {st0 : State} {s : State} {h : Nat} {b : Nat} (hk0 : Keeps pm st0 s) (p_flight : pm.flight = true := by
    assumption) (p_nextId : pm.nextId = true := by assumption) (p_sched : pm.sched = true := by assumption) (p_hives : pm.hives = true := by
    assumption) (p_wins : pm.wins = true := by assumption) (p_fxps : pm.fxps = true := by assumption) (p_err : pm.err = true := by assumption)
    (p_power : pm.power = true := by assumption) (p_trace : pm.trace = true := by assumption) (p_count : pm.count = true := by assumption) (p_mgmt :
    pm.mgmt = true := by assumption) : Keeps pm st0 (State.reissueHeld s h b) := by
  unfold State.reissueHeld
  try dsimp only
  with_reducible repeat' (first | assumption | apply State.reissue_keeps | apply State.sxpGo_keeps | apply Keeps.ite | apply Keeps.foldl
                                | refine Keeps.foldlP ?_ ?_ | (intro _ _ _; try dsimp only) | (split <;> try dsimp only))

theorem State.handoverDone_keeps {pm : Parts} {st0 : State} {s : State} {h : Nat} {b : Nat} (hk0 : Keeps pm st0 s) (p_flight : pm.flight = true := by
    assumption) (p_nextId : pm.nextId = true := by assumption) (p_sched : pm.sched = true := by assumption) (p_hives : pm.hives = true := by
    assumption) (p_wins : pm.wins = true := by assumption) (p_fxps : pm.fxps = true := by assumption) (p_err : pm.err = true := by assumption)
    (p_power : pm.power = true := by assumption) (p_trace : pm.trace = true := by assumption) (p_count : pm.count = true := by assumption) (p_mgmt :
    pm.mgmt = true := by assumption) : Keeps pm st0 (State.handoverDone s h b) := by
  unfold State.handoverDone
  try dsimp only
  with_reducible repeat' (first | assumption | apply State.setOwner_keeps | apply State.pulse_keeps | apply State.reissueHeld_keeps
                                | apply State.notice_keeps | (split <;> try dsimp only))

theorem execHandoverDrainEnd_keeps {pm : Parts} {st0 : State} {h : HiveId} {b : BankId} {s : State} (hk0 : Keeps pm st0 s) (p_flight : pm.flight =
    true := by assumption) (p_nextId : pm.nextId = true := by assumption) (p_sched : pm.sched = true := by assumption) (p_hives : pm.hives = true :=
    by assumption) (p_wins : pm.wins = true := by assumption) (p_fxps : pm.fxps = true := by assumption) (p_err : pm.err = true := by assumption)
    (p_power : pm.power = true := by assumption) (p_trace : pm.trace = true := by assumption) (p_count : pm.count = true := by assumption) (p_mgmt :
    pm.mgmt = true := by assumption) : ∃ u0, execHandoverDrainEnd h b s = .next u0 ∧ Keeps pm st0 u0 := by
  unfold execHandoverDrainEnd
  refine ⟨_, rfl, ?_⟩
  try dsimp only
  with_reducible repeat' (first | assumption | apply State.setOwner_keeps | apply State.handoverDone_keeps | apply Keeps.ite
                                | (split <;> try dsimp only))

theorem execHandoverClearEnd_keeps {pm : Parts} {st0 : State} {h : HiveId} {b : BankId} {s : State} (hk0 : Keeps pm st0 s) (p_flight : pm.flight =
    true := by assumption) (p_nextId : pm.nextId = true := by assumption) (p_sched : pm.sched = true := by assumption) (p_mem : pm.mem = true := by
    assumption) (p_hives : pm.hives = true := by assumption) (p_wins : pm.wins = true := by assumption) (p_fxps : pm.fxps = true := by assumption)
    (p_err : pm.err = true := by assumption) (p_mirror : pm.mirror = true := by assumption) (p_power : pm.power = true := by assumption) (p_trace :
    pm.trace = true := by assumption) (p_count : pm.count = true := by assumption) (p_mgmt : pm.mgmt = true := by assumption) : ∃ u0,
    execHandoverClearEnd h b s = .next u0 ∧ Keeps pm st0 u0 := by
  unfold execHandoverClearEnd
  refine ⟨_, rfl, ?_⟩
  try dsimp only
  with_reducible repeat' (first | assumption | apply State.handoverDone_keeps | apply State.clearValid_keeps | apply Keeps.ite
                                | (split <;> try dsimp only))

theorem State.setClock_keeps {pm : Parts} {st0 : State} {s : State} {h : Nat} {c : HClock} (hk0 : Keeps pm st0 s) (p_hives : pm.hives = true := by
    assumption) : Keeps pm st0 (State.setClock s h c) := by
  unfold State.setClock
  try dsimp only
  with_reducible repeat' (first | assumption | (refine Keeps.lit ?_ rfl; first | assumption) | (split <;> try dsimp only))

theorem execHiveIdleGate_keeps {pm : Parts} {st0 : State} {h : HiveId} {s : State} (hk0 : Keeps pm st0 s) (p_hives : pm.hives = true := by assumption)
    : ∃ u0, execHiveIdleGate h s = .next u0 ∧ Keeps pm st0 u0 := by
  unfold execHiveIdleGate
  refine ⟨_, rfl, ?_⟩
  try dsimp only
  with_reducible repeat' (first | assumption | apply State.setClock_keeps | apply Keeps.ite | (split <;> try dsimp only))

theorem execHiveWakeEnd_keeps {pm : Parts} {st0 : State} {h : HiveId} {s : State} (hk0 : Keeps pm st0 s) (p_hives : pm.hives = true := by assumption)
    : ∃ u0, execHiveWakeEnd h s = .next u0 ∧ Keeps pm st0 u0 := by
  unfold execHiveWakeEnd
  refine ⟨_, rfl, ?_⟩
  try dsimp only
  with_reducible repeat' (first | assumption | apply State.active_keeps | apply State.setClock_keeps | apply Keeps.ite | (split <;> try dsimp only))

theorem execPowerIntentGate_keeps {pm : Parts} {st0 : State} {h : HiveId} {j : Fin 16} {s : State} (hk0 : Keeps pm st0 s) (p_hives : pm.hives = true
    := by assumption) : ∃ u0, execPowerIntentGate h j s = .next u0 ∧ Keeps pm st0 u0 := by
  unfold execPowerIntentGate
  refine ⟨_, rfl, ?_⟩
  try dsimp only
  with_reducible repeat' (first | assumption | apply Keeps.ite | (refine Keeps.lit ?_ rfl; first | assumption | apply Keeps.ite)
                                | (split <;> try dsimp only))

theorem execPowerIntentWake_keeps {pm : Parts} {st0 : State} {h : HiveId} {j : Fin 16} {s : State} (hk0 : Keeps pm st0 s) (p_hives : pm.hives = true
    := by assumption) : ∃ u0, execPowerIntentWake h j s = .next u0 ∧ Keeps pm st0 u0 := by
  unfold execPowerIntentWake
  refine ⟨_, rfl, ?_⟩
  try dsimp only
  with_reducible repeat' (first | assumption | apply State.setClock_keeps | apply Keeps.ite
                                | (refine Keeps.lit ?_ rfl; first | assumption | apply State.setClock_keeps | apply Keeps.ite)
                                | (split <;> try dsimp only))

theorem State.setDomain_keeps {pm : Parts} {st0 : State} {s : State} {h : Nat} {d : Nat} {x : Domain} (hk0 : Keeps pm st0 s) (p_hives : pm.hives =
    true := by assumption) : Keeps pm st0 (State.setDomain s h d x) := by
  unfold State.setDomain
  try dsimp only
  with_reducible repeat' (first | assumption | (refine Keeps.lit ?_ rfl; first | assumption) | (split <;> try dsimp only))

theorem State.admitWakes_keeps {pm : Parts} {st0 : State} {s : State} (hk0 : Keeps pm st0 s) (p_hives : pm.hives = true := by assumption) : Keeps pm
    st0 (State.admitWakes s) := by
  unfold State.admitWakes
  try dsimp only
  with_reducible repeat' (first | assumption | apply Keeps.ite | apply Keeps.foldl | refine Keeps.foldlP ?_ ?_
                                | (refine Keeps.lit ?_ rfl; first | assumption | apply Keeps.ite | apply Keeps.foldl) | (intro _ _ _; try dsimp only)
                                | (split <;> try dsimp only))

theorem State.startDomain_keeps {pm : Parts} {st0 : State} {s : State} {h : Nat} {d : Nat} {t : Dom} (hk0 : Keeps pm st0 s) (p_hives : pm.hives = true
    := by assumption) : Keeps pm st0 (State.startDomain s h d t) := by
  unfold State.startDomain
  try dsimp only
  with_reducible repeat' (first | assumption | apply State.setDomain_keeps | apply Keeps.ite | (split <;> try dsimp only))

theorem execHivePowerWrite_keeps {pm : Parts} {st0 : State} {p : RegPath} {h : HiveId} {v : Dword} {s : State} (hk0 : Keeps pm st0 s) (p_hives :
    pm.hives = true := by assumption) : ∃ u0, execHivePowerWrite p h v s = .next u0 ∧ Keeps pm st0 u0 := by
  unfold execHivePowerWrite
  refine ⟨_, rfl, ?_⟩
  try dsimp only
  with_reducible repeat' (first | assumption | apply State.admitWakes_keeps | apply State.startDomain_keeps | apply State.cmd_keeps | apply Keeps.ite
                                | apply Keeps.foldl | refine Keeps.foldlP ?_ ?_
                                | (refine Keeps.lit ?_ rfl; first | assumption | apply State.admitWakes_keeps | apply State.startDomain_keeps | apply State.cmd_keeps | apply Keeps.ite | apply Keeps.foldl)
                                | (intro _ _ _; try dsimp only) | (intro _ _; try dsimp only) | (split <;> try dsimp only))

theorem State.powerSettled_keeps {pm : Parts} {st0 : State} {s : State} {h : Nat} (hk0 : Keeps pm st0 s) (p_hives : pm.hives = true := by assumption)
    (p_mgmt : pm.mgmt = true := by assumption) : Keeps pm st0 (State.powerSettled s h) := by
  unfold State.powerSettled
  try dsimp only
  with_reducible repeat' (first | assumption | apply State.notice_keeps | apply State.pulse_keeps | apply Keeps.ite | (split <;> try dsimp only))

theorem State.coldLogic_keeps {pm : Parts} {st0 : State} {s : State} {h : Nat} (hk0 : Keeps pm st0 s) (p_mem : pm.mem = true := by assumption)
    (p_hives : pm.hives = true := by assumption) (p_wins : pm.wins = true := by assumption) (p_jobs : pm.jobs = true := by assumption) : Keeps pm st0
    (State.coldLogic s h) := by
  unfold State.coldLogic
  try dsimp only
  with_reducible repeat' (first | assumption | (refine Keeps.lit ?_ rfl; first | assumption)
                                | (refine Keeps.mem ?_ Mem.wf_filterSync rfl; first | assumption) | (split <;> try dsimp only))

theorem State.loseRows_keeps {pm : Parts} {st0 : State} {s : State} {h : Nat} {d : Nat} (hk0 : Keeps pm st0 s) (p_mem : pm.mem = true := by
    assumption) : Keeps pm st0 (State.loseRows s h d) := by
  unfold State.loseRows
  try dsimp only
  with_reducible repeat' (first | assumption | apply Keeps.ite | (refine Keeps.lit ?_ rfl; first | assumption | apply Keeps.ite)
                                | (refine Keeps.mem ?_ Mem.wf_filterRows rfl; first | assumption | apply Keeps.ite) | (split <;> try dsimp only))

theorem execDomainDrainEnd_keeps {pm : Parts} {st0 : State} {h : HiveId} {d : Fin 14} {s : State} (hk0 : Keeps pm st0 s) (p_flight : pm.flight = true
    := by assumption) (p_nextId : pm.nextId = true := by assumption) (p_sched : pm.sched = true := by assumption) (p_mem : pm.mem = true := by
    assumption) (p_hives : pm.hives = true := by assumption) (p_wins : pm.wins = true := by assumption) (p_jobs : pm.jobs = true := by assumption)
    (p_err : pm.err = true := by assumption) (p_trace : pm.trace = true := by assumption) (p_count : pm.count = true := by assumption) (p_mgmt :
    pm.mgmt = true := by assumption) : ∃ u0, execDomainDrainEnd h d s = .next u0 ∧ Keeps pm st0 u0 := by
  unfold execDomainDrainEnd
  refine ⟨_, rfl, ?_⟩
  try dsimp only
  with_reducible repeat' (first | assumption | apply State.flcWalk_keeps | apply State.setDomain_keeps | apply State.coldLogic_keeps
                                | apply State.loseRows_keeps | apply State.powerSettled_keeps | apply Keeps.ite
                                | (refine Keeps.ofFst (by assumption) ?_) | (apply Keeps.iteFst <;> try dsimp only) | (split <;> try dsimp only))

theorem State.wakeEnd_keeps {pm : Parts} {st0 : State} {s : State} {h : Nat} {d : Nat} (hk0 : Keeps pm st0 s) (p_flight : pm.flight = true := by
    assumption) (p_nextId : pm.nextId = true := by assumption) (p_sched : pm.sched = true := by assumption) (p_mem : pm.mem = true := by assumption)
    (p_hives : pm.hives = true := by assumption) (p_wins : pm.wins = true := by assumption) (p_jobs : pm.jobs = true := by assumption) (p_fxps :
    pm.fxps = true := by assumption) (p_err : pm.err = true := by assumption) (p_mirror : pm.mirror = true := by assumption) (p_power : pm.power =
    true := by assumption) (p_trace : pm.trace = true := by assumption) (p_count : pm.count = true := by assumption) (p_mgmt : pm.mgmt = true := by
    assumption) : Keeps pm st0 (State.wakeEnd s h d) := by
  unfold State.wakeEnd
  try dsimp only
  with_reducible repeat' (first | assumption | apply State.setDomain_keeps | apply State.clearValid_keeps | apply State.coldLogic_keeps
                                | apply State.active_keeps | apply State.setClock_keeps | apply State.powerSettled_keeps
                                | apply State.admitWakes_keeps | apply Keeps.ite
                                | (refine Keeps.lit ?_ rfl; first | assumption | apply State.setDomain_keeps | apply State.clearValid_keeps | apply State.coldLogic_keeps | apply State.active_keeps | apply State.setClock_keeps | apply State.powerSettled_keeps | apply State.admitWakes_keeps | apply Keeps.ite)
                                | (split <;> try dsimp only))

theorem execDomainWakeEnd_keeps {pm : Parts} {st0 : State} {h : HiveId} {d : Fin 14} {s : State} (hk0 : Keeps pm st0 s) (p_flight : pm.flight = true
    := by assumption) (p_nextId : pm.nextId = true := by assumption) (p_sched : pm.sched = true := by assumption) (p_mem : pm.mem = true := by
    assumption) (p_hives : pm.hives = true := by assumption) (p_wins : pm.wins = true := by assumption) (p_jobs : pm.jobs = true := by assumption)
    (p_fxps : pm.fxps = true := by assumption) (p_err : pm.err = true := by assumption) (p_mirror : pm.mirror = true := by assumption) (p_power :
    pm.power = true := by assumption) (p_trace : pm.trace = true := by assumption) (p_count : pm.count = true := by assumption) (p_mgmt : pm.mgmt =
    true := by assumption) : ∃ u0, execDomainWakeEnd h d s = .next u0 ∧ Keeps pm st0 u0 := by
  unfold execDomainWakeEnd
  refine ⟨_, rfl, ?_⟩
  try dsimp only
  with_reducible repeat' (first | assumption | apply State.wakeEnd_keeps | apply Keeps.ite | (split <;> try dsimp only))

end Sys2Proof.Machine
end

