-- ==== Sys2Proof/Laws/KeepHandles.lean ====
section
/-!
SUPPORT. KeepHandles.lean: each operation of Machine/Handles.lean keeps: the invariant, the queue, and every part of the state that no hypothesis names.
-/
namespace Sys2Proof.Machine
set_option Elab.async false

theorem State.alignRow_keeps {pm : Parts} {st0 : State} {s : State} {ga : Nat} (hk0 : Keeps pm st0 s) (p_mem : pm.mem = true := by assumption) (p_err
    : pm.err = true := by assumption) (p_trace : pm.trace = true := by assumption) (p_count : pm.count = true := by assumption) (p_mgmt : pm.mgmt =
    true := by assumption) : Keeps pm st0 (State.alignRow s ga) := by
  unfold State.alignRow
  try dsimp only
  with_reducible repeat' (first | assumption | apply State.fixCells_keeps | (split <;> try dsimp only))

theorem State.poke_keeps {pm : Parts} {st0 : State} {s : State} {ga : Nat} {mask : Dword} {d : Line} {id : Nat} (hk0 : Keeps pm st0 s) (p_flight :
    pm.flight = true := by assumption) (p_nextId : pm.nextId = true := by assumption) (p_sched : pm.sched = true := by assumption) (p_mem : pm.mem =
    true := by assumption) (p_hives : pm.hives = true := by assumption) (p_tiers : pm.tiers = true := by assumption) (p_fxps : pm.fxps = true := by
    assumption) (p_err : pm.err = true := by assumption) (p_mirror : pm.mirror = true := by assumption) (p_power : pm.power = true := by assumption)
    (p_trace : pm.trace = true := by assumption) (p_count : pm.count = true := by assumption) (p_mgmt : pm.mgmt = true := by assumption) : Keeps pm
    st0 (State.poke s ga mask d id) := by
  unfold State.poke
  try dsimp only
  with_reducible repeat' (first | assumption | apply State.alignRow_keeps | apply State.cellWrite_keeps | apply State.copyTouched_keeps
                                | apply State.tierWrite_keeps | apply State.forward_keeps | apply State.ledgerTick_keeps | apply State.memWr_keeps
                                | apply State.rowTouched_keeps | apply State.setRow_keeps | apply State.clearPz_keeps | apply Keeps.ite
                                | apply Keeps.foldl | refine Keeps.foldlP ?_ ?_ | (intro _ _ _; try dsimp only) | (split <;> try dsimp only))

theorem State.setHandle_keeps {pm : Parts} {st0 : State} {s : State} {key : Nat} {q : Quad} (hk0 : Keeps pm st0 s) (p_hives : pm.hives = true := by
    assumption) : Keeps pm st0 (State.setHandle s key q) := by
  unfold State.setHandle
  try dsimp only
  with_reducible repeat' (first | assumption | (refine Keeps.lit ?_ rfl; first | assumption) | (split <;> try dsimp only))

theorem State.startDrain_keeps {pm : Parts} {st0 : State} {s : State} {key : Nat} {d : Drain} (hk0 : Keeps pm st0 s) (p_hives : pm.hives = true := by
    assumption) : Keeps pm st0 (State.startDrain s key d) := by
  unfold State.startDrain
  try dsimp only
  with_reducible repeat' (first | assumption | (refine Keeps.lit ?_ rfl; first | assumption) | (split <;> try dsimp only))

theorem State.handleStatus_keeps {pm : Parts} {st0 : State} {s : State} {h : Nat} {st : Nat} (hk0 : Keeps pm st0 s) (p_hives : pm.hives = true := by
    assumption) : Keeps pm st0 (State.handleStatus s h st) := by
  unfold State.handleStatus
  try dsimp only
  with_reducible repeat' (first | assumption | apply State.setStatus_keeps | (split <;> try dsimp only))

theorem State.handleOp_keeps {pm : Parts} {st0 : State} {s : State} {h : Nat} {c : Nat} {i : Nat} {op : Nat} (hk0 : Keeps pm st0 s) (p_flight :
    pm.flight = true := by assumption) (p_nextId : pm.nextId = true := by assumption) (p_sched : pm.sched = true := by assumption) (p_hives : pm.hives
    = true := by assumption) (p_fxps : pm.fxps = true := by assumption) (p_mirror : pm.mirror = true := by assumption) (p_journal : pm.journal = true
    := by assumption) (p_power : pm.power = true := by assumption) (p_count : pm.count = true := by assumption) (p_mgmt : pm.mgmt = true := by
    assumption) : Keeps pm st0 (State.handleOp s h c i op) := by
  unfold State.handleOp
  try dsimp only
  with_reducible repeat' (first | assumption | apply State.wakeHive_keeps | apply State.handleStatus_keeps | apply State.jAccept_keeps
                                | apply State.startDrain_keeps | apply Keeps.ite
                                | (refine Keeps.lit ?_ rfl; first | assumption | apply State.wakeHive_keeps | apply State.handleStatus_keeps | apply State.jAccept_keeps | apply State.startDrain_keeps | apply Keeps.ite)
                                | (split <;> try dsimp only))

theorem State.handleYpp_keeps {pm : Parts} {st0 : State} {s : State} {h : Nat} {c : Nat} {i : Nat} {q : Quad} {req : Option Nat} (hk0 : Keeps pm st0
    s) (p_hives : pm.hives = true := by assumption) : Keeps pm st0 (State.handleYpp s h c i q req).1 := by
  unfold State.handleYpp
  try dsimp only
  with_reducible repeat' (first | assumption | apply State.startDrain_keeps | apply Keeps.ite | (apply Keeps.iteFst <;> try dsimp only)
                                | (split <;> try dsimp only))

theorem execHandleLoad_keeps {pm : Parts} {st0 : State} {src : HandleSrc} {h : HiveId} {c : CtxId} {i : Fin 64} {s : State} (hk0 : Keeps pm st0 s)
    (p_flight : pm.flight = true := by assumption) (p_nextId : pm.nextId = true := by assumption) (p_sched : pm.sched = true := by assumption)
    (p_hives : pm.hives = true := by assumption) (p_fxps : pm.fxps = true := by assumption) (p_mirror : pm.mirror = true := by assumption) (p_journal
    : pm.journal = true := by assumption) (p_power : pm.power = true := by assumption) (p_count : pm.count = true := by assumption) (p_mgmt : pm.mgmt
    = true := by assumption) : ∃ u0, execHandleLoad src h c i s = .next u0 ∧ Keeps pm st0 u0 := by
  unfold execHandleLoad
  refine ⟨_, rfl, ?_⟩
  try dsimp only
  with_reducible repeat' (first | assumption | apply State.cmd_keeps | apply State.handleOp_keeps | apply State.handleYpp_keeps | apply Keeps.ite
                                | (refine Keeps.ofFst (by assumption) ?_) | (apply Keeps.iteFst <;> try dsimp only) | (intro _ _; try dsimp only)
                                | (split <;> try dsimp only))

theorem execHandleDrop_keeps {pm : Parts} {st0 : State} {src : RegPath} {h : HiveId} {c : CtxId} {i : Fin 64} {s : State} (hk0 : Keeps pm st0 s)
    (p_flight : pm.flight = true := by assumption) (p_nextId : pm.nextId = true := by assumption) (p_sched : pm.sched = true := by assumption)
    (p_hives : pm.hives = true := by assumption) (p_fxps : pm.fxps = true := by assumption) (p_mirror : pm.mirror = true := by assumption) (p_journal
    : pm.journal = true := by assumption) (p_power : pm.power = true := by assumption) (p_count : pm.count = true := by assumption) (p_mgmt : pm.mgmt
    = true := by assumption) : ∃ u0, execHandleDrop src h c i s = .next u0 ∧ Keeps pm st0 u0 := by
  unfold execHandleDrop
  refine ⟨_, rfl, ?_⟩
  try dsimp only
  with_reducible repeat' (first | assumption | apply State.cmd_keeps | apply State.handleOp_keeps | apply State.handleYpp_keeps | apply Keeps.ite
                                | (refine Keeps.ofFst (by assumption) ?_) | (apply Keeps.iteFst <;> try dsimp only) | (intro _ _; try dsimp only)
                                | (split <;> try dsimp only))

theorem execHandleRead_keeps {pm : Parts} {st0 : State} {h : HiveId} {c : CtxId} {i : Fin 64} {s : State} (hk0 : Keeps pm st0 s) (p_hives : pm.hives =
    true := by assumption) : ∃ u0, execHandleRead h c i s = .next u0 ∧ Keeps pm st0 u0 := by
  unfold execHandleRead
  refine ⟨_, rfl, ?_⟩
  try dsimp only
  with_reducible repeat' (first | assumption | apply State.cmd_keeps | apply State.wakeHive_keeps | apply State.handleStatus_keeps
                                | apply State.setPage_keeps | apply Keeps.ite | (intro _ _; try dsimp only) | (split <;> try dsimp only))

theorem State.dropAllot_keeps {pm : Parts} {st0 : State} {s : State} {h : Nat} {k : Nat × Nat × Nat × Nat} (hk0 : Keeps pm st0 s) (p_flight :
    pm.flight = true := by assumption) (p_nextId : pm.nextId = true := by assumption) (p_sched : pm.sched = true := by assumption) (p_hives : pm.hives
    = true := by assumption) (p_wins : pm.wins = true := by assumption) (p_fxps : pm.fxps = true := by assumption) (p_err : pm.err = true := by
    assumption) (p_mirror : pm.mirror = true := by assumption) (p_journal : pm.journal = true := by assumption) (p_power : pm.power = true := by
    assumption) (p_trace : pm.trace = true := by assumption) (p_count : pm.count = true := by assumption) (p_mgmt : pm.mgmt = true := by assumption) :
    Keeps pm st0 (State.dropAllot s h k) := by
  unfold State.dropAllot
  try dsimp only
  with_reducible repeat' (first | assumption | apply State.giveBack_keeps | apply Keeps.ite
                                | (refine Keeps.lit ?_ rfl; first | assumption | apply State.giveBack_keeps | apply Keeps.ite)
                                | (split <;> try dsimp only))

theorem State.slotTake_keeps {pm : Parts} {st0 : State} {s : State} {key : Nat} {q : Quad} (hk0 : Keeps pm st0 s) (p_hives : pm.hives = true := by
    assumption) : Keeps pm st0 (State.slotTake s key q) := by
  unfold State.slotTake
  try dsimp only
  with_reducible repeat' (first | assumption | (refine Keeps.lit ?_ rfl; first | assumption) | (split <;> try dsimp only))

theorem State.drainDone_keeps {pm : Parts} {st0 : State} {s : State} {h : Nat} {c : Nat} {i : Nat} {d : Drain} (hk0 : Keeps pm st0 s) (p_flight :
    pm.flight = true := by assumption) (p_nextId : pm.nextId = true := by assumption) (p_sched : pm.sched = true := by assumption) (p_hives : pm.hives
    = true := by assumption) (p_wins : pm.wins = true := by assumption) (p_fxps : pm.fxps = true := by assumption) (p_err : pm.err = true := by
    assumption) (p_mirror : pm.mirror = true := by assumption) (p_journal : pm.journal = true := by assumption) (p_power : pm.power = true := by
    assumption) (p_trace : pm.trace = true := by assumption) (p_count : pm.count = true := by assumption) (p_mgmt : pm.mgmt = true := by assumption) :
    Keeps pm st0 (State.drainDone s h c i d) := by
  unfold State.drainDone
  try dsimp only
  with_reducible repeat' (first | assumption | apply State.slotTake_keeps | apply State.dropAllot_keeps | apply State.jChange_keeps
                                | apply State.handleStatus_keeps | apply State.finish_keeps | apply State.sxpRetry_keeps | apply Keeps.ite
                                | (split <;> try dsimp only))

theorem execHandleDrainEnd_keeps {pm : Parts} {st0 : State} {h : HiveId} {c : CtxId} {i : Fin 64} {s : State} (hk0 : Keeps pm st0 s) (p_flight :
    pm.flight = true := by assumption) (p_nextId : pm.nextId = true := by assumption) (p_sched : pm.sched = true := by assumption) (p_hives : pm.hives
    = true := by assumption) (p_wins : pm.wins = true := by assumption) (p_fxps : pm.fxps = true := by assumption) (p_err : pm.err = true := by
    assumption) (p_mirror : pm.mirror = true := by assumption) (p_journal : pm.journal = true := by assumption) (p_power : pm.power = true := by
    assumption) (p_trace : pm.trace = true := by assumption) (p_count : pm.count = true := by assumption) (p_mgmt : pm.mgmt = true := by assumption) :
    ∃ u0, execHandleDrainEnd h c i s = .next u0 ∧ Keeps pm st0 u0 := by
  unfold execHandleDrainEnd
  refine ⟨_, rfl, ?_⟩
  try dsimp only
  with_reducible repeat' (first | assumption | apply State.drainDone_keeps | apply Keeps.ite | (split <;> try dsimp only))

theorem State.dropPools_keeps {pm : Parts} {st0 : State} {s : State} (hk0 : Keeps pm st0 s) (p_hives : pm.hives = true := by assumption) : Keeps pm
    st0 (State.dropPools s) := by
  unfold State.dropPools
  try dsimp only
  with_reducible repeat' (first | assumption | apply Keeps.ite | (refine Keeps.lit ?_ rfl; first | assumption | apply Keeps.ite)
                                | (split <;> try dsimp only))

theorem State.poolChange_keeps {pm : Parts} {st0 : State} {s : State} {c : Nat} {c' : Nat} (hk0 : Keeps pm st0 s) (p_flight : pm.flight = true := by
    assumption) (p_nextId : pm.nextId = true := by assumption) (p_sched : pm.sched = true := by assumption) (p_mem : pm.mem = true := by assumption)
    (p_hives : pm.hives = true := by assumption) (p_fxps : pm.fxps = true := by assumption) (p_err : pm.err = true := by assumption) (p_mirror :
    pm.mirror = true := by assumption) (p_power : pm.power = true := by assumption) (p_trace : pm.trace = true := by assumption) (p_count : pm.count =
    true := by assumption) (p_mgmt : pm.mgmt = true := by assumption) : Keeps pm st0 (State.poolChange s c c') := by
  unfold State.poolChange
  try dsimp only
  with_reducible repeat' (first | assumption | apply State.clearValid_keeps | apply State.dropPools_keeps | apply Keeps.foldl
                                | refine Keeps.foldlP ?_ ?_ | (intro _ _ _; try dsimp only) | (split <;> try dsimp only))

theorem State.hierMode_keeps {pm : Parts} {st0 : State} {s : State} {v : Nat} (hk0 : Keeps pm st0 s) (p_flight : pm.flight = true := by assumption)
    (p_nextId : pm.nextId = true := by assumption) (p_sched : pm.sched = true := by assumption) (p_mem : pm.mem = true := by assumption) (p_hives :
    pm.hives = true := by assumption) (p_fxps : pm.fxps = true := by assumption) (p_err : pm.err = true := by assumption) (p_mirror : pm.mirror = true
    := by assumption) (p_power : pm.power = true := by assumption) (p_trace : pm.trace = true := by assumption) (p_count : pm.count = true := by
    assumption) (p_mgmt : pm.mgmt = true := by assumption) : Keeps pm st0 (State.hierMode s v).1 := by
  unfold State.hierMode
  try dsimp only
  with_reducible repeat' (first | assumption | apply State.setPv_keeps | apply State.genUp_keeps | apply State.poolChange_keeps | apply Keeps.ite
                                | (apply Keeps.iteFst <;> try dsimp only) | (split <;> try dsimp only))

theorem State.poolContrib_keeps {pm : Parts} {st0 : State} {s : State} {v : Nat} (hk0 : Keeps pm st0 s) (p_flight : pm.flight = true := by assumption)
    (p_nextId : pm.nextId = true := by assumption) (p_sched : pm.sched = true := by assumption) (p_mem : pm.mem = true := by assumption) (p_hives :
    pm.hives = true := by assumption) (p_fxps : pm.fxps = true := by assumption) (p_err : pm.err = true := by assumption) (p_mirror : pm.mirror = true
    := by assumption) (p_power : pm.power = true := by assumption) (p_trace : pm.trace = true := by assumption) (p_count : pm.count = true := by
    assumption) (p_mgmt : pm.mgmt = true := by assumption) : Keeps pm st0 (State.poolContrib s v).1 := by
  unfold State.poolContrib
  try dsimp only
  with_reducible repeat' (first | assumption | apply State.setPv_keeps | apply State.genUp_keeps | apply State.poolChange_keeps | apply Keeps.ite
                                | (apply Keeps.iteFst <;> try dsimp only) | (split <;> try dsimp only))

theorem State.chipIdSet_keeps {pm : Parts} {st0 : State} {s : State} {v : Nat} (hk0 : Keeps pm st0 s) (p_mgmt : pm.mgmt = true := by assumption) :
    Keeps pm st0 (State.chipIdSet s v).1 := by
  unfold State.chipIdSet
  try dsimp only
  with_reducible repeat' (first | assumption | apply State.setPv_keeps | apply Keeps.ite | (apply Keeps.iteFst <;> try dsimp only)
                                | (refine Keeps.lit ?_ rfl; first | assumption | apply State.setPv_keeps | apply Keeps.ite)
                                | (split <;> try dsimp only))

theorem execHierarchyModeWrite_keeps {pm : Parts} {st0 : State} {v : Byte} {s : State} (hk0 : Keeps pm st0 s) (p_flight : pm.flight = true := by
    assumption) (p_nextId : pm.nextId = true := by assumption) (p_sched : pm.sched = true := by assumption) (p_mem : pm.mem = true := by assumption)
    (p_hives : pm.hives = true := by assumption) (p_fxps : pm.fxps = true := by assumption) (p_err : pm.err = true := by assumption) (p_mirror :
    pm.mirror = true := by assumption) (p_power : pm.power = true := by assumption) (p_trace : pm.trace = true := by assumption) (p_count : pm.count =
    true := by assumption) (p_mgmt : pm.mgmt = true := by assumption) : ∃ u0, execHierarchyModeWrite v s = .next u0 ∧ Keeps pm st0 u0 := by
  unfold execHierarchyModeWrite
  refine ⟨_, rfl, ?_⟩
  try dsimp only
  with_reducible repeat' (first | assumption | apply State.hierMode_keeps | apply Keeps.ite | (refine Keeps.ofFst (by assumption) ?_)
                                | (apply Keeps.iteFst <;> try dsimp only) | (split <;> try dsimp only))

theorem execPoolContribWrite_keeps {pm : Parts} {st0 : State} {v : BitVec 16} {s : State} (hk0 : Keeps pm st0 s) (p_flight : pm.flight = true := by
    assumption) (p_nextId : pm.nextId = true := by assumption) (p_sched : pm.sched = true := by assumption) (p_mem : pm.mem = true := by assumption)
    (p_hives : pm.hives = true := by assumption) (p_fxps : pm.fxps = true := by assumption) (p_err : pm.err = true := by assumption) (p_mirror :
    pm.mirror = true := by assumption) (p_power : pm.power = true := by assumption) (p_trace : pm.trace = true := by assumption) (p_count : pm.count =
    true := by assumption) (p_mgmt : pm.mgmt = true := by assumption) : ∃ u0, execPoolContribWrite v s = .next u0 ∧ Keeps pm st0 u0 := by
  unfold execPoolContribWrite
  refine ⟨_, rfl, ?_⟩
  try dsimp only
  with_reducible repeat' (first | assumption | apply State.poolContrib_keeps | apply Keeps.ite | (refine Keeps.ofFst (by assumption) ?_)
                                | (apply Keeps.iteFst <;> try dsimp only) | (split <;> try dsimp only))

theorem execChipIdWrite_keeps {pm : Parts} {st0 : State} {v : BitVec 16} {s : State} (hk0 : Keeps pm st0 s) (p_mgmt : pm.mgmt = true := by assumption)
    : ∃ u0, execChipIdWrite v s = .next u0 ∧ Keeps pm st0 u0 := by
  unfold execChipIdWrite
  refine ⟨_, rfl, ?_⟩
  try dsimp only
  with_reducible repeat' (first | assumption | apply State.chipIdSet_keeps | apply Keeps.ite | (refine Keeps.ofFst (by assumption) ?_)
                                | (apply Keeps.iteFst <;> try dsimp only) | (split <;> try dsimp only))

end Sys2Proof.Machine
end

