-- ==== Sys2Proof/Laws/KeepSync.lean ====
section
/-!
SUPPORT. KeepSync.lean: each operation of Machine/Sync.lean keeps: the invariant, the queue, and every part of the state that no hypothesis names.
-/
namespace Sys2Proof.Machine
set_option Elab.async false

theorem State.rfence_keeps {pm : Parts} {st0 : State} {s : State} {h : Nat} {c : Nat} {all : Bool} {chip : Nat} (hk0 : Keeps pm st0 s) (p_flight :
    pm.flight = true := by assumption) (p_nextId : pm.nextId = true := by assumption) (p_hives : pm.hives = true := by assumption) (p_err : pm.err =
    true := by assumption) (p_trace : pm.trace = true := by assumption) (p_count : pm.count = true := by assumption) (p_mgmt : pm.mgmt = true := by
    assumption) : Keeps pm st0 (State.rfence s h c all chip) := by
  unfold State.rfence
  try dsimp only
  with_reducible repeat' (first | assumption | apply State.wakeHive_keeps | apply State.setStatus_keeps | apply State.fenceTry_keeps | apply Keeps.ite
                                | (refine Keeps.lit ?_ rfl; first | assumption | apply State.wakeHive_keeps | apply State.setStatus_keeps | apply State.fenceTry_keeps | apply Keeps.ite)
                                | (split <;> try dsimp only))

theorem execFence_keeps {pm : Parts} {st0 : State} {h : HiveId} {c : CtxId} {s : State} (hk0 : Keeps pm st0 s) (p_flight : pm.flight = true := by
    assumption) (p_nextId : pm.nextId = true := by assumption) (p_hives : pm.hives = true := by assumption) (p_err : pm.err = true := by assumption)
    (p_trace : pm.trace = true := by assumption) (p_count : pm.count = true := by assumption) (p_mgmt : pm.mgmt = true := by assumption) : ∃ u0,
    execFence h c s = .next u0 ∧ Keeps pm st0 u0 := by
  unfold execFence
  refine ⟨_, rfl, ?_⟩
  try dsimp only
  with_reducible repeat' (first | assumption | apply State.cmd_keeps | apply State.rfence_keeps | (intro _ _; try dsimp only)
                                | (split <;> try dsimp only))

theorem execFenceChip_keeps {pm : Parts} {st0 : State} {h : HiveId} {c : CtxId} {chip : ChipId} {s : State} (hk0 : Keeps pm st0 s) (p_flight :
    pm.flight = true := by assumption) (p_nextId : pm.nextId = true := by assumption) (p_hives : pm.hives = true := by assumption) (p_err : pm.err =
    true := by assumption) (p_trace : pm.trace = true := by assumption) (p_count : pm.count = true := by assumption) (p_mgmt : pm.mgmt = true := by
    assumption) : ∃ u0, execFenceChip h c chip s = .next u0 ∧ Keeps pm st0 u0 := by
  unfold execFenceChip
  refine ⟨_, rfl, ?_⟩
  try dsimp only
  with_reducible repeat' (first | assumption | apply State.cmd_keeps | apply State.rfence_keeps | (intro _ _; try dsimp only)
                                | (split <;> try dsimp only))

theorem execRingDeclare_keeps {pm : Parts} {st0 : State} {h : HiveId} {c : CtxId} {i : Fin 16} {s : State} (hk0 : Keeps pm st0 s) (p_hives : pm.hives
    = true := by assumption) : ∃ u0, execRingDeclare h c i s = .next u0 ∧ Keeps pm st0 u0 := by
  unfold execRingDeclare
  refine ⟨_, rfl, ?_⟩
  try dsimp only
  with_reducible repeat' (first | assumption | apply State.cmd_keeps | apply State.wakeHive_keeps | apply State.setStatus_keeps
                                | apply State.setRing_keeps | apply Keeps.ite | (intro _ _; try dsimp only) | (split <;> try dsimp only))

theorem execRingUndeclare_keeps {pm : Parts} {st0 : State} {h : HiveId} {c : CtxId} {i : Fin 16} {s : State} (hk0 : Keeps pm st0 s) (p_hives :
    pm.hives = true := by assumption) : ∃ u0, execRingUndeclare h c i s = .next u0 ∧ Keeps pm st0 u0 := by
  unfold execRingUndeclare
  refine ⟨_, rfl, ?_⟩
  try dsimp only
  with_reducible repeat' (first | assumption | apply State.cmd_keeps | apply State.wakeHive_keeps | apply State.setStatus_keeps
                                | apply State.setRing_keeps | apply Keeps.ite | (intro _ _; try dsimp only) | (split <;> try dsimp only))

theorem execRingRead_keeps {pm : Parts} {st0 : State} {h : HiveId} {c : CtxId} {i : Fin 16} {s : State} (hk0 : Keeps pm st0 s) (p_hives : pm.hives =
    true := by assumption) : ∃ u0, execRingRead h c i s = .next u0 ∧ Keeps pm st0 u0 := by
  unfold execRingRead
  refine ⟨_, rfl, ?_⟩
  try dsimp only
  with_reducible repeat' (first | assumption | apply State.cmd_keeps | apply State.wakeHive_keeps | apply State.setPage_keeps
                                | apply State.setStatus_keeps | apply Keeps.ite | apply Keeps.foldl | refine Keeps.foldlP ?_ ?_
                                | (intro _ _ _; try dsimp only) | (intro _ _; try dsimp only) | (split <;> try dsimp only))

theorem State.ringTimeout_keeps {pm : Parts} {st0 : State} {s : State} {x : Xact} {h : Nat} {i : Nat} {n : Nat} (hk0 : Keeps pm st0 s) (p_flight :
    pm.flight = true := by assumption) (p_nextId : pm.nextId = true := by assumption) (p_sched : pm.sched = true := by assumption) (p_hives : pm.hives
    = true := by assumption) (p_err : pm.err = true := by assumption) (p_trace : pm.trace = true := by assumption) (p_count : pm.count = true := by
    assumption) (p_mgmt : pm.mgmt = true := by assumption) : Keeps pm st0 (State.ringTimeout s x h i n) := by
  unfold State.ringTimeout
  try dsimp only
  with_reducible repeat' (first | assumption | apply State.setRing_keeps | apply State.ringStallRec_keeps | apply State.faultAccess_keeps
                                | apply State.answer_keeps | apply State.bounce_keeps | apply State.reissue_keeps | apply Keeps.ite
                                | (split <;> try dsimp only))

theorem execRingTimeout_keeps {pm : Parts} {st0 : State} {x : Nat} {s : State} (hk0 : Keeps pm st0 s) (p_flight : pm.flight = true := by assumption)
    (p_nextId : pm.nextId = true := by assumption) (p_sched : pm.sched = true := by assumption) (p_hives : pm.hives = true := by assumption) (p_err :
    pm.err = true := by assumption) (p_trace : pm.trace = true := by assumption) (p_count : pm.count = true := by assumption) (p_mgmt : pm.mgmt = true
    := by assumption) : ∃ u0, execRingTimeout x s = .next u0 ∧ Keeps pm st0 u0 := by
  unfold execRingTimeout
  refine ⟨_, rfl, ?_⟩
  try dsimp only
  with_reducible repeat' (first | assumption | apply State.ringTimeout_keeps | apply Keeps.ite | (split <;> try dsimp only))

theorem State.setWait_keeps {pm : Parts} {st0 : State} {s : State} {h : Nat} {n : Nat} {w : WaitReg} (hk0 : Keeps pm st0 s) (p_hives : pm.hives = true
    := by assumption) : Keeps pm st0 (State.setWait s h n w) := by
  unfold State.setWait
  try dsimp only
  with_reducible repeat' (first | assumption | (refine Keeps.lit ?_ rfl; first | assumption) | (split <;> try dsimp only))

theorem State.waitArm_keeps {pm : Parts} {st0 : State} {s : State} {h : Nat} {c : Nat} {cond : Nat} {cell : Nat} {tmo : Nat} {dec : Bool} {i : Instr}
    (hk0 : Keeps pm st0 s) (p_hives : pm.hives = true := by assumption) (p_err : pm.err = true := by assumption) (p_trace : pm.trace = true := by
    assumption) (p_count : pm.count = true := by assumption) (p_mgmt : pm.mgmt = true := by assumption) : Keeps pm st0 (State.waitArm s h c cond cell
    tmo dec i) := by
  unfold State.waitArm
  try dsimp only
  with_reducible repeat' (first | assumption | apply State.wakeHive_keeps | apply State.setStatus_keeps | apply State.faultAccess_keeps
                                | apply State.cmdHold_keeps | apply State.queuePass_keeps | apply State.setWait_keeps | apply Keeps.ite
                                | (refine Keeps.lit ?_ rfl; first | assumption | apply State.wakeHive_keeps | apply State.setStatus_keeps | apply State.faultAccess_keeps | apply State.cmdHold_keeps | apply State.queuePass_keeps | apply State.setWait_keeps | apply Keeps.ite)
                                | (split <;> try dsimp only))

theorem execWait_keeps {pm : Parts} {st0 : State} {h : HiveId} {c : CtxId} {cond : Fin 8} {tmo : BitVec 24} {cell : BitVec 13} {s : State} (hk0 :
    Keeps pm st0 s) (p_hives : pm.hives = true := by assumption) (p_err : pm.err = true := by assumption) (p_trace : pm.trace = true := by assumption)
    (p_count : pm.count = true := by assumption) (p_mgmt : pm.mgmt = true := by assumption) : ∃ u0, execWait h c cond tmo cell s = .next u0 ∧ Keeps pm
    st0 u0 := by
  unfold execWait
  refine ⟨_, rfl, ?_⟩
  try dsimp only
  with_reducible repeat' (first | assumption | apply State.cmd_keeps | apply State.waitArm_keeps | (intro _ _; try dsimp only)
                                | (split <;> try dsimp only))

theorem execWaitdec_keeps {pm : Parts} {st0 : State} {h : HiveId} {c : CtxId} {tmo : BitVec 24} {cell : BitVec 13} {s : State} (hk0 : Keeps pm st0 s)
    (p_hives : pm.hives = true := by assumption) (p_err : pm.err = true := by assumption) (p_trace : pm.trace = true := by assumption) (p_count :
    pm.count = true := by assumption) (p_mgmt : pm.mgmt = true := by assumption) : ∃ u0, execWaitdec h c tmo cell s = .next u0 ∧ Keeps pm st0 u0 := by
  unfold execWaitdec
  refine ⟨_, rfl, ?_⟩
  try dsimp only
  with_reducible repeat' (first | assumption | apply State.cmd_keeps | apply State.waitArm_keeps | (intro _ _; try dsimp only)
                                | (split <;> try dsimp only))

theorem execWaitCancel_keeps {pm : Parts} {st0 : State} {h : HiveId} {c : CtxId} {reg : Fin 128} {s : State} (hk0 : Keeps pm st0 s) (p_hives :
    pm.hives = true := by assumption) : ∃ u0, execWaitCancel h c reg s = .next u0 ∧ Keeps pm st0 u0 := by
  unfold execWaitCancel
  refine ⟨_, rfl, ?_⟩
  try dsimp only
  with_reducible repeat' (first | assumption | apply State.cmd_keeps | apply State.wakeHive_keeps | apply State.setStatus_keeps
                                | apply State.setWait_keeps | apply Keeps.ite | (intro _ _; try dsimp only) | (split <;> try dsimp only))

theorem State.release_keeps {pm : Parts} {st0 : State} {s : State} {h : Nat} {n : Nat} {v : Dword} {src : Party} (hk0 : Keeps pm st0 s) (p_hives :
    pm.hives = true := by assumption) (p_err : pm.err = true := by assumption) (p_trace : pm.trace = true := by assumption) (p_mgmt : pm.mgmt = true
    := by assumption) : Keeps pm st0 (State.release s h n v src) := by
  unfold State.release
  try dsimp only
  with_reducible repeat' (first | assumption | apply State.traceGen_keeps | apply State.pulse_keeps | apply State.setWait_keeps | apply Keeps.ite
                                | (split <;> try dsimp only))

theorem State.passWaits_keeps {pm : Parts} {st0 : State} {s : State} {h : Nat} {cell : Nat} {src : Party} {ns : List Nat} (hk0 : Keeps pm st0 s)
    (p_hives : pm.hives = true := by assumption) (p_err : pm.err = true := by assumption) (p_trace : pm.trace = true := by assumption) (p_mgmt :
    pm.mgmt = true := by assumption) : Keeps pm st0 (State.passWaits s h cell src ns) := by
  unfold State.passWaits
  try dsimp only
  with_reducible repeat' (first | assumption | apply State.release_keeps | apply Keeps.ite | apply Keeps.foldl | refine Keeps.foldlP ?_ ?_
                                | (intro _ _ _; try dsimp only) | (split <;> try dsimp only))

theorem State.passDecs_keeps {pm : Parts} {st0 : State} {s : State} {h : Nat} {cell : Nat} {src : Party} {a4 : List Nat} (hk0 : Keeps pm st0 s) (p_mem
    : pm.mem = true := by assumption) (p_hives : pm.hives = true := by assumption) (p_err : pm.err = true := by assumption) (p_trace : pm.trace = true
    := by assumption) (p_mgmt : pm.mgmt = true := by assumption) : Keeps pm st0 (State.passDecs s h cell src a4) := by
  induction a4 generalizing s h cell src with
  | nil =>
    unfold State.passDecs
    try dsimp only
    with_reducible repeat' (first | assumption | apply State.release_keeps | apply State.setSync_keeps | apply ih | apply Keeps.ite
                                  | (split <;> try dsimp only))
  | cons e l ih =>
    unfold State.passDecs
    try dsimp only
    with_reducible repeat' (first | assumption | apply State.release_keeps | apply State.setSync_keeps | apply ih | apply Keeps.ite
                                  | (split <;> try dsimp only))

theorem State.pass_keeps {pm : Parts} {st0 : State} {s : State} {h : Nat} {cell : Nat} {src : Party} (hk0 : Keeps pm st0 s) (p_mem : pm.mem = true :=
    by assumption) (p_hives : pm.hives = true := by assumption) (p_err : pm.err = true := by assumption) (p_trace : pm.trace = true := by assumption)
    (p_mgmt : pm.mgmt = true := by assumption) : Keeps pm st0 (State.pass s h cell src) := by
  unfold State.pass
  try dsimp only
  with_reducible repeat' (first | assumption | apply State.passWaits_keeps | apply State.passDecs_keeps | apply Keeps.ite
                                | (split <;> try dsimp only))

theorem execReleasePass_keeps {pm : Parts} {st0 : State} {h : HiveId} {s : State} (hk0 : Keeps pm st0 s) (p_mem : pm.mem = true := by assumption)
    (p_hives : pm.hives = true := by assumption) (p_err : pm.err = true := by assumption) (p_trace : pm.trace = true := by assumption) (p_mgmt :
    pm.mgmt = true := by assumption) : ∃ u0, execReleasePass h s = .next u0 ∧ Keeps pm st0 u0 := by
  unfold execReleasePass
  refine ⟨_, rfl, ?_⟩
  try dsimp only
  with_reducible repeat' (first | assumption | apply State.pass_keeps | apply State.occupy_keeps | apply Keeps.ite
                                | (refine Keeps.lit ?_ rfl; first | assumption | apply State.pass_keeps | apply State.occupy_keeps | apply Keeps.ite)
                                | (split <;> try dsimp only))

theorem execWaitTimeout_keeps {pm : Parts} {st0 : State} {h : HiveId} {n : Fin 128} {s : State} (hk0 : Keeps pm st0 s) (p_hives : pm.hives = true :=
    by assumption) (p_err : pm.err = true := by assumption) (p_trace : pm.trace = true := by assumption) (p_count : pm.count = true := by assumption)
    (p_mgmt : pm.mgmt = true := by assumption) : ∃ u0, execWaitTimeout h n s = .next u0 ∧ Keeps pm st0 u0 := by
  unfold execWaitTimeout
  refine ⟨_, rfl, ?_⟩
  try dsimp only
  with_reducible repeat' (first | assumption | apply State.traceGen_keeps | apply State.faultAccess_keeps | apply State.setWait_keeps
                                | apply Keeps.ite | (split <;> try dsimp only))

theorem State.cmdData_keeps {pm : Parts} {st0 : State} {s : State} {h : Nat} {c : Nat} {off : Nat} {v : Dword} (hk0 : Keeps pm st0 s) (p_hives :
    pm.hives = true := by assumption) : Keeps pm st0 (State.cmdData s h c off v) := by
  unfold State.cmdData
  try dsimp only
  with_reducible repeat' (first | assumption | (refine Keeps.lit ?_ rfl; first | assumption) | (split <;> try dsimp only))

theorem execWaitResultRead_keeps {pm : Parts} {st0 : State} {h : HiveId} {c : CtxId} {s : State} (hk0 : Keeps pm st0 s) (p_hives : pm.hives = true :=
    by assumption) : ∃ u0, execWaitResultRead h c s = .next u0 ∧ Keeps pm st0 u0 := by
  unfold execWaitResultRead
  refine ⟨_, rfl, ?_⟩
  try dsimp only
  with_reducible repeat' (first | assumption | apply State.cmd_keeps | apply State.wakeHive_keeps | apply State.cmdData_keeps
                                | apply State.setPage_keeps | apply State.setWait_keeps | apply State.cmdHold_keeps | apply Keeps.ite
                                | (intro _ _; try dsimp only) | (split <;> try dsimp only))

theorem State.cmdReady_keeps {pm : Parts} {st0 : State} {s : State} {t0 : State} {x0 : _} (hk0 : Keeps pm st0 s) (he : State.cmdReady s = some (x0,
    t0)) (p_hives : pm.hives = true := by assumption) : Keeps pm st0 t0 := by
  unfold State.cmdReady at he
  obtain ⟨e, _, he⟩ := List.exists_of_findSome?_eq_some he
  dsimp only at he
  repeat' (split at he)
  all_goals first | contradiction | skip
  all_goals cases he
  all_goals exact Keeps.lit (State.setCmds_keeps hk0) rfl

end Sys2Proof.Machine
end

