-- ==== Sys2Proof/Laws/KeepDma.lean ====
section
/-!
SUPPORT. KeepDma.lean: each operation of Machine/Dma.lean keeps: the invariant, the queue, and every part of the state that no hypothesis names.
-/
namespace Sys2Proof.Machine
set_option Elab.async false

theorem State.setChan_keeps {pm : Parts} {st0 : State} {s : State} {h : Nat} {k : Nat} {c : Chan} (hk0 : Keeps pm st0 s) (p_chans : pm.chans = true :=
    by assumption) : Keeps pm st0 (State.setChan s h k c) := by
  unfold State.setChan
  try dsimp only
  with_reducible repeat' (first | assumption | (refine Keeps.lit ?_ rfl; first | assumption) | (split <;> try dsimp only))

theorem State.setDesc_keeps {pm : Parts} {st0 : State} {s : State} {h : Nat} {k : Nat} {d : Desc} (hk0 : Keeps pm st0 s) (p_chans : pm.chans = true :=
    by assumption) : Keeps pm st0 (State.setDesc s h k d) := by
  unfold State.setDesc
  try dsimp only
  with_reducible repeat' (first | assumption | apply State.setChan_keeps | apply Keeps.ite | (split <;> try dsimp only))

theorem State.faultDoneNow_keeps {pm : Parts} {st0 : State} {s : State} {h : Nat} {k : Nat} (hk0 : Keeps pm st0 s) (p_chans : pm.chans = true := by
    assumption) : Keeps pm st0 (State.faultDoneNow s h k) := by
  unfold State.faultDoneNow
  try dsimp only
  with_reducible repeat' (first | assumption | apply State.setChan_keeps | apply Keeps.ite | apply Keeps.foldl | refine Keeps.foldlP ?_ ?_
                                | (intro _ _ _; try dsimp only) | (split <;> try dsimp only))

theorem State.chanStop_keeps {pm : Parts} {st0 : State} {s : State} {h : Nat} {k : Nat} {abort : Bool} (hk0 : Keeps pm st0 s) (p_flight : pm.flight =
    true := by assumption) (p_hives : pm.hives = true := by assumption) : Keeps pm st0 (State.chanStop s h k abort) := by
  unfold State.chanStop
  exact Keeps.flight hk0 (fun n hn => numbered_map (numbered_filter hn) (fun y => by split <;> rfl)) rfl

theorem State.freeLines_keeps {pm : Parts} {st0 : State} {s : State} {b : Nat} {n : Nat} (hk0 : Keeps pm st0 s) (p_flight : pm.flight = true := by
    assumption) (p_nextId : pm.nextId = true := by assumption) (p_free : pm.free = true := by assumption) (p_sched : pm.sched = true := by assumption)
    (p_mem : pm.mem = true := by assumption) (p_hives : pm.hives = true := by assumption) (p_tiers : pm.tiers = true := by assumption) (p_fxps :
    pm.fxps = true := by assumption) (p_err : pm.err = true := by assumption) (p_mirror : pm.mirror = true := by assumption) (p_power : pm.power =
    true := by assumption) (p_trace : pm.trace = true := by assumption) (p_count : pm.count = true := by assumption) (p_mgmt : pm.mgmt = true := by
    assumption) : Keeps pm st0 (State.freeLines s b n) := by
  unfold State.freeLines
  try dsimp only
  with_reducible repeat' (first | assumption | apply State.draw_keeps | apply State.poke_keeps | apply Keeps.ite | apply Keeps.foldl
                                | (refine Keeps.ofSnd (by assumption) ?_) | refine Keeps.foldlP ?_ ?_ | refine Keeps.foldlQ ?_ ?_
                                | (intro _ _ _; try dsimp only) | (split <;> try dsimp only))

theorem State.moveAbandon_keeps {pm : Parts} {st0 : State} {s : State} {h : Nat} {k : Nat} {idx : Nat} (hk0 : Keeps pm st0 s) (p_flight : pm.flight =
    true := by assumption) (p_nextId : pm.nextId = true := by assumption) (p_free : pm.free = true := by assumption) (p_sched : pm.sched = true := by
    assumption) (p_mem : pm.mem = true := by assumption) (p_hives : pm.hives = true := by assumption) (p_wins : pm.wins = true := by assumption)
    (p_tiers : pm.tiers = true := by assumption) (p_fxps : pm.fxps = true := by assumption) (p_err : pm.err = true := by assumption) (p_mirror :
    pm.mirror = true := by assumption) (p_power : pm.power = true := by assumption) (p_trace : pm.trace = true := by assumption) (p_count : pm.count =
    true := by assumption) (p_mgmt : pm.mgmt = true := by assumption) : Keeps pm st0 (State.moveAbandon s h k idx) := by
  unfold State.moveAbandon
  try dsimp only
  with_reducible repeat' (first | assumption | apply State.sxpRetry_keeps | apply State.freeLines_keeps
                                | (refine Keeps.lit ?_ rfl; first | assumption | apply State.sxpRetry_keeps | apply State.freeLines_keeps)
                                | (split <;> try dsimp only))

theorem State.chanHaltRec_keeps {pm : Parts} {st0 : State} {s : State} {h : Nat} {k : Nat} {idx : Nat} {f : HFault} {ga : Nat} (hk0 : Keeps pm st0 s)
    (p_flight : pm.flight = true := by assumption) (p_nextId : pm.nextId = true := by assumption) (p_free : pm.free = true := by assumption) (p_sched
    : pm.sched = true := by assumption) (p_mem : pm.mem = true := by assumption) (p_hives : pm.hives = true := by assumption) (p_wins : pm.wins = true
    := by assumption) (p_chans : pm.chans = true := by assumption) (p_tiers : pm.tiers = true := by assumption) (p_fxps : pm.fxps = true := by
    assumption) (p_err : pm.err = true := by assumption) (p_mirror : pm.mirror = true := by assumption) (p_power : pm.power = true := by assumption)
    (p_trace : pm.trace = true := by assumption) (p_count : pm.count = true := by assumption) (p_mgmt : pm.mgmt = true := by assumption) : Keeps pm
    st0 (State.chanHaltRec s h k idx f ga) := by
  unfold State.chanHaltRec
  try dsimp only
  with_reducible repeat' (first | assumption | apply State.moveAbandon_keeps | apply State.chanStop_keeps | apply State.handleFault_keeps
                                | apply State.faultDoneNow_keeps | apply State.setChan_keeps | apply Keeps.ite | (split <;> try dsimp only))

theorem State.chanHalt_keeps {pm : Parts} {st0 : State} {s : State} {h : Nat} {k : Nat} {idx : Nat} {code : Nat} {hd : Nat} {ga : Nat} (hk0 : Keeps pm
    st0 s) (p_flight : pm.flight = true := by assumption) (p_nextId : pm.nextId = true := by assumption) (p_free : pm.free = true := by assumption)
    (p_sched : pm.sched = true := by assumption) (p_mem : pm.mem = true := by assumption) (p_hives : pm.hives = true := by assumption) (p_wins :
    pm.wins = true := by assumption) (p_chans : pm.chans = true := by assumption) (p_tiers : pm.tiers = true := by assumption) (p_fxps : pm.fxps =
    true := by assumption) (p_err : pm.err = true := by assumption) (p_mirror : pm.mirror = true := by assumption) (p_power : pm.power = true := by
    assumption) (p_trace : pm.trace = true := by assumption) (p_count : pm.count = true := by assumption) (p_mgmt : pm.mgmt = true := by assumption) :
    Keeps pm st0 (State.chanHalt s h k idx code hd ga) := by
  unfold State.chanHalt
  try dsimp only
  with_reducible repeat' (first | assumption | apply State.chanHaltRec_keeps
                                | (refine Keeps.flight ?_ (fun n hn => numbered_map hn (fun y => ?_)) rfl; first | assumption | assumption)
                                | (split <;> try dsimp only))

theorem State.chanHandleHalt_keeps {pm : Parts} {st0 : State} {s : State} {h : Nat} {k : Nat} {idx : Nat} {f : HFault} {ga : Nat} (hk0 : Keeps pm st0
    s) (p_flight : pm.flight = true := by assumption) (p_nextId : pm.nextId = true := by assumption) (p_free : pm.free = true := by assumption)
    (p_sched : pm.sched = true := by assumption) (p_mem : pm.mem = true := by assumption) (p_hives : pm.hives = true := by assumption) (p_wins :
    pm.wins = true := by assumption) (p_chans : pm.chans = true := by assumption) (p_tiers : pm.tiers = true := by assumption) (p_fxps : pm.fxps =
    true := by assumption) (p_err : pm.err = true := by assumption) (p_mirror : pm.mirror = true := by assumption) (p_power : pm.power = true := by
    assumption) (p_trace : pm.trace = true := by assumption) (p_count : pm.count = true := by assumption) (p_mgmt : pm.mgmt = true := by assumption) :
    Keeps pm st0 (State.chanHandleHalt s h k idx f ga) := by
  unfold State.chanHandleHalt
  try dsimp only
  with_reducible repeat' (first | assumption | apply State.chanHaltRec_keeps | (split <;> try dsimp only))

theorem State.dxpSend_keeps {pm : Parts} {st0 : State} {s : State} {x : Xact} (hk0 : Keeps pm st0 s) (p_flight : pm.flight = true := by assumption)
    (p_nextId : pm.nextId = true := by assumption) (p_sched : pm.sched = true := by assumption) (p_hives : pm.hives = true := by assumption) (p_err :
    pm.err = true := by assumption) (p_trace : pm.trace = true := by assumption) (p_count : pm.count = true := by assumption) (p_mgmt : pm.mgmt = true
    := by assumption) : Keeps pm st0 (State.dxpSend s x) := by
  unfold State.dxpSend
  try dsimp only
  with_reducible repeat' (first | assumption | apply State.issue_keeps | apply State.occupy_keeps | apply Keeps.ite | (split <;> try dsimp only))

theorem State.chanReq_keeps {pm : Parts} {st0 : State} {s : State} {h : Nat} {k : Nat} {ga : Nat} {kind : AccKind} {code : Nat} {mask : Dword} {data :
    Line} {w : BitVec 512} {p : Purpose} {tag : Nat} (hk0 : Keeps pm st0 s) (p_flight : pm.flight = true := by assumption) (p_nextId : pm.nextId =
    true := by assumption) (p_sched : pm.sched = true := by assumption) (p_hives : pm.hives = true := by assumption) (p_err : pm.err = true := by
    assumption) (p_trace : pm.trace = true := by assumption) (p_count : pm.count = true := by assumption) (p_mgmt : pm.mgmt = true := by assumption) :
    Keeps pm st0 (State.chanReq s h k ga kind code mask data w p tag) := by
  unfold State.chanReq
  try dsimp only
  with_reducible repeat' (first | assumption | apply State.addX_keeps | apply State.dxpSend_keeps | (split <;> try dsimp only))

theorem State.dxpPump_keeps {pm : Parts} {st0 : State} {s : State} {h : Nat} (hk0 : Keeps pm st0 s) (p_flight : pm.flight = true := by assumption)
    (p_nextId : pm.nextId = true := by assumption) (p_sched : pm.sched = true := by assumption) (p_hives : pm.hives = true := by assumption) (p_err :
    pm.err = true := by assumption) (p_trace : pm.trace = true := by assumption) (p_count : pm.count = true := by assumption) (p_mgmt : pm.mgmt = true
    := by assumption) : Keeps pm st0 (State.dxpPump s h) := by
  unfold State.dxpPump
  try dsimp only
  with_reducible repeat' (first | assumption | apply State.dxpSend_keeps | apply Keeps.ite | (split <;> try dsimp only))

theorem State.chanFetch_keeps {pm : Parts} {st0 : State} {s : State} {h : Nat} {k : Nat} (hk0 : Keeps pm st0 s) (p_flight : pm.flight = true := by
    assumption) (p_nextId : pm.nextId = true := by assumption) (p_free : pm.free = true := by assumption) (p_sched : pm.sched = true := by assumption)
    (p_mem : pm.mem = true := by assumption) (p_hives : pm.hives = true := by assumption) (p_wins : pm.wins = true := by assumption) (p_chans :
    pm.chans = true := by assumption) (p_tiers : pm.tiers = true := by assumption) (p_fxps : pm.fxps = true := by assumption) (p_err : pm.err = true
    := by assumption) (p_mirror : pm.mirror = true := by assumption) (p_power : pm.power = true := by assumption) (p_trace : pm.trace = true := by
    assumption) (p_count : pm.count = true := by assumption) (p_mgmt : pm.mgmt = true := by assumption) : Keeps pm st0 (State.chanFetch s h k) := by
  unfold State.chanFetch
  try dsimp only
  with_reducible repeat' (first | assumption | apply State.setChan_keeps | apply State.chanHandleHalt_keeps | apply State.chanReq_keeps
                                | apply Keeps.ite | (split <;> try dsimp only))

theorem State.chanIdle_keeps {pm : Parts} {st0 : State} {s : State} {h : Nat} {k : Nat} (hk0 : Keeps pm st0 s) (p_chans : pm.chans = true := by
    assumption) : Keeps pm st0 (State.chanIdle s h k) := by
  unfold State.chanIdle
  try dsimp only
  with_reducible repeat' (first | assumption | apply State.setChan_keeps | apply Keeps.ite | (split <;> try dsimp only))

theorem State.chanEnable_keeps {pm : Parts} {st0 : State} {s : State} {h : Nat} {k : Nat} (hk0 : Keeps pm st0 s) (p_flight : pm.flight = true := by
    assumption) (p_nextId : pm.nextId = true := by assumption) (p_free : pm.free = true := by assumption) (p_sched : pm.sched = true := by assumption)
    (p_mem : pm.mem = true := by assumption) (p_hives : pm.hives = true := by assumption) (p_wins : pm.wins = true := by assumption) (p_chans :
    pm.chans = true := by assumption) (p_tiers : pm.tiers = true := by assumption) (p_fxps : pm.fxps = true := by assumption) (p_err : pm.err = true
    := by assumption) (p_mirror : pm.mirror = true := by assumption) (p_power : pm.power = true := by assumption) (p_trace : pm.trace = true := by
    assumption) (p_count : pm.count = true := by assumption) (p_mgmt : pm.mgmt = true := by assumption) : Keeps pm st0 (State.chanEnable s h k) := by
  unfold State.chanEnable
  try dsimp only
  with_reducible repeat' (first | assumption | apply State.chanFetch_keeps | apply State.setChan_keeps | apply Keeps.ite | (split <;> try dsimp only))

theorem State.chanDisable_keeps {pm : Parts} {st0 : State} {s : State} {h : Nat} {k : Nat} (hk0 : Keeps pm st0 s) (p_chans : pm.chans = true := by
    assumption) : Keeps pm st0 (State.chanDisable s h k) := by
  unfold State.chanDisable
  try dsimp only
  with_reducible repeat' (first | assumption | apply State.chanIdle_keeps | apply State.setChan_keeps | (split <;> try dsimp only))

theorem execChanEnable_keeps {pm : Parts} {st0 : State} {h : HiveId} {k : ChanId} {s : State} (hk0 : Keeps pm st0 s) (p_flight : pm.flight = true :=
    by assumption) (p_nextId : pm.nextId = true := by assumption) (p_free : pm.free = true := by assumption) (p_sched : pm.sched = true := by
    assumption) (p_mem : pm.mem = true := by assumption) (p_hives : pm.hives = true := by assumption) (p_wins : pm.wins = true := by assumption)
    (p_chans : pm.chans = true := by assumption) (p_tiers : pm.tiers = true := by assumption) (p_fxps : pm.fxps = true := by assumption) (p_err :
    pm.err = true := by assumption) (p_mirror : pm.mirror = true := by assumption) (p_power : pm.power = true := by assumption) (p_trace : pm.trace =
    true := by assumption) (p_count : pm.count = true := by assumption) (p_mgmt : pm.mgmt = true := by assumption) : ∃ u0, execChanEnable h k s =
    .next u0 ∧ Keeps pm st0 u0 := by
  unfold execChanEnable
  refine ⟨_, rfl, ?_⟩
  try dsimp only
  with_reducible repeat' (first | assumption | apply State.cmd_keeps | apply State.chanEnable_keeps | apply State.wakeHive_keeps | apply Keeps.ite
                                | (intro _ _; try dsimp only) | (split <;> try dsimp only))

theorem execChanDisable_keeps {pm : Parts} {st0 : State} {h : HiveId} {k : ChanId} {s : State} (hk0 : Keeps pm st0 s) (p_hives : pm.hives = true := by
    assumption) (p_chans : pm.chans = true := by assumption) : ∃ u0, execChanDisable h k s = .next u0 ∧ Keeps pm st0 u0 := by
  unfold execChanDisable
  refine ⟨_, rfl, ?_⟩
  try dsimp only
  with_reducible repeat' (first | assumption | apply State.cmd_keeps | apply State.chanDisable_keeps | apply State.wakeHive_keeps | apply Keeps.ite
                                | (intro _ _; try dsimp only) | (split <;> try dsimp only))

theorem State.tailApply_keeps {pm : Parts} {st0 : State} {s : State} {h : Nat} {k : Nat} (hk0 : Keeps pm st0 s) (p_flight : pm.flight = true := by
    assumption) (p_nextId : pm.nextId = true := by assumption) (p_free : pm.free = true := by assumption) (p_sched : pm.sched = true := by assumption)
    (p_mem : pm.mem = true := by assumption) (p_hives : pm.hives = true := by assumption) (p_wins : pm.wins = true := by assumption) (p_chans :
    pm.chans = true := by assumption) (p_tiers : pm.tiers = true := by assumption) (p_fxps : pm.fxps = true := by assumption) (p_err : pm.err = true
    := by assumption) (p_mirror : pm.mirror = true := by assumption) (p_power : pm.power = true := by assumption) (p_trace : pm.trace = true := by
    assumption) (p_count : pm.count = true := by assumption) (p_mgmt : pm.mgmt = true := by assumption) : Keeps pm st0 (State.tailApply s h k) := by
  unfold State.tailApply
  try dsimp only
  with_reducible repeat' (first | assumption | apply State.chanFetch_keeps | apply State.setChan_keeps | (split <;> try dsimp only))

theorem State.tailWrite_keeps {pm : Parts} {st0 : State} {s : State} {h : Nat} {k : Nat} {v : Nat} (hk0 : Keeps pm st0 s) (p_flight : pm.flight = true
    := by assumption) (p_nextId : pm.nextId = true := by assumption) (p_free : pm.free = true := by assumption) (p_sched : pm.sched = true := by
    assumption) (p_mem : pm.mem = true := by assumption) (p_hives : pm.hives = true := by assumption) (p_wins : pm.wins = true := by assumption)
    (p_chans : pm.chans = true := by assumption) (p_tiers : pm.tiers = true := by assumption) (p_fxps : pm.fxps = true := by assumption) (p_err :
    pm.err = true := by assumption) (p_mirror : pm.mirror = true := by assumption) (p_power : pm.power = true := by assumption) (p_trace : pm.trace =
    true := by assumption) (p_count : pm.count = true := by assumption) (p_mgmt : pm.mgmt = true := by assumption) : Keeps pm st0 (State.tailWrite s h
    k v) := by
  unfold State.tailWrite
  try dsimp only
  with_reducible repeat' (first | assumption | apply State.tailApply_keeps | apply State.setChan_keeps | apply Keeps.ite | (split <;> try dsimp only))

theorem execRingTailWrite_keeps {pm : Parts} {st0 : State} {h : HiveId} {k : ChanId} {v : BitVec 16} {s : State} (hk0 : Keeps pm st0 s) (p_flight :
    pm.flight = true := by assumption) (p_nextId : pm.nextId = true := by assumption) (p_free : pm.free = true := by assumption) (p_sched : pm.sched =
    true := by assumption) (p_mem : pm.mem = true := by assumption) (p_hives : pm.hives = true := by assumption) (p_wins : pm.wins = true := by
    assumption) (p_chans : pm.chans = true := by assumption) (p_tiers : pm.tiers = true := by assumption) (p_fxps : pm.fxps = true := by assumption)
    (p_err : pm.err = true := by assumption) (p_mirror : pm.mirror = true := by assumption) (p_power : pm.power = true := by assumption) (p_trace :
    pm.trace = true := by assumption) (p_count : pm.count = true := by assumption) (p_mgmt : pm.mgmt = true := by assumption) : ∃ u0,
    execRingTailWrite h k v s = .next u0 ∧ Keeps pm st0 u0 := by
  unfold execRingTailWrite
  refine ⟨_, rfl, ?_⟩
  try dsimp only
  with_reducible repeat' (first | assumption | apply State.cmd_keeps | apply State.tailWrite_keeps | apply State.wakeHive_keeps | apply Keeps.ite
                                | (intro _ _; try dsimp only) | (split <;> try dsimp only))

theorem State.descAccept_keeps {pm : Parts} {st0 : State} {s : State} {h : Nat} {k : Nat} {d : Desc} (hk0 : Keeps pm st0 s) (p_flight : pm.flight =
    true := by assumption) (p_nextId : pm.nextId = true := by assumption) (p_sched : pm.sched = true := by assumption) (p_chans : pm.chans = true :=
    by assumption) (p_fxps : pm.fxps = true := by assumption) (p_mirror : pm.mirror = true := by assumption) (p_journal : pm.journal = true := by
    assumption) (p_power : pm.power = true := by assumption) (p_count : pm.count = true := by assumption) (p_mgmt : pm.mgmt = true := by assumption) :
    Keeps pm st0 (State.descAccept s h k d) := by
  unfold State.descAccept
  try dsimp only
  with_reducible repeat' (first | assumption | apply State.setDesc_keeps | apply State.jAccept_keeps | apply Keeps.ite
                                | (refine Keeps.lit ?_ rfl; first | assumption | apply State.setDesc_keeps | apply State.jAccept_keeps | apply Keeps.ite)
                                | (split <;> try dsimp only))

theorem State.descJournal_keeps {pm : Parts} {st0 : State} {s : State} {h : Nat} {k : Nat} {d : Desc} {st : Nat} {code : Nat} (hk0 : Keeps pm st0 s)
    (p_flight : pm.flight = true := by assumption) (p_nextId : pm.nextId = true := by assumption) (p_sched : pm.sched = true := by assumption)
    (p_chans : pm.chans = true := by assumption) (p_fxps : pm.fxps = true := by assumption) (p_mirror : pm.mirror = true := by assumption) (p_journal
    : pm.journal = true := by assumption) (p_power : pm.power = true := by assumption) (p_count : pm.count = true := by assumption) (p_mgmt : pm.mgmt
    = true := by assumption) : Keeps pm st0 (State.descJournal s h k d st code) := by
  unfold State.descJournal
  try dsimp only
  with_reducible repeat' (first | assumption | apply State.jChange_keeps | apply State.setDesc_keeps | apply Keeps.ite
                                | (refine Keeps.lit ?_ rfl; first | assumption | apply State.jChange_keeps | apply State.setDesc_keeps | apply Keeps.ite)
                                | (split <;> try dsimp only))

theorem State.boundReads_keeps {pm : Parts} {st0 : State} {s : State} {h : Nat} {k : Nat} (hk0 : Keeps pm st0 s) (p_flight : pm.flight = true := by
    assumption) (p_nextId : pm.nextId = true := by assumption) (p_sched : pm.sched = true := by assumption) (p_hives : pm.hives = true := by
    assumption) (p_chans : pm.chans = true := by assumption) (p_err : pm.err = true := by assumption) (p_trace : pm.trace = true := by assumption)
    (p_count : pm.count = true := by assumption) (p_mgmt : pm.mgmt = true := by assumption) : Keeps pm st0 (State.boundReads s h k) := by
  unfold State.boundReads
  try dsimp only
  with_reducible repeat' (first | assumption | apply State.setDesc_keeps | apply State.chanReq_keeps | apply Keeps.ite | apply Keeps.foldl
                                | refine Keeps.foldlP ?_ ?_ | (intro _ _ _; try dsimp only) | (split <;> try dsimp only))

theorem State.descCheck_keeps {pm : Parts} {st0 : State} {s : State} {h : Nat} {k : Nat} {d : Desc} (hk0 : Keeps pm st0 s) (p_flight : pm.flight =
    true := by assumption) (p_nextId : pm.nextId = true := by assumption) (p_free : pm.free = true := by assumption) (p_sched : pm.sched = true := by
    assumption) (p_mem : pm.mem = true := by assumption) (p_hives : pm.hives = true := by assumption) (p_wins : pm.wins = true := by assumption)
    (p_chans : pm.chans = true := by assumption) (p_tiers : pm.tiers = true := by assumption) (p_fxps : pm.fxps = true := by assumption) (p_err :
    pm.err = true := by assumption) (p_mirror : pm.mirror = true := by assumption) (p_power : pm.power = true := by assumption) (p_trace : pm.trace =
    true := by assumption) (p_count : pm.count = true := by assumption) (p_mgmt : pm.mgmt = true := by assumption) : Keeps pm st0 (State.descCheck s h
    k d) := by
  unfold State.descCheck
  try dsimp only
  with_reducible repeat' (first | assumption | apply State.chanHalt_keeps | apply State.chanHandleHalt_keeps | apply State.setDesc_keeps
                                | apply State.boundReads_keeps | apply Keeps.ite | (split <;> try dsimp only))

theorem execDescFetch_keeps {pm : Parts} {st0 : State} {h : HiveId} {k : ChanId} {s : State} (hk0 : Keeps pm st0 s) (p_flight : pm.flight = true := by
    assumption) (p_nextId : pm.nextId = true := by assumption) (p_free : pm.free = true := by assumption) (p_sched : pm.sched = true := by assumption)
    (p_mem : pm.mem = true := by assumption) (p_hives : pm.hives = true := by assumption) (p_wins : pm.wins = true := by assumption) (p_chans :
    pm.chans = true := by assumption) (p_tiers : pm.tiers = true := by assumption) (p_fxps : pm.fxps = true := by assumption) (p_err : pm.err = true
    := by assumption) (p_mirror : pm.mirror = true := by assumption) (p_journal : pm.journal = true := by assumption) (p_power : pm.power = true := by
    assumption) (p_trace : pm.trace = true := by assumption) (p_count : pm.count = true := by assumption) (p_mgmt : pm.mgmt = true := by assumption) :
    ∃ u0, execDescFetch h k s = .next u0 ∧ Keeps pm st0 u0 := by
  unfold execDescFetch
  refine ⟨_, rfl, ?_⟩
  try dsimp only
  with_reducible repeat' (first | assumption | apply State.chanHalt_keeps | apply State.setChan_keeps | apply State.setDesc_keeps
                                | apply State.descAccept_keeps | apply State.descCheck_keeps | apply Keeps.ite | (split <;> try dsimp only))

theorem execBoundWordReturn_keeps {pm : Parts} {st0 : State} {h : HiveId} {k : ChanId} {s : State} (hk0 : Keeps pm st0 s) (p_flight : pm.flight = true
    := by assumption) (p_nextId : pm.nextId = true := by assumption) (p_free : pm.free = true := by assumption) (p_sched : pm.sched = true := by
    assumption) (p_mem : pm.mem = true := by assumption) (p_hives : pm.hives = true := by assumption) (p_wins : pm.wins = true := by assumption)
    (p_chans : pm.chans = true := by assumption) (p_tiers : pm.tiers = true := by assumption) (p_fxps : pm.fxps = true := by assumption) (p_err :
    pm.err = true := by assumption) (p_mirror : pm.mirror = true := by assumption) (p_power : pm.power = true := by assumption) (p_trace : pm.trace =
    true := by assumption) (p_count : pm.count = true := by assumption) (p_mgmt : pm.mgmt = true := by assumption) : ∃ u0, execBoundWordReturn h k s =
    .next u0 ∧ Keeps pm st0 u0 := by
  unfold execBoundWordReturn
  refine ⟨_, rfl, ?_⟩
  try dsimp only
  with_reducible repeat' (first | assumption | apply State.chanHalt_keeps | apply State.setDesc_keeps | apply Keeps.ite | (split <;> try dsimp only))

theorem State.descIssued_keeps {pm : Parts} {st0 : State} {s : State} {h : Nat} {k : Nat} {d : Desc} (hk0 : Keeps pm st0 s) (p_flight : pm.flight =
    true := by assumption) (p_nextId : pm.nextId = true := by assumption) (p_sched : pm.sched = true := by assumption) (p_chans : pm.chans = true :=
    by assumption) (p_fxps : pm.fxps = true := by assumption) (p_mirror : pm.mirror = true := by assumption) (p_journal : pm.journal = true := by
    assumption) (p_power : pm.power = true := by assumption) (p_count : pm.count = true := by assumption) (p_mgmt : pm.mgmt = true := by assumption) :
    Keeps pm st0 (State.descIssued s h k d) := by
  unfold State.descIssued
  try dsimp only
  with_reducible repeat' (first | assumption | apply State.setDesc_keeps | apply State.descJournal_keeps | apply Keeps.ite
                                | (refine Keeps.lit ?_ rfl; first | assumption | apply State.setDesc_keeps | apply State.descJournal_keeps | apply Keeps.ite)
                                | (split <;> try dsimp only))

theorem State.descRegister_keeps {pm : Parts} {st0 : State} {s : State} {h : Nat} {k : Nat} {d : Desc} {lo : Nat} {hi : Nat} (hk0 : Keeps pm st0 s)
    (p_nextId : pm.nextId = true := by assumption) (p_hives : pm.hives = true := by assumption) : Keeps pm st0 (State.descRegister s h k d lo hi).1 :=
    by
  unfold State.descRegister
  try dsimp only
  with_reducible repeat' (first | assumption | apply State.sbAdd_keeps | apply Keeps.ite | (apply Keeps.iteFst <;> try dsimp only)
                                | (refine Keeps.lit ?_ rfl; first | assumption | apply State.sbAdd_keeps | apply Keeps.ite)
                                | (split <;> try dsimp only))

theorem State.dmaIssue_keeps {pm : Parts} {st0 : State} {s : State} {h : Nat} {k : Nat} {op : Nat} (hk0 : Keeps pm st0 s) (p_flight : pm.flight = true
    := by assumption) (p_nextId : pm.nextId = true := by assumption) (p_free : pm.free = true := by assumption) (p_sched : pm.sched = true := by
    assumption) (p_mem : pm.mem = true := by assumption) (p_hives : pm.hives = true := by assumption) (p_wins : pm.wins = true := by assumption)
    (p_chans : pm.chans = true := by assumption) (p_tiers : pm.tiers = true := by assumption) (p_fxps : pm.fxps = true := by assumption) (p_err :
    pm.err = true := by assumption) (p_mirror : pm.mirror = true := by assumption) (p_journal : pm.journal = true := by assumption) (p_power :
    pm.power = true := by assumption) (p_trace : pm.trace = true := by assumption) (p_count : pm.count = true := by assumption) (p_mgmt : pm.mgmt =
    true := by assumption) : Keeps pm st0 (State.dmaIssue s h k op) := by
  unfold State.dmaIssue
  try dsimp only
  with_reducible repeat' (first | assumption | apply State.chanHandleHalt_keeps | apply State.descRegister_keeps | apply State.descIssued_keeps
                                | apply State.sbDrop_keeps | apply State.setDesc_keeps | apply Keeps.ite | (refine Keeps.ofFst (by assumption) ?_)
                                | (apply Keeps.iteFst <;> try dsimp only) | (split <;> try dsimp only))

theorem execDmaTile_keeps {pm : Parts} {st0 : State} {h : HiveId} {k : ChanId} {s : State} (hk0 : Keeps pm st0 s) (p_flight : pm.flight = true := by
    assumption) (p_nextId : pm.nextId = true := by assumption) (p_free : pm.free = true := by assumption) (p_sched : pm.sched = true := by assumption)
    (p_mem : pm.mem = true := by assumption) (p_hives : pm.hives = true := by assumption) (p_wins : pm.wins = true := by assumption) (p_chans :
    pm.chans = true := by assumption) (p_tiers : pm.tiers = true := by assumption) (p_fxps : pm.fxps = true := by assumption) (p_err : pm.err = true
    := by assumption) (p_mirror : pm.mirror = true := by assumption) (p_journal : pm.journal = true := by assumption) (p_power : pm.power = true := by
    assumption) (p_trace : pm.trace = true := by assumption) (p_count : pm.count = true := by assumption) (p_mgmt : pm.mgmt = true := by assumption) :
    ∃ u0, execDmaTile h k s = .next u0 ∧ Keeps pm st0 u0 := by
  unfold execDmaTile
  refine ⟨_, rfl, ?_⟩
  try dsimp only
  with_reducible repeat' (first | assumption | apply State.dmaIssue_keeps | (split <;> try dsimp only))

theorem execDmaFill_keeps {pm : Parts} {st0 : State} {h : HiveId} {k : ChanId} {s : State} (hk0 : Keeps pm st0 s) (p_flight : pm.flight = true := by
    assumption) (p_nextId : pm.nextId = true := by assumption) (p_free : pm.free = true := by assumption) (p_sched : pm.sched = true := by assumption)
    (p_mem : pm.mem = true := by assumption) (p_hives : pm.hives = true := by assumption) (p_wins : pm.wins = true := by assumption) (p_chans :
    pm.chans = true := by assumption) (p_tiers : pm.tiers = true := by assumption) (p_fxps : pm.fxps = true := by assumption) (p_err : pm.err = true
    := by assumption) (p_mirror : pm.mirror = true := by assumption) (p_journal : pm.journal = true := by assumption) (p_power : pm.power = true := by
    assumption) (p_trace : pm.trace = true := by assumption) (p_count : pm.count = true := by assumption) (p_mgmt : pm.mgmt = true := by assumption) :
    ∃ u0, execDmaFill h k s = .next u0 ∧ Keeps pm st0 u0 := by
  unfold execDmaFill
  refine ⟨_, rfl, ?_⟩
  try dsimp only
  with_reducible repeat' (first | assumption | apply State.dmaIssue_keeps | (split <;> try dsimp only))

theorem execDmaCopy_keeps {pm : Parts} {st0 : State} {h : HiveId} {k : ChanId} {s : State} (hk0 : Keeps pm st0 s) (p_flight : pm.flight = true := by
    assumption) (p_nextId : pm.nextId = true := by assumption) (p_free : pm.free = true := by assumption) (p_sched : pm.sched = true := by assumption)
    (p_mem : pm.mem = true := by assumption) (p_hives : pm.hives = true := by assumption) (p_wins : pm.wins = true := by assumption) (p_chans :
    pm.chans = true := by assumption) (p_tiers : pm.tiers = true := by assumption) (p_fxps : pm.fxps = true := by assumption) (p_err : pm.err = true
    := by assumption) (p_mirror : pm.mirror = true := by assumption) (p_journal : pm.journal = true := by assumption) (p_power : pm.power = true := by
    assumption) (p_trace : pm.trace = true := by assumption) (p_count : pm.count = true := by assumption) (p_mgmt : pm.mgmt = true := by assumption) :
    ∃ u0, execDmaCopy h k s = .next u0 ∧ Keeps pm st0 u0 := by
  unfold execDmaCopy
  refine ⟨_, rfl, ?_⟩
  try dsimp only
  with_reducible repeat' (first | assumption | apply State.dmaIssue_keeps | (split <;> try dsimp only))

theorem execDmaNop_keeps {pm : Parts} {st0 : State} {h : HiveId} {k : ChanId} {s : State} (hk0 : Keeps pm st0 s) (p_flight : pm.flight = true := by
    assumption) (p_nextId : pm.nextId = true := by assumption) (p_free : pm.free = true := by assumption) (p_sched : pm.sched = true := by assumption)
    (p_mem : pm.mem = true := by assumption) (p_hives : pm.hives = true := by assumption) (p_wins : pm.wins = true := by assumption) (p_chans :
    pm.chans = true := by assumption) (p_tiers : pm.tiers = true := by assumption) (p_fxps : pm.fxps = true := by assumption) (p_err : pm.err = true
    := by assumption) (p_mirror : pm.mirror = true := by assumption) (p_journal : pm.journal = true := by assumption) (p_power : pm.power = true := by
    assumption) (p_trace : pm.trace = true := by assumption) (p_count : pm.count = true := by assumption) (p_mgmt : pm.mgmt = true := by assumption) :
    ∃ u0, execDmaNop h k s = .next u0 ∧ Keeps pm st0 u0 := by
  unfold execDmaNop
  refine ⟨_, rfl, ?_⟩
  try dsimp only
  with_reducible repeat' (first | assumption | apply State.chanHandleHalt_keeps | apply State.descIssued_keeps | apply State.setDesc_keeps
                                | (split <;> try dsimp only))

theorem execDmaMove_keeps {pm : Parts} {st0 : State} {h : HiveId} {k : ChanId} {s : State} (hk0 : Keeps pm st0 s) (p_flight : pm.flight = true := by
    assumption) (p_nextId : pm.nextId = true := by assumption) (p_free : pm.free = true := by assumption) (p_sched : pm.sched = true := by assumption)
    (p_mem : pm.mem = true := by assumption) (p_hives : pm.hives = true := by assumption) (p_wins : pm.wins = true := by assumption) (p_chans :
    pm.chans = true := by assumption) (p_tiers : pm.tiers = true := by assumption) (p_fxps : pm.fxps = true := by assumption) (p_err : pm.err = true
    := by assumption) (p_mirror : pm.mirror = true := by assumption) (p_journal : pm.journal = true := by assumption) (p_power : pm.power = true := by
    assumption) (p_trace : pm.trace = true := by assumption) (p_count : pm.count = true := by assumption) (p_mgmt : pm.mgmt = true := by assumption) :
    ∃ u0, execDmaMove h k s = .next u0 ∧ Keeps pm st0 u0 := by
  unfold execDmaMove
  refine ⟨_, rfl, ?_⟩
  try dsimp only
  with_reducible repeat' (first | assumption | apply State.chanHandleHalt_keeps | apply State.chanHalt_keeps | apply State.descIssued_keeps
                                | apply Keeps.ite
                                | (refine Keeps.lit ?_ rfl; first | assumption | apply State.chanHandleHalt_keeps | apply State.chanHalt_keeps | apply State.descIssued_keeps | apply Keeps.ite)
                                | (split <;> try dsimp only))

theorem State.moveCommit_keeps {pm : Parts} {st0 : State} {s : State} {m : Move} (hk0 : Keeps pm st0 s) (p_flight : pm.flight = true := by assumption)
    (p_nextId : pm.nextId = true := by assumption) (p_sched : pm.sched = true := by assumption) (p_hives : pm.hives = true := by assumption) (p_wins :
    pm.wins = true := by assumption) (p_chans : pm.chans = true := by assumption) (p_jobs : pm.jobs = true := by assumption) (p_fxps : pm.fxps = true
    := by assumption) (p_err : pm.err = true := by assumption) (p_power : pm.power = true := by assumption) (p_trace : pm.trace = true := by
    assumption) (p_count : pm.count = true := by assumption) (p_mgmt : pm.mgmt = true := by assumption) : Keeps pm st0 (State.moveCommit s m) := by
  unfold State.moveCommit
  try dsimp only
  with_reducible repeat' (first | assumption | apply State.setHandle_keeps | apply State.setDesc_keeps | apply State.sxpRetry_keeps
                                | (refine Keeps.flight ?_ (fun n hn => numbered_map hn (fun y => ?_)) rfl; first | assumption | apply State.setHandle_keeps)
                                | apply Keeps.ite
                                | (refine Keeps.lit ?_ rfl; first | assumption | apply State.setHandle_keeps | apply State.setDesc_keeps | apply State.sxpRetry_keeps | (refine Keeps.flight ?_ (fun n hn => numbered_map hn (fun y => ?_)) rfl; first | assumption | apply State.setHandle_keeps) | apply Keeps.ite)
                                | (split <;> try dsimp only))

theorem execMovePassEnd_keeps {pm : Parts} {st0 : State} {h : HiveId} {s : State} (hk0 : Keeps pm st0 s) (p_flight : pm.flight = true := by
    assumption) (p_nextId : pm.nextId = true := by assumption) (p_sched : pm.sched = true := by assumption) (p_hives : pm.hives = true := by
    assumption) (p_wins : pm.wins = true := by assumption) (p_chans : pm.chans = true := by assumption) (p_jobs : pm.jobs = true := by assumption)
    (p_fxps : pm.fxps = true := by assumption) (p_err : pm.err = true := by assumption) (p_power : pm.power = true := by assumption) (p_trace :
    pm.trace = true := by assumption) (p_count : pm.count = true := by assumption) (p_mgmt : pm.mgmt = true := by assumption) : ∃ u0, execMovePassEnd
    h s = .next u0 ∧ Keeps pm st0 u0 := by
  unfold execMovePassEnd
  refine ⟨_, rfl, ?_⟩
  try dsimp only
  with_reducible repeat' (first | assumption | apply State.moveCommit_keeps | apply Keeps.ite
                                | (refine Keeps.lit ?_ rfl; first | assumption | apply State.moveCommit_keeps | apply Keeps.ite)
                                | (split <;> try dsimp only))

theorem State.moveAsked_keeps {pm : Parts} {st0 : State} {s : State} {h : Nat} {k : Nat} {o : Offer} (hk0 : Keeps pm st0 s) (p_hives : pm.hives = true
    := by assumption) : Keeps pm st0 (State.moveAsked s h k o) := by
  unfold State.moveAsked
  try dsimp only
  with_reducible repeat' (first | assumption | apply Keeps.ite | (refine Keeps.lit ?_ rfl; first | assumption | apply Keeps.ite)
                                | (split <;> try dsimp only))

theorem State.sendOffer_keeps {pm : Parts} {st0 : State} {s : State} {h : Nat} {k : Nat} {grp : Nat} {dir : Nat} {dest : Nat} {o : Offer} (hk0 : Keeps
    pm st0 s) (p_flight : pm.flight = true := by assumption) (p_nextId : pm.nextId = true := by assumption) (p_sched : pm.sched = true := by
    assumption) (p_hives : pm.hives = true := by assumption) (p_wins : pm.wins = true := by assumption) (p_chans : pm.chans = true := by assumption)
    (p_fxps : pm.fxps = true := by assumption) (p_err : pm.err = true := by assumption) (p_power : pm.power = true := by assumption) (p_trace :
    pm.trace = true := by assumption) (p_count : pm.count = true := by assumption) (p_mgmt : pm.mgmt = true := by assumption) : Keeps pm st0
    (State.sendOffer s h k grp dir dest o) := by
  unfold State.sendOffer
  try dsimp only
  with_reducible repeat' (first | assumption | apply State.addX_keeps | apply State.moveAsked_keeps | apply State.windowLine_keeps
                                | apply State.issue_keeps | apply State.setDesc_keeps | apply Keeps.ite | (split <;> try dsimp only))

theorem State.chanOffer_keeps {pm : Parts} {st0 : State} {a0 : Nat} {a1 : State} {a2 : Nat} {a3 : Nat} {a4 : List Nat} {a5 : Bool} (hk0 : Keeps pm st0
    a1) (p_flight : pm.flight = true := by assumption) (p_nextId : pm.nextId = true := by assumption) (p_free : pm.free = true := by assumption)
    (p_sched : pm.sched = true := by assumption) (p_mem : pm.mem = true := by assumption) (p_hives : pm.hives = true := by assumption) (p_wins :
    pm.wins = true := by assumption) (p_chans : pm.chans = true := by assumption) (p_tiers : pm.tiers = true := by assumption) (p_fxps : pm.fxps =
    true := by assumption) (p_err : pm.err = true := by assumption) (p_mirror : pm.mirror = true := by assumption) (p_power : pm.power = true := by
    assumption) (p_trace : pm.trace = true := by assumption) (p_count : pm.count = true := by assumption) (p_mgmt : pm.mgmt = true := by assumption) :
    Keeps pm st0 (State.chanOffer a0 a1 a2 a3 a4 a5).1 := by
  induction a0 generalizing a1 a2 a3 a4 a5 with
  | zero =>
    unfold State.chanOffer
    try dsimp only
    with_reducible repeat' (first | assumption | apply State.setDesc_keeps | apply State.chanHalt_keeps | apply ih | apply Keeps.ite
                                  | (refine Keeps.ofFst (by assumption) ?_) | (apply Keeps.iteFst <;> try dsimp only) | (split <;> try dsimp only))
  | succ n ih =>
    unfold State.chanOffer
    try dsimp only
    with_reducible repeat' (first | assumption | apply State.setDesc_keeps | apply State.chanHalt_keeps | apply ih | apply Keeps.ite
                                  | (refine Keeps.ofFst (by assumption) ?_) | (apply Keeps.iteFst <;> try dsimp only) | (split <;> try dsimp only))

theorem State.chanLines_keeps {pm : Parts} {st0 : State} {a0 : Nat} {a1 : State} {a2 : Nat} {a3 : Nat} {a4 : Nat} {a5 : List Nat} {a6 : Bool} (hk0 :
    Keeps pm st0 a1) (p_flight : pm.flight = true := by assumption) (p_nextId : pm.nextId = true := by assumption) (p_free : pm.free = true := by
    assumption) (p_sched : pm.sched = true := by assumption) (p_mem : pm.mem = true := by assumption) (p_hives : pm.hives = true := by assumption)
    (p_wins : pm.wins = true := by assumption) (p_chans : pm.chans = true := by assumption) (p_tiers : pm.tiers = true := by assumption) (p_fxps :
    pm.fxps = true := by assumption) (p_err : pm.err = true := by assumption) (p_mirror : pm.mirror = true := by assumption) (p_power : pm.power =
    true := by assumption) (p_trace : pm.trace = true := by assumption) (p_count : pm.count = true := by assumption) (p_mgmt : pm.mgmt = true := by
    assumption) : Keeps pm st0 (State.chanLines a0 a1 a2 a3 a4 a5 a6).1 := by
  induction a0 generalizing a1 a2 a3 a4 a5 a6 with
  | zero =>
    unfold State.chanLines
    try dsimp only
    with_reducible repeat' (first | assumption | apply State.chanOffer_keeps | apply State.sendOffer_keeps | apply ih | apply Keeps.ite
                                  | (refine Keeps.ofFst (by assumption) ?_) | (apply Keeps.iteFst <;> try dsimp only) | (split <;> try dsimp only))
  | succ n ih =>
    unfold State.chanLines
    try dsimp only
    with_reducible repeat' (first | assumption | apply State.chanOffer_keeps | apply State.sendOffer_keeps | apply ih | apply Keeps.ite
                                  | (refine Keeps.ofFst (by assumption) ?_) | (apply Keeps.iteFst <;> try dsimp only) | (split <;> try dsimp only))

theorem State.markBurst_keeps {pm : Parts} {st0 : State} {s : State} {k : Nat} {first : Nat} (hk0 : Keeps pm st0 s) (p_flight : pm.flight = true := by
    assumption) : Keeps pm st0 (State.markBurst s k first) := by
  unfold State.markBurst
  try dsimp only
  with_reducible repeat' (first | assumption
                                | (refine Keeps.flight ?_ (fun n hn => numbered_map hn (fun y => ?_)) rfl; first | assumption | assumption)
                                | apply Keeps.ite
                                | (refine Keeps.lit ?_ rfl; first | assumption | (refine Keeps.flight ?_ (fun n hn => numbered_map hn (fun y => ?_)) rfl; first | assumption | assumption) | apply Keeps.ite)
                                | (split <;> try dsimp only))

theorem dxpTake_keeps {pm : Parts} {st0 : State} {h : Nat} {sched : Bool} {p : State × List Nat × Option Nat} {k : Nat} (hk0 : Keeps pm st0 p.1)
    (p_flight : pm.flight = true := by assumption) (p_nextId : pm.nextId = true := by assumption) (p_free : pm.free = true := by assumption) (p_sched
    : pm.sched = true := by assumption) (p_mem : pm.mem = true := by assumption) (p_hives : pm.hives = true := by assumption) (p_wins : pm.wins = true
    := by assumption) (p_chans : pm.chans = true := by assumption) (p_tiers : pm.tiers = true := by assumption) (p_fxps : pm.fxps = true := by
    assumption) (p_err : pm.err = true := by assumption) (p_mirror : pm.mirror = true := by assumption) (p_power : pm.power = true := by assumption)
    (p_trace : pm.trace = true := by assumption) (p_count : pm.count = true := by assumption) (p_mgmt : pm.mgmt = true := by assumption) : Keeps pm
    st0 (dxpTake h sched p k).1 := by
  unfold dxpTake
  try dsimp only
  with_reducible repeat' (first | assumption | apply State.chanLines_keeps | apply Keeps.ite | (refine Keeps.ofFst (by assumption) ?_)
                                | (apply Keeps.iteFst <;> try dsimp only) | (split <;> try dsimp only))

theorem State.dxpBurst_keeps {pm : Parts} {st0 : State} {s : State} {h : Nat} {k : Nat} {first : Nat} {used : List Nat} (hk0 : Keeps pm st0 s)
    (p_flight : pm.flight = true := by assumption) (p_nextId : pm.nextId = true := by assumption) (p_free : pm.free = true := by assumption) (p_sched
    : pm.sched = true := by assumption) (p_mem : pm.mem = true := by assumption) (p_hives : pm.hives = true := by assumption) (p_wins : pm.wins = true
    := by assumption) (p_chans : pm.chans = true := by assumption) (p_tiers : pm.tiers = true := by assumption) (p_fxps : pm.fxps = true := by
    assumption) (p_err : pm.err = true := by assumption) (p_mirror : pm.mirror = true := by assumption) (p_power : pm.power = true := by assumption)
    (p_trace : pm.trace = true := by assumption) (p_count : pm.count = true := by assumption) (p_mgmt : pm.mgmt = true := by assumption) : Keeps pm
    st0 (State.dxpBurst s h k first used) := by
  unfold State.dxpBurst
  try dsimp only
  with_reducible repeat' (first | assumption | apply State.chanLines_keeps | apply State.occupy_keeps | apply State.markBurst_keeps | apply Keeps.ite
                                | (refine Keeps.ofFst (by assumption) ?_) | (apply Keeps.iteFst <;> try dsimp only) | (split <;> try dsimp only))

theorem State.dxpEnd_keeps {pm : Parts} {st0 : State} {s : State} {h : Nat} {first : Nat} {used : List Nat} {turn : Option Nat} (hk0 : Keeps pm st0 s)
    (p_flight : pm.flight = true := by assumption) (p_nextId : pm.nextId = true := by assumption) (p_free : pm.free = true := by assumption) (p_sched
    : pm.sched = true := by assumption) (p_mem : pm.mem = true := by assumption) (p_hives : pm.hives = true := by assumption) (p_wins : pm.wins = true
    := by assumption) (p_chans : pm.chans = true := by assumption) (p_chTurn : pm.chTurn = true := by assumption) (p_tiers : pm.tiers = true := by
    assumption) (p_fxps : pm.fxps = true := by assumption) (p_err : pm.err = true := by assumption) (p_mirror : pm.mirror = true := by assumption)
    (p_power : pm.power = true := by assumption) (p_trace : pm.trace = true := by assumption) (p_count : pm.count = true := by assumption) (p_mgmt :
    pm.mgmt = true := by assumption) : Keeps pm st0 (State.dxpEnd s h first used turn) := by
  unfold State.dxpEnd
  try dsimp only
  with_reducible repeat' (first | assumption | apply State.dxpBurst_keeps | apply State.occupy_keeps | apply Keeps.ite
                                | (refine Keeps.lit ?_ rfl; first | assumption | apply State.dxpBurst_keeps | apply State.occupy_keeps | apply Keeps.ite)
                                | (split <;> try dsimp only))

theorem State.dxpRequest_keeps {pm : Parts} {st0 : State} {s : State} {h : Nat} (hk0 : Keeps pm st0 s) (p_flight : pm.flight = true := by assumption)
    (p_nextId : pm.nextId = true := by assumption) (p_free : pm.free = true := by assumption) (p_sched : pm.sched = true := by assumption) (p_mem :
    pm.mem = true := by assumption) (p_hives : pm.hives = true := by assumption) (p_wins : pm.wins = true := by assumption) (p_chans : pm.chans = true
    := by assumption) (p_chTurn : pm.chTurn = true := by assumption) (p_tiers : pm.tiers = true := by assumption) (p_fxps : pm.fxps = true := by
    assumption) (p_err : pm.err = true := by assumption) (p_mirror : pm.mirror = true := by assumption) (p_power : pm.power = true := by assumption)
    (p_trace : pm.trace = true := by assumption) (p_count : pm.count = true := by assumption) (p_mgmt : pm.mgmt = true := by assumption) : Keeps pm
    st0 (State.dxpRequest s h) := by
  unfold State.dxpRequest
  try dsimp only
  with_reducible repeat' (first | assumption | apply dxpTake_keeps | apply State.dxpEnd_keeps | apply Keeps.foldl
                                | (refine Keeps.ofFst (by assumption) ?_) | refine Keeps.foldlP ?_ ?_ | (intro _ _ _; try dsimp only)
                                | (split <;> try dsimp only))

theorem State.pauseTry_keeps {pm : Parts} {st0 : State} {s : State} {h : Nat} {k : Nat} (hk0 : Keeps pm st0 s) (p_chans : pm.chans = true := by
    assumption) : Keeps pm st0 (State.pauseTry s h k) := by
  unfold State.pauseTry
  try dsimp only
  with_reducible repeat' (first | assumption | apply State.setChan_keeps | apply Keeps.ite | (split <;> try dsimp only))

theorem State.chanPump_keeps {pm : Parts} {st0 : State} {s : State} {h : Nat} (hk0 : Keeps pm st0 s) (p_flight : pm.flight = true := by assumption)
    (p_nextId : pm.nextId = true := by assumption) (p_free : pm.free = true := by assumption) (p_sched : pm.sched = true := by assumption) (p_mem :
    pm.mem = true := by assumption) (p_hives : pm.hives = true := by assumption) (p_wins : pm.wins = true := by assumption) (p_chans : pm.chans = true
    := by assumption) (p_tiers : pm.tiers = true := by assumption) (p_fxps : pm.fxps = true := by assumption) (p_err : pm.err = true := by assumption)
    (p_mirror : pm.mirror = true := by assumption) (p_journal : pm.journal = true := by assumption) (p_power : pm.power = true := by assumption)
    (p_trace : pm.trace = true := by assumption) (p_count : pm.count = true := by assumption) (p_mgmt : pm.mgmt = true := by assumption) : Keeps pm
    st0 (State.chanPump s h) := by
  unfold State.chanPump
  try dsimp only
  with_reducible repeat' (first | assumption | apply State.boundReads_keeps | apply State.pauseTry_keeps | apply State.tailApply_keeps
                                | apply State.dxpPump_keeps | apply State.descAccept_keeps | apply State.chanIdle_keeps | apply State.chanFetch_keeps
                                | apply Keeps.ite | apply Keeps.foldl | refine Keeps.foldlP ?_ ?_ | (intro _ _ _; try dsimp only)
                                | (split <;> try dsimp only))

theorem execDmaLinePresent_keeps {pm : Parts} {st0 : State} {h : HiveId} {s : State} (hk0 : Keeps pm st0 s) (p_flight : pm.flight = true := by
    assumption) (p_nextId : pm.nextId = true := by assumption) (p_free : pm.free = true := by assumption) (p_sched : pm.sched = true := by assumption)
    (p_mem : pm.mem = true := by assumption) (p_hives : pm.hives = true := by assumption) (p_wins : pm.wins = true := by assumption) (p_chans :
    pm.chans = true := by assumption) (p_chTurn : pm.chTurn = true := by assumption) (p_tiers : pm.tiers = true := by assumption) (p_fxps : pm.fxps =
    true := by assumption) (p_err : pm.err = true := by assumption) (p_mirror : pm.mirror = true := by assumption) (p_journal : pm.journal = true :=
    by assumption) (p_power : pm.power = true := by assumption) (p_trace : pm.trace = true := by assumption) (p_count : pm.count = true := by
    assumption) (p_mgmt : pm.mgmt = true := by assumption) : ∃ u0, execDmaLinePresent h s = .next u0 ∧ Keeps pm st0 u0 := by
  unfold execDmaLinePresent
  refine ⟨_, rfl, ?_⟩
  try dsimp only
  with_reducible repeat' (first | assumption | apply State.dxpPump_keeps | apply State.chanPump_keeps | apply State.dxpRequest_keeps | apply Keeps.ite
                                | (split <;> try dsimp only))

theorem State.runAccess_keeps {pm : Parts} {st0 : State} {s : State} {y : Xact} {kind : AccKind} {ga : Nat} {i : Nat} {mask : Dword} {d : Line} (hk0 :
    Keeps pm st0 s) (p_flight : pm.flight = true := by assumption) (p_nextId : pm.nextId = true := by assumption) (p_sched : pm.sched = true := by
    assumption) (p_hives : pm.hives = true := by assumption) (p_err : pm.err = true := by assumption) (p_trace : pm.trace = true := by assumption)
    (p_count : pm.count = true := by assumption) (p_mgmt : pm.mgmt = true := by assumption) : Keeps pm st0 (State.runAccess s y kind ga i mask d) :=
    by
  unfold State.runAccess
  try dsimp only
  with_reducible repeat' (first | assumption | apply State.addX_keeps | apply State.mipCheck_keeps | apply State.setX_keeps | apply Keeps.ite
                                | (split <;> try dsimp only))

theorem State.cmdLineWrite_keeps {pm : Parts} {st0 : State} {s : State} {y : Xact} {all : Nat} {i : Nat} (hk0 : Keeps pm st0 s) (p_flight : pm.flight
    = true := by assumption) (p_nextId : pm.nextId = true := by assumption) (p_sched : pm.sched = true := by assumption) (p_hives : pm.hives = true :=
    by assumption) (p_err : pm.err = true := by assumption) (p_trace : pm.trace = true := by assumption) (p_count : pm.count = true := by assumption)
    (p_mgmt : pm.mgmt = true := by assumption) : Keeps pm st0 (State.cmdLineWrite s y all i) := by
  unfold State.cmdLineWrite
  try dsimp only
  with_reducible repeat' (first | assumption | apply State.runAccess_keeps | (split <;> try dsimp only))

theorem State.runDone_keeps {pm : Parts} {st0 : State} {s : State} {cmd : Nat} (hk0 : Keeps pm st0 s) (p_flight : pm.flight = true := by assumption) :
    Keeps pm st0 (State.runDone s cmd) := by
  unfold State.runDone
  try dsimp only
  with_reducible repeat' (first | assumption | apply State.answer_keeps | apply Keeps.ite | (split <;> try dsimp only))

theorem State.copyWrites_keeps {pm : Parts} {st0 : State} {s : State} {y : Xact} (hk0 : Keeps pm st0 s) (p_flight : pm.flight = true := by assumption)
    (p_nextId : pm.nextId = true := by assumption) (p_sched : pm.sched = true := by assumption) (p_hives : pm.hives = true := by assumption) (p_err :
    pm.err = true := by assumption) (p_trace : pm.trace = true := by assumption) (p_count : pm.count = true := by assumption) (p_mgmt : pm.mgmt = true
    := by assumption) : Keeps pm st0 (State.copyWrites s y) := by
  unfold State.copyWrites
  try dsimp only
  with_reducible repeat' (first | assumption | apply State.runDone_keeps | apply State.cmdLineWrite_keeps | apply State.setX_keeps
                                | (refine Keeps.flight ?_ (fun n hn => numbered_filter hn) rfl; assumption) | apply Keeps.ite | apply Keeps.foldl
                                | refine Keeps.foldlP ?_ ?_
                                | (refine Keeps.lit ?_ rfl; first | assumption | apply State.runDone_keeps | apply State.cmdLineWrite_keeps | apply State.setX_keeps | (refine Keeps.flight ?_ (fun n hn => numbered_filter hn) rfl; assumption) | apply Keeps.ite | apply Keeps.foldl)
                                | (intro _ _ _; try dsimp only) | (split <;> try dsimp only))

theorem State.runLineEnd_keeps {pm : Parts} {st0 : State} {s : State} {x : Xact} {cmd : Nat} (hk0 : Keeps pm st0 s) (p_flight : pm.flight = true := by
    assumption) (p_nextId : pm.nextId = true := by assumption) (p_sched : pm.sched = true := by assumption) (p_hives : pm.hives = true := by
    assumption) (p_err : pm.err = true := by assumption) (p_trace : pm.trace = true := by assumption) (p_count : pm.count = true := by assumption)
    (p_mgmt : pm.mgmt = true := by assumption) : Keeps pm st0 (State.runLineEnd s x cmd) := by
  unfold State.runLineEnd
  try dsimp only
  with_reducible repeat' (first | assumption | apply State.runDone_keeps | apply State.setX_keeps | apply State.addX_keeps
                                | apply State.copyWrites_keeps | apply Keeps.ite | (split <;> try dsimp only))

theorem execFillCmdRecv_keeps {pm : Parts} {st0 : State} {x : Nat} {s : State} (hk0 : Keeps pm st0 s) (p_flight : pm.flight = true := by assumption)
    (p_nextId : pm.nextId = true := by assumption) (p_sched : pm.sched = true := by assumption) (p_hives : pm.hives = true := by assumption) (p_err :
    pm.err = true := by assumption) (p_trace : pm.trace = true := by assumption) (p_count : pm.count = true := by assumption) (p_mgmt : pm.mgmt = true
    := by assumption) : ∃ u0, execFillCmdRecv x s = .next u0 ∧ Keeps pm st0 u0 := by
  unfold execFillCmdRecv
  refine ⟨_, rfl, ?_⟩
  try dsimp only
  with_reducible repeat' (first | assumption | apply State.setX_keeps | apply State.runAccess_keeps | apply State.cmdLineWrite_keeps | apply Keeps.ite
                                | apply Keeps.foldl | refine Keeps.foldlP ?_ ?_ | (intro _ _ _; try dsimp only) | (split <;> try dsimp only))

theorem State.footEnd_keeps {pm : Parts} {st0 : State} {s : State} {h : Nat} {k : Nat} {idx : Nat} (hk0 : Keeps pm st0 s) (p_hives : pm.hives = true
    := by assumption) : Keeps pm st0 (State.footEnd s h k idx) := by
  unfold State.footEnd
  try dsimp only
  with_reducible repeat' (first | assumption | apply State.sbDrop_keeps | apply Keeps.ite | (split <;> try dsimp only))

theorem State.descPop_keeps {pm : Parts} {st0 : State} {a0 : Nat} {a1 : State} {a2 : Nat} {a3 : Nat} (hk0 : Keeps pm st0 a1) (p_hives : pm.hives =
    true := by assumption) (p_chans : pm.chans = true := by assumption) : Keeps pm st0 (State.descPop a0 a1 a2 a3) := by
  induction a0 generalizing a1 a2 a3 with
  | zero =>
    unfold State.descPop
    try dsimp only
    with_reducible repeat' (first | assumption | apply State.footEnd_keeps | apply State.setChan_keeps | apply ih | apply Keeps.ite
                                  | (split <;> try dsimp only))
  | succ n ih =>
    unfold State.descPop
    try dsimp only
    with_reducible repeat' (first | assumption | apply State.footEnd_keeps | apply State.setChan_keeps | apply ih | apply Keeps.ite
                                  | (split <;> try dsimp only))

theorem State.chanAdvance_keeps {pm : Parts} {st0 : State} {s : State} {h : Nat} {k : Nat} (hk0 : Keeps pm st0 s) (p_flight : pm.flight = true := by
    assumption) (p_nextId : pm.nextId = true := by assumption) (p_free : pm.free = true := by assumption) (p_sched : pm.sched = true := by assumption)
    (p_mem : pm.mem = true := by assumption) (p_hives : pm.hives = true := by assumption) (p_wins : pm.wins = true := by assumption) (p_chans :
    pm.chans = true := by assumption) (p_tiers : pm.tiers = true := by assumption) (p_fxps : pm.fxps = true := by assumption) (p_err : pm.err = true
    := by assumption) (p_mirror : pm.mirror = true := by assumption) (p_power : pm.power = true := by assumption) (p_trace : pm.trace = true := by
    assumption) (p_count : pm.count = true := by assumption) (p_mgmt : pm.mgmt = true := by assumption) : Keeps pm st0 (State.chanAdvance s h k) := by
  unfold State.chanAdvance
  try dsimp only
  with_reducible repeat' (first | assumption | apply State.chanIdle_keeps | apply State.chanFetch_keeps | apply State.descPop_keeps
                                | (split <;> try dsimp only))

theorem State.descAction_keeps {pm : Parts} {st0 : State} {s : State} {h : Nat} {k : Nat} {d : Desc} (hk0 : Keeps pm st0 s) (p_flight : pm.flight =
    true := by assumption) (p_nextId : pm.nextId = true := by assumption) (p_free : pm.free = true := by assumption) (p_sched : pm.sched = true := by
    assumption) (p_mem : pm.mem = true := by assumption) (p_hives : pm.hives = true := by assumption) (p_wins : pm.wins = true := by assumption)
    (p_chans : pm.chans = true := by assumption) (p_tiers : pm.tiers = true := by assumption) (p_fxps : pm.fxps = true := by assumption) (p_err :
    pm.err = true := by assumption) (p_mirror : pm.mirror = true := by assumption) (p_power : pm.power = true := by assumption) (p_trace : pm.trace =
    true := by assumption) (p_count : pm.count = true := by assumption) (p_mgmt : pm.mgmt = true := by assumption) : Keeps pm st0 (State.descAction s
    h k d) := by
  unfold State.descAction
  try dsimp only
  with_reducible repeat' (first | assumption | apply State.chanAdvance_keeps | apply State.setDesc_keeps | apply State.chanReq_keeps | apply Keeps.ite
                                | (split <;> try dsimp only))

theorem State.persisted_keeps {pm : Parts} {st0 : State} {s : State} {h : Nat} {k : Nat} {d : Desc} (hk0 : Keeps pm st0 s) (p_tiers : pm.tiers = true
    := by assumption) : Keeps pm st0 (State.persisted s h k d).1 := by
  unfold State.persisted
  try dsimp only
  with_reducible repeat' (first | assumption | apply Keeps.ite | (apply Keeps.iteFst <;> try dsimp only)
                                | (refine Keeps.lit ?_ rfl; first | assumption | apply Keeps.ite) | (split <;> try dsimp only))

theorem execDescComplete_keeps {pm : Parts} {st0 : State} {h : HiveId} {k : ChanId} {s : State} (hk0 : Keeps pm st0 s) (p_flight : pm.flight = true :=
    by assumption) (p_nextId : pm.nextId = true := by assumption) (p_free : pm.free = true := by assumption) (p_sched : pm.sched = true := by
    assumption) (p_mem : pm.mem = true := by assumption) (p_hives : pm.hives = true := by assumption) (p_wins : pm.wins = true := by assumption)
    (p_chans : pm.chans = true := by assumption) (p_tiers : pm.tiers = true := by assumption) (p_fxps : pm.fxps = true := by assumption) (p_err :
    pm.err = true := by assumption) (p_mirror : pm.mirror = true := by assumption) (p_journal : pm.journal = true := by assumption) (p_power :
    pm.power = true := by assumption) (p_trace : pm.trace = true := by assumption) (p_count : pm.count = true := by assumption) (p_mgmt : pm.mgmt =
    true := by assumption) : ∃ u0, execDescComplete h k s = .next u0 ∧ Keeps pm st0 u0 := by
  unfold execDescComplete
  refine ⟨_, rfl, ?_⟩
  try dsimp only
  with_reducible repeat' (first | assumption | apply State.descAction_keeps | apply State.persisted_keeps | apply State.descJournal_keeps
                                | apply Keeps.ite | (refine Keeps.ofFst (by assumption) ?_) | (apply Keeps.iteFst <;> try dsimp only)
                                | (split <;> try dsimp only))

theorem State.descEntryDone_keeps {pm : Parts} {st0 : State} {s : State} {h : Nat} {k : Nat} {idx : Nat} (hk0 : Keeps pm st0 s) (p_flight : pm.flight
    = true := by assumption) (p_nextId : pm.nextId = true := by assumption) (p_free : pm.free = true := by assumption) (p_sched : pm.sched = true :=
    by assumption) (p_mem : pm.mem = true := by assumption) (p_hives : pm.hives = true := by assumption) (p_wins : pm.wins = true := by assumption)
    (p_chans : pm.chans = true := by assumption) (p_tiers : pm.tiers = true := by assumption) (p_fxps : pm.fxps = true := by assumption) (p_err :
    pm.err = true := by assumption) (p_mirror : pm.mirror = true := by assumption) (p_power : pm.power = true := by assumption) (p_trace : pm.trace =
    true := by assumption) (p_count : pm.count = true := by assumption) (p_mgmt : pm.mgmt = true := by assumption) : Keeps pm st0 (State.descEntryDone
    s h k idx) := by
  unfold State.descEntryDone
  try dsimp only
  with_reducible repeat' (first | assumption | apply State.setDesc_keeps | apply State.descCheck_keeps | apply State.descAction_keeps
                                | apply State.chanAdvance_keeps | apply Keeps.ite | (split <;> try dsimp only))

theorem State.dmaData_keeps {pm : Parts} {st0 : State} {s : State} {x : Xact} {key : Nat} {idx : Nat} {data : Line} (hk0 : Keeps pm st0 s) (p_chans :
    pm.chans = true := by assumption) : Keeps pm st0 (State.dmaData s x key idx data) := by
  unfold State.dmaData
  try dsimp only
  with_reducible repeat' (first | assumption | apply State.setDesc_keeps | (split <;> try dsimp only))

theorem State.slotData_keeps {pm : Parts} {st0 : State} {s : State} {x : Xact} (hk0 : Keeps pm st0 s) (p_chans : pm.chans = true := by assumption) :
    Keeps pm st0 (State.slotData s x) := by
  unfold State.slotData
  try dsimp only
  with_reducible repeat' (first | assumption | apply State.dmaData_keeps | apply Keeps.ite | (split <;> try dsimp only))

theorem State.boundData_keeps {pm : Parts} {st0 : State} {s : State} {x : Xact} {j : Nat} (hk0 : Keeps pm st0 s) (p_chans : pm.chans = true := by
    assumption) : Keeps pm st0 (State.boundData s x j) := by
  unfold State.boundData
  try dsimp only
  with_reducible repeat' (first | assumption | apply State.dmaData_keeps | apply Keeps.ite | (split <;> try dsimp only))

theorem State.dmaRefused_keeps {pm : Parts} {st0 : State} {s : State} {h : Nat} {k : Nat} {d : Desc} {x : Xact} {n : Nat} (hk0 : Keeps pm st0 s)
    (p_flight : pm.flight = true := by assumption) (p_nextId : pm.nextId = true := by assumption) (p_free : pm.free = true := by assumption) (p_sched
    : pm.sched = true := by assumption) (p_mem : pm.mem = true := by assumption) (p_hives : pm.hives = true := by assumption) (p_wins : pm.wins = true
    := by assumption) (p_chans : pm.chans = true := by assumption) (p_tiers : pm.tiers = true := by assumption) (p_fxps : pm.fxps = true := by
    assumption) (p_err : pm.err = true := by assumption) (p_mirror : pm.mirror = true := by assumption) (p_power : pm.power = true := by assumption)
    (p_trace : pm.trace = true := by assumption) (p_count : pm.count = true := by assumption) (p_mgmt : pm.mgmt = true := by assumption) : Keeps pm
    st0 (State.dmaRefused s h k d x n) := by
  unfold State.dmaRefused
  try dsimp only
  with_reducible repeat' (first | assumption | apply State.faultDoneNow_keeps | apply State.setDesc_keeps | apply State.chanHalt_keeps
                                | apply Keeps.ite | (split <;> try dsimp only))

theorem State.dmaWriteEnd_keeps {pm : Parts} {st0 : State} {s : State} {x : Xact} {idx : Nat} {n : Nat} (hk0 : Keeps pm st0 s) (p_flight : pm.flight =
    true := by assumption) (p_nextId : pm.nextId = true := by assumption) (p_free : pm.free = true := by assumption) (p_sched : pm.sched = true := by
    assumption) (p_mem : pm.mem = true := by assumption) (p_hives : pm.hives = true := by assumption) (p_wins : pm.wins = true := by assumption)
    (p_chans : pm.chans = true := by assumption) (p_tiers : pm.tiers = true := by assumption) (p_fxps : pm.fxps = true := by assumption) (p_err :
    pm.err = true := by assumption) (p_mirror : pm.mirror = true := by assumption) (p_power : pm.power = true := by assumption) (p_trace : pm.trace =
    true := by assumption) (p_count : pm.count = true := by assumption) (p_mgmt : pm.mgmt = true := by assumption) : Keeps pm st0 (State.dmaWriteEnd s
    x idx n) := by
  unfold State.dmaWriteEnd
  try dsimp only
  with_reducible repeat' (first | assumption | apply State.footEnd_keeps | apply State.setDesc_keeps | apply State.chanAdvance_keeps
                                | apply State.faultDoneNow_keeps | apply State.dmaRefused_keeps | apply Keeps.ite | (split <;> try dsimp only))

theorem State.cmplEnd_keeps {pm : Parts} {st0 : State} {s : State} {x : Xact} (hk0 : Keeps pm st0 s) (p_flight : pm.flight = true := by assumption)
    (p_nextId : pm.nextId = true := by assumption) (p_free : pm.free = true := by assumption) (p_sched : pm.sched = true := by assumption) (p_mem :
    pm.mem = true := by assumption) (p_hives : pm.hives = true := by assumption) (p_wins : pm.wins = true := by assumption) (p_chans : pm.chans = true
    := by assumption) (p_tiers : pm.tiers = true := by assumption) (p_fxps : pm.fxps = true := by assumption) (p_err : pm.err = true := by assumption)
    (p_mirror : pm.mirror = true := by assumption) (p_power : pm.power = true := by assumption) (p_trace : pm.trace = true := by assumption) (p_count
    : pm.count = true := by assumption) (p_mgmt : pm.mgmt = true := by assumption) : Keeps pm st0 (State.cmplEnd s x) := by
  unfold State.cmplEnd
  try dsimp only
  with_reducible repeat' (first | assumption | apply State.chanAdvance_keeps | apply State.setDesc_keeps | apply State.chanHalt_keeps
                                | apply Keeps.ite | (split <;> try dsimp only))

theorem State.chanCmd_keeps {pm : Parts} {st0 s : State} {h k : Nat} {i : Instr} {go : State → State} (hk0 : Keeps pm st0 s)
    (hgo : ∀ s, Keeps pm st0 s → Keeps pm st0 (go s)) (p_hives : pm.hives = true := by assumption) : Keeps pm st0 (s.chanCmd h k i go) := by
  unfold State.chanCmd
  refine State.cmd_keeps hk0 (fun t ht => ?_)
  exact Keeps.ite (hgo _ (State.wakeHive_keeps ht)) ht

theorem State.chanResume_keeps {pm : Parts} {st0 : State} {s : State} {h : Nat} {k : Nat} (hk0 : Keeps pm st0 s) (p_flight : pm.flight = true := by
    assumption) (p_nextId : pm.nextId = true := by assumption) (p_free : pm.free = true := by assumption) (p_sched : pm.sched = true := by assumption)
    (p_mem : pm.mem = true := by assumption) (p_hives : pm.hives = true := by assumption) (p_wins : pm.wins = true := by assumption) (p_chans :
    pm.chans = true := by assumption) (p_tiers : pm.tiers = true := by assumption) (p_fxps : pm.fxps = true := by assumption) (p_err : pm.err = true
    := by assumption) (p_mirror : pm.mirror = true := by assumption) (p_power : pm.power = true := by assumption) (p_trace : pm.trace = true := by
    assumption) (p_count : pm.count = true := by assumption) (p_mgmt : pm.mgmt = true := by assumption) : Keeps pm st0 (State.chanResume s h k) := by
  unfold State.chanResume
  try dsimp only
  with_reducible repeat' (first | assumption | apply State.setDesc_keeps | apply State.setChan_keeps | apply State.chanHandleHalt_keeps
                                | apply State.chanReq_keeps | apply Keeps.ite | (split <;> try dsimp only))

theorem execChanResume_keeps {pm : Parts} {st0 : State} {h : HiveId} {k : ChanId} {s : State} (hk0 : Keeps pm st0 s) (p_flight : pm.flight = true :=
    by assumption) (p_nextId : pm.nextId = true := by assumption) (p_free : pm.free = true := by assumption) (p_sched : pm.sched = true := by
    assumption) (p_mem : pm.mem = true := by assumption) (p_hives : pm.hives = true := by assumption) (p_wins : pm.wins = true := by assumption)
    (p_chans : pm.chans = true := by assumption) (p_tiers : pm.tiers = true := by assumption) (p_fxps : pm.fxps = true := by assumption) (p_err :
    pm.err = true := by assumption) (p_mirror : pm.mirror = true := by assumption) (p_power : pm.power = true := by assumption) (p_trace : pm.trace =
    true := by assumption) (p_count : pm.count = true := by assumption) (p_mgmt : pm.mgmt = true := by assumption) : ∃ u0, execChanResume h k s =
    .next u0 ∧ Keeps pm st0 u0 := by
  unfold execChanResume
  refine ⟨_, rfl, ?_⟩
  try dsimp only
  with_reducible repeat' (first | assumption | apply State.chanCmd_keeps | apply State.chanResume_keeps | (intro _ _; try dsimp only)
                                | (split <;> try dsimp only))

theorem State.chanSkip_keeps {pm : Parts} {st0 : State} {s : State} {h : Nat} {k : Nat} (hk0 : Keeps pm st0 s) (p_flight : pm.flight = true := by
    assumption) (p_nextId : pm.nextId = true := by assumption) (p_free : pm.free = true := by assumption) (p_sched : pm.sched = true := by assumption)
    (p_mem : pm.mem = true := by assumption) (p_hives : pm.hives = true := by assumption) (p_wins : pm.wins = true := by assumption) (p_chans :
    pm.chans = true := by assumption) (p_tiers : pm.tiers = true := by assumption) (p_fxps : pm.fxps = true := by assumption) (p_err : pm.err = true
    := by assumption) (p_mirror : pm.mirror = true := by assumption) (p_journal : pm.journal = true := by assumption) (p_power : pm.power = true := by
    assumption) (p_trace : pm.trace = true := by assumption) (p_count : pm.count = true := by assumption) (p_mgmt : pm.mgmt = true := by assumption) :
    Keeps pm st0 (State.chanSkip s h k) := by
  unfold State.chanSkip
  try dsimp only
  with_reducible repeat' (first | assumption | apply State.setChan_keeps | apply State.footEnd_keeps | apply State.setDesc_keeps
                                | apply State.chanAdvance_keeps | apply State.descJournal_keeps | apply Keeps.ite | (split <;> try dsimp only))

theorem execChanSkip_keeps {pm : Parts} {st0 : State} {h : HiveId} {k : ChanId} {s : State} (hk0 : Keeps pm st0 s) (p_flight : pm.flight = true := by
    assumption) (p_nextId : pm.nextId = true := by assumption) (p_free : pm.free = true := by assumption) (p_sched : pm.sched = true := by assumption)
    (p_mem : pm.mem = true := by assumption) (p_hives : pm.hives = true := by assumption) (p_wins : pm.wins = true := by assumption) (p_chans :
    pm.chans = true := by assumption) (p_tiers : pm.tiers = true := by assumption) (p_fxps : pm.fxps = true := by assumption) (p_err : pm.err = true
    := by assumption) (p_mirror : pm.mirror = true := by assumption) (p_journal : pm.journal = true := by assumption) (p_power : pm.power = true := by
    assumption) (p_trace : pm.trace = true := by assumption) (p_count : pm.count = true := by assumption) (p_mgmt : pm.mgmt = true := by assumption) :
    ∃ u0, execChanSkip h k s = .next u0 ∧ Keeps pm st0 u0 := by
  unfold execChanSkip
  refine ⟨_, rfl, ?_⟩
  try dsimp only
  with_reducible repeat' (first | assumption | apply State.chanCmd_keeps | apply State.chanSkip_keeps | (intro _ _; try dsimp only)
                                | (split <;> try dsimp only))

theorem State.chanAbort_keeps {pm : Parts} {st0 : State} {s : State} {h : Nat} {k : Nat} (hk0 : Keeps pm st0 s) (p_flight : pm.flight = true := by
    assumption) (p_nextId : pm.nextId = true := by assumption) (p_sched : pm.sched = true := by assumption) (p_hives : pm.hives = true := by
    assumption) (p_wins : pm.wins = true := by assumption) (p_chans : pm.chans = true := by assumption) (p_fxps : pm.fxps = true := by assumption)
    (p_err : pm.err = true := by assumption) (p_power : pm.power = true := by assumption) (p_trace : pm.trace = true := by assumption) (p_count :
    pm.count = true := by assumption) (p_mgmt : pm.mgmt = true := by assumption) : Keeps pm st0 (State.chanAbort s h k) := by
  unfold State.chanAbort
  try dsimp only
  with_reducible repeat' (first | assumption | apply State.setChan_keeps | apply State.chanStop_keeps | apply State.sxpRetry_keeps | apply Keeps.ite
                                | (refine Keeps.lit ?_ rfl; first | assumption | apply State.setChan_keeps | apply State.chanStop_keeps | apply State.sxpRetry_keeps | apply Keeps.ite)
                                | (split <;> try dsimp only))

theorem execChanAbort_keeps {pm : Parts} {st0 : State} {h : HiveId} {k : ChanId} {s : State} (hk0 : Keeps pm st0 s) (p_flight : pm.flight = true := by
    assumption) (p_nextId : pm.nextId = true := by assumption) (p_sched : pm.sched = true := by assumption) (p_hives : pm.hives = true := by
    assumption) (p_wins : pm.wins = true := by assumption) (p_chans : pm.chans = true := by assumption) (p_fxps : pm.fxps = true := by assumption)
    (p_err : pm.err = true := by assumption) (p_power : pm.power = true := by assumption) (p_trace : pm.trace = true := by assumption) (p_count :
    pm.count = true := by assumption) (p_mgmt : pm.mgmt = true := by assumption) : ∃ u0, execChanAbort h k s = .next u0 ∧ Keeps pm st0 u0 := by
  unfold execChanAbort
  refine ⟨_, rfl, ?_⟩
  try dsimp only
  with_reducible repeat' (first | assumption | apply State.chanCmd_keeps | apply State.chanAbort_keeps | (intro _ _; try dsimp only)
                                | (split <;> try dsimp only))

theorem execChanPause_keeps {pm : Parts} {st0 : State} {h : HiveId} {k : ChanId} {s : State} (hk0 : Keeps pm st0 s) (p_hives : pm.hives = true := by
    assumption) (p_chans : pm.chans = true := by assumption) : ∃ u0, execChanPause h k s = .next u0 ∧ Keeps pm st0 u0 := by
  unfold execChanPause
  refine ⟨_, rfl, ?_⟩
  try dsimp only
  with_reducible repeat' (first | assumption | apply State.chanCmd_keeps | apply State.pauseTry_keeps | apply State.setChan_keeps | apply Keeps.ite
                                | (intro _ _; try dsimp only) | (split <;> try dsimp only))

theorem execChanContinue_keeps {pm : Parts} {st0 : State} {h : HiveId} {k : ChanId} {s : State} (hk0 : Keeps pm st0 s) (p_flight : pm.flight = true :=
    by assumption) (p_nextId : pm.nextId = true := by assumption) (p_free : pm.free = true := by assumption) (p_sched : pm.sched = true := by
    assumption) (p_mem : pm.mem = true := by assumption) (p_hives : pm.hives = true := by assumption) (p_wins : pm.wins = true := by assumption)
    (p_chans : pm.chans = true := by assumption) (p_tiers : pm.tiers = true := by assumption) (p_fxps : pm.fxps = true := by assumption) (p_err :
    pm.err = true := by assumption) (p_mirror : pm.mirror = true := by assumption) (p_power : pm.power = true := by assumption) (p_trace : pm.trace =
    true := by assumption) (p_count : pm.count = true := by assumption) (p_mgmt : pm.mgmt = true := by assumption) : ∃ u0, execChanContinue h k s =
    .next u0 ∧ Keeps pm st0 u0 := by
  unfold execChanContinue
  refine ⟨_, rfl, ?_⟩
  try dsimp only
  with_reducible repeat' (first | assumption | apply State.chanCmd_keeps | apply State.chanFetch_keeps | apply State.setChan_keeps | apply Keeps.ite
                                | (intro _ _; try dsimp only) | (split <;> try dsimp only))

theorem execChanDrainEnd_keeps {pm : Parts} {st0 : State} {h : HiveId} {k : ChanId} {s : State} (hk0 : Keeps pm st0 s) (p_flight : pm.flight = true :=
    by assumption) (p_nextId : pm.nextId = true := by assumption) (p_sched : pm.sched = true := by assumption) (p_hives : pm.hives = true := by
    assumption) (p_chans : pm.chans = true := by assumption) (p_fxps : pm.fxps = true := by assumption) (p_mirror : pm.mirror = true := by assumption)
    (p_journal : pm.journal = true := by assumption) (p_power : pm.power = true := by assumption) (p_count : pm.count = true := by assumption) (p_mgmt
    : pm.mgmt = true := by assumption) : ∃ u0, execChanDrainEnd h k s = .next u0 ∧ Keeps pm st0 u0 := by
  unfold execChanDrainEnd
  refine ⟨_, rfl, ?_⟩
  try dsimp only
  with_reducible repeat' (first | assumption | apply State.sbDrop_keeps | apply State.jChange_keeps | apply State.setChan_keeps | apply Keeps.ite
                                | apply Keeps.foldl | refine Keeps.foldlP ?_ ?_
                                | (refine Keeps.lit ?_ rfl; first | assumption | apply State.sbDrop_keeps | apply State.jChange_keeps | apply State.setChan_keeps | apply Keeps.ite | apply Keeps.foldl)
                                | (intro _ _ _; try dsimp only) | (split <;> try dsimp only))

end Sys2Proof.Machine
end

