-- ==== Sys2Proof/Laws/KeepScarab.lean ====
section
/-!
SUPPORT. KeepScarab.lean: each operation of Machine/Scarab.lean keeps: the invariant, the queue, and every part of the state that no hypothesis names.
-/
namespace Sys2Proof.Machine
set_option Elab.async false

theorem State.setJob_keeps {pm : Parts} {st0 : State} {s : State} {key : Nat} {j : Job} (hk0 : Keeps pm st0 s) (p_jobs : pm.jobs = true := by
    assumption) : Keeps pm st0 (State.setJob s key j) := by
  unfold State.setJob
  try dsimp only
  with_reducible repeat' (first | assumption | (refine Keeps.lit ?_ rfl; first | assumption) | (split <;> try dsimp only))

theorem State.setScarab_keeps {pm : Parts} {st0 : State} {s : State} {u : Nat} {l : List Nat} (hk0 : Keeps pm st0 s) (p_scarabs : pm.scarabs = true :=
    by assumption) : Keeps pm st0 (State.setScarab s u l) := by
  unfold State.setScarab
  try dsimp only
  with_reducible repeat' (first | assumption | (refine Keeps.lit ?_ rfl; first | assumption) | (split <;> try dsimp only))

theorem State.jobRegister_keeps {pm : Parts} {st0 : State} {s : State} {key : Nat} (hk0 : Keeps pm st0 s) (p_nextId : pm.nextId = true := by
    assumption) (p_hives : pm.hives = true := by assumption) (p_jobs : pm.jobs = true := by assumption) : Keeps pm st0 (State.jobRegister s key) := by
  unfold State.jobRegister
  try dsimp only
  with_reducible repeat' (first | assumption | apply State.setJob_keeps | apply State.sbAdd_keeps | apply Keeps.ite | (split <;> try dsimp only))

theorem State.jobAccept_keeps {pm : Parts} {st0 : State} {s : State} {key : Nat} (hk0 : Keeps pm st0 s) (p_hives : pm.hives = true := by assumption)
    (p_jobs : pm.jobs = true := by assumption) (p_scarabs : pm.scarabs = true := by assumption) : Keeps pm st0 (State.jobAccept s key) := by
  unfold State.jobAccept
  try dsimp only
  with_reducible repeat' (first | assumption | apply State.setStatus_keeps | apply State.setScarab_keeps | apply State.setJob_keeps | apply Keeps.ite
                                | (split <;> try dsimp only))

theorem State.submitTry_keeps {pm : Parts} {st0 : State} {s : State} {e : Nat × Nat × Nat × BitVec 512} (hk0 : Keeps pm st0 s) (p_nextId : pm.nextId =
    true := by assumption) (p_hives : pm.hives = true := by assumption) (p_jobs : pm.jobs = true := by assumption) (p_submits : pm.submits = true :=
    by assumption) (p_err : pm.err = true := by assumption) (p_trace : pm.trace = true := by assumption) (p_count : pm.count = true := by assumption)
    (p_mgmt : pm.mgmt = true := by assumption) : Keeps pm st0 (State.submitTry s e) := by
  unfold State.submitTry
  try dsimp only
  with_reducible repeat' (first | assumption | apply State.setStatus_keeps | apply State.handleFault_keeps | apply State.jobRegister_keeps
                                | apply State.setJob_keeps | apply Keeps.ite
                                | (refine Keeps.lit ?_ rfl; first | assumption | apply State.setStatus_keeps | apply State.handleFault_keeps | apply State.jobRegister_keeps | apply State.setJob_keeps | apply Keeps.ite)
                                | (split <;> try dsimp only))

theorem State.submitsTry_keeps {pm : Parts} {st0 : State} {s : State} (hk0 : Keeps pm st0 s) (p_nextId : pm.nextId = true := by assumption) (p_hives :
    pm.hives = true := by assumption) (p_jobs : pm.jobs = true := by assumption) (p_submits : pm.submits = true := by assumption) (p_err : pm.err =
    true := by assumption) (p_trace : pm.trace = true := by assumption) (p_count : pm.count = true := by assumption) (p_mgmt : pm.mgmt = true := by
    assumption) : Keeps pm st0 (State.submitsTry s) := by
  unfold State.submitsTry
  try dsimp only
  with_reducible repeat' (first | assumption | apply State.submitTry_keeps | apply State.jobRegister_keeps | apply Keeps.foldl
                                | refine Keeps.foldlP ?_ ?_ | (intro _ _ _; try dsimp only) | (split <;> try dsimp only))

theorem State.jobSubmit_keeps {pm : Parts} {st0 : State} {s : State} {h : Nat} {c : Nat} {target : Nat} (hk0 : Keeps pm st0 s) (p_nextId : pm.nextId =
    true := by assumption) (p_hives : pm.hives = true := by assumption) (p_jobs : pm.jobs = true := by assumption) (p_submits : pm.submits = true :=
    by assumption) (p_err : pm.err = true := by assumption) (p_trace : pm.trace = true := by assumption) (p_count : pm.count = true := by assumption)
    (p_mgmt : pm.mgmt = true := by assumption) : Keeps pm st0 (State.jobSubmit s h c target) := by
  unfold State.jobSubmit
  try dsimp only
  with_reducible repeat' (first | assumption | apply State.setStatus_keeps | apply State.submitsTry_keeps | apply Keeps.ite
                                | (refine Keeps.lit ?_ rfl; first | assumption | apply State.setStatus_keeps | apply State.submitsTry_keeps | apply Keeps.ite)
                                | (split <;> try dsimp only))

theorem execJobSubmit_keeps {pm : Parts} {st0 : State} {h : HiveId} {c : CtxId} {target : BitVec 4} {s : State} (hk0 : Keeps pm st0 s) (p_nextId :
    pm.nextId = true := by assumption) (p_hives : pm.hives = true := by assumption) (p_jobs : pm.jobs = true := by assumption) (p_submits : pm.submits
    = true := by assumption) (p_err : pm.err = true := by assumption) (p_trace : pm.trace = true := by assumption) (p_count : pm.count = true := by
    assumption) (p_mgmt : pm.mgmt = true := by assumption) : ∃ u0, execJobSubmit h c target s = .next u0 ∧ Keeps pm st0 u0 := by
  unfold execJobSubmit
  refine ⟨_, rfl, ?_⟩
  try dsimp only
  with_reducible repeat' (first | assumption | apply State.cmd_keeps | apply State.jobSubmit_keeps | apply State.wakeHive_keeps | apply Keeps.ite
                                | (intro _ _; try dsimp only) | (split <;> try dsimp only))

theorem execJobQueueAccept_keeps {pm : Parts} {st0 : State} {h : HiveId} {slot : Fin 256} {s : State} (hk0 : Keeps pm st0 s) (p_nextId : pm.nextId =
    true := by assumption) (p_hives : pm.hives = true := by assumption) (p_jobs : pm.jobs = true := by assumption) (p_scarabs : pm.scarabs = true :=
    by assumption) : ∃ u0, execJobQueueAccept h slot s = .next u0 ∧ Keeps pm st0 u0 := by
  unfold execJobQueueAccept
  refine ⟨_, rfl, ?_⟩
  try dsimp only
  with_reducible repeat' (first | assumption | apply State.jobAccept_keeps | apply State.jobRegister_keeps | apply Keeps.ite
                                | (split <;> try dsimp only))

theorem State.jobRelease_keeps {pm : Parts} {st0 : State} {s : State} {h : Nat} {c : Nat} {slot : Nat} (hk0 : Keeps pm st0 s) (p_hives : pm.hives =
    true := by assumption) (p_jobs : pm.jobs = true := by assumption) : Keeps pm st0 (State.jobRelease s h c slot) := by
  unfold State.jobRelease
  try dsimp only
  with_reducible repeat' (first | assumption | apply State.setStatus_keeps | apply State.setJob_keeps | apply Keeps.ite | (split <;> try dsimp only))

theorem execJobRelease_keeps {pm : Parts} {st0 : State} {h : HiveId} {c : CtxId} {slot : Fin 256} {s : State} (hk0 : Keeps pm st0 s) (p_hives :
    pm.hives = true := by assumption) (p_jobs : pm.jobs = true := by assumption) : ∃ u0, execJobRelease h c slot s = .next u0 ∧ Keeps pm st0 u0 := by
  unfold execJobRelease
  refine ⟨_, rfl, ?_⟩
  try dsimp only
  with_reducible repeat' (first | assumption | apply State.cmd_keeps | apply State.jobRelease_keeps | apply State.wakeHive_keeps | apply Keeps.ite
                                | (intro _ _; try dsimp only) | (split <;> try dsimp only))

theorem State.jobReq_keeps {pm : Parts} {st0 : State} {s : State} {u : Nat} {key : Nat} {grp : Nat} {ga : Nat} {kind : AccKind} {code : Nat} {mask :
    Dword} {data : Line} {p : Purpose} {i : Option Nat} (hk0 : Keeps pm st0 s) (p_flight : pm.flight = true := by assumption) (p_nextId : pm.nextId =
    true := by assumption) (p_sched : pm.sched = true := by assumption) (p_hives : pm.hives = true := by assumption) (p_wins : pm.wins = true := by
    assumption) (p_fxps : pm.fxps = true := by assumption) (p_err : pm.err = true := by assumption) (p_power : pm.power = true := by assumption)
    (p_trace : pm.trace = true := by assumption) (p_count : pm.count = true := by assumption) (p_mgmt : pm.mgmt = true := by assumption) : Keeps pm
    st0 (State.jobReq s u key grp ga kind code mask data p i) := by
  unfold State.jobReq
  try dsimp only
  with_reducible repeat' (first | assumption | apply State.addX_keeps | apply State.windowLine_keeps | apply State.issue_keeps
                                | apply State.refuseLocal_keeps | apply State.setX_keeps | apply State.fromEdge_keeps | apply Keeps.ite
                                | (split <;> try dsimp only))

theorem State.scarabLines_keeps {pm : Parts} {st0 : State} {a0 : Nat} {a1 : State} {a2 : Nat} {a3 : Nat} {a4 : Nat} {a5 : List Nat} (hk0 : Keeps pm
    st0 a1) (p_flight : pm.flight = true := by assumption) (p_nextId : pm.nextId = true := by assumption) (p_sched : pm.sched = true := by assumption)
    (p_hives : pm.hives = true := by assumption) (p_wins : pm.wins = true := by assumption) (p_jobs : pm.jobs = true := by assumption) (p_fxps :
    pm.fxps = true := by assumption) (p_err : pm.err = true := by assumption) (p_power : pm.power = true := by assumption) (p_trace : pm.trace = true
    := by assumption) (p_count : pm.count = true := by assumption) (p_mgmt : pm.mgmt = true := by assumption) : Keeps pm st0 (State.scarabLines a0 a1
    a2 a3 a4 a5).1 := by
  induction a0 generalizing a1 a2 a3 a4 a5 with
  | zero =>
    unfold State.scarabLines
    try dsimp only
    with_reducible repeat' (first | assumption | apply State.cadd_keeps | apply State.setJob_keeps | apply State.jobReq_keeps | apply ih
                                  | apply Keeps.ite | (refine Keeps.ofFst (by assumption) ?_) | (apply Keeps.iteFst <;> try dsimp only)
                                  | (split <;> try dsimp only))
  | succ n ih =>
    unfold State.scarabLines
    try dsimp only
    with_reducible repeat' (first | assumption | apply State.cadd_keeps | apply State.setJob_keeps | apply State.jobReq_keeps | apply ih
                                  | apply Keeps.ite | (refine Keeps.ofFst (by assumption) ?_) | (apply Keeps.iteFst <;> try dsimp only)
                                  | (split <;> try dsimp only))

theorem State.scarabPump_keeps {pm : Parts} {st0 : State} {s : State} {u : Nat} (hk0 : Keeps pm st0 s) (p_flight : pm.flight = true := by assumption)
    (p_nextId : pm.nextId = true := by assumption) (p_sched : pm.sched = true := by assumption) (p_hives : pm.hives = true := by assumption) (p_wins :
    pm.wins = true := by assumption) (p_jobs : pm.jobs = true := by assumption) (p_fxps : pm.fxps = true := by assumption) (p_err : pm.err = true :=
    by assumption) (p_power : pm.power = true := by assumption) (p_trace : pm.trace = true := by assumption) (p_count : pm.count = true := by
    assumption) (p_mgmt : pm.mgmt = true := by assumption) : Keeps pm st0 (State.scarabPump s u) := by
  unfold State.scarabPump
  try dsimp only
  with_reducible repeat' (first | assumption | apply State.scarabLines_keeps | apply State.occupy_keeps | apply Keeps.ite
                                | (refine Keeps.ofFst (by assumption) ?_) | (apply Keeps.iteFst <;> try dsimp only) | (split <;> try dsimp only))

theorem State.scarabStart_keeps {pm : Parts} {st0 : State} {s : State} {u : Nat} (hk0 : Keeps pm st0 s) (p_jobs : pm.jobs = true := by assumption) :
    Keeps pm st0 (State.scarabStart s u) := by
  unfold State.scarabStart
  try dsimp only
  with_reducible repeat' (first | assumption | apply State.setJob_keeps | apply Keeps.ite | (split <;> try dsimp only))

theorem execScarabJobStart_keeps {pm : Parts} {st0 : State} {u : ScarabId} {s : State} (hk0 : Keeps pm st0 s) (p_flight : pm.flight = true := by
    assumption) (p_nextId : pm.nextId = true := by assumption) (p_sched : pm.sched = true := by assumption) (p_hives : pm.hives = true := by
    assumption) (p_wins : pm.wins = true := by assumption) (p_jobs : pm.jobs = true := by assumption) (p_fxps : pm.fxps = true := by assumption)
    (p_err : pm.err = true := by assumption) (p_power : pm.power = true := by assumption) (p_trace : pm.trace = true := by assumption) (p_count :
    pm.count = true := by assumption) (p_mgmt : pm.mgmt = true := by assumption) : ∃ u0, execScarabJobStart u s = .next u0 ∧ Keeps pm st0 u0 := by
  unfold execScarabJobStart
  refine ⟨_, rfl, ?_⟩
  try dsimp only
  with_reducible repeat' (first | assumption | apply State.scarabPump_keeps | apply State.scarabStart_keeps | apply Keeps.ite
                                | (split <;> try dsimp only))

theorem State.jobForget_keeps {pm : Parts} {st0 : State} {s : State} {key : Nat} (hk0 : Keeps pm st0 s) (p_flight : pm.flight = true := by assumption)
    : Keeps pm st0 (State.jobForget s key) := by
  unfold State.jobForget
  exact Keeps.flight hk0 (fun n hn => numbered_map hn (fun y => by repeat' split
                                                                   all_goals rfl)) rfl

theorem State.jobStop_keeps {pm : Parts} {st0 : State} {s : State} {key : Nat} {code : Nat} {pos : Nat} {ga : Nat} {hd : Nat} (hk0 : Keeps pm st0 s)
    (p_flight : pm.flight = true := by assumption) (p_hives : pm.hives = true := by assumption) (p_jobs : pm.jobs = true := by assumption) (p_err :
    pm.err = true := by assumption) (p_trace : pm.trace = true := by assumption) (p_count : pm.count = true := by assumption) (p_mgmt : pm.mgmt = true
    := by assumption) : Keeps pm st0 (State.jobStop s key code pos ga hd) := by
  unfold State.jobStop
  try dsimp only
  with_reducible repeat' (first | assumption | apply State.handleFault_keeps | apply State.setJob_keeps | apply State.jobForget_keeps
                                | apply Keeps.ite | (split <;> try dsimp only))

theorem State.jobBad_keeps {pm : Parts} {st0 : State} {s : State} {u : Nat} {key : Nat} {n : Nat} {code : Nat} (hk0 : Keeps pm st0 s) (p_jobs :
    pm.jobs = true := by assumption) (p_count : pm.count = true := by assumption) : Keeps pm st0 (State.jobBad s u key n code) := by
  unfold State.jobBad
  try dsimp only
  with_reducible repeat' (first | assumption | apply State.cadd_keeps | apply State.setJob_keeps | apply Keeps.ite | (split <;> try dsimp only))

theorem State.robTake_keeps {pm : Parts} {st0 : State} {s : State} {u : Nat} {key : Nat} {r : Rob} (hk0 : Keeps pm st0 s) (p_flight : pm.flight = true
    := by assumption) (p_hives : pm.hives = true := by assumption) (p_jobs : pm.jobs = true := by assumption) (p_err : pm.err = true := by assumption)
    (p_power : pm.power = true := by assumption) (p_trace : pm.trace = true := by assumption) (p_count : pm.count = true := by assumption) (p_mgmt :
    pm.mgmt = true := by assumption) : Keeps pm st0 (State.robTake s u key r) := by
  unfold State.robTake
  try dsimp only
  with_reducible repeat' (first | assumption | apply State.jobStop_keeps | apply State.setJob_keeps | apply State.pev_keeps | apply State.jobBad_keeps
                                | apply Keeps.ite | (split <;> try dsimp only))

theorem execScarabSliceReturn_keeps {pm : Parts} {st0 : State} {u : ScarabId} {s : State} (hk0 : Keeps pm st0 s) (p_flight : pm.flight = true := by
    assumption) (p_nextId : pm.nextId = true := by assumption) (p_sched : pm.sched = true := by assumption) (p_hives : pm.hives = true := by
    assumption) (p_wins : pm.wins = true := by assumption) (p_jobs : pm.jobs = true := by assumption) (p_fxps : pm.fxps = true := by assumption)
    (p_err : pm.err = true := by assumption) (p_power : pm.power = true := by assumption) (p_trace : pm.trace = true := by assumption) (p_count :
    pm.count = true := by assumption) (p_mgmt : pm.mgmt = true := by assumption) : ∃ u0, execScarabSliceReturn u s = .next u0 ∧ Keeps pm st0 u0 := by
  unfold execScarabSliceReturn
  refine ⟨_, rfl, ?_⟩
  try dsimp only
  with_reducible repeat' (first | assumption | apply State.robTake_keeps | apply State.scarabPump_keeps | apply Keeps.ite
                                | (split <;> try dsimp only))

theorem State.jobLeave_keeps {pm : Parts} {st0 : State} {s : State} {u : Nat} {key : Nat} (hk0 : Keeps pm st0 s) (p_jobs : pm.jobs = true := by
    assumption) (p_scarabs : pm.scarabs = true := by assumption) : Keeps pm st0 (State.jobLeave s u key) := by
  unfold State.jobLeave
  try dsimp only
  with_reducible repeat' (first | assumption | apply State.setScarab_keeps | apply State.setJob_keeps | apply Keeps.ite | (split <;> try dsimp only))

theorem State.jobActs_keeps {pm : Parts} {st0 : State} {a0 : Nat} {a1 : State} {a2 : Nat} (hk0 : Keeps pm st0 a1) (p_flight : pm.flight = true := by
    assumption) (p_nextId : pm.nextId = true := by assumption) (p_sched : pm.sched = true := by assumption) (p_hives : pm.hives = true := by
    assumption) (p_wins : pm.wins = true := by assumption) (p_jobs : pm.jobs = true := by assumption) (p_scarabs : pm.scarabs = true := by assumption)
    (p_fxps : pm.fxps = true := by assumption) (p_err : pm.err = true := by assumption) (p_power : pm.power = true := by assumption) (p_trace :
    pm.trace = true := by assumption) (p_count : pm.count = true := by assumption) (p_mgmt : pm.mgmt = true := by assumption) : Keeps pm st0
    (State.jobActs a0 a1 a2) := by
  induction a0 generalizing a1 a2 with
  | zero =>
    unfold State.jobActs
    try dsimp only
    with_reducible repeat' (first | assumption | apply State.jobLeave_keeps | apply State.jobReq_keeps | apply State.setJob_keeps | apply ih
                                  | apply Keeps.ite | (split <;> try dsimp only))
  | succ n ih =>
    unfold State.jobActs
    try dsimp only
    with_reducible repeat' (first | assumption | apply State.jobLeave_keeps | apply State.jobReq_keeps | apply State.setJob_keeps | apply ih
                                  | apply Keeps.ite | (split <;> try dsimp only))

theorem State.jobEnd_keeps {pm : Parts} {st0 : State} {s : State} {u : Nat} {key : Nat} (hk0 : Keeps pm st0 s) (p_hives : pm.hives = true := by
    assumption) (p_jobs : pm.jobs = true := by assumption) (p_count : pm.count = true := by assumption) : Keeps pm st0 (State.jobEnd s u key) := by
  unfold State.jobEnd
  try dsimp only
  with_reducible repeat' (first | assumption | apply State.cadd_keeps | apply State.sbDrop_keeps | apply State.setJob_keeps | apply Keeps.ite
                                | (split <;> try dsimp only))

theorem execScarabJobComplete_keeps {pm : Parts} {st0 : State} {u : ScarabId} {s : State} (hk0 : Keeps pm st0 s) (p_flight : pm.flight = true := by
    assumption) (p_nextId : pm.nextId = true := by assumption) (p_sched : pm.sched = true := by assumption) (p_hives : pm.hives = true := by
    assumption) (p_wins : pm.wins = true := by assumption) (p_jobs : pm.jobs = true := by assumption) (p_scarabs : pm.scarabs = true := by assumption)
    (p_fxps : pm.fxps = true := by assumption) (p_err : pm.err = true := by assumption) (p_power : pm.power = true := by assumption) (p_trace :
    pm.trace = true := by assumption) (p_count : pm.count = true := by assumption) (p_mgmt : pm.mgmt = true := by assumption) : ∃ u0,
    execScarabJobComplete u s = .next u0 ∧ Keeps pm st0 u0 := by
  unfold execScarabJobComplete
  refine ⟨_, rfl, ?_⟩
  try dsimp only
  with_reducible repeat' (first | assumption | apply State.jobEnd_keeps | apply State.jobActs_keeps | apply Keeps.ite | (split <;> try dsimp only))

theorem State.jobLine_keeps {pm : Parts} {st0 : State} {s : State} {x : Xact} {l : Nat} (hk0 : Keeps pm st0 s) (p_jobs : pm.jobs = true := by
    assumption) : Keeps pm st0 (State.jobLine s x l) := by
  unfold State.jobLine
  try dsimp only
  with_reducible repeat' (first | assumption | apply State.setJob_keeps | apply Keeps.ite | (split <;> try dsimp only))

theorem State.jobSlice_keeps {pm : Parts} {st0 : State} {s : State} {x : Xact} {no : Nat} {part : Nat} (hk0 : Keeps pm st0 s) (p_jobs : pm.jobs = true
    := by assumption) : Keeps pm st0 (State.jobSlice s x no part) := by
  unfold State.jobSlice
  try dsimp only
  with_reducible repeat' (first | assumption | apply State.setJob_keeps | apply Keeps.ite | (split <;> try dsimp only))

theorem State.jobOutEnd_keeps {pm : Parts} {st0 : State} {s : State} {x : Xact} {pos : Nat} (hk0 : Keeps pm st0 s) (p_flight : pm.flight = true := by
    assumption) (p_hives : pm.hives = true := by assumption) (p_jobs : pm.jobs = true := by assumption) (p_err : pm.err = true := by assumption)
    (p_trace : pm.trace = true := by assumption) (p_count : pm.count = true := by assumption) (p_mgmt : pm.mgmt = true := by assumption) : Keeps pm
    st0 (State.jobOutEnd s x pos) := by
  unfold State.jobOutEnd
  try dsimp only
  with_reducible repeat' (first | assumption | apply State.setJob_keeps | apply State.jobStop_keeps | apply Keeps.ite | (split <;> try dsimp only))

theorem State.jobAction_keeps {pm : Parts} {st0 : State} {s : State} {x : Xact} (hk0 : Keeps pm st0 s) (p_flight : pm.flight = true := by assumption)
    (p_nextId : pm.nextId = true := by assumption) (p_sched : pm.sched = true := by assumption) (p_hives : pm.hives = true := by assumption) (p_wins :
    pm.wins = true := by assumption) (p_jobs : pm.jobs = true := by assumption) (p_scarabs : pm.scarabs = true := by assumption) (p_fxps : pm.fxps =
    true := by assumption) (p_err : pm.err = true := by assumption) (p_power : pm.power = true := by assumption) (p_trace : pm.trace = true := by
    assumption) (p_count : pm.count = true := by assumption) (p_mgmt : pm.mgmt = true := by assumption) : Keeps pm st0 (State.jobAction s x) := by
  unfold State.jobAction
  try dsimp only
  with_reducible repeat' (first | assumption | apply State.setJob_keeps | apply State.jobActs_keeps | apply State.jobLeave_keeps | apply Keeps.ite
                                | (split <;> try dsimp only))

end Sys2Proof.Machine
end

