-- ==== Sys2Proof/Laws/KeepCtx.lean ====
section
/-!
SUPPORT. KeepCtx.lean: each operation of Machine/Ctx.lean keeps: the invariant, the queue, and every part of the state that no hypothesis names.
-/
namespace Sys2Proof.Machine
set_option Elab.async false

theorem State.ctxStatus_keeps {pm : Parts} {st0 : State} {s : State} {h : Nat} {st : Nat} (hk0 : Keeps pm st0 s) (p_hives : pm.hives = true := by
    assumption) : Keeps pm st0 (State.ctxStatus s h st) := by
  unfold State.ctxStatus
  try dsimp only
  with_reducible repeat' (first | assumption | apply State.setStatus_keeps | (split <;> try dsimp only))

theorem State.ctxRefuse_keeps {pm : Parts} {st0 : State} {s : State} {h : Nat} {f : HFault} (hk0 : Keeps pm st0 s) (p_hives : pm.hives = true := by
    assumption) (p_err : pm.err = true := by assumption) (p_trace : pm.trace = true := by assumption) (p_count : pm.count = true := by assumption)
    (p_mgmt : pm.mgmt = true := by assumption) : Keeps pm st0 (State.ctxRefuse s h f) := by
  unfold State.ctxRefuse
  try dsimp only
  with_reducible repeat' (first | assumption | apply State.ctxStatus_keeps | apply State.handleFault_keeps | (split <;> try dsimp only))

theorem State.ctxSave_keeps {pm : Parts} {st0 : State} {s : State} {h : Nat} {c : Nat} {ref : Nat} (hk0 : Keeps pm st0 s) (p_hives : pm.hives = true
    := by assumption) (p_err : pm.err = true := by assumption) (p_trace : pm.trace = true := by assumption) (p_count : pm.count = true := by
    assumption) (p_mgmt : pm.mgmt = true := by assumption) : Keeps pm st0 (State.ctxSave s h c ref) := by
  unfold State.ctxSave
  try dsimp only
  with_reducible repeat' (first | assumption | apply State.ctxRefuse_keeps | apply State.ctxStatus_keeps | apply Keeps.ite
                                | (refine Keeps.lit ?_ rfl; first | assumption | apply State.ctxRefuse_keeps | apply State.ctxStatus_keeps | apply Keeps.ite)
                                | (split <;> try dsimp only))

theorem execCtxSave_keeps {pm : Parts} {st0 : State} {h : HiveId} {c : CtxId} {ref : BitVec 16} {s : State} (hk0 : Keeps pm st0 s) (p_hives : pm.hives
    = true := by assumption) (p_err : pm.err = true := by assumption) (p_trace : pm.trace = true := by assumption) (p_count : pm.count = true := by
    assumption) (p_mgmt : pm.mgmt = true := by assumption) : ∃ u0, execCtxSave h c ref s = .next u0 ∧ Keeps pm st0 u0 := by
  unfold execCtxSave
  refine ⟨_, rfl, ?_⟩
  try dsimp only
  with_reducible repeat' (first | assumption | apply State.cmd_keeps | apply State.ctxSave_keeps | apply State.wakeHive_keeps | apply Keeps.ite
                                | (intro _ _; try dsimp only) | (split <;> try dsimp only))

theorem State.ctxReturn_keeps {pm : Parts} {st0 : State} {s : State} {l : List Allot} (hk0 : Keeps pm st0 s) (p_flight : pm.flight = true := by
    assumption) (p_nextId : pm.nextId = true := by assumption) (p_sched : pm.sched = true := by assumption) (p_hives : pm.hives = true := by
    assumption) (p_wins : pm.wins = true := by assumption) (p_fxps : pm.fxps = true := by assumption) (p_err : pm.err = true := by assumption)
    (p_mirror : pm.mirror = true := by assumption) (p_journal : pm.journal = true := by assumption) (p_power : pm.power = true := by assumption)
    (p_trace : pm.trace = true := by assumption) (p_count : pm.count = true := by assumption) (p_mgmt : pm.mgmt = true := by assumption) : Keeps pm
    st0 (State.ctxReturn s l) := by
  unfold State.ctxReturn
  try dsimp only
  with_reducible repeat' (first | assumption | apply State.giveBack_keeps | apply Keeps.foldl | refine Keeps.foldlP ?_ ?_
                                | (refine Keeps.lit ?_ rfl; first | assumption | apply State.giveBack_keeps | apply Keeps.foldl)
                                | (intro _ _ _; try dsimp only) | (split <;> try dsimp only))

theorem State.ctxGo_keeps {pm : Parts} {st0 : State} {s : State} {h : Nat} (hk0 : Keeps pm st0 s) (p_flight : pm.flight = true := by assumption)
    (p_nextId : pm.nextId = true := by assumption) (p_free : pm.free = true := by assumption) (p_sched : pm.sched = true := by assumption) (p_mem :
    pm.mem = true := by assumption) (p_hives : pm.hives = true := by assumption) (p_wins : pm.wins = true := by assumption) (p_chans : pm.chans = true
    := by assumption) (p_jobs : pm.jobs = true := by assumption) (p_submits : pm.submits = true := by assumption) (p_tiers : pm.tiers = true := by
    assumption) (p_fxps : pm.fxps = true := by assumption) (p_err : pm.err = true := by assumption) (p_mirror : pm.mirror = true := by assumption)
    (p_journal : pm.journal = true := by assumption) (p_power : pm.power = true := by assumption) (p_trace : pm.trace = true := by assumption)
    (p_count : pm.count = true := by assumption) (p_mgmt : pm.mgmt = true := by assumption) : Keeps pm st0 (State.ctxGo s h) := by
  unfold State.ctxGo
  try dsimp only
  with_reducible repeat' (first | assumption | apply State.submitsTry_keeps | apply State.chanPump_keeps | apply State.sxpRetry_keeps
                                | (split <;> try dsimp only))

theorem execCtxSaveDone_keeps {pm : Parts} {st0 : State} {h : HiveId} {s : State} (hk0 : Keeps pm st0 s) (p_flight : pm.flight = true := by
    assumption) (p_nextId : pm.nextId = true := by assumption) (p_free : pm.free = true := by assumption) (p_sched : pm.sched = true := by assumption)
    (p_mem : pm.mem = true := by assumption) (p_hives : pm.hives = true := by assumption) (p_wins : pm.wins = true := by assumption) (p_chans :
    pm.chans = true := by assumption) (p_jobs : pm.jobs = true := by assumption) (p_submits : pm.submits = true := by assumption) (p_tiers : pm.tiers
    = true := by assumption) (p_fxps : pm.fxps = true := by assumption) (p_err : pm.err = true := by assumption) (p_mirror : pm.mirror = true := by
    assumption) (p_journal : pm.journal = true := by assumption) (p_power : pm.power = true := by assumption) (p_trace : pm.trace = true := by
    assumption) (p_count : pm.count = true := by assumption) (p_mgmt : pm.mgmt = true := by assumption) : ∃ u0, execCtxSaveDone h s = .next u0 ∧ Keeps
    pm st0 u0 := by
  unfold execCtxSaveDone
  refine ⟨_, rfl, ?_⟩
  try dsimp only
  with_reducible repeat' (first | assumption | apply State.ctxGo_keeps | apply State.ctxStatus_keeps | apply State.ctxReturn_keeps
                                | apply State.poke_keeps | apply Keeps.ite | apply Keeps.foldl | refine Keeps.foldlP ?_ ?_
                                | (refine Keeps.lit ?_ rfl; first | assumption | apply State.ctxGo_keeps | apply State.ctxStatus_keeps | apply State.ctxReturn_keeps | apply State.poke_keeps | apply Keeps.ite | apply Keeps.foldl)
                                | (intro _ _ _; try dsimp only) | (split <;> try dsimp only))

theorem State.restoreRings_keeps {pm : Parts} {st0 : State} {s : State} {h : Nat} {c : Nat} {a3 : List (Nat × Ring)} {t0 : State} (hk0 : Keeps pm st0
    s) (he : State.restoreRings s h c a3 = some t0) (p_hives : pm.hives = true := by assumption) : Keeps pm st0 t0 := by
  induction a3 generalizing s h c t0 with
  | nil =>
    unfold State.restoreRings at he
    try dsimp only at he
    repeat' (split at he)
    all_goals first | contradiction | (replace he := Option.some.inj he; first | cases he | skip) | skip
    all_goals (try dsimp only)
    all_goals with_reducible repeat' (first | assumption | apply State.setRing_keeps | (refine ih ?_ (by assumption)) | apply Keeps.ite
                                            | (split <;> try dsimp only))
  | cons e l ih =>
    unfold State.restoreRings at he
    try dsimp only at he
    repeat' (split at he)
    all_goals first | contradiction | (replace he := Option.some.inj he; first | cases he | skip) | skip
    all_goals (try dsimp only)
    all_goals with_reducible repeat' (first | assumption | apply State.setRing_keeps | (refine ih ?_ (by assumption)) | apply Keeps.ite
                                            | (split <;> try dsimp only))

theorem State.restoreWaits_keeps {pm : Parts} {st0 : State} {s : State} {h : Nat} {c : Nat} {a3 : List (Nat × Nat)} {t0 : State} (hk0 : Keeps pm st0
    s) (he : State.restoreWaits s h c a3 = some t0) (p_hives : pm.hives = true := by assumption) : Keeps pm st0 t0 := by
  induction a3 generalizing s h c t0 with
  | nil =>
    unfold State.restoreWaits at he
    try dsimp only at he
    repeat' (split at he)
    all_goals first | contradiction | (replace he := Option.some.inj he; first | cases he | skip) | skip
    all_goals (try dsimp only)
    all_goals with_reducible repeat' (first | assumption | apply State.setWait_keeps | apply State.queuePass_keeps | (refine ih ?_ (by assumption))
                                            | apply Keeps.ite
                                            | (refine Keeps.lit ?_ rfl; first | assumption | apply State.setWait_keeps | apply State.queuePass_keeps | (refine ih ?_ (by assumption)) | apply Keeps.ite)
                                            | (split <;> try dsimp only))
  | cons e l ih =>
    unfold State.restoreWaits at he
    try dsimp only at he
    repeat' (split at he)
    all_goals first | contradiction | (replace he := Option.some.inj he; first | cases he | skip) | skip
    all_goals (try dsimp only)
    all_goals with_reducible repeat' (first | assumption | apply State.setWait_keeps | apply State.queuePass_keeps | (refine ih ?_ (by assumption))
                                            | apply Keeps.ite
                                            | (refine Keeps.lit ?_ rfl; first | assumption | apply State.setWait_keeps | apply State.queuePass_keeps | (refine ih ?_ (by assumption)) | apply Keeps.ite)
                                            | (split <;> try dsimp only))

theorem State.restoreWins_keeps {pm : Parts} {st0 : State} {s : State} {h : Nat} {c : Nat} {img : Nat} (hk0 : Keeps pm st0 s) (p_flight : pm.flight =
    true := by assumption) (p_nextId : pm.nextId = true := by assumption) (p_sched : pm.sched = true := by assumption) (p_hives : pm.hives = true :=
    by assumption) (p_wins : pm.wins = true := by assumption) (p_fxps : pm.fxps = true := by assumption) (p_err : pm.err = true := by assumption)
    (p_mirror : pm.mirror = true := by assumption) (p_journal : pm.journal = true := by assumption) (p_power : pm.power = true := by assumption)
    (p_trace : pm.trace = true := by assumption) (p_count : pm.count = true := by assumption) (p_mgmt : pm.mgmt = true := by assumption) : Keeps pm
    st0 (State.restoreWins s h c img) := by
  unfold State.restoreWins
  try dsimp only
  with_reducible repeat' (first | assumption | apply State.setWin_keeps | apply State.winTry_keeps | apply State.setWinx_keeps | apply Keeps.ite
                                | apply Keeps.foldl | refine Keeps.foldlP ?_ ?_ | (intro _ _ _; try dsimp only) | (split <;> try dsimp only))

theorem State.restoreAllots_keeps {pm : Parts} {st0 : State} {s : State} {h : Nat} {c : Nat} {img : Nat} (hk0 : Keeps pm st0 s) (p_hives : pm.hives =
    true := by assumption) (p_wins : pm.wins = true := by assumption) (p_fxps : pm.fxps = true := by assumption) (p_err : pm.err = true := by
    assumption) (p_power : pm.power = true := by assumption) (p_trace : pm.trace = true := by assumption) (p_count : pm.count = true := by assumption)
    (p_mgmt : pm.mgmt = true := by assumption) : Keeps pm st0 (State.restoreAllots s h c img) := by
  unfold State.restoreAllots
  try dsimp only
  with_reducible repeat' (first | assumption | apply State.askCredits_keeps | apply Keeps.ite | apply Keeps.foldl | refine Keeps.foldlP ?_ ?_
                                | (refine Keeps.lit ?_ rfl; first | assumption | apply State.askCredits_keeps | apply Keeps.ite | apply Keeps.foldl)
                                | (intro _ _ _; try dsimp only) | (split <;> try dsimp only))

theorem State.restoreDrain_keeps {pm : Parts} {st0 : State} {s : State} {h : Nat} {c : Nat} {img : Nat} (hk0 : Keeps pm st0 s) (p_hives : pm.hives =
    true := by assumption) : Keeps pm st0 (State.restoreDrain s h c img) := by
  unfold State.restoreDrain
  try dsimp only
  with_reducible repeat' (first | assumption | apply Keeps.ite | apply Keeps.foldl | refine Keeps.foldlP ?_ ?_
                                | (refine Keeps.lit ?_ rfl; first | assumption | apply Keeps.ite | apply Keeps.foldl) | (intro _ _ _; try dsimp only)
                                | (split <;> try dsimp only))

theorem State.restoreInto_keeps {pm : Parts} {st0 : State} {s : State} {h : Nat} {c : Nat} {img : Nat} {t0 : State} (hk0 : Keeps pm st0 s) (he :
    State.restoreInto s h c img = some t0) (p_flight : pm.flight = true := by assumption) (p_nextId : pm.nextId = true := by assumption) (p_sched :
    pm.sched = true := by assumption) (p_mem : pm.mem = true := by assumption) (p_hives : pm.hives = true := by assumption) (p_wins : pm.wins = true
    := by assumption) (p_fxps : pm.fxps = true := by assumption) (p_err : pm.err = true := by assumption) (p_mirror : pm.mirror = true := by
    assumption) (p_journal : pm.journal = true := by assumption) (p_power : pm.power = true := by assumption) (p_trace : pm.trace = true := by
    assumption) (p_count : pm.count = true := by assumption) (p_mgmt : pm.mgmt = true := by assumption) : Keeps pm st0 t0 := by
  unfold State.restoreInto at he
  try dsimp only at he
  repeat' (split at he)
  all_goals first | contradiction | (replace he := Option.some.inj he; first | cases he | skip) | skip
  all_goals (try dsimp only)
  all_goals with_reducible repeat' (first | assumption | apply State.setHandle_keeps | apply State.dropAllot_keeps | apply State.restoreDrain_keeps
                                          | apply State.restoreWins_keeps | apply State.setBarrier_keeps | apply State.setWait_keeps
                                          | apply State.restoreAllots_keeps | (refine State.restoreRings_keeps ?_ (by assumption))
                                          | (refine State.restoreWaits_keeps ?_ (by assumption)) | apply Keeps.ite | apply Keeps.foldl
                                          | refine Keeps.foldlP ?_ ?_ | (intro _ _ _; try dsimp only) | (split <;> try dsimp only))

theorem State.ctxRestore_keeps {pm : Parts} {st0 : State} {s : State} {h : Nat} {c : Nat} {ref : Nat} (hk0 : Keeps pm st0 s) (p_flight : pm.flight =
    true := by assumption) (p_nextId : pm.nextId = true := by assumption) (p_free : pm.free = true := by assumption) (p_sched : pm.sched = true := by
    assumption) (p_mem : pm.mem = true := by assumption) (p_hives : pm.hives = true := by assumption) (p_wins : pm.wins = true := by assumption)
    (p_chans : pm.chans = true := by assumption) (p_jobs : pm.jobs = true := by assumption) (p_submits : pm.submits = true := by assumption) (p_tiers
    : pm.tiers = true := by assumption) (p_fxps : pm.fxps = true := by assumption) (p_err : pm.err = true := by assumption) (p_mirror : pm.mirror =
    true := by assumption) (p_journal : pm.journal = true := by assumption) (p_power : pm.power = true := by assumption) (p_trace : pm.trace = true :=
    by assumption) (p_count : pm.count = true := by assumption) (p_mgmt : pm.mgmt = true := by assumption) : Keeps pm st0 (State.ctxRestore s h c ref)
    := by
  unfold State.ctxRestore
  try dsimp only
  with_reducible repeat' (first | assumption | apply State.ctxRefuse_keeps | apply State.ctxStatus_keeps | apply State.ctxGo_keeps
                                | (refine State.restoreInto_keeps ?_ (by assumption)) | apply Keeps.ite | apply Keeps.foldl
                                | refine Keeps.foldlP ?_ ?_ | (intro _ _ _; try dsimp only) | (split <;> try dsimp only))

theorem execCtxRestore_keeps {pm : Parts} {st0 : State} {h : HiveId} {c : CtxId} {ref : BitVec 16} {s : State} (hk0 : Keeps pm st0 s) (p_flight :
    pm.flight = true := by assumption) (p_nextId : pm.nextId = true := by assumption) (p_free : pm.free = true := by assumption) (p_sched : pm.sched =
    true := by assumption) (p_mem : pm.mem = true := by assumption) (p_hives : pm.hives = true := by assumption) (p_wins : pm.wins = true := by
    assumption) (p_chans : pm.chans = true := by assumption) (p_jobs : pm.jobs = true := by assumption) (p_submits : pm.submits = true := by
    assumption) (p_tiers : pm.tiers = true := by assumption) (p_fxps : pm.fxps = true := by assumption) (p_err : pm.err = true := by assumption)
    (p_mirror : pm.mirror = true := by assumption) (p_journal : pm.journal = true := by assumption) (p_power : pm.power = true := by assumption)
    (p_trace : pm.trace = true := by assumption) (p_count : pm.count = true := by assumption) (p_mgmt : pm.mgmt = true := by assumption) : ∃ u0,
    execCtxRestore h c ref s = .next u0 ∧ Keeps pm st0 u0 := by
  unfold execCtxRestore
  refine ⟨_, rfl, ?_⟩
  try dsimp only
  with_reducible repeat' (first | assumption | apply State.cmd_keeps | apply State.ctxRestore_keeps | apply State.wakeHive_keeps | apply Keeps.ite
                                | (intro _ _; try dsimp only) | (split <;> try dsimp only))

end Sys2Proof.Machine
end

