-- ==== Sys2Proof/Laws/KeepDeliver.lean ====
section
/-!
SUPPORT. KeepDeliver.lean: each operation of Machine/Deliver.lean keeps: the invariant, the queue, and every part of the state that no hypothesis names.
-/
namespace Sys2Proof.Machine
set_option Elab.async false

theorem State.toMaster_keeps {pm : Parts} {st0 : State} {s : State} {d : Deliv} (hk0 : Keeps pm st0 s) (p_hives : pm.hives = true := by assumption) :
    Keeps pm st0 (State.toMaster s d) := by
  unfold State.toMaster
  try dsimp only
  with_reducible repeat' (first | assumption | (refine Keeps.lit ?_ rfl; first | assumption) | (split <;> try dsimp only))

theorem State.promotedEnd_keeps {pm : Parts} {st0 : State} {s : State} {x : Xact} {n : Nat} (hk0 : Keeps pm st0 s) (p_flight : pm.flight = true := by
    assumption) : Keeps pm st0 (State.promotedEnd s x n) := by
  unfold State.promotedEnd
  try dsimp only
  with_reducible repeat' (first | assumption | apply State.answer_keeps | (split <;> try dsimp only))

theorem State.placementEnd_keeps {pm : Parts} {st0 : State} {s : State} {k : Nat} {g : Nat} (hk0 : Keeps pm st0 s) (p_flight : pm.flight = true := by
    assumption) (p_tiers : pm.tiers = true := by assumption) : Keeps pm st0 (State.placementEnd s k g) := by
  unfold State.placementEnd
  try dsimp only
  with_reducible repeat' (first | assumption | apply State.plCache_keeps | apply State.setX_keeps | apply Keeps.foldl | refine Keeps.foldlP ?_ ?_
                                | (intro _ _ _; try dsimp only) | (split <;> try dsimp only))

theorem State.handOver_keeps {pm : Parts} {st0 : State} {s : State} {x : Xact} (hk0 : Keeps pm st0 s) (p_flight : pm.flight = true := by assumption)
    (p_nextId : pm.nextId = true := by assumption) (p_free : pm.free = true := by assumption) (p_sched : pm.sched = true := by assumption) (p_mem :
    pm.mem = true := by assumption) (p_hives : pm.hives = true := by assumption) (p_wins : pm.wins = true := by assumption) (p_chans : pm.chans = true
    := by assumption) (p_jobs : pm.jobs = true := by assumption) (p_scarabs : pm.scarabs = true := by assumption) (p_tiers : pm.tiers = true := by
    assumption) (p_fxps : pm.fxps = true := by assumption) (p_err : pm.err = true := by assumption) (p_mirror : pm.mirror = true := by assumption)
    (p_journal : pm.journal = true := by assumption) (p_power : pm.power = true := by assumption) (p_trace : pm.trace = true := by assumption)
    (p_count : pm.count = true := by assumption) (p_mgmt : pm.mgmt = true := by assumption) : Keeps pm st0 (State.handOver s x) := by
  unfold State.handOver
  try dsimp only
  with_reducible repeat' (first | assumption | apply State.toMaster_keeps | apply State.slotData_keeps | apply State.boundData_keeps
                                | apply State.dmaData_keeps | apply State.dmaWriteEnd_keeps | apply State.jobAction_keeps | apply State.cmplEnd_keeps
                                | apply State.jobLine_keeps | apply State.jobSlice_keeps | apply State.jobOutEnd_keeps | apply State.promotedEnd_keeps
                                | apply State.placementEnd_keeps | apply State.runLineEnd_keeps | apply State.markTry_keeps | apply Keeps.ite
                                | (split <;> try dsimp only))

theorem State.deliverLine_keeps {pm : Parts} {st0 : State} {s : State} {x : Xact} (hk0 : Keeps pm st0 s) (p_flight : pm.flight = true := by
    assumption) (p_nextId : pm.nextId = true := by assumption) (p_free : pm.free = true := by assumption) (p_sched : pm.sched = true := by assumption)
    (p_mem : pm.mem = true := by assumption) (p_hives : pm.hives = true := by assumption) (p_wins : pm.wins = true := by assumption) (p_chans :
    pm.chans = true := by assumption) (p_jobs : pm.jobs = true := by assumption) (p_scarabs : pm.scarabs = true := by assumption) (p_tiers : pm.tiers
    = true := by assumption) (p_fxps : pm.fxps = true := by assumption) (p_err : pm.err = true := by assumption) (p_mirror : pm.mirror = true := by
    assumption) (p_journal : pm.journal = true := by assumption) (p_power : pm.power = true := by assumption) (p_trace : pm.trace = true := by
    assumption) (p_count : pm.count = true := by assumption) (p_mgmt : pm.mgmt = true := by assumption) : Keeps pm st0 (State.deliverLine s x) := by
  unfold State.deliverLine
  try dsimp only
  with_reducible repeat' (first | assumption | apply State.ringDone_keeps | apply State.dropX_keeps | apply State.windowApplied_keeps
                                | apply State.handOver_keeps | apply Keeps.ite | (split <;> try dsimp only))

theorem State.portEntryDone_keeps {pm : Parts} {st0 : State} {s : State} {x : Xact} (hk0 : Keeps pm st0 s) (p_hives : pm.hives = true := by
    assumption) : Keeps pm st0 (State.portEntryDone s x) := by
  unfold State.portEntryDone
  try dsimp only
  with_reducible repeat' (first | assumption | apply State.sbDrop_keeps | apply Keeps.ite | (split <;> try dsimp only))

theorem State.deliver_keeps {pm : Parts} {st0 : State} {s : State} {x : Xact} (hk0 : Keeps pm st0 s) (p_flight : pm.flight = true := by assumption)
    (p_nextId : pm.nextId = true := by assumption) (p_free : pm.free = true := by assumption) (p_sched : pm.sched = true := by assumption) (p_mem :
    pm.mem = true := by assumption) (p_hives : pm.hives = true := by assumption) (p_wins : pm.wins = true := by assumption) (p_chans : pm.chans = true
    := by assumption) (p_jobs : pm.jobs = true := by assumption) (p_scarabs : pm.scarabs = true := by assumption) (p_tiers : pm.tiers = true := by
    assumption) (p_fxps : pm.fxps = true := by assumption) (p_err : pm.err = true := by assumption) (p_mirror : pm.mirror = true := by assumption)
    (p_journal : pm.journal = true := by assumption) (p_power : pm.power = true := by assumption) (p_trace : pm.trace = true := by assumption)
    (p_count : pm.count = true := by assumption) (p_mgmt : pm.mgmt = true := by assumption) : Keeps pm st0 (State.deliver s x) := by
  unfold State.deliver
  try dsimp only
  with_reducible repeat' (first | assumption | apply State.portEntryDone_keeps | apply State.deliverLine_keeps | apply Keeps.ite | apply Keeps.foldl
                                | refine Keeps.foldlP ?_ ?_ | (intro _ _ _; try dsimp only) | (split <;> try dsimp only))

theorem execResponseDeliver_keeps {pm : Parts} {st0 : State} {x : Nat} {s : State} (hk0 : Keeps pm st0 s) (p_flight : pm.flight = true := by
    assumption) (p_nextId : pm.nextId = true := by assumption) (p_free : pm.free = true := by assumption) (p_sched : pm.sched = true := by assumption)
    (p_mem : pm.mem = true := by assumption) (p_hives : pm.hives = true := by assumption) (p_wins : pm.wins = true := by assumption) (p_chans :
    pm.chans = true := by assumption) (p_jobs : pm.jobs = true := by assumption) (p_scarabs : pm.scarabs = true := by assumption) (p_tiers : pm.tiers
    = true := by assumption) (p_fxps : pm.fxps = true := by assumption) (p_err : pm.err = true := by assumption) (p_mirror : pm.mirror = true := by
    assumption) (p_journal : pm.journal = true := by assumption) (p_power : pm.power = true := by assumption) (p_trace : pm.trace = true := by
    assumption) (p_count : pm.count = true := by assumption) (p_mgmt : pm.mgmt = true := by assumption) : ∃ u0, execResponseDeliver x s = .next u0 ∧
    Keeps pm st0 u0 := by
  unfold execResponseDeliver
  refine ⟨_, rfl, ?_⟩
  try dsimp only
  with_reducible repeat' (first | assumption | apply State.deliver_keeps | apply Keeps.ite | (split <;> try dsimp only))

theorem execWriteComplete_keeps {pm : Parts} {st0 : State} {x : Nat} {s : State} (hk0 : Keeps pm st0 s) (p_flight : pm.flight = true := by assumption)
    (p_nextId : pm.nextId = true := by assumption) (p_free : pm.free = true := by assumption) (p_sched : pm.sched = true := by assumption) (p_mem :
    pm.mem = true := by assumption) (p_hives : pm.hives = true := by assumption) (p_wins : pm.wins = true := by assumption) (p_chans : pm.chans = true
    := by assumption) (p_jobs : pm.jobs = true := by assumption) (p_scarabs : pm.scarabs = true := by assumption) (p_tiers : pm.tiers = true := by
    assumption) (p_fxps : pm.fxps = true := by assumption) (p_err : pm.err = true := by assumption) (p_mirror : pm.mirror = true := by assumption)
    (p_journal : pm.journal = true := by assumption) (p_power : pm.power = true := by assumption) (p_trace : pm.trace = true := by assumption)
    (p_count : pm.count = true := by assumption) (p_mgmt : pm.mgmt = true := by assumption) : ∃ u0, execWriteComplete x s = .next u0 ∧ Keeps pm st0 u0
    := by
  unfold execWriteComplete
  refine ⟨_, rfl, ?_⟩
  try dsimp only
  with_reducible repeat' (first | assumption | apply State.deliver_keeps | apply Keeps.ite | (split <;> try dsimp only))

end Sys2Proof.Machine
end

