-- ==== Sys2Proof/Laws/KeepRepair.lean ====
section
/-!
SUPPORT. KeepRepair.lean: each operation of Machine/Repair.lean keeps: the invariant, the queue, and every part of the state that no hypothesis names.
-/
namespace Sys2Proof.Machine
set_option Elab.async false

theorem State.errAck_keeps {pm : Parts} {st0 : State} {s : State} {v : Nat} (hk0 : Keeps pm st0 s) (p_err : pm.err = true := by assumption) : Keeps pm
    st0 (State.errAck s v) := by
  unfold State.errAck
  try dsimp only
  with_reducible repeat' (first | assumption | apply Keeps.ite | (refine Keeps.lit ?_ rfl; first | assumption | apply Keeps.ite)
                                | (split <;> try dsimp only))

theorem execErrTableAck_keeps {pm : Parts} {st0 : State} {v : BitVec 9} {s : State} (hk0 : Keeps pm st0 s) (p_err : pm.err = true := by assumption) :
    ∃ u0, execErrTableAck v s = .next u0 ∧ Keeps pm st0 u0 := by
  unfold execErrTableAck
  refine ⟨_, rfl, ?_⟩
  try dsimp only
  with_reducible repeat' (first | assumption | apply State.errAck_keeps | apply Keeps.ite | (split <;> try dsimp only))

theorem State.setWalker_keeps {pm : Parts} {st0 : State} {s : State} {u : Nat} {w : Walker} (hk0 : Keeps pm st0 s) (p_err : pm.err = true := by
    assumption) : Keeps pm st0 (State.setWalker s u w) := by
  unfold State.setWalker
  try dsimp only
  with_reducible repeat' (first | assumption | (refine Keeps.lit ?_ rfl; first | assumption) | (split <;> try dsimp only))

theorem State.walked_keeps {pm : Parts} {st0 : State} {s : State} {u : Nat} {total : Nat} {skipped : Bool} (hk0 : Keeps pm st0 s) (p_err : pm.err =
    true := by assumption) (p_count : pm.count = true := by assumption) : Keeps pm st0 (State.walked s u total skipped) := by
  unfold State.walked
  try dsimp only
  with_reducible repeat' (first | assumption | apply State.setWalker_keeps | apply State.cadd_keeps | apply Keeps.ite | (split <;> try dsimp only))

theorem State.scrubRow_keeps {pm : Parts} {st0 : State} {s : State} {h : Nat} {p : Spot} (hk0 : Keeps pm st0 s) (p_mem : pm.mem = true := by
    assumption) (p_err : pm.err = true := by assumption) (p_trace : pm.trace = true := by assumption) (p_count : pm.count = true := by assumption)
    (p_mgmt : pm.mgmt = true := by assumption) : Keeps pm st0 (State.scrubRow s h p) := by
  unfold State.scrubRow
  try dsimp only
  with_reducible repeat' (first | assumption | apply State.integrity_keeps | apply State.setRow_keeps | apply Keeps.ite
                                | (refine Keeps.lit ?_ rfl; first | assumption | apply State.integrity_keeps | apply State.setRow_keeps | apply Keeps.ite)
                                | (split <;> try dsimp only))

theorem State.scrubWord_keeps {pm : Parts} {st0 : State} {s : State} {h : Nat} {w : Nat} (hk0 : Keeps pm st0 s) (p_err : pm.err = true := by
    assumption) (p_trace : pm.trace = true := by assumption) (p_count : pm.count = true := by assumption) (p_mgmt : pm.mgmt = true := by assumption) :
    Keeps pm st0 (State.scrubWord s h w) := by
  unfold State.scrubWord
  try dsimp only
  with_reducible repeat' (first | assumption | apply State.integrity_keeps
                                | (refine Keeps.lit ?_ rfl; first | assumption | apply State.integrity_keeps) | (split <;> try dsimp only))

theorem execWeevilScrubRead_keeps {pm : Parts} {st0 : State} {h : HiveId} {s : State} (hk0 : Keeps pm st0 s) (p_mem : pm.mem = true := by assumption)
    (p_hives : pm.hives = true := by assumption) (p_err : pm.err = true := by assumption) (p_trace : pm.trace = true := by assumption) (p_count :
    pm.count = true := by assumption) (p_mgmt : pm.mgmt = true := by assumption) : ∃ u0, execWeevilScrubRead h s = .next u0 ∧ Keeps pm st0 u0 := by
  unfold execWeevilScrubRead
  refine ⟨_, rfl, ?_⟩
  try dsimp only
  with_reducible repeat' (first | assumption | apply State.walked_keeps | apply State.occupy_keeps | apply State.scrubWord_keeps
                                | apply State.scrubRow_keeps | apply State.cadd_keeps | apply Keeps.ite | (split <;> try dsimp only))

theorem State.scrubStore_keeps {pm : Parts} {st0 : State} {s : State} {k : Nat} (hk0 : Keeps pm st0 s) (p_mem : pm.mem = true := by assumption)
    (p_hives : pm.hives = true := by assumption) : Keeps pm st0 (State.scrubStore s k) := by
  unfold State.scrubStore
  try dsimp only
  with_reducible repeat' (first | assumption | apply State.setSyncRaw_keeps | apply State.setRow_keeps | apply Keeps.ite | (split <;> try dsimp only))

theorem execWeevilWriteback_keeps {pm : Parts} {st0 : State} {h : HiveId} {s : State} (hk0 : Keeps pm st0 s) (p_mem : pm.mem = true := by assumption)
    (p_hives : pm.hives = true := by assumption) (p_err : pm.err = true := by assumption) (p_count : pm.count = true := by assumption) : ∃ u0,
    execWeevilWriteback h s = .next u0 ∧ Keeps pm st0 u0 := by
  unfold execWeevilWriteback
  refine ⟨_, rfl, ?_⟩
  try dsimp only
  with_reducible repeat' (first | assumption | apply State.occupy_keeps | apply State.scrubStore_keeps | apply State.cadd_keeps | apply Keeps.ite
                                | (refine Keeps.lit ?_ rfl; first | assumption | apply State.occupy_keeps | apply State.scrubStore_keeps | apply State.cadd_keeps | apply Keeps.ite)
                                | (split <;> try dsimp only))

theorem execWeevilPageScrub_keeps {pm : Parts} {st0 : State} {u : Fin 12} {flags : Dword} {raw : List Line} {s : State} (hk0 : Keeps pm st0 s)
    (p_tiers : pm.tiers = true := by assumption) (p_err : pm.err = true := by assumption) (p_trace : pm.trace = true := by assumption) (p_count :
    pm.count = true := by assumption) (p_mgmt : pm.mgmt = true := by assumption) : ∃ u0, execWeevilPageScrub u flags raw s = .next u0 ∧ Keeps pm st0
    u0 := by
  unfold execWeevilPageScrub
  refine ⟨_, rfl, ?_⟩
  try dsimp only
  with_reducible repeat' (first | assumption | apply State.walked_keeps | apply State.cadd_keeps | apply State.integrity_keeps | apply Keeps.ite
                                | apply Keeps.foldl | refine Keeps.foldlP ?_ ?_
                                | (refine Keeps.lit ?_ rfl; first | assumption | apply State.walked_keeps | apply State.cadd_keeps | apply State.integrity_keeps | apply Keeps.ite | apply Keeps.foldl)
                                | (intro _ _ _; try dsimp only) | (split <;> try dsimp only))

theorem execScrubShortfall_keeps {pm : Parts} {st0 : State} {u : ScarabId} {s : State} (hk0 : Keeps pm st0 s) (p_err : pm.err = true := by assumption)
    (p_trace : pm.trace = true := by assumption) (p_mgmt : pm.mgmt = true := by assumption) : ∃ u0, execScrubShortfall u s = .next u0 ∧ Keeps pm st0
    u0 := by
  unfold execScrubShortfall
  refine ⟨_, rfl, ?_⟩
  try dsimp only
  with_reducible repeat' (first | assumption | apply State.raise_keeps | apply State.setWalker_keeps | (split <;> try dsimp only))

theorem State.setRepair_keeps {pm : Parts} {st0 : State} {s : State} {k : Nat} {v : Nat} (hk0 : Keeps pm st0 s) (p_err : pm.err = true := by
    assumption) : Keeps pm st0 (State.setRepair s k v) := by
  unfold State.setRepair
  try dsimp only
  with_reducible repeat' (first | assumption | (refine Keeps.lit ?_ rfl; first | assumption) | (split <;> try dsimp only))

theorem State.listStripe_keeps {pm : Parts} {st0 : State} {s : State} {kind : Nat} {h : Nat} {st : Nat} (hk0 : Keeps pm st0 s) (p_err : pm.err = true
    := by assumption) : Keeps pm st0 (State.listStripe s kind h st) := by
  unfold State.listStripe
  try dsimp only
  with_reducible repeat' (first | assumption | apply Keeps.ite | (refine Keeps.lit ?_ rfl; first | assumption | apply Keeps.ite)
                                | (split <;> try dsimp only))

theorem State.releaseSpares_keeps {pm : Parts} {st0 : State} {s : State} {kind : Nat} {h : Nat} {row : Nat} {failed : Option Nat} (hk0 : Keeps pm st0
    s) (p_err : pm.err = true := by assumption) : Keeps pm st0 (State.releaseSpares s kind h row failed) := by
  unfold State.releaseSpares
  try dsimp only
  with_reducible repeat' (first | assumption | apply State.setRepair_keeps | apply Keeps.ite | apply Keeps.foldl | refine Keeps.foldlP ?_ ?_
                                | (intro _ _ _; try dsimp only) | (split <;> try dsimp only))

theorem State.sayRetired_keeps {pm : Parts} {st0 : State} {s : State} {obj : Nat} {loc : Nat} {r : Nat} (hk0 : Keeps pm st0 s) (p_sched : pm.sched =
    true := by assumption) (p_err : pm.err = true := by assumption) (p_trace : pm.trace = true := by assumption) (p_mgmt : pm.mgmt = true := by
    assumption) : Keeps pm st0 (State.sayRetired s obj loc r) := by
  unfold State.sayRetired
  try dsimp only
  with_reducible repeat' (first | assumption | apply State.raise_keeps | apply State.capacityLoss_keeps | (split <;> try dsimp only))

theorem State.retireStripe_keeps {pm : Parts} {st0 : State} {s : State} {kind : Nat} {h : Nat} {st : Nat} {failed : Option Nat} (hk0 : Keeps pm st0 s)
    (p_sched : pm.sched = true := by assumption) (p_err : pm.err = true := by assumption) (p_trace : pm.trace = true := by assumption) (p_mgmt :
    pm.mgmt = true := by assumption) : Keeps pm st0 (State.retireStripe s kind h st failed) := by
  unfold State.retireStripe
  try dsimp only
  with_reducible repeat' (first | assumption | apply State.listStripe_keeps | apply State.releaseSpares_keeps | apply State.clearLog_keeps
                                | apply State.sayRetired_keeps | apply State.genUp_keeps | apply Keeps.ite | apply Keeps.foldl
                                | refine Keeps.foldlP ?_ ?_
                                | (refine Keeps.lit ?_ rfl; first | assumption | apply State.listStripe_keeps | apply State.releaseSpares_keeps | apply State.clearLog_keeps | apply State.sayRetired_keeps | apply State.genUp_keeps | apply Keeps.ite | apply Keeps.foldl)
                                | (intro _ _ _; try dsimp only) | (split <;> try dsimp only))

theorem State.t2Gone_keeps {pm : Parts} {st0 : State} {s : State} {k : Nat} {page : Nat} (hk0 : Keeps pm st0 s) (p_flight : pm.flight = true := by
    assumption) (p_hives : pm.hives = true := by assumption) (p_tiers : pm.tiers = true := by assumption) (p_err : pm.err = true := by assumption)
    (p_trace : pm.trace = true := by assumption) (p_count : pm.count = true := by assumption) (p_mgmt : pm.mgmt = true := by assumption) : Keeps pm
    st0 (State.t2Gone s k page) := by
  unfold State.t2Gone
  try dsimp only
  with_reducible repeat' (first | assumption | apply State.refuseAt_keeps | apply Keeps.foldl | refine Keeps.foldlP ?_ ?_
                                | (refine Keeps.lit ?_ rfl; first | assumption | apply State.refuseAt_keeps | apply Keeps.foldl)
                                | (intro _ _ _; try dsimp only) | (split <;> try dsimp only))

theorem State.demoteRetired_keeps {pm : Parts} {st0 : State} {s : State} (hk0 : Keeps pm st0 s) (p_tiers : pm.tiers = true := by assumption) : Keeps
    pm st0 (State.demoteRetired s) := by
  unfold State.demoteRetired
  try dsimp only
  with_reducible repeat' (first | assumption | apply State.startMove_keeps | apply Keeps.ite | apply Keeps.foldl | refine Keeps.foldlP ?_ ?_
                                | (intro _ _ _; try dsimp only) | (split <;> try dsimp only))

theorem State.retireTier_keeps {pm : Parts} {st0 : State} {s : State} {e : TierRet} (hk0 : Keeps pm st0 s) (p_flight : pm.flight = true := by
    assumption) (p_sched : pm.sched = true := by assumption) (p_hives : pm.hives = true := by assumption) (p_tiers : pm.tiers = true := by assumption)
    (p_err : pm.err = true := by assumption) (p_trace : pm.trace = true := by assumption) (p_count : pm.count = true := by assumption) (p_mgmt :
    pm.mgmt = true := by assumption) : Keeps pm st0 (State.retireTier s e) := by
  unfold State.retireTier
  try dsimp only
  with_reducible repeat' (first | assumption | apply State.genUp_keeps | apply State.t2Gone_keeps | apply State.demoteRetired_keeps
                                | apply State.t1Gone_keeps | apply State.sayRetired_keeps | apply Keeps.ite
                                | (refine Keeps.lit ?_ rfl; first | assumption | apply State.genUp_keeps | apply State.t2Gone_keeps | apply State.demoteRetired_keeps | apply State.t1Gone_keeps | apply State.sayRetired_keeps | apply Keeps.ite)
                                | (split <;> try dsimp only))

theorem State.retire_keeps {pm : Parts} {st0 : State} {s : State} {op : Nat} {unit : Nat} {loc : Nat} (hk0 : Keeps pm st0 s) (p_flight : pm.flight =
    true := by assumption) (p_sched : pm.sched = true := by assumption) (p_hives : pm.hives = true := by assumption) (p_tiers : pm.tiers = true := by
    assumption) (p_err : pm.err = true := by assumption) (p_trace : pm.trace = true := by assumption) (p_count : pm.count = true := by assumption)
    (p_mgmt : pm.mgmt = true := by assumption) : Keeps pm st0 (State.retire s op unit loc).1 := by
  unfold State.retire
  try dsimp only
  with_reducible repeat' (first | assumption | apply State.retireStripe_keeps | apply State.retireTier_keeps | apply Keeps.ite
                                | (apply Keeps.iteFst <;> try dsimp only)
                                | (refine Keeps.lit ?_ rfl; first | assumption | apply State.retireStripe_keeps | apply State.retireTier_keeps | apply Keeps.ite)
                                | (split <;> try dsimp only))

theorem State.retireWrite_keeps {pm : Parts} {st0 : State} {s : State} {op : Nat} {unit : Nat} {loc : Nat} (hk0 : Keeps pm st0 s) (p_flight :
    pm.flight = true := by assumption) (p_sched : pm.sched = true := by assumption) (p_hives : pm.hives = true := by assumption) (p_tiers : pm.tiers =
    true := by assumption) (p_err : pm.err = true := by assumption) (p_trace : pm.trace = true := by assumption) (p_count : pm.count = true := by
    assumption) (p_mgmt : pm.mgmt = true := by assumption) : Keeps pm st0 (State.retireWrite s op unit loc) := by
  unfold State.retireWrite
  try dsimp only
  with_reducible repeat' (first | assumption | apply State.retire_keeps | apply Keeps.ite | (refine Keeps.ofFst (by assumption) ?_)
                                | (apply Keeps.iteFst <;> try dsimp only)
                                | (refine Keeps.lit ?_ rfl; first | assumption | apply State.retire_keeps | apply Keeps.ite | (refine Keeps.ofFst (by assumption) ?_))
                                | (split <;> try dsimp only))

theorem execRetireHiveStripe_keeps {pm : Parts} {st0 : State} {h : HiveId} {loc : BitVec 48} {s : State} (hk0 : Keeps pm st0 s) (p_flight : pm.flight
    = true := by assumption) (p_sched : pm.sched = true := by assumption) (p_hives : pm.hives = true := by assumption) (p_tiers : pm.tiers = true :=
    by assumption) (p_err : pm.err = true := by assumption) (p_trace : pm.trace = true := by assumption) (p_count : pm.count = true := by assumption)
    (p_mgmt : pm.mgmt = true := by assumption) : ∃ u0, execRetireHiveStripe h loc s = .next u0 ∧ Keeps pm st0 u0 := by
  unfold execRetireHiveStripe
  refine ⟨_, rfl, ?_⟩
  try dsimp only
  with_reducible repeat' (first | assumption | apply State.retireWrite_keeps | (split <;> try dsimp only))

theorem execRetireMatrixStripe_keeps {pm : Parts} {st0 : State} {h : HiveId} {loc : BitVec 48} {s : State} (hk0 : Keeps pm st0 s) (p_flight :
    pm.flight = true := by assumption) (p_sched : pm.sched = true := by assumption) (p_hives : pm.hives = true := by assumption) (p_tiers : pm.tiers =
    true := by assumption) (p_err : pm.err = true := by assumption) (p_trace : pm.trace = true := by assumption) (p_count : pm.count = true := by
    assumption) (p_mgmt : pm.mgmt = true := by assumption) : ∃ u0, execRetireMatrixStripe h loc s = .next u0 ∧ Keeps pm st0 u0 := by
  unfold execRetireMatrixStripe
  refine ⟨_, rfl, ?_⟩
  try dsimp only
  with_reducible repeat' (first | assumption | apply State.retireWrite_keeps | (split <;> try dsimp only))

theorem execRetireVectorStripe_keeps {pm : Parts} {st0 : State} {h : HiveId} {loc : BitVec 48} {s : State} (hk0 : Keeps pm st0 s) (p_flight :
    pm.flight = true := by assumption) (p_sched : pm.sched = true := by assumption) (p_hives : pm.hives = true := by assumption) (p_tiers : pm.tiers =
    true := by assumption) (p_err : pm.err = true := by assumption) (p_trace : pm.trace = true := by assumption) (p_count : pm.count = true := by
    assumption) (p_mgmt : pm.mgmt = true := by assumption) : ∃ u0, execRetireVectorStripe h loc s = .next u0 ∧ Keeps pm st0 u0 := by
  unfold execRetireVectorStripe
  refine ⟨_, rfl, ?_⟩
  try dsimp only
  with_reducible repeat' (first | assumption | apply State.retireWrite_keeps | (split <;> try dsimp only))

theorem execRetireT1Page_keeps {pm : Parts} {st0 : State} {unit : BitVec 8} {loc : BitVec 48} {s : State} (hk0 : Keeps pm st0 s) (p_flight : pm.flight
    = true := by assumption) (p_sched : pm.sched = true := by assumption) (p_hives : pm.hives = true := by assumption) (p_tiers : pm.tiers = true :=
    by assumption) (p_err : pm.err = true := by assumption) (p_trace : pm.trace = true := by assumption) (p_count : pm.count = true := by assumption)
    (p_mgmt : pm.mgmt = true := by assumption) : ∃ u0, execRetireT1Page unit loc s = .next u0 ∧ Keeps pm st0 u0 := by
  unfold execRetireT1Page
  refine ⟨_, rfl, ?_⟩
  try dsimp only
  with_reducible repeat' (first | assumption | apply State.retireWrite_keeps | (split <;> try dsimp only))

theorem execRetireT1Bank_keeps {pm : Parts} {st0 : State} {unit : BitVec 8} {loc : BitVec 48} {s : State} (hk0 : Keeps pm st0 s) (p_flight : pm.flight
    = true := by assumption) (p_sched : pm.sched = true := by assumption) (p_hives : pm.hives = true := by assumption) (p_tiers : pm.tiers = true :=
    by assumption) (p_err : pm.err = true := by assumption) (p_trace : pm.trace = true := by assumption) (p_count : pm.count = true := by assumption)
    (p_mgmt : pm.mgmt = true := by assumption) : ∃ u0, execRetireT1Bank unit loc s = .next u0 ∧ Keeps pm st0 u0 := by
  unfold execRetireT1Bank
  refine ⟨_, rfl, ?_⟩
  try dsimp only
  with_reducible repeat' (first | assumption | apply State.retireWrite_keeps | (split <;> try dsimp only))

theorem execRetireT2Page_keeps {pm : Parts} {st0 : State} {unit : BitVec 8} {loc : BitVec 48} {s : State} (hk0 : Keeps pm st0 s) (p_flight : pm.flight
    = true := by assumption) (p_sched : pm.sched = true := by assumption) (p_hives : pm.hives = true := by assumption) (p_tiers : pm.tiers = true :=
    by assumption) (p_err : pm.err = true := by assumption) (p_trace : pm.trace = true := by assumption) (p_count : pm.count = true := by assumption)
    (p_mgmt : pm.mgmt = true := by assumption) : ∃ u0, execRetireT2Page unit loc s = .next u0 ∧ Keeps pm st0 u0 := by
  unfold execRetireT2Page
  refine ⟨_, rfl, ?_⟩
  try dsimp only
  with_reducible repeat' (first | assumption | apply State.retireWrite_keeps | (split <;> try dsimp only))

theorem execRetireGraceExpire_keeps {pm : Parts} {st0 : State} {h : HiveId} {kind : Fin 3} {stripe : BitVec 10} {s : State} (hk0 : Keeps pm st0 s)
    (p_sched : pm.sched = true := by assumption) (p_err : pm.err = true := by assumption) (p_trace : pm.trace = true := by assumption) (p_mgmt :
    pm.mgmt = true := by assumption) : ∃ u0, execRetireGraceExpire h kind stripe s = .next u0 ∧ Keeps pm st0 u0 := by
  unfold execRetireGraceExpire
  refine ⟨_, rfl, ?_⟩
  try dsimp only
  with_reducible repeat' (first | assumption | apply State.retireStripe_keeps | apply Keeps.ite | (split <;> try dsimp only))

theorem State.testSpares_keeps {pm : Parts} {st0 : State} {s : State} {kind : Nat} {h : Nat} {b : Nat} {bad : Nat} {a5 : List Nat} (hk0 : Keeps pm st0
    s) (p_free : pm.free = true := by assumption) (p_mem : pm.mem = true := by assumption) (p_err : pm.err = true := by assumption) : Keeps pm st0
    (State.testSpares s kind h b bad a5).1 := by
  induction a5 generalizing s kind h b bad with
  | nil =>
    unfold State.testSpares
    try dsimp only
    with_reducible repeat' (first | assumption | apply State.draw_keeps | apply State.setRepair_keeps | apply State.setRow_keeps | apply ih
                                  | apply Keeps.ite | (refine Keeps.ofFst (by assumption) ?_) | (refine Keeps.ofSnd (by assumption) ?_)
                                  | (apply Keeps.iteFst <;> try dsimp only) | (split <;> try dsimp only))
  | cons e l ih =>
    unfold State.testSpares
    try dsimp only
    with_reducible repeat' (first | assumption | apply State.draw_keeps | apply State.setRepair_keeps | apply State.setRow_keeps | apply ih
                                  | apply Keeps.ite | (refine Keeps.ofFst (by assumption) ?_) | (refine Keeps.ofSnd (by assumption) ?_)
                                  | (apply Keeps.iteFst <;> try dsimp only) | (split <;> try dsimp only))

theorem State.askRow_keeps {pm : Parts} {st0 : State} {s : State} {loc : Loc} {h : Nat} (hk0 : Keeps pm st0 s) (p_sched : pm.sched = true := by
    assumption) (p_fxps : pm.fxps = true := by assumption) (p_mirror : pm.mirror = true := by assumption) (p_power : pm.power = true := by assumption)
    (p_count : pm.count = true := by assumption) : Keeps pm st0 (State.askRow s loc h) := by
  unfold State.askRow
  try dsimp only
  with_reducible repeat' (first | assumption | apply State.sendSeq_keeps | apply Keeps.ite | (split <;> try dsimp only))

theorem State.transferRow_keeps {pm : Parts} {st0 : State} {s : State} {kind : Nat} {h : Nat} {b : Nat} {row : Nat} {sp : Nat} {loc : Loc} (hk0 :
    Keeps pm st0 s) (p_sched : pm.sched = true := by assumption) (p_mem : pm.mem = true := by assumption) (p_hives : pm.hives = true := by assumption)
    (p_fxps : pm.fxps = true := by assumption) (p_err : pm.err = true := by assumption) (p_mirror : pm.mirror = true := by assumption) (p_power :
    pm.power = true := by assumption) (p_trace : pm.trace = true := by assumption) (p_count : pm.count = true := by assumption) (p_mgmt : pm.mgmt =
    true := by assumption) : Keeps pm st0 (State.transferRow s kind h b row sp loc) := by
  unfold State.transferRow
  try dsimp only
  with_reducible repeat' (first | assumption | apply State.setRepair_keeps | apply State.setRow_keeps | apply State.clearLog_keeps
                                | apply State.occupy_keeps | apply State.tableAdd_keeps | apply State.askRow_keeps | apply Keeps.ite
                                | (refine Keeps.lit ?_ rfl; first | assumption | apply State.setRepair_keeps | apply State.setRow_keeps | apply State.clearLog_keeps | apply State.occupy_keeps | apply State.tableAdd_keeps | apply State.askRow_keeps | apply Keeps.ite)
                                | (split <;> try dsimp only))

theorem State.noSpare_keeps {pm : Parts} {st0 : State} {s : State} {kind : Nat} {h : Nat} {b : Nat} {row : Nat} {uncorr : Bool} (hk0 : Keeps pm st0 s)
    (p_sched : pm.sched = true := by assumption) (p_err : pm.err = true := by assumption) (p_trace : pm.trace = true := by assumption) (p_mgmt :
    pm.mgmt = true := by assumption) : Keeps pm st0 (State.noSpare s kind h b row uncorr) := by
  unfold State.noSpare
  try dsimp only
  with_reducible repeat' (first | assumption | apply State.retireStripe_keeps | apply State.raise_keeps | apply Keeps.ite
                                | (refine Keeps.lit ?_ rfl; first | assumption | apply State.retireStripe_keeps | apply State.raise_keeps | apply Keeps.ite)
                                | (split <;> try dsimp only))

theorem execRowRepair_keeps {pm : Parts} {st0 : State} {h : HiveId} {kind : Fin 3} {bank : BankId} {row : BitVec 10} {badSpares : BitVec 16} {s :
    State} (hk0 : Keeps pm st0 s) (p_free : pm.free = true := by assumption) (p_sched : pm.sched = true := by assumption) (p_mem : pm.mem = true := by
    assumption) (p_hives : pm.hives = true := by assumption) (p_fxps : pm.fxps = true := by assumption) (p_err : pm.err = true := by assumption)
    (p_mirror : pm.mirror = true := by assumption) (p_power : pm.power = true := by assumption) (p_trace : pm.trace = true := by assumption) (p_count
    : pm.count = true := by assumption) (p_mgmt : pm.mgmt = true := by assumption) : ∃ u0, execRowRepair h kind bank row badSpares s = .next u0 ∧
    Keeps pm st0 u0 := by
  unfold execRowRepair
  refine ⟨_, rfl, ?_⟩
  try dsimp only
  with_reducible repeat' (first | assumption | apply State.testSpares_keeps | apply State.transferRow_keeps | apply State.noSpare_keeps
                                | apply Keeps.ite | (refine Keeps.ofFst (by assumption) ?_) | (apply Keeps.iteFst <;> try dsimp only)
                                | (split <;> try dsimp only))

theorem State.repairWrite_keeps {pm : Parts} {st0 : State} {s : State} {i : Nat} {v : Nat} (hk0 : Keeps pm st0 s) (p_err : pm.err = true := by
    assumption) : Keeps pm st0 (State.repairWrite s i v).1 := by
  unfold State.repairWrite
  try dsimp only
  with_reducible repeat' (first | assumption | apply State.setRepair_keeps | apply Keeps.ite | (apply Keeps.iteFst <;> try dsimp only)
                                | (split <;> try dsimp only))

theorem execRepairMapWrite_keeps {pm : Parts} {st0 : State} {idx : Nat} {v : BitVec 16} {s : State} (hk0 : Keeps pm st0 s) (p_err : pm.err = true :=
    by assumption) : ∃ u0, execRepairMapWrite idx v s = .next u0 ∧ Keeps pm st0 u0 := by
  unfold execRepairMapWrite
  refine ⟨_, rfl, ?_⟩
  try dsimp only
  with_reducible repeat' (first | assumption | apply State.repairWrite_keeps | apply Keeps.ite | (refine Keeps.ofFst (by assumption) ?_)
                                | (apply Keeps.iteFst <;> try dsimp only) | (split <;> try dsimp only))

theorem State.manifestWrite_keeps {pm : Parts} {st0 : State} {s : State} {bs : List Byte} (hk0 : Keeps pm st0 s) (p_flight : pm.flight = true := by
    assumption) (p_nextId : pm.nextId = true := by assumption) (p_sched : pm.sched = true := by assumption) (p_mem : pm.mem = true := by assumption)
    (p_fxps : pm.fxps = true := by assumption) (p_err : pm.err = true := by assumption) (p_mirror : pm.mirror = true := by assumption) (p_power :
    pm.power = true := by assumption) (p_trace : pm.trace = true := by assumption) (p_count : pm.count = true := by assumption) (p_mgmt : pm.mgmt =
    true := by assumption) : Keeps pm st0 (State.manifestWrite s bs).1 := by
  unfold State.manifestWrite
  try dsimp only
  with_reducible repeat' (first | assumption | apply State.clearValid_keeps | apply State.notice_keeps | apply Keeps.ite | apply Keeps.foldl
                                | (apply Keeps.iteFst <;> try dsimp only) | refine Keeps.foldlP ?_ ?_
                                | (refine Keeps.lit ?_ rfl; first | assumption | apply State.clearValid_keeps | apply State.notice_keeps | apply Keeps.ite | apply Keeps.foldl)
                                | (intro _ _ _; try dsimp only) | (split <;> try dsimp only))

theorem execManifestWrite_keeps {pm : Parts} {st0 : State} {bytes : List Byte} {s : State} (hk0 : Keeps pm st0 s) (p_flight : pm.flight = true := by
    assumption) (p_nextId : pm.nextId = true := by assumption) (p_sched : pm.sched = true := by assumption) (p_mem : pm.mem = true := by assumption)
    (p_fxps : pm.fxps = true := by assumption) (p_err : pm.err = true := by assumption) (p_mirror : pm.mirror = true := by assumption) (p_power :
    pm.power = true := by assumption) (p_trace : pm.trace = true := by assumption) (p_count : pm.count = true := by assumption) (p_mgmt : pm.mgmt =
    true := by assumption) : ∃ u0, execManifestWrite bytes s = .next u0 ∧ Keeps pm st0 u0 := by
  unfold execManifestWrite
  refine ⟨_, rfl, ?_⟩
  try dsimp only
  with_reducible repeat' (first | assumption | apply State.manifestWrite_keeps | apply Keeps.ite | (refine Keeps.ofFst (by assumption) ?_)
                                | (apply Keeps.iteFst <;> try dsimp only) | (split <;> try dsimp only))

theorem State.storeRaw_keeps {pm : Parts} {st0 : State} {s : State} {a1 : RawSpot} (hk0 : Keeps pm st0 s) (p_mem : pm.mem = true := by assumption)
    (p_hives : pm.hives = true := by assumption) (p_err : pm.err = true := by assumption) : Keeps pm st0 (State.storeRaw s a1) := by
  unfold State.storeRaw
  try dsimp only
  with_reducible repeat' (first | assumption | apply State.rowTouched_keeps | apply State.setRow_keeps | apply State.setSyncRaw_keeps
                                | apply State.setTline_keeps
                                | (refine Keeps.lit ?_ rfl; first | assumption | apply State.rowTouched_keeps | apply State.setRow_keeps | apply State.setSyncRaw_keeps | apply State.setTline_keeps)
                                | (split <;> try dsimp only))

theorem State.rawCycle_keeps {pm : Parts} {st0 : State} {s : State} {a1 : RawSpot} (hk0 : Keeps pm st0 s) (p_hives : pm.hives = true := by assumption)
    : Keeps pm st0 (State.rawCycle s a1) := by
  unfold State.rawCycle
  try dsimp only
  with_reducible repeat' (first | assumption | apply State.occupy_keeps | apply State.wakeHive_keeps | (split <;> try dsimp only))

theorem State.checkAccess_keeps {pm : Parts} {st0 : State} {s : State} {write : Bool} {target : Nat} {unit : Nat} {spare : Nat} {loc : Nat} (hk0 :
    Keeps pm st0 s) (p_mem : pm.mem = true := by assumption) (p_hives : pm.hives = true := by assumption) (p_err : pm.err = true := by assumption) :
    Keeps pm st0 (State.checkAccess s write target unit spare loc) := by
  unfold State.checkAccess
  try dsimp only
  with_reducible repeat' (first | assumption | apply State.rawCycle_keeps | apply State.storeRaw_keeps | apply Keeps.ite
                                | (refine Keeps.lit ?_ rfl; first | assumption | apply State.rawCycle_keeps | apply State.storeRaw_keeps | apply Keeps.ite)
                                | (split <;> try dsimp only))

theorem execReadRaw_keeps {pm : Parts} {st0 : State} {target : BitVec 4} {unit : BitVec 8} {spare : BitVec 5} {loc : BitVec 39} {s : State} (hk0 :
    Keeps pm st0 s) (p_mem : pm.mem = true := by assumption) (p_hives : pm.hives = true := by assumption) (p_err : pm.err = true := by assumption) : ∃
    u0, execReadRaw target unit spare loc s = .next u0 ∧ Keeps pm st0 u0 := by
  unfold execReadRaw
  refine ⟨_, rfl, ?_⟩
  try dsimp only
  with_reducible repeat' (first | assumption | apply State.checkAccess_keeps | apply Keeps.ite | (split <;> try dsimp only))

theorem execWriteRaw_keeps {pm : Parts} {st0 : State} {target : BitVec 4} {unit : BitVec 8} {spare : BitVec 5} {loc : BitVec 39} {s : State} (hk0 :
    Keeps pm st0 s) (p_mem : pm.mem = true := by assumption) (p_hives : pm.hives = true := by assumption) (p_err : pm.err = true := by assumption) : ∃
    u0, execWriteRaw target unit spare loc s = .next u0 ∧ Keeps pm st0 u0 := by
  unfold execWriteRaw
  refine ⟨_, rfl, ?_⟩
  try dsimp only
  with_reducible repeat' (first | assumption | apply State.checkAccess_keeps | apply Keeps.ite | (split <;> try dsimp only))

end Sys2Proof.Machine
end

