-- ==== Sys2Proof/Laws/KeepMirror.lean ====
section
/-!
SUPPORT. KeepMirror.lean: each operation of Machine/Mirror.lean keeps: the invariant, the queue, and every part of the state that no hypothesis names.
-/
namespace Sys2Proof.Machine
set_option Elab.async false

theorem State.pairEnter_keeps {pm : Parts} {st0 : State} {s : State} {st : PairSt} (hk0 : Keeps pm st0 s) (p_mirror : pm.mirror = true := by
    assumption) (p_mgmt : pm.mgmt = true := by assumption) : Keeps pm st0 (State.pairEnter s st) := by
  unfold State.pairEnter
  try dsimp only
  with_reducible repeat' (first | assumption | apply State.irq_keeps | apply State.notice_keeps
                                | (refine Keeps.lit ?_ rfl; first | assumption | apply State.irq_keeps | apply State.notice_keeps)
                                | (split <;> try dsimp only))

theorem State.sendMack_keeps {pm : Parts} {st0 : State} {s : State} {flags : Nat} (hk0 : Keeps pm st0 s) (p_sched : pm.sched = true := by assumption)
    (p_fxps : pm.fxps = true := by assumption) (p_mirror : pm.mirror = true := by assumption) (p_power : pm.power = true := by assumption) (p_count :
    pm.count = true := by assumption) : Keeps pm st0 (State.sendMack s flags) := by
  unfold State.sendMack
  try dsimp only
  with_reducible repeat' (first | assumption | apply State.offerM_keeps | (refine Keeps.lit ?_ rfl; first | assumption | apply State.offerM_keeps)
                                | (split <;> try dsimp only))

theorem State.sendHeart_keeps {pm : Parts} {st0 : State} {s : State} (hk0 : Keeps pm st0 s) (p_sched : pm.sched = true := by assumption) (p_fxps :
    pm.fxps = true := by assumption) (p_mirror : pm.mirror = true := by assumption) (p_power : pm.power = true := by assumption) (p_count : pm.count =
    true := by assumption) : Keeps pm st0 (State.sendHeart s) := by
  unfold State.sendHeart
  try dsimp only
  with_reducible repeat' (first | assumption | apply State.offerM_keeps | (refine Keeps.lit ?_ rfl; first | assumption | apply State.offerM_keeps)
                                | (split <;> try dsimp only))

theorem State.sendSetup_keeps {pm : Parts} {st0 : State} {s : State} {i : Nat} (hk0 : Keeps pm st0 s) (p_sched : pm.sched = true := by assumption)
    (p_fxps : pm.fxps = true := by assumption) (p_mirror : pm.mirror = true := by assumption) (p_power : pm.power = true := by assumption) (p_count :
    pm.count = true := by assumption) : Keeps pm st0 (State.sendSetup s i) := by
  unfold State.sendSetup
  try dsimp only
  with_reducible repeat' (first | assumption | apply State.sendSeq_keeps | (split <;> try dsimp only))

theorem State.pairUp_keeps {pm : Parts} {st0 : State} {s : State} {st : PairSt} (hk0 : Keeps pm st0 s) (p_sched : pm.sched = true := by assumption)
    (p_fxps : pm.fxps = true := by assumption) (p_mirror : pm.mirror = true := by assumption) (p_power : pm.power = true := by assumption) (p_count :
    pm.count = true := by assumption) (p_mgmt : pm.mgmt = true := by assumption) : Keeps pm st0 (State.pairUp s st) := by
  unfold State.pairUp
  try dsimp only
  with_reducible repeat' (first | assumption | apply State.sendHeart_keeps | apply State.pairEnter_keeps | apply State.sendSetup_keeps
                                | apply Keeps.foldl | refine Keeps.foldlP ?_ ?_
                                | (refine Keeps.lit ?_ rfl; first | assumption | apply State.sendHeart_keeps | apply State.pairEnter_keeps | apply State.sendSetup_keeps | apply Keeps.foldl)
                                | (intro _ _ _; try dsimp only) | (split <;> try dsimp only))

theorem State.restoredTry_keeps {pm : Parts} {st0 : State} {s : State} (hk0 : Keeps pm st0 s) (p_err : pm.err = true := by assumption) (p_mirror :
    pm.mirror = true := by assumption) (p_trace : pm.trace = true := by assumption) (p_mgmt : pm.mgmt = true := by assumption) : Keeps pm st0
    (State.restoredTry s) := by
  unfold State.restoredTry
  try dsimp only
  with_reducible repeat' (first | assumption | apply State.raise_keeps | apply State.pairEnter_keeps | apply Keeps.ite | (split <;> try dsimp only))

theorem State.pairJoin_keeps {pm : Parts} {st0 : State} {s : State} (hk0 : Keeps pm st0 s) (p_mirror : pm.mirror = true := by assumption) (p_mgmt :
    pm.mgmt = true := by assumption) : Keeps pm st0 (State.pairJoin s).1 := by
  unfold State.pairJoin
  try dsimp only
  with_reducible repeat' (first | assumption | apply State.pairEnter_keeps | apply Keeps.ite | (apply Keeps.iteFst <;> try dsimp only)
                                | (refine Keeps.lit ?_ rfl; first | assumption | apply State.pairEnter_keeps | apply Keeps.ite)
                                | (split <;> try dsimp only))

theorem State.pairLeave_keeps {pm : Parts} {st0 : State} {s : State} (hk0 : Keeps pm st0 s) (p_sched : pm.sched = true := by assumption) (p_fxps :
    pm.fxps = true := by assumption) (p_mirror : pm.mirror = true := by assumption) (p_power : pm.power = true := by assumption) (p_count : pm.count =
    true := by assumption) : Keeps pm st0 (State.pairLeave s).1 := by
  unfold State.pairLeave
  try dsimp only
  with_reducible repeat' (first | assumption | apply State.sendSeq_keeps | apply Keeps.ite | (apply Keeps.iteFst <;> try dsimp only)
                                | (split <;> try dsimp only))

theorem execPairJoin_keeps {pm : Parts} {st0 : State} {s : State} (hk0 : Keeps pm st0 s) (p_mirror : pm.mirror = true := by assumption) (p_mgmt :
    pm.mgmt = true := by assumption) : ∃ u0, execPairJoin s = .next u0 ∧ Keeps pm st0 u0 := by
  unfold execPairJoin
  refine ⟨_, rfl, ?_⟩
  try dsimp only
  with_reducible repeat' (first | assumption | apply State.pairJoin_keeps | (refine Keeps.ofFst (by assumption) ?_) | (split <;> try dsimp only))

theorem execPairLeave_keeps {pm : Parts} {st0 : State} {s : State} (hk0 : Keeps pm st0 s) (p_sched : pm.sched = true := by assumption) (p_fxps :
    pm.fxps = true := by assumption) (p_mirror : pm.mirror = true := by assumption) (p_power : pm.power = true := by assumption) (p_count : pm.count =
    true := by assumption) : ∃ u0, execPairLeave s = .next u0 ∧ Keeps pm st0 u0 := by
  unfold execPairLeave
  refine ⟨_, rfl, ?_⟩
  try dsimp only
  with_reducible repeat' (first | assumption | apply State.pairLeave_keeps | (refine Keeps.ofFst (by assumption) ?_) | (split <;> try dsimp only))

theorem State.partnerLost_keeps {pm : Parts} {st0 : State} {s : State} {cause : Nat} (hk0 : Keeps pm st0 s) (p_mirror : pm.mirror = true := by
    assumption) : Keeps pm st0 (State.partnerLost s cause) := by
  unfold State.partnerLost
  try dsimp only
  with_reducible repeat' (first | assumption | apply Keeps.ite | (refine Keeps.lit ?_ rfl; first | assumption | apply Keeps.ite)
                                | (split <;> try dsimp only))

theorem execMheartSend_keeps {pm : Parts} {st0 : State} {s : State} (hk0 : Keeps pm st0 s) (p_sched : pm.sched = true := by assumption) (p_fxps :
    pm.fxps = true := by assumption) (p_mirror : pm.mirror = true := by assumption) (p_power : pm.power = true := by assumption) (p_count : pm.count =
    true := by assumption) (p_mgmt : pm.mgmt = true := by assumption) : ∃ u0, execMheartSend s = .next u0 ∧ Keeps pm st0 u0 := by
  unfold execMheartSend
  refine ⟨_, rfl, ?_⟩
  try dsimp only
  with_reducible repeat' (first | assumption | apply State.sendHeart_keeps | apply State.pairUp_keeps | apply Keeps.ite | (split <;> try dsimp only))

theorem execHeartbeatTimeout_keeps {pm : Parts} {st0 : State} {s : State} (hk0 : Keeps pm st0 s) (p_mirror : pm.mirror = true := by assumption) : ∃
    u0, execHeartbeatTimeout s = .next u0 ∧ Keeps pm st0 u0 := by
  unfold execHeartbeatTimeout
  refine ⟨_, rfl, ?_⟩
  try dsimp only
  with_reducible repeat' (first | assumption | apply State.partnerLost_keeps | apply Keeps.ite | (split <;> try dsimp only))

theorem State.mframeSeen_keeps {pm : Parts} {st0 : State} {s : State} {kind : Nat} {f : MFrame} (hk0 : Keeps pm st0 s) (p_sched : pm.sched = true :=
    by assumption) (p_fxps : pm.fxps = true := by assumption) (p_err : pm.err = true := by assumption) (p_journal : pm.journal = true := by
    assumption) (p_power : pm.power = true := by assumption) (p_trace : pm.trace = true := by assumption) (p_count : pm.count = true := by assumption)
    (p_mgmt : pm.mgmt = true := by assumption) : Keeps pm st0 (State.mframeSeen s kind f) := by
  unfold State.mframeSeen
  try dsimp only
  with_reducible repeat' (first | assumption | apply State.account_keeps | apply State.recInput_keeps | apply State.pev_keeps
                                | (refine Keeps.lit ?_ rfl; first | assumption | apply State.account_keeps | apply State.recInput_keeps | apply State.pev_keeps)
                                | (split <;> try dsimp only))

theorem State.seqApply_keeps {pm : Parts} {st0 : State} {s : State} {kind : Nat} {f : MFrame} {now_ : Bool} {go : State → State × Nat} (hk0 : Keeps pm
    st0 s) (hgo : ∀ s, Keeps pm st0 s → Keeps pm st0 (go s).1) (p_sched : pm.sched = true := by assumption) (p_fxps : pm.fxps = true := by assumption)
    (p_err : pm.err = true := by assumption) (p_mirror : pm.mirror = true := by assumption) (p_journal : pm.journal = true := by assumption) (p_power
    : pm.power = true := by assumption) (p_trace : pm.trace = true := by assumption) (p_count : pm.count = true := by assumption) (p_mgmt : pm.mgmt =
    true := by assumption) : Keeps pm st0 (State.seqApply s kind f now_ go) := by
  unfold State.seqApply
  try dsimp only
  with_reducible repeat' (first | assumption | apply State.mframeSeen_keeps | apply State.partnerLost_keeps | apply State.raise_keeps
                                | apply State.cadd_keeps | apply State.sendMack_keeps | apply hgo | apply Keeps.ite
                                | (refine Keeps.lit ?_ rfl; first | assumption | apply State.mframeSeen_keeps | apply State.partnerLost_keeps | apply State.raise_keeps | apply State.cadd_keeps | apply State.sendMack_keeps | apply hgo | apply Keeps.ite)
                                | (split <;> try dsimp only))

theorem State.copyLine_keeps {pm : Parts} {st0 : State} {s : State} {i : Nat} {off : Nat} {kind : AccKind} {code : Nat} {mask : Dword} {d : Line} (hk0
    : Keeps pm st0 s) (p_mem : pm.mem = true := by assumption) (p_tiers : pm.tiers = true := by assumption) : Keeps pm st0 (State.copyLine s i off
    kind code mask d) := by
  unfold State.copyLine
  try dsimp only
  with_reducible repeat' (first | assumption | apply State.tierWrite_keeps | apply Keeps.ite | (split <;> try dsimp only))

theorem State.copyFrame_keeps {pm : Parts} {st0 : State} {s : State} {f : MFrame} {kind : AccKind} (hk0 : Keeps pm st0 s) (p_mem : pm.mem = true := by
    assumption) (p_tiers : pm.tiers = true := by assumption) (p_err : pm.err = true := by assumption) (p_mirror : pm.mirror = true := by assumption)
    (p_trace : pm.trace = true := by assumption) (p_mgmt : pm.mgmt = true := by assumption) : Keeps pm st0 (State.copyFrame s f kind) := by
  unfold State.copyFrame
  try dsimp only
  with_reducible repeat' (first | assumption | apply State.copyLine_keeps | apply State.restoredTry_keeps | apply State.setReserve_keeps
                                | apply Keeps.ite | apply Keeps.foldl | refine Keeps.foldlP ?_ ?_ | (intro _ _ _; try dsimp only)
                                | (split <;> try dsimp only))

theorem execMwriteRecv_keeps {pm : Parts} {st0 : State} {f : MFrame} {s : State} (hk0 : Keeps pm st0 s) (p_sched : pm.sched = true := by assumption)
    (p_mem : pm.mem = true := by assumption) (p_tiers : pm.tiers = true := by assumption) (p_fxps : pm.fxps = true := by assumption) (p_err : pm.err =
    true := by assumption) (p_mirror : pm.mirror = true := by assumption) (p_journal : pm.journal = true := by assumption) (p_power : pm.power = true
    := by assumption) (p_trace : pm.trace = true := by assumption) (p_count : pm.count = true := by assumption) (p_mgmt : pm.mgmt = true := by
    assumption) : ∃ u0, execMwriteRecv f s = .next u0 ∧ Keeps pm st0 u0 := by
  unfold execMwriteRecv
  refine ⟨_, rfl, ?_⟩
  try dsimp only
  with_reducible repeat' (first | assumption | apply State.seqApply_keeps | apply State.copyFrame_keeps | (intro _ _; try dsimp only)
                                | (split <;> try dsimp only))

theorem execMaccRecv_keeps {pm : Parts} {st0 : State} {f : MFrame} {s : State} (hk0 : Keeps pm st0 s) (p_sched : pm.sched = true := by assumption)
    (p_mem : pm.mem = true := by assumption) (p_tiers : pm.tiers = true := by assumption) (p_fxps : pm.fxps = true := by assumption) (p_err : pm.err =
    true := by assumption) (p_mirror : pm.mirror = true := by assumption) (p_journal : pm.journal = true := by assumption) (p_power : pm.power = true
    := by assumption) (p_trace : pm.trace = true := by assumption) (p_count : pm.count = true := by assumption) (p_mgmt : pm.mgmt = true := by
    assumption) : ∃ u0, execMaccRecv f s = .next u0 ∧ Keeps pm st0 u0 := by
  unfold execMaccRecv
  refine ⟨_, rfl, ?_⟩
  try dsimp only
  with_reducible repeat' (first | assumption | apply State.seqApply_keeps | apply State.copyFrame_keeps | (intro _ _; try dsimp only)
                                | (split <;> try dsimp only))

theorem execMjournalRecv_keeps {pm : Parts} {st0 : State} {f : MFrame} {s : State} (hk0 : Keeps pm st0 s) (p_sched : pm.sched = true := by assumption)
    (p_fxps : pm.fxps = true := by assumption) (p_err : pm.err = true := by assumption) (p_mirror : pm.mirror = true := by assumption) (p_journal :
    pm.journal = true := by assumption) (p_power : pm.power = true := by assumption) (p_trace : pm.trace = true := by assumption) (p_count : pm.count
    = true := by assumption) (p_mgmt : pm.mgmt = true := by assumption) : ∃ u0, execMjournalRecv f s = .next u0 ∧ Keeps pm st0 u0 := by
  unfold execMjournalRecv
  refine ⟨_, rfl, ?_⟩
  try dsimp only
  with_reducible repeat' (first | assumption | apply State.seqApply_keeps | apply Keeps.ite
                                | (refine Keeps.lit ?_ rfl; first | assumption | apply State.seqApply_keeps | apply Keeps.ite)
                                | (intro _ _; try dsimp only) | (split <;> try dsimp only))

theorem State.aliasAll_keeps {pm : Parts} {st0 : State} {s : State} (hk0 : Keeps pm st0 s) (p_flight : pm.flight = true := by assumption) (p_nextId :
    pm.nextId = true := by assumption) (p_hives : pm.hives = true := by assumption) (p_tiers : pm.tiers = true := by assumption) (p_mirror : pm.mirror
    = true := by assumption) (p_count : pm.count = true := by assumption) : Keeps pm st0 (State.aliasAll s) := by
  unfold State.aliasAll
  try dsimp only
  with_reducible repeat' (first | assumption | apply State.edgeDone_keeps | (refine Keeps.flight ?_ (fun n hn => numbered_filter hn) rfl; assumption)
                                | apply Keeps.ite | apply Keeps.foldl | refine Keeps.foldlP ?_ ?_
                                | (refine Keeps.lit ?_ rfl; first | assumption | apply State.edgeDone_keeps | (refine Keeps.flight ?_ (fun n hn => numbered_filter hn) rfl; assumption) | apply Keeps.ite | apply Keeps.foldl)
                                | (intro _ _ _; try dsimp only) | (split <;> try dsimp only))

theorem State.goSolo_keeps {pm : Parts} {st0 : State} {s : State} {replayed : Nat} {abandoned : Nat} (hk0 : Keeps pm st0 s) (p_err : pm.err = true :=
    by assumption) (p_mirror : pm.mirror = true := by assumption) (p_trace : pm.trace = true := by assumption) (p_mgmt : pm.mgmt = true := by
    assumption) : Keeps pm st0 (State.goSolo s replayed abandoned) := by
  unfold State.goSolo
  try dsimp only
  with_reducible repeat' (first | assumption | apply State.pairEnter_keeps | apply State.raise_keeps
                                | (refine Keeps.lit ?_ rfl; first | assumption | apply State.pairEnter_keeps | apply State.raise_keeps)
                                | (split <;> try dsimp only))

theorem execFenceAck_keeps {pm : Parts} {st0 : State} {s : State} (hk0 : Keeps pm st0 s) (p_flight : pm.flight = true := by assumption) (p_nextId :
    pm.nextId = true := by assumption) (p_hives : pm.hives = true := by assumption) (p_tiers : pm.tiers = true := by assumption) (p_mirror : pm.mirror
    = true := by assumption) (p_count : pm.count = true := by assumption) : ∃ u0, execFenceAck s = .next u0 ∧ Keeps pm st0 u0 := by
  unfold execFenceAck
  refine ⟨_, rfl, ?_⟩
  try dsimp only
  with_reducible repeat' (first | assumption | apply State.aliasAll_keeps | apply Keeps.ite | (split <;> try dsimp only))

theorem execSelfFenced_keeps {pm : Parts} {st0 : State} {s : State} (hk0 : Keeps pm st0 s) (p_err : pm.err = true := by assumption) (p_mirror :
    pm.mirror = true := by assumption) (p_trace : pm.trace = true := by assumption) (p_mgmt : pm.mgmt = true := by assumption) : ∃ u0, execSelfFenced
    s = .next u0 ∧ Keeps pm st0 u0 := by
  unfold execSelfFenced
  refine ⟨_, rfl, ?_⟩
  try dsimp only
  with_reducible repeat' (first | assumption | apply State.pairEnter_keeps | apply State.raise_keeps | apply Keeps.ite
                                | (refine Keeps.lit ?_ rfl; first | assumption | apply State.pairEnter_keeps | apply State.raise_keeps | apply Keeps.ite)
                                | (split <;> try dsimp only))

theorem execFenceTimeout_keeps {pm : Parts} {st0 : State} {s : State} (hk0 : Keeps pm st0 s) (p_err : pm.err = true := by assumption) (p_mirror :
    pm.mirror = true := by assumption) (p_trace : pm.trace = true := by assumption) (p_mgmt : pm.mgmt = true := by assumption) : ∃ u0,
    execFenceTimeout s = .next u0 ∧ Keeps pm st0 u0 := by
  unfold execFenceTimeout
  refine ⟨_, rfl, ?_⟩
  try dsimp only
  with_reducible repeat' (first | assumption | apply State.pairEnter_keeps | apply State.raise_keeps | apply Keeps.ite
                                | (refine Keeps.lit ?_ rfl; first | assumption | apply State.pairEnter_keeps | apply State.raise_keeps | apply Keeps.ite)
                                | (split <;> try dsimp only))

theorem State.aliasStore_keeps {pm : Parts} {st0 : State} {s : State} {w : BitVec 512} {o : OutLine} (hk0 : Keeps pm st0 s) (p_flight : pm.flight =
    true := by assumption) (p_nextId : pm.nextId = true := by assumption) (p_sched : pm.sched = true := by assumption) (p_mem : pm.mem = true := by
    assumption) (p_hives : pm.hives = true := by assumption) (p_tiers : pm.tiers = true := by assumption) (p_fxps : pm.fxps = true := by assumption)
    (p_err : pm.err = true := by assumption) (p_mirror : pm.mirror = true := by assumption) (p_power : pm.power = true := by assumption) (p_trace :
    pm.trace = true := by assumption) (p_count : pm.count = true := by assumption) (p_mgmt : pm.mgmt = true := by assumption) : Keeps pm st0
    (State.aliasStore s w o) := by
  unfold State.aliasStore
  try dsimp only
  with_reducible repeat' (first | assumption | apply State.poke_keeps | apply Keeps.ite | (split <;> try dsimp only))

theorem State.aliasRows_keeps {pm : Parts} {st0 : State} {src : Nat} {dst : Nat} {d : Desc} {a3 : Nat} {a4 : Nat} {a5 : State} {t0 : State} (hk0 :
    Keeps pm st0 a5) (he : State.aliasRows src dst d a3 a4 a5 = some t0) (p_flight : pm.flight = true := by assumption) (p_nextId : pm.nextId = true
    := by assumption) (p_sched : pm.sched = true := by assumption) (p_mem : pm.mem = true := by assumption) (p_hives : pm.hives = true := by
    assumption) (p_tiers : pm.tiers = true := by assumption) (p_fxps : pm.fxps = true := by assumption) (p_err : pm.err = true := by assumption)
    (p_mirror : pm.mirror = true := by assumption) (p_power : pm.power = true := by assumption) (p_trace : pm.trace = true := by assumption) (p_count
    : pm.count = true := by assumption) (p_mgmt : pm.mgmt = true := by assumption) : Keeps pm st0 t0 := by
  induction a3 generalizing src dst d a4 a5 t0 with
  | zero =>
    unfold State.aliasRows at he
    try dsimp only at he
    repeat' (split at he)
    all_goals first | contradiction | (replace he := Option.some.inj he; first | cases he | skip) | skip
    all_goals (try dsimp only)
    all_goals with_reducible repeat' (first | assumption | apply State.aliasStore_keeps | (refine ih ?_ (by assumption)) | apply Keeps.ite
                                            | apply Keeps.foldl | refine Keeps.foldlP ?_ ?_ | (intro _ _ _; try dsimp only)
                                            | (split <;> try dsimp only))
  | succ n ih =>
    unfold State.aliasRows at he
    try dsimp only at he
    repeat' (split at he)
    all_goals first | contradiction | (replace he := Option.some.inj he; first | cases he | skip) | skip
    all_goals (try dsimp only)
    all_goals with_reducible repeat' (first | assumption | apply State.aliasStore_keeps | (refine ih ?_ (by assumption)) | apply Keeps.ite
                                            | apply Keeps.foldl | refine Keeps.foldlP ?_ ?_ | (intro _ _ _; try dsimp only)
                                            | (split <;> try dsimp only))

theorem State.replayEntry_keeps {pm : Parts} {st0 : State} {s : State} {e : BitVec 512} {t0 : State} (hk0 : Keeps pm st0 s) (he : State.replayEntry s
    e = some t0) (p_flight : pm.flight = true := by assumption) (p_nextId : pm.nextId = true := by assumption) (p_sched : pm.sched = true := by
    assumption) (p_mem : pm.mem = true := by assumption) (p_hives : pm.hives = true := by assumption) (p_tiers : pm.tiers = true := by assumption)
    (p_fxps : pm.fxps = true := by assumption) (p_err : pm.err = true := by assumption) (p_mirror : pm.mirror = true := by assumption) (p_power :
    pm.power = true := by assumption) (p_trace : pm.trace = true := by assumption) (p_count : pm.count = true := by assumption) (p_mgmt : pm.mgmt =
    true := by assumption) : Keeps pm st0 t0 := by
  unfold State.replayEntry at he
  try dsimp only at he
  repeat' (split at he)
  all_goals first | contradiction | (replace he := Option.some.inj he; first | cases he | skip) | skip
  all_goals (try dsimp only)
  all_goals with_reducible repeat' (first | assumption | (refine State.aliasRows_keeps ?_ (by assumption)) | apply Keeps.ite | apply Keeps.foldl
                                          | refine Keeps.foldlP ?_ ?_ | (intro _ _ _; try dsimp only) | (split <;> try dsimp only))

theorem State.replayStep_keeps {pm : Parts} {st0 : State} {a : State × Nat × Nat} {e : Nat × BitVec 512} (hk0 : Keeps pm st0 a.1) (p_flight :
    pm.flight = true := by assumption) (p_nextId : pm.nextId = true := by assumption) (p_sched : pm.sched = true := by assumption) (p_mem : pm.mem =
    true := by assumption) (p_hives : pm.hives = true := by assumption) (p_tiers : pm.tiers = true := by assumption) (p_fxps : pm.fxps = true := by
    assumption) (p_err : pm.err = true := by assumption) (p_mirror : pm.mirror = true := by assumption) (p_journal : pm.journal = true := by
    assumption) (p_power : pm.power = true := by assumption) (p_trace : pm.trace = true := by assumption) (p_count : pm.count = true := by assumption)
    (p_mgmt : pm.mgmt = true := by assumption) : Keeps pm st0 (State.replayStep a e).1 := by
  unfold State.replayStep
  try dsimp only
  with_reducible repeat' (first | assumption | apply State.cadd_keeps | apply State.raise_keeps | (refine State.replayEntry_keeps ?_ (by assumption))
                                | (refine Keeps.lit ?_ rfl; first | assumption | apply State.cadd_keeps | apply State.raise_keeps | (refine State.replayEntry_keeps ?_ (by assumption)))
                                | (split <;> try dsimp only))

theorem execFailoverReplayDone_keeps {pm : Parts} {st0 : State} {s : State} (hk0 : Keeps pm st0 s) (p_flight : pm.flight = true := by assumption)
    (p_nextId : pm.nextId = true := by assumption) (p_sched : pm.sched = true := by assumption) (p_mem : pm.mem = true := by assumption) (p_hives :
    pm.hives = true := by assumption) (p_tiers : pm.tiers = true := by assumption) (p_fxps : pm.fxps = true := by assumption) (p_err : pm.err = true
    := by assumption) (p_mirror : pm.mirror = true := by assumption) (p_journal : pm.journal = true := by assumption) (p_power : pm.power = true := by
    assumption) (p_trace : pm.trace = true := by assumption) (p_count : pm.count = true := by assumption) (p_mgmt : pm.mgmt = true := by assumption) :
    ∃ u0, execFailoverReplayDone s = .next u0 ∧ Keeps pm st0 u0 := by
  unfold execFailoverReplayDone
  refine ⟨_, rfl, ?_⟩
  try dsimp only
  with_reducible repeat' (first | assumption | apply State.replayStep_keeps | apply State.goSolo_keeps | apply Keeps.ite | apply Keeps.foldl
                                | (refine Keeps.ofFst (by assumption) ?_) | (apply Keeps.iteFst <;> try dsimp only) | refine Keeps.foldlP ?_ ?_
                                | (intro _ _ _; try dsimp only) | (split <;> try dsimp only))

theorem State.mwaitEnd_keeps {pm : Parts} {st0 : State} {s : State} {flags : Nat} {last : Bool} {a3 : MWait} (hk0 : Keeps pm st0 s) (p_flight :
    pm.flight = true := by assumption) (p_nextId : pm.nextId = true := by assumption) (p_sched : pm.sched = true := by assumption) (p_hives : pm.hives
    = true := by assumption) (p_tiers : pm.tiers = true := by assumption) (p_fxps : pm.fxps = true := by assumption) (p_err : pm.err = true := by
    assumption) (p_mirror : pm.mirror = true := by assumption) (p_power : pm.power = true := by assumption) (p_trace : pm.trace = true := by
    assumption) (p_count : pm.count = true := by assumption) (p_mgmt : pm.mgmt = true := by assumption) : Keeps pm st0 (State.mwaitEnd s flags last
    a3) := by
  unfold State.mwaitEnd
  try dsimp only
  with_reducible repeat' (first | assumption | apply State.raise_keeps | apply State.setRegion_keeps | apply State.restoredTry_keeps
                                | apply State.edgeDone_keeps | apply State.sendSeq_keeps | apply State.pairEnter_keeps | apply Keeps.ite
                                | (refine Keeps.lit ?_ rfl; first | assumption | apply State.raise_keeps | apply State.setRegion_keeps | apply State.restoredTry_keeps | apply State.edgeDone_keeps | apply State.sendSeq_keeps | apply State.pairEnter_keeps | apply Keeps.ite)
                                | (split <;> try dsimp only))

theorem State.mackTake_keeps {pm : Parts} {st0 : State} {s : State} {n : Nat} {flags : Nat} (hk0 : Keeps pm st0 s) (p_flight : pm.flight = true := by
    assumption) (p_nextId : pm.nextId = true := by assumption) (p_sched : pm.sched = true := by assumption) (p_hives : pm.hives = true := by
    assumption) (p_tiers : pm.tiers = true := by assumption) (p_fxps : pm.fxps = true := by assumption) (p_err : pm.err = true := by assumption)
    (p_mirror : pm.mirror = true := by assumption) (p_power : pm.power = true := by assumption) (p_trace : pm.trace = true := by assumption) (p_count
    : pm.count = true := by assumption) (p_mgmt : pm.mgmt = true := by assumption) : Keeps pm st0 (State.mackTake s n flags) := by
  unfold State.mackTake
  try dsimp only
  with_reducible repeat' (first | assumption | apply State.cmax_keeps | apply State.mwaitEnd_keeps | apply Keeps.ite | apply Keeps.foldl
                                | refine Keeps.foldlP ?_ ?_
                                | (refine Keeps.lit ?_ rfl; first | assumption | apply State.cmax_keeps | apply State.mwaitEnd_keeps | apply Keeps.ite | apply Keeps.foldl)
                                | (intro _ _ _; try dsimp only) | (split <;> try dsimp only))

theorem execMackRecv_keeps {pm : Parts} {st0 : State} {f : MFrame} {s : State} (hk0 : Keeps pm st0 s) (p_flight : pm.flight = true := by assumption)
    (p_nextId : pm.nextId = true := by assumption) (p_sched : pm.sched = true := by assumption) (p_hives : pm.hives = true := by assumption) (p_tiers
    : pm.tiers = true := by assumption) (p_fxps : pm.fxps = true := by assumption) (p_err : pm.err = true := by assumption) (p_mirror : pm.mirror =
    true := by assumption) (p_journal : pm.journal = true := by assumption) (p_power : pm.power = true := by assumption) (p_trace : pm.trace = true :=
    by assumption) (p_count : pm.count = true := by assumption) (p_mgmt : pm.mgmt = true := by assumption) : ∃ u0, execMackRecv f s = .next u0 ∧ Keeps
    pm st0 u0 := by
  unfold execMackRecv
  refine ⟨_, rfl, ?_⟩
  try dsimp only
  with_reducible repeat' (first | assumption | apply State.mackTake_keeps | apply State.mframeSeen_keeps | apply Keeps.ite
                                | (split <;> try dsimp only))

theorem execMheartRecv_keeps {pm : Parts} {st0 : State} {f : MFrame} {s : State} (hk0 : Keeps pm st0 s) (p_flight : pm.flight = true := by assumption)
    (p_nextId : pm.nextId = true := by assumption) (p_sched : pm.sched = true := by assumption) (p_hives : pm.hives = true := by assumption) (p_tiers
    : pm.tiers = true := by assumption) (p_fxps : pm.fxps = true := by assumption) (p_err : pm.err = true := by assumption) (p_mirror : pm.mirror =
    true := by assumption) (p_journal : pm.journal = true := by assumption) (p_power : pm.power = true := by assumption) (p_trace : pm.trace = true :=
    by assumption) (p_count : pm.count = true := by assumption) (p_mgmt : pm.mgmt = true := by assumption) : ∃ u0, execMheartRecv f s = .next u0 ∧
    Keeps pm st0 u0 := by
  unfold execMheartRecv
  refine ⟨_, rfl, ?_⟩
  try dsimp only
  with_reducible repeat' (first | assumption | apply State.mframeSeen_keeps | apply State.pairUp_keeps | apply State.mackTake_keeps | apply Keeps.ite
                                | (refine Keeps.lit ?_ rfl; first | assumption | apply State.mframeSeen_keeps | apply State.pairUp_keeps | apply State.mackTake_keeps | apply Keeps.ite)
                                | (split <;> try dsimp only))

theorem execMfenceRecv_keeps {pm : Parts} {st0 : State} {f : MFrame} {s : State} (hk0 : Keeps pm st0 s) (p_flight : pm.flight = true := by assumption)
    (p_nextId : pm.nextId = true := by assumption) (p_sched : pm.sched = true := by assumption) (p_hives : pm.hives = true := by assumption) (p_tiers
    : pm.tiers = true := by assumption) (p_fxps : pm.fxps = true := by assumption) (p_err : pm.err = true := by assumption) (p_mirror : pm.mirror =
    true := by assumption) (p_journal : pm.journal = true := by assumption) (p_power : pm.power = true := by assumption) (p_trace : pm.trace = true :=
    by assumption) (p_count : pm.count = true := by assumption) (p_mgmt : pm.mgmt = true := by assumption) : ∃ u0, execMfenceRecv f s = .next u0 ∧
    Keeps pm st0 u0 := by
  unfold execMfenceRecv
  refine ⟨_, rfl, ?_⟩
  try dsimp only
  with_reducible repeat' (first | assumption | apply State.seqApply_keeps | apply State.setReserve_keeps | apply State.goSolo_keeps
                                | apply State.aliasAll_keeps | apply Keeps.ite
                                | (refine Keeps.lit ?_ rfl; first | assumption | apply State.seqApply_keeps | apply State.setReserve_keeps | apply State.goSolo_keeps | apply State.aliasAll_keeps | apply Keeps.ite)
                                | (intro _ _; try dsimp only) | (split <;> try dsimp only))

theorem State.startRestore_keeps {pm : Parts} {st0 : State} {s : State} {i : Nat} (hk0 : Keeps pm st0 s) (p_mirror : pm.mirror = true := by
    assumption) : Keeps pm st0 (State.startRestore s i) := by
  unfold State.startRestore
  try dsimp only
  with_reducible repeat' (first | assumption | apply State.setReserve_keeps
                                | (refine Keeps.lit ?_ rfl; first | assumption | apply State.setReserve_keeps) | (split <;> try dsimp only))

theorem execMsetupRecv_keeps {pm : Parts} {st0 : State} {f : MFrame} {s : State} (hk0 : Keeps pm st0 s) (p_sched : pm.sched = true := by assumption)
    (p_fxps : pm.fxps = true := by assumption) (p_err : pm.err = true := by assumption) (p_mirror : pm.mirror = true := by assumption) (p_journal :
    pm.journal = true := by assumption) (p_power : pm.power = true := by assumption) (p_trace : pm.trace = true := by assumption) (p_count : pm.count
    = true := by assumption) (p_mgmt : pm.mgmt = true := by assumption) : ∃ u0, execMsetupRecv f s = .next u0 ∧ Keeps pm st0 u0 := by
  unfold execMsetupRecv
  refine ⟨_, rfl, ?_⟩
  try dsimp only
  with_reducible repeat' (first | assumption | apply State.seqApply_keeps | apply State.setReserve_keeps | apply State.startRestore_keeps
                                | apply Keeps.ite | (intro _ _; try dsimp only) | (split <;> try dsimp only))

theorem execMreqRecv_keeps {pm : Parts} {st0 : State} {f : MFrame} {s : State} (hk0 : Keeps pm st0 s) (p_sched : pm.sched = true := by assumption)
    (p_fxps : pm.fxps = true := by assumption) (p_err : pm.err = true := by assumption) (p_mirror : pm.mirror = true := by assumption) (p_journal :
    pm.journal = true := by assumption) (p_power : pm.power = true := by assumption) (p_trace : pm.trace = true := by assumption) (p_count : pm.count
    = true := by assumption) (p_mgmt : pm.mgmt = true := by assumption) : ∃ u0, execMreqRecv f s = .next u0 ∧ Keeps pm st0 u0 := by
  unfold execMreqRecv
  refine ⟨_, rfl, ?_⟩
  try dsimp only
  with_reducible repeat' (first | assumption | apply State.seqApply_keeps | apply State.sendSeq_keeps | apply Keeps.ite | apply Keeps.foldl
                                | refine Keeps.foldlP ?_ ?_ | (intro _ _ _; try dsimp only) | (intro _ _; try dsimp only)
                                | (split <;> try dsimp only))

theorem State.ownLine_keeps {pm : Parts} {st0 : State} {s : State} {ga : Nat} {d : Line} (hk0 : Keeps pm st0 s) (p_mem : pm.mem = true := by
    assumption) (p_hives : pm.hives = true := by assumption) (p_tiers : pm.tiers = true := by assumption) (p_err : pm.err = true := by assumption) :
    Keeps pm st0 (State.ownLine s ga d) := by
  unfold State.ownLine
  try dsimp only
  with_reducible repeat' (first | assumption | apply State.tierWrite_keeps | apply State.clearPz_keeps | apply State.rowTouched_keeps
                                | apply State.setRow_keeps | (split <;> try dsimp only))

theorem execMretRecv_keeps {pm : Parts} {st0 : State} {f : MFrame} {s : State} (hk0 : Keeps pm st0 s) (p_sched : pm.sched = true := by assumption)
    (p_mem : pm.mem = true := by assumption) (p_hives : pm.hives = true := by assumption) (p_tiers : pm.tiers = true := by assumption) (p_fxps :
    pm.fxps = true := by assumption) (p_err : pm.err = true := by assumption) (p_mirror : pm.mirror = true := by assumption) (p_journal : pm.journal =
    true := by assumption) (p_power : pm.power = true := by assumption) (p_trace : pm.trace = true := by assumption) (p_count : pm.count = true := by
    assumption) (p_mgmt : pm.mgmt = true := by assumption) : ∃ u0, execMretRecv f s = .next u0 ∧ Keeps pm st0 u0 := by
  unfold execMretRecv
  refine ⟨_, rfl, ?_⟩
  try dsimp only
  with_reducible repeat' (first | assumption | apply State.seqApply_keeps | apply State.ownLine_keeps | apply State.restoredTry_keeps
                                | apply State.setRegion_keeps | apply Keeps.ite | apply Keeps.foldl | refine Keeps.foldlP ?_ ?_
                                | (intro _ _ _; try dsimp only) | (intro _ _; try dsimp only) | (split <;> try dsimp only))

theorem execMackTimer_keeps {pm : Parts} {st0 : State} {s : State} (hk0 : Keeps pm st0 s) (p_sched : pm.sched = true := by assumption) (p_fxps :
    pm.fxps = true := by assumption) (p_mirror : pm.mirror = true := by assumption) (p_power : pm.power = true := by assumption) (p_count : pm.count =
    true := by assumption) : ∃ u0, execMackTimer s = .next u0 ∧ Keeps pm st0 u0 := by
  unfold execMackTimer
  refine ⟨_, rfl, ?_⟩
  try dsimp only
  with_reducible repeat' (first | assumption | apply State.sendMack_keeps | apply Keeps.ite | (split <;> try dsimp only))

theorem execMirrorLag_keeps {pm : Parts} {st0 : State} {s : State} (hk0 : Keeps pm st0 s) (p_err : pm.err = true := by assumption) (p_mirror :
    pm.mirror = true := by assumption) (p_trace : pm.trace = true := by assumption) (p_mgmt : pm.mgmt = true := by assumption) : ∃ u0, execMirrorLag s
    = .next u0 ∧ Keeps pm st0 u0 := by
  unfold execMirrorLag
  refine ⟨_, rfl, ?_⟩
  try dsimp only
  with_reducible repeat' (first | assumption | apply State.raise_keeps | apply Keeps.ite
                                | (refine Keeps.lit ?_ rfl; first | assumption | apply State.raise_keeps | apply Keeps.ite)
                                | (split <;> try dsimp only))

theorem State.regionWrite_keeps {pm : Parts} {st0 : State} {s : State} {i : Nat} {v : Quad} (hk0 : Keeps pm st0 s) (p_sched : pm.sched = true := by
    assumption) (p_fxps : pm.fxps = true := by assumption) (p_mirror : pm.mirror = true := by assumption) (p_power : pm.power = true := by assumption)
    (p_count : pm.count = true := by assumption) : Keeps pm st0 (State.regionWrite s i v).1 := by
  unfold State.regionWrite
  try dsimp only
  with_reducible repeat' (first | assumption | apply State.setRegion_keeps | apply State.sendSetup_keeps | apply State.sendSeq_keeps | apply Keeps.ite
                                | (apply Keeps.iteFst <;> try dsimp only) | (split <;> try dsimp only))

theorem State.reserveWrite_keeps {pm : Parts} {st0 : State} {s : State} {i : Nat} {v : Quad} (hk0 : Keeps pm st0 s) (p_mirror : pm.mirror = true := by
    assumption) : Keeps pm st0 (State.reserveWrite s i v).1 := by
  unfold State.reserveWrite
  try dsimp only
  with_reducible repeat' (first | assumption | apply State.setReserve_keeps | apply Keeps.ite | (apply Keeps.iteFst <;> try dsimp only)
                                | (split <;> try dsimp only))

theorem execMirrorRegionWrite_keeps {pm : Parts} {st0 : State} {i : Fin 64} {v : Quad} {s : State} (hk0 : Keeps pm st0 s) (p_sched : pm.sched = true
    := by assumption) (p_fxps : pm.fxps = true := by assumption) (p_mirror : pm.mirror = true := by assumption) (p_power : pm.power = true := by
    assumption) (p_count : pm.count = true := by assumption) : ∃ u0, execMirrorRegionWrite i v s = .next u0 ∧ Keeps pm st0 u0 := by
  unfold execMirrorRegionWrite
  refine ⟨_, rfl, ?_⟩
  try dsimp only
  with_reducible repeat' (first | assumption | apply State.regionWrite_keeps | apply Keeps.ite | (refine Keeps.ofFst (by assumption) ?_)
                                | (apply Keeps.iteFst <;> try dsimp only) | (split <;> try dsimp only))

theorem execMirrorReserveWrite_keeps {pm : Parts} {st0 : State} {i : Fin 64} {v : Quad} {s : State} (hk0 : Keeps pm st0 s) (p_mirror : pm.mirror =
    true := by assumption) : ∃ u0, execMirrorReserveWrite i v s = .next u0 ∧ Keeps pm st0 u0 := by
  unfold execMirrorReserveWrite
  refine ⟨_, rfl, ?_⟩
  try dsimp only
  with_reducible repeat' (first | assumption | apply State.reserveWrite_keeps | apply Keeps.ite | (refine Keeps.ofFst (by assumption) ?_)
                                | (apply Keeps.iteFst <;> try dsimp only) | (split <;> try dsimp only))

theorem execMirrorSeedRead_keeps {pm : Parts} {st0 : State} {i : Fin 64} {s : State} (hk0 : Keeps pm st0 s) (p_flight : pm.flight = true := by
    assumption) (p_nextId : pm.nextId = true := by assumption) (p_sched : pm.sched = true := by assumption) (p_hives : pm.hives = true := by
    assumption) (p_fxps : pm.fxps = true := by assumption) (p_mirror : pm.mirror = true := by assumption) (p_power : pm.power = true := by assumption)
    (p_count : pm.count = true := by assumption) : ∃ u0, execMirrorSeedRead i s = .next u0 ∧ Keeps pm st0 u0 := by
  unfold execMirrorSeedRead
  refine ⟨_, rfl, ?_⟩
  try dsimp only
  with_reducible repeat' (first | assumption | apply State.occupy_keeps | apply State.putCopy_keeps | apply Keeps.ite
                                | (refine Keeps.lit ?_ rfl; first | assumption | apply State.occupy_keeps | apply State.putCopy_keeps | apply Keeps.ite)
                                | (split <;> try dsimp only))

theorem execMirrorRestorePassEnd_keeps {pm : Parts} {st0 : State} {i : Fin 64} {s : State} (hk0 : Keeps pm st0 s) (p_sched : pm.sched = true := by
    assumption) (p_fxps : pm.fxps = true := by assumption) (p_err : pm.err = true := by assumption) (p_mirror : pm.mirror = true := by assumption)
    (p_power : pm.power = true := by assumption) (p_trace : pm.trace = true := by assumption) (p_count : pm.count = true := by assumption) (p_mgmt :
    pm.mgmt = true := by assumption) : ∃ u0, execMirrorRestorePassEnd i s = .next u0 ∧ Keeps pm st0 u0 := by
  unfold execMirrorRestorePassEnd
  refine ⟨_, rfl, ?_⟩
  try dsimp only
  with_reducible repeat' (first | assumption | apply State.sendSeq_keeps | apply State.setReserve_keeps | apply State.restoredTry_keeps
                                | apply Keeps.ite | apply Keeps.foldl | refine Keeps.foldlP ?_ ?_
                                | (refine Keeps.lit ?_ rfl; first | assumption | apply State.sendSeq_keeps | apply State.setReserve_keeps | apply State.restoredTry_keeps | apply Keeps.ite | apply Keeps.foldl)
                                | (intro _ _ _; try dsimp only) | (split <;> try dsimp only))

theorem State.jPump_keeps {pm : Parts} {st0 : State} {a0 : Nat} {a1 : State} (hk0 : Keeps pm st0 a1) (p_flight : pm.flight = true := by assumption)
    (p_nextId : pm.nextId = true := by assumption) (p_sched : pm.sched = true := by assumption) (p_fxps : pm.fxps = true := by assumption) (p_mirror :
    pm.mirror = true := by assumption) (p_journal : pm.journal = true := by assumption) (p_power : pm.power = true := by assumption) (p_count :
    pm.count = true := by assumption) (p_mgmt : pm.mgmt = true := by assumption) : Keeps pm st0 (State.jPump a0 a1) := by
  induction a0 generalizing a1 with
  | zero =>
    unfold State.jPump
    try dsimp only
    with_reducible repeat' (first | assumption | apply State.jAccept_keeps | apply ih | apply Keeps.ite
                                  | (refine Keeps.lit ?_ rfl; first | assumption | apply State.jAccept_keeps | apply ih | apply Keeps.ite)
                                  | (split <;> try dsimp only))
  | succ n ih =>
    unfold State.jPump
    try dsimp only
    with_reducible repeat' (first | assumption | apply State.jAccept_keeps | apply ih | apply Keeps.ite
                                  | (refine Keeps.lit ?_ rfl; first | assumption | apply State.jAccept_keeps | apply ih | apply Keeps.ite)
                                  | (split <;> try dsimp only))

theorem State.winEntryDone_keeps {pm : Parts} {st0 : State} {s : State} {seq : Nat} {slot : Nat} (hk0 : Keeps pm st0 s) (p_flight : pm.flight = true
    := by assumption) (p_nextId : pm.nextId = true := by assumption) (p_sched : pm.sched = true := by assumption) (p_hives : pm.hives = true := by
    assumption) (p_wins : pm.wins = true := by assumption) (p_fxps : pm.fxps = true := by assumption) (p_err : pm.err = true := by assumption)
    (p_mirror : pm.mirror = true := by assumption) (p_journal : pm.journal = true := by assumption) (p_power : pm.power = true := by assumption)
    (p_trace : pm.trace = true := by assumption) (p_count : pm.count = true := by assumption) (p_mgmt : pm.mgmt = true := by assumption) : Keeps pm
    st0 (State.winEntryDone s seq slot) := by
  unfold State.winEntryDone
  try dsimp only
  with_reducible repeat' (first | assumption | apply State.jChange_keeps | apply State.winEffect_keeps | apply State.setStatus_keeps | apply Keeps.ite
                                | (split <;> try dsimp only))

theorem State.handleEntryDone_keeps {pm : Parts} {st0 : State} {s : State} {seq : Nat} {slot : Nat} (hk0 : Keeps pm st0 s) (p_flight : pm.flight =
    true := by assumption) (p_nextId : pm.nextId = true := by assumption) (p_sched : pm.sched = true := by assumption) (p_hives : pm.hives = true :=
    by assumption) (p_fxps : pm.fxps = true := by assumption) (p_mirror : pm.mirror = true := by assumption) (p_journal : pm.journal = true := by
    assumption) (p_power : pm.power = true := by assumption) (p_count : pm.count = true := by assumption) (p_mgmt : pm.mgmt = true := by assumption) :
    Keeps pm st0 (State.handleEntryDone s seq slot) := by
  unfold State.handleEntryDone
  try dsimp only
  with_reducible repeat' (first | assumption | apply State.jChange_keeps | apply State.startDrain_keeps | apply State.handleStatus_keeps
                                | apply Keeps.ite | (split <;> try dsimp only))

theorem State.hostEntryDone_keeps {pm : Parts} {st0 : State} {s : State} {seq : Nat} {n : Nat} (hk0 : Keeps pm st0 s) (p_flight : pm.flight = true :=
    by assumption) (p_nextId : pm.nextId = true := by assumption) (p_sched : pm.sched = true := by assumption) (p_fxps : pm.fxps = true := by
    assumption) (p_mirror : pm.mirror = true := by assumption) (p_journal : pm.journal = true := by assumption) (p_power : pm.power = true := by
    assumption) (p_count : pm.count = true := by assumption) (p_mgmt : pm.mgmt = true := by assumption) : Keeps pm st0 (State.hostEntryDone s seq n)
    := by
  unfold State.hostEntryDone
  try dsimp only
  with_reducible repeat' (first | assumption | apply State.jChange_keeps | apply State.setReq_keeps | apply State.respond_keeps
                                | (split <;> try dsimp only))

theorem execJournalEntryComplete_keeps {pm : Parts} {st0 : State} {seq : BitVec 48} {s : State} (hk0 : Keeps pm st0 s) (p_flight : pm.flight = true :=
    by assumption) (p_nextId : pm.nextId = true := by assumption) (p_free : pm.free = true := by assumption) (p_sched : pm.sched = true := by
    assumption) (p_mem : pm.mem = true := by assumption) (p_hives : pm.hives = true := by assumption) (p_wins : pm.wins = true := by assumption)
    (p_chans : pm.chans = true := by assumption) (p_tiers : pm.tiers = true := by assumption) (p_fxps : pm.fxps = true := by assumption) (p_err :
    pm.err = true := by assumption) (p_mirror : pm.mirror = true := by assumption) (p_journal : pm.journal = true := by assumption) (p_power :
    pm.power = true := by assumption) (p_trace : pm.trace = true := by assumption) (p_count : pm.count = true := by assumption) (p_mgmt : pm.mgmt =
    true := by assumption) : ∃ u0, execJournalEntryComplete seq s = .next u0 ∧ Keeps pm st0 u0 := by
  unfold execJournalEntryComplete
  refine ⟨_, rfl, ?_⟩
  try dsimp only
  with_reducible repeat' (first | assumption | apply State.hostEntryDone_keeps | apply State.descEntryDone_keeps | apply State.handleEntryDone_keeps
                                | apply State.winEntryDone_keeps | apply State.jPump_keeps | apply State.jAdvance_keeps | apply Keeps.ite
                                | (refine Keeps.lit ?_ rfl; first | assumption | apply State.hostEntryDone_keeps | apply State.descEntryDone_keeps | apply State.handleEntryDone_keeps | apply State.winEntryDone_keeps | apply State.jPump_keeps | apply State.jAdvance_keeps | apply Keeps.ite)
                                | (split <;> try dsimp only))

theorem State.jTail_keeps {pm : Parts} {st0 : State} {s : State} {v : Nat} (hk0 : Keeps pm st0 s) (p_flight : pm.flight = true := by assumption)
    (p_nextId : pm.nextId = true := by assumption) (p_sched : pm.sched = true := by assumption) (p_fxps : pm.fxps = true := by assumption) (p_mirror :
    pm.mirror = true := by assumption) (p_journal : pm.journal = true := by assumption) (p_power : pm.power = true := by assumption) (p_count :
    pm.count = true := by assumption) (p_mgmt : pm.mgmt = true := by assumption) : Keeps pm st0 (State.jTail s v).1 := by
  unfold State.jTail
  try dsimp only
  with_reducible repeat' (first | assumption | apply State.jPump_keeps | apply Keeps.ite | (apply Keeps.iteFst <;> try dsimp only)
                                | (refine Keeps.lit ?_ rfl; first | assumption | apply State.jPump_keeps | apply Keeps.ite)
                                | (split <;> try dsimp only))

theorem execJournalTailWrite_keeps {pm : Parts} {st0 : State} {v : Dword} {s : State} (hk0 : Keeps pm st0 s) (p_flight : pm.flight = true := by
    assumption) (p_nextId : pm.nextId = true := by assumption) (p_sched : pm.sched = true := by assumption) (p_fxps : pm.fxps = true := by assumption)
    (p_mirror : pm.mirror = true := by assumption) (p_journal : pm.journal = true := by assumption) (p_power : pm.power = true := by assumption)
    (p_count : pm.count = true := by assumption) (p_mgmt : pm.mgmt = true := by assumption) : ∃ u0, execJournalTailWrite v s = .next u0 ∧ Keeps pm st0
    u0 := by
  unfold execJournalTailWrite
  refine ⟨_, rfl, ?_⟩
  try dsimp only
  with_reducible repeat' (first | assumption | apply State.jTail_keeps | apply Keeps.ite | (refine Keeps.ofFst (by assumption) ?_)
                                | (apply Keeps.iteFst <;> try dsimp only) | (split <;> try dsimp only))

theorem execFxLost_keeps {pm : Parts} {st0 : State} {k : FxpId} {chip : ChipId} {s : State} (hk0 : Keeps pm st0 s) (p_flight : pm.flight = true := by
    assumption) (p_nextId : pm.nextId = true := by assumption) (p_hives : pm.hives = true := by assumption) (p_fxps : pm.fxps = true := by assumption)
    (p_err : pm.err = true := by assumption) (p_mirror : pm.mirror = true := by assumption) (p_trace : pm.trace = true := by assumption) (p_count :
    pm.count = true := by assumption) (p_mgmt : pm.mgmt = true := by assumption) : ∃ u0, execFxLost k chip s = .next u0 ∧ Keeps pm st0 u0 := by
  unfold execFxLost
  refine ⟨_, rfl, ?_⟩
  try dsimp only
  with_reducible repeat' (first | assumption | apply State.fencesTry_keeps | apply State.partnerLost_keeps | apply Keeps.ite
                                | (refine Keeps.lit ?_ rfl; first | assumption | apply State.fencesTry_keeps | apply State.partnerLost_keeps | apply Keeps.ite)
                                | (split <;> try dsimp only))

end Sys2Proof.Machine
end

