-- ==== Sys2Proof/Laws/KeepPower.lean ====
section
/-!
SUPPORT. KeepPower.lean: each operation of Machine/Power.lean keeps: the invariant, the queue, and every part of the state that no hypothesis names.
-/
namespace Sys2Proof.Machine
set_option Elab.async false

theorem State.learnNeed_keeps {pm : Parts} {st0 : State} {s : State} {ph : Nat} {p : Nat → Int × Nat} (hk0 : Keeps pm st0 s) (p_power : pm.power =
    true := by assumption) : Keeps pm st0 (State.learnNeed s ph p) := by
  unfold State.learnNeed
  try dsimp only
  with_reducible repeat' (first | assumption | apply Keeps.foldl | refine Keeps.foldlP ?_ ?_
                                | (refine Keeps.lit ?_ rfl; first | assumption | apply Keeps.foldl) | (intro _ _ _; try dsimp only)
                                | (split <;> try dsimp only))

theorem State.moveDuties_keeps {pm : Parts} {st0 : State} {s : State} {ph : Nat} {p : Nat → Int × Nat} {aon : Int × Nat} (hk0 : Keeps pm st0 s)
    (p_power : pm.power = true := by assumption) : Keeps pm st0 (State.moveDuties s ph p aon) := by
  unfold State.moveDuties
  try dsimp only
  with_reducible repeat' (first | assumption | apply Keeps.ite | apply Keeps.foldl | refine Keeps.foldlP ?_ ?_
                                | (refine Keeps.lit ?_ rfl; first | assumption | apply Keeps.ite | apply Keeps.foldl) | (intro _ _ _; try dsimp only)
                                | (split <;> try dsimp only))

theorem State.divTest_keeps {pm : Parts} {st0 : State} {s : State} {est : Int × Nat} {meas : Int × Nat} (hk0 : Keeps pm st0 s) (p_power : pm.power =
    true := by assumption) : Keeps pm st0 (State.divTest s est meas) := by
  unfold State.divTest
  try dsimp only
  with_reducible repeat' (first | assumption | apply Keeps.ite | (refine Keeps.lit ?_ rfl; first | assumption | apply Keeps.ite)
                                | (split <;> try dsimp only))

theorem State.thermal_keeps {pm : Parts} {st0 : State} {s : State} {temps : List Nat} (hk0 : Keeps pm st0 s) (p_clk : pm.clk = true := by assumption)
    (p_err : pm.err = true := by assumption) (p_power : pm.power = true := by assumption) (p_trace : pm.trace = true := by assumption) (p_mgmt :
    pm.mgmt = true := by assumption) : Keeps pm st0 (State.thermal s temps) := by
  unfold State.thermal
  try dsimp only
  with_reducible repeat' (first | assumption | apply State.raise_keeps | apply Keeps.ite | apply Keeps.foldl | refine Keeps.foldlP ?_ ?_
                                | (refine Keeps.lit ?_ rfl; first | assumption | apply State.raise_keeps | apply Keeps.ite | apply Keeps.foldl)
                                | (intro _ _ _; try dsimp only) | (split <;> try dsimp only))

theorem State.windowEnd_keeps {pm : Parts} {st0 : State} {s : State} {temps : List Nat} (hk0 : Keeps pm st0 s) (p_clk : pm.clk = true := by
    assumption) (p_err : pm.err = true := by assumption) (p_power : pm.power = true := by assumption) (p_trace : pm.trace = true := by assumption)
    (p_count : pm.count = true := by assumption) (p_mgmt : pm.mgmt = true := by assumption) : Keeps pm st0 (State.windowEnd s temps) := by
  unfold State.windowEnd
  try dsimp only
  with_reducible repeat' (first | assumption | apply State.cadd_keeps | apply State.learnNeed_keeps | apply State.moveDuties_keeps
                                | apply State.thermal_keeps | apply State.divTest_keeps | apply Keeps.ite | apply Keeps.foldl
                                | refine Keeps.foldlP ?_ ?_
                                | (refine Keeps.lit ?_ rfl; first | assumption | apply State.cadd_keeps | apply State.learnNeed_keeps | apply State.moveDuties_keeps | apply State.thermal_keeps | apply State.divTest_keeps | apply Keeps.ite | apply Keeps.foldl)
                                | (intro _ _ _; try dsimp only) | (split <;> try dsimp only))

theorem execEstimatorWindowEnd_keeps {pm : Parts} {st0 : State} {temps : List Nat} {s : State} (hk0 : Keeps pm st0 s) (p_clk : pm.clk = true := by
    assumption) (p_err : pm.err = true := by assumption) (p_power : pm.power = true := by assumption) (p_trace : pm.trace = true := by assumption)
    (p_count : pm.count = true := by assumption) (p_mgmt : pm.mgmt = true := by assumption) : ∃ u0, execEstimatorWindowEnd temps s = .next u0 ∧ Keeps
    pm st0 u0 := by
  unfold execEstimatorWindowEnd
  refine ⟨_, rfl, ?_⟩
  try dsimp only
  with_reducible repeat' (first | assumption | apply State.windowEnd_keeps | apply Keeps.ite | (split <;> try dsimp only))

theorem execRailTelemetrySample_keeps {pm : Parts} {st0 : State} {r : RailId} {mw : BitVec 20} {s : State} (hk0 : Keeps pm st0 s) (p_power : pm.power
    = true := by assumption) : ∃ u0, execRailTelemetrySample r mw s = .next u0 ∧ Keeps pm st0 u0 := by
  unfold execRailTelemetrySample
  refine ⟨_, rfl, ?_⟩
  try dsimp only
  with_reducible repeat' (first | assumption | apply Keeps.ite | (refine Keeps.lit ?_ rfl; first | assumption | apply Keeps.ite)
                                | (split <;> try dsimp only))

theorem execTelemetryLost_keeps {pm : Parts} {st0 : State} {r : RailId} {s : State} (hk0 : Keeps pm st0 s) (p_err : pm.err = true := by assumption)
    (p_power : pm.power = true := by assumption) (p_trace : pm.trace = true := by assumption) (p_mgmt : pm.mgmt = true := by assumption) : ∃ u0,
    execTelemetryLost r s = .next u0 ∧ Keeps pm st0 u0 := by
  unfold execTelemetryLost
  refine ⟨_, rfl, ?_⟩
  try dsimp only
  with_reducible repeat' (first | assumption | apply State.raise_keeps | apply Keeps.ite
                                | (refine Keeps.lit ?_ rfl; first | assumption | apply State.raise_keeps | apply Keeps.ite)
                                | (split <;> try dsimp only))

theorem execPwrDivergence_keeps {pm : Parts} {st0 : State} {s : State} (hk0 : Keeps pm st0 s) (p_err : pm.err = true := by assumption) (p_power :
    pm.power = true := by assumption) (p_trace : pm.trace = true := by assumption) (p_mgmt : pm.mgmt = true := by assumption) : ∃ u0,
    execPwrDivergence s = .next u0 ∧ Keeps pm st0 u0 := by
  unfold execPwrDivergence
  refine ⟨_, rfl, ?_⟩
  try dsimp only
  with_reducible repeat' (first | assumption | apply State.raise_keeps | apply Keeps.ite
                                | (refine Keeps.lit ?_ rfl; first | assumption | apply State.raise_keeps | apply Keeps.ite)
                                | (split <;> try dsimp only))

theorem execCapUnmet_keeps {pm : Parts} {st0 : State} {s : State} (hk0 : Keeps pm st0 s) (p_err : pm.err = true := by assumption) (p_power : pm.power
    = true := by assumption) (p_trace : pm.trace = true := by assumption) (p_mgmt : pm.mgmt = true := by assumption) : ∃ u0, execCapUnmet s = .next u0
    ∧ Keeps pm st0 u0 := by
  unfold execCapUnmet
  refine ⟨_, rfl, ?_⟩
  try dsimp only
  with_reducible repeat' (first | assumption | apply State.raise_keeps | apply Keeps.ite
                                | (refine Keeps.lit ?_ rfl; first | assumption | apply State.raise_keeps | apply Keeps.ite)
                                | (split <;> try dsimp only))

theorem State.capWrite_keeps {pm : Parts} {st0 : State} {s : State} {v : Nat} (hk0 : Keeps pm st0 s) (p_power : pm.power = true := by assumption)
    (p_mgmt : pm.mgmt = true := by assumption) : Keeps pm st0 (State.capWrite s v).1 := by
  unfold State.capWrite
  try dsimp only
  with_reducible repeat' (first | assumption | apply State.setPv_keeps | apply Keeps.ite | (apply Keeps.iteFst <;> try dsimp only)
                                | (refine Keeps.lit ?_ rfl; first | assumption | apply State.setPv_keeps | apply Keeps.ite)
                                | (split <;> try dsimp only))

theorem execPowerCapWrite_keeps {pm : Parts} {st0 : State} {v : BitVec 16} {s : State} (hk0 : Keeps pm st0 s) (p_power : pm.power = true := by
    assumption) (p_mgmt : pm.mgmt = true := by assumption) : ∃ u0, execPowerCapWrite v s = .next u0 ∧ Keeps pm st0 u0 := by
  unfold execPowerCapWrite
  refine ⟨_, rfl, ?_⟩
  try dsimp only
  with_reducible repeat' (first | assumption | apply State.capWrite_keeps | apply Keeps.ite | (refine Keeps.ofFst (by assumption) ?_)
                                | (apply Keeps.iteFst <;> try dsimp only) | (split <;> try dsimp only))

theorem State.divAck_keeps {pm : Parts} {st0 : State} {s : State} (hk0 : Keeps pm st0 s) (p_power : pm.power = true := by assumption) : Keeps pm st0
    (State.divAck s) := by
  unfold State.divAck
  try dsimp only
  with_reducible repeat' (first | assumption | (refine Keeps.lit ?_ rfl; first | assumption) | (split <;> try dsimp only))

theorem execPwrDivAck_keeps {pm : Parts} {st0 : State} {s : State} (hk0 : Keeps pm st0 s) (p_power : pm.power = true := by assumption) : ∃ u0,
    execPwrDivAck s = .next u0 ∧ Keeps pm st0 u0 := by
  unfold execPwrDivAck
  refine ⟨_, rfl, ?_⟩
  try dsimp only
  with_reducible repeat' (first | assumption | apply State.divAck_keeps | apply Keeps.ite | (split <;> try dsimp only))

theorem execDroopTrip_keeps {pm : Parts} {st0 : State} {_d : Fin 16} {s : State} (hk0 : Keeps pm st0 s) (p_clk : pm.clk = true := by assumption)
    (p_power : pm.power = true := by assumption) (p_count : pm.count = true := by assumption) : ∃ u0, execDroopTrip _d s = .next u0 ∧ Keeps pm st0 u0
    := by
  unfold execDroopTrip
  refine ⟨_, rfl, ?_⟩
  try dsimp only
  with_reducible repeat' (first | assumption | apply State.cadd_keeps | apply Keeps.ite
                                | (refine Keeps.lit ?_ rfl; first | assumption | apply State.cadd_keeps | apply Keeps.ite)
                                | (split <;> try dsimp only))

theorem execDroopReleaseStep_keeps {pm : Parts} {st0 : State} {s : State} (hk0 : Keeps pm st0 s) (p_clk : pm.clk = true := by assumption) : ∃ u0,
    execDroopReleaseStep s = .next u0 ∧ Keeps pm st0 u0 := by
  unfold execDroopReleaseStep
  refine ⟨_, rfl, ?_⟩
  try dsimp only
  with_reducible repeat' (first | assumption | apply Keeps.ite | (refine Keeps.lit ?_ rfl; first | assumption | apply Keeps.ite)
                                | (split <;> try dsimp only))

theorem State.holdStart_keeps {pm : Parts} {st0 : State} {s : State} {r : Nat} {mv : Nat} (hk0 : Keeps pm st0 s) (p_clk : pm.clk = true := by
    assumption) (p_err : pm.err = true := by assumption) (p_journal : pm.journal = true := by assumption) (p_power : pm.power = true := by assumption)
    (p_trace : pm.trace = true := by assumption) (p_count : pm.count = true := by assumption) (p_mgmt : pm.mgmt = true := by assumption) : Keeps pm
    st0 (State.holdStart s r mv) := by
  unfold State.holdStart
  try dsimp only
  with_reducible repeat' (first | assumption | apply State.recInput_keeps | apply State.cadd_keeps
                                | (refine Keeps.lit ?_ rfl; first | assumption | apply State.recInput_keeps | apply State.cadd_keeps)
                                | (split <;> try dsimp only))

theorem State.mirrorIn_keeps {pm : Parts} {st0 : State} {s : State} {kind : Nat} {f : MFrame} (hk0 : Keeps pm st0 s) (p_flight : pm.flight = true :=
    by assumption) (p_nextId : pm.nextId = true := by assumption) (p_sched : pm.sched = true := by assumption) (p_mem : pm.mem = true := by
    assumption) (p_hives : pm.hives = true := by assumption) (p_tiers : pm.tiers = true := by assumption) (p_fxps : pm.fxps = true := by assumption)
    (p_err : pm.err = true := by assumption) (p_mirror : pm.mirror = true := by assumption) (p_journal : pm.journal = true := by assumption) (p_power
    : pm.power = true := by assumption) (p_trace : pm.trace = true := by assumption) (p_count : pm.count = true := by assumption) (p_mgmt : pm.mgmt =
    true := by assumption) : Keeps pm st0 (State.mirrorIn s kind f) := by
  unfold State.mirrorIn
  try dsimp only
  with_reducible repeat' (first | assumption | apply execMwriteRecv_keeps | apply execMaccRecv_keeps | apply execMjournalRecv_keeps
                                | apply execMfenceRecv_keeps | apply execMsetupRecv_keeps | apply execMreqRecv_keeps | apply execMretRecv_keeps
                                | (refine Keeps.ofNext ?_ (by assumption)) | (split <;> try dsimp only))

theorem State.holdRelease_keeps {pm : Parts} {st0 : State} {s : State} (hk0 : Keeps pm st0 s) (p_flight : pm.flight = true := by assumption) (p_nextId
    : pm.nextId = true := by assumption) (p_clk : pm.clk = true := by assumption) (p_sched : pm.sched = true := by assumption) (p_mem : pm.mem = true
    := by assumption) (p_hives : pm.hives = true := by assumption) (p_tiers : pm.tiers = true := by assumption) (p_fxps : pm.fxps = true := by
    assumption) (p_err : pm.err = true := by assumption) (p_mirror : pm.mirror = true := by assumption) (p_journal : pm.journal = true := by
    assumption) (p_power : pm.power = true := by assumption) (p_trace : pm.trace = true := by assumption) (p_count : pm.count = true := by assumption)
    (p_mgmt : pm.mgmt = true := by assumption) : Keeps pm st0 (State.holdRelease s) := by
  unfold State.holdRelease
  try dsimp only
  with_reducible repeat' (first | assumption | apply State.storePage_keeps | apply State.sendHeld_keeps | apply State.mirrorIn_keeps
                                | apply Keeps.foldl | refine Keeps.foldlP ?_ ?_
                                | (refine Keeps.lit ?_ rfl; first | assumption | apply State.storePage_keeps | apply State.sendHeld_keeps | apply State.mirrorIn_keeps | apply Keeps.foldl)
                                | (intro _ _ _; try dsimp only) | (split <;> try dsimp only))

theorem State.holdEnd_keeps {pm : Parts} {st0 : State} {s : State} (hk0 : Keeps pm st0 s) (p_flight : pm.flight = true := by assumption) (p_nextId :
    pm.nextId = true := by assumption) (p_clk : pm.clk = true := by assumption) (p_sched : pm.sched = true := by assumption) (p_mem : pm.mem = true :=
    by assumption) (p_hives : pm.hives = true := by assumption) (p_tiers : pm.tiers = true := by assumption) (p_fxps : pm.fxps = true := by
    assumption) (p_err : pm.err = true := by assumption) (p_mirror : pm.mirror = true := by assumption) (p_journal : pm.journal = true := by
    assumption) (p_power : pm.power = true := by assumption) (p_trace : pm.trace = true := by assumption) (p_count : pm.count = true := by assumption)
    (p_mgmt : pm.mgmt = true := by assumption) : Keeps pm st0 (State.holdEnd s) := by
  unfold State.holdEnd
  try dsimp only
  with_reducible repeat' (first | assumption | apply State.holdRelease_keeps | apply State.recInput_keeps | apply State.raise_keeps
                                | (refine Keeps.lit ?_ rfl; first | assumption | apply State.holdRelease_keeps | apply State.recInput_keeps | apply State.raise_keeps)
                                | (split <;> try dsimp only))

theorem execSupplyWarning_keeps {pm : Parts} {st0 : State} {r : RailId} {mv : Nat} {s : State} (hk0 : Keeps pm st0 s) (p_clk : pm.clk = true := by
    assumption) (p_err : pm.err = true := by assumption) (p_journal : pm.journal = true := by assumption) (p_power : pm.power = true := by assumption)
    (p_trace : pm.trace = true := by assumption) (p_count : pm.count = true := by assumption) (p_mgmt : pm.mgmt = true := by assumption) : ∃ u0,
    execSupplyWarning r mv s = .next u0 ∧ Keeps pm st0 u0 := by
  unfold execSupplyWarning
  refine ⟨_, rfl, ?_⟩
  try dsimp only
  with_reducible repeat' (first | assumption | apply State.holdStart_keeps | apply Keeps.ite
                                | (refine Keeps.lit ?_ rfl; first | assumption | apply State.holdStart_keeps | apply Keeps.ite)
                                | (split <;> try dsimp only))

theorem execSupplyRecovery_keeps {pm : Parts} {st0 : State} {mv : Nat} {s : State} (hk0 : Keeps pm st0 s) (p_flight : pm.flight = true := by
    assumption) (p_nextId : pm.nextId = true := by assumption) (p_clk : pm.clk = true := by assumption) (p_sched : pm.sched = true := by assumption)
    (p_mem : pm.mem = true := by assumption) (p_hives : pm.hives = true := by assumption) (p_tiers : pm.tiers = true := by assumption) (p_fxps :
    pm.fxps = true := by assumption) (p_err : pm.err = true := by assumption) (p_mirror : pm.mirror = true := by assumption) (p_journal : pm.journal =
    true := by assumption) (p_power : pm.power = true := by assumption) (p_trace : pm.trace = true := by assumption) (p_count : pm.count = true := by
    assumption) (p_mgmt : pm.mgmt = true := by assumption) : ∃ u0, execSupplyRecovery mv s = .next u0 ∧ Keeps pm st0 u0 := by
  unfold execSupplyRecovery
  refine ⟨_, rfl, ?_⟩
  try dsimp only
  with_reducible repeat' (first | assumption | apply State.holdEnd_keeps | apply Keeps.ite
                                | (refine Keeps.lit ?_ rfl; first | assumption | apply State.holdEnd_keeps | apply Keeps.ite)
                                | (split <;> try dsimp only))

theorem execSupplyStall_keeps {pm : Parts} {st0 : State} {s : State} (hk0 : Keeps pm st0 s) (p_err : pm.err = true := by assumption) (p_power :
    pm.power = true := by assumption) (p_trace : pm.trace = true := by assumption) (p_mgmt : pm.mgmt = true := by assumption) : ∃ u0, execSupplyStall
    s = .next u0 ∧ Keeps pm st0 u0 := by
  unfold execSupplyStall
  refine ⟨_, rfl, ?_⟩
  try dsimp only
  with_reducible repeat' (first | assumption | apply State.raise_keeps | apply Keeps.ite
                                | (refine Keeps.lit ?_ rfl; first | assumption | apply State.raise_keeps | apply Keeps.ite)
                                | (split <;> try dsimp only))

theorem State.temperRestart_keeps {pm : Parts} {st0 : State} {s : State} (hk0 : Keeps pm st0 s) (p_power : pm.power = true := by assumption) : Keeps
    pm st0 (State.temperRestart s) := by
  unfold State.temperRestart
  try dsimp only
  with_reducible repeat' (first | assumption | (refine Keeps.lit ?_ rfl; first | assumption) | (split <;> try dsimp only))

theorem State.temperStep_keeps {pm : Parts} {st0 : State} {s : State} {m : Nat} {slack : Nat} (hk0 : Keeps pm st0 s) (p_err : pm.err = true := by
    assumption) (p_power : pm.power = true := by assumption) (p_trace : pm.trace = true := by assumption) (p_mgmt : pm.mgmt = true := by assumption) :
    Keeps pm st0 (State.temperStep s m slack) := by
  unfold State.temperStep
  try dsimp only
  with_reducible repeat' (first | assumption | apply State.raise_keeps | apply State.setPv_keeps
                                | (refine Keeps.lit ?_ rfl; first | assumption | apply State.raise_keeps | apply State.setPv_keeps)
                                | (split <;> try dsimp only))

theorem execTemperPeriodEnd_keeps {pm : Parts} {st0 : State} {slack : Nat} {s : State} (hk0 : Keeps pm st0 s) (p_err : pm.err = true := by assumption)
    (p_power : pm.power = true := by assumption) (p_trace : pm.trace = true := by assumption) (p_mgmt : pm.mgmt = true := by assumption) : ∃ u0,
    execTemperPeriodEnd slack s = .next u0 ∧ Keeps pm st0 u0 := by
  unfold execTemperPeriodEnd
  refine ⟨_, rfl, ?_⟩
  try dsimp only
  with_reducible repeat' (first | assumption | apply State.temperRestart_keeps | apply State.temperStep_keeps | apply Keeps.ite
                                | (split <;> try dsimp only))

theorem execTemperStepUp_keeps {pm : Parts} {st0 : State} {_m : Fin 16} {slack : Nat} {s : State} (hk0 : Keeps pm st0 s) (p_err : pm.err = true := by
    assumption) (p_power : pm.power = true := by assumption) (p_trace : pm.trace = true := by assumption) (p_mgmt : pm.mgmt = true := by assumption) :
    ∃ u0, execTemperStepUp _m slack s = .next u0 ∧ Keeps pm st0 u0 := by
  unfold execTemperStepUp
  refine ⟨_, rfl, ?_⟩
  try dsimp only
  with_reducible repeat' (first | assumption | apply State.temperRestart_keeps | apply State.temperStep_keeps | apply Keeps.ite
                                | (split <;> try dsimp only))

end Sys2Proof.Machine
end

