-- ==== Sys2Proof/Laws/KeepObserve.lean ====
section
/-!
SUPPORT. KeepObserve.lean: each operation of Machine/Observe.lean keeps: the invariant, the queue, and every part of the state that no hypothesis names.
-/
namespace Sys2Proof.Machine
set_option Elab.async false

theorem State.snapAsk_keeps {pm : Parts} {st0 : State} {s : State} {e : Nat} (hk0 : Keeps pm st0 s) (p_count : pm.count = true := by assumption) :
    Keeps pm st0 (State.snapAsk s e) := by
  unfold State.snapAsk
  try dsimp only
  with_reducible repeat' (first | assumption | apply Keeps.ite | (refine Keeps.lit ?_ rfl; first | assumption | apply Keeps.ite)
                                | (split <;> try dsimp only))

theorem State.snapTake_keeps {pm : Parts} {st0 : State} {s : State} (hk0 : Keeps pm st0 s) (p_count : pm.count = true := by assumption) : Keeps pm st0
    (State.snapTake s) := by
  unfold State.snapTake
  try dsimp only
  with_reducible repeat' (first | assumption | (refine Keeps.lit ?_ rfl; first | assumption) | (split <;> try dsimp only))

theorem State.thawNow_keeps {pm : Parts} {st0 : State} {s : State} (hk0 : Keeps pm st0 s) (p_count : pm.count = true := by assumption) : Keeps pm st0
    (State.thawNow s) := by
  unfold State.thawNow
  try dsimp only
  with_reducible repeat' (first | assumption | (refine Keeps.lit ?_ rfl; first | assumption) | (split <;> try dsimp only))

theorem State.snapCtl_keeps {pm : Parts} {st0 : State} {s : State} {v : Nat} (hk0 : Keeps pm st0 s) (p_count : pm.count = true := by assumption) :
    Keeps pm st0 (State.snapCtl s v).1 := by
  unfold State.snapCtl
  try dsimp only
  with_reducible repeat' (first | assumption | apply State.snapAsk_keeps | apply State.thawNow_keeps | (split <;> try dsimp only))

theorem execSnap_keeps {pm : Parts} {st0 : State} {s : State} (hk0 : Keeps pm st0 s) (p_count : pm.count = true := by assumption) : ∃ u0, execSnap s =
    .next u0 ∧ Keeps pm st0 u0 := by
  unfold execSnap
  refine ⟨_, rfl, ?_⟩
  try dsimp only
  with_reducible repeat' (first | assumption | apply State.snapAsk_keeps | apply Keeps.ite | (split <;> try dsimp only))

theorem execThaw_keeps {pm : Parts} {st0 : State} {s : State} (hk0 : Keeps pm st0 s) (p_count : pm.count = true := by assumption) : ∃ u0, execThaw s =
    .next u0 ∧ Keeps pm st0 u0 := by
  unfold execThaw
  refine ⟨_, rfl, ?_⟩
  try dsimp only
  with_reducible repeat' (first | assumption | apply State.thawNow_keeps | apply Keeps.ite | (split <;> try dsimp only))

theorem execSnapEdge_keeps {pm : Parts} {st0 : State} {s : State} (hk0 : Keeps pm st0 s) (p_count : pm.count = true := by assumption) : ∃ u0,
    execSnapEdge s = .next u0 ∧ Keeps pm st0 u0 := by
  unfold execSnapEdge
  refine ⟨_, rfl, ?_⟩
  try dsimp only
  with_reducible repeat' (first | assumption | apply State.snapAsk_keeps | apply Keeps.ite | (split <;> try dsimp only))

theorem execSnapshotTake_keeps {pm : Parts} {st0 : State} {s : State} (hk0 : Keeps pm st0 s) (p_count : pm.count = true := by assumption) : ∃ u0,
    execSnapshotTake s = .next u0 ∧ Keeps pm st0 u0 := by
  unfold execSnapshotTake
  refine ⟨_, rfl, ?_⟩
  try dsimp only
  with_reducible repeat' (first | assumption | apply State.snapTake_keeps | apply Keeps.ite | (split <;> try dsimp only))

theorem State.occClear_keeps {pm : Parts} {st0 : State} {s : State} {idx : Nat} {v : Nat} (hk0 : Keeps pm st0 s) (p_count : pm.count = true := by
    assumption) : Keeps pm st0 (State.occClear s idx v).1 := by
  unfold State.occClear
  try dsimp only
  with_reducible repeat' (first | assumption | apply State.setCounter_keeps | apply Keeps.ite | (apply Keeps.iteFst <;> try dsimp only)
                                | (split <;> try dsimp only))

theorem execQueueOccClear_keeps {pm : Parts} {st0 : State} {idx : Nat} {v : Dword} {s : State} (hk0 : Keeps pm st0 s) (p_count : pm.count = true := by
    assumption) : ∃ u0, execQueueOccClear idx v s = .next u0 ∧ Keeps pm st0 u0 := by
  unfold execQueueOccClear
  refine ⟨_, rfl, ?_⟩
  try dsimp only
  with_reducible repeat' (first | assumption | apply State.occClear_keeps | apply Keeps.ite | (refine Keeps.ofFst (by assumption) ?_)
                                | (apply Keeps.iteFst <;> try dsimp only) | (split <;> try dsimp only))

theorem execTraceLongExpire_keeps {pm : Parts} {st0 : State} {u : UnitId} {x : Nat} {s : State} (hk0 : Keeps pm st0 s) (p_err : pm.err = true := by
    assumption) (p_trace : pm.trace = true := by assumption) (p_mgmt : pm.mgmt = true := by assumption) : ∃ u0, execTraceLongExpire u x s = .next u0 ∧
    Keeps pm st0 u0 := by
  unfold execTraceLongExpire
  refine ⟨_, rfl, ?_⟩
  try dsimp only
  with_reducible repeat' (first | assumption | apply State.traceGen_keeps | apply Keeps.ite
                                | (refine Keeps.lit ?_ rfl; first | assumption | apply State.traceGen_keeps | apply Keeps.ite)
                                | (split <;> try dsimp only))

theorem execTraceMark_keeps {pm : Parts} {st0 : State} {h : HiveId} {c : CtxId} {v : Dword} {s : State} (hk0 : Keeps pm st0 s) (p_hives : pm.hives =
    true := by assumption) (p_err : pm.err = true := by assumption) (p_trace : pm.trace = true := by assumption) (p_mgmt : pm.mgmt = true := by
    assumption) : ∃ u0, execTraceMark h c v s = .next u0 ∧ Keeps pm st0 u0 := by
  unfold execTraceMark
  refine ⟨_, rfl, ?_⟩
  try dsimp only
  with_reducible repeat' (first | assumption | apply State.cmd_keeps | apply State.traceGen_keeps | apply Keeps.ite | (intro _ _; try dsimp only)
                                | (split <;> try dsimp only))

theorem State.setApp_keeps {pm : Parts} {st0 : State} {s : State} {k : Nat} {a : Appender} (hk0 : Keeps pm st0 s) (p_trace : pm.trace = true := by
    assumption) : Keeps pm st0 (State.setApp s k a) := by
  unfold State.setApp
  try dsimp only
  with_reducible repeat' (first | assumption | (refine Keeps.lit ?_ rfl; first | assumption) | (split <;> try dsimp only))

theorem State.appDrop_keeps {pm : Parts} {st0 : State} {s : State} {k : Nat} {cause : Nat} {r : Rec} (hk0 : Keeps pm st0 s) (p_err : pm.err = true :=
    by assumption) (p_trace : pm.trace = true := by assumption) (p_mgmt : pm.mgmt = true := by assumption) : Keeps pm st0 (State.appDrop s k cause r)
    := by
  unfold State.appDrop
  try dsimp only
  with_reducible repeat' (first | assumption | apply State.dropSaid_keeps | apply State.setApp_keeps | (split <;> try dsimp only))

theorem State.headerPut_keeps {pm : Parts} {st0 : State} {s : State} {k : Nat} {force : Bool} (hk0 : Keeps pm st0 s) (p_flight : pm.flight = true :=
    by assumption) (p_nextId : pm.nextId = true := by assumption) (p_trace : pm.trace = true := by assumption) : Keeps pm st0 (State.headerPut s k
    force) := by
  unfold State.headerPut
  try dsimp only
  with_reducible repeat' (first | assumption | apply State.extentWrite_keeps | apply State.setApp_keeps | apply Keeps.ite
                                | (split <;> try dsimp only))

theorem State.fillTest_keeps {pm : Parts} {st0 : State} {s : State} {k : Nat} (hk0 : Keeps pm st0 s) (p_trace : pm.trace = true := by assumption)
    (p_mgmt : pm.mgmt = true := by assumption) : Keeps pm st0 (State.fillTest s k) := by
  unfold State.fillTest
  try dsimp only
  with_reducible repeat' (first | assumption | apply State.testTriggers_keeps | apply Keeps.ite | (split <;> try dsimp only))

theorem State.lineOut_keeps {pm : Parts} {st0 : State} {s : State} {k : Nat} {a : Rec} {b : Rec} (hk0 : Keeps pm st0 s) (p_flight : pm.flight = true
    := by assumption) (p_nextId : pm.nextId = true := by assumption) (p_err : pm.err = true := by assumption) (p_trace : pm.trace = true := by
    assumption) (p_mgmt : pm.mgmt = true := by assumption) : Keeps pm st0 (State.lineOut s k a b) := by
  unfold State.lineOut
  try dsimp only
  with_reducible repeat' (first | assumption | apply State.appDrop_keeps | apply State.setApp_keeps | apply State.fillTest_keeps
                                | apply State.extentWrite_keeps | apply Keeps.ite | apply Keeps.foldl | refine Keeps.foldlP ?_ ?_
                                | (refine Keeps.lit ?_ rfl; first | assumption | apply State.appDrop_keeps | apply State.setApp_keeps | apply State.fillTest_keeps | apply State.extentWrite_keeps | apply Keeps.ite | apply Keeps.foldl)
                                | (intro _ _ _; try dsimp only) | (split <;> try dsimp only))

theorem State.appTake_keeps {pm : Parts} {st0 : State} {s : State} {k : Nat} {rs : List Rec} (hk0 : Keeps pm st0 s) (p_err : pm.err = true := by
    assumption) (p_trace : pm.trace = true := by assumption) (p_mgmt : pm.mgmt = true := by assumption) : Keeps pm st0 (State.appTake s k rs) := by
  unfold State.appTake
  try dsimp only
  with_reducible repeat' (first | assumption | apply State.appDrop_keeps | apply State.setApp_keeps | apply State.dropSaid_keeps | apply Keeps.ite
                                | apply Keeps.foldl | refine Keeps.foldlP ?_ ?_ | (intro _ _ _; try dsimp only) | (split <;> try dsimp only))

theorem State.appWrite_keeps {pm : Parts} {st0 : State} {a0 : Nat} {a1 : State} {a2 : Nat} {a3 : Bool} (hk0 : Keeps pm st0 a1) (p_flight : pm.flight =
    true := by assumption) (p_nextId : pm.nextId = true := by assumption) (p_err : pm.err = true := by assumption) (p_trace : pm.trace = true := by
    assumption) (p_mgmt : pm.mgmt = true := by assumption) : Keeps pm st0 (State.appWrite a0 a1 a2 a3) := by
  induction a0 generalizing a1 a2 a3 with
  | zero =>
    unfold State.appWrite
    try dsimp only
    with_reducible repeat' (first | assumption | apply State.lineOut_keeps | apply State.setApp_keeps | apply ih | apply Keeps.ite
                                  | (split <;> try dsimp only))
  | succ n ih =>
    unfold State.appWrite
    try dsimp only
    with_reducible repeat' (first | assumption | apply State.lineOut_keeps | apply State.setApp_keeps | apply ih | apply Keeps.ite
                                  | (split <;> try dsimp only))

theorem State.linkDrop_keeps {pm : Parts} {st0 : State} {s : State} {h : Nat} {rs : List Rec} (hk0 : Keeps pm st0 s) (p_err : pm.err = true := by
    assumption) (p_trace : pm.trace = true := by assumption) (p_mgmt : pm.mgmt = true := by assumption) : Keeps pm st0 (State.linkDrop s h rs) := by
  unfold State.linkDrop
  try dsimp only
  with_reducible repeat' (first | assumption | apply State.dropSaid_keeps | apply Keeps.foldl | refine Keeps.foldlP ?_ ?_
                                | (refine Keeps.lit ?_ rfl; first | assumption | apply State.dropSaid_keeps | apply Keeps.foldl)
                                | (intro _ _ _; try dsimp only) | (split <;> try dsimp only))

theorem State.obsSend_keeps {pm : Parts} {st0 : State} {s : State} {k : Nat} {rs : List Rec} {a3 : List (Nat × Nat)} (hk0 : Keeps pm st0 s) (p_sched :
    pm.sched = true := by assumption) (p_err : pm.err = true := by assumption) (p_power : pm.power = true := by assumption) (p_trace : pm.trace = true
    := by assumption) (p_mgmt : pm.mgmt = true := by assumption) : Keeps pm st0 (State.obsSend s k rs a3) := by
  induction a3 generalizing s k rs with
  | nil =>
    unfold State.obsSend
    try dsimp only
    with_reducible repeat' (first | assumption | apply State.appTake_keeps | apply State.pev_keeps | apply State.linkDrop_keeps | apply ih
                                  | apply Keeps.ite
                                  | (refine Keeps.lit ?_ rfl; first | assumption | apply State.appTake_keeps | apply State.pev_keeps | apply State.linkDrop_keeps | apply ih | apply Keeps.ite)
                                  | (split <;> try dsimp only))
  | cons e l ih =>
    unfold State.obsSend
    try dsimp only
    with_reducible repeat' (first | assumption | apply State.appTake_keeps | apply State.pev_keeps | apply State.linkDrop_keeps | apply ih
                                  | apply Keeps.ite
                                  | (refine Keeps.lit ?_ rfl; first | assumption | apply State.appTake_keeps | apply State.pev_keeps | apply State.linkDrop_keeps | apply ih | apply Keeps.ite)
                                  | (split <;> try dsimp only))

theorem State.obsRetry_keeps {pm : Parts} {st0 : State} {s : State} {k : Nat} (hk0 : Keeps pm st0 s) (p_sched : pm.sched = true := by assumption)
    (p_err : pm.err = true := by assumption) (p_power : pm.power = true := by assumption) (p_trace : pm.trace = true := by assumption) (p_mgmt :
    pm.mgmt = true := by assumption) : Keeps pm st0 (State.obsRetry s k) := by
  unfold State.obsRetry
  try dsimp only
  with_reducible repeat' (first | assumption | apply State.obsSend_keeps | apply Keeps.ite | apply Keeps.foldl | refine Keeps.foldlP ?_ ?_
                                | (refine Keeps.lit ?_ rfl; first | assumption | apply State.obsSend_keeps | apply Keeps.ite | apply Keeps.foldl)
                                | (intro _ _ _; try dsimp only) | (split <;> try dsimp only))

theorem State.obsPacket_keeps {pm : Parts} {st0 : State} {s : State} {u : Nat} (hk0 : Keeps pm st0 s) (p_trace : pm.trace = true := by assumption) :
    Keeps pm st0 (State.obsPacket s u).2 := by
  unfold State.obsPacket
  try dsimp only
  with_reducible repeat' (first | assumption | (refine Keeps.lit ?_ rfl; first | assumption) | (split <;> try dsimp only))

theorem execTraceAppend_keeps {pm : Parts} {st0 : State} {k : StackId} {s : State} (hk0 : Keeps pm st0 s) (p_flight : pm.flight = true := by
    assumption) (p_nextId : pm.nextId = true := by assumption) (p_sched : pm.sched = true := by assumption) (p_err : pm.err = true := by assumption)
    (p_power : pm.power = true := by assumption) (p_trace : pm.trace = true := by assumption) (p_count : pm.count = true := by assumption) (p_mgmt :
    pm.mgmt = true := by assumption) : ∃ u0, execTraceAppend k s = .next u0 ∧ Keeps pm st0 u0 := by
  unfold execTraceAppend
  refine ⟨_, rfl, ?_⟩
  try dsimp only
  with_reducible repeat' (first | assumption | apply State.obsRetry_keeps | apply State.obsPacket_keeps | apply State.obsSend_keeps
                                | apply State.cadd_keeps | apply State.headerPut_keeps | apply State.appWrite_keeps | apply Keeps.ite
                                | (refine Keeps.ofSnd (by assumption) ?_) | (split <;> try dsimp only))

theorem execAppenderPadTimeout_keeps {pm : Parts} {st0 : State} {k : StackId} {s : State} (hk0 : Keeps pm st0 s) (p_flight : pm.flight = true := by
    assumption) (p_nextId : pm.nextId = true := by assumption) (p_err : pm.err = true := by assumption) (p_trace : pm.trace = true := by assumption)
    (p_mgmt : pm.mgmt = true := by assumption) : ∃ u0, execAppenderPadTimeout k s = .next u0 ∧ Keeps pm st0 u0 := by
  unfold execAppenderPadTimeout
  refine ⟨_, rfl, ?_⟩
  try dsimp only
  with_reducible repeat' (first | assumption | apply State.headerPut_keeps | apply State.appWrite_keeps | apply Keeps.ite
                                | (split <;> try dsimp only))

theorem State.traceModeSet_keeps {pm : Parts} {st0 : State} {s : State} {v : Nat} (hk0 : Keeps pm st0 s) (p_flight : pm.flight = true := by
    assumption) (p_nextId : pm.nextId = true := by assumption) (p_err : pm.err = true := by assumption) (p_trace : pm.trace = true := by assumption)
    (p_mgmt : pm.mgmt = true := by assumption) : Keeps pm st0 (State.traceModeSet s v).1 := by
  unfold State.traceModeSet
  try dsimp only
  with_reducible repeat' (first | assumption | apply State.appWrite_keeps | apply State.headerPut_keeps | apply State.setPv_keeps | apply Keeps.ite
                                | apply Keeps.foldl | (apply Keeps.iteFst <;> try dsimp only) | refine Keeps.foldlP ?_ ?_
                                | (refine Keeps.lit ?_ rfl; first | assumption | apply State.appWrite_keeps | apply State.headerPut_keeps | apply State.setPv_keeps | apply Keeps.ite | apply Keeps.foldl)
                                | (intro _ _ _; try dsimp only) | (split <;> try dsimp only))

theorem execTraceModeWrite_keeps {pm : Parts} {st0 : State} {v : Byte} {s : State} (hk0 : Keeps pm st0 s) (p_flight : pm.flight = true := by
    assumption) (p_nextId : pm.nextId = true := by assumption) (p_err : pm.err = true := by assumption) (p_trace : pm.trace = true := by assumption)
    (p_mgmt : pm.mgmt = true := by assumption) : ∃ u0, execTraceModeWrite v s = .next u0 ∧ Keeps pm st0 u0 := by
  unfold execTraceModeWrite
  refine ⟨_, rfl, ?_⟩
  try dsimp only
  with_reducible repeat' (first | assumption | apply State.traceModeSet_keeps | apply Keeps.ite | (refine Keeps.ofFst (by assumption) ?_)
                                | (apply Keeps.iteFst <;> try dsimp only) | (split <;> try dsimp only))

theorem State.wfgStart_keeps {pm : Parts} {st0 : State} {s : State} (hk0 : Keeps pm st0 s) (p_trace : pm.trace = true := by assumption) : Keeps pm st0
    (State.wfgStart s) := by
  unfold State.wfgStart
  try dsimp only
  with_reducible repeat' (first | assumption | (refine Keeps.lit ?_ rfl; first | assumption) | (split <;> try dsimp only))

theorem State.wfgCtl_keeps {pm : Parts} {st0 : State} {s : State} {v : Nat} (hk0 : Keeps pm st0 s) (p_trace : pm.trace = true := by assumption) :
    Keeps pm st0 (State.wfgCtl s v).1 := by
  unfold State.wfgCtl
  try dsimp only
  with_reducible repeat' (first | assumption | apply State.wfgStart_keeps | apply Keeps.ite | (apply Keeps.iteFst <;> try dsimp only)
                                | (split <;> try dsimp only))

theorem execWfgBuild_keeps {pm : Parts} {st0 : State} {s : State} (hk0 : Keeps pm st0 s) (p_trace : pm.trace = true := by assumption) : ∃ u0,
    execWfgBuild s = .next u0 ∧ Keeps pm st0 u0 := by
  unfold execWfgBuild
  refine ⟨_, rfl, ?_⟩
  try dsimp only
  with_reducible repeat' (first | assumption | apply State.wfgCtl_keeps | apply Keeps.ite | (refine Keeps.ofFst (by assumption) ?_)
                                | (apply Keeps.iteFst <;> try dsimp only) | (split <;> try dsimp only))

theorem execWfgBuildDone_keeps {pm : Parts} {st0 : State} {s : State} (hk0 : Keeps pm st0 s) (p_trace : pm.trace = true := by assumption) : ∃ u0,
    execWfgBuildDone s = .next u0 ∧ Keeps pm st0 u0 := by
  unfold execWfgBuildDone
  refine ⟨_, rfl, ?_⟩
  try dsimp only
  with_reducible repeat' (first | assumption | apply Keeps.ite | (refine Keeps.lit ?_ rfl; first | assumption | apply Keeps.ite)
                                | (split <;> try dsimp only))

theorem State.probeRoll_keeps {pm : Parts} {st0 : State} {s : State} (hk0 : Keeps pm st0 s) (p_fxps : pm.fxps = true := by assumption) : Keeps pm st0
    (State.probeRoll s) := by
  unfold State.probeRoll
  try dsimp only
  with_reducible repeat' (first | assumption | apply Keeps.ite | (refine Keeps.lit ?_ rfl; first | assumption | apply Keeps.ite)
                                | (split <;> try dsimp only))

theorem execTsprobeSend_keeps {pm : Parts} {st0 : State} {k : FxpId} {chip : ChipId} {s : State} (hk0 : Keeps pm st0 s) (p_free : pm.free = true := by
    assumption) (p_fxps : pm.fxps = true := by assumption) (p_err : pm.err = true := by assumption) (p_power : pm.power = true := by assumption)
    (p_trace : pm.trace = true := by assumption) (p_mgmt : pm.mgmt = true := by assumption) : ∃ u0, execTsprobeSend k chip s = .next u0 ∧ Keeps pm st0
    u0 := by
  unfold execTsprobeSend
  refine ⟨_, rfl, ?_⟩
  try dsimp only
  with_reducible repeat' (first | assumption | apply State.probeRoll_keeps | apply State.draw_keeps | apply State.traceGen_keeps
                                | apply State.sendFrame_keeps | apply Keeps.ite | (refine Keeps.ofSnd (by assumption) ?_)
                                | (refine Keeps.lit ?_ rfl; first | assumption | apply State.probeRoll_keeps | apply State.draw_keeps | apply State.traceGen_keeps | apply State.sendFrame_keeps | apply Keeps.ite | (refine Keeps.ofSnd (by assumption) ?_))
                                | (split <;> try dsimp only))

theorem execTsprobeRecv_keeps {pm : Parts} {st0 : State} {k : FxpId} {f : Frame} {s : State} (hk0 : Keeps pm st0 s) (p_fxps : pm.fxps = true := by
    assumption) (p_err : pm.err = true := by assumption) (p_journal : pm.journal = true := by assumption) (p_power : pm.power = true := by assumption)
    (p_trace : pm.trace = true := by assumption) (p_mgmt : pm.mgmt = true := by assumption) : ∃ u0, execTsprobeRecv k f s = .next u0 ∧ Keeps pm st0 u0
    := by
  unfold execTsprobeRecv
  refine ⟨_, rfl, ?_⟩
  try dsimp only
  with_reducible repeat' (first | assumption | apply State.traceGen_keeps | apply State.frameSeen_keeps | apply Keeps.ite
                                | (split <;> try dsimp only))

theorem State.tsync_keeps {pm : Parts} {st0 : State} {s : State} (hk0 : Keeps pm st0 s) (p_clk : pm.clk = true := by assumption) (p_err : pm.err =
    true := by assumption) (p_journal : pm.journal = true := by assumption) (p_trace : pm.trace = true := by assumption) (p_mgmt : pm.mgmt = true :=
    by assumption) : Keeps pm st0 (State.tsync s) := by
  unfold State.tsync
  try dsimp only
  with_reducible repeat' (first | assumption | apply State.recInput_keeps | apply State.setPv_keeps | apply Keeps.ite
                                | (refine Keeps.lit ?_ rfl; first | assumption | apply State.recInput_keeps | apply State.setPv_keeps | apply Keeps.ite)
                                | (split <;> try dsimp only))

theorem execTsyncEdge_keeps {pm : Parts} {st0 : State} {s : State} (hk0 : Keeps pm st0 s) (p_clk : pm.clk = true := by assumption) (p_err : pm.err =
    true := by assumption) (p_journal : pm.journal = true := by assumption) (p_trace : pm.trace = true := by assumption) (p_mgmt : pm.mgmt = true :=
    by assumption) : ∃ u0, execTsyncEdge s = .next u0 ∧ Keeps pm st0 u0 := by
  unfold execTsyncEdge
  refine ⟨_, rfl, ?_⟩
  try dsimp only
  with_reducible repeat' (first | assumption | apply State.tsync_keeps | apply Keeps.ite | (split <;> try dsimp only))

theorem execQuenchRequest_keeps {pm : Parts} {st0 : State} {s : State} (hk0 : Keeps pm st0 s) (p_quench : pm.quench = true := by assumption) : ∃ u0,
    execQuenchRequest s = .next u0 ∧ Keeps pm st0 u0 := by
  unfold execQuenchRequest
  refine ⟨_, rfl, ?_⟩
  try dsimp only
  with_reducible repeat' (first | assumption | apply State.quenchAsk_keeps | (split <;> try dsimp only))

theorem State.quenchCtl_keeps {pm : Parts} {st0 : State} {s : State} {v : Nat} (hk0 : Keeps pm st0 s) (p_quench : pm.quench = true := by assumption) :
    Keeps pm st0 (State.quenchCtl s v).1 := by
  unfold State.quenchCtl
  try dsimp only
  with_reducible repeat' (first | assumption | apply State.quenchAsk_keeps | apply Keeps.ite | (apply Keeps.iteFst <;> try dsimp only)
                                | (split <;> try dsimp only))

theorem execQuenchCtlWrite_keeps {pm : Parts} {st0 : State} {v : Byte} {s : State} (hk0 : Keeps pm st0 s) (p_quench : pm.quench = true := by
    assumption) : ∃ u0, execQuenchCtlWrite v s = .next u0 ∧ Keeps pm st0 u0 := by
  unfold execQuenchCtlWrite
  refine ⟨_, rfl, ?_⟩
  try dsimp only
  with_reducible repeat' (first | assumption | apply State.quenchCtl_keeps | (refine Keeps.ofFst (by assumption) ?_) | (split <;> try dsimp only))

theorem State.prechargeAll_keeps {pm : Parts} {st0 : State} {s : State} (hk0 : Keeps pm st0 s) (p_tiers : pm.tiers = true := by assumption) : Keeps pm
    st0 (State.prechargeAll s) := by
  unfold State.prechargeAll
  try dsimp only
  with_reducible repeat' (first | assumption | apply State.t1Cmd_keeps | apply Keeps.ite | apply Keeps.foldl | refine Keeps.foldlP ?_ ?_
                                | (refine Keeps.lit ?_ rfl; first | assumption | apply State.t1Cmd_keeps | apply Keeps.ite | apply Keeps.foldl)
                                | (intro _ _ _; try dsimp only) | (split <;> try dsimp only))

theorem State.dropReqs_keeps {pm : Parts} {st0 : State} {s : State} (hk0 : Keeps pm st0 s) (p_mgmt : pm.mgmt = true := by assumption) : Keeps pm st0
    (State.dropReqs s) := by
  unfold State.dropReqs
  try dsimp only
  with_reducible repeat' (first | assumption | apply Keeps.foldl | refine Keeps.foldlP ?_ ?_
                                | (refine Keeps.lit ?_ rfl; first | assumption | apply Keeps.foldl) | (intro _ _ _; try dsimp only)
                                | (split <;> try dsimp only))

theorem execQuenchTake_keeps {pm : Parts} {st0 : State} {s : State} (hk0 : Keeps pm st0 s) (p_clk : pm.clk = true := by assumption) (p_tiers :
    pm.tiers = true := by assumption) (p_err : pm.err = true := by assumption) (p_trace : pm.trace = true := by assumption) (p_count : pm.count = true
    := by assumption) (p_quench : pm.quench = true := by assumption) (p_mgmt : pm.mgmt = true := by assumption) : ∃ u0, execQuenchTake s = .next u0 ∧
    Keeps pm st0 u0 := by
  unfold execQuenchTake
  refine ⟨_, rfl, ?_⟩
  try dsimp only
  with_reducible repeat' (first | assumption | apply State.wfgStart_keeps | apply State.raise_keeps | apply State.prechargeAll_keeps
                                | apply State.notice_keeps | apply State.dropReqs_keeps | apply Keeps.ite
                                | (refine Keeps.lit ?_ rfl; first | assumption | apply State.wfgStart_keeps | apply State.raise_keeps | apply State.prechargeAll_keeps | apply State.notice_keeps | apply State.dropReqs_keeps | apply Keeps.ite)
                                | (split <;> try dsimp only))

theorem execQuenchRefresh_keeps {pm : Parts} {st0 : State} {k : StackId} {s : State} (hk0 : Keeps pm st0 s) (p_tiers : pm.tiers = true := by
    assumption) (p_quench : pm.quench = true := by assumption) : ∃ u0, execQuenchRefresh k s = .next u0 ∧ Keeps pm st0 u0 := by
  unfold execQuenchRefresh
  refine ⟨_, rfl, ?_⟩
  try dsimp only
  with_reducible repeat' (first | assumption | apply State.t1Cmd_keeps | apply Keeps.ite | apply Keeps.foldl | refine Keeps.foldlP ?_ ?_
                                | (refine Keeps.lit ?_ rfl; first | assumption | apply State.t1Cmd_keeps | apply Keeps.ite | apply Keeps.foldl)
                                | (intro _ _ _; try dsimp only) | (split <;> try dsimp only))

theorem execTriggerAction_keeps {pm : Parts} {st0 : State} {i : Fin 4} {s : State} (hk0 : Keeps pm st0 s) (p_flight : pm.flight = true := by
    assumption) (p_nextId : pm.nextId = true := by assumption) (p_err : pm.err = true := by assumption) (p_trace : pm.trace = true := by assumption)
    (p_count : pm.count = true := by assumption) (p_quench : pm.quench = true := by assumption) (p_mgmt : pm.mgmt = true := by assumption) : ∃ u0,
    execTriggerAction i s = .next u0 ∧ Keeps pm st0 u0 := by
  unfold execTriggerAction
  refine ⟨_, rfl, ?_⟩
  try dsimp only
  with_reducible repeat' (first | assumption | apply State.quenchAsk_keeps | apply State.headerPut_keeps | apply State.snapAsk_keeps
                                | apply State.snapTake_keeps | apply State.raise_keeps | apply Keeps.ite | apply Keeps.foldl
                                | refine Keeps.foldlP ?_ ?_
                                | (refine Keeps.lit ?_ rfl; first | assumption | apply State.quenchAsk_keeps | apply State.headerPut_keeps | apply State.snapAsk_keeps | apply State.snapTake_keeps | apply State.raise_keeps | apply Keeps.ite | apply Keeps.foldl)
                                | (intro _ _ _; try dsimp only) | (split <;> try dsimp only))

end Sys2Proof.Machine
end

