-- ==== Sys2Proof/Laws/KeepParams.lean ====
section
/-!
SUPPORT. KeepParams.lean: each operation of Machine/Params.lean keeps: the invariant, the queue, and every part of the state that no hypothesis names.
-/
namespace Sys2Proof.Machine
set_option Elab.async false

theorem State.irqClear_keeps {pm : Parts} {st0 : State} {s : State} {v : Nat} (hk0 : Keeps pm st0 s) (p_mgmt : pm.mgmt = true := by assumption) :
    Keeps pm st0 (State.irqClear s v) := by
  unfold State.irqClear
  try dsimp only
  with_reducible repeat' (first | assumption | (refine Keeps.lit ?_ rfl; first | assumption) | (split <;> try dsimp only))

theorem State.cmdReg_keeps {pm : Parts} {st0 s : State} {h : HiveId} {c : CtxId} {off v : Nat} {go : State → State} (hk0 : Keeps pm st0 s)
    (hgo : ∀ s, Keeps pm st0 s → Keeps pm st0 (go s)) (p_hives : pm.hives = true := by assumption) : Keeps pm st0 (s.cmdReg h c off v go) := by
  unfold State.cmdReg
  refine State.cmd_keeps hk0 (fun t ht => ?_)
  exact Keeps.ite (hgo _ (State.wakeHive_keeps ht)) ht

theorem after_keeps {pm : Parts} {st0 s : State} {o : Host.Outcome State Fault Refusal} (h : ∃ t, o = .next t ∧ Keeps pm st0 t) : Keeps pm st0 (after
    o s) := by
  obtain ⟨t, rfl, hk⟩ := h
  exact hk

theorem State.pagePut_keeps {pm : Parts} {st0 : State} {s : State} {h : HiveId} {c : CtxId} {off : Nat} {v : Nat} (hk0 : Keeps pm st0 s) (p_hives :
    pm.hives = true := by assumption) : Keeps pm st0 (State.pagePut s h c off v) := by
  unfold State.pagePut
  try dsimp only
  with_reducible repeat' (first | assumption | apply State.setPage_keeps | apply Keeps.foldl | refine Keeps.foldlP ?_ ?_
                                | (intro _ _ _; try dsimp only) | (split <;> try dsimp only))

theorem State.opRefused_keeps {pm : Parts} {st0 : State} {s : State} {h : Nat} {c : Nat} {off : Nat} {keep : Nat} (hk0 : Keeps pm st0 s) (p_hives :
    pm.hives = true := by assumption) : Keeps pm st0 (State.opRefused s h c off keep) := by
  unfold State.opRefused
  try dsimp only
  with_reducible repeat' (first | assumption | apply State.setStatus_keeps | apply Keeps.ite | (split <;> try dsimp only))

theorem State.chanSet_keeps {pm : Parts} {st0 : State} {s : State} {h : Nat} {k : Nat} {reg : Nat} {v : Nat} (hk0 : Keeps pm st0 s) (p_flight :
    pm.flight = true := by assumption) (p_nextId : pm.nextId = true := by assumption) (p_free : pm.free = true := by assumption) (p_sched : pm.sched =
    true := by assumption) (p_mem : pm.mem = true := by assumption) (p_hives : pm.hives = true := by assumption) (p_wins : pm.wins = true := by
    assumption) (p_chans : pm.chans = true := by assumption) (p_tiers : pm.tiers = true := by assumption) (p_fxps : pm.fxps = true := by assumption)
    (p_err : pm.err = true := by assumption) (p_mirror : pm.mirror = true := by assumption) (p_power : pm.power = true := by assumption) (p_trace :
    pm.trace = true := by assumption) (p_count : pm.count = true := by assumption) (p_mgmt : pm.mgmt = true := by assumption) : Keeps pm st0
    (State.chanSet s h k reg v) := by
  unfold State.chanSet
  try dsimp only
  with_reducible repeat' (first | assumption | apply State.setChan_keeps | apply State.chanEnable_keeps | apply State.chanDisable_keeps
                                | apply Keeps.ite | (split <;> try dsimp only))

theorem State.chanWrite_keeps {pm : Parts} {st0 : State} {s : State} {h : HiveId} {c : CtxId} {k : ChanId} {reg : Nat} {v : Nat} (hk0 : Keeps pm st0
    s) (p_flight : pm.flight = true := by assumption) (p_nextId : pm.nextId = true := by assumption) (p_free : pm.free = true := by assumption)
    (p_sched : pm.sched = true := by assumption) (p_mem : pm.mem = true := by assumption) (p_hives : pm.hives = true := by assumption) (p_wins :
    pm.wins = true := by assumption) (p_chans : pm.chans = true := by assumption) (p_tiers : pm.tiers = true := by assumption) (p_fxps : pm.fxps =
    true := by assumption) (p_err : pm.err = true := by assumption) (p_mirror : pm.mirror = true := by assumption) (p_journal : pm.journal = true :=
    by assumption) (p_power : pm.power = true := by assumption) (p_trace : pm.trace = true := by assumption) (p_count : pm.count = true := by
    assumption) (p_mgmt : pm.mgmt = true := by assumption) : Keeps pm st0 (State.chanWrite s h c k reg v) := by
  unfold State.chanWrite
  try dsimp only
  with_reducible repeat' (first | assumption | apply State.cmdReg_keeps | apply State.chanSet_keeps | apply after_keeps
                                | apply execRingTailWrite_keeps | apply execChanResume_keeps | apply execChanSkip_keeps | apply execChanAbort_keeps
                                | apply execChanPause_keeps | apply execChanContinue_keeps | (refine Keeps.ofNext ?_ (by assumption))
                                | (intro _ _; try dsimp only) | (split <;> try dsimp only))

theorem State.signalWrite_keeps {pm : Parts} {st0 : State} {s : State} {h : Nat} {c : Nat} {w : Nat} {v : Nat} (hk0 : Keeps pm st0 s) (p_hives :
    pm.hives = true := by assumption) : Keeps pm st0 (State.signalWrite s h c w v) := by
  unfold State.signalWrite
  try dsimp only
  with_reducible repeat' (first | assumption | apply State.setPage_keeps | apply Keeps.ite | (split <;> try dsimp only))

theorem State.pageOp_keeps {pm : Parts} {st0 : State} {s : State} {h : HiveId} {c : CtxId} {off : Nat} {v : Nat} (hk0 : Keeps pm st0 s) (p_flight :
    pm.flight = true := by assumption) (p_nextId : pm.nextId = true := by assumption) (p_free : pm.free = true := by assumption) (p_sched : pm.sched =
    true := by assumption) (p_mem : pm.mem = true := by assumption) (p_hives : pm.hives = true := by assumption) (p_wins : pm.wins = true := by
    assumption) (p_chans : pm.chans = true := by assumption) (p_jobs : pm.jobs = true := by assumption) (p_submits : pm.submits = true := by
    assumption) (p_tiers : pm.tiers = true := by assumption) (p_fxps : pm.fxps = true := by assumption) (p_err : pm.err = true := by assumption)
    (p_mirror : pm.mirror = true := by assumption) (p_journal : pm.journal = true := by assumption) (p_power : pm.power = true := by assumption)
    (p_trace : pm.trace = true := by assumption) (p_count : pm.count = true := by assumption) (p_mgmt : pm.mgmt = true := by assumption) : Keeps pm
    st0 (State.pageOp s h c off v) := by
  unfold State.pageOp
  try dsimp only
  with_reducible repeat' (first | assumption | apply after_keeps | apply State.cmdReg_keeps | apply State.opRefused_keeps
                                | apply State.setStatus_keeps | apply execFlcFlush_keeps | apply execFlcInval_keeps | apply execFlcFlushAll_keeps
                                | apply execFlcInvalAll_keeps | apply execHandleLoad_keeps | apply execHandleDrop_keeps | apply execHandleRead_keeps
                                | apply execWinOpen_keeps | apply execWinClose_keeps | apply execWinRevoke_keeps | apply execWinForward_keeps
                                | apply execWinRead_keeps | apply execCtxSave_keeps | apply execCtxRestore_keeps | apply execWait_keeps
                                | apply execWaitdec_keeps | apply execWaitCancel_keeps | apply execFence_keeps | apply execFenceChip_keeps
                                | apply execRingDeclare_keeps | apply execRingUndeclare_keeps | apply execRingRead_keeps | apply execJobSubmit_keeps
                                | apply execJobRelease_keeps | (refine Keeps.ofNext ?_ (by assumption)) | (intro _ _; try dsimp only)
                                | (split <;> try dsimp only))

theorem State.pageWrite_keeps {pm : Parts} {st0 : State} {s : State} {h : HiveId} {c : CtxId} {off : Nat} {v : Nat} (hk0 : Keeps pm st0 s) (p_flight :
    pm.flight = true := by assumption) (p_nextId : pm.nextId = true := by assumption) (p_free : pm.free = true := by assumption) (p_sched : pm.sched =
    true := by assumption) (p_mem : pm.mem = true := by assumption) (p_hives : pm.hives = true := by assumption) (p_wins : pm.wins = true := by
    assumption) (p_chans : pm.chans = true := by assumption) (p_jobs : pm.jobs = true := by assumption) (p_submits : pm.submits = true := by
    assumption) (p_tiers : pm.tiers = true := by assumption) (p_fxps : pm.fxps = true := by assumption) (p_err : pm.err = true := by assumption)
    (p_mirror : pm.mirror = true := by assumption) (p_journal : pm.journal = true := by assumption) (p_power : pm.power = true := by assumption)
    (p_trace : pm.trace = true := by assumption) (p_count : pm.count = true := by assumption) (p_mgmt : pm.mgmt = true := by assumption) : Keeps pm
    st0 (State.pageWrite s h c off v) := by
  unfold State.pageWrite
  try dsimp only
  with_reducible repeat' (first | assumption | apply State.pageOp_keeps | apply State.cmdReg_keeps | apply State.pagePut_keeps | apply after_keeps
                                | apply State.chanWrite_keeps | apply State.signalWrite_keeps | apply execHivePowerWrite_keeps
                                | apply execBankOwnerWrite_keeps | apply execTraceMark_keeps | apply Keeps.ite
                                | (refine Keeps.ofNext ?_ (by assumption)) | (intro _ _; try dsimp only) | (split <;> try dsimp only))

theorem State.edgeWrite_keeps {pm : Parts} {st0 : State} {s : State} {u : Nat} {off : Nat} {v : Nat} (hk0 : Keeps pm st0 s) (p_flight : pm.flight =
    true := by assumption) (p_nextId : pm.nextId = true := by assumption) (p_sched : pm.sched = true := by assumption) (p_hives : pm.hives = true :=
    by assumption) (p_tiers : pm.tiers = true := by assumption) (p_fxps : pm.fxps = true := by assumption) (p_mirror : pm.mirror = true := by
    assumption) (p_power : pm.power = true := by assumption) (p_count : pm.count = true := by assumption) : Keeps pm st0 (State.edgeWrite s u off v)
    := by
  unfold State.edgeWrite
  try dsimp only
  with_reducible repeat' (first | assumption | apply State.edgeStatus_keeps | apply State.edgeFlush_keeps | apply after_keeps | apply execMsync_keeps
                                | apply Keeps.ite | (refine Keeps.ofNext ?_ (by assumption)) | (split <;> try dsimp only))

theorem State.edgeSendReg_keeps {pm : Parts} {st0 : State} {s : State} {h : Nat} {c : Nat} {u : Nat} {off : Nat} {v : Nat} (hk0 : Keeps pm st0 s)
    (p_flight : pm.flight = true := by assumption) (p_nextId : pm.nextId = true := by assumption) (p_hives : pm.hives = true := by assumption) : Keeps
    pm st0 (State.edgeSendReg s h c u off v) := by
  unfold State.edgeSendReg
  try dsimp only
  with_reducible repeat' (first | assumption | apply State.setX_keeps | apply State.addX_keeps | apply State.wakeHive_keeps | apply Keeps.ite
                                | (split <;> try dsimp only))

theorem State.edgeRegs_keeps {pm : Parts} {st0 : State} {s : State} (hk0 : Keeps pm st0 s) (p_flight : pm.flight = true := by assumption) (p_nextId :
    pm.nextId = true := by assumption) (p_sched : pm.sched = true := by assumption) (p_hives : pm.hives = true := by assumption) (p_tiers : pm.tiers =
    true := by assumption) (p_fxps : pm.fxps = true := by assumption) (p_mirror : pm.mirror = true := by assumption) (p_power : pm.power = true := by
    assumption) (p_count : pm.count = true := by assumption) : Keeps pm st0 (State.edgeRegs s) := by
  unfold State.edgeRegs
  try dsimp only
  with_reducible repeat' (first | assumption | apply State.answer_keeps | apply State.edgeWrite_keeps | apply Keeps.foldl | refine Keeps.foldlP ?_ ?_
                                | (intro _ _ _; try dsimp only) | (split <;> try dsimp only))

theorem State.triggerWrite_keeps {pm : Parts} {st0 : State} {s : State} {i : Nat} {v : Nat} (hk0 : Keeps pm st0 s) (p_mgmt : pm.mgmt = true := by
    assumption) : Keeps pm st0 (State.triggerWrite s i v).1 := by
  unfold State.triggerWrite
  try dsimp only
  with_reducible repeat' (first | assumption | apply State.setPv_keeps | apply Keeps.ite | (apply Keeps.iteFst <;> try dsimp only)
                                | (split <;> try dsimp only))

theorem State.recStart_keeps {pm : Parts} {st0 : State} {s : State} (hk0 : Keeps pm st0 s) (p_journal : pm.journal = true := by assumption) : Keeps pm
    st0 (State.recStart s) := by
  unfold State.recStart
  try dsimp only
  with_reducible repeat' (first | assumption | apply Keeps.ite | (refine Keeps.lit ?_ rfl; first | assumption | apply Keeps.ite)
                                | (split <;> try dsimp only))

theorem State.retireElem_keeps {pm : Parts} {st0 : State} {s : State} {v : Nat} (hk0 : Keeps pm st0 s) (p_flight : pm.flight = true := by assumption)
    (p_sched : pm.sched = true := by assumption) (p_hives : pm.hives = true := by assumption) (p_tiers : pm.tiers = true := by assumption) (p_err :
    pm.err = true := by assumption) (p_trace : pm.trace = true := by assumption) (p_count : pm.count = true := by assumption) (p_mgmt : pm.mgmt = true
    := by assumption) : Keeps pm st0 (State.retireElem s v).1 := by
  unfold State.retireElem
  try dsimp only
  with_reducible repeat' (first | assumption | apply State.retireWrite_keeps | (split <;> try dsimp only))

theorem State.cartCommand_keeps {pm : Parts} {st0 : State} {s : State} {k : Nat} {v : Nat} (hk0 : Keeps pm st0 s) (p_mem : pm.mem = true := by
    assumption) (p_hives : pm.hives = true := by assumption) (p_tiers : pm.tiers = true := by assumption) (p_err : pm.err = true := by assumption)
    (p_trace : pm.trace = true := by assumption) (p_count : pm.count = true := by assumption) (p_mgmt : pm.mgmt = true := by assumption) : Keeps pm
    st0 (State.cartCommand s k v).1 := by
  unfold State.cartCommand
  try dsimp only
  with_reducible repeat' (first | assumption | apply State.cartAttach_keeps | apply State.cartDetach_keeps | apply State.cartTrust_keeps
                                | (refine Keeps.ofFst (by assumption) ?_) | (split <;> try dsimp only))

theorem State.chkElem_keeps {pm : Parts} {st0 : State} {s : State} {v : Nat} (hk0 : Keeps pm st0 s) (p_mem : pm.mem = true := by assumption) (p_hives
    : pm.hives = true := by assumption) (p_err : pm.err = true := by assumption) : Keeps pm st0 (State.chkElem s v).1 := by
  unfold State.chkElem
  try dsimp only
  with_reducible repeat' (first | assumption | apply State.checkAccess_keeps | apply Keeps.ite | (apply Keeps.iteFst <;> try dsimp only)
                                | (refine Keeps.lit ?_ rfl; first | assumption | apply State.checkAccess_keeps | apply Keeps.ite)
                                | (split <;> try dsimp only))

theorem State.pairOp_keeps {pm : Parts} {st0 : State} {s : State} {v : Nat} (hk0 : Keeps pm st0 s) (p_sched : pm.sched = true := by assumption)
    (p_fxps : pm.fxps = true := by assumption) (p_mirror : pm.mirror = true := by assumption) (p_power : pm.power = true := by assumption) (p_count :
    pm.count = true := by assumption) (p_mgmt : pm.mgmt = true := by assumption) : Keeps pm st0 (State.pairOp s v).1 := by
  unfold State.pairOp
  try dsimp only
  with_reducible repeat' (first | assumption | apply State.pairJoin_keeps | apply State.pairLeave_keeps | (refine Keeps.ofFst (by assumption) ?_)
                                | (split <;> try dsimp only))

theorem State.storeOwn_keeps {pm : Parts} {st0 : State} {s : State} {p : Nat} {i : Nat} {v : Nat} {t0 : State} {x0 : _} (hk0 : Keeps pm st0 s) (he :
    State.storeOwn s p i v = some (t0, x0)) (p_flight : pm.flight = true := by assumption) (p_nextId : pm.nextId = true := by assumption) (p_sched :
    pm.sched = true := by assumption) (p_mem : pm.mem = true := by assumption) (p_hives : pm.hives = true := by assumption) (p_tiers : pm.tiers = true
    := by assumption) (p_fxps : pm.fxps = true := by assumption) (p_err : pm.err = true := by assumption) (p_mirror : pm.mirror = true := by
    assumption) (p_journal : pm.journal = true := by assumption) (p_power : pm.power = true := by assumption) (p_trace : pm.trace = true := by
    assumption) (p_count : pm.count = true := by assumption) (p_quench : pm.quench = true := by assumption) (p_mgmt : pm.mgmt = true := by assumption)
    : Keeps pm st0 t0 := by
  unfold State.storeOwn at he
  try dsimp only at he
  repeat' (split at he)
  all_goals first | contradiction | (replace he := Option.some.inj he; first | cases he | skip) | skip
  all_goals (try dsimp only)
  all_goals with_reducible repeat' (first | assumption | apply State.hierMode_keeps | apply State.poolContrib_keeps | apply State.chipIdSet_keeps
                                          | apply State.irqClear_keeps | apply State.outerRegion_keeps | apply State.cartCommand_keeps
                                          | apply State.commitGo_keeps | apply State.repairWrite_keeps | apply State.retireElem_keeps
                                          | apply State.errAck_keeps | apply State.capWrite_keeps | apply State.divAck_keeps
                                          | apply State.pairOp_keeps | apply State.regionWrite_keeps | apply State.reserveWrite_keeps
                                          | apply State.jTail_keeps | apply State.setPv_keeps | apply State.recStart_keeps
                                          | apply State.traceModeSet_keeps | apply State.snapCtl_keeps | apply State.triggerWrite_keeps
                                          | apply State.wfgCtl_keeps | apply State.occClear_keeps | apply State.chkElem_keeps
                                          | apply State.quenchCtl_keeps | apply after_keeps | apply State.handleYpp_keeps
                                          | apply State.maskWrite_keeps | apply execBankOwnerWrite_keeps | apply execHivePowerWrite_keeps
                                          | apply State.retireWrite_keeps | apply Keeps.ite | (refine Keeps.ofFst (by assumption) ?_)
                                          | (apply Keeps.iteFst <;> try dsimp only) | (refine Keeps.ofNext ?_ (by assumption))
                                          | (refine Keeps.lit ?_ rfl; first | assumption | apply State.hierMode_keeps | apply State.poolContrib_keeps | apply State.chipIdSet_keeps | apply State.irqClear_keeps | apply State.outerRegion_keeps | apply State.cartCommand_keeps | apply State.commitGo_keeps | apply State.repairWrite_keeps | apply State.retireElem_keeps | apply State.errAck_keeps | apply State.capWrite_keeps | apply State.divAck_keeps | apply State.pairOp_keeps | apply State.regionWrite_keeps | apply State.reserveWrite_keeps | apply State.jTail_keeps | apply State.setPv_keeps | apply State.recStart_keeps | apply State.traceModeSet_keeps | apply State.snapCtl_keeps | apply State.triggerWrite_keeps | apply State.wfgCtl_keeps | apply State.occClear_keeps | apply State.chkElem_keeps | apply State.quenchCtl_keeps | apply after_keeps | apply State.handleYpp_keeps | apply State.maskWrite_keeps | apply execBankOwnerWrite_keeps | apply execHivePowerWrite_keeps | apply State.retireWrite_keeps | apply Keeps.ite | (refine Keeps.ofFst (by assumption) ?_))
                                          | (split <;> try dsimp only))

theorem State.store_keeps {pm : Parts} {st0 : State} {s : State} {d : PDesc} {i : Nat} {v : Nat} (hk0 : Keeps pm st0 s) (p_flight : pm.flight = true
    := by assumption) (p_nextId : pm.nextId = true := by assumption) (p_sched : pm.sched = true := by assumption) (p_mem : pm.mem = true := by
    assumption) (p_hives : pm.hives = true := by assumption) (p_tiers : pm.tiers = true := by assumption) (p_fxps : pm.fxps = true := by assumption)
    (p_err : pm.err = true := by assumption) (p_mirror : pm.mirror = true := by assumption) (p_journal : pm.journal = true := by assumption) (p_power
    : pm.power = true := by assumption) (p_trace : pm.trace = true := by assumption) (p_count : pm.count = true := by assumption) (p_quench :
    pm.quench = true := by assumption) (p_mgmt : pm.mgmt = true := by assumption) : Keeps pm st0 (State.store s d i v).1 := by
  unfold State.store
  try dsimp only
  with_reducible repeat' (first | assumption | apply State.setShd_keeps | apply State.setPv_keeps | (refine State.storeOwn_keeps ?_ (by assumption))
                                | apply Keeps.ite | (apply Keeps.iteFst <;> try dsimp only) | (split <;> try dsimp only))

theorem State.writeElem_keeps {pm : Parts} {st0 : State} {s : State} {d : PDesc} {i : Nat} {v : Nat} (hk0 : Keeps pm st0 s) (p_flight : pm.flight =
    true := by assumption) (p_nextId : pm.nextId = true := by assumption) (p_sched : pm.sched = true := by assumption) (p_mem : pm.mem = true := by
    assumption) (p_hives : pm.hives = true := by assumption) (p_tiers : pm.tiers = true := by assumption) (p_fxps : pm.fxps = true := by assumption)
    (p_err : pm.err = true := by assumption) (p_mirror : pm.mirror = true := by assumption) (p_journal : pm.journal = true := by assumption) (p_power
    : pm.power = true := by assumption) (p_trace : pm.trace = true := by assumption) (p_count : pm.count = true := by assumption) (p_quench :
    pm.quench = true := by assumption) (p_mgmt : pm.mgmt = true := by assumption) : Keeps pm st0 (State.writeElem s d i v).1 := by
  unfold State.writeElem
  try dsimp only
  with_reducible repeat' (first | assumption | apply State.store_keeps | apply Keeps.ite | (refine Keeps.ofFst (by assumption) ?_)
                                | (apply Keeps.iteFst <;> try dsimp only) | (split <;> try dsimp only))

theorem execRegisterWrite_keeps {pm : Parts} {st0 : State} {t : RegTarget} {v : Dword} {s : State} (hk0 : Keeps pm st0 s) (p_flight : pm.flight = true
    := by assumption) (p_nextId : pm.nextId = true := by assumption) (p_free : pm.free = true := by assumption) (p_sched : pm.sched = true := by
    assumption) (p_mem : pm.mem = true := by assumption) (p_hives : pm.hives = true := by assumption) (p_wins : pm.wins = true := by assumption)
    (p_chans : pm.chans = true := by assumption) (p_jobs : pm.jobs = true := by assumption) (p_submits : pm.submits = true := by assumption) (p_tiers
    : pm.tiers = true := by assumption) (p_fxps : pm.fxps = true := by assumption) (p_err : pm.err = true := by assumption) (p_mirror : pm.mirror =
    true := by assumption) (p_journal : pm.journal = true := by assumption) (p_power : pm.power = true := by assumption) (p_trace : pm.trace = true :=
    by assumption) (p_count : pm.count = true := by assumption) (p_quench : pm.quench = true := by assumption) (p_mgmt : pm.mgmt = true := by
    assumption) : ∃ u0, execRegisterWrite t v s = .next u0 ∧ Keeps pm st0 u0 := by
  unfold execRegisterWrite
  refine ⟨_, rfl, ?_⟩
  try dsimp only
  with_reducible repeat' (first | assumption | apply State.pageWrite_keeps | apply State.cmd_keeps | apply State.edgeSendReg_keeps
                                | apply State.writeElem_keeps | apply Keeps.ite | (refine Keeps.ofFst (by assumption) ?_)
                                | (apply Keeps.iteFst <;> try dsimp only) | (intro _ _; try dsimp only) | (split <;> try dsimp only))

end Sys2Proof.Machine
end

