-- ==== Sys2Proof/Laws/KeepReadout.lean ====
section
/-!
SUPPORT. KeepReadout.lean: each operation of Machine/Readout.lean keeps: the invariant, the queue, and every part of the state that no hypothesis names.
-/
namespace Sys2Proof.Machine
set_option Elab.async false

theorem State.testRead_keeps {pm : Parts} {st0 : State} {s : State} {a : Nat} {mask : Dword} (hk0 : Keeps pm st0 s) (p_mem : pm.mem = true := by
    assumption) (p_hives : pm.hives = true := by assumption) (p_err : pm.err = true := by assumption) (p_power : pm.power = true := by assumption)
    (p_trace : pm.trace = true := by assumption) (p_count : pm.count = true := by assumption) (p_mgmt : pm.mgmt = true := by assumption) : Keeps pm
    st0 (State.testRead s a mask).1 := by
  unfold State.testRead
  try dsimp only
  with_reducible repeat' (first | assumption | apply State.wakeHive_keeps | apply State.rowAccess_keeps | apply State.syncAccess_keeps
                                | apply Keeps.ite | apply Keeps.foldl | (refine Keeps.ofFst (by assumption) ?_)
                                | (apply Keeps.iteFst <;> try dsimp only) | refine Keeps.foldlP ?_ ?_ | (intro _ _ _; try dsimp only)
                                | (split <;> try dsimp only))

theorem State.testWrite_keeps {pm : Parts} {st0 : State} {s : State} {a : Nat} {mask : Dword} {d : Line} (hk0 : Keeps pm st0 s) (p_flight : pm.flight
    = true := by assumption) (p_nextId : pm.nextId = true := by assumption) (p_free : pm.free = true := by assumption) (p_sched : pm.sched = true :=
    by assumption) (p_mem : pm.mem = true := by assumption) (p_hives : pm.hives = true := by assumption) (p_wins : pm.wins = true := by assumption)
    (p_chans : pm.chans = true := by assumption) (p_jobs : pm.jobs = true := by assumption) (p_submits : pm.submits = true := by assumption) (p_tiers
    : pm.tiers = true := by assumption) (p_fxps : pm.fxps = true := by assumption) (p_err : pm.err = true := by assumption) (p_mirror : pm.mirror =
    true := by assumption) (p_journal : pm.journal = true := by assumption) (p_power : pm.power = true := by assumption) (p_trace : pm.trace = true :=
    by assumption) (p_count : pm.count = true := by assumption) (p_mgmt : pm.mgmt = true := by assumption) : Keeps pm st0 (State.testWrite s a mask d)
    := by
  unfold State.testWrite
  try dsimp only
  with_reducible repeat' (first | assumption | apply State.wakeHive_keeps | apply State.pageWrite_keeps | apply State.edgeWrite_keeps
                                | apply State.poke_keeps | apply State.syncAccess_keeps | apply Keeps.ite | apply Keeps.foldl
                                | refine Keeps.foldlP ?_ ?_ | (intro _ _ _; try dsimp only) | (split <;> try dsimp only))

theorem State.testReadBlock_keeps {pm : Parts} {st0 : State} {s : State} {n : Nat} (hk0 : Keeps pm st0 s) (p_mem : pm.mem = true := by assumption)
    (p_hives : pm.hives = true := by assumption) (p_err : pm.err = true := by assumption) (p_power : pm.power = true := by assumption) (p_trace :
    pm.trace = true := by assumption) (p_count : pm.count = true := by assumption) (p_mgmt : pm.mgmt = true := by assumption) : Keeps pm st0
    (State.testReadBlock s n).1 := by
  unfold State.testReadBlock
  try dsimp only
  with_reducible repeat' (first | assumption | apply State.testRead_keeps | apply State.setPv_keeps | apply Keeps.ite | apply Keeps.foldl
                                | (refine Keeps.ofFst (by assumption) ?_) | (apply Keeps.iteFst <;> try dsimp only) | refine Keeps.foldlP ?_ ?_
                                | (intro _ _ _; try dsimp only) | (split <;> try dsimp only))

theorem State.testWriteBlock_keeps {pm : Parts} {st0 : State} {s : State} {bs : List Byte} (hk0 : Keeps pm st0 s) (p_flight : pm.flight = true := by
    assumption) (p_nextId : pm.nextId = true := by assumption) (p_free : pm.free = true := by assumption) (p_sched : pm.sched = true := by assumption)
    (p_mem : pm.mem = true := by assumption) (p_hives : pm.hives = true := by assumption) (p_wins : pm.wins = true := by assumption) (p_chans :
    pm.chans = true := by assumption) (p_jobs : pm.jobs = true := by assumption) (p_submits : pm.submits = true := by assumption) (p_tiers : pm.tiers
    = true := by assumption) (p_fxps : pm.fxps = true := by assumption) (p_err : pm.err = true := by assumption) (p_mirror : pm.mirror = true := by
    assumption) (p_journal : pm.journal = true := by assumption) (p_power : pm.power = true := by assumption) (p_trace : pm.trace = true := by
    assumption) (p_count : pm.count = true := by assumption) (p_mgmt : pm.mgmt = true := by assumption) : Keeps pm st0 (State.testWriteBlock s bs).1
    := by
  unfold State.testWriteBlock
  try dsimp only
  with_reducible repeat' (first | assumption | apply State.testWrite_keeps | apply State.setPv_keeps | apply Keeps.ite | apply Keeps.foldl
                                | (apply Keeps.iteFst <;> try dsimp only) | refine Keeps.foldlP ?_ ?_ | (intro _ _ _; try dsimp only)
                                | (split <;> try dsimp only))

theorem State.memLine_keeps {pm : Parts} {st0 : State} {s : State} {ga : Nat} (hk0 : Keeps pm st0 s) (p_free : pm.free = true := by assumption) :
    Keeps pm st0 (State.memLine s ga).1 := by
  unfold State.memLine
  try dsimp only
  with_reducible repeat' (first | assumption | apply State.draw_keeps | apply Keeps.ite | apply Keeps.foldl | (refine Keeps.ofSnd (by assumption) ?_)
                                | (apply Keeps.iteFst <;> try dsimp only) | refine Keeps.foldlP ?_ ?_ | refine Keeps.foldlQ ?_ ?_
                                | (intro _ _ _; try dsimp only) | (split <;> try dsimp only))

theorem State.memRead_keeps {pm : Parts} {st0 : State} {s : State} {a1 : Nat} (hk0 : Keeps pm st0 s) (p_free : pm.free = true := by assumption)
    (p_quench : pm.quench = true := by assumption) : Keeps pm st0 (State.memRead s a1).1 := by
  induction a1 generalizing s with
  | zero =>
    unfold State.memRead
    try dsimp only
    with_reducible repeat' (first | assumption | apply State.memLine_keeps | apply ih | (refine Keeps.ofFst (by assumption) ?_)
                                  | (refine Keeps.lit ?_ rfl; first | assumption | apply State.memLine_keeps | apply ih | (refine Keeps.ofFst (by assumption) ?_))
                                  | (split <;> try dsimp only))
  | succ n ih =>
    unfold State.memRead
    try dsimp only
    with_reducible repeat' (first | assumption | apply State.memLine_keeps | apply ih | (refine Keeps.ofFst (by assumption) ?_)
                                  | (refine Keeps.lit ?_ rfl; first | assumption | apply State.memLine_keeps | apply ih | (refine Keeps.ofFst (by assumption) ?_))
                                  | (split <;> try dsimp only))

end Sys2Proof.Machine
end

