-- ==== Sys2Proof/Laws/KeepYpp.lean ====
section
/-!
SUPPORT. KeepYpp.lean: each operation of Machine/Ypp.lean keeps: the invariant, the queue, and every part of the state that no hypothesis names.
-/
namespace Sys2Proof.Machine
set_option Elab.async false

theorem State.sayDenied_keeps {pm : Parts} {st0 : State} {s : State} {r : YReq} {status : Nat} (hk0 : Keeps pm st0 s) (p_err : pm.err = true := by
    assumption) (p_trace : pm.trace = true := by assumption) (p_mgmt : pm.mgmt = true := by assumption) : Keeps pm st0 (State.sayDenied s r status) :=
    by
  unfold State.sayDenied
  try dsimp only
  with_reducible repeat' (first | assumption | apply State.raise_keeps | apply Keeps.ite
                                | (refine Keeps.lit ?_ rfl; first | assumption | apply State.raise_keeps | apply Keeps.ite)
                                | (split <;> try dsimp only))

theorem State.logPump_keeps {pm : Parts} {st0 : State} {a0 : Nat} {a1 : State} (hk0 : Keeps pm st0 a1) (p_flight : pm.flight = true := by assumption)
    (p_nextId : pm.nextId = true := by assumption) (p_sched : pm.sched = true := by assumption) (p_fxps : pm.fxps = true := by assumption) (p_mirror :
    pm.mirror = true := by assumption) (p_journal : pm.journal = true := by assumption) (p_power : pm.power = true := by assumption) (p_count :
    pm.count = true := by assumption) (p_mgmt : pm.mgmt = true := by assumption) : Keeps pm st0 (State.logPump a0 a1) := by
  induction a0 generalizing a1 with
  | zero =>
    unfold State.logPump
    try dsimp only
    with_reducible repeat' (first | assumption | apply State.jAccept_keeps | apply State.setReq_keeps | apply ih | apply Keeps.ite
                                  | (split <;> try dsimp only))
  | succ n ih =>
    unfold State.logPump
    try dsimp only
    with_reducible repeat' (first | assumption | apply State.jAccept_keeps | apply State.setReq_keeps | apply ih | apply Keeps.ite
                                  | (split <;> try dsimp only))

theorem State.slotDrop_keeps {pm : Parts} {st0 : State} {s : State} {p : Path} (hk0 : Keeps pm st0 s) (p_mgmt : pm.mgmt = true := by assumption) :
    Keeps pm st0 (State.slotDrop s p) := by
  unfold State.slotDrop
  try dsimp only
  with_reducible repeat' (first | assumption | (refine Keeps.lit ?_ rfl; first | assumption) | (split <;> try dsimp only))

theorem State.takeReq_keeps {pm : Parts} {st0 : State} {s : State} {path : Path} {tag : Nat} {ic : Bool} {hdr : Nat} {payload : List Byte} {bad :
    Bool} {free : Bool} (hk0 : Keeps pm st0 s) (p_flight : pm.flight = true := by assumption) (p_nextId : pm.nextId = true := by assumption) (p_sched
    : pm.sched = true := by assumption) (p_fxps : pm.fxps = true := by assumption) (p_err : pm.err = true := by assumption) (p_mirror : pm.mirror =
    true := by assumption) (p_journal : pm.journal = true := by assumption) (p_power : pm.power = true := by assumption) (p_trace : pm.trace = true :=
    by assumption) (p_count : pm.count = true := by assumption) (p_mgmt : pm.mgmt = true := by assumption) : Keeps pm st0 (State.takeReq s path tag ic
    hdr payload bad free) := by
  unfold State.takeReq
  try dsimp only
  with_reducible repeat' (first | assumption | apply State.sendRsp_keeps | apply State.slotDrop_keeps | apply State.sayDenied_keeps
                                | apply State.jSayFull_keeps | apply State.recInput_keeps | apply State.logPump_keeps | apply Keeps.ite
                                | (refine Keeps.lit ?_ rfl; first | assumption | apply State.sendRsp_keeps | apply State.slotDrop_keeps | apply State.sayDenied_keeps | apply State.jSayFull_keeps | apply State.recInput_keeps | apply State.logPump_keeps | apply Keeps.ite)
                                | (split <;> try dsimp only))

theorem State.mctpReq_keeps {pm : Parts} {st0 : State} {s : State} {eid : Byte} {tag : Nat} {ic : Bool} {hdr : Nat} {payload : List Byte} {bad : Bool}
    (hk0 : Keeps pm st0 s) (p_flight : pm.flight = true := by assumption) (p_nextId : pm.nextId = true := by assumption) (p_sched : pm.sched = true :=
    by assumption) (p_fxps : pm.fxps = true := by assumption) (p_err : pm.err = true := by assumption) (p_mirror : pm.mirror = true := by assumption)
    (p_journal : pm.journal = true := by assumption) (p_power : pm.power = true := by assumption) (p_trace : pm.trace = true := by assumption)
    (p_count : pm.count = true := by assumption) (p_mgmt : pm.mgmt = true := by assumption) : Keeps pm st0 (State.mctpReq s eid tag ic hdr payload
    bad) := by
  unfold State.mctpReq
  try dsimp only
  with_reducible repeat' (first | assumption | apply State.sendRsp_keeps | apply State.takeReq_keeps | apply Keeps.ite | (split <;> try dsimp only))

theorem execMctpMessage_keeps {pm : Parts} {st0 : State} {eid : Byte} {tag : Fin 8} {bytes : List Byte} {s : State} (hk0 : Keeps pm st0 s) (p_flight :
    pm.flight = true := by assumption) (p_nextId : pm.nextId = true := by assumption) (p_sched : pm.sched = true := by assumption) (p_fxps : pm.fxps =
    true := by assumption) (p_err : pm.err = true := by assumption) (p_mirror : pm.mirror = true := by assumption) (p_journal : pm.journal = true :=
    by assumption) (p_power : pm.power = true := by assumption) (p_trace : pm.trace = true := by assumption) (p_count : pm.count = true := by
    assumption) (p_mgmt : pm.mgmt = true := by assumption) : ∃ u0, execMctpMessage eid tag bytes s = .next u0 ∧ Keeps pm st0 u0 := by
  unfold execMctpMessage
  refine ⟨_, rfl, ?_⟩
  try dsimp only
  with_reducible repeat' (first | assumption | apply State.mctpReq_keeps | apply Keeps.ite | (split <;> try dsimp only))

theorem execMbGo_keeps {pm : Parts} {st0 : State} {k : Fin 3} {bytes : List Byte} {s : State} (hk0 : Keeps pm st0 s) (p_flight : pm.flight = true :=
    by assumption) (p_nextId : pm.nextId = true := by assumption) (p_sched : pm.sched = true := by assumption) (p_fxps : pm.fxps = true := by
    assumption) (p_err : pm.err = true := by assumption) (p_mirror : pm.mirror = true := by assumption) (p_journal : pm.journal = true := by
    assumption) (p_power : pm.power = true := by assumption) (p_trace : pm.trace = true := by assumption) (p_count : pm.count = true := by assumption)
    (p_mgmt : pm.mgmt = true := by assumption) : ∃ u0, execMbGo k bytes s = .next u0 ∧ Keeps pm st0 u0 := by
  unfold execMbGo
  refine ⟨_, rfl, ?_⟩
  try dsimp only
  with_reducible repeat' (first | assumption | apply State.takeReq_keeps | apply Keeps.ite
                                | (refine Keeps.lit ?_ rfl; first | assumption | apply State.takeReq_keeps | apply Keeps.ite)
                                | (split <;> try dsimp only))

theorem execMbRspack_keeps {pm : Parts} {st0 : State} {k : Fin 3} {s : State} (hk0 : Keeps pm st0 s) (p_mgmt : pm.mgmt = true := by assumption) : ∃
    u0, execMbRspack k s = .next u0 ∧ Keeps pm st0 u0 := by
  unfold execMbRspack
  refine ⟨_, rfl, ?_⟩
  try dsimp only
  with_reducible repeat' (first | assumption | apply Keeps.ite | (refine Keeps.lit ?_ rfl; first | assumption | apply Keeps.ite)
                                | (split <;> try dsimp only))

theorem execMbEvack_keeps {pm : Parts} {st0 : State} {k : Fin 3} {s : State} (hk0 : Keeps pm st0 s) (p_mgmt : pm.mgmt = true := by assumption) : ∃ u0,
    execMbEvack k s = .next u0 ∧ Keeps pm st0 u0 := by
  unfold execMbEvack
  refine ⟨_, rfl, ?_⟩
  try dsimp only
  with_reducible repeat' (first | assumption | apply Keeps.ite | (refine Keeps.lit ?_ rfl; first | assumption | apply Keeps.ite)
                                | (split <;> try dsimp only))

theorem State.startWrite_keeps {pm : Parts} {st0 : State} {s : State} {v : Nat} (hk0 : Keeps pm st0 s) (p_mgmt : pm.mgmt = true := by assumption) :
    Keeps pm st0 (State.startWrite s v).1 := by
  unfold State.startWrite
  try dsimp only
  with_reducible repeat' (first | assumption | apply Keeps.ite | (apply Keeps.iteFst <;> try dsimp only)
                                | (refine Keeps.lit ?_ rfl; first | assumption | apply Keeps.ite) | (split <;> try dsimp only))

theorem State.runWrite_keeps {pm : Parts} {st0 : State} {s : State} {d : PDesc} {i : Nat} {v : Nat} (hk0 : Keeps pm st0 s) (p_flight : pm.flight =
    true := by assumption) (p_nextId : pm.nextId = true := by assumption) (p_sched : pm.sched = true := by assumption) (p_mem : pm.mem = true := by
    assumption) (p_hives : pm.hives = true := by assumption) (p_tiers : pm.tiers = true := by assumption) (p_fxps : pm.fxps = true := by assumption)
    (p_err : pm.err = true := by assumption) (p_mirror : pm.mirror = true := by assumption) (p_journal : pm.journal = true := by assumption) (p_power
    : pm.power = true := by assumption) (p_trace : pm.trace = true := by assumption) (p_count : pm.count = true := by assumption) (p_quench :
    pm.quench = true := by assumption) (p_mgmt : pm.mgmt = true := by assumption) : Keeps pm st0 (State.runWrite s d i v).1 := by
  unfold State.runWrite
  try dsimp only
  with_reducible repeat' (first | assumption | apply State.startWrite_keeps | apply State.writeElem_keeps | apply Keeps.ite
                                | (refine Keeps.ofFst (by assumption) ?_) | (apply Keeps.iteFst <;> try dsimp only) | (split <;> try dsimp only))

theorem State.blockWrite_keeps {pm : Parts} {st0 : State} {s : State} {d : PDesc} {i : Nat} {a3 : List Nat} (hk0 : Keeps pm st0 s) (p_flight :
    pm.flight = true := by assumption) (p_nextId : pm.nextId = true := by assumption) (p_sched : pm.sched = true := by assumption) (p_mem : pm.mem =
    true := by assumption) (p_hives : pm.hives = true := by assumption) (p_tiers : pm.tiers = true := by assumption) (p_fxps : pm.fxps = true := by
    assumption) (p_err : pm.err = true := by assumption) (p_mirror : pm.mirror = true := by assumption) (p_journal : pm.journal = true := by
    assumption) (p_power : pm.power = true := by assumption) (p_trace : pm.trace = true := by assumption) (p_count : pm.count = true := by assumption)
    (p_quench : pm.quench = true := by assumption) (p_mgmt : pm.mgmt = true := by assumption) : Keeps pm st0 (State.blockWrite s d i a3).1 := by
  induction a3 generalizing s d i with
  | nil =>
    unfold State.blockWrite
    try dsimp only
    with_reducible repeat' (first | assumption | apply State.runWrite_keeps | apply ih | apply Keeps.ite | (refine Keeps.ofFst (by assumption) ?_)
                                  | (apply Keeps.iteFst <;> try dsimp only) | (split <;> try dsimp only))
  | cons e l ih =>
    unfold State.blockWrite
    try dsimp only
    with_reducible repeat' (first | assumption | apply State.runWrite_keeps | apply ih | apply Keeps.ite | (refine Keeps.ofFst (by assumption) ?_)
                                  | (apply Keeps.iteFst <;> try dsimp only) | (split <;> try dsimp only))

theorem State.manifestBlock_keeps {pm : Parts} {st0 : State} {s : State} {off : Nat} {bs : List Byte} (hk0 : Keeps pm st0 s) (p_flight : pm.flight =
    true := by assumption) (p_nextId : pm.nextId = true := by assumption) (p_sched : pm.sched = true := by assumption) (p_mem : pm.mem = true := by
    assumption) (p_fxps : pm.fxps = true := by assumption) (p_err : pm.err = true := by assumption) (p_mirror : pm.mirror = true := by assumption)
    (p_power : pm.power = true := by assumption) (p_trace : pm.trace = true := by assumption) (p_count : pm.count = true := by assumption) (p_mgmt :
    pm.mgmt = true := by assumption) : Keeps pm st0 (State.manifestBlock s off bs).1 := by
  unfold State.manifestBlock
  try dsimp only
  with_reducible repeat' (first | assumption | apply State.manifestWrite_keeps | apply Keeps.ite | (refine Keeps.ofFst (by assumption) ?_)
                                | (apply Keeps.iteFst <;> try dsimp only)
                                | (refine Keeps.lit ?_ rfl; first | assumption | apply State.manifestWrite_keeps | apply Keeps.ite | (refine Keeps.ofFst (by assumption) ?_))
                                | (split <;> try dsimp only))

theorem State.subscribe_keeps {pm : Parts} {st0 : State} {s : State} {p : Path} {v : Nat} (hk0 : Keeps pm st0 s) (p_mgmt : pm.mgmt = true := by
    assumption) : Keeps pm st0 (State.subscribe s p v).1 := by
  unfold State.subscribe
  try dsimp only
  with_reducible repeat' (first | assumption | apply Keeps.ite | (apply Keeps.iteFst <;> try dsimp only)
                                | (refine Keeps.lit ?_ rfl; first | assumption | apply Keeps.ite) | (split <;> try dsimp only))

theorem State.readBlock_keeps {pm : Parts} {st0 : State} {s : State} {d : PDesc} {r : YReq} (hk0 : Keeps pm st0 s) (p_free : pm.free = true := by
    assumption) (p_mem : pm.mem = true := by assumption) (p_hives : pm.hives = true := by assumption) (p_err : pm.err = true := by assumption)
    (p_power : pm.power = true := by assumption) (p_trace : pm.trace = true := by assumption) (p_count : pm.count = true := by assumption) (p_quench :
    pm.quench = true := by assumption) (p_mgmt : pm.mgmt = true := by assumption) : Keeps pm st0 (State.readBlock s d r).1 := by
  unfold State.readBlock
  try dsimp only
  with_reducible repeat' (first | assumption | apply State.testReadBlock_keeps | apply State.memRead_keeps | apply Keeps.ite
                                | (refine Keeps.ofFst (by assumption) ?_) | (apply Keeps.iteFst <;> try dsimp only) | (split <;> try dsimp only))

theorem State.perform_keeps {pm : Parts} {st0 : State} {s : State} {d : PDesc} {r : YReq} (hk0 : Keeps pm st0 s) (p_flight : pm.flight = true := by
    assumption) (p_nextId : pm.nextId = true := by assumption) (p_free : pm.free = true := by assumption) (p_sched : pm.sched = true := by assumption)
    (p_mem : pm.mem = true := by assumption) (p_hives : pm.hives = true := by assumption) (p_wins : pm.wins = true := by assumption) (p_chans :
    pm.chans = true := by assumption) (p_jobs : pm.jobs = true := by assumption) (p_submits : pm.submits = true := by assumption) (p_tiers : pm.tiers
    = true := by assumption) (p_fxps : pm.fxps = true := by assumption) (p_err : pm.err = true := by assumption) (p_mirror : pm.mirror = true := by
    assumption) (p_journal : pm.journal = true := by assumption) (p_power : pm.power = true := by assumption) (p_trace : pm.trace = true := by
    assumption) (p_count : pm.count = true := by assumption) (p_quench : pm.quench = true := by assumption) (p_mgmt : pm.mgmt = true := by assumption)
    : Keeps pm st0 (State.perform s d r).1 := by
  unfold State.perform
  try dsimp only
  with_reducible repeat' (first | assumption | apply State.runWrite_keeps | apply State.readBlock_keeps | apply State.testWriteBlock_keeps
                                | apply State.manifestBlock_keeps | apply State.blockWrite_keeps | apply State.subscribe_keeps | apply Keeps.ite
                                | (refine Keeps.ofFst (by assumption) ?_) | (apply Keeps.iteFst <;> try dsimp only) | (split <;> try dsimp only))

theorem State.runOp_keeps {pm : Parts} {st0 : State} {s : State} {r : YReq} (hk0 : Keeps pm st0 s) (p_flight : pm.flight = true := by assumption)
    (p_nextId : pm.nextId = true := by assumption) (p_free : pm.free = true := by assumption) (p_sched : pm.sched = true := by assumption) (p_mem :
    pm.mem = true := by assumption) (p_hives : pm.hives = true := by assumption) (p_wins : pm.wins = true := by assumption) (p_chans : pm.chans = true
    := by assumption) (p_jobs : pm.jobs = true := by assumption) (p_submits : pm.submits = true := by assumption) (p_tiers : pm.tiers = true := by
    assumption) (p_fxps : pm.fxps = true := by assumption) (p_err : pm.err = true := by assumption) (p_mirror : pm.mirror = true := by assumption)
    (p_journal : pm.journal = true := by assumption) (p_power : pm.power = true := by assumption) (p_trace : pm.trace = true := by assumption)
    (p_count : pm.count = true := by assumption) (p_quench : pm.quench = true := by assumption) (p_mgmt : pm.mgmt = true := by assumption) : Keeps pm
    st0 (State.runOp s r).1 := by
  unfold State.runOp
  try dsimp only
  with_reducible repeat' (first | assumption | apply State.sayDenied_keeps | apply State.perform_keeps | apply Keeps.ite
                                | (refine Keeps.ofFst (by assumption) ?_) | (apply Keeps.iteFst <;> try dsimp only) | (split <;> try dsimp only))

theorem State.runCommit_keeps {pm : Parts} {st0 : State} {s : State} {r : YReq} (hk0 : Keeps pm st0 s) (p_flight : pm.flight = true := by assumption)
    (p_nextId : pm.nextId = true := by assumption) (p_sched : pm.sched = true := by assumption) (p_fxps : pm.fxps = true := by assumption) (p_err :
    pm.err = true := by assumption) (p_mirror : pm.mirror = true := by assumption) (p_journal : pm.journal = true := by assumption) (p_power :
    pm.power = true := by assumption) (p_trace : pm.trace = true := by assumption) (p_count : pm.count = true := by assumption) (p_mgmt : pm.mgmt =
    true := by assumption) : Keeps pm st0 (State.runCommit s r) := by
  unfold State.runCommit
  try dsimp only
  with_reducible repeat' (first | assumption | apply State.finish_keeps | apply State.sayDenied_keeps | apply State.commitGo_keeps | apply Keeps.ite
                                | (split <;> try dsimp only))

theorem State.runNext_keeps {pm : Parts} {st0 : State} {s : State} {p : Path} {op : Nat} (hk0 : Keeps pm st0 s) (p_flight : pm.flight = true := by
    assumption) (p_nextId : pm.nextId = true := by assumption) (p_free : pm.free = true := by assumption) (p_sched : pm.sched = true := by assumption)
    (p_mem : pm.mem = true := by assumption) (p_hives : pm.hives = true := by assumption) (p_wins : pm.wins = true := by assumption) (p_chans :
    pm.chans = true := by assumption) (p_jobs : pm.jobs = true := by assumption) (p_submits : pm.submits = true := by assumption) (p_tiers : pm.tiers
    = true := by assumption) (p_fxps : pm.fxps = true := by assumption) (p_err : pm.err = true := by assumption) (p_mirror : pm.mirror = true := by
    assumption) (p_journal : pm.journal = true := by assumption) (p_power : pm.power = true := by assumption) (p_trace : pm.trace = true := by
    assumption) (p_count : pm.count = true := by assumption) (p_quench : pm.quench = true := by assumption) (p_mgmt : pm.mgmt = true := by assumption)
    : Keeps pm st0 (State.runNext s p op) := by
  unfold State.runNext
  try dsimp only
  with_reducible repeat' (first | assumption | apply State.runCommit_keeps | apply State.runOp_keeps | apply State.finish_keeps | apply Keeps.ite
                                | (refine Keeps.ofFst (by assumption) ?_) | (apply Keeps.iteFst <;> try dsimp only) | (split <;> try dsimp only))

theorem execYppRead_keeps {pm : Parts} {st0 : State} {p : Path} {s : State} (hk0 : Keeps pm st0 s) (p_flight : pm.flight = true := by assumption)
    (p_nextId : pm.nextId = true := by assumption) (p_free : pm.free = true := by assumption) (p_sched : pm.sched = true := by assumption) (p_mem :
    pm.mem = true := by assumption) (p_hives : pm.hives = true := by assumption) (p_wins : pm.wins = true := by assumption) (p_chans : pm.chans = true
    := by assumption) (p_jobs : pm.jobs = true := by assumption) (p_submits : pm.submits = true := by assumption) (p_tiers : pm.tiers = true := by
    assumption) (p_fxps : pm.fxps = true := by assumption) (p_err : pm.err = true := by assumption) (p_mirror : pm.mirror = true := by assumption)
    (p_journal : pm.journal = true := by assumption) (p_power : pm.power = true := by assumption) (p_trace : pm.trace = true := by assumption)
    (p_count : pm.count = true := by assumption) (p_quench : pm.quench = true := by assumption) (p_mgmt : pm.mgmt = true := by assumption) : ∃ u0,
    execYppRead p s = .next u0 ∧ Keeps pm st0 u0 := by
  unfold execYppRead
  refine ⟨_, rfl, ?_⟩
  try dsimp only
  with_reducible repeat' (first | assumption | apply State.runNext_keeps | (split <;> try dsimp only))

theorem execYppWrite_keeps {pm : Parts} {st0 : State} {p : Path} {s : State} (hk0 : Keeps pm st0 s) (p_flight : pm.flight = true := by assumption)
    (p_nextId : pm.nextId = true := by assumption) (p_free : pm.free = true := by assumption) (p_sched : pm.sched = true := by assumption) (p_mem :
    pm.mem = true := by assumption) (p_hives : pm.hives = true := by assumption) (p_wins : pm.wins = true := by assumption) (p_chans : pm.chans = true
    := by assumption) (p_jobs : pm.jobs = true := by assumption) (p_submits : pm.submits = true := by assumption) (p_tiers : pm.tiers = true := by
    assumption) (p_fxps : pm.fxps = true := by assumption) (p_err : pm.err = true := by assumption) (p_mirror : pm.mirror = true := by assumption)
    (p_journal : pm.journal = true := by assumption) (p_power : pm.power = true := by assumption) (p_trace : pm.trace = true := by assumption)
    (p_count : pm.count = true := by assumption) (p_quench : pm.quench = true := by assumption) (p_mgmt : pm.mgmt = true := by assumption) : ∃ u0,
    execYppWrite p s = .next u0 ∧ Keeps pm st0 u0 := by
  unfold execYppWrite
  refine ⟨_, rfl, ?_⟩
  try dsimp only
  with_reducible repeat' (first | assumption | apply State.runNext_keeps | (split <;> try dsimp only))

theorem execYppReadBlock_keeps {pm : Parts} {st0 : State} {p : Path} {s : State} (hk0 : Keeps pm st0 s) (p_flight : pm.flight = true := by assumption)
    (p_nextId : pm.nextId = true := by assumption) (p_free : pm.free = true := by assumption) (p_sched : pm.sched = true := by assumption) (p_mem :
    pm.mem = true := by assumption) (p_hives : pm.hives = true := by assumption) (p_wins : pm.wins = true := by assumption) (p_chans : pm.chans = true
    := by assumption) (p_jobs : pm.jobs = true := by assumption) (p_submits : pm.submits = true := by assumption) (p_tiers : pm.tiers = true := by
    assumption) (p_fxps : pm.fxps = true := by assumption) (p_err : pm.err = true := by assumption) (p_mirror : pm.mirror = true := by assumption)
    (p_journal : pm.journal = true := by assumption) (p_power : pm.power = true := by assumption) (p_trace : pm.trace = true := by assumption)
    (p_count : pm.count = true := by assumption) (p_quench : pm.quench = true := by assumption) (p_mgmt : pm.mgmt = true := by assumption) : ∃ u0,
    execYppReadBlock p s = .next u0 ∧ Keeps pm st0 u0 := by
  unfold execYppReadBlock
  refine ⟨_, rfl, ?_⟩
  try dsimp only
  with_reducible repeat' (first | assumption | apply State.runNext_keeps | (split <;> try dsimp only))

theorem execYppWriteBlock_keeps {pm : Parts} {st0 : State} {p : Path} {s : State} (hk0 : Keeps pm st0 s) (p_flight : pm.flight = true := by
    assumption) (p_nextId : pm.nextId = true := by assumption) (p_free : pm.free = true := by assumption) (p_sched : pm.sched = true := by assumption)
    (p_mem : pm.mem = true := by assumption) (p_hives : pm.hives = true := by assumption) (p_wins : pm.wins = true := by assumption) (p_chans :
    pm.chans = true := by assumption) (p_jobs : pm.jobs = true := by assumption) (p_submits : pm.submits = true := by assumption) (p_tiers : pm.tiers
    = true := by assumption) (p_fxps : pm.fxps = true := by assumption) (p_err : pm.err = true := by assumption) (p_mirror : pm.mirror = true := by
    assumption) (p_journal : pm.journal = true := by assumption) (p_power : pm.power = true := by assumption) (p_trace : pm.trace = true := by
    assumption) (p_count : pm.count = true := by assumption) (p_quench : pm.quench = true := by assumption) (p_mgmt : pm.mgmt = true := by assumption)
    : ∃ u0, execYppWriteBlock p s = .next u0 ∧ Keeps pm st0 u0 := by
  unfold execYppWriteBlock
  refine ⟨_, rfl, ?_⟩
  try dsimp only
  with_reducible repeat' (first | assumption | apply State.runNext_keeps | (split <;> try dsimp only))

theorem execYppCommit_keeps {pm : Parts} {st0 : State} {p : Path} {s : State} (hk0 : Keeps pm st0 s) (p_flight : pm.flight = true := by assumption)
    (p_nextId : pm.nextId = true := by assumption) (p_free : pm.free = true := by assumption) (p_sched : pm.sched = true := by assumption) (p_mem :
    pm.mem = true := by assumption) (p_hives : pm.hives = true := by assumption) (p_wins : pm.wins = true := by assumption) (p_chans : pm.chans = true
    := by assumption) (p_jobs : pm.jobs = true := by assumption) (p_submits : pm.submits = true := by assumption) (p_tiers : pm.tiers = true := by
    assumption) (p_fxps : pm.fxps = true := by assumption) (p_err : pm.err = true := by assumption) (p_mirror : pm.mirror = true := by assumption)
    (p_journal : pm.journal = true := by assumption) (p_power : pm.power = true := by assumption) (p_trace : pm.trace = true := by assumption)
    (p_count : pm.count = true := by assumption) (p_quench : pm.quench = true := by assumption) (p_mgmt : pm.mgmt = true := by assumption) : ∃ u0,
    execYppCommit p s = .next u0 ∧ Keeps pm st0 u0 := by
  unfold execYppCommit
  refine ⟨_, rfl, ?_⟩
  try dsimp only
  with_reducible repeat' (first | assumption | apply State.runNext_keeps | (split <;> try dsimp only))

theorem execYppDescribe_keeps {pm : Parts} {st0 : State} {p : Path} {s : State} (hk0 : Keeps pm st0 s) (p_flight : pm.flight = true := by assumption)
    (p_nextId : pm.nextId = true := by assumption) (p_free : pm.free = true := by assumption) (p_sched : pm.sched = true := by assumption) (p_mem :
    pm.mem = true := by assumption) (p_hives : pm.hives = true := by assumption) (p_wins : pm.wins = true := by assumption) (p_chans : pm.chans = true
    := by assumption) (p_jobs : pm.jobs = true := by assumption) (p_submits : pm.submits = true := by assumption) (p_tiers : pm.tiers = true := by
    assumption) (p_fxps : pm.fxps = true := by assumption) (p_err : pm.err = true := by assumption) (p_mirror : pm.mirror = true := by assumption)
    (p_journal : pm.journal = true := by assumption) (p_power : pm.power = true := by assumption) (p_trace : pm.trace = true := by assumption)
    (p_count : pm.count = true := by assumption) (p_quench : pm.quench = true := by assumption) (p_mgmt : pm.mgmt = true := by assumption) : ∃ u0,
    execYppDescribe p s = .next u0 ∧ Keeps pm st0 u0 := by
  unfold execYppDescribe
  refine ⟨_, rfl, ?_⟩
  try dsimp only
  with_reducible repeat' (first | assumption | apply State.runNext_keeps | (split <;> try dsimp only))

theorem execYppSubscribe_keeps {pm : Parts} {st0 : State} {p : Path} {s : State} (hk0 : Keeps pm st0 s) (p_flight : pm.flight = true := by assumption)
    (p_nextId : pm.nextId = true := by assumption) (p_free : pm.free = true := by assumption) (p_sched : pm.sched = true := by assumption) (p_mem :
    pm.mem = true := by assumption) (p_hives : pm.hives = true := by assumption) (p_wins : pm.wins = true := by assumption) (p_chans : pm.chans = true
    := by assumption) (p_jobs : pm.jobs = true := by assumption) (p_submits : pm.submits = true := by assumption) (p_tiers : pm.tiers = true := by
    assumption) (p_fxps : pm.fxps = true := by assumption) (p_err : pm.err = true := by assumption) (p_mirror : pm.mirror = true := by assumption)
    (p_journal : pm.journal = true := by assumption) (p_power : pm.power = true := by assumption) (p_trace : pm.trace = true := by assumption)
    (p_count : pm.count = true := by assumption) (p_quench : pm.quench = true := by assumption) (p_mgmt : pm.mgmt = true := by assumption) : ∃ u0,
    execYppSubscribe p s = .next u0 ∧ Keeps pm st0 u0 := by
  unfold execYppSubscribe
  refine ⟨_, rfl, ?_⟩
  try dsimp only
  with_reducible repeat' (first | assumption | apply State.runNext_keeps | (split <;> try dsimp only))

theorem State.whole_keeps {pm : Parts} {st0 : State} {s : State} {p : Path} {op : Nat} {param : Nat} {idx : Nat} {off : Nat} {want : Nat} {payload :
    List Byte} (hk0 : Keeps pm st0 s) (p_flight : pm.flight = true := by assumption) (p_nextId : pm.nextId = true := by assumption) (p_free : pm.free
    = true := by assumption) (p_sched : pm.sched = true := by assumption) (p_mem : pm.mem = true := by assumption) (p_hives : pm.hives = true := by
    assumption) (p_wins : pm.wins = true := by assumption) (p_chans : pm.chans = true := by assumption) (p_jobs : pm.jobs = true := by assumption)
    (p_submits : pm.submits = true := by assumption) (p_tiers : pm.tiers = true := by assumption) (p_fxps : pm.fxps = true := by assumption) (p_err :
    pm.err = true := by assumption) (p_mirror : pm.mirror = true := by assumption) (p_journal : pm.journal = true := by assumption) (p_power :
    pm.power = true := by assumption) (p_trace : pm.trace = true := by assumption) (p_count : pm.count = true := by assumption) (p_quench : pm.quench
    = true := by assumption) (p_mgmt : pm.mgmt = true := by assumption) : Keeps pm st0 (State.whole s p op param idx off want payload) := by
  unfold State.whole
  try dsimp only
  with_reducible repeat' (first | assumption | apply State.sendRsp_keeps | apply State.sayDenied_keeps | apply State.recInput_keeps
                                | apply State.runOp_keeps | apply Keeps.ite | (refine Keeps.ofFst (by assumption) ?_)
                                | (apply Keeps.iteFst <;> try dsimp only) | (split <;> try dsimp only))

theorem execTestReadBlock_keeps {pm : Parts} {st0 : State} {p : Path} {want : Nat} {s : State} (hk0 : Keeps pm st0 s) (p_flight : pm.flight = true :=
    by assumption) (p_nextId : pm.nextId = true := by assumption) (p_free : pm.free = true := by assumption) (p_sched : pm.sched = true := by
    assumption) (p_mem : pm.mem = true := by assumption) (p_hives : pm.hives = true := by assumption) (p_wins : pm.wins = true := by assumption)
    (p_chans : pm.chans = true := by assumption) (p_jobs : pm.jobs = true := by assumption) (p_submits : pm.submits = true := by assumption) (p_tiers
    : pm.tiers = true := by assumption) (p_fxps : pm.fxps = true := by assumption) (p_err : pm.err = true := by assumption) (p_mirror : pm.mirror =
    true := by assumption) (p_journal : pm.journal = true := by assumption) (p_power : pm.power = true := by assumption) (p_trace : pm.trace = true :=
    by assumption) (p_count : pm.count = true := by assumption) (p_quench : pm.quench = true := by assumption) (p_mgmt : pm.mgmt = true := by
    assumption) : ∃ u0, execTestReadBlock p want s = .next u0 ∧ Keeps pm st0 u0 := by
  unfold execTestReadBlock
  refine ⟨_, rfl, ?_⟩
  try dsimp only
  with_reducible repeat' (first | assumption | apply State.whole_keeps | (split <;> try dsimp only))

theorem execTestWriteBlock_keeps {pm : Parts} {st0 : State} {p : Path} {bytes : List Byte} {s : State} (hk0 : Keeps pm st0 s) (p_flight : pm.flight =
    true := by assumption) (p_nextId : pm.nextId = true := by assumption) (p_free : pm.free = true := by assumption) (p_sched : pm.sched = true := by
    assumption) (p_mem : pm.mem = true := by assumption) (p_hives : pm.hives = true := by assumption) (p_wins : pm.wins = true := by assumption)
    (p_chans : pm.chans = true := by assumption) (p_jobs : pm.jobs = true := by assumption) (p_submits : pm.submits = true := by assumption) (p_tiers
    : pm.tiers = true := by assumption) (p_fxps : pm.fxps = true := by assumption) (p_err : pm.err = true := by assumption) (p_mirror : pm.mirror =
    true := by assumption) (p_journal : pm.journal = true := by assumption) (p_power : pm.power = true := by assumption) (p_trace : pm.trace = true :=
    by assumption) (p_count : pm.count = true := by assumption) (p_quench : pm.quench = true := by assumption) (p_mgmt : pm.mgmt = true := by
    assumption) : ∃ u0, execTestWriteBlock p bytes s = .next u0 ∧ Keeps pm st0 u0 := by
  unfold execTestWriteBlock
  refine ⟨_, rfl, ?_⟩
  try dsimp only
  with_reducible repeat' (first | assumption | apply State.whole_keeps | (split <;> try dsimp only))

theorem execQuenchUnitRead_keeps {pm : Parts} {st0 : State} {p : Path} {u : UnitId} {off : Nat} {want : Nat} {s : State} (hk0 : Keeps pm st0 s)
    (p_flight : pm.flight = true := by assumption) (p_nextId : pm.nextId = true := by assumption) (p_free : pm.free = true := by assumption) (p_sched
    : pm.sched = true := by assumption) (p_mem : pm.mem = true := by assumption) (p_hives : pm.hives = true := by assumption) (p_wins : pm.wins = true
    := by assumption) (p_chans : pm.chans = true := by assumption) (p_jobs : pm.jobs = true := by assumption) (p_submits : pm.submits = true := by
    assumption) (p_tiers : pm.tiers = true := by assumption) (p_fxps : pm.fxps = true := by assumption) (p_err : pm.err = true := by assumption)
    (p_mirror : pm.mirror = true := by assumption) (p_journal : pm.journal = true := by assumption) (p_power : pm.power = true := by assumption)
    (p_trace : pm.trace = true := by assumption) (p_count : pm.count = true := by assumption) (p_quench : pm.quench = true := by assumption) (p_mgmt :
    pm.mgmt = true := by assumption) : ∃ u0, execQuenchUnitRead p u off want s = .next u0 ∧ Keeps pm st0 u0 := by
  unfold execQuenchUnitRead
  refine ⟨_, rfl, ?_⟩
  try dsimp only
  with_reducible repeat' (first | assumption | apply State.whole_keeps | (split <;> try dsimp only))

theorem execQuenchMemRead_keeps {pm : Parts} {st0 : State} {p : Path} {want : Nat} {s : State} (hk0 : Keeps pm st0 s) (p_flight : pm.flight = true :=
    by assumption) (p_nextId : pm.nextId = true := by assumption) (p_free : pm.free = true := by assumption) (p_sched : pm.sched = true := by
    assumption) (p_mem : pm.mem = true := by assumption) (p_hives : pm.hives = true := by assumption) (p_wins : pm.wins = true := by assumption)
    (p_chans : pm.chans = true := by assumption) (p_jobs : pm.jobs = true := by assumption) (p_submits : pm.submits = true := by assumption) (p_tiers
    : pm.tiers = true := by assumption) (p_fxps : pm.fxps = true := by assumption) (p_err : pm.err = true := by assumption) (p_mirror : pm.mirror =
    true := by assumption) (p_journal : pm.journal = true := by assumption) (p_power : pm.power = true := by assumption) (p_trace : pm.trace = true :=
    by assumption) (p_count : pm.count = true := by assumption) (p_quench : pm.quench = true := by assumption) (p_mgmt : pm.mgmt = true := by
    assumption) : ∃ u0, execQuenchMemRead p want s = .next u0 ∧ Keeps pm st0 u0 := by
  unfold execQuenchMemRead
  refine ⟨_, rfl, ?_⟩
  try dsimp only
  with_reducible repeat' (first | assumption | apply State.whole_keeps | (split <;> try dsimp only))

end Sys2Proof.Machine
end

