-- ==== Sys2Proof/Laws/KeepStart.lean ====
section
/-!
SUPPORT. KeepStart.lean: each operation of Machine/Start.lean keeps: the invariant, the queue, and every part of the state that no hypothesis names.
-/
namespace Sys2Proof.Machine
set_option Elab.async false

theorem State.warm_keeps {pm : Parts} {st0 : State} {s : State} {kept : Bool} (hk0 : Keeps pm st0 s) (p_flight : pm.flight = true := by assumption)
    (p_clk : pm.clk = true := by assumption) (p_sched : pm.sched = true := by assumption) (p_mem : pm.mem = true := by assumption) (p_hives : pm.hives
    = true := by assumption) (p_wins : pm.wins = true := by assumption) (p_chans : pm.chans = true := by assumption) (p_chTurn : pm.chTurn = true :=
    by assumption) (p_jobs : pm.jobs = true := by assumption) (p_scarabs : pm.scarabs = true := by assumption) (p_submits : pm.submits = true := by
    assumption) (p_tiers : pm.tiers = true := by assumption) (p_fxps : pm.fxps = true := by assumption) (p_err : pm.err = true := by assumption)
    (p_mirror : pm.mirror = true := by assumption) (p_journal : pm.journal = true := by assumption) (p_trace : pm.trace = true := by assumption)
    (p_count : pm.count = true := by assumption) (p_quench : pm.quench = true := by assumption) (p_mgmt : pm.mgmt = true := by assumption) : Keeps pm
    st0 (State.warm s kept) := by
  unfold State.warm
  dsimp only
  refine hk0.trans ⟨fun i => ⟨⟨rfl, rfl, ?_, i.1.2.2.2⟩, ?_, ⟨List.Pairwise.nil, fun x hx => nomatch hx⟩⟩, by constructor <;> first | rfl | (right; rfl) | (left; assumption)⟩
  · dsimp only
    split
    · exact i.1.2.2.1
    · rfl
  · show (if s.mgmt.fw then 2 else s.mgmt.phase) ≤ 8
    split
    · omega
    · exact i.2.1

theorem State.goImplied_keeps {pm : Parts} {st0 : State} {s : State} {b : Bool} (hk0 : Keeps pm st0 s) (p_mgmt : pm.mgmt = true := by assumption) :
    Keeps pm st0 (State.goImplied s b) := by
  unfold State.goImplied
  try dsimp only
  with_reducible repeat' (first | assumption | (refine Keeps.lit ?_ rfl; first | assumption)
                                | (refine Keeps.phase ?_ (Nat.le_of_ble_eq_true (by with_unfolding_all rfl)); first | assumption)
                                | (split <;> try dsimp only))

theorem execWarmReset_keeps {pm : Parts} {st0 : State} {fclkRan : Bool} {s : State} (hk0 : Keeps pm st0 s) (p_flight : pm.flight = true := by
    assumption) (p_clk : pm.clk = true := by assumption) (p_sched : pm.sched = true := by assumption) (p_mem : pm.mem = true := by assumption)
    (p_hives : pm.hives = true := by assumption) (p_wins : pm.wins = true := by assumption) (p_chans : pm.chans = true := by assumption) (p_chTurn :
    pm.chTurn = true := by assumption) (p_jobs : pm.jobs = true := by assumption) (p_scarabs : pm.scarabs = true := by assumption) (p_submits :
    pm.submits = true := by assumption) (p_tiers : pm.tiers = true := by assumption) (p_fxps : pm.fxps = true := by assumption) (p_err : pm.err = true
    := by assumption) (p_mirror : pm.mirror = true := by assumption) (p_journal : pm.journal = true := by assumption) (p_trace : pm.trace = true := by
    assumption) (p_count : pm.count = true := by assumption) (p_quench : pm.quench = true := by assumption) (p_mgmt : pm.mgmt = true := by assumption)
    : ∃ u0, execWarmReset fclkRan s = .next u0 ∧ Keeps pm st0 u0 := by
  unfold execWarmReset
  refine ⟨_, rfl, ?_⟩
  try dsimp only
  with_reducible repeat' (first | assumption | apply State.warm_keeps | apply Keeps.ite
                                | (refine Keeps.lit ?_ rfl; first | assumption | apply State.warm_keeps | apply Keeps.ite)
                                | (refine Keeps.phase ?_ (Nat.le_of_ble_eq_true (by with_unfolding_all rfl)); first | assumption | apply State.warm_keeps | apply Keeps.ite)
                                | (split <;> try dsimp only))

theorem execWarmResetRelease_keeps {pm : Parts} {st0 : State} {s : State} (hk0 : Keeps pm st0 s) (p_mgmt : pm.mgmt = true := by assumption) : ∃ u0,
    execWarmResetRelease s = .next u0 ∧ Keeps pm st0 u0 := by
  unfold execWarmResetRelease
  refine ⟨_, rfl, ?_⟩
  try dsimp only
  with_reducible repeat' (first | assumption | apply State.goImplied_keeps | apply Keeps.ite
                                | (refine Keeps.lit ?_ rfl; first | assumption | apply State.goImplied_keeps | apply Keeps.ite)
                                | (refine Keeps.phase ?_ (Nat.le_of_ble_eq_true (by with_unfolding_all rfl)); first | assumption | apply State.goImplied_keeps | apply Keeps.ite)
                                | (split <;> try dsimp only))

theorem State.powerOn_keeps {pm : Parts} {st0 : State} {s : State} (hk0 : Keeps pm st0 s) (p_flight : pm.flight = true := by assumption) (p_clk :
    pm.clk = true := by assumption) (p_sched : pm.sched = true := by assumption) (p_mem : pm.mem = true := by assumption) (p_hives : pm.hives = true
    := by assumption) (p_wins : pm.wins = true := by assumption) (p_chans : pm.chans = true := by assumption) (p_chTurn : pm.chTurn = true := by
    assumption) (p_jobs : pm.jobs = true := by assumption) (p_scarabs : pm.scarabs = true := by assumption) (p_submits : pm.submits = true := by
    assumption) (p_tiers : pm.tiers = true := by assumption) (p_fxps : pm.fxps = true := by assumption) (p_err : pm.err = true := by assumption)
    (p_mirror : pm.mirror = true := by assumption) (p_journal : pm.journal = true := by assumption) (p_power : pm.power = true := by assumption)
    (p_trace : pm.trace = true := by assumption) (p_count : pm.count = true := by assumption) (p_quench : pm.quench = true := by assumption) (p_mgmt :
    pm.mgmt = true := by assumption) : Keeps pm st0 (State.powerOn s) := by
  unfold State.powerOn
  exact hk0.trans ⟨fun i => ⟨⟨rfl, rfl, rfl, i.1.2.2.2⟩, (by show 0 ≤ 8; omega), ⟨List.Pairwise.nil, fun x hx => nomatch hx⟩⟩, by constructor <;> first | rfl | (right; rfl) | (left; assumption)⟩

theorem execPorAssert_keeps {pm : Parts} {st0 : State} {s : State} (hk0 : Keeps pm st0 s) (p_flight : pm.flight = true := by assumption) (p_clk :
    pm.clk = true := by assumption) (p_sched : pm.sched = true := by assumption) (p_mem : pm.mem = true := by assumption) (p_hives : pm.hives = true
    := by assumption) (p_wins : pm.wins = true := by assumption) (p_chans : pm.chans = true := by assumption) (p_chTurn : pm.chTurn = true := by
    assumption) (p_jobs : pm.jobs = true := by assumption) (p_scarabs : pm.scarabs = true := by assumption) (p_submits : pm.submits = true := by
    assumption) (p_tiers : pm.tiers = true := by assumption) (p_fxps : pm.fxps = true := by assumption) (p_err : pm.err = true := by assumption)
    (p_mirror : pm.mirror = true := by assumption) (p_journal : pm.journal = true := by assumption) (p_power : pm.power = true := by assumption)
    (p_trace : pm.trace = true := by assumption) (p_count : pm.count = true := by assumption) (p_quench : pm.quench = true := by assumption) (p_mgmt :
    pm.mgmt = true := by assumption) : ∃ u0, execPorAssert s = .next u0 ∧ Keeps pm st0 u0 := by
  unfold execPorAssert
  refine ⟨_, rfl, ?_⟩
  try dsimp only
  with_reducible repeat' (first | assumption | apply State.powerOn_keeps | (split <;> try dsimp only))

theorem execPorRelease_keeps {pm : Parts} {st0 : State} {lifecycle : BitVec 2} {auth : Bool} {s : State} (hk0 : Keeps pm st0 s) (p_mgmt : pm.mgmt =
    true := by assumption) : ∃ u0, execPorRelease lifecycle auth s = .next u0 ∧ Keeps pm st0 u0 := by
  unfold execPorRelease
  refine ⟨_, rfl, ?_⟩
  try dsimp only
  with_reducible repeat' (first | assumption | apply Keeps.ite | (refine Keeps.lit ?_ rfl; first | assumption | apply Keeps.ite)
                                | (refine Keeps.phase ?_ (Nat.le_of_ble_eq_true (by with_unfolding_all rfl)); first | assumption | apply Keeps.ite)
                                | (split <;> try dsimp only))

theorem execSupplyReset_keeps {pm : Parts} {st0 : State} {r : RailId} {s : State} (hk0 : Keeps pm st0 s) (p_flight : pm.flight = true := by
    assumption) (p_clk : pm.clk = true := by assumption) (p_sched : pm.sched = true := by assumption) (p_mem : pm.mem = true := by assumption)
    (p_hives : pm.hives = true := by assumption) (p_wins : pm.wins = true := by assumption) (p_chans : pm.chans = true := by assumption) (p_chTurn :
    pm.chTurn = true := by assumption) (p_jobs : pm.jobs = true := by assumption) (p_scarabs : pm.scarabs = true := by assumption) (p_submits :
    pm.submits = true := by assumption) (p_tiers : pm.tiers = true := by assumption) (p_fxps : pm.fxps = true := by assumption) (p_err : pm.err = true
    := by assumption) (p_mirror : pm.mirror = true := by assumption) (p_journal : pm.journal = true := by assumption) (p_power : pm.power = true := by
    assumption) (p_trace : pm.trace = true := by assumption) (p_count : pm.count = true := by assumption) (p_quench : pm.quench = true := by
    assumption) (p_mgmt : pm.mgmt = true := by assumption) : ∃ u0, execSupplyReset r s = .next u0 ∧ Keeps pm st0 u0 := by
  unfold execSupplyReset
  refine ⟨_, rfl, ?_⟩
  try dsimp only
  with_reducible repeat' (first | assumption | apply State.powerOn_keeps | apply State.goImplied_keeps | apply State.warm_keeps
                                | apply State.raise_keeps | apply Keeps.ite
                                | (refine Keeps.lit ?_ rfl; first | assumption | apply State.powerOn_keeps | apply State.goImplied_keeps | apply State.warm_keeps | apply State.raise_keeps | apply Keeps.ite)
                                | (refine Keeps.phase ?_ (Nat.le_of_ble_eq_true (by with_unfolding_all rfl)); first | assumption | apply State.powerOn_keeps | apply State.goImplied_keeps | apply State.warm_keeps | apply State.raise_keeps | apply Keeps.ite)
                                | (split <;> try dsimp only))

theorem State.lifeNotice_keeps {pm : Parts} {st0 : State} {s : State} (hk0 : Keeps pm st0 s) (p_mgmt : pm.mgmt = true := by assumption) : Keeps pm st0
    (State.lifeNotice s) := by
  unfold State.lifeNotice
  try dsimp only
  with_reducible repeat' (first | assumption | apply State.notice_keeps | (split <;> try dsimp only))

theorem State.testRecheck_keeps {pm : Parts} {st0 : State} {s : State} (hk0 : Keeps pm st0 s) (p_mgmt : pm.mgmt = true := by assumption) : Keeps pm
    st0 (State.testRecheck s) := by
  unfold State.testRecheck
  try dsimp only
  with_reducible repeat' (first | assumption | apply State.setPv_keeps | apply Keeps.ite | (split <;> try dsimp only))

theorem State.lifeTake_keeps {pm : Parts} {st0 : State} {s : State} {n : Nat} (hk0 : Keeps pm st0 s) (p_mgmt : pm.mgmt = true := by assumption) :
    Keeps pm st0 (State.lifeTake s n) := by
  unfold State.lifeTake
  try dsimp only
  with_reducible repeat' (first | assumption | apply Keeps.ite | (refine Keeps.lit ?_ rfl; first | assumption | apply Keeps.ite)
                                | (refine Keeps.phase ?_ (Nat.le_of_ble_eq_true (by with_unfolding_all rfl)); first | assumption | apply Keeps.ite)
                                | (split <;> try dsimp only))

theorem execLifecycleChange_keeps {pm : Parts} {st0 : State} {v : BitVec 2} {s : State} (hk0 : Keeps pm st0 s) (p_flight : pm.flight = true := by
    assumption) (p_clk : pm.clk = true := by assumption) (p_sched : pm.sched = true := by assumption) (p_mem : pm.mem = true := by assumption)
    (p_hives : pm.hives = true := by assumption) (p_wins : pm.wins = true := by assumption) (p_chans : pm.chans = true := by assumption) (p_chTurn :
    pm.chTurn = true := by assumption) (p_jobs : pm.jobs = true := by assumption) (p_scarabs : pm.scarabs = true := by assumption) (p_submits :
    pm.submits = true := by assumption) (p_tiers : pm.tiers = true := by assumption) (p_fxps : pm.fxps = true := by assumption) (p_err : pm.err = true
    := by assumption) (p_mirror : pm.mirror = true := by assumption) (p_journal : pm.journal = true := by assumption) (p_trace : pm.trace = true := by
    assumption) (p_count : pm.count = true := by assumption) (p_quench : pm.quench = true := by assumption) (p_mgmt : pm.mgmt = true := by assumption)
    : ∃ u0, execLifecycleChange v s = .next u0 ∧ Keeps pm st0 u0 := by
  unfold execLifecycleChange
  refine ⟨_, rfl, ?_⟩
  try dsimp only
  with_reducible repeat' (first | assumption | apply State.lifeTake_keeps | apply State.warm_keeps | apply State.lifeNotice_keeps
                                | apply State.raise_keeps | apply State.testRecheck_keeps | apply Keeps.ite
                                | (refine Keeps.lit ?_ rfl; first | assumption | apply State.lifeTake_keeps | apply State.warm_keeps | apply State.lifeNotice_keeps | apply State.raise_keeps | apply State.testRecheck_keeps | apply Keeps.ite)
                                | (refine Keeps.phase ?_ (Nat.le_of_ble_eq_true (by with_unfolding_all rfl)); first | assumption | apply State.lifeTake_keeps | apply State.warm_keeps | apply State.lifeNotice_keeps | apply State.raise_keeps | apply State.testRecheck_keeps | apply Keeps.ite)
                                | (split <;> try dsimp only))

theorem execDbgAuthChange_keeps {pm : Parts} {st0 : State} {v : Bool} {s : State} (hk0 : Keeps pm st0 s) (p_mgmt : pm.mgmt = true := by assumption) :
    ∃ u0, execDbgAuthChange v s = .next u0 ∧ Keeps pm st0 u0 := by
  unfold execDbgAuthChange
  refine ⟨_, rfl, ?_⟩
  try dsimp only
  with_reducible repeat' (first | assumption | apply State.lifeNotice_keeps | apply State.testRecheck_keeps | apply Keeps.ite
                                | (refine Keeps.lit ?_ rfl; first | assumption | apply State.lifeNotice_keeps | apply State.testRecheck_keeps | apply Keeps.ite)
                                | (refine Keeps.phase ?_ (Nat.le_of_ble_eq_true (by with_unfolding_all rfl)); first | assumption | apply State.lifeNotice_keeps | apply State.testRecheck_keeps | apply Keeps.ite)
                                | (split <;> try dsimp only))

theorem State.startFail_keeps {pm : Parts} {st0 : State} {s : State} {phase : Nat} {cause : Nat} (hk0 : Keeps pm st0 s) (p_err : pm.err = true := by
    assumption) (p_trace : pm.trace = true := by assumption) (p_mgmt : pm.mgmt = true := by assumption) : Keeps pm st0 (State.startFail s phase cause)
    := by
  unfold State.startFail
  try dsimp only
  with_reducible repeat' (first | assumption | apply State.raise_keeps | (refine Keeps.lit ?_ rfl; first | assumption | apply State.raise_keeps)
                                | (refine Keeps.phase ?_ (Nat.le_of_ble_eq_true (by with_unfolding_all rfl)); first | assumption | apply State.raise_keeps)
                                | (split <;> try dsimp only))

theorem State.startFailed_keeps {pm : Parts} {st0 : State} {s : State} {phase : Nat} {cause : Nat} (hk0 : Keeps pm st0 s) (p_err : pm.err = true := by
    assumption) (p_trace : pm.trace = true := by assumption) (p_mgmt : pm.mgmt = true := by assumption) : Keeps pm st0 (State.startFailed s phase
    cause) := by
  unfold State.startFailed
  try dsimp only
  with_reducible repeat' (first | assumption | apply State.startFail_keeps | apply State.irq_keeps
                                | (refine Keeps.lit ?_ rfl; first | assumption | apply State.startFail_keeps | apply State.irq_keeps)
                                | (refine Keeps.phase ?_ (Nat.le_of_ble_eq_true (by with_unfolding_all rfl)); first | assumption | apply State.startFail_keeps | apply State.irq_keeps)
                                | (split <;> try dsimp only))

theorem State.fwStart_keeps {pm : Parts} {st0 : State} {s : State} (hk0 : Keeps pm st0 s) (p_mgmt : pm.mgmt = true := by assumption) : Keeps pm st0
    (State.fwStart s) := by
  unfold State.fwStart
  try dsimp only
  with_reducible repeat' (first | assumption | apply Keeps.ite | (refine Keeps.lit ?_ rfl; first | assumption | apply Keeps.ite)
                                | (refine Keeps.phase ?_ (Nat.le_of_ble_eq_true (by with_unfolding_all rfl)); first | assumption | apply Keeps.ite)
                                | (split <;> try dsimp only))

theorem execRomCheckDone_keeps {pm : Parts} {st0 : State} {ok : Bool} {s : State} (hk0 : Keeps pm st0 s) (p_err : pm.err = true := by assumption)
    (p_trace : pm.trace = true := by assumption) (p_mgmt : pm.mgmt = true := by assumption) : ∃ u0, execRomCheckDone ok s = .next u0 ∧ Keeps pm st0 u0
    := by
  unfold execRomCheckDone
  refine ⟨_, rfl, ?_⟩
  try dsimp only
  with_reducible repeat' (first | assumption | apply State.fwStart_keeps | apply State.startFailed_keeps | apply Keeps.ite
                                | (refine Keeps.lit ?_ rfl; first | assumption | apply State.fwStart_keeps | apply State.startFailed_keeps | apply Keeps.ite)
                                | (refine Keeps.phase ?_ (Nat.le_of_ble_eq_true (by with_unfolding_all rfl)); first | assumption | apply State.fwStart_keeps | apply State.startFailed_keeps | apply Keeps.ite)
                                | (split <;> try dsimp only))

theorem execImageBegin_keeps {pm : Parts} {st0 : State} {size : BitVec 20} {s : State} (hk0 : Keeps pm st0 s) (p_mgmt : pm.mgmt = true := by
    assumption) : ∃ u0, execImageBegin size s = .next u0 ∧ Keeps pm st0 u0 := by
  unfold execImageBegin
  refine ⟨_, rfl, ?_⟩
  try dsimp only
  with_reducible repeat' (first | assumption | apply Keeps.ite | (refine Keeps.lit ?_ rfl; first | assumption | apply Keeps.ite)
                                | (refine Keeps.phase ?_ (Nat.le_of_ble_eq_true (by with_unfolding_all rfl)); first | assumption | apply Keeps.ite)
                                | (split <;> try dsimp only))

theorem execImageData_keeps {pm : Parts} {st0 : State} {v : Dword} {s : State} (hk0 : Keeps pm st0 s) (p_mgmt : pm.mgmt = true := by assumption) : ∃
    u0, execImageData v s = .next u0 ∧ Keeps pm st0 u0 := by
  unfold execImageData
  refine ⟨_, rfl, ?_⟩
  try dsimp only
  with_reducible repeat' (first | assumption | apply Keeps.ite | (refine Keeps.lit ?_ rfl; first | assumption | apply Keeps.ite)
                                | (refine Keeps.phase ?_ (Nat.le_of_ble_eq_true (by with_unfolding_all rfl)); first | assumption | apply Keeps.ite)
                                | (split <;> try dsimp only))

theorem execImageEnd_keeps {pm : Parts} {st0 : State} {fwOk : Bool} {s : State} (hk0 : Keeps pm st0 s) (p_err : pm.err = true := by assumption)
    (p_trace : pm.trace = true := by assumption) (p_mgmt : pm.mgmt = true := by assumption) : ∃ u0, execImageEnd fwOk s = .next u0 ∧ Keeps pm st0 u0
    := by
  unfold execImageEnd
  refine ⟨_, rfl, ?_⟩
  try dsimp only
  with_reducible repeat' (first | assumption | apply State.fwStart_keeps | apply State.startFail_keeps | apply Keeps.ite
                                | (refine Keeps.lit ?_ rfl; first | assumption | apply State.fwStart_keeps | apply State.startFail_keeps | apply Keeps.ite)
                                | (refine Keeps.phase ?_ (Nat.le_of_ble_eq_true (by with_unfolding_all rfl)); first | assumption | apply State.fwStart_keeps | apply State.startFail_keeps | apply Keeps.ite)
                                | (split <;> try dsimp only))

theorem State.wakeAll_keeps {pm : Parts} {st0 : State} {s : State} (hk0 : Keeps pm st0 s) (p_hives : pm.hives = true := by assumption) : Keeps pm st0
    (State.wakeAll s) := by
  unfold State.wakeAll
  try dsimp only
  with_reducible repeat' (first | assumption | apply State.admitWakes_keeps
                                | (refine Keeps.lit ?_ rfl; first | assumption | apply State.admitWakes_keeps)
                                | (refine Keeps.phase ?_ (Nat.le_of_ble_eq_true (by with_unfolding_all rfl)); first | assumption | apply State.admitWakes_keeps)
                                | (split <;> try dsimp only))

theorem State.go_keeps {pm : Parts} {st0 : State} {s : State} {fclk : Bool} (hk0 : Keeps pm st0 s) (p_clk : pm.clk = true := by assumption) (p_sched :
    pm.sched = true := by assumption) (p_hives : pm.hives = true := by assumption) (p_tiers : pm.tiers = true := by assumption) (p_err : pm.err = true
    := by assumption) (p_journal : pm.journal = true := by assumption) (p_power : pm.power = true := by assumption) (p_trace : pm.trace = true := by
    assumption) (p_mgmt : pm.mgmt = true := by assumption) : Keeps pm st0 (State.go s fclk) := by
  unfold State.go
  try dsimp only
  with_reducible repeat' (first | assumption | apply State.startFailed_keeps | apply State.wakeAll_keeps | apply State.recStart_keeps
                                | apply Keeps.ite
                                | (refine Keeps.lit ?_ rfl; first | assumption | apply State.startFailed_keeps | apply State.wakeAll_keeps | apply State.recStart_keeps | apply Keeps.ite)
                                | (refine Keeps.phase ?_ (Nat.le_of_ble_eq_true (by with_unfolding_all rfl)); first | assumption | apply State.startFailed_keeps | apply State.wakeAll_keeps | apply State.recStart_keeps | apply Keeps.ite)
                                | (split <;> try dsimp only))

theorem execStartGo_keeps {pm : Parts} {st0 : State} {fclk : Bool} {s : State} (hk0 : Keeps pm st0 s) (p_clk : pm.clk = true := by assumption)
    (p_sched : pm.sched = true := by assumption) (p_hives : pm.hives = true := by assumption) (p_tiers : pm.tiers = true := by assumption) (p_err :
    pm.err = true := by assumption) (p_journal : pm.journal = true := by assumption) (p_power : pm.power = true := by assumption) (p_trace : pm.trace
    = true := by assumption) (p_mgmt : pm.mgmt = true := by assumption) : ∃ u0, execStartGo fclk s = .next u0 ∧ Keeps pm st0 u0 := by
  unfold execStartGo
  refine ⟨_, rfl, ?_⟩
  try dsimp only
  with_reducible repeat' (first | assumption | apply State.go_keeps | (split <;> try dsimp only))

theorem State.reload_keeps {pm : Parts} {st0 : State} {s : State} (hk0 : Keeps pm st0 s) (p_flight : pm.flight = true := by assumption) (p_clk :
    pm.clk = true := by assumption) (p_sched : pm.sched = true := by assumption) (p_mem : pm.mem = true := by assumption) (p_hives : pm.hives = true
    := by assumption) (p_wins : pm.wins = true := by assumption) (p_chans : pm.chans = true := by assumption) (p_chTurn : pm.chTurn = true := by
    assumption) (p_jobs : pm.jobs = true := by assumption) (p_scarabs : pm.scarabs = true := by assumption) (p_submits : pm.submits = true := by
    assumption) (p_tiers : pm.tiers = true := by assumption) (p_fxps : pm.fxps = true := by assumption) (p_err : pm.err = true := by assumption)
    (p_mirror : pm.mirror = true := by assumption) (p_journal : pm.journal = true := by assumption) (p_trace : pm.trace = true := by assumption)
    (p_count : pm.count = true := by assumption) (p_quench : pm.quench = true := by assumption) (p_mgmt : pm.mgmt = true := by assumption) : Keeps pm
    st0 (State.reload s) := by
  unfold State.reload
  try dsimp only
  with_reducible repeat' (first | assumption | apply State.warm_keeps | apply State.goImplied_keeps | apply State.fwStart_keeps | apply Keeps.ite
                                | (refine Keeps.lit ?_ rfl; first | assumption | apply State.warm_keeps | apply State.goImplied_keeps | apply State.fwStart_keeps | apply Keeps.ite)
                                | (refine Keeps.phase ?_ (Nat.le_of_ble_eq_true (by with_unfolding_all rfl)); first | assumption | apply State.warm_keeps | apply State.goImplied_keeps | apply State.fwStart_keeps | apply Keeps.ite)
                                | (split <;> try dsimp only))

theorem execStartReload_keeps {pm : Parts} {st0 : State} {s : State} (hk0 : Keeps pm st0 s) (p_flight : pm.flight = true := by assumption) (p_clk :
    pm.clk = true := by assumption) (p_sched : pm.sched = true := by assumption) (p_mem : pm.mem = true := by assumption) (p_hives : pm.hives = true
    := by assumption) (p_wins : pm.wins = true := by assumption) (p_chans : pm.chans = true := by assumption) (p_chTurn : pm.chTurn = true := by
    assumption) (p_jobs : pm.jobs = true := by assumption) (p_scarabs : pm.scarabs = true := by assumption) (p_submits : pm.submits = true := by
    assumption) (p_tiers : pm.tiers = true := by assumption) (p_fxps : pm.fxps = true := by assumption) (p_err : pm.err = true := by assumption)
    (p_mirror : pm.mirror = true := by assumption) (p_journal : pm.journal = true := by assumption) (p_trace : pm.trace = true := by assumption)
    (p_count : pm.count = true := by assumption) (p_quench : pm.quench = true := by assumption) (p_mgmt : pm.mgmt = true := by assumption) : ∃ u0,
    execStartReload s = .next u0 ∧ Keeps pm st0 u0 := by
  unfold execStartReload
  refine ⟨_, rfl, ?_⟩
  try dsimp only
  with_reducible repeat' (first | assumption | apply State.reload_keeps | (split <;> try dsimp only))

theorem State.stackFail_keeps {pm : Parts} {st0 : State} {s : State} {k : Nat} {step : Nat} (hk0 : Keeps pm st0 s) (p_flight : pm.flight = true := by
    assumption) (p_sched : pm.sched = true := by assumption) (p_hives : pm.hives = true := by assumption) (p_tiers : pm.tiers = true := by assumption)
    (p_err : pm.err = true := by assumption) (p_trace : pm.trace = true := by assumption) (p_count : pm.count = true := by assumption) (p_mgmt :
    pm.mgmt = true := by assumption) : Keeps pm st0 (State.stackFail s k step) := by
  unfold State.stackFail
  try dsimp only
  with_reducible repeat' (first | assumption | apply State.failChannel_keeps | apply State.raise_keeps | apply Keeps.foldl | refine Keeps.foldlP ?_ ?_
                                | (refine Keeps.lit ?_ rfl; first | assumption | apply State.failChannel_keeps | apply State.raise_keeps | apply Keeps.foldl)
                                | (refine Keeps.phase ?_ (Nat.le_of_ble_eq_true (by with_unfolding_all rfl)); first | assumption | apply State.failChannel_keeps | apply State.raise_keeps | apply Keeps.foldl)
                                | (intro _ _ _; try dsimp only) | (split <;> try dsimp only))

theorem State.refPattern_keeps {pm : Parts} {st0 : State} {s : State} {n : Nat} (hk0 : Keeps pm st0 s) (p_mgmt : pm.mgmt = true := by assumption) :
    Keeps pm st0 (State.refPattern s n) := by
  unfold State.refPattern
  try dsimp only
  with_reducible repeat' (first | assumption | (refine Keeps.lit ?_ rfl; first | assumption)
                                | (refine Keeps.phase ?_ (Nat.le_of_ble_eq_true (by with_unfolding_all rfl)); first | assumption)
                                | (split <;> try dsimp only))

theorem State.trainEnd_keeps {pm : Parts} {st0 : State} {s : State} (hk0 : Keeps pm st0 s) (p_mgmt : pm.mgmt = true := by assumption) : Keeps pm st0
    (State.trainEnd s) := by
  unfold State.trainEnd
  try dsimp only
  with_reducible repeat' (first | assumption | apply State.refPattern_keeps | apply Keeps.ite | (split <;> try dsimp only))

theorem execT1TrainDone_keeps {pm : Parts} {st0 : State} {k : StackId} {r : TrainResult} {s : State} (hk0 : Keeps pm st0 s) (p_flight : pm.flight =
    true := by assumption) (p_sched : pm.sched = true := by assumption) (p_hives : pm.hives = true := by assumption) (p_tiers : pm.tiers = true := by
    assumption) (p_err : pm.err = true := by assumption) (p_trace : pm.trace = true := by assumption) (p_count : pm.count = true := by assumption)
    (p_mgmt : pm.mgmt = true := by assumption) : ∃ u0, execT1TrainDone k r s = .next u0 ∧ Keeps pm st0 u0 := by
  unfold execT1TrainDone
  refine ⟨_, rfl, ?_⟩
  try dsimp only
  with_reducible repeat' (first | assumption | apply State.trainEnd_keeps | apply State.stackFail_keeps | apply State.setPv_keeps
                                | apply State.failChannel_keeps | apply Keeps.ite | apply Keeps.foldl | refine Keeps.foldlP ?_ ?_
                                | (refine Keeps.lit ?_ rfl; first | assumption | apply State.trainEnd_keeps | apply State.stackFail_keeps | apply State.setPv_keeps | apply State.failChannel_keeps | apply Keeps.ite | apply Keeps.foldl)
                                | (refine Keeps.phase ?_ (Nat.le_of_ble_eq_true (by with_unfolding_all rfl)); first | assumption | apply State.trainEnd_keeps | apply State.stackFail_keeps | apply State.setPv_keeps | apply State.failChannel_keeps | apply Keeps.ite | apply Keeps.foldl)
                                | (intro _ _ _; try dsimp only) | (split <;> try dsimp only))

theorem execT1TrainTimeout_keeps {pm : Parts} {st0 : State} {k : StackId} {s : State} (hk0 : Keeps pm st0 s) (p_flight : pm.flight = true := by
    assumption) (p_sched : pm.sched = true := by assumption) (p_hives : pm.hives = true := by assumption) (p_tiers : pm.tiers = true := by assumption)
    (p_err : pm.err = true := by assumption) (p_trace : pm.trace = true := by assumption) (p_count : pm.count = true := by assumption) (p_mgmt :
    pm.mgmt = true := by assumption) : ∃ u0, execT1TrainTimeout k s = .next u0 ∧ Keeps pm st0 u0 := by
  unfold execT1TrainTimeout
  refine ⟨_, rfl, ?_⟩
  try dsimp only
  with_reducible repeat' (first | assumption | apply State.trainEnd_keeps | apply State.stackFail_keeps | apply Keeps.ite
                                | (split <;> try dsimp only))

theorem State.t1Initialise_keeps {pm : Parts} {st0 : State} {s : State} (hk0 : Keeps pm st0 s) (p_mem : pm.mem = true := by assumption) (p_tiers :
    pm.tiers = true := by assumption) (p_journal : pm.journal = true := by assumption) (p_trace : pm.trace = true := by assumption) (p_mgmt : pm.mgmt
    = true := by assumption) : Keeps pm st0 (State.t1Initialise s) := by
  unfold State.t1Initialise
  split
  · exact hk0
  · exact hk0.trans ⟨fun i => ⟨⟨i.1.1, i.1.2.1, rfl, i.1.2.2.2⟩, i.2⟩, by constructor <;> first | rfl | (right; rfl) | (left; assumption)⟩

theorem State.placeExtent_keeps {pm : Parts} {st0 : State} {s : State} {l : List (Nat × Nat)} {len : Nat} {t0 : State} {x0 : _} (hk0 : Keeps pm st0 s)
    (he : State.placeExtent s l len = some (x0, t0)) (p_free : pm.free = true := by assumption) : Keeps pm st0 t0 := by
  unfold State.placeExtent at he
  try dsimp only at he
  repeat' (split at he)
  all_goals first | contradiction | (replace he := Option.some.inj he; first | cases he | skip) | skip
  all_goals (try dsimp only)
  all_goals with_reducible repeat' (first | assumption | apply State.draw_keeps | apply Keeps.ite | (refine Keeps.ofSnd (by assumption) ?_)
                                          | (split <;> try dsimp only))

theorem placeStep_keeps {pm : Parts} {st0 : State} {a : Option (State × List (Nat × Nat) × List Extent × List Extent)} {need : Nat × Nat}
    (h : ∀ q, a = some q → Keeps pm st0 q.1) (p : State × List (Nat × Nat) × List Extent × List Extent) (he : placeStep a need = some p) (p_free : pm.free = true := by assumption) :
    Keeps pm st0 p.1 := by
  unfold placeStep at he
  split at he
  · contradiction
  · rename_i s l old done
    have hs : Keeps pm st0 s := h _ rfl
    split at he
    · cases Option.some.inj he
      exact hs
    · split at he
      · rename_i hp
        cases Option.some.inj he
        exact State.placeExtent_keeps hs hp
      · contradiction

theorem placeSteps_keeps {pm : Parts} {st0 : State} {l : List (Nat × Nat)} {a : Option (State × List (Nat × Nat) × List Extent × List Extent)}
    (h : ∀ q, a = some q → Keeps pm st0 q.1) (p : State × List (Nat × Nat) × List Extent × List Extent) (he : l.foldl placeStep a = some p) (p_free : pm.free = true := by assumption) :
    Keeps pm st0 p.1 := by
  induction l generalizing a with
  | nil => exact h p he
  | cons n l ih => exact ih (fun q hq => placeStep_keeps h q hq) he

theorem State.partnerNeed_keeps {pm : Parts} {st0 : State} {s : State} {l : List (Nat × Nat)} (hk0 : Keeps pm st0 s) (p_free : pm.free = true := by
    assumption) : Keeps pm st0 (State.partnerNeed s l).1 := by
  unfold State.partnerNeed
  try dsimp only
  with_reducible repeat' (first | assumption | apply State.draw_keeps | apply Keeps.foldl | (refine Keeps.ofSnd (by assumption) ?_)
                                | refine Keeps.foldlP ?_ ?_ | refine Keeps.foldlQ ?_ ?_ | (intro _ _ _; try dsimp only) | (split <;> try dsimp only))

theorem State.placeAll_keeps {pm : Parts} {st0 : State} {s : State} {t0 : State} (hk0 : Keeps pm st0 s) (he : State.placeAll s = some t0) (p_free :
    pm.free = true := by assumption) (p_err : pm.err = true := by assumption) : Keeps pm st0 t0 := by
  unfold State.placeAll at he
  dsimp only at he
  split at he
  · contradiction
  · rename_i s1 l1 old1 done1 h1
    have k1 : Keeps pm st0 s1 := placeSteps_keeps (fun q hq => by cases hq; exact hk0) _ h1
    split at he
    · contradiction
    · rename_i s2 l2 old2 done2 h2
      have k2 : Keeps pm st0 s2 := by
        split at h2
        · cases Option.some.inj h2
          exact State.partnerNeed_keeps k1
        · exact placeStep_keeps (fun q hq => by cases hq; exact State.partnerNeed_keeps k1) _ h2
      cases Option.some.inj he
      with_reducible exact Keeps.lit k2 rfl

theorem State.abandonOld_keeps {pm : Parts} {st0 : State} {s : State} (hk0 : Keeps pm st0 s) (p_journal : pm.journal = true := by assumption) (p_mgmt
    : pm.mgmt = true := by assumption) : Keeps pm st0 (State.abandonOld s) := by
  unfold State.abandonOld
  try dsimp only
  with_reducible repeat' (first | assumption | apply State.notice_keeps | apply Keeps.ite | apply Keeps.foldl | refine Keeps.foldlP ?_ ?_
                                | (refine Keeps.lit ?_ rfl; first | assumption | apply State.notice_keeps | apply Keeps.ite | apply Keeps.foldl)
                                | (refine Keeps.phase ?_ (Nat.le_of_ble_eq_true (by with_unfolding_all rfl)); first | assumption | apply State.notice_keeps | apply Keeps.ite | apply Keeps.foldl)
                                | (intro _ _ _; try dsimp only) | (split <;> try dsimp only))

theorem State.attachAll_keeps {pm : Parts} {st0 : State} {s : State} (hk0 : Keeps pm st0 s) (p_tiers : pm.tiers = true := by assumption) (p_mgmt :
    pm.mgmt = true := by assumption) : Keeps pm st0 (State.attachAll s) := by
  unfold State.attachAll
  try dsimp only
  with_reducible repeat' (first | assumption | apply State.cartAttach_keeps | apply Keeps.ite | apply Keeps.foldl
                                | (refine Keeps.ofFst (by assumption) ?_) | (apply Keeps.iteFst <;> try dsimp only) | refine Keeps.foldlP ?_ ?_
                                | (intro _ _ _; try dsimp only) | (split <;> try dsimp only))

theorem State.releaseHives_keeps {pm : Parts} {st0 : State} {s : State} (hk0 : Keeps pm st0 s) (p_hives : pm.hives = true := by assumption) (p_err :
    pm.err = true := by assumption) (p_mgmt : pm.mgmt = true := by assumption) : Keeps pm st0 (State.releaseHives s) := by
  unfold State.releaseHives
  try dsimp only
  with_reducible repeat' (first | assumption | apply State.irq_keeps | apply State.notice_keeps | apply Keeps.ite
                                | (refine Keeps.lit ?_ rfl; first | assumption | apply State.irq_keeps | apply State.notice_keeps | apply Keeps.ite)
                                | (refine Keeps.phase ?_ (Nat.le_of_ble_eq_true (by with_unfolding_all rfl)); first | assumption | apply State.irq_keeps | apply State.notice_keeps | apply Keeps.ite)
                                | (split <;> try dsimp only))

theorem execStartPhaseEnd_keeps {pm : Parts} {st0 : State} {s : State} (hk0 : Keeps pm st0 s) (p_free : pm.free = true := by assumption) (p_clk :
    pm.clk = true := by assumption) (p_sched : pm.sched = true := by assumption) (p_mem : pm.mem = true := by assumption) (p_hives : pm.hives = true
    := by assumption) (p_tiers : pm.tiers = true := by assumption) (p_err : pm.err = true := by assumption) (p_journal : pm.journal = true := by
    assumption) (p_power : pm.power = true := by assumption) (p_trace : pm.trace = true := by assumption) (p_mgmt : pm.mgmt = true := by assumption) :
    ∃ u0, execStartPhaseEnd s = .next u0 ∧ Keeps pm st0 u0 := by
  unfold execStartPhaseEnd
  refine ⟨_, rfl, ?_⟩
  try dsimp only
  with_reducible repeat' (first | assumption | apply State.go_keeps | apply State.startFailed_keeps | apply State.t1Initialise_keeps
                                | apply State.attachAll_keeps | apply State.abandonOld_keeps | apply State.releaseHives_keeps
                                | (refine State.placeAll_keeps ?_ (by assumption)) | apply Keeps.ite
                                | (refine Keeps.lit ?_ rfl; first | assumption | apply State.go_keeps | apply State.startFailed_keeps | apply State.t1Initialise_keeps | apply State.attachAll_keeps | apply State.abandonOld_keeps | apply State.releaseHives_keeps | (refine State.placeAll_keeps ?_ (by assumption)) | apply Keeps.ite)
                                | (refine Keeps.phase ?_ (Nat.le_of_ble_eq_true (by with_unfolding_all rfl)); first | assumption | apply State.go_keeps | apply State.startFailed_keeps | apply State.t1Initialise_keeps | apply State.attachAll_keeps | apply State.abandonOld_keeps | apply State.releaseHives_keeps | (refine State.placeAll_keeps ?_ (by assumption)) | apply Keeps.ite)
                                | (split <;> try dsimp only))

theorem execIrqClear_keeps {pm : Parts} {st0 : State} {v : Byte} {s : State} (hk0 : Keeps pm st0 s) (p_mgmt : pm.mgmt = true := by assumption) : ∃ u0,
    execIrqClear v s = .next u0 ∧ Keeps pm st0 u0 := by
  unfold execIrqClear
  refine ⟨_, rfl, ?_⟩
  try dsimp only
  with_reducible repeat' (first | assumption | apply State.irqClear_keeps | apply Keeps.ite | (split <;> try dsimp only))

end Sys2Proof.Machine
end

