-- ==== Sys2Proof/Laws/KeepReplay.lean ====
section
/-!
SUPPORT. KeepReplay.lean: each operation of Machine/Replay.lean keeps: the invariant, the queue, and every part of the state that no hypothesis names.
-/
namespace Sys2Proof.Machine
set_option Elab.async false

theorem State.fromRecord_keeps {pm : Parts} {st0 s : State} {go : State → State} (hk0 : Keeps pm st0 s)
    (hgo : ∀ s, Keeps pm st0 s → Keeps pm st0 (go s)) (p_journal : pm.journal = true := by assumption) : Keeps pm st0 (s.fromRecord go) := by
  unfold State.fromRecord
  with_reducible refine Keeps.lit (hgo _ ?_) rfl
  with_reducible exact Keeps.lit hk0 rfl

theorem State.frameReplay_keeps {pm : Parts} {st0 : State} {s : State} {k : FxpId} {bs : List Byte} (hk0 : Keeps pm st0 s) (p_flight : pm.flight =
    true := by assumption) (p_nextId : pm.nextId = true := by assumption) (p_sched : pm.sched = true := by assumption) (p_mem : pm.mem = true := by
    assumption) (p_hives : pm.hives = true := by assumption) (p_wins : pm.wins = true := by assumption) (p_tiers : pm.tiers = true := by assumption)
    (p_fxps : pm.fxps = true := by assumption) (p_err : pm.err = true := by assumption) (p_mirror : pm.mirror = true := by assumption) (p_journal :
    pm.journal = true := by assumption) (p_power : pm.power = true := by assumption) (p_trace : pm.trace = true := by assumption) (p_count : pm.count
    = true := by assumption) (p_mgmt : pm.mgmt = true := by assumption) : Keeps pm st0 (State.frameReplay s k bs) := by
  unfold State.frameReplay
  try dsimp only
  with_reducible repeat' (first | assumption | apply after_keeps | apply execRwriteRecv_keeps | apply execRaccRecv_keeps | apply execRatomicRecv_keeps
                                | apply execRackRecv_keeps | apply execCreditReqRecv_keeps | apply execCreditGrantRecv_keeps
                                | apply execCreditReturnRecv_keeps | apply execClosingRecv_keeps | apply execRevokeRecv_keeps
                                | apply execRedirectRecv_keeps | apply execRedirectAckRecv_keeps | apply execSwitchMarkRecv_keeps
                                | apply execTsprobeRecv_keeps | apply execMwriteRecv_keeps | apply execMaccRecv_keeps | apply execMjournalRecv_keeps
                                | apply execMheartRecv_keeps | apply execMackRecv_keeps | apply execMfenceRecv_keeps | apply execMsetupRecv_keeps
                                | apply execMreqRecv_keeps | apply execMretRecv_keeps | (refine Keeps.ofNext ?_ (by assumption))
                                | (split <;> try dsimp only))

theorem State.yppReplay_keeps {pm : Parts} {st0 : State} {s : State} {bs : List Byte} (hk0 : Keeps pm st0 s) (p_flight : pm.flight = true := by
    assumption) (p_nextId : pm.nextId = true := by assumption) (p_sched : pm.sched = true := by assumption) (p_fxps : pm.fxps = true := by assumption)
    (p_err : pm.err = true := by assumption) (p_mirror : pm.mirror = true := by assumption) (p_journal : pm.journal = true := by assumption) (p_power
    : pm.power = true := by assumption) (p_trace : pm.trace = true := by assumption) (p_count : pm.count = true := by assumption) (p_mgmt : pm.mgmt =
    true := by assumption) : Keeps pm st0 (State.yppReplay s bs) := by
  unfold State.yppReplay
  try dsimp only
  with_reducible repeat' (first | assumption | apply State.takeReq_keeps | apply Keeps.ite | (split <;> try dsimp only))

theorem State.holdReplay_keeps {pm : Parts} {st0 : State} {s : State} (hk0 : Keeps pm st0 s) (p_flight : pm.flight = true := by assumption) (p_nextId
    : pm.nextId = true := by assumption) (p_free : pm.free = true := by assumption) (p_clk : pm.clk = true := by assumption) (p_sched : pm.sched =
    true := by assumption) (p_mem : pm.mem = true := by assumption) (p_hives : pm.hives = true := by assumption) (p_tiers : pm.tiers = true := by
    assumption) (p_fxps : pm.fxps = true := by assumption) (p_err : pm.err = true := by assumption) (p_mirror : pm.mirror = true := by assumption)
    (p_journal : pm.journal = true := by assumption) (p_power : pm.power = true := by assumption) (p_trace : pm.trace = true := by assumption)
    (p_count : pm.count = true := by assumption) (p_mgmt : pm.mgmt = true := by assumption) : Keeps pm st0 (State.holdReplay s) := by
  unfold State.holdReplay
  try dsimp only
  with_reducible repeat' (first | assumption | apply State.holdEnd_keeps | apply State.draw_keeps | apply State.holdStart_keeps | apply Keeps.ite
                                | (refine Keeps.ofSnd (by assumption) ?_) | (split <;> try dsimp only))

theorem execReplayInput_keeps {pm : Parts} {st0 : State} {i : RecInput} {s : State} (hk0 : Keeps pm st0 s) (p_flight : pm.flight = true := by
    assumption) (p_nextId : pm.nextId = true := by assumption) (p_free : pm.free = true := by assumption) (p_clk : pm.clk = true := by assumption)
    (p_sched : pm.sched = true := by assumption) (p_mem : pm.mem = true := by assumption) (p_hives : pm.hives = true := by assumption) (p_wins :
    pm.wins = true := by assumption) (p_tiers : pm.tiers = true := by assumption) (p_fxps : pm.fxps = true := by assumption) (p_err : pm.err = true :=
    by assumption) (p_mirror : pm.mirror = true := by assumption) (p_journal : pm.journal = true := by assumption) (p_power : pm.power = true := by
    assumption) (p_trace : pm.trace = true := by assumption) (p_count : pm.count = true := by assumption) (p_quench : pm.quench = true := by
    assumption) (p_mgmt : pm.mgmt = true := by assumption) : ∃ u0, execReplayInput i s = .next u0 ∧ Keeps pm st0 u0 := by
  unfold execReplayInput
  refine ⟨_, rfl, ?_⟩
  try dsimp only
  with_reducible repeat' (first | assumption | apply State.fromRecord_keeps | apply State.frameReplay_keeps | apply State.yppReplay_keeps
                                | apply State.epochEdge_keeps | apply State.tsync_keeps | apply State.holdReplay_keeps | apply State.replayNext_keeps
                                | apply Keeps.ite | (intro _ _; try dsimp only) | (split <;> try dsimp only))

end Sys2Proof.Machine
end

