-- ==== Sys2Proof/Laws/KeepTick.lean ====
section
/-!
SUPPORT. KeepTick.lean: each operation of Machine/Tick.lean keeps: the invariant, the queue, and every part of the state that no hypothesis names.
-/
namespace Sys2Proof.Machine
set_option Elab.async false

theorem State.passTime_keeps {pm : Parts} {st0 : State} {s : State} {n : Nat} (hk0 : Keeps pm st0 s) (p_clk : pm.clk = true := by assumption) (p_err :
    pm.err = true := by assumption) (p_power : pm.power = true := by assumption) (p_trace : pm.trace = true := by assumption) (p_count : pm.count =
    true := by assumption) (p_mgmt : pm.mgmt = true := by assumption) : Keeps pm st0 (State.passTime s n) := by
  unfold State.passTime
  try dsimp only
  with_reducible repeat' (first | assumption | apply State.cadd_keeps | apply State.traceAt_keeps | apply Keeps.ite
                                | (refine Keeps.lit ?_ rfl; first | assumption | apply State.cadd_keeps | apply State.traceAt_keeps | apply Keeps.ite)
                                | (split <;> try dsimp only))

theorem State.countAll_keeps {pm : Parts} {st0 : State} {s : State} {l : List (Nat × Nat × Nat)} (hk0 : Keeps pm st0 s) (p_count : pm.count = true :=
    by assumption) : Keeps pm st0 (State.countAll s l) := by
  unfold State.countAll
  try dsimp only
  with_reducible repeat' (first | assumption | apply State.cadd_keeps | apply Keeps.ite | apply Keeps.foldl | refine Keeps.foldlP ?_ ?_
                                | (intro _ _ _; try dsimp only) | (split <;> try dsimp only))

theorem State.occupancy_keeps {pm : Parts} {st0 : State} {s : State} {u : Nat} (hk0 : Keeps pm st0 s) (p_count : pm.count = true := by assumption) :
    Keeps pm st0 (State.occupancy s u) := by
  unfold State.occupancy
  try dsimp only
  with_reducible repeat' (first | assumption | apply State.cmax_keeps | apply State.cadd_keeps | apply Keeps.ite | apply Keeps.foldl
                                | refine Keeps.foldlP ?_ ?_ | (intro _ _ _; try dsimp only) | (split <;> try dsimp only))

theorem State.countCycle_keeps {pm : Parts} {st0 : State} {s : State} (hk0 : Keeps pm st0 s) (p_power : pm.power = true := by assumption) (p_count :
    pm.count = true := by assumption) : Keeps pm st0 (State.countCycle s) := by
  unfold State.countCycle
  try dsimp only
  with_reducible repeat' (first | assumption | apply State.pev_keeps | apply State.countAll_keeps | apply State.occupancy_keeps | apply Keeps.foldl
                                | refine Keeps.foldlP ?_ ?_ | (intro _ _ _; try dsimp only) | (split <;> try dsimp only))

theorem State.outputs_keeps {pm : Parts} {st0 : State} {s : State} (hk0 : Keeps pm st0 s) (p_hives : pm.hives = true := by assumption) (p_mgmt :
    pm.mgmt = true := by assumption) : Keeps pm st0 (State.outputs s) := by
  unfold State.outputs
  try dsimp only
  with_reducible repeat' (first | assumption | apply Keeps.ite | (refine Keeps.lit ?_ rfl; first | assumption | apply Keeps.ite)
                                | (split <;> try dsimp only))

theorem State.gates_keeps {pm : Parts} {st0 : State} {s : State} (hk0 : Keeps pm st0 s) (p_hives : pm.hives = true := by assumption) : Keeps pm st0
    (State.gates s) := by
  unfold State.gates
  try dsimp only
  with_reducible repeat' (first | assumption | apply State.setClock_keeps | apply Keeps.ite | apply Keeps.foldl | refine Keeps.foldlP ?_ ?_
                                | (refine Keeps.lit ?_ rfl; first | assumption | apply State.setClock_keeps | apply Keeps.ite | apply Keeps.foldl)
                                | (intro _ _ _; try dsimp only) | (split <;> try dsimp only))

theorem State.pumps_keeps {pm : Parts} {st0 : State} {s : State} (hk0 : Keeps pm st0 s) (p_flight : pm.flight = true := by assumption) (p_nextId :
    pm.nextId = true := by assumption) (p_free : pm.free = true := by assumption) (p_sched : pm.sched = true := by assumption) (p_mem : pm.mem = true
    := by assumption) (p_hives : pm.hives = true := by assumption) (p_wins : pm.wins = true := by assumption) (p_chans : pm.chans = true := by
    assumption) (p_jobs : pm.jobs = true := by assumption) (p_scarabs : pm.scarabs = true := by assumption) (p_submits : pm.submits = true := by
    assumption) (p_tiers : pm.tiers = true := by assumption) (p_fxps : pm.fxps = true := by assumption) (p_err : pm.err = true := by assumption)
    (p_mirror : pm.mirror = true := by assumption) (p_journal : pm.journal = true := by assumption) (p_power : pm.power = true := by assumption)
    (p_trace : pm.trace = true := by assumption) (p_count : pm.count = true := by assumption) (p_mgmt : pm.mgmt = true := by assumption) : Keeps pm
    st0 (State.pumps s) := by
  unfold State.pumps
  try dsimp only
  with_reducible repeat' (first | assumption | apply State.jPump_keeps | apply State.jAdvance_keeps | apply State.gates_keeps
                                | apply State.probeRoll_keeps | apply State.drainCopies_keeps | apply State.sendHeld_keeps
                                | apply State.edgeRegs_keeps | apply State.ringClose_keeps | apply State.flcStart_keeps | apply State.sxpRetry_keeps
                                | apply State.chanPump_keeps | apply State.retryLines_keeps | apply State.submitsTry_keeps | apply State.jobActs_keeps
                                | apply State.scarabPump_keeps | apply State.t2Pump_keeps | apply Keeps.ite | apply Keeps.foldl
                                | refine Keeps.foldlP ?_ ?_ | (intro _ _ _; try dsimp only) | (split <;> try dsimp only))

theorem State.nextCycle_keeps {pm : Parts} {st0 : State} {s : State} {lv : Nat} (hk0 : Keeps pm st0 s) (p_clk : pm.clk = true := by assumption)
    (p_sched : pm.sched = true := by assumption) (p_hives : pm.hives = true := by assumption) : Keeps pm st0 (State.nextCycle s lv) := by
  unfold State.nextCycle
  try dsimp only
  with_reducible repeat' (first | assumption | (refine Keeps.lit ?_ rfl; first | assumption) | (split <;> try dsimp only))

theorem State.tick_keeps {pm : Parts} {st0 : State} {s : State} (hk0 : Keeps pm st0 s) (p_flight : pm.flight = true := by assumption) (p_nextId :
    pm.nextId = true := by assumption) (p_free : pm.free = true := by assumption) (p_clk : pm.clk = true := by assumption) (p_sched : pm.sched = true
    := by assumption) (p_mem : pm.mem = true := by assumption) (p_hives : pm.hives = true := by assumption) (p_wins : pm.wins = true := by assumption)
    (p_chans : pm.chans = true := by assumption) (p_chTurn : pm.chTurn = true := by assumption) (p_jobs : pm.jobs = true := by assumption) (p_scarabs
    : pm.scarabs = true := by assumption) (p_submits : pm.submits = true := by assumption) (p_tiers : pm.tiers = true := by assumption) (p_fxps :
    pm.fxps = true := by assumption) (p_err : pm.err = true := by assumption) (p_mirror : pm.mirror = true := by assumption) (p_journal : pm.journal =
    true := by assumption) (p_power : pm.power = true := by assumption) (p_trace : pm.trace = true := by assumption) (p_count : pm.count = true := by
    assumption) (p_quench : pm.quench = true := by assumption) (p_mgmt : pm.mgmt = true := by assumption) : Keeps pm st0 (State.tick s) := by
  unfold State.tick
  try dsimp only
  with_reducible repeat' (first | assumption | apply State.logPump_keeps | apply State.outputs_keeps | apply State.countCycle_keeps
                                | apply State.reload_keeps | apply State.passTime_keeps | apply State.pumps_keeps | apply State.cycleMisses_keeps
                                | apply State.nextCycle_keeps | apply Keeps.ite | (split <;> try dsimp only))

end Sys2Proof.Machine
end

