-- ==== Sys2Proof/Laws/Request.lean ====
section
/-!
SUPPORT. Request.lean: the transactions a port's request puts in flight.
-/
set_option Elab.async false
namespace Sys2Proof.Machine

/-- Where an address is served depends on the parameters alone. -/
theorem State.locate_congr {s t : State} (hm : t.mgmt = s.mgmt) (a : Nat) : t.locate a = s.locate a := by
  have hp : ∀ p i, t.pv p i = s.pv p i := fun p i => by unfold State.pv; rw [hm]
  have hc : t.poolC = s.poolC := by unfold State.poolC State.tiered; rw [hp, hp]
  have hr : t.region = s.region := by funext i; unfold State.region; rw [hp]
  have ha : t.regionAt = s.regionAt := by funext i o; unfold State.regionAt; rw [hr]
  have hw : t.rawOf = s.rawOf := by funext i o; unfold State.rawOf; rw [ha]
  unfold State.locate
  rw [hc, hw]

theorem State.locate_addX (s : State) (x : Xact) (a : Nat) : (s.addX x).locate a = s.locate a := State.locate_congr rfl a

/-- The transaction of one line of a request, under its number. -/
def lineX (s : State) (base : Xact) (g n : Nat) (l : Sys2Proof.LineReq) : Xact :=
  { base with id := n, seq := n, grp := g, ga := l.ga, mask := l.mask, data := l.data, loc := s.locate l.ga.toNat }

theorem State.addLines_go (g : Nat) (base : Xact) (ls : List Sys2Proof.LineReq) (s0 s : State) (acc : List Nat)
    (hb : ∀ y ∈ s.flight, y.id < s.nextId) (hl : ∀ a, s.locate a = s0.locate a) :
    ∃ u : State, ls.foldl (fun (p : State × List Nat) l =>
      (p.1.addX { base with grp := g, ga := l.ga, mask := l.mask, data := l.data, loc := p.1.locate l.ga.toNat }, p.2 ++ [p.1.nextId])) (s, acc) =
        (u, acc ++ (List.range ls.length).map (fun i => s.nextId + i)) ∧
      (∀ n, n < s.nextId → u.xact n = s.xact n) ∧ (∀ n, s.nextId + ls.length ≤ n → s.xact n = none → u.xact n = none) ∧
      ∀ i (hi : i < ls.length), u.xact (s.nextId + i) = some (lineX s0 base g (s.nextId + i) ls[i]) := by
  induction ls generalizing s acc with
  | nil => exact ⟨s, by simp, fun _ _ => rfl, fun _ _ h => h, fun i hi => by simp at hi⟩
  | cons l ls ih =>
    rw [List.foldl_cons]
    dsimp only
    generalize hx : ({ base with grp := g, ga := l.ga, mask := l.mask, data := l.data, loc := s.locate l.ga.toNat } : Xact) = x
    have hn : (s.addX x).nextId = s.nextId + 1 := rfl
    have hb' : ∀ y ∈ (s.addX x).flight, y.id < (s.addX x).nextId := by
      intro y hy
      rw [hn]
      rcases List.mem_append.mp hy with hy | hy
      · have := hb y hy; omega
      · simp only [List.mem_singleton] at hy; rw [hy]; exact Nat.lt_succ_self _
    obtain ⟨u, h1, h2, h3, h4⟩ := ih (s.addX x) (acc ++ [s.nextId]) hb' (fun a => (s.locate_addX x a).trans (hl a))
    refine ⟨u, ?_, fun n hlt => ?_, fun n hle hnone => ?_, fun i hi => ?_⟩
    · rw [h1, hn, List.length_cons, List.range_succ_eq_map]
      simp [Function.comp_def, Nat.add_assoc, Nat.add_comm 1]
    · rw [h2 n (by rw [hn]; omega)]
      exact State.xact_addX_other x (by omega)
    · simp only [List.length_cons] at hle
      exact h3 n (by rw [hn]; omega) (by rw [State.xact_addX_other x (by omega)]; exact hnone)
    · cases i with
      | zero =>
        rw [h2 _ (by rw [hn]; omega), Nat.add_zero, State.xact_addX_same x hb]
        simp only [lineX, List.getElem_cons_zero, ← hl, ← hx]
      | succ i =>
        have := h4 i (by simpa using hi)
        rw [hn] at this
        rw [show s.nextId + (i + 1) = s.nextId + 1 + i by omega, List.getElem_cons_succ]
        exact this

/-- A request's lines go into flight under consecutive numbers. -/
theorem State.addLines_spec (s : State) (base : Xact) (ls : List Sys2Proof.LineReq) (hb : ∀ y ∈ s.flight, y.id < s.nextId) :
    ∃ u : State, s.addLines base ls = (u, (List.range ls.length).map (fun i => s.nextId + i)) ∧
      (∀ n, n < s.nextId → u.xact n = s.xact n) ∧
      ∀ i (hi : i < ls.length), u.xact (s.nextId + i) = some (lineX s base s.nextId (s.nextId + i) ls[i]) := by
  obtain ⟨u, h1, h2, _, h4⟩ := State.addLines_go s.nextId base ls s s [] hb (fun _ => rfl)
  refine ⟨u, ?_, h2, h4⟩
  unfold State.addLines
  dsimp only
  rw [h1]
  simp

end Sys2Proof.Machine
end

