-- ==== Sys2Proof/Laws/Rows.lean ====
section
/-!
SUPPORT. Rows.lean: what clearing valid bits does to the stored rows.
-/
set_option Elab.async false
namespace Sys2Proof.Machine

theorem Tbl.find_none {α : Type} (t : Tbl α) (k : Nat) (h : k ∉ t.map (fun e => e.1)) : Tbl.find t k = none := by
  induction t with
  | nil => rfl
  | cons e t ih =>
    simp only [List.map_cons, List.mem_cons, not_or] at h
    unfold Tbl.find
    rw [if_neg (fun e => h.1 e.symm)]
    exact ih h.2

theorem State.forward_mem (s : State) (u : Nat) (x : Xact) (kind : AccKind) (m : Dword) (l : Line) : (s.forward u x kind m l).mem = s.mem :=
  Keeps.same_mem (pm := { cmdParts.all with mem := false }) (by apply @State.forward_keeps <;> first | exact Keeps.refl _ _ | rfl) rfl

/-- A clear makes the valid bits of the places it picks 0, their data and check bits as they were, and leaves every other place alone. -/
theorem State.clearValid_row (s : State) (h : Nat) (pick : Nat → Nat → Nat → Bool) (k : Nat) :
    let picked := (keyParts k).2.1 = h ∧ ∃ r, s.logicalRow k = some r ∧ pick (keyParts k).1 (keyParts k).2.2.1 r = true
    (picked → (s.clearValid h pick).rowAt k = { s.rowAt k with cells := 0 }) ∧ (¬picked → (s.clearValid h pick).rowAt k = s.rowAt k) := by
  intro picked
  have key : ∀ (l : List Nat) (u : State), ((l.foldl (fun s k =>
      let r := s.rowAt k
      let p := keyParts k
      let s := s.setRow k { r with cells := 0 }
      if r.valid && decide (p.1 = 0) then
        let row := (s.logicalRow k).getD 0
        let ga := h * 0x400000 + row * 4096 + p.2.2.1 * 64
        s.forward h { ga := BitVec.ofNat 48 ga, srcUnit := h } .write fullMask 0
      else s) u).rowAt k) = if k ∈ l then { u.rowAt k with cells := 0 } else u.rowAt k := by
    intro l
    induction l with
    | nil => intro u; simp
    | cons a l ih =>
      intro u
      rw [List.foldl_cons, ih]
      have hs : ∀ w : State, w.mem.rows = (u.setRow a { u.rowAt a with cells := 0 }).mem.rows →
          w.rowAt k = if k = a then { u.rowAt k with cells := 0 } else u.rowAt k := by
        intro w hw
        have hg : w.rowAt k = Tbl.get (Tbl.set u.mem.rows {} a { u.rowAt a with cells := 0 }) {} k := by
          unfold State.rowAt at hw ⊢; rw [hw]; rfl
        rw [hg]
        split
        · rename_i e; rw [e]; exact Tbl.get_set_same _ _ _ _
        · rename_i e; exact Tbl.get_set_other _ _ _ _ _ e
      dsimp only
      generalize hb : ((u.rowAt a).valid && decide ((keyParts a).1 = 0)) = bb
      generalize hw : (@ite State (bb = true) _ _ _) = w
      have hw2 := hs w (by
        rw [← hw]
        split
        · rw [State.forward_mem]
        · rfl)
      rw [hw2]
      by_cases e : k = a
      · rw [if_pos e, if_pos (show k ∈ a :: l by rw [e]; exact List.mem_cons_self)]
        split <;> rfl
      · rw [if_neg e]
        simp only [List.mem_cons, e, false_or]
  unfold State.clearValid
  dsimp only
  rw [key]
  have hmem : (k ∈ (s.mem.rows.map (fun e => e.1)).filter (fun k =>
      decide ((keyParts k).2.1 = h) && (match s.logicalRow k with
        | some r => pick (keyParts k).1 (keyParts k).2.2.1 r
        | none => false))) ↔ (k ∈ s.mem.rows.map (fun e => e.1)) ∧ picked := by
    rw [List.mem_filter]
    show _ ↔ _ ∧ (_ ∧ _)
    cases hl : s.logicalRow k with
    | none => simp
    | some r => simp
  have hdef : k ∉ s.mem.rows.map (fun e => e.1) → s.rowAt k = {} := by
    intro hin
    unfold State.rowAt Tbl.get
    rw [Tbl.find_none _ _ hin]; rfl
  refine ⟨fun hs => ?_, fun hs => ?_⟩
  · by_cases hin : k ∈ s.mem.rows.map (fun e => e.1)
    · exact if_pos (hmem.mpr ⟨hin, hs⟩)
    · refine (if_neg (fun e => hin (hmem.mp e).1)).trans ?_
      rw [hdef hin]
  · exact if_neg (fun e => hs (hmem.mp e).2)

end Sys2Proof.Machine
end

