-- ==== Sys2Proof/Laws/State.lean ====
section
/-!
SUPPORT. State.lean: what the setters of State and the reads of it say to each other, one lemma for each field a setter changes, and the
control pages with their command registers.
-/
set_option Elab.async false
namespace Sys2Proof.Machine

/-- A CMD access that nothing keeps goes on at once. -/
theorem State.cmdFree.go {s : State} {h : HiveId} {c : CtxId} (hf : s.cmdFree h c) (i : Instr) (f : State → State) : s.cmd h.val c.val i f = f s := by
  unfold State.cmd
  rw [if_neg hf.2.1, hf.2.2]
  rfl

theorem State.cmdFree.root {s : State} {h : HiveId} {c : CtxId} (hf : s.cmdFree h c) : s.clk.rootOn = true := by
  have := hf.1
  unfold State.ctlOpen at this
  simp only [Bool.and_eq_true] at this
  exact this.1

theorem State.cmdFree.up {s : State} {h : HiveId} {c : CtxId} (hf : s.cmdFree h c) : s.clockOf h.val ≠ .off := by
  have := hf.1
  unfold State.ctlOpen State.hiveUp at this
  simp only [Bool.and_eq_true, decide_eq_true_eq] at this
  exact this.2.1

theorem fld_status (st keep : Nat) (h : st < 16) : fld (dwordOf [(63, 60, st), (59, 0, keep)]).toNat 63 60 = st := by
  unfold dwordOf pack pack pack fld
  rw [BitVec.toNat_ofNat]
  simp only [Nat.reduceAdd, Nat.reduceSub, Nat.reducePow]
  omega

@[simp] theorem State.page_setPage (s : State) (h c off : Nat) (v : Dword) : (s.setPage h c off v).page h c off = v := by
  unfold State.page State.setPage
  simp only [Tbl.get_set_same]

theorem State.page_setPage_key (s : State) (h c off h' c' off' : Nat) (v : Dword) (hn : pageKey h' c' off' ≠ pageKey h c off) :
    (s.setPage h c off v).page h' c' off' = s.page h' c' off' := by
  unfold State.page State.setPage
  exact Tbl.get_set_other _ _ _ _ _ hn

theorem State.page_setPage_other (s : State) (h c off off' : Nat) (v : Dword) (hn : off' / 8 ≠ off / 8) :
    (s.setPage h c off v).page h c off' = s.page h c off' := by
  unfold State.page State.setPage
  have : pageKey h c off' ≠ pageKey h c off := by unfold pageKey; omega
  exact Tbl.get_set_other _ _ _ _ _ this

/-- A command register reads the status it was given. -/
theorem State.status_setStatus (s : State) (h c off st keep : Nat) (hs : st < 16) : (s.setStatus h c off st keep).status h c off = st := by
  unfold State.status State.setStatus
  rw [State.page_setPage]
  exact fld_status st keep hs

@[simp] theorem State.win_setWin (s : State) (h w : Nat) (q : Quad) : (s.setWin h w q).win h w = q := by
  unfold State.win State.setWin; exact Tbl.get_set_same _ _ _ _

@[simp] theorem State.winx_setWinx (s : State) (h w : Nat) (x : WinX) : (s.setWinx h w x).winx h w = x := by
  unfold State.winx State.setWinx; exact Tbl.get_set_same _ _ _ _

@[simp] theorem State.winx_setWin (s : State) (h w : Nat) (q : Quad) (g v : Nat) : (s.setWin h w q).winx g v = s.winx g v := rfl

@[simp] theorem State.win_setWinx (s : State) (h w : Nat) (x : WinX) (g v : Nat) : (s.setWinx h w x).win g v = s.win g v := rfl

/-- The status of a command register depends on the control pages alone. -/
theorem State.status_pages {s t : State} (h : t.hives.pages = s.hives.pages) (a b c : Nat) : t.status a b c = s.status a b c := by
  unfold State.status State.page
  rw [h]

/-! ### What a setter leaves as it is -/

@[simp] theorem State.setPage_pending (s : State) (h c off : Nat) (v : Dword) : (s.setPage h c off v).pending = s.pending := rfl
@[simp] theorem State.setPage_flight (s : State) (h c off : Nat) (v : Dword) : (s.setPage h c off v).flight = s.flight := rfl
@[simp] theorem State.setPage_nextId (s : State) (h c off : Nat) (v : Dword) : (s.setPage h c off v).nextId = s.nextId := rfl
@[simp] theorem State.setPage_free (s : State) (h c off : Nat) (v : Dword) : (s.setPage h c off v).free = s.free := rfl
@[simp] theorem State.setPage_clk (s : State) (h c off : Nat) (v : Dword) : (s.setPage h c off v).clk = s.clk := rfl
@[simp] theorem State.setPage_sched (s : State) (h c off : Nat) (v : Dword) : (s.setPage h c off v).sched = s.sched := rfl
@[simp] theorem State.setPage_mem (s : State) (h c off : Nat) (v : Dword) : (s.setPage h c off v).mem = s.mem := rfl
@[simp] theorem State.setPage_wins (s : State) (h c off : Nat) (v : Dword) : (s.setPage h c off v).wins = s.wins := rfl
@[simp] theorem State.setPage_chans (s : State) (h c off : Nat) (v : Dword) : (s.setPage h c off v).chans = s.chans := rfl
@[simp] theorem State.setPage_chTurn (s : State) (h c off : Nat) (v : Dword) : (s.setPage h c off v).chTurn = s.chTurn := rfl
@[simp] theorem State.setPage_jobs (s : State) (h c off : Nat) (v : Dword) : (s.setPage h c off v).jobs = s.jobs := rfl
@[simp] theorem State.setPage_scarabs (s : State) (h c off : Nat) (v : Dword) : (s.setPage h c off v).scarabs = s.scarabs := rfl
@[simp] theorem State.setPage_submits (s : State) (h c off : Nat) (v : Dword) : (s.setPage h c off v).submits = s.submits := rfl
@[simp] theorem State.setPage_tiers (s : State) (h c off : Nat) (v : Dword) : (s.setPage h c off v).tiers = s.tiers := rfl
@[simp] theorem State.setPage_fxps (s : State) (h c off : Nat) (v : Dword) : (s.setPage h c off v).fxps = s.fxps := rfl
@[simp] theorem State.setPage_err (s : State) (h c off : Nat) (v : Dword) : (s.setPage h c off v).err = s.err := rfl
@[simp] theorem State.setPage_mirror (s : State) (h c off : Nat) (v : Dword) : (s.setPage h c off v).mirror = s.mirror := rfl
@[simp] theorem State.setPage_journal (s : State) (h c off : Nat) (v : Dword) : (s.setPage h c off v).journal = s.journal := rfl
@[simp] theorem State.setPage_power (s : State) (h c off : Nat) (v : Dword) : (s.setPage h c off v).power = s.power := rfl
@[simp] theorem State.setPage_trace (s : State) (h c off : Nat) (v : Dword) : (s.setPage h c off v).trace = s.trace := rfl
@[simp] theorem State.setPage_count (s : State) (h c off : Nat) (v : Dword) : (s.setPage h c off v).count = s.count := rfl
@[simp] theorem State.setPage_quench (s : State) (h c off : Nat) (v : Dword) : (s.setPage h c off v).quench = s.quench := rfl
@[simp] theorem State.setPage_mgmt (s : State) (h c off : Nat) (v : Dword) : (s.setPage h c off v).mgmt = s.mgmt := rfl
@[simp] theorem State.setPage_hives_clock (s : State) (h c off : Nat) (v : Dword) : (s.setPage h c off v).hives.clock = s.hives.clock := rfl
@[simp] theorem State.setPage_hives_active (s : State) (h c off : Nat) (v : Dword) : (s.setPage h c off v).hives.active = s.hives.active := rfl
@[simp] theorem State.setPage_hives_gatePend (s : State) (h c off : Nat) (v : Dword) : (s.setPage h c off v).hives.gatePend = s.hives.gatePend := rfl
@[simp] theorem State.setPage_hives_dom (s : State) (h c off : Nat) (v : Dword) : (s.setPage h c off v).hives.dom = s.hives.dom := rfl
@[simp] theorem State.setPage_hives_pwrPend (s : State) (h c off : Nat) (v : Dword) : (s.setPage h c off v).hives.pwrPend = s.hives.pwrPend := rfl
@[simp] theorem State.setPage_hives_pwrRes (s : State) (h c off : Nat) (v : Dword) : (s.setPage h c off v).hives.pwrRes = s.hives.pwrRes := rfl
@[simp] theorem State.setPage_hives_owner (s : State) (h c off : Nat) (v : Dword) : (s.setPage h c off v).hives.owner = s.hives.owner := rfl
@[simp] theorem State.setPage_hives_sb (s : State) (h c off : Nat) (v : Dword) : (s.setPage h c off v).hives.sb = s.hives.sb := rfl
@[simp] theorem State.setPage_hives_ways (s : State) (h c off : Nat) (v : Dword) : (s.setPage h c off v).hives.ways = s.hives.ways := rfl
@[simp] theorem State.setPage_hives_plru (s : State) (h c off : Nat) (v : Dword) : (s.setPage h c off v).hives.plru = s.hives.plru := rfl
@[simp] theorem State.setPage_hives_flcCmds (s : State) (h c off : Nat) (v : Dword) : (s.setPage h c off v).hives.flcCmds = s.hives.flcCmds := rfl
@[simp] theorem State.setPage_hives_handles (s : State) (h c off : Nat) (v : Dword) : (s.setPage h c off v).hives.handles = s.hives.handles := rfl
@[simp] theorem State.setPage_hives_drains (s : State) (h c off : Nat) (v : Dword) : (s.setPage h c off v).hives.drains = s.hives.drains := rfl
@[simp] theorem State.setPage_hives_moves (s : State) (h c off : Nat) (v : Dword) : (s.setPage h c off v).hives.moves = s.hives.moves := rfl
@[simp] theorem State.setPage_hives_ctxJobs (s : State) (h c off : Nat) (v : Dword) : (s.setPage h c off v).hives.ctxJobs = s.hives.ctxJobs := rfl
@[simp] theorem State.setPage_hives_rings (s : State) (h c off : Nat) (v : Dword) : (s.setPage h c off v).hives.rings = s.hives.rings := rfl
@[simp] theorem State.setPage_hives_closing (s : State) (h c off : Nat) (v : Dword) : (s.setPage h c off v).hives.closing = s.hives.closing := rfl
@[simp] theorem State.setPage_hives_waits (s : State) (h c off : Nat) (v : Dword) : (s.setPage h c off v).hives.waits = s.hives.waits := rfl
@[simp] theorem State.setPage_hives_armNo (s : State) (h c off : Nat) (v : Dword) : (s.setPage h c off v).hives.armNo = s.hives.armNo := rfl
@[simp] theorem State.setPage_hives_passes (s : State) (h c off : Nat) (v : Dword) : (s.setPage h c off v).hives.passes = s.hives.passes := rfl
@[simp] theorem State.setPage_hives_barriers (s : State) (h c off : Nat) (v : Dword) : (s.setPage h c off v).hives.barriers = s.hives.barriers := rfl
@[simp] theorem State.setPage_hives_sent (s : State) (h c off : Nat) (v : Dword) : (s.setPage h c off v).hives.sent = s.hives.sent := rfl
@[simp] theorem State.setPage_hives_fences (s : State) (h c off : Nat) (v : Dword) : (s.setPage h c off v).hives.fences = s.hives.fences := rfl
@[simp] theorem State.setPage_hives_events (s : State) (h c off : Nat) (v : Dword) : (s.setPage h c off v).hives.events = s.hives.events := rfl
@[simp] theorem State.setPage_hives_faultReg (s : State) (h c off : Nat) (v : Dword) : (s.setPage h c off v).hives.faultReg = s.hives.faultReg := rfl
@[simp] theorem State.setPage_hives_edge (s : State) (h c off : Nat) (v : Dword) : (s.setPage h c off v).hives.edge = s.hives.edge := rfl
@[simp] theorem State.setPage_hives_lastRes (s : State) (h c off : Nat) (v : Dword) : (s.setPage h c off v).hives.lastRes = s.hives.lastRes := rfl
@[simp] theorem State.setPage_hives_busy (s : State) (h c off : Nat) (v : Dword) : (s.setPage h c off v).hives.busy = s.hives.busy := rfl
@[simp] theorem State.setPage_hives_outs (s : State) (h c off : Nat) (v : Dword) : (s.setPage h c off v).hives.outs = s.hives.outs := rfl
@[simp] theorem State.setPage_hives_cmdq (s : State) (h c off : Nat) (v : Dword) : (s.setPage h c off v).hives.cmdq = s.hives.cmdq := rfl
@[simp] theorem State.setPage_hives_cmdTurn (s : State) (h c off : Nat) (v : Dword) : (s.setPage h c off v).hives.cmdTurn = s.hives.cmdTurn := rfl
@[simp] theorem State.setPage_hives_ported (s : State) (h c off : Nat) (v : Dword) : (s.setPage h c off v).hives.ported = s.hives.ported := rfl
@[simp] theorem State.setPage_hives_sbGone (s : State) (h c off : Nat) (v : Dword) : (s.setPage h c off v).hives.sbGone = s.hives.sbGone := rfl
@[simp] theorem State.setPage_hives_granted (s : State) (h c off : Nat) (v : Dword) : (s.setPage h c off v).hives.granted = s.hives.granted := rfl

@[simp] theorem State.setWin_pending (s : State) (h w : Nat) (q : Quad) : (s.setWin h w q).pending = s.pending := rfl
@[simp] theorem State.setWin_flight (s : State) (h w : Nat) (q : Quad) : (s.setWin h w q).flight = s.flight := rfl
@[simp] theorem State.setWin_nextId (s : State) (h w : Nat) (q : Quad) : (s.setWin h w q).nextId = s.nextId := rfl
@[simp] theorem State.setWin_free (s : State) (h w : Nat) (q : Quad) : (s.setWin h w q).free = s.free := rfl
@[simp] theorem State.setWin_clk (s : State) (h w : Nat) (q : Quad) : (s.setWin h w q).clk = s.clk := rfl
@[simp] theorem State.setWin_sched (s : State) (h w : Nat) (q : Quad) : (s.setWin h w q).sched = s.sched := rfl
@[simp] theorem State.setWin_mem (s : State) (h w : Nat) (q : Quad) : (s.setWin h w q).mem = s.mem := rfl
@[simp] theorem State.setWin_hives (s : State) (h w : Nat) (q : Quad) : (s.setWin h w q).hives = s.hives := rfl
@[simp] theorem State.setWin_chans (s : State) (h w : Nat) (q : Quad) : (s.setWin h w q).chans = s.chans := rfl
@[simp] theorem State.setWin_chTurn (s : State) (h w : Nat) (q : Quad) : (s.setWin h w q).chTurn = s.chTurn := rfl
@[simp] theorem State.setWin_jobs (s : State) (h w : Nat) (q : Quad) : (s.setWin h w q).jobs = s.jobs := rfl
@[simp] theorem State.setWin_scarabs (s : State) (h w : Nat) (q : Quad) : (s.setWin h w q).scarabs = s.scarabs := rfl
@[simp] theorem State.setWin_submits (s : State) (h w : Nat) (q : Quad) : (s.setWin h w q).submits = s.submits := rfl
@[simp] theorem State.setWin_tiers (s : State) (h w : Nat) (q : Quad) : (s.setWin h w q).tiers = s.tiers := rfl
@[simp] theorem State.setWin_fxps (s : State) (h w : Nat) (q : Quad) : (s.setWin h w q).fxps = s.fxps := rfl
@[simp] theorem State.setWin_err (s : State) (h w : Nat) (q : Quad) : (s.setWin h w q).err = s.err := rfl
@[simp] theorem State.setWin_mirror (s : State) (h w : Nat) (q : Quad) : (s.setWin h w q).mirror = s.mirror := rfl
@[simp] theorem State.setWin_journal (s : State) (h w : Nat) (q : Quad) : (s.setWin h w q).journal = s.journal := rfl
@[simp] theorem State.setWin_power (s : State) (h w : Nat) (q : Quad) : (s.setWin h w q).power = s.power := rfl
@[simp] theorem State.setWin_trace (s : State) (h w : Nat) (q : Quad) : (s.setWin h w q).trace = s.trace := rfl
@[simp] theorem State.setWin_count (s : State) (h w : Nat) (q : Quad) : (s.setWin h w q).count = s.count := rfl
@[simp] theorem State.setWin_quench (s : State) (h w : Nat) (q : Quad) : (s.setWin h w q).quench = s.quench := rfl
@[simp] theorem State.setWin_mgmt (s : State) (h w : Nat) (q : Quad) : (s.setWin h w q).mgmt = s.mgmt := rfl
@[simp] theorem State.setWin_wins_extra (s : State) (h w : Nat) (q : Quad) : (s.setWin h w q).wins.extra = s.wins.extra := rfl
@[simp] theorem State.setWin_wins_allots (s : State) (h w : Nat) (q : Quad) : (s.setWin h w q).wins.allots = s.wins.allots := rfl
@[simp] theorem State.setWin_wins_held (s : State) (h w : Nat) (q : Quad) : (s.setWin h w q).wins.held = s.wins.held := rfl
@[simp] theorem State.setWin_wins_racks (s : State) (h w : Nat) (q : Quad) : (s.setWin h w q).wins.racks = s.wins.racks := rfl
@[simp] theorem State.setWin_wins_unack (s : State) (h w : Nat) (q : Quad) : (s.setWin h w q).wins.unack = s.wins.unack := rfl

@[simp] theorem State.setWinx_pending (s : State) (h w : Nat) (x : WinX) : (s.setWinx h w x).pending = s.pending := rfl
@[simp] theorem State.setWinx_flight (s : State) (h w : Nat) (x : WinX) : (s.setWinx h w x).flight = s.flight := rfl
@[simp] theorem State.setWinx_nextId (s : State) (h w : Nat) (x : WinX) : (s.setWinx h w x).nextId = s.nextId := rfl
@[simp] theorem State.setWinx_free (s : State) (h w : Nat) (x : WinX) : (s.setWinx h w x).free = s.free := rfl
@[simp] theorem State.setWinx_clk (s : State) (h w : Nat) (x : WinX) : (s.setWinx h w x).clk = s.clk := rfl
@[simp] theorem State.setWinx_sched (s : State) (h w : Nat) (x : WinX) : (s.setWinx h w x).sched = s.sched := rfl
@[simp] theorem State.setWinx_mem (s : State) (h w : Nat) (x : WinX) : (s.setWinx h w x).mem = s.mem := rfl
@[simp] theorem State.setWinx_hives (s : State) (h w : Nat) (x : WinX) : (s.setWinx h w x).hives = s.hives := rfl
@[simp] theorem State.setWinx_chans (s : State) (h w : Nat) (x : WinX) : (s.setWinx h w x).chans = s.chans := rfl
@[simp] theorem State.setWinx_chTurn (s : State) (h w : Nat) (x : WinX) : (s.setWinx h w x).chTurn = s.chTurn := rfl
@[simp] theorem State.setWinx_jobs (s : State) (h w : Nat) (x : WinX) : (s.setWinx h w x).jobs = s.jobs := rfl
@[simp] theorem State.setWinx_scarabs (s : State) (h w : Nat) (x : WinX) : (s.setWinx h w x).scarabs = s.scarabs := rfl
@[simp] theorem State.setWinx_submits (s : State) (h w : Nat) (x : WinX) : (s.setWinx h w x).submits = s.submits := rfl
@[simp] theorem State.setWinx_tiers (s : State) (h w : Nat) (x : WinX) : (s.setWinx h w x).tiers = s.tiers := rfl
@[simp] theorem State.setWinx_fxps (s : State) (h w : Nat) (x : WinX) : (s.setWinx h w x).fxps = s.fxps := rfl
@[simp] theorem State.setWinx_err (s : State) (h w : Nat) (x : WinX) : (s.setWinx h w x).err = s.err := rfl
@[simp] theorem State.setWinx_mirror (s : State) (h w : Nat) (x : WinX) : (s.setWinx h w x).mirror = s.mirror := rfl
@[simp] theorem State.setWinx_journal (s : State) (h w : Nat) (x : WinX) : (s.setWinx h w x).journal = s.journal := rfl
@[simp] theorem State.setWinx_power (s : State) (h w : Nat) (x : WinX) : (s.setWinx h w x).power = s.power := rfl
@[simp] theorem State.setWinx_trace (s : State) (h w : Nat) (x : WinX) : (s.setWinx h w x).trace = s.trace := rfl
@[simp] theorem State.setWinx_count (s : State) (h w : Nat) (x : WinX) : (s.setWinx h w x).count = s.count := rfl
@[simp] theorem State.setWinx_quench (s : State) (h w : Nat) (x : WinX) : (s.setWinx h w x).quench = s.quench := rfl
@[simp] theorem State.setWinx_mgmt (s : State) (h w : Nat) (x : WinX) : (s.setWinx h w x).mgmt = s.mgmt := rfl
@[simp] theorem State.setWinx_wins_table (s : State) (h w : Nat) (x : WinX) : (s.setWinx h w x).wins.table = s.wins.table := rfl
@[simp] theorem State.setWinx_wins_allots (s : State) (h w : Nat) (x : WinX) : (s.setWinx h w x).wins.allots = s.wins.allots := rfl
@[simp] theorem State.setWinx_wins_held (s : State) (h w : Nat) (x : WinX) : (s.setWinx h w x).wins.held = s.wins.held := rfl
@[simp] theorem State.setWinx_wins_racks (s : State) (h w : Nat) (x : WinX) : (s.setWinx h w x).wins.racks = s.wins.racks := rfl
@[simp] theorem State.setWinx_wins_unack (s : State) (h w : Nat) (x : WinX) : (s.setWinx h w x).wins.unack = s.wins.unack := rfl

@[simp] theorem State.setOwner_pending (s : State) (h b : Nat) (o : Owner) : (s.setOwner h b o).pending = s.pending := rfl
@[simp] theorem State.setOwner_flight (s : State) (h b : Nat) (o : Owner) : (s.setOwner h b o).flight = s.flight := rfl
@[simp] theorem State.setOwner_nextId (s : State) (h b : Nat) (o : Owner) : (s.setOwner h b o).nextId = s.nextId := rfl
@[simp] theorem State.setOwner_free (s : State) (h b : Nat) (o : Owner) : (s.setOwner h b o).free = s.free := rfl
@[simp] theorem State.setOwner_clk (s : State) (h b : Nat) (o : Owner) : (s.setOwner h b o).clk = s.clk := rfl
@[simp] theorem State.setOwner_sched (s : State) (h b : Nat) (o : Owner) : (s.setOwner h b o).sched = s.sched := rfl
@[simp] theorem State.setOwner_mem (s : State) (h b : Nat) (o : Owner) : (s.setOwner h b o).mem = s.mem := rfl
@[simp] theorem State.setOwner_wins (s : State) (h b : Nat) (o : Owner) : (s.setOwner h b o).wins = s.wins := rfl
@[simp] theorem State.setOwner_chans (s : State) (h b : Nat) (o : Owner) : (s.setOwner h b o).chans = s.chans := rfl
@[simp] theorem State.setOwner_chTurn (s : State) (h b : Nat) (o : Owner) : (s.setOwner h b o).chTurn = s.chTurn := rfl
@[simp] theorem State.setOwner_jobs (s : State) (h b : Nat) (o : Owner) : (s.setOwner h b o).jobs = s.jobs := rfl
@[simp] theorem State.setOwner_scarabs (s : State) (h b : Nat) (o : Owner) : (s.setOwner h b o).scarabs = s.scarabs := rfl
@[simp] theorem State.setOwner_submits (s : State) (h b : Nat) (o : Owner) : (s.setOwner h b o).submits = s.submits := rfl
@[simp] theorem State.setOwner_tiers (s : State) (h b : Nat) (o : Owner) : (s.setOwner h b o).tiers = s.tiers := rfl
@[simp] theorem State.setOwner_fxps (s : State) (h b : Nat) (o : Owner) : (s.setOwner h b o).fxps = s.fxps := rfl
@[simp] theorem State.setOwner_err (s : State) (h b : Nat) (o : Owner) : (s.setOwner h b o).err = s.err := rfl
@[simp] theorem State.setOwner_mirror (s : State) (h b : Nat) (o : Owner) : (s.setOwner h b o).mirror = s.mirror := rfl
@[simp] theorem State.setOwner_journal (s : State) (h b : Nat) (o : Owner) : (s.setOwner h b o).journal = s.journal := rfl
@[simp] theorem State.setOwner_power (s : State) (h b : Nat) (o : Owner) : (s.setOwner h b o).power = s.power := rfl
@[simp] theorem State.setOwner_trace (s : State) (h b : Nat) (o : Owner) : (s.setOwner h b o).trace = s.trace := rfl
@[simp] theorem State.setOwner_count (s : State) (h b : Nat) (o : Owner) : (s.setOwner h b o).count = s.count := rfl
@[simp] theorem State.setOwner_quench (s : State) (h b : Nat) (o : Owner) : (s.setOwner h b o).quench = s.quench := rfl
@[simp] theorem State.setOwner_mgmt (s : State) (h b : Nat) (o : Owner) : (s.setOwner h b o).mgmt = s.mgmt := rfl
@[simp] theorem State.setOwner_hives_clock (s : State) (h b : Nat) (o : Owner) : (s.setOwner h b o).hives.clock = s.hives.clock := rfl
@[simp] theorem State.setOwner_hives_active (s : State) (h b : Nat) (o : Owner) : (s.setOwner h b o).hives.active = s.hives.active := rfl
@[simp] theorem State.setOwner_hives_gatePend (s : State) (h b : Nat) (o : Owner) : (s.setOwner h b o).hives.gatePend = s.hives.gatePend := rfl
@[simp] theorem State.setOwner_hives_dom (s : State) (h b : Nat) (o : Owner) : (s.setOwner h b o).hives.dom = s.hives.dom := rfl
@[simp] theorem State.setOwner_hives_pwrPend (s : State) (h b : Nat) (o : Owner) : (s.setOwner h b o).hives.pwrPend = s.hives.pwrPend := rfl
@[simp] theorem State.setOwner_hives_pwrRes (s : State) (h b : Nat) (o : Owner) : (s.setOwner h b o).hives.pwrRes = s.hives.pwrRes := rfl
@[simp] theorem State.setOwner_hives_sb (s : State) (h b : Nat) (o : Owner) : (s.setOwner h b o).hives.sb = s.hives.sb := rfl
@[simp] theorem State.setOwner_hives_ways (s : State) (h b : Nat) (o : Owner) : (s.setOwner h b o).hives.ways = s.hives.ways := rfl
@[simp] theorem State.setOwner_hives_plru (s : State) (h b : Nat) (o : Owner) : (s.setOwner h b o).hives.plru = s.hives.plru := rfl
@[simp] theorem State.setOwner_hives_flcCmds (s : State) (h b : Nat) (o : Owner) : (s.setOwner h b o).hives.flcCmds = s.hives.flcCmds := rfl
@[simp] theorem State.setOwner_hives_handles (s : State) (h b : Nat) (o : Owner) : (s.setOwner h b o).hives.handles = s.hives.handles := rfl
@[simp] theorem State.setOwner_hives_drains (s : State) (h b : Nat) (o : Owner) : (s.setOwner h b o).hives.drains = s.hives.drains := rfl
@[simp] theorem State.setOwner_hives_moves (s : State) (h b : Nat) (o : Owner) : (s.setOwner h b o).hives.moves = s.hives.moves := rfl
@[simp] theorem State.setOwner_hives_ctxJobs (s : State) (h b : Nat) (o : Owner) : (s.setOwner h b o).hives.ctxJobs = s.hives.ctxJobs := rfl
@[simp] theorem State.setOwner_hives_rings (s : State) (h b : Nat) (o : Owner) : (s.setOwner h b o).hives.rings = s.hives.rings := rfl
@[simp] theorem State.setOwner_hives_closing (s : State) (h b : Nat) (o : Owner) : (s.setOwner h b o).hives.closing = s.hives.closing := rfl
@[simp] theorem State.setOwner_hives_waits (s : State) (h b : Nat) (o : Owner) : (s.setOwner h b o).hives.waits = s.hives.waits := rfl
@[simp] theorem State.setOwner_hives_armNo (s : State) (h b : Nat) (o : Owner) : (s.setOwner h b o).hives.armNo = s.hives.armNo := rfl
@[simp] theorem State.setOwner_hives_passes (s : State) (h b : Nat) (o : Owner) : (s.setOwner h b o).hives.passes = s.hives.passes := rfl
@[simp] theorem State.setOwner_hives_barriers (s : State) (h b : Nat) (o : Owner) : (s.setOwner h b o).hives.barriers = s.hives.barriers := rfl
@[simp] theorem State.setOwner_hives_sent (s : State) (h b : Nat) (o : Owner) : (s.setOwner h b o).hives.sent = s.hives.sent := rfl
@[simp] theorem State.setOwner_hives_fences (s : State) (h b : Nat) (o : Owner) : (s.setOwner h b o).hives.fences = s.hives.fences := rfl
@[simp] theorem State.setOwner_hives_events (s : State) (h b : Nat) (o : Owner) : (s.setOwner h b o).hives.events = s.hives.events := rfl
@[simp] theorem State.setOwner_hives_faultReg (s : State) (h b : Nat) (o : Owner) : (s.setOwner h b o).hives.faultReg = s.hives.faultReg := rfl
@[simp] theorem State.setOwner_hives_pages (s : State) (h b : Nat) (o : Owner) : (s.setOwner h b o).hives.pages = s.hives.pages := rfl
@[simp] theorem State.setOwner_hives_edge (s : State) (h b : Nat) (o : Owner) : (s.setOwner h b o).hives.edge = s.hives.edge := rfl
@[simp] theorem State.setOwner_hives_lastRes (s : State) (h b : Nat) (o : Owner) : (s.setOwner h b o).hives.lastRes = s.hives.lastRes := rfl
@[simp] theorem State.setOwner_hives_busy (s : State) (h b : Nat) (o : Owner) : (s.setOwner h b o).hives.busy = s.hives.busy := rfl
@[simp] theorem State.setOwner_hives_outs (s : State) (h b : Nat) (o : Owner) : (s.setOwner h b o).hives.outs = s.hives.outs := rfl
@[simp] theorem State.setOwner_hives_cmdq (s : State) (h b : Nat) (o : Owner) : (s.setOwner h b o).hives.cmdq = s.hives.cmdq := rfl
@[simp] theorem State.setOwner_hives_cmdTurn (s : State) (h b : Nat) (o : Owner) : (s.setOwner h b o).hives.cmdTurn = s.hives.cmdTurn := rfl
@[simp] theorem State.setOwner_hives_ported (s : State) (h b : Nat) (o : Owner) : (s.setOwner h b o).hives.ported = s.hives.ported := rfl
@[simp] theorem State.setOwner_hives_sbGone (s : State) (h b : Nat) (o : Owner) : (s.setOwner h b o).hives.sbGone = s.hives.sbGone := rfl
@[simp] theorem State.setOwner_hives_granted (s : State) (h b : Nat) (o : Owner) : (s.setOwner h b o).hives.granted = s.hives.granted := rfl

@[simp] theorem State.setClock_pending (s : State) (h : Nat) (c : HClock) : (s.setClock h c).pending = s.pending := rfl
@[simp] theorem State.setClock_flight (s : State) (h : Nat) (c : HClock) : (s.setClock h c).flight = s.flight := rfl
@[simp] theorem State.setClock_nextId (s : State) (h : Nat) (c : HClock) : (s.setClock h c).nextId = s.nextId := rfl
@[simp] theorem State.setClock_free (s : State) (h : Nat) (c : HClock) : (s.setClock h c).free = s.free := rfl
@[simp] theorem State.setClock_clk (s : State) (h : Nat) (c : HClock) : (s.setClock h c).clk = s.clk := rfl
@[simp] theorem State.setClock_sched (s : State) (h : Nat) (c : HClock) : (s.setClock h c).sched = s.sched := rfl
@[simp] theorem State.setClock_mem (s : State) (h : Nat) (c : HClock) : (s.setClock h c).mem = s.mem := rfl
@[simp] theorem State.setClock_wins (s : State) (h : Nat) (c : HClock) : (s.setClock h c).wins = s.wins := rfl
@[simp] theorem State.setClock_chans (s : State) (h : Nat) (c : HClock) : (s.setClock h c).chans = s.chans := rfl
@[simp] theorem State.setClock_chTurn (s : State) (h : Nat) (c : HClock) : (s.setClock h c).chTurn = s.chTurn := rfl
@[simp] theorem State.setClock_jobs (s : State) (h : Nat) (c : HClock) : (s.setClock h c).jobs = s.jobs := rfl
@[simp] theorem State.setClock_scarabs (s : State) (h : Nat) (c : HClock) : (s.setClock h c).scarabs = s.scarabs := rfl
@[simp] theorem State.setClock_submits (s : State) (h : Nat) (c : HClock) : (s.setClock h c).submits = s.submits := rfl
@[simp] theorem State.setClock_tiers (s : State) (h : Nat) (c : HClock) : (s.setClock h c).tiers = s.tiers := rfl
@[simp] theorem State.setClock_fxps (s : State) (h : Nat) (c : HClock) : (s.setClock h c).fxps = s.fxps := rfl
@[simp] theorem State.setClock_err (s : State) (h : Nat) (c : HClock) : (s.setClock h c).err = s.err := rfl
@[simp] theorem State.setClock_mirror (s : State) (h : Nat) (c : HClock) : (s.setClock h c).mirror = s.mirror := rfl
@[simp] theorem State.setClock_journal (s : State) (h : Nat) (c : HClock) : (s.setClock h c).journal = s.journal := rfl
@[simp] theorem State.setClock_power (s : State) (h : Nat) (c : HClock) : (s.setClock h c).power = s.power := rfl
@[simp] theorem State.setClock_trace (s : State) (h : Nat) (c : HClock) : (s.setClock h c).trace = s.trace := rfl
@[simp] theorem State.setClock_count (s : State) (h : Nat) (c : HClock) : (s.setClock h c).count = s.count := rfl
@[simp] theorem State.setClock_quench (s : State) (h : Nat) (c : HClock) : (s.setClock h c).quench = s.quench := rfl
@[simp] theorem State.setClock_mgmt (s : State) (h : Nat) (c : HClock) : (s.setClock h c).mgmt = s.mgmt := rfl
@[simp] theorem State.setClock_hives_active (s : State) (h : Nat) (c : HClock) : (s.setClock h c).hives.active = s.hives.active := rfl
@[simp] theorem State.setClock_hives_gatePend (s : State) (h : Nat) (c : HClock) : (s.setClock h c).hives.gatePend = s.hives.gatePend := rfl
@[simp] theorem State.setClock_hives_dom (s : State) (h : Nat) (c : HClock) : (s.setClock h c).hives.dom = s.hives.dom := rfl
@[simp] theorem State.setClock_hives_pwrPend (s : State) (h : Nat) (c : HClock) : (s.setClock h c).hives.pwrPend = s.hives.pwrPend := rfl
@[simp] theorem State.setClock_hives_pwrRes (s : State) (h : Nat) (c : HClock) : (s.setClock h c).hives.pwrRes = s.hives.pwrRes := rfl
@[simp] theorem State.setClock_hives_owner (s : State) (h : Nat) (c : HClock) : (s.setClock h c).hives.owner = s.hives.owner := rfl
@[simp] theorem State.setClock_hives_sb (s : State) (h : Nat) (c : HClock) : (s.setClock h c).hives.sb = s.hives.sb := rfl
@[simp] theorem State.setClock_hives_ways (s : State) (h : Nat) (c : HClock) : (s.setClock h c).hives.ways = s.hives.ways := rfl
@[simp] theorem State.setClock_hives_plru (s : State) (h : Nat) (c : HClock) : (s.setClock h c).hives.plru = s.hives.plru := rfl
@[simp] theorem State.setClock_hives_flcCmds (s : State) (h : Nat) (c : HClock) : (s.setClock h c).hives.flcCmds = s.hives.flcCmds := rfl
@[simp] theorem State.setClock_hives_handles (s : State) (h : Nat) (c : HClock) : (s.setClock h c).hives.handles = s.hives.handles := rfl
@[simp] theorem State.setClock_hives_drains (s : State) (h : Nat) (c : HClock) : (s.setClock h c).hives.drains = s.hives.drains := rfl
@[simp] theorem State.setClock_hives_moves (s : State) (h : Nat) (c : HClock) : (s.setClock h c).hives.moves = s.hives.moves := rfl
@[simp] theorem State.setClock_hives_ctxJobs (s : State) (h : Nat) (c : HClock) : (s.setClock h c).hives.ctxJobs = s.hives.ctxJobs := rfl
@[simp] theorem State.setClock_hives_rings (s : State) (h : Nat) (c : HClock) : (s.setClock h c).hives.rings = s.hives.rings := rfl
@[simp] theorem State.setClock_hives_closing (s : State) (h : Nat) (c : HClock) : (s.setClock h c).hives.closing = s.hives.closing := rfl
@[simp] theorem State.setClock_hives_waits (s : State) (h : Nat) (c : HClock) : (s.setClock h c).hives.waits = s.hives.waits := rfl
@[simp] theorem State.setClock_hives_armNo (s : State) (h : Nat) (c : HClock) : (s.setClock h c).hives.armNo = s.hives.armNo := rfl
@[simp] theorem State.setClock_hives_passes (s : State) (h : Nat) (c : HClock) : (s.setClock h c).hives.passes = s.hives.passes := rfl
@[simp] theorem State.setClock_hives_barriers (s : State) (h : Nat) (c : HClock) : (s.setClock h c).hives.barriers = s.hives.barriers := rfl
@[simp] theorem State.setClock_hives_sent (s : State) (h : Nat) (c : HClock) : (s.setClock h c).hives.sent = s.hives.sent := rfl
@[simp] theorem State.setClock_hives_fences (s : State) (h : Nat) (c : HClock) : (s.setClock h c).hives.fences = s.hives.fences := rfl
@[simp] theorem State.setClock_hives_events (s : State) (h : Nat) (c : HClock) : (s.setClock h c).hives.events = s.hives.events := rfl
@[simp] theorem State.setClock_hives_faultReg (s : State) (h : Nat) (c : HClock) : (s.setClock h c).hives.faultReg = s.hives.faultReg := rfl
@[simp] theorem State.setClock_hives_pages (s : State) (h : Nat) (c : HClock) : (s.setClock h c).hives.pages = s.hives.pages := rfl
@[simp] theorem State.setClock_hives_edge (s : State) (h : Nat) (c : HClock) : (s.setClock h c).hives.edge = s.hives.edge := rfl
@[simp] theorem State.setClock_hives_lastRes (s : State) (h : Nat) (c : HClock) : (s.setClock h c).hives.lastRes = s.hives.lastRes := rfl
@[simp] theorem State.setClock_hives_busy (s : State) (h : Nat) (c : HClock) : (s.setClock h c).hives.busy = s.hives.busy := rfl
@[simp] theorem State.setClock_hives_outs (s : State) (h : Nat) (c : HClock) : (s.setClock h c).hives.outs = s.hives.outs := rfl
@[simp] theorem State.setClock_hives_cmdq (s : State) (h : Nat) (c : HClock) : (s.setClock h c).hives.cmdq = s.hives.cmdq := rfl
@[simp] theorem State.setClock_hives_cmdTurn (s : State) (h : Nat) (c : HClock) : (s.setClock h c).hives.cmdTurn = s.hives.cmdTurn := rfl
@[simp] theorem State.setClock_hives_ported (s : State) (h : Nat) (c : HClock) : (s.setClock h c).hives.ported = s.hives.ported := rfl
@[simp] theorem State.setClock_hives_sbGone (s : State) (h : Nat) (c : HClock) : (s.setClock h c).hives.sbGone = s.hives.sbGone := rfl
@[simp] theorem State.setClock_hives_granted (s : State) (h : Nat) (c : HClock) : (s.setClock h c).hives.granted = s.hives.granted := rfl

@[simp] theorem State.setHandle_pending (s : State) (k : Nat) (q : Quad) : (s.setHandle k q).pending = s.pending := rfl
@[simp] theorem State.setHandle_flight (s : State) (k : Nat) (q : Quad) : (s.setHandle k q).flight = s.flight := rfl
@[simp] theorem State.setHandle_nextId (s : State) (k : Nat) (q : Quad) : (s.setHandle k q).nextId = s.nextId := rfl
@[simp] theorem State.setHandle_free (s : State) (k : Nat) (q : Quad) : (s.setHandle k q).free = s.free := rfl
@[simp] theorem State.setHandle_clk (s : State) (k : Nat) (q : Quad) : (s.setHandle k q).clk = s.clk := rfl
@[simp] theorem State.setHandle_sched (s : State) (k : Nat) (q : Quad) : (s.setHandle k q).sched = s.sched := rfl
@[simp] theorem State.setHandle_mem (s : State) (k : Nat) (q : Quad) : (s.setHandle k q).mem = s.mem := rfl
@[simp] theorem State.setHandle_wins (s : State) (k : Nat) (q : Quad) : (s.setHandle k q).wins = s.wins := rfl
@[simp] theorem State.setHandle_chans (s : State) (k : Nat) (q : Quad) : (s.setHandle k q).chans = s.chans := rfl
@[simp] theorem State.setHandle_chTurn (s : State) (k : Nat) (q : Quad) : (s.setHandle k q).chTurn = s.chTurn := rfl
@[simp] theorem State.setHandle_jobs (s : State) (k : Nat) (q : Quad) : (s.setHandle k q).jobs = s.jobs := rfl
@[simp] theorem State.setHandle_scarabs (s : State) (k : Nat) (q : Quad) : (s.setHandle k q).scarabs = s.scarabs := rfl
@[simp] theorem State.setHandle_submits (s : State) (k : Nat) (q : Quad) : (s.setHandle k q).submits = s.submits := rfl
@[simp] theorem State.setHandle_tiers (s : State) (k : Nat) (q : Quad) : (s.setHandle k q).tiers = s.tiers := rfl
@[simp] theorem State.setHandle_fxps (s : State) (k : Nat) (q : Quad) : (s.setHandle k q).fxps = s.fxps := rfl
@[simp] theorem State.setHandle_err (s : State) (k : Nat) (q : Quad) : (s.setHandle k q).err = s.err := rfl
@[simp] theorem State.setHandle_mirror (s : State) (k : Nat) (q : Quad) : (s.setHandle k q).mirror = s.mirror := rfl
@[simp] theorem State.setHandle_journal (s : State) (k : Nat) (q : Quad) : (s.setHandle k q).journal = s.journal := rfl
@[simp] theorem State.setHandle_power (s : State) (k : Nat) (q : Quad) : (s.setHandle k q).power = s.power := rfl
@[simp] theorem State.setHandle_trace (s : State) (k : Nat) (q : Quad) : (s.setHandle k q).trace = s.trace := rfl
@[simp] theorem State.setHandle_count (s : State) (k : Nat) (q : Quad) : (s.setHandle k q).count = s.count := rfl
@[simp] theorem State.setHandle_quench (s : State) (k : Nat) (q : Quad) : (s.setHandle k q).quench = s.quench := rfl
@[simp] theorem State.setHandle_mgmt (s : State) (k : Nat) (q : Quad) : (s.setHandle k q).mgmt = s.mgmt := rfl
@[simp] theorem State.setHandle_hives_clock (s : State) (k : Nat) (q : Quad) : (s.setHandle k q).hives.clock = s.hives.clock := rfl
@[simp] theorem State.setHandle_hives_active (s : State) (k : Nat) (q : Quad) : (s.setHandle k q).hives.active = s.hives.active := rfl
@[simp] theorem State.setHandle_hives_gatePend (s : State) (k : Nat) (q : Quad) : (s.setHandle k q).hives.gatePend = s.hives.gatePend := rfl
@[simp] theorem State.setHandle_hives_dom (s : State) (k : Nat) (q : Quad) : (s.setHandle k q).hives.dom = s.hives.dom := rfl
@[simp] theorem State.setHandle_hives_pwrPend (s : State) (k : Nat) (q : Quad) : (s.setHandle k q).hives.pwrPend = s.hives.pwrPend := rfl
@[simp] theorem State.setHandle_hives_pwrRes (s : State) (k : Nat) (q : Quad) : (s.setHandle k q).hives.pwrRes = s.hives.pwrRes := rfl
@[simp] theorem State.setHandle_hives_owner (s : State) (k : Nat) (q : Quad) : (s.setHandle k q).hives.owner = s.hives.owner := rfl
@[simp] theorem State.setHandle_hives_sb (s : State) (k : Nat) (q : Quad) : (s.setHandle k q).hives.sb = s.hives.sb := rfl
@[simp] theorem State.setHandle_hives_ways (s : State) (k : Nat) (q : Quad) : (s.setHandle k q).hives.ways = s.hives.ways := rfl
@[simp] theorem State.setHandle_hives_plru (s : State) (k : Nat) (q : Quad) : (s.setHandle k q).hives.plru = s.hives.plru := rfl
@[simp] theorem State.setHandle_hives_flcCmds (s : State) (k : Nat) (q : Quad) : (s.setHandle k q).hives.flcCmds = s.hives.flcCmds := rfl
@[simp] theorem State.setHandle_hives_drains (s : State) (k : Nat) (q : Quad) : (s.setHandle k q).hives.drains = s.hives.drains := rfl
@[simp] theorem State.setHandle_hives_moves (s : State) (k : Nat) (q : Quad) : (s.setHandle k q).hives.moves = s.hives.moves := rfl
@[simp] theorem State.setHandle_hives_ctxJobs (s : State) (k : Nat) (q : Quad) : (s.setHandle k q).hives.ctxJobs = s.hives.ctxJobs := rfl
@[simp] theorem State.setHandle_hives_rings (s : State) (k : Nat) (q : Quad) : (s.setHandle k q).hives.rings = s.hives.rings := rfl
@[simp] theorem State.setHandle_hives_closing (s : State) (k : Nat) (q : Quad) : (s.setHandle k q).hives.closing = s.hives.closing := rfl
@[simp] theorem State.setHandle_hives_waits (s : State) (k : Nat) (q : Quad) : (s.setHandle k q).hives.waits = s.hives.waits := rfl
@[simp] theorem State.setHandle_hives_armNo (s : State) (k : Nat) (q : Quad) : (s.setHandle k q).hives.armNo = s.hives.armNo := rfl
@[simp] theorem State.setHandle_hives_passes (s : State) (k : Nat) (q : Quad) : (s.setHandle k q).hives.passes = s.hives.passes := rfl
@[simp] theorem State.setHandle_hives_barriers (s : State) (k : Nat) (q : Quad) : (s.setHandle k q).hives.barriers = s.hives.barriers := rfl
@[simp] theorem State.setHandle_hives_sent (s : State) (k : Nat) (q : Quad) : (s.setHandle k q).hives.sent = s.hives.sent := rfl
@[simp] theorem State.setHandle_hives_fences (s : State) (k : Nat) (q : Quad) : (s.setHandle k q).hives.fences = s.hives.fences := rfl
@[simp] theorem State.setHandle_hives_events (s : State) (k : Nat) (q : Quad) : (s.setHandle k q).hives.events = s.hives.events := rfl
@[simp] theorem State.setHandle_hives_faultReg (s : State) (k : Nat) (q : Quad) : (s.setHandle k q).hives.faultReg = s.hives.faultReg := rfl
@[simp] theorem State.setHandle_hives_pages (s : State) (k : Nat) (q : Quad) : (s.setHandle k q).hives.pages = s.hives.pages := rfl
@[simp] theorem State.setHandle_hives_edge (s : State) (k : Nat) (q : Quad) : (s.setHandle k q).hives.edge = s.hives.edge := rfl
@[simp] theorem State.setHandle_hives_lastRes (s : State) (k : Nat) (q : Quad) : (s.setHandle k q).hives.lastRes = s.hives.lastRes := rfl
@[simp] theorem State.setHandle_hives_busy (s : State) (k : Nat) (q : Quad) : (s.setHandle k q).hives.busy = s.hives.busy := rfl
@[simp] theorem State.setHandle_hives_outs (s : State) (k : Nat) (q : Quad) : (s.setHandle k q).hives.outs = s.hives.outs := rfl
@[simp] theorem State.setHandle_hives_cmdq (s : State) (k : Nat) (q : Quad) : (s.setHandle k q).hives.cmdq = s.hives.cmdq := rfl
@[simp] theorem State.setHandle_hives_cmdTurn (s : State) (k : Nat) (q : Quad) : (s.setHandle k q).hives.cmdTurn = s.hives.cmdTurn := rfl
@[simp] theorem State.setHandle_hives_ported (s : State) (k : Nat) (q : Quad) : (s.setHandle k q).hives.ported = s.hives.ported := rfl
@[simp] theorem State.setHandle_hives_sbGone (s : State) (k : Nat) (q : Quad) : (s.setHandle k q).hives.sbGone = s.hives.sbGone := rfl
@[simp] theorem State.setHandle_hives_granted (s : State) (k : Nat) (q : Quad) : (s.setHandle k q).hives.granted = s.hives.granted := rfl

@[simp] theorem State.setX_pending (s : State) (x : Xact) : (s.setX x).pending = s.pending := rfl
@[simp] theorem State.setX_nextId (s : State) (x : Xact) : (s.setX x).nextId = s.nextId := rfl
@[simp] theorem State.setX_free (s : State) (x : Xact) : (s.setX x).free = s.free := rfl
@[simp] theorem State.setX_clk (s : State) (x : Xact) : (s.setX x).clk = s.clk := rfl
@[simp] theorem State.setX_sched (s : State) (x : Xact) : (s.setX x).sched = s.sched := rfl
@[simp] theorem State.setX_mem (s : State) (x : Xact) : (s.setX x).mem = s.mem := rfl
@[simp] theorem State.setX_hives (s : State) (x : Xact) : (s.setX x).hives = s.hives := rfl
@[simp] theorem State.setX_wins (s : State) (x : Xact) : (s.setX x).wins = s.wins := rfl
@[simp] theorem State.setX_chans (s : State) (x : Xact) : (s.setX x).chans = s.chans := rfl
@[simp] theorem State.setX_chTurn (s : State) (x : Xact) : (s.setX x).chTurn = s.chTurn := rfl
@[simp] theorem State.setX_jobs (s : State) (x : Xact) : (s.setX x).jobs = s.jobs := rfl
@[simp] theorem State.setX_scarabs (s : State) (x : Xact) : (s.setX x).scarabs = s.scarabs := rfl
@[simp] theorem State.setX_submits (s : State) (x : Xact) : (s.setX x).submits = s.submits := rfl
@[simp] theorem State.setX_tiers (s : State) (x : Xact) : (s.setX x).tiers = s.tiers := rfl
@[simp] theorem State.setX_fxps (s : State) (x : Xact) : (s.setX x).fxps = s.fxps := rfl
@[simp] theorem State.setX_err (s : State) (x : Xact) : (s.setX x).err = s.err := rfl
@[simp] theorem State.setX_mirror (s : State) (x : Xact) : (s.setX x).mirror = s.mirror := rfl
@[simp] theorem State.setX_journal (s : State) (x : Xact) : (s.setX x).journal = s.journal := rfl
@[simp] theorem State.setX_power (s : State) (x : Xact) : (s.setX x).power = s.power := rfl
@[simp] theorem State.setX_trace (s : State) (x : Xact) : (s.setX x).trace = s.trace := rfl
@[simp] theorem State.setX_count (s : State) (x : Xact) : (s.setX x).count = s.count := rfl
@[simp] theorem State.setX_quench (s : State) (x : Xact) : (s.setX x).quench = s.quench := rfl
@[simp] theorem State.setX_mgmt (s : State) (x : Xact) : (s.setX x).mgmt = s.mgmt := rfl

@[simp] theorem State.dropX_pending (s : State) (n : Nat) : (s.dropX n).pending = s.pending := rfl
@[simp] theorem State.dropX_nextId (s : State) (n : Nat) : (s.dropX n).nextId = s.nextId := rfl
@[simp] theorem State.dropX_free (s : State) (n : Nat) : (s.dropX n).free = s.free := rfl
@[simp] theorem State.dropX_clk (s : State) (n : Nat) : (s.dropX n).clk = s.clk := rfl
@[simp] theorem State.dropX_sched (s : State) (n : Nat) : (s.dropX n).sched = s.sched := rfl
@[simp] theorem State.dropX_mem (s : State) (n : Nat) : (s.dropX n).mem = s.mem := rfl
@[simp] theorem State.dropX_hives (s : State) (n : Nat) : (s.dropX n).hives = s.hives := rfl
@[simp] theorem State.dropX_wins (s : State) (n : Nat) : (s.dropX n).wins = s.wins := rfl
@[simp] theorem State.dropX_chans (s : State) (n : Nat) : (s.dropX n).chans = s.chans := rfl
@[simp] theorem State.dropX_chTurn (s : State) (n : Nat) : (s.dropX n).chTurn = s.chTurn := rfl
@[simp] theorem State.dropX_jobs (s : State) (n : Nat) : (s.dropX n).jobs = s.jobs := rfl
@[simp] theorem State.dropX_scarabs (s : State) (n : Nat) : (s.dropX n).scarabs = s.scarabs := rfl
@[simp] theorem State.dropX_submits (s : State) (n : Nat) : (s.dropX n).submits = s.submits := rfl
@[simp] theorem State.dropX_tiers (s : State) (n : Nat) : (s.dropX n).tiers = s.tiers := rfl
@[simp] theorem State.dropX_fxps (s : State) (n : Nat) : (s.dropX n).fxps = s.fxps := rfl
@[simp] theorem State.dropX_err (s : State) (n : Nat) : (s.dropX n).err = s.err := rfl
@[simp] theorem State.dropX_mirror (s : State) (n : Nat) : (s.dropX n).mirror = s.mirror := rfl
@[simp] theorem State.dropX_journal (s : State) (n : Nat) : (s.dropX n).journal = s.journal := rfl
@[simp] theorem State.dropX_power (s : State) (n : Nat) : (s.dropX n).power = s.power := rfl
@[simp] theorem State.dropX_trace (s : State) (n : Nat) : (s.dropX n).trace = s.trace := rfl
@[simp] theorem State.dropX_count (s : State) (n : Nat) : (s.dropX n).count = s.count := rfl
@[simp] theorem State.dropX_quench (s : State) (n : Nat) : (s.dropX n).quench = s.quench := rfl
@[simp] theorem State.dropX_mgmt (s : State) (n : Nat) : (s.dropX n).mgmt = s.mgmt := rfl

@[simp] theorem State.setRow_pending (s : State) (k : Nat) (r : Row) : (s.setRow k r).pending = s.pending := rfl
@[simp] theorem State.setRow_flight (s : State) (k : Nat) (r : Row) : (s.setRow k r).flight = s.flight := rfl
@[simp] theorem State.setRow_nextId (s : State) (k : Nat) (r : Row) : (s.setRow k r).nextId = s.nextId := rfl
@[simp] theorem State.setRow_free (s : State) (k : Nat) (r : Row) : (s.setRow k r).free = s.free := rfl
@[simp] theorem State.setRow_clk (s : State) (k : Nat) (r : Row) : (s.setRow k r).clk = s.clk := rfl
@[simp] theorem State.setRow_sched (s : State) (k : Nat) (r : Row) : (s.setRow k r).sched = s.sched := rfl
@[simp] theorem State.setRow_hives (s : State) (k : Nat) (r : Row) : (s.setRow k r).hives = s.hives := rfl
@[simp] theorem State.setRow_wins (s : State) (k : Nat) (r : Row) : (s.setRow k r).wins = s.wins := rfl
@[simp] theorem State.setRow_chans (s : State) (k : Nat) (r : Row) : (s.setRow k r).chans = s.chans := rfl
@[simp] theorem State.setRow_chTurn (s : State) (k : Nat) (r : Row) : (s.setRow k r).chTurn = s.chTurn := rfl
@[simp] theorem State.setRow_jobs (s : State) (k : Nat) (r : Row) : (s.setRow k r).jobs = s.jobs := rfl
@[simp] theorem State.setRow_scarabs (s : State) (k : Nat) (r : Row) : (s.setRow k r).scarabs = s.scarabs := rfl
@[simp] theorem State.setRow_submits (s : State) (k : Nat) (r : Row) : (s.setRow k r).submits = s.submits := rfl
@[simp] theorem State.setRow_tiers (s : State) (k : Nat) (r : Row) : (s.setRow k r).tiers = s.tiers := rfl
@[simp] theorem State.setRow_fxps (s : State) (k : Nat) (r : Row) : (s.setRow k r).fxps = s.fxps := rfl
@[simp] theorem State.setRow_err (s : State) (k : Nat) (r : Row) : (s.setRow k r).err = s.err := rfl
@[simp] theorem State.setRow_mirror (s : State) (k : Nat) (r : Row) : (s.setRow k r).mirror = s.mirror := rfl
@[simp] theorem State.setRow_journal (s : State) (k : Nat) (r : Row) : (s.setRow k r).journal = s.journal := rfl
@[simp] theorem State.setRow_power (s : State) (k : Nat) (r : Row) : (s.setRow k r).power = s.power := rfl
@[simp] theorem State.setRow_trace (s : State) (k : Nat) (r : Row) : (s.setRow k r).trace = s.trace := rfl
@[simp] theorem State.setRow_count (s : State) (k : Nat) (r : Row) : (s.setRow k r).count = s.count := rfl
@[simp] theorem State.setRow_quench (s : State) (k : Nat) (r : Row) : (s.setRow k r).quench = s.quench := rfl
@[simp] theorem State.setRow_mgmt (s : State) (k : Nat) (r : Row) : (s.setRow k r).mgmt = s.mgmt := rfl

@[simp] theorem State.setPv_pending (s : State) (p i v : Nat) : (s.setPv p i v).pending = s.pending := rfl
@[simp] theorem State.setPv_flight (s : State) (p i v : Nat) : (s.setPv p i v).flight = s.flight := rfl
@[simp] theorem State.setPv_nextId (s : State) (p i v : Nat) : (s.setPv p i v).nextId = s.nextId := rfl
@[simp] theorem State.setPv_free (s : State) (p i v : Nat) : (s.setPv p i v).free = s.free := rfl
@[simp] theorem State.setPv_clk (s : State) (p i v : Nat) : (s.setPv p i v).clk = s.clk := rfl
@[simp] theorem State.setPv_sched (s : State) (p i v : Nat) : (s.setPv p i v).sched = s.sched := rfl
@[simp] theorem State.setPv_mem (s : State) (p i v : Nat) : (s.setPv p i v).mem = s.mem := rfl
@[simp] theorem State.setPv_hives (s : State) (p i v : Nat) : (s.setPv p i v).hives = s.hives := rfl
@[simp] theorem State.setPv_wins (s : State) (p i v : Nat) : (s.setPv p i v).wins = s.wins := rfl
@[simp] theorem State.setPv_chans (s : State) (p i v : Nat) : (s.setPv p i v).chans = s.chans := rfl
@[simp] theorem State.setPv_chTurn (s : State) (p i v : Nat) : (s.setPv p i v).chTurn = s.chTurn := rfl
@[simp] theorem State.setPv_jobs (s : State) (p i v : Nat) : (s.setPv p i v).jobs = s.jobs := rfl
@[simp] theorem State.setPv_scarabs (s : State) (p i v : Nat) : (s.setPv p i v).scarabs = s.scarabs := rfl
@[simp] theorem State.setPv_submits (s : State) (p i v : Nat) : (s.setPv p i v).submits = s.submits := rfl
@[simp] theorem State.setPv_tiers (s : State) (p i v : Nat) : (s.setPv p i v).tiers = s.tiers := rfl
@[simp] theorem State.setPv_fxps (s : State) (p i v : Nat) : (s.setPv p i v).fxps = s.fxps := rfl
@[simp] theorem State.setPv_err (s : State) (p i v : Nat) : (s.setPv p i v).err = s.err := rfl
@[simp] theorem State.setPv_mirror (s : State) (p i v : Nat) : (s.setPv p i v).mirror = s.mirror := rfl
@[simp] theorem State.setPv_journal (s : State) (p i v : Nat) : (s.setPv p i v).journal = s.journal := rfl
@[simp] theorem State.setPv_power (s : State) (p i v : Nat) : (s.setPv p i v).power = s.power := rfl
@[simp] theorem State.setPv_trace (s : State) (p i v : Nat) : (s.setPv p i v).trace = s.trace := rfl
@[simp] theorem State.setPv_count (s : State) (p i v : Nat) : (s.setPv p i v).count = s.count := rfl
@[simp] theorem State.setPv_quench (s : State) (p i v : Nat) : (s.setPv p i v).quench = s.quench := rfl
@[simp] theorem State.setPv_mgmt_active (s : State) (p i v : Nat) : (s.setPv p i v).mgmt.active = s.mgmt.active := rfl
@[simp] theorem State.setPv_mgmt_shadow (s : State) (p i v : Nat) : (s.setPv p i v).mgmt.shadow = s.mgmt.shadow := rfl
@[simp] theorem State.setPv_mgmt_blob (s : State) (p i v : Nat) : (s.setPv p i v).mgmt.blob = s.mgmt.blob := rfl
@[simp] theorem State.setPv_mgmt_reqs (s : State) (p i v : Nat) : (s.setPv p i v).mgmt.reqs = s.mgmt.reqs := rfl
@[simp] theorem State.setPv_mgmt_reqNo (s : State) (p i v : Nat) : (s.setPv p i v).mgmt.reqNo = s.mgmt.reqNo := rfl
@[simp] theorem State.setPv_mgmt_out (s : State) (p i v : Nat) : (s.setPv p i v).mgmt.out = s.mgmt.out := rfl
@[simp] theorem State.setPv_mgmt_slots (s : State) (p i v : Nat) : (s.setPv p i v).mgmt.slots = s.mgmt.slots := rfl
@[simp] theorem State.setPv_mgmt_subs (s : State) (p i v : Nat) : (s.setPv p i v).mgmt.subs = s.mgmt.subs := rfl
@[simp] theorem State.setPv_mgmt_life (s : State) (p i v : Nat) : (s.setPv p i v).mgmt.life = s.mgmt.life := rfl
@[simp] theorem State.setPv_mgmt_seen (s : State) (p i v : Nat) : (s.setPv p i v).mgmt.seen = s.mgmt.seen := rfl
@[simp] theorem State.setPv_mgmt_auth (s : State) (p i v : Nat) : (s.setPv p i v).mgmt.auth = s.mgmt.auth := rfl
@[simp] theorem State.setPv_mgmt_changes (s : State) (p i v : Nat) : (s.setPv p i v).mgmt.changes = s.mgmt.changes := rfl
@[simp] theorem State.setPv_mgmt_wipe (s : State) (p i v : Nat) : (s.setPv p i v).mgmt.wipe = s.mgmt.wipe := rfl
@[simp] theorem State.setPv_mgmt_denied (s : State) (p i v : Nat) : (s.setPv p i v).mgmt.denied = s.mgmt.denied := rfl
@[simp] theorem State.setPv_mgmt_phase (s : State) (p i v : Nat) : (s.setPv p i v).mgmt.phase = s.mgmt.phase := rfl
@[simp] theorem State.setPv_mgmt_step (s : State) (p i v : Nat) : (s.setPv p i v).mgmt.step = s.mgmt.step := rfl
@[simp] theorem State.setPv_mgmt_code (s : State) (p i v : Nat) : (s.setPv p i v).mgmt.code = s.mgmt.code := rfl
@[simp] theorem State.setPv_mgmt_pwr (s : State) (p i v : Nat) : (s.setPv p i v).mgmt.pwr = s.mgmt.pwr := rfl
@[simp] theorem State.setPv_mgmt_auto (s : State) (p i v : Nat) : (s.setPv p i v).mgmt.auto = s.mgmt.auto := rfl
@[simp] theorem State.setPv_mgmt_imgSt (s : State) (p i v : Nat) : (s.setPv p i v).mgmt.imgSt = s.mgmt.imgSt := rfl
@[simp] theorem State.setPv_mgmt_imgSize (s : State) (p i v : Nat) : (s.setPv p i v).mgmt.imgSize = s.mgmt.imgSize := rfl
@[simp] theorem State.setPv_mgmt_image (s : State) (p i v : Nat) : (s.setPv p i v).mgmt.image = s.mgmt.image := rfl
@[simp] theorem State.setPv_mgmt_version (s : State) (p i v : Nat) : (s.setPv p i v).mgmt.version = s.mgmt.version := rfl
@[simp] theorem State.setPv_mgmt_irqPend (s : State) (p i v : Nat) : (s.setPv p i v).mgmt.irqPend = s.mgmt.irqPend := rfl
@[simp] theorem State.setPv_mgmt_idWrote (s : State) (p i v : Nat) : (s.setPv p i v).mgmt.idWrote = s.mgmt.idWrote := rfl
@[simp] theorem State.setPv_mgmt_kept (s : State) (p i v : Nat) : (s.setPv p i v).mgmt.kept = s.mgmt.kept := rfl
@[simp] theorem State.setPv_mgmt_por (s : State) (p i v : Nat) : (s.setPv p i v).mgmt.por = s.mgmt.por := rfl
@[simp] theorem State.setPv_mgmt_fw (s : State) (p i v : Nat) : (s.setPv p i v).mgmt.fw = s.mgmt.fw := rfl
@[simp] theorem State.setPv_mgmt_wrst (s : State) (p i v : Nat) : (s.setPv p i v).mgmt.wrst = s.mgmt.wrst := rfl
@[simp] theorem State.setPv_mgmt_goWait (s : State) (p i v : Nat) : (s.setPv p i v).mgmt.goWait = s.mgmt.goWait := rfl
@[simp] theorem State.setPv_mgmt_reloadWait (s : State) (p i v : Nat) : (s.setPv p i v).mgmt.reloadWait = s.mgmt.reloadWait := rfl
@[simp] theorem State.setPv_mgmt_railLow (s : State) (p i v : Nat) : (s.setPv p i v).mgmt.railLow = s.mgmt.railLow := rfl
@[simp] theorem State.setPv_mgmt_phaseAt (s : State) (p i v : Nat) : (s.setPv p i v).mgmt.phaseAt = s.mgmt.phaseAt := rfl

@[simp] theorem State.setStatus_pending (s : State) (h c off st keep : Nat) : (s.setStatus h c off st keep).pending = s.pending := State.setPage_pending _ _ _ _ _
@[simp] theorem State.setStatus_flight (s : State) (h c off st keep : Nat) : (s.setStatus h c off st keep).flight = s.flight := State.setPage_flight _ _ _ _ _
@[simp] theorem State.setStatus_nextId (s : State) (h c off st keep : Nat) : (s.setStatus h c off st keep).nextId = s.nextId := State.setPage_nextId _ _ _ _ _
@[simp] theorem State.setStatus_free (s : State) (h c off st keep : Nat) : (s.setStatus h c off st keep).free = s.free := State.setPage_free _ _ _ _ _
@[simp] theorem State.setStatus_clk (s : State) (h c off st keep : Nat) : (s.setStatus h c off st keep).clk = s.clk := State.setPage_clk _ _ _ _ _
@[simp] theorem State.setStatus_sched (s : State) (h c off st keep : Nat) : (s.setStatus h c off st keep).sched = s.sched := State.setPage_sched _ _ _ _ _
@[simp] theorem State.setStatus_mem (s : State) (h c off st keep : Nat) : (s.setStatus h c off st keep).mem = s.mem := State.setPage_mem _ _ _ _ _
@[simp] theorem State.setStatus_wins (s : State) (h c off st keep : Nat) : (s.setStatus h c off st keep).wins = s.wins := State.setPage_wins _ _ _ _ _
@[simp] theorem State.setStatus_chans (s : State) (h c off st keep : Nat) : (s.setStatus h c off st keep).chans = s.chans := State.setPage_chans _ _ _ _ _
@[simp] theorem State.setStatus_chTurn (s : State) (h c off st keep : Nat) : (s.setStatus h c off st keep).chTurn = s.chTurn := State.setPage_chTurn _ _ _ _ _
@[simp] theorem State.setStatus_jobs (s : State) (h c off st keep : Nat) : (s.setStatus h c off st keep).jobs = s.jobs := State.setPage_jobs _ _ _ _ _
@[simp] theorem State.setStatus_scarabs (s : State) (h c off st keep : Nat) : (s.setStatus h c off st keep).scarabs = s.scarabs := State.setPage_scarabs _ _ _ _ _
@[simp] theorem State.setStatus_submits (s : State) (h c off st keep : Nat) : (s.setStatus h c off st keep).submits = s.submits := State.setPage_submits _ _ _ _ _
@[simp] theorem State.setStatus_tiers (s : State) (h c off st keep : Nat) : (s.setStatus h c off st keep).tiers = s.tiers := State.setPage_tiers _ _ _ _ _
@[simp] theorem State.setStatus_fxps (s : State) (h c off st keep : Nat) : (s.setStatus h c off st keep).fxps = s.fxps := State.setPage_fxps _ _ _ _ _
@[simp] theorem State.setStatus_err (s : State) (h c off st keep : Nat) : (s.setStatus h c off st keep).err = s.err := State.setPage_err _ _ _ _ _
@[simp] theorem State.setStatus_mirror (s : State) (h c off st keep : Nat) : (s.setStatus h c off st keep).mirror = s.mirror := State.setPage_mirror _ _ _ _ _
@[simp] theorem State.setStatus_journal (s : State) (h c off st keep : Nat) : (s.setStatus h c off st keep).journal = s.journal := State.setPage_journal _ _ _ _ _
@[simp] theorem State.setStatus_power (s : State) (h c off st keep : Nat) : (s.setStatus h c off st keep).power = s.power := State.setPage_power _ _ _ _ _
@[simp] theorem State.setStatus_trace (s : State) (h c off st keep : Nat) : (s.setStatus h c off st keep).trace = s.trace := State.setPage_trace _ _ _ _ _
@[simp] theorem State.setStatus_count (s : State) (h c off st keep : Nat) : (s.setStatus h c off st keep).count = s.count := State.setPage_count _ _ _ _ _
@[simp] theorem State.setStatus_quench (s : State) (h c off st keep : Nat) : (s.setStatus h c off st keep).quench = s.quench := State.setPage_quench _ _ _ _ _
@[simp] theorem State.setStatus_mgmt (s : State) (h c off st keep : Nat) : (s.setStatus h c off st keep).mgmt = s.mgmt := State.setPage_mgmt _ _ _ _ _
@[simp] theorem State.setStatus_hives_clock (s : State) (h c off st keep : Nat) : (s.setStatus h c off st keep).hives.clock = s.hives.clock := State.setPage_hives_clock _ _ _ _ _
@[simp] theorem State.setStatus_hives_active (s : State) (h c off st keep : Nat) : (s.setStatus h c off st keep).hives.active = s.hives.active := State.setPage_hives_active _ _ _ _ _
@[simp] theorem State.setStatus_hives_gatePend (s : State) (h c off st keep : Nat) : (s.setStatus h c off st keep).hives.gatePend = s.hives.gatePend := State.setPage_hives_gatePend _ _ _ _ _
@[simp] theorem State.setStatus_hives_dom (s : State) (h c off st keep : Nat) : (s.setStatus h c off st keep).hives.dom = s.hives.dom := State.setPage_hives_dom _ _ _ _ _
@[simp] theorem State.setStatus_hives_pwrPend (s : State) (h c off st keep : Nat) : (s.setStatus h c off st keep).hives.pwrPend = s.hives.pwrPend := State.setPage_hives_pwrPend _ _ _ _ _
@[simp] theorem State.setStatus_hives_pwrRes (s : State) (h c off st keep : Nat) : (s.setStatus h c off st keep).hives.pwrRes = s.hives.pwrRes := State.setPage_hives_pwrRes _ _ _ _ _
@[simp] theorem State.setStatus_hives_owner (s : State) (h c off st keep : Nat) : (s.setStatus h c off st keep).hives.owner = s.hives.owner := State.setPage_hives_owner _ _ _ _ _
@[simp] theorem State.setStatus_hives_sb (s : State) (h c off st keep : Nat) : (s.setStatus h c off st keep).hives.sb = s.hives.sb := State.setPage_hives_sb _ _ _ _ _
@[simp] theorem State.setStatus_hives_ways (s : State) (h c off st keep : Nat) : (s.setStatus h c off st keep).hives.ways = s.hives.ways := State.setPage_hives_ways _ _ _ _ _
@[simp] theorem State.setStatus_hives_plru (s : State) (h c off st keep : Nat) : (s.setStatus h c off st keep).hives.plru = s.hives.plru := State.setPage_hives_plru _ _ _ _ _
@[simp] theorem State.setStatus_hives_flcCmds (s : State) (h c off st keep : Nat) : (s.setStatus h c off st keep).hives.flcCmds = s.hives.flcCmds := State.setPage_hives_flcCmds _ _ _ _ _
@[simp] theorem State.setStatus_hives_handles (s : State) (h c off st keep : Nat) : (s.setStatus h c off st keep).hives.handles = s.hives.handles := State.setPage_hives_handles _ _ _ _ _
@[simp] theorem State.setStatus_hives_drains (s : State) (h c off st keep : Nat) : (s.setStatus h c off st keep).hives.drains = s.hives.drains := State.setPage_hives_drains _ _ _ _ _
@[simp] theorem State.setStatus_hives_moves (s : State) (h c off st keep : Nat) : (s.setStatus h c off st keep).hives.moves = s.hives.moves := State.setPage_hives_moves _ _ _ _ _
@[simp] theorem State.setStatus_hives_ctxJobs (s : State) (h c off st keep : Nat) : (s.setStatus h c off st keep).hives.ctxJobs = s.hives.ctxJobs := State.setPage_hives_ctxJobs _ _ _ _ _
@[simp] theorem State.setStatus_hives_rings (s : State) (h c off st keep : Nat) : (s.setStatus h c off st keep).hives.rings = s.hives.rings := State.setPage_hives_rings _ _ _ _ _
@[simp] theorem State.setStatus_hives_closing (s : State) (h c off st keep : Nat) : (s.setStatus h c off st keep).hives.closing = s.hives.closing := State.setPage_hives_closing _ _ _ _ _
@[simp] theorem State.setStatus_hives_waits (s : State) (h c off st keep : Nat) : (s.setStatus h c off st keep).hives.waits = s.hives.waits := State.setPage_hives_waits _ _ _ _ _
@[simp] theorem State.setStatus_hives_armNo (s : State) (h c off st keep : Nat) : (s.setStatus h c off st keep).hives.armNo = s.hives.armNo := State.setPage_hives_armNo _ _ _ _ _
@[simp] theorem State.setStatus_hives_passes (s : State) (h c off st keep : Nat) : (s.setStatus h c off st keep).hives.passes = s.hives.passes := State.setPage_hives_passes _ _ _ _ _
@[simp] theorem State.setStatus_hives_barriers (s : State) (h c off st keep : Nat) : (s.setStatus h c off st keep).hives.barriers = s.hives.barriers := State.setPage_hives_barriers _ _ _ _ _
@[simp] theorem State.setStatus_hives_sent (s : State) (h c off st keep : Nat) : (s.setStatus h c off st keep).hives.sent = s.hives.sent := State.setPage_hives_sent _ _ _ _ _
@[simp] theorem State.setStatus_hives_fences (s : State) (h c off st keep : Nat) : (s.setStatus h c off st keep).hives.fences = s.hives.fences := State.setPage_hives_fences _ _ _ _ _
@[simp] theorem State.setStatus_hives_events (s : State) (h c off st keep : Nat) : (s.setStatus h c off st keep).hives.events = s.hives.events := State.setPage_hives_events _ _ _ _ _
@[simp] theorem State.setStatus_hives_faultReg (s : State) (h c off st keep : Nat) : (s.setStatus h c off st keep).hives.faultReg = s.hives.faultReg := State.setPage_hives_faultReg _ _ _ _ _
@[simp] theorem State.setStatus_hives_edge (s : State) (h c off st keep : Nat) : (s.setStatus h c off st keep).hives.edge = s.hives.edge := State.setPage_hives_edge _ _ _ _ _
@[simp] theorem State.setStatus_hives_lastRes (s : State) (h c off st keep : Nat) : (s.setStatus h c off st keep).hives.lastRes = s.hives.lastRes := State.setPage_hives_lastRes _ _ _ _ _
@[simp] theorem State.setStatus_hives_busy (s : State) (h c off st keep : Nat) : (s.setStatus h c off st keep).hives.busy = s.hives.busy := State.setPage_hives_busy _ _ _ _ _
@[simp] theorem State.setStatus_hives_outs (s : State) (h c off st keep : Nat) : (s.setStatus h c off st keep).hives.outs = s.hives.outs := State.setPage_hives_outs _ _ _ _ _
@[simp] theorem State.setStatus_hives_cmdq (s : State) (h c off st keep : Nat) : (s.setStatus h c off st keep).hives.cmdq = s.hives.cmdq := State.setPage_hives_cmdq _ _ _ _ _
@[simp] theorem State.setStatus_hives_cmdTurn (s : State) (h c off st keep : Nat) : (s.setStatus h c off st keep).hives.cmdTurn = s.hives.cmdTurn := State.setPage_hives_cmdTurn _ _ _ _ _
@[simp] theorem State.setStatus_hives_ported (s : State) (h c off st keep : Nat) : (s.setStatus h c off st keep).hives.ported = s.hives.ported := State.setPage_hives_ported _ _ _ _ _
@[simp] theorem State.setStatus_hives_sbGone (s : State) (h c off st keep : Nat) : (s.setStatus h c off st keep).hives.sbGone = s.hives.sbGone := State.setPage_hives_sbGone _ _ _ _ _
@[simp] theorem State.setStatus_hives_granted (s : State) (h c off st keep : Nat) : (s.setStatus h c off st keep).hives.granted = s.hives.granted := State.setPage_hives_granted _ _ _ _ _

end Sys2Proof.Machine
end

