-- ==== Sys2Proof/WellFormed.lean ====
section
/-!
DEFINITION. WellFormed.lean: what a command's operands must satisfy beyond their types. `exec` gives every
command a next state; a sender keeps to these bounds.
-/
namespace Sys2Proof

/-- Most lines a request of a port lists (R56): MXP 16, VXP, DXP, SCP and STP 8, MIP 4; SXP has a command of its own. -/
def portLines (port : Nat) : Nat :=
  match port with
  | 0 => 16
  | 1 => 8
  | 3 => 8
  | 4 => 4
  | 5 => 8
  | 6 => 8
  | _ => 0

/-- A request lists at least one line and no more than its port takes (R56). -/
def PortReq.wf (r : PortReq) : Bool :=
  decide (0 < r.lines.length) && decide (r.lines.length ≤ portLines r.port.val)

/-- A scalar access has 1, 2, 4 or 8 naturally aligned bytes (R32). -/
def SxpReq.wf (r : SxpReq) : Bool :=
  (r.size = 1 || r.size = 2 || r.size = 4 || r.size = 8) && decide (r.ga.toNat % r.size = 0)

/-- A frame carries at most four lines (R132). -/
def Frame.wf (f : Frame) : Bool := decide (f.payload.length ≤ 4)

/-- A mirror frame carries at most four lines, as its header counts them (R326). -/
def MFrame.wf (f : MFrame) : Bool := decide (f.payload.length ≤ 4) && (f.payload.isEmpty || f.lines.toNat = f.payload.length)

/-- The operands lie within what their interface carries. -/
def Instr.wf : Instr → Bool
  | .portRequest _ r => r.wf
  | .sxpAccess _ r => r.wf
  | .rwriteRecv _ f => f.wf
  | .raccRecv _ f => f.wf
  | .mwriteRecv f => f.wf
  | .maccRecv f => f.wf
  | .weevilPageScrub _ _ raw => decide (raw.length = 64)
  | .startGo _ => true
  | .imageBegin size => decide (0 < size.toNat)
  | _ => true

end Sys2Proof
end

