-- ==== Sys2Proof/Tests/Slice0.lean ====
section
/-!
SUPPORT. Slice0.lean: operands that WellFormed refuses, one concrete state and operands for each statement that has hypotheses, and
worked examples of the spec, each about one step or one operation on a small state.
-/
set_option Elab.async false
open Sys2Proof Sys2Proof.Machine
namespace Sys2Proof.Tests

/-! ### The states the witnesses stand on -/

/-- A running block: the clock root and fclk_i on, cycle 5000, START_CTL in phase 7, Hive 0 LIVE with its domains ON. -/
def live : State :=
  let on : Domain := { st := .on, target := .on, phase := .idle }
  { State.reset with
    clk := { State.reset.clk with rootOn := true, fclkOn := true, now := 5000 }
    hives := { State.reset.hives with clock := [(0, .live)], dom := (List.range 14).map (fun d => (d, on)) }
    mgmt := { State.reset.mgmt with por := false, fw := true, phase := 7 } }

/-- The running block with transactions in flight. -/
def fly (l : List Xact) : State := { live with flight := l, nextId := 9 }

/-- The running block with Hive 0's part changed. -/
def hv (f : Hives → Hives) : State := { live with hives := f live.hives }

/-- Hive 0's control page takes a command of ctx0. -/
theorem test_live_cmdFree : live.cmdFree 0 0 := by unfold State.cmdFree; exact ⟨rfl, by decide, rfl⟩

/-- A transaction of Hive 0 to the first row of its main bank 0. -/
def hit : Xact := { id := 5, grp := 5, seq := 5, mask := 0xFF, loc := .row 0 0 0, born := 4000, since := 4000 }

/-- A line frame from Hive 1 of chip 3. -/
def line : Frame :=
  { srcChip := 3, srcHive := 1, dstChip := 0, win := 0, winGen := 0, qos := 0, sched := false, relEpoch := 0, relPeriod := 0, relPos := 0,
    op := 0, count := 1, ga := 0, layer := 0, operator := 0, mask := 0xFF, dstHive := 0, payload := [7] }

/-- A mirror frame of the partner chip 3 with one line. -/
def mline : MFrame := { srcChip := 3, region := 0, lines := 1, op := 0, flags := 0, seq := 1, ack := 0, off := 0, mask := 0xFF, payload := [7] }

/-! ### Operands that WellFormed refuses -/

/-- One line of Hive 0's bank 0. -/
def one : LineReq := { ga := 0, mask := 0xFF, data := 7 }

/-- A request of VXP for the lines given. -/
def req (l : List LineReq) : PortReq :=
  { port := 1, ctx := 0, chan := 0, kind := .read, code := 0, sched := false, qos := 0, flow := 0, layer := 0, operator := 0, lines := l }

/-- A scalar read of `size` bytes at `ga`. -/
def sxp (ga : Ga) (size : Nat) : SxpReq :=
  { ctx := 0, kind := .read, aop := 0, ga := ga, size := size, data := 0, qos := 0, layer := 0, operator := 0 }

theorem test_wf_port_lines : (Instr.portRequest 0 (req [one])).wf = true ∧ (Instr.portRequest 0 (req [])).wf = false ∧
    (Instr.portRequest 0 (req (List.replicate 9 one))).wf = false := by decide

theorem test_wf_scalar_size : (Instr.sxpAccess 0 (sxp 8 8)).wf = true ∧ (Instr.sxpAccess 0 (sxp 0 3)).wf = false ∧
    (Instr.sxpAccess 0 (sxp 2 4)).wf = false := by decide

theorem test_wf_frame_lines : (Instr.rwriteRecv 0 line).wf = true ∧ (Instr.rwriteRecv 0 { line with payload := List.replicate 5 0 }).wf = false ∧
    (Instr.raccRecv 0 { line with payload := List.replicate 5 0 }).wf = false := by decide

theorem test_wf_mirror_lines : (Instr.mwriteRecv mline).wf = true ∧ (Instr.mwriteRecv { mline with lines := 2 }).wf = false ∧
    (Instr.maccRecv { mline with lines := 5, payload := List.replicate 5 0 }).wf = false := by decide

theorem test_wf_page_lines : (Instr.weevilPageScrub 0 0 (List.replicate 64 0)).wf = true ∧ (Instr.weevilPageScrub 0 0 []).wf = false := by decide

theorem test_wf_image_size : (Instr.imageBegin 64).wf = true ∧ (Instr.imageBegin 0).wf = false := by decide

/-! ### States and operands that meet each statement's hypotheses -/

theorem test_meets_StepRunsFrontCommand : ({ live with pending := [.snap] } : State).pending = .snap :: [] := rfl

theorem test_meets_EmptyQueueStepKeepsTime : State.reset.pending = [] ∧ State.reset.mgmt.por = true ∧ State.reset.clk.rootOn = false := by decide

theorem test_live_inv : live.Inv := by unfold State.Inv Mem.wf State.phaseLegal numbered; decide

theorem test_fly_inv : (fly [hit]).Inv := by unfold State.Inv Mem.wf State.phaseLegal numbered; decide

theorem test_meets_EveryStepKeepsInvariant : live.Inv ∧ step { live with pending := [.thaw] } = .next live := ⟨test_live_inv, rfl⟩

theorem test_meets_CommandsChangeOnlyTheirParts : exec .thaw live = .next live := rfl

/-- ACTION in bits 31:30 of a POWER_INTENT element at period 0, position 0 of the running epoch. -/
def intent (a : Nat) (c : HClock) : State :=
  { live with hives := { live.hives with clock := [(0, c)] }, sched := { live.sched with running := true, start := 5000 }
              mgmt := { live.mgmt with active := [(pkey 0x2000 0, 1), (pkey 0x8600 0, a * 2^30)] } }

theorem test_meets_HiveClockGatesAndWakes :
    (live.clk.rootOn = true ∧ live.determ = false ∧ live.clockOf 0 = .live ∧ live.domLive 0 0 = true ∧ live.quiet 0 = true ∧ 64 ≤ live.idleFor 0) ∧
    (hv (fun v => { v with clock := [(0, .waking 5000)] })).clockOf 0 = .waking 5000 ∧
    ((intent 1 .live).intentDue 0 0 1 = true ∧ (intent 1 .live).clockOf 0 ≠ .off) ∧
    ((intent 2 .warm).intentDue 0 0 2 = true ∧ (intent 2 .warm).clockOf 0 = .warm) := by decide

/-- The running block with a commit in the state given and ARB_SWITCH_AT as given. -/
def committing (c : Option Nat) (at_ : Nat) (shadow : Tbl Nat) : State :=
  { live with sched := { live.sched with commit := some { goAt := 100, checked := c, req := none, at_ := at_ } }, mgmt := { live.mgmt with shadow := shadow } }

theorem test_meets_CommitTakesEffectOrFails :
    (live.mgmt.por = false ∧ (1 : BitVec 32).getLsbD 0 = true ∧ live.sched.commit = none) ∧
    ((committing (some 200) 0 []).switchDue 200 = true ∧ (committing (some 200) 0 []).clk.rootOn = true) ∧
    (let s := committing (some 200) 0 [(pkey 0x2000 0, 1)]; s.shd 0x2000 0 = 1 ∧ s.switchDue 200 = false) ∧
    (let s : State := { live with clk := { live.clk with ts := 10000000 } }; 0 + 1000 * s.pv 0x2003 0 = s.clk.ts.toNat) := by decide

theorem test_meets_EpochsStartAndEnd :
    let s : State := { live with sched := { live.sched with pendStart := [5000] } }
    let r : State := { live with sched := { live.sched with running := true, start := 0 }, clk := { live.clk with now := 2248704 } }
    (live.clk.rootOn = true ∧ live.mgmt.phase = 7 ∧ live.replaying = false ∧ live.sched.pendStart = [] ∧ live.sched.running = false) ∧
    (s.sched.pendStart = 5000 :: [] ∧ s.sched.pendStart.getLast? = some 5000 ∧ 5000 ≤ s.clk.now) ∧
    (r.sched.running = true ∧ r.epochEndOf r.sched.start ≤ r.clk.now ∧ (r.clk.now - r.clk.count0) % 4096 = 0) ∧
    (let x : Xact := { hit with stage := .link, sched := true }
     let u : State := { fly [x] with sched := { live.sched with pendStart := [5000], running := true, start := 0 } }
     u.sched.pendStart = 5000 :: [] ∧ 5000 < u.epochEndOf u.sched.start ∧ u.xact 5 = some x) := by decide +kernel

theorem test_meets_PortRequestEntersFlight :
    live.clockOf 0 ≠ .off ∧ (req [one]).sched = false ∧ live.hives.ctxJobs.all (fun j => j.hive ≠ 0 ∨ j.ctx ≠ 0) = true ∧
      reqShape 1 (req [one]).lines ((req [one]).lines.map (fun l => live.locate l.ga.toNat)) = true ∧ live.tagFree 0 1 0 = true ∧
      live.portFree 0 1 = true ∧ (hv (fun v => { v with ported := [1] })).portFree 0 1 = false := by decide +kernel

/-- A LOCAL-class handle entry (R121) that reads and writes `n` lines from `base`, a line number. -/
def handleOf (cls n base : Nat) : Quad := BitVec.ofNat 128 (cls * 2^84 + 2^82 + 2^80 + 2^79 + n * 2^42 + base)

/-- Hive 0's ctx0 holds a handle of class 3 to row 0 of Hive 1, whose line 0x400000 stands in way 0 of its far-line cache. -/
def cached : State :=
  hv (fun v => { v with handles := [(0, handleOf 1 4 0x10000)]
                        ways := [(wkey 0 (flcSet 0x400000) 0, { used := true, tag := BitVec.ofNat 34 (flcTag 0x400000), valid := fullMask, data := 7, chk := lineChk 7, cls := 1 })] })

theorem test_meets_ScalarAccessIsServedOrRefused :
    let x := cached.sxpX 0 (sxp 0x400000 8)
    cached.sxpReady 0 (sxp 0x400000 8) = true ∧ cached.sxpHeld x = false ∧ (live.sxpHandle (live.sxpX 0 (sxp 0 8))).isRight = true ∧
      (cached.sxpHandle x = .inl 0 ∧ hClass (cached.handle 0 0 0) ≠ 6) ∧ cached.issueRefusal x = none ∧ cached.sbBlock (x.checked cached.clk.now) = none ∧
      cached.flcFind 0 0x400000 = some 0 ∧ x.mask &&& fullMask = x.mask ∧
      wayRead (cached.way 0 (flcSet 0x400000) 0) (touched x.mask) = some (cached.way 0 (flcSet 0x400000) 0, 0) ∧
      (touched x.mask).filter (fun g => fld x.mask.toNat (8 * g + 7) (8 * g) ≠ 255) = [] := by decide +kernel

/-- A request of Hive 0 in a stage. -/
def at_ (st : Stage) : Xact := { hit with stage := st }

/-- Ring 0 of Hive 0: two slots of one line from row 0, `full` as given. -/
def ringed (full : BitVec 256) (l : List Xact) : State :=
  { fly l with hives := { live.hives with rings := [(0, { en := true, full := full, tmo := 100, nslots := 1, lines := 1, base := 0 })] } }

theorem test_meets_StalledRequestsGoOn :
    (let s := fly [at_ .scoreboard]; s.xact 5 = some (at_ .scoreboard) ∧ s.hives.sbGone = [] ∧ s.sbWait (at_ .scoreboard) = none ∧
      s.sbNeeds (at_ .scoreboard) = false ∧ s.atIssue (at_ .scoreboard) = [at_ .scoreboard]) ∧
    (let s := ringed 1 [at_ .ringStall]; s.xact 5 = some (at_ .ringStall) ∧ s.ringWait (at_ .ringStall) = none ∧ s.atIssue (at_ .ringStall) = [at_ .ringStall]) ∧
    (let s := ringed 0 [at_ .ringStall]; s.xact 5 = some (at_ .ringStall) ∧ s.ringBlock (at_ .ringStall) = some (0, 0, 0) ∧
      (s.ringAt 0 0).tmo ≤ s.clk.now - (at_ .ringStall).since) ∧
    (let x := { hit with expired := none, deadline := 0x1000 }; x.dueAt 0 ≤ live.clk.now) := by decide +kernel

/-- The request held at the inbound side of the mesh interface of Hive 0. -/
def inbound : Xact := { hit with stage := .mipHeld, ctx := 0, srcUnit := 1, mesh := true }

theorem test_meets_TargetsCheckAndGrantRequests :
    (let s := fly [inbound]; s.xact 5 = some inbound ∧ inbound.isFill = false ∧ inbound.srcChip = none ∧ s.windowInbound inbound = none ∧ inbound.ready ≤ s.clk.now ∧ s.mipRefusal inbound = none ∧
      s.ownership inbound.loc (s.ownCtx inbound) ≠ .held ∧ s.ringBlock inbound = none) ∧
    (let s := fly [at_ .arbiter]; s.freeAt (arbKey (.main 0 0)) ≤ s.clk.now ∧ s.power.hold = false ∧
      firstBy s.bankOrder ((s.before (arbKey (.main 0 0))).filter s.eligible) = some (at_ .arbiter) ∧ hit.loc.rowId = some (0, 0, 0, 0) ∧
      (s.rowAt (s.rowPlace 0 0 0 0)).split = false) ∧
    (live.before (arbKey (.main 0 0))).filter live.eligible = [] := by decide +kernel

theorem test_meets_CacheCommandsRunAndEnd :
    (live.status 0 0 0x110 ≠ 1 ∧ live.cellOk 0 = true ∧ live.cellOk 64 = false) ∧
    (let s := hv (fun v => { v with flcCmds := [⟨0, 0, 3, 0, 5000, false, 0⟩] }); s.hives.flcCmds.find? (fun f => f.hive = 0 && f.ctx = 0) = some ⟨0, 0, 3, 0, 5000, false, 0⟩ ∧
      (s.wbs 0).all (fun x => x.purpose ≠ .flcWriteback 1) = true) ∧
    (live.locate 0x0F0040000000 = .sync 0 0) ∧
    (let y : Xact := { hit with half := .answer, stage := .returned, purpose := .flcFill 0 0, ga := 0x400000 }
     let s : State := { fly [y] with hives := { live.hives with ways := [(0, { used := true, tag := BitVec.ofNat 34 (flcTag 0x400000), fill := true })] } }
     s.xact 5 = some y ∧ y.ready ≤ live.clk.now ∧ (s.wayFill 0 0 0).map (fun f => f.id) = some 5 ∧
       wayRead (s.way 0 0 0) (touched (s.way 0 0 0).dirty) = some (s.way 0 0 0, 0)) ∧
    (let y : Xact := { hit with half := .answer, stage := .returned, kind := .write, purpose := .flcWriteback 1 }; (fly [y]).xact 5 = some y ∧ (fly [y]).mirrorWaits 5 = false) := by
  decide +kernel

/-- A handover of Hive 0's main bank 0 to ctx1, its clearing as given. -/
def handover (c : Option Nat) : State := hv (fun v => { v with owner := [(0, { next := 1, pend := true, clear := true, clrAt := c })] })

theorem test_meets_BankHandoverRuns :
    (live.ownerOf 0 0).pend = false ∧ ((handover none).ownerOf 0 0).pend = true ∧ (handover none).ownerBusy 0 0 0 = false ∧
      ((handover (some 5000)).ownerOf 0 0).clrAt = some 5000 := by decide +kernel

theorem test_meets_AnswersReachTheirMasters :
    let r : Xact := { hit with half := .answer, stage := .returned }
    let w : Xact := { hit with half := .answer, stage := .returned, kind := .write }
    ((fly [r]).xact 5 = some r ∧ r.cacheOwn = false ∧ (fly [r]).deliverable ((fly [r]).groupOf r) = true) ∧
    ((fly [w]).xact 5 = some w ∧ w.cacheOwn = false ∧ (fly [w]).deliverable ((fly [w]).groupOf w) = true) ∧
    (fly [hit]).deliverable ((fly [hit]).groupOf hit) = false := by decide +kernel

theorem test_meets_RoutersForwardPackets :
    let x : Xact := { hit with stage := .link, unit := 0, dir := 4, mesh := true }
    let s := fly [x]
    let here := fun (y : Xact) => decide (y.stage = .link) && decide (y.unit = 0) && decide (y.dir = 4) && decide (y.ready ≤ s.clk.now)
    let u := s.linkMismatch 0 4 here
    s.freeAt (linkKey 0 4) ≤ s.clk.now ∧ u.linkPick 0 4 here (fun y => here y && u.exitRoom 4 y) (fun y => y.inp) = some x ∧
      live.linkPick 0 4 (fun _ => true) (fun _ => true) (fun y => y.inp) = none := by decide +kernel

/-- A window entry (R134): state, owner ctx0, generation 0, 4 lines from line 0 of the Hive, senders chips 0 to 9, 8 credits. -/
def winOf_ (st : Nat) : Quad := BitVec.ofNat 128 (8 * 2^84 + 9 * 2^74 + st * 2^45 + 4 * 2^16)

/-- Hive 0's window 0 in a state, with its credit state. -/
def windowed (st : Nat) (x : WinX) : State := { live with wins := { live.wins with table := [(0, winOf_ st)], extra := [(0, x)] } }

/-- The holder that Hive 1 of chip 3 is, with one credit. -/
def holder3 : WinX := { free := 7, holders := [⟨3, 1, 1, false, false⟩] }

/-- ctx0 of Hive 0 has staged the words given at WIN_ENTRY. -/
def staging (q : Nat) : State := hv (fun v => { v with pages := [(pageKey 0 0 0x220, BitVec.ofNat 64 (q % 2^64)), (pageKey 0 0 0x228, BitVec.ofNat 64 (q / 2^64))] })

theorem test_meets_WindowCommandsRun :
    (live.status 0 0 0x230 ≠ 1 ∧ live.cqJournal 0 0 = false) ∧
    (staging (winOf_ 0).toNat).winRefused 0 0 0 1 ((staging (winOf_ 0).toNat).winStaged 0 0) = false ∧ live.winRefused 0 0 0 1 (live.winStaged 0 0) = true ∧
    (windowed 1 holder3).winRefused 0 0 0 2 0 = false ∧
    (let s : State := { windowed 2 holder3 with clk := { live.clk with ts := 10000000 } };
      2 ≤ wState (s.win 0 0) ∧ (s.winx 0 0).sinceTs + usNs * (s.winx 0 0).tmo ≤ s.clk.ts.toNat) := by decide +kernel

/-- A line frame released at period 1 of the running epoch. -/
def schedLine : Frame := { line with sched := true, relPeriod := 1 }

/-- The running block in deterministic mode, epoch 0 running from cycle `at_`. -/
def determ (at_ : Nat) : State :=
  { live with sched := { live.sched with running := true, start := at_ }, mgmt := { live.mgmt with active := [(pkey 0x2000 0, 1)] } }

theorem test_meets_LineFramesReachTheirWindow :
    live.frameOpen line = true ∧ live.frameOpen { line with dstChip := 1 } = false ∧ live.early 0 = [] ∧ live.ingress 0 = [] ∧
    ((determ 4800).frameOpen schedLine = true ∧ (determ 4800).determ = true ∧ (determ 4800).releaseDue 0 1 0 = none) ∧
    (determ 4744).releaseDue 0 1 0 = some (0, false) ∧ (determ 4743).releaseDue 0 1 0 = some (1, false) ∧
    (let y : Xact := { hit with stage := .fxpRelease, srcChip := some (3, 1), win := some (3, 1, 0, 0) }; (fly [y]).xact 5 = some y ∧
      (fly [y]).flight.all (fun z => z.stage ≠ .fxpRelease ∨ z.unit ≠ y.unit ∨ z.srcChip ≠ y.srcChip ∨ y.seq ≤ z.seq) = true ∧ y.sched = false) ∧
    (let y : Xact := { hit with stage := .mipHeld, kind := .write, srcChip := some (3, 1), win := some (3, 1, 0, 0), purpose := .window 0 }
     (fly [y]).xact 5 = some y ∧ y.isFill = false ∧ y.forwarded = false ∧
       (fly [y]).flight.all (fun z => z.purpose ≠ y.purpose ∨ z.srcChip ≠ y.srcChip ∨ z.win.isNone ∨ y.seq ≤ z.seq ∨ z.half = .answer) = true) ∧
    ((windowed 1 holder3).lineCheck 0 0 0 3 1 0 = none ∧ live.lineCheck 0 0 0 3 1 0 = some 0x20 ∧ wState ((windowed 1 holder3).win 0 0) ≠ 4) := by
  decide +kernel

theorem test_meets_ControlFramesMoveCredits :
    live.frameOpen line = true ∧ live.frameOpen { line with dstChip := 1 } = false ∧
    (let s := windowed 1 holder3; line.op ≠ 1 ∧ wState (s.win 0 0) = 1 ∧ wLo (s.win 0 0) ≤ 3 ∧ 3 ≤ wHi (s.win 0 0) ∧ (s.winx 0 0).sources = [] ∧
      ((s.winx 0 0).holder 3 1).isSome = true ∧ wGen (s.win 0 0) = line.winGen.toNat ∧ (s.winx 0 0).toMark = []) ∧
    wState ((windowed 2 holder3).win 0 0) = 2 ∧
    (live.awaiting 0 3 1 0 = [] ∧ ∀ v, v < 32 → wState (live.win 0 v) ≠ 4) ∧
    (let s : State := { live with wins := { live.wins with allots := [{ hive := 0, chip := 3, dhive := 1, win := 0, gen := 0, credit := 1, base := 0, extent := 4, st := .held }] } };
      (s.allot 0 3 1 0 0).isSome = true ∧ unpackPlace (packPlace (3, 1, 0, 0) 0) = (3, 1, 0, 0) ∧ (3 : Nat) ≠ s.chipId) := by decide +kernel

theorem test_meets_FabricReportsActOnSenders :
    live.clk.rootOn = true ∧ (3 : Nat) ≠ live.chipId ∧ (3 : Nat) ≠ live.pv 0x5000 0 ∧
    (let s : State := { live with wins := { live.wins with racks := [(rackKey 0 0 3 1, { lines := 1, since := 4744 })] } }
      let r := Tbl.get s.wins.racks {} (rackKey 0 0 3 1); r.lines ≠ 0 ∧ r.since + 256 ≤ s.clk.now) := by decide +kernel

/-- HANDLE_ENTRY of Hive 0 holds an entry of four lines of class HIVE. -/
def stagedHandle : State :=
  let q := (handleOf 1 4 0x10000).toNat
  hv (fun v => { v with pages := [(pageKey 0 0 0x200, BitVec.ofNat 64 (q % 2^64)), (pageKey 0 0 0x208, BitVec.ofNat 64 (q / 2^64))] })

/-- A LOAD of slot 0 of ctx0 that drains. -/
def drain0 : Drain := { entry := handleOf 1 4 0x10000, since := 4000, ctl := true, jseq := none, again := false }

theorem test_meets_HandleCommandsRun :
    (live.status 0 0 0x210 ≠ 1 ∧ live.cqJournal 0 0 = false ∧ live.draining 0 0 0 = false) ∧
    live.loadRefused (handleOf 1 4 0x10000) = false ∧ live.loadRefused (handleOf 1 0 0x10000) = true ∧
    stagedHandle.loadRefused (stagedHandle.handleStaged 0) = false ∧
    (let s := hv (fun v => { v with drains := [(0, drain0)] }); Tbl.find s.hives.drains (hkey 0 0 0) = some drain0 ∧ s.handleBusy 0 0 0 = false) := by decide +kernel

theorem test_meets_PoolAndModeChangesClear :
    let s : State := { live with hives := { live.hives with clock := [] } }
    s.noHiveLive = true ∧ live.noHiveLive = false ∧ (512 ∈ [0, 128, 256, 384, 512]) ∧ s.pv 0x1001 0 ≠ 512 ∧ s.pv 0x1000 0 ≠ 1 ∧
      s.mgmt.idWrote = false ∧ s.mgmt.por = false := by decide +kernel

/-- ctx0 of Hive 0 holds a handle of 192 lines in the Hive's own banks. -/
def imaged : State := hv (fun v => { v with handles := [(0, handleOf 1 192 0)] })

/-- A MOVE of Hive 0's slot 0 on channel 0's descriptor 0. -/
def move0 (fin : Bool) : Move := { hive := 0, chan := 0, desc := 0, slot := 0, src := 0, dst := 0x400000, lines := 4, pass := 0, final := fin, dirty := [], todo := [] }

theorem test_meets_ContextsSaveRestoreAndMove :
    let a := imaged.wakeHive 0
    (a.status 0 0 0x240 ≠ 1 ∧ a.ctxRef 0 0 (a.ctxOff 0) true = .inr 0 ∧ a.ctxRef 0 0 (a.ctxOff 0) false = .inr 0 ∧ a.ownsOpen 0 0 = false) ∧
    (live.ctxRef 0 0 0 true).isLeft = true ∧ (live.ctxRef 0 0 0 false).isLeft = true ∧
    (let s := hv (fun v => { v with ctxJobs := [{ hive := 0, ctx := 1, base := 0, slot := 0, lost := [] }] });
      s.hives.ctxJobs.find? (fun j => j.hive = 0) = some { hive := 0, ctx := 1, base := 0, slot := 0, lost := [] } ∧ s.ctxQuiet 0 1 = true ∧ s.ctxFenced 0 1 = true) ∧
    (let s : State := { hv (fun v => { v with moves := [move0 false] }) with chans := [(0, { en := true, st := .run, descs := [{ idx := 0, phase := .issued }] })] };
      s.hives.moves.find? (fun m => m.hive = 0) = some (move0 false) ∧ (s.chan 0 0).st = .run ∧ (s.chan 0 0).desc? 0 = some { idx := 0, phase := .issued } ∧
      s.movePassed (move0 false) = true) := by decide +kernel

theorem test_meets_FencesAndBarriersCount :
    (live.status 0 0 0x320 ≠ 1 ∧ live.cellOk 0 = true ∧ live.cellOk 64 = false) ∧
    (let x : Xact := { hit with stage := .arbiter, kind := .write, mask := 0xFF, loc := .sync 0 8064 };
      let s := fly [x];
      x.syncWords = [8064 % 8] ∧ isWr x.kind = true ∧ s.freeAt x.loc.arb ≤ s.clk.now ∧ firstBy s.bankOrder ((s.before x.loc.arb).filter s.eligible) = some x ∧ s.xact x.id = some x ∧
        (s.syncAt 0 8064).chk = 0) := by decide +kernel

theorem test_meets_RingCommandsRun :
    live.status 0 0 0x940 ≠ 1 ∧ (live.ringAt 0 0).en = false ∧ ((ringed 0 []).ringAt 0 0).en = true ∧ ((ringed 0 []).ringAt 0 0).owner = 0 ∧
    live.inPool 0 = false ∧ (live.ownerOf 0 0).owner = 0 := by decide +kernel

/-- A wait registration of ctx0 at index 0, waiting for word 64 of Hive 0's cells. -/
def waiting (st : Nat) (dec : Bool) (passes : List Pass) : State :=
  hv (fun v => { v with waits := [(0, { state := st, ctx := 0, cond := 2, dec := dec, cell := 64, tmo := 19, value := 0, armed := 136 })], passes := [(0, passes)] })

theorem test_meets_WaitsArmAndRelease :
    ((live.wait 0 0).state = 0 ∧ (Tbl.get live.hives.passes [] 0).length < 16) ∧
    ((waiting 1 false []).ctlOpen 0 = true ∧ ((waiting 1 false []).wait 0 0).state = 1 ∧ 256 * 19 ≤ 5000 - 136) ∧
    (2 ≤ ((waiting 2 false []).wait 0 0).state ∧ ((waiting 2 false []).wait 0 0).ctx = 0) ∧
    (let s := waiting 1 true [⟨64, 0⟩]; Tbl.get s.hives.passes [] 0 = ⟨64, 0⟩ :: [] ∧ s.power.hold = false ∧ s.freeAt (passKey 0) ≤ s.clk.now ∧
      (s.wait 0 0).dec = true ∧ (s.wait 0 0).cell = 64 ∧ (s.wait 0 0).value.toNat ≤ (s.syncVal 0 64).toNat) := by decide +kernel

/-- The running block with channel 0 of Hive 0 as given, and ctx0's handle 0 to 64 lines of Hive 0's banks. -/
def channel (c : Chan) : State := { hv (fun v => { v with handles := [(0, handleOf 1 64 0)] }) with chans := [(0, c)] }

/-- A running channel with one descriptor. -/
def running (d : Desc) : Chan := { en := true, st := .run, tail := 1, next := 1, descs := [d] }

theorem test_meets_ChannelsTakeCommands :
    (channel {}).chCtx 0 0 = 0 ∧ ((channel {}).chan 0 0).en = false ∧ ((channel { en := true }).chan 0 0).en = true ∧
    (let c : Chan := { st := .halted, descs := [{ idx := 0 }] }; (channel c).chan 0 0 = c ∧ c.desc? c.desc.toNat = some { idx := 0 }) ∧
    (let c := running { phase := .issued }; (channel c).chan 0 0 = c ∧ c.head? = some { phase := .issued }) ∧
    (let c : Chan := { en := true, st := .run, tail := 1 }; let s := channel c; s.ctlOpen 0 = true ∧ c.next ≠ c.tail ∧ s.fetchHeld 0 0 = false ∧
      s.jFull = false ∧ s.tagFree 0 3 0 = true ∧ s.throttled 0 = false ∧ s.movedRef 0 0 c.ringRef.toNat = false ∧ c.descs = [] ∧ c.tailPend = []) ∧
    (let c : Chan := { st := .draining }; (channel c).chan 0 0 = c ∧ (channel c).flight = []) ∧
    (let c : Chan := {}; (4 + 65536 - c.done.toNat) % 65536 ≤ 2^c.lsize ∧ 2^c.lsize < (5 + 65536 - c.done.toNat) % 65536) := by decide +kernel

/-- A descriptor word of an operation (R149), eight bytes from handle 0. -/
def word (op : Nat) : BitVec 512 := BitVec.ofNat 512 (op * 2^476 + 8 * 2^214)

/-- A TILE descriptor word of one row of eight FP32 elements. -/
def tileWord (ind : Nat) : BitVec 512 := BitVec.ofNat 512 (2^476 + ind * 2^456 + 8 * 2^239 + 2^227 + 2^215 + 2^203)

theorem test_meets_DescriptorsAreCheckedAndIssued :
    let of := fun (op : Nat) => ({ w := word op, phase := .ready } : Desc)
    let f : Desc := { src := [(0, ⟨4000, word 0, .ok⟩)] }
    ((channel {}).hives.moves = [] ∧ (of 2).jwait = false ∧ (of 2).resumed = false ∧ (of 2).jseq = none) ∧
    (((channel (running f)).chan 0 0).head? = some f ∧ Tbl.find f.src 0 = some ⟨4000, word 0, .ok⟩ ∧ dJournal (word 0) = false ∧ dFence (word 0) = false ∧
      (channel (running f)).descBad 0 0 (word 0) = false ∧ indDims (word 0) = []) ∧
    (let b : Desc := { w := tileWord 1, phase := .bounds, src := [(0, ⟨4000, 8, .ok⟩)] }; ((channel (running b)).chan 0 0).head? = some b ∧
      indDims b.w = [0] ∧ ({ b with bnd := [(0, 8)], src := [], rdLine := 0 } : Desc).cutShort = false) ∧
    (dOp (of 2).w = 2 ∧ ((channel (running (of 2))).chan 0 0).head? = some (of 2) ∧ (channel (running (of 2))).sbRoom 0 true = true ∧
      (channel (running (of 2))).descFault 0 0 (of 2) = none ∧ (of 2).cutShort = false ∧ (of 2).nextOut 0 < dRows (of 2).w) ∧
    (dOp (of 3).w = 3 ∧ (channel (running (of 3))).descFault 0 0 (of 3) = none) ∧
    (dOp (of 0).w = 0 ∧ (channel (running (of 0))).descFault 0 0 (of 0) = none) ∧
    (let s := channel (running (of 4)); dOp (of 4).w = 4 ∧ s.checkHandle 0 0 0 true false none = none ∧ s.checkHandle 0 0 0 false true (some (0, 4095)) = none ∧
      s.cmplCheck 0 0 0 0 0 = none ∧ moveRefused (s.handle 0 0 0) = false ∧ s.hives.moves = [] ∧ 64 * hExtent (s.handle 0 0 0) = 4096) := by decide +kernel

theorem test_meets_LinesGoOutAndDescriptorsComplete :
    (live.ctlOpen 0 = true ∧ (live.dxpPump 0).dxpFree 0 = true ∧ ((hv (fun v => { v with ported := [3] })).dxpPump 0).dxpFree 0 = false) ∧
    (let d : Desc := { w := word 2, phase := .issued }; let s := channel (running d)
     (s.chan 0 0).head? = some d ∧ d.jwait = false ∧ dOp d.w ≠ 4 ∧ (s.chan 0 0).pausing = false ∧ s.hives.moves = [] ∧
       (match s.nextWrite 0 0 d with
        | .offer o => o.sched = false && s.lineMatch 0 o.x && !s.throttled 0 && decide ((s.chan 0 0).ahead + o.lines ≤ 65) && !s.chanStalled 0 0
        | _ => false) = true) ∧
    (let d : Desc := { w := word 3, phase := .issued }; let s := channel (running d)
     (s.chan 0 0).head? = some d ∧ (match s.offerRead 0 0 d with
        | some o => s.lineMatch 0 o.x
        | none => false) = true ∧ (match s.nextWrite 0 0 d with
        | .none => true
        | _ => false) = true) ∧
    (let x : Xact := { hit with kind := .write, stage := .mipHeld, data := BitVec.ofNat 512 (8 * 2^64), purpose := .fill 0 0 }
     (fly [x]).xact 5 = some x ∧ x.isFill = true ∧ x.ready ≤ 5000 ∧ (fly [x]).mirrorHold x.loc.unit { x with purpose := .engine } = false ∧
       fld x.data.toNat 127 64 = 8) ∧
    (let d : Desc := { phase := .presented }; let c := running d; c.descs = d :: [] ∧ d.open_ = [] ∧ dOp d.w ≠ 4 ∧ dCmpl d.w = 0 ∧ d.noAct = false ∧ d.jseq = none) := by decide +kernel

/-- A job slot 0 of Hive 0 in the state given, in the queue of Scarab 0. -/
def jobbed (j : Job) : State := { live with jobs := [(0, j)], scarabs := [(0, [0])] }

theorem test_meets_ScarabJobsRunAndEnd :
    (live.status 0 0 0xC40 ≠ 1 ∧ (jobbed { st := .done }).job 0 = { st := .done } ∧ jobKey 0 0 = 0) ∧
    (live.fetchHeld 0 0 = false ∧ live.job (jobKey 0 0) = {} ∧ live.jobInvalid 0 0 0 = true ∧ live.movedRef 0 0 0 = false) ∧
    (let j : Job := { st := .waiting, sb := 3 }; (jobbed j).job 0 = j ∧ (jobbed j).queueRoom 0 (scarabUnit 0 0) = true) ∧
    ((jobbed { st := .queued }).scarab 0).find? (fun k => !((jobbed { st := .queued }).job k).readAll) = some 0 ∧
    (let r : Rob := ⟨0, .zero, 0, 0, 0, 0, 0⟩; let s := jobbed { st := .running, rob := [r] }
     (s.scarab 0).find? (fun k => !(s.job k).rob.isEmpty) = some 0 ∧ (s.job 0).rob = r :: [] ∧ (s.job 0).headReady 0 r = true) ∧
    (let s := jobbed { st := .running, readAll := true }
     (s.scarab 0).find? (fun k => (s.job k).st = .running && (s.job k).readAll && (s.job k).rob.isEmpty && (s.job k).outQ.isEmpty && (s.job k).outs = 0) = some 0) ∧
    (let j : Job := { st := .done }; (jobbed j).scarab 0 = 0 :: [] ∧ j.ended = true ∧ j.acted = false ∧ sCmpl j.w = 0) := by decide +kernel

theorem test_meets_EdgeCommandsFlushAndPersist :
    (fld (live.edgeReg 0 0).toNat 63 60 ≠ 1 ∧ live.cellOk 0 = true ∧ live.cellOk 64 = false ∧ live.paired = false) ∧
    ({ live with mirror := { live.mirror with st := .paired } } : State).paired = true ∧
    (let c : EdgeCmd := ⟨0, 0, 1, []⟩; let s : State := { live with tiers := { live.tiers with cmds := [c] } }; s.tiers.cmds.find? (fun c => c.unit = 0) = some c) ∧
    (let c : EdgeCmd := ⟨8, 0, 1, []⟩; let s : State := { live with tiers := { live.tiers with cmds := [c] } }; s.tiers.cmds.find? (fun c => c.unit = 8 + 0) = some c) := by
  decide +kernel

/-- A read of tier 1's first line at its controller's edge, and its stage there. -/
def t1x (st : Stage) : Xact := { hit with ga := BitVec.ofNat 48 t1Base, loc := .t1 0, stage := st, unit := 256 }

/-- The running block with a part of the tiers changed; stack 0 is trained. -/
def tiered (f : Tiers → Tiers) : State := { live with tiers := f { live.tiers with ready := [0] } }

/-- A page buffer of T1C 0. -/
def buf0 (closing : Bool) (last : Nat) : PageBuf :=
  { unit := 0, page := 0, lines := [], have_ := 0, dirty := 0, whole := 0, last := last, closing := closing, decode := false }

theorem test_meets_T1RequestsTakeTheirWay :
    (let y := t1x .edgeIngress; let s := fly [y]
     s.xact 5 = some y ∧ y.isFill = false ∧ y.ready ≤ s.clk.now ∧ s.tiers.failedSt.contains 0 = false ∧ s.t1Retired 0 = false ∧ s.copyKept t1Base = false ∧ s.inTrace y.ga.toNat = false ∧
       s.behind y = false ∧ s.tierHold y = false ∧ s.pageWait (t1Stack 0) 0 false = false) ∧
    (let y : Xact := { t1x .edgeIngress with sched := true, flow := 3 }; let s : State := { determ 4800 with flight := [y] }
     s.xact 5 = some y ∧ s.determ = true ∧ s.sched.running = true ∧ s.flowSlots (t1Stack 0) (y.place.pc / 2) (y.place.pc % 2) y.flow.toNat = []) ∧
    (let s := tiered (fun t => { t with bufs := [buf0 false 4488] }); s.bufOf 0 0 = some (buf0 false 4488) ∧ s.decoding 0 0 = false ∧ 4488 + 512 ≤ s.clk.now) ∧
    (let s := tiered (fun t => { t with bufs := [buf0 true 4488] }); s.bufOf 0 0 = some (buf0 true 4488) ∧ (buf0 true 4488).dirty = 0) := by decide +kernel

theorem test_meets_T1SlotsRefreshAndTransfer :
    let s := tiered id
    s.tiers.ready.contains 0 = true ∧ s.t1Failed 0 0 = false ∧ ({ s with clk := { s.clk with now := 2304 } } : State).t1SlotNow = some 0 ∧
      s.t1Forced 0 0 0 = none ∧ s.t1Due 0 0 0 = none ∧ s.t1Kind 0 0 0 ≠ 1 ∧
    (let b : T1Bank := { row := some 3, hit := 4936, act := 0 }; let s := tiered (fun t => { t with banks := [(0, b)] })
     (s.t1Bank (bankKey 0 0 0)) = b ∧ b.hit + 64 ≤ s.clk.now ∧ b.act + s.t1T 2 ≤ s.clk.now) := by decide +kernel

theorem test_meets_T1DataReturnsAndDecodes :
    (live.t1Oldest 0 0 0 = none ∧ live.closeRead 0 0 0 = none) ∧
    (let x := t1x .outstanding; (fly [x]).t1Oldest (t1Stack 0) (x.place.pc / 2) (x.place.pc % 2) = some x ∧ live.quench.st ≠ 2 ∧ x.ready ≤ 5000) ∧
    ((tiered id).tiers.ready.contains 0 = true ∧ (1 : BitVec 2) ≠ 0 ∧ 2 * ceilDiv 0 2 ≤ (tiered id).pv 0x2400 0 ∧ Tbl.get (tiered id).tiers.ecs 0 0 < 1) ∧
    (let d : DecJob := { unit := 0, page := 0, flagged := 1, raw := [], req := none, due := 5000, walker := false }
     let s := tiered (fun t => { t with decs := [d] }); s.tiers.decs.find? (fun d => d.unit = 0) = some d ∧ d.due ≤ s.clk.now) := by decide +kernel

/-- Cartridge 0 in a state. -/
def cart0 (c : Cart) : State := tiered (fun t => { t with carts := [(0, c)] })

/-- A request at T2Q 0 for the first line of tier 2. -/
def t2x (st : Stage) (k : AccKind) : Xact := { hit with kind := k, ga := BitVec.ofNat 48 t2Base, loc := .t2 0 0, stage := st, unit := 264, mask := fullMask }

theorem test_meets_T2RequestsAreJudgedAndAnswered :
    (let y := t2x .edgeIngress .read; let s := { fly [y] with tiers := (cart0 { st := .trusted }).tiers }
     s.xact 5 = some y ∧ y.isFill = false ∧ y.inp < 6 ∧ s.behind y = false ∧ s.tierHold y = false ∧ (s.cart 0).st = .trusted ∧ s.t2Retired 0 0 = false) ∧
    (let y := t2x .controller .read; (fly [y]).xact 5 = some y ∧ y.inp < 7 ∧ (fly [y]).t2Free 0 = some 0) ∧
    (let y := t2x .outstanding .read; let s := fly [y]
     s.flight.find? (fun x => x.stage = .outstanding && x.half = .request && x.loc.unit = uT2 0 && x.dest = 0) = some y ∧ s.quench.st ≠ 2 ∧
       y.memWrNext true = false) ∧
    ((t2x .outstanding .write).memWrNext false = true) := by decide +kernel

theorem test_meets_CartridgesAttachLiveAndDetach :
    live.mayAttach 0 = true ∧ (cart0 { st := .trusted }).mayAttach 0 = false ∧ ((cart0 { st := .attaching }).cart 0).st = .attaching ∧
    ((cart0 { st := .untrusted }).cart 0).st = .untrusted ∧ (cart0 { st := .trusted }).stranded 0 = 0 ∧ (cart0 { st := .detaching }).cartBusy 0 = false ∧
    (let s : State := { cart0 { st := .attaching, attachAt := 0 } with clk := { live.clk with ts := 100000000 } }; 0 + msNs * s.pv 0x1025 0 ≤ s.clk.ts.toNat) := by
  decide +kernel

theorem test_meets_HeatPromotesAndDemotesBlocks :
    (let s : State := { cart0 {} with clk := { live.clk with ts := 100000 } }; (s.cart 0).lastDecay + usNs * s.pv 0x1150 0 ≤ s.clk.ts.toNat) ∧
    (let s := cart0 { st := .trusted, cands := [3] }; (s.cart 0).cands = 3 :: [] ∧ plProm (s.placeEnt 0 3) = false ∧ plBusy (s.placeEnt 0 3) = false ∧
      s.freeSlot = none ∧ s.coolest 0 = none) ∧
    (let s := cart0 { st := .trusted, moving := [(3, 1)] }; (s.cart 0).moving.find? (fun m => m.1 = 3 && m.2 ≠ 3) = some (3, 1) ∧ s.power.hold = false ∧
      s.blockBusy 0 3 = false) := by decide +kernel

/-- The running block with the Weevils' part changed and the time set. -/
def aged (ts : Dword) (f : Err → Err) : State := { live with err := f live.err, clk := { live.clk with ts := ts } }

theorem test_meets_WalkersReadAndWriteBack :
    (live.clockOf 0 = .live ∧ live.paced 0 hiveSpots = true ∧ live.domLive 0 (spotAt [] 0).dom = true ∧ live.bankIdle ((spotAt [] 0).loc 0) = true) ∧
    (let s : State := { live with mem := { live.mem with rows := [(0, { data := 1, cells := 7 })] } }
     (s.rowAt (s.rowPlace 0 0 0 0)).split = false ∧ (s.rowAt (s.rowPlace 0 0 0 0)).valid = true) ∧
    (let s := aged 0 (fun e => { e with wbs := [0] }); s.err.wbs.find? (fun k => wbHive k = 0) = some 0 ∧ s.hiveUp 0 = true ∧ s.bankIdle (s.wbLoc 0) = true) ∧
    ((tiered id).paced (bufUnit 0) (walkPages 0) = true ∧ (tiered id).t1Retired 0 = false ∧ (tiered id).pageWait 0 0 true = false ∧ (tiered id).decRoom 0 = true) ∧
    ((aged 0 (fun e => { e with walkers := [(0, { excess := some (7, 1) })] })).walker 0).excess = some (7, 1) := by decide +kernel

theorem test_meets_RowsAreRepairedAndStripesRetired :
    (live.isRetired 0 0 767 = false ∧ live.hiveUp 0 = true ∧ live.domOn 0 12 = true ∧ live.freeAt (Loc.row 0 0 767).arb ≤ live.clk.now ∧
      live.clearing (.row 0 0 767) = false ∧ live.determ = false) ∧
    (live.testSpares 0 0 0 0 (live.freeSpares 0 0 0)).2 = some 0 ∧
    (let g : Grace := { hive := 0, kind := 0, stripe := 3, due := 7 }; let s := aged 7 (fun e => { e with graces := [g] })
     s.err.graces.find? (fun g => g.hive = 0 && g.kind = 0 && g.stripe = 3) = some g ∧ g.due ≤ s.clk.ts.toNat) ∧
    (({ live with hives := { live.hives with clock := [] } } : State).hiveUp 0 = false ∧ live.spareFor 0 0 0 5 = none ∧ 5 < rowCount 0) := by decide +kernel

/-- A HIVE_POWER of 1 asks domain 1, in bits 1:0, for EMBER and the others for ON. -/
theorem test_meets_HivePowerWritesAreChecked :
    live.hiveUp 0 = true ∧ live.pwrBusy 0 = false ∧ live.logicBusy 0 = false ∧ live.segBusy 0 1 = false ∧ powerField 1 1 = 1 ∧ powerField 1 0 = 0 ∧
      (hv (fun v => { v with dom := [(0, { st := .on, target := .ember, phase := .draining })] })).pwrBusy 0 = true := by decide +kernel

theorem test_meets_WheelEntriesAreJudged :
    wheelValid true (2^51) = true ∧ wheelValid true (2^50 + 2^51) = false ∧ wheelNames 0 0 = true ∧ wheelNames (2^54 - 1) 7 = true := by decide +kernel

/-- The block at start-up, before any Hive is released. -/
def starting (f : Mgmt → Mgmt) : State := { State.reset with mgmt := f { State.reset.mgmt with por := false } }

theorem test_meets_SoftwareRetiresLocations :
    (rowCount 0 = 768 ∧ rowCount 1 = 192 ∧ rowCount 2 = 128 ∧ t1Stack 0 = 0 ∧ t1Stack (4096 * 1) = 1) ∧
    ((starting id).noHiveLive = true ∧ live.noHiveLive = false ∧ live.manifestBad [] = true ∧ live.err.tierRet.any (fun _ => true) = false ∧ live.inExtent 1 0 = false) ∧
    (let s : State := { live with mgmt := { live.mgmt with life := 1 } }; s.mgmt.wipe = false ∧ s.chkDenied 0 0 0 0 = false ∧ (s.rawSpot 0 0 0 0).isSome = true ∧
      s.rawSpot 7 0 0 0 = none ∧ s.power.hold = false) ∧ live.chkDenied 4 0 0 0 = true := by decide +kernel

/-- An MCTP message of the vendor 0 with an empty YPP header. -/
def message : List Byte := 0x7F :: List.replicate 36 0

/-- A YPP read of parameter 0x1000 that waits to run. -/
def yread : YReq :=
  { no := 0, path := .mctp 8, tag := 1, ic := false, op := 1, priv := 2, active := false, param := 0x1000, index := 0, offset := 0, want := 0, reqId := 5,
    payload := [], jseq := none, go := true }

theorem test_meets_RequestsArriveAndAreChecked :
    (live.yppUp = true ∧ bytesAt message 0 1 % 128 = 0x7F ∧ live.mctpHeld.length < 16 ∧ live.mbState 0 = 0 ∧ live.mirror.st ≠ .leaving) ∧
    (let s : State := { live with mgmt := { live.mgmt with slots := [(0, { st := 2 })] } }; s.mbState 0 = 2) ∧
    (live.stageA false yread = 0 ∧ (pdesc yread.param).isSome = true ∧ live.replaying = false ∧ pdesc 0x0FFF = none) := by decide +kernel

theorem test_meets_OperationsRunInOrder :
    let s : State := { live with mgmt := { live.mgmt with reqs := [yread], reqNo := 1 } }
    s.yppUp = true ∧ s.nextReq (.mctp 8) 1 = some yread ∧ yread.commit = false ∧ (pdesc 0x1000).isSome = true ∧ yread.desc.isSome = true ∧
      (match yread.desc with
       | some d => !s.denied d yread && s.feature d yread = 0
       | none => false) = true ∧ s.mgmt.wipe = false ∧ s.mgmt.por = false ∧
      (plainReg 0x100 = true ∧ (0x100 : Nat) % 8 = 0 ∧ live.flight = []) ∧
      (match pdesc 0x4051 with
       | some d => !d.roAt 0 && decide (0 < d.count) && !live.asleepElem d.num 0 && !live.notNow d 0 50 && !outOfRange d 0 50 && (live.storeOwn d.num 0 50).isNone
       | none => false) = true := by decide +kernel

/-- The running block whose pair is in a state. -/
def pairing (st : PairSt) (f : Mirror → Mirror) : State :=
  { live with mirror := f { live.mirror with st := st }, mgmt := { live.mgmt with vals := [(pkey 0x5000 0, 3)] } }

theorem test_meets_PairsJoinBeatAndFence :
    (let s := pairing .unpaired id; s.mirror.st = .unpaired ∧ s.pv 0x5000 0 ≤ 1023 ∧ 1023 < live.pv 0x5000 0) ∧
    (let s := pairing .paired id; s.paired = true ∧ s.mirror.fenceReq = false ∧ s.mirror.beatDue ≤ s.clk.now ∧ s.mframeOpen mline = true ∧
      mline.flags.getLsbD 0 = false) ∧
    (let s := pairing .paired (fun m => { m with fenceReq := true }); s.mirror.fenceReq = true) ∧
    (let s : State := { pairing .paired (fun m => { m with fenceReq := true }) with clk := { live.clk with ts := 80000 } }
     s.mirror.st ≠ .fenceWait ∧ s.mirror.fenceTs + usNs * s.pv 0x5002 0 ≤ s.clk.ts.toNat) ∧
    (pairing .solo (fun m => { m with replay := true })).mirror.replay = true ∧
    (let s : State := { pairing .paired id with clk := { live.clk with now := 67500 } }; s.mirror.lastHb + 67500 ≤ s.clk.now) := by decide +kernel

theorem test_meets_MirrorFramesApplyInOrder :
    let s := pairing .paired id
    (s.mframeOpen mline = true ∧ s.seqOpen = true ∧ s.power.hold = false ∧ s.mirror.heldIn = [] ∧ mline.seq.toNat = s.mirror.expect ∧ live.seqOpen = false) ∧
    (let q := pairing .paired (fun m => { m with region := [(0, BitVec.ofNat 128 (2^125 + 2^36))] }); mrState (q.mregion 0) = 1) ∧
    (let q := pairing .paired (fun m => { m with expect := 3, ackSent := 0, ackSince := 4744 }); q.mirror.ackSent < q.mApplied ∧ q.mirror.ackSince + 256 ≤ q.clk.now) ∧
    (let q := pairing .paired (fun m => { m with flight := [⟨1, 4097, true, 0, 0⟩] }); q.mirror.throttle = false ∧ 4096 < q.lag) := by decide +kernel

theorem test_meets_MirrorRegionsSeedAndRestore :
    (let q := pairing .paired (fun m => { m with region := [(0, BitVec.ofNat 128 (2^125 + 2^123 + 2^36))] })
     q.throttled 2 = false ∧ mrState (q.mregion 0) = 1 ∧ mrEn (q.mregion 0) = true ∧ (Tbl.get q.mirror.prog {} 0).next < 64 * mrPages (q.mregion 0) ∧
       q.fwdQueue (q.locate 0).unit < 1024 ∧ q.freeAt (q.locate 0).arb ≤ q.clk.now) ∧
    (let q := pairing .restoring (fun m => { m with reserve := [(0, BitVec.ofNat 128 (5 * 2^125 + 2^36))] }); mrState (q.mreserve 0) = 5 ∧ q.mayMirror = true) ∧
    mrState (live.mreserve 0) < 2 ∧ live.regionFits 0 1 = true ∧ live.paired = false := by decide +kernel

theorem test_meets_JournalAndReplayGoOn :
    (let s : State := { live with journal := { live.journal with pending := [(0, .none)] } }
     s.journal.pending.find? (fun p => p.1 = 0) = some (0, .none) ∧ s.jWaits 0 = false ∧ s.power.hold = false) ∧
    (live.journal.tail = 0 ∧ live.journal.head = 0 ∧ live.replayDue = none ∧ (live.yreq 0).isNone = true) ∧
    (let s : State := { live with journal := { live.journal with recState := 1, recBuf := [BitVec.ofNat 128 (6 * 2^124)] }, mgmt := { live.mgmt with vals := [(pkey 0x5500 0, 2)] } }
     s.replaying = true ∧ (s.replayDue.map (fun e => (e.kind, e.unit, e.tag))) = some (6, 0, 0)) := by decide +kernel

/-- The running block with the power controller's part changed and the time set. -/
def powered (ts hnow : Nat) (f : Power → Power) : State := { live with power := f live.power, clk := { live.clk with ts := BitVec.ofNat 64 ts, hnow := hnow } }

theorem test_meets_PowerControllerRuns :
    ((powered 0 200 id).power.winAt + 200 ≤ (powered 0 200 id).clk.hnow ∧ (powered 0 199 id).clk.hnow < 200) ∧
    (live.power.tlost.contains 0 = false ∧ Tbl.get live.power.lastSmp 0 0 + 800 ≤ (powered 0 800 id).clk.hnow) ∧
    ((powered 0 0 (fun p => { p with divRun := 8 })).pv 0x4005 0 ≤ 8 ∧ (16 ≤ (powered 0 0 (fun p => { p with over15 := 16 })).power.over15)) ∧
    (3600 * secNs * live.pv 0x4071 0 ≤ 90000000000000 ∧ live.pv 0x4072 0 ≤ 25 ∧ live.power.droops ≤ live.pv 0x4073 0 ∧ 15 < live.margin) ∧
    (live.stretch = 0 ∧ live.power.marginAt = 0 ∧ 2 * 12 < live.pv 0x4072 0 ∧ live.margin = 45) := by decide +kernel

theorem test_meets_SupplyDroopAndDomainsAct :
    (let s : State := { live with clk := { live.clk with droop := 3, droopAt := 5000 } }; s.clk.droop ≠ 0 ∧ s.clk.droopAt ≤ s.clk.now) ∧
    (let s : State := { live with mgmt := { live.mgmt with vals := [(pkey 0x4050 0, 1000)] } }; s.pv 0x4050 0 ≠ 0 ∧ 100 * 939 < 94 * s.pv 0x4050 0 ∧
      s.replaying = false ∧ s.power.hold = false) ∧
    (let s := powered 50000 0 (fun p => { p with hold := true, holdLim := 50000 }); s.power.hold = true ∧ s.power.holdAt + s.power.holdLim ≤ s.clk.ts.toNat) ∧
    (let s := hv (fun v => { v with dom := [(1, { st := .on, target := .cold, phase := .draining })] }); (s.domain 0 1).phase = .draining ∧ s.domBusy 0 1 = false) ∧
    (let s := hv (fun v => { v with dom := [(1, { st := .cold, target := .on, phase := .waking 0 })] }); (s.domain 0 1).phase = .waking 0 ∧ (s.domain 0 1).st = .cold) := by
  decide +kernel

theorem test_meets_SnapshotsAndTraceRun :
    (live.count.frozen = false ∧ live.count.pend = none ∧ ({ live with count := { live.count with pend := some 5000 } } : State).count.pend = some 5000) ∧
    (let s : State := { waiting 1 false [] with clk := { live.clk with now := 65672 } }; ((s.openWaits 0).find? (fun w => w.id = 2^32)).isSome = true ∧
      136 + s.pv 0x6007 0 ≤ s.clk.now) ∧
    (let s : State := { live with trace := { live.trace with apps := [(0, { staged := [1], since := 4744 })] } }; (s.app 0).staged.length = 1 ∧ (s.app 0).since + 256 ≤ s.clk.now) ∧
    (let s : State := { live with trace := { live.trace with fires := [(0, 4992, 0)] } }; s.trace.fires.find? (fun f => f.1 = 0) = some (0, 4992, 0) ∧ fld (s.trigger 0) 62 61 = 0 ∧
      4992 + 8 ≤ s.clk.now) := by decide +kernel

theorem test_meets_ClocksGraphAndQuenchAct :
    (live.mgmt.por = false ∧ live.trace.wfgBusy ≠ 1 ∧ live.frameOpen line = true) ∧
    (let s : State := { live with mgmt := { live.mgmt with vals := [(pkey 0x6061 0, 1), (pkey 0x6063 0, 9)] } }; s.pv 0x6061 0 = 1 ∧ s.pv 0x6063 0 ≠ 0 ∧ s.replaying = false) ∧
    (let s : State := { live with fxps := { live.fxps with probe := [(0, 3)] } }; s.mirror.st ≠ .fenced ∧ s.probeRoll.fxps.probe.contains (0, 3) = true) ∧
    (live.quench.st = 0 ∧ ({ live with quench := { live.quench with st := 1, at_ := 5000 } } : State).quench.at_ ≤ live.clk.now) ∧
    ((tiered id).tiers.ready.contains 0 = true) := by decide +kernel

theorem test_meets_ResetsAndLifecycle :
    State.reset.mgmt.por = true ∧ live.mgmt.wrst = false ∧ ({ live with mgmt := { live.mgmt with wrst := true } } : State).mgmt.wrst = true ∧
    ((2 : BitVec 2).toNat ≠ live.mgmt.seen ∧ live.mgmt.life ≠ 3 ∧ lifeOf 3 = 3 ∧ true ≠ live.mgmt.auth) := by decide +kernel

theorem test_meets_StartUpRunsItsPhases :
    ((starting id).mgmt.phase = 0 ∧ (starting (fun m => { m with phase := 1, imgSt := 2 })).mgmt.imgSt = 2 ∧ (64 : BitVec 20).toNat = 64) ∧
    (let s := starting (fun m => { m with imgSt := 1, imgSize := 64, image := natBytes 64 0 }); s.mgmt.imgSt = 1 ∧ s.mgmt.image.length = s.mgmt.imgSize ∧
      bytesAt s.mgmt.image 8 4 ≠ s.mgmt.imgSize) ∧
    (let s := starting (fun m => { m with phase := 2 }); s.mgmt.phase = 2 ∧ s.mgmt.wrst = false ∧ s.mgmt.railLow = false) ∧
    (let s : State := { live with mgmt := { live.mgmt with phase := 4 }, tiers := { live.tiers with ready := [0], failedSt := [1, 2, 3, 4, 5, 6, 7] } }
     8 ≤ s.tiers.ready.length + s.tiers.failedSt.length ∧ s.tiers.ready ≠ [] ∧ s.power.hold = false) ∧
    (let s : State := { live with tiers := { live.tiers with trainReq := true } }; s.training 0 = true) ∧ live.training 0 = false := by decide +kernel

/-! ### Worked examples of the spec -/

/-- 02_hives_and_hierarchy.md after R26: local 0x1A_7C48 is stripe 423, bank 49; the tables' bounds of R26 are met at their last line. -/
theorem test_hive_layout : hiveLoc 3 0x1A7C48 = .row 3 49 423 ∧ hiveLoc 0 0x2FFFC0 = .row 0 63 767 ∧ hiveLoc 0 0x300000 = .mat 0 0 0 ∧
    hiveLoc 0 0x330000 = .vec 0 0 0 ∧ hiveLoc 0 0x340000 = .hole 0 := by decide +kernel

/-- 02_hives_and_hierarchy.md after R44, C = 256: pool offset 0x12_3456 lies in Hive 84 at local 0x20_1456, bank 17, row 513. -/
theorem test_pool_hash : poolHash 256 0x123456 = (84, 0x201456) ∧ hiveLoc 84 0x201456 = .row 84 17 513 := by decide +kernel

/-- 09_external_tiers.md after R248: the page, line, stack and place of GA 0x0080_1234_5680 in the default region. -/
theorem test_stack_hash : live.locate 0x008012345680 = .t1 (76970 * 4096 + 46 * 64) ∧ t1Stack (76970 * 4096) = 3 ∧
    t1Hash (76970 * 4096 + 46 * 64) = { k := 3, pc := 8, bank := 9, row := 37, col := 6 } := by decide +kernel

/-- 10_integrity_and_repair.md, the table Error injection: one data bit, two data bits, one check bit. -/
theorem test_granule_code : checkByte 1 = 0x07 ∧ decodeGran 1 0x07 = .clean ∧ decodeGran 0x21 0x07 = .corr 1 0x15 ∧ decodeGran 2 0x07 = .bad 0x0C ∧
    decodeGran 1 0x0F = .corr 1 0x08 := by decide +kernel

/-- 07_near_memory_arithmetic.md, the table ACC results worked once. -/
theorem test_acc_pairs : pairAdd 1 0x3F800000 0x33800000 = 0x3F800000 ∧ pairAdd 2 0x4380 0x3F80 = 0x4380 ∧ pairAdd 3 0x4380 0x3F800001 = 0x4380 ∧
    pairAdd 1 0x7F800000 0xFF800000 = 0x7FC00000 ∧ pairAdd 4 0x7FFFFFFF 1 = 0x80000000 ∧ pairAdd 5 0x7FFFFFFF 1 = 0x7FFFFFFF := by decide +kernel

/-- 07_near_memory_arithmetic.md, bag 7 of the worked job: 2^24 + 1 + 1 in index order stays 2^24. -/
theorem test_bag_in_index_order : add32 (add32 0x4B800000 0x3F800000) 0x3F800000 = 0x4B800000 := by decide +kernel

/-- 06_tiles_and_dma.md, the table Conversions worked once: FP32 to E4M3 without and with sat. -/
theorem test_to_e4m3 :
    (e4m3.encode false (fp32.decode 0x3E99999A) = 0x2A ∧ e4m3.encode true (fp32.decode 0x3E99999A) = 0x2A) ∧
    (e4m3.encode false (fp32.decode 0x43FA0000) = 0x7F ∧ e4m3.encode true (fp32.decode 0x43FA0000) = 0x7E) ∧
    (e4m3.encode false (fp32.decode 0x3B000000) = 0x01 ∧ e4m3.encode true (fp32.decode 0x3B000000) = 0x01) ∧
    (e4m3.encode false (fp32.decode 0xFF800000) = 0xFF ∧ e4m3.encode true (fp32.decode 0xFF800000) = 0xFE) := by decide +kernel

/-- 06_tiles_and_dma.md, the table Conversions worked once: the two MXFP4 blocks. -/
theorem test_to_mxfp4 :
    mxBlock 0xC [fp32.decode 0x40A33333, fp32.decode 0x3F333333, fp32.decode 0xC019999A] = (0x7F, [0x7, 0x1, 0xC]) ∧
    mxBlock 0xC [fp32.decode 0x3DB851EC] = (0x79, [0x7]) := by decide +kernel

/-- 08_memory_model_and_sync.md after R235: MASK 0b111, generation 40; participants 0, 1, 0 again and 2 arrive. -/
theorem test_barrier_reentry :
    let s := hv (fun v => { v with barriers := [(0, { mask := 7, gen := 40 })] })
    let p : Party := { chip := 0, unit := 0 }
    let t := ((s.arrive 0 0 0 p).arrive 0 0 1 p).arrive 0 0 0 p
    let u := t.arrive 0 0 2 p
    ((t.barrier 0 0).arrived = 3 ∧ (t.barrier 0 0).held = 1 ∧ (t.barrier 0 0).gen = 40) ∧
    ((u.barrier 0 0).arrived = 1 ∧ (u.barrier 0 0).held = 0 ∧ (u.barrier 0 0).gen = 41) := by decide +kernel

/-- 11_mirrored_pairs_and_journal.md, Heartbeat, fence and failover: a loss takes three intervals of R319's 22,500 cycles; one cycle before that, none. -/
theorem test_heartbeat_boundary : exec .heartbeatTimeout { pairing .paired id with clk := { live.clk with now := 67499 } } =
    .next { pairing .paired id with clk := { live.clk with now := 67499 } } := rfl

/-- The queue: a step takes the front command only. -/
theorem test_step_takes_front : step { live with pending := [.thaw, .snap] } = .next { live with pending := [.snap] } := rfl

end Sys2Proof.Tests
end

section
/-!
SUPPORT. Requests at a T1C and the closing of page buffers (R23, R98, R252, R256 to R258, R261): what `t1Sched`, `t1Take` and `codedWrite` do,
case by case, and what a buffer's idle close and end of close do.
-/
namespace Sys2Proof.Machine

/-! ### A SCHED request and the wheel (R98, R252) -/

theorem State.t1Sched_dynamic {s : State} {x : Xact} {k : Nat} (h : x.sched = false) : s.t1Sched x k = (s, x) := by
  simp [State.t1Sched, h]

theorem State.t1Sched_notDeterm {s : State} {x : Xact} {k : Nat} (h : x.sched = true) (hd : s.determ = false) :
    s.t1Sched x k = (s, { x with sched := false }) := by
  simp [State.t1Sched, h, hd]

theorem State.t1Sched_noEpoch {s : State} {x : Xact} {k : Nat} (h : x.sched = true) (hd : s.determ = true) (hr : s.sched.running = false) :
    (s.t1Sched x k).2 = x.missed s.clk.now s.clk.count0 := by
  simp [State.t1Sched, h, hd, hr]

theorem State.t1Sched_noSlot {s : State} {x : Xact} {k : Nat} (h : x.sched = true) (hd : s.determ = true) (hr : s.sched.running = true)
    (hw : s.flowSlots k (x.place.pc / 2) (x.place.pc % 2) x.flow.toNat = []) :
    s.t1Sched x k = (s.mismatch (uT1 k) 4 x.layer.toNat x.operator.toNat, { x with sched := false }) := by
  simp [State.t1Sched, h, hd, hr, hw]

/-- Whatever the wheel makes of a request, it stays a request for its line. -/
theorem State.t1Sched_tn (s : State) (x : Xact) (k : Nat) : (s.t1Sched x k).2.tn = x.tn := by
  unfold State.t1Sched
  dsimp only
  (repeat' split) <;> rfl

/-! ### A write to a coded page (R257) -/

section
variable {s : State} {x : Xact} {u wait : Nat}

theorem State.codedWrite_noBuffer (hb : (s.bufGet u (x.tn / 64)).2 = false) :
    s.codedWrite x u wait = (s.bufGet u (x.tn / 64)).1.setX { x with stage := .pageBuffer, unit := bufUnit u, since := s.clk.now } := by
  simp [State.codedWrite, hb]

theorem State.codedWrite_wholeLine (hb : (s.bufGet u (x.tn / 64)).2 = true) (hk : x.kind = .write) (hm : x.mask = fullMask) :
    s.codedWrite x u wait = (s.bufGet u (x.tn / 64)).1.bufApply x u 0 wait := by
  simp [State.codedWrite, hb, hk, hm]

theorem State.codedWrite_heldLine {l : Line} (hb : (s.bufGet u (x.tn / 64)).2 = true) (hp : ¬(x.kind = .write ∧ x.mask = fullMask))
    (hl : ((s.bufGet u (x.tn / 64)).1.bufOf u (x.tn / 64)).bind (fun b => b.line (x.tn % 64)) = some l) :
    s.codedWrite x u wait = (s.bufGet u (x.tn / 64)).1.bufApply x u l wait := by
  simp [State.codedWrite, hb, hp, hl]

theorem State.codedWrite_readsLine (hb : (s.bufGet u (x.tn / 64)).2 = true) (hp : ¬(x.kind = .write ∧ x.mask = fullMask))
    (hl : ((s.bufGet u (x.tn / 64)).1.bufOf u (x.tn / 64)).bind (fun b => b.line (x.tn % 64)) = none) :
    s.codedWrite x u wait = (s.bufGet u (x.tn / 64)).1.setX
      { x with stage := .controller, unit := bufUnit u, since := s.clk.now, ready := s.clk.now + 4 } := by
  simp [State.codedWrite, hb, hp, hl]

end

/-! ### A request at the edge link of a T1C -/

/-- The stack failed, or the place is retired, kept for a copy or in the trace extent: the request is refused (R23, R261). -/
def State.t1Shut (s : State) (x : Xact) (k : Nat) : Prop :=
  s.tiers.failedSt.contains k = true ∨ s.t1Retired (64 * x.tn) = true ∨ s.copyKept x.ga.toNat = true ∨
    (x.purpose ≠ .observe ∧ s.inTrace x.ga.toNat = true)

/-- Request x to line n after the refusals and holds of `t1Take` and its match with the wheel (`t1Take_passes`). -/
def State.t1Pass (s : State) (x : Xact) (k n : Nat) (coded : Prop) [Decidable coded] : State :=
  if x.sched then
    if isWr x.kind && decide coded then
      match s.seqStep x k with
      | some q => ((s.dropBuf k (n / 64)).setSeq q).t1Stage { x with inp := 1 } k
      | none => s
    else s.t1Stage x k
  else if s.pageWait k (n / 64) (isWr x.kind) then s
  else if isWr x.kind then
    if coded then s.codedWrite x k 7
    else s.setX { x with stage := .controller, unit := uT1 k, since := s.clk.now, ready := s.clk.now + 4 }
  else match (s.bufOf k (n / 64)).bind (fun b => b.line (n % 64)) with
    | some l => s.tierData x (uT1 k) l (s.linePoison 1 n) 11
    | none => s.setX { x with stage := .controller, unit := uT1 k, since := s.clk.now, ready := s.clk.now + 4 }

section
variable {s : State} {x : Xact} {k : Nat}

theorem State.t1Take_shut (h : s.t1Shut x k) : s.t1Take x k = (s.t1Void x k).refuseAt x (uT1 k) 0x14 := by
  unfold State.t1Take
  refine if_pos ?_
  simpa [State.t1Shut, or_assoc] using h

theorem State.t1Take_held (h : ¬s.t1Shut x k) (hh : s.behind x = true ∨ s.tierHold x = true) : s.t1Take x k = s := by
  unfold State.t1Take
  rw [if_neg (by simpa [State.t1Shut, or_assoc] using h), if_pos (by simpa using hh)]

theorem State.t1Take_passes (h : ¬s.t1Shut x k) (hb : s.behind x = false) (hh : s.tierHold x = false) :
    s.t1Take x k = ((s.t1Sched x k).1.setX (s.t1Sched x k).2).t1Pass (s.t1Sched x k).2 k x.tn (s.strength 1 (64 * x.tn) ≠ 0) := by
  unfold State.t1Take
  rw [if_neg (by simpa [State.t1Shut, or_assoc] using h), if_neg (by simp [hb, hh])]
  rfl

theorem State.t1Void_live (h : ¬(x.sched = true ∧ s.t1Failed k (x.place.pc / 2) = true)) : s.t1Void x k = s := by
  simp [State.t1Void, h]

theorem State.t1Void_missed (h : x.sched = true ∧ s.t1Failed k (x.place.pc / 2) = true) :
    s.t1Void x k = s.slotMiss (256 + 32 * k + x.place.pc / 2) 12 0 (0x900 + 32 * k + x.place.pc / 2) x.core.1 x.core.2 x.flow.toNat
      x.layer.toNat x.operator.toNat := by
  simp [State.t1Void, h]

end

section
variable {s : State} {x : Xact} {k n : Nat} {coded : Prop} [Decidable coded]

theorem State.t1Pass_staged (h : x.sched = true) (hw : isWr x.kind = false ∨ ¬coded) : s.t1Pass x k n coded = s.t1Stage x k := by
  rcases hw with hw | hw <;> simp [State.t1Pass, h, hw]

theorem State.t1Pass_sequence {q : SeqPage} (h : x.sched = true) (hw : isWr x.kind = true) (hc : coded) (hq : s.seqStep x k = some q) :
    s.t1Pass x k n coded = ((s.dropBuf k (n / 64)).setSeq q).t1Stage { x with inp := 1 } k := by
  simp [State.t1Pass, h, hw, hc, hq]

theorem State.t1Pass_waits (h : x.sched = false) (hp : s.pageWait k (n / 64) (isWr x.kind) = true) : s.t1Pass x k n coded = s := by
  simp [State.t1Pass, h, hp]

theorem State.t1Pass_writeOff (h : x.sched = false) (hp : s.pageWait k (n / 64) (isWr x.kind) = false) (hw : isWr x.kind = true)
    (hc : ¬coded) : s.t1Pass x k n coded =
      s.setX { x with stage := .controller, unit := uT1 k, since := s.clk.now, ready := s.clk.now + 4 } := by
  rw [State.t1Pass, hp]
  simp [h, hw, hc]

theorem State.t1Pass_writeCoded (h : x.sched = false) (hp : s.pageWait k (n / 64) (isWr x.kind) = false) (hw : isWr x.kind = true)
    (hc : coded) : s.t1Pass x k n coded = s.codedWrite x k 7 := by
  rw [State.t1Pass, hp]
  simp [h, hw, hc]

theorem State.t1Pass_readHeld {l : Line} (h : x.sched = false) (hp : s.pageWait k (n / 64) (isWr x.kind) = false) (hw : isWr x.kind = false)
    (hl : (s.bufOf k (n / 64)).bind (fun b => b.line (n % 64)) = some l) :
    s.t1Pass x k n coded = s.tierData x (uT1 k) l (s.linePoison 1 n) 11 := by
  rw [State.t1Pass, hp]
  simp [h, hw, hl]

theorem State.t1Pass_readQueued (h : x.sched = false) (hp : s.pageWait k (n / 64) (isWr x.kind) = false) (hw : isWr x.kind = false)
    (hl : (s.bufOf k (n / 64)).bind (fun b => b.line (n % 64)) = none) :
    s.t1Pass x k n coded = s.setX { x with stage := .controller, unit := uT1 k, since := s.clk.now, ready := s.clk.now + 4 } := by
  rw [State.t1Pass, hp]
  simp [h, hw, hl]

end

/-- T1_REQUEST of a request that has come to its T1C, or waits there for a buffer, is `t1Take` of it. -/
theorem exec_t1Request_eq {s : State} {n raw : Nat} {y : Xact} (hr : s.clk.rootOn = true) (hy : s.xact n = some y) (hl : y.loc = .t1 raw)
    (hq : y.half = .request) (hf : y.isFill = false) (hs : y.stage = .edgeIngress ∨ y.stage = .pageBuffer) (ht : y.ready ≤ s.clk.now) :
    exec (.t1Request n) s = .next (s.t1Take { y with stage := .edgeIngress } (t1Stack raw)) := by
  change execT1Request n s = _
  simp [execT1Request, hy, hl, hr, hq, hf, hs, ht]

/-! ### Closing page buffers (R246, R257) -/

section
variable {s : State} {u : Fin 12} {page : Nat} {b : PageBuf}

theorem exec_pageBufferIdleClose_idle (hr : s.clk.rootOn = true) (hb : s.bufOf u.val page = some b)
    (hi : b.closing = false ∧ s.decoding u.val page = false ∧ b.last + 512 ≤ s.clk.now) :
    exec (.pageBufferIdleClose u page) s = .next (s.setBuf { b with closing := true }) := by
  change execPageBufferIdleClose u page s = _
  simp [execPageBufferIdleClose, hb, hr, hi]

theorem exec_pageBufferIdleClose_busy (hb : s.bufOf u.val page = some b)
    (hi : ¬(b.closing = false ∧ s.decoding u.val page = false ∧ b.last + 512 ≤ s.clk.now)) :
    exec (.pageBufferIdleClose u page) s = .next s := by
  change execPageBufferIdleClose u page s = _
  rw [execPageBufferIdleClose, hb]
  refine congrArg _ (if_neg fun h => hi ?_)
  simp only [Bool.and_eq_true, Bool.not_eq_true', decide_eq_true_eq] at h
  obtain ⟨⟨⟨-, hc⟩, hd⟩, ht⟩ := h
  exact ⟨hc, hd, ht⟩

theorem exec_pageBufferCloseDone_clean (hr : s.clk.rootOn = true) (hb : s.bufOf u.val page = some b) (hc : b.closing = true)
    (hd : s.decoding u.val page = false) (hz : b.dirty = 0) : exec (.pageBufferCloseDone u page) s = .next (s.dropBuf u.val page) := by
  change execPageBufferCloseDone u page s = _
  simp [execPageBufferCloseDone, hb, hr, hc, hd, hz]

theorem exec_pageBufferCloseDone_held (hb : s.bufOf u.val page = some b) (hz : b.dirty ≠ 0#64) (hh : s.power.hold = true) :
    exec (.pageBufferCloseDone u page) s = .next s := by
  change execPageBufferCloseDone u page s = _
  simp [execPageBufferCloseDone, hb, hz, hh]

/-- The close of a dirty buffer of a T1C ends in one command, its reads and writes with it (log entry 63). -/
theorem exec_pageBufferCloseDone_dirty (hr : s.clk.rootOn = true) (hb : s.bufOf u.val page = some b) (hc : b.closing = true)
    (hd : s.decoding u.val page = false) (hz : b.dirty ≠ 0#64) (hh : s.power.hold = false) (hu : u.val < 8) :
    exec (.pageBufferCloseDone u page) s = .next
      (((((s.cadd 0x6300 (8 * u.val) b.transfers.1).cadd 0x6300 (8 * u.val + 1) b.transfers.2).cadd 0x6300
        (8 * u.val + (if b.dirty = dataMask then 2 else 3)) 1).storePage 1 page (s.bufImage b).1 (s.bufImage b).2).dropBuf u.val page) := by
  change execPageBufferCloseDone u page s = _
  have htier : tierOf u.val = 1 := if_pos hu
  simp [execPageBufferCloseDone, hb, hr, hc, hd, hz, hh, htier]

end

/-- Settles O33: `t1Take` refuses, holds or passes a request (`t1Take_shut`, `t1Take_held`, `t1Take_passes`); past the holds each clause is one
branch of `t1Pass`, and of `codedWrite` for a dynamic write of a coded page. -/
theorem t1RequestsTakeTheirWay : Obligations.T1RequestsTakeTheirWay := by
  unfold Obligations.T1RequestsTakeTheirWay
  intro s hr
  refine ⟨?_, fun u page b hb => ⟨exec_pageBufferIdleClose_idle hr hb, exec_pageBufferIdleClose_busy hb,
    fun ⟨hc, hd, hz⟩ => exec_pageBufferCloseDone_clean hr hb hc hd hz, fun _ _ hz hh => exec_pageBufferCloseDone_held hb hz hh,
    fun hc hd hz hh hu => exec_pageBufferCloseDone_dirty hr hb hc hd hz hh hu⟩⟩
  intro n y raw hy hl hq hf hs ht k x0 line coded gone dead go m x v queue
  have hgo : go = .next (s.t1Take x0 k) := exec_t1Request_eq hr hy hl hq hf hs ht
  refine ⟨fun hg hd => ?_, fun hg hd => ?_, fun hg hh => ?_, State.t1Sched_dynamic (x := x0), State.t1Sched_notDeterm (x := x0),
    State.t1Sched_noEpoch (x := x0), State.t1Sched_noSlot (x := x0), fun hg hb hh => ?_⟩
  · rw [hgo, State.t1Take_shut (x := x0) hg, State.t1Void_live (x := x0) hd]
  · rw [hgo, State.t1Take_shut (x := x0) hg, State.t1Void_missed (x := x0) hd]
    rfl
  · rw [hgo, State.t1Take_held (x := x0) hg hh]
  have hpass : go = .next (v.t1Pass x k line coded) := hgo.trans (congrArg _ (State.t1Take_passes hg hb hh))
  have hline : x.tn = line := State.t1Sched_tn s x0 k
  refine ⟨fun hsch hw => ?_, fun q hsch hw hc hseq => ?_, fun hdyn =>
    ⟨fun hwait => ?_, fun hwait => ⟨fun hw hc => ?_, fun hw hc => ?_, fun hw => ?_⟩⟩⟩
  · rw [hpass, State.t1Pass_staged hsch hw]
  · rw [hpass, State.t1Pass_sequence hsch hw hc hseq]
  · rw [hpass, State.t1Pass_waits hdyn hwait]
  · rw [hpass, State.t1Pass_writeOff hdyn hwait hw hc]
  · have hwrite : go = .next (v.codedWrite x k 7) := hpass.trans (congrArg _ (State.t1Pass_writeCoded hdyn hwait hw hc))
    rw [← hline]
    refine ⟨fun hp => ?_, fun hp hk hm => ?_, fun hp hpart => ?_⟩
    · rw [hwrite, State.codedWrite_noBuffer hp]
    · rw [hwrite, State.codedWrite_wholeLine hp hk hm]
    · cases hbuf : ((v.bufGet k (x.tn / 64)).1.bufOf k (x.tn / 64)).bind (fun b => b.line (x.tn % 64)) with
      | some l => rw [hwrite, State.codedWrite_heldLine hp hpart hbuf]
      | none => rw [hwrite, State.codedWrite_readsLine hp hpart hbuf]
  · cases hbuf : (v.bufOf k (line / 64)).bind (fun b => b.line (line % 64)) with
    | some l => rw [hpass, State.t1Pass_readHeld hdyn hwait hw hbuf]
    | none => rw [hpass, State.t1Pass_readQueued hdyn hwait hw hbuf]

end Sys2Proof.Machine
end

section
/-!
SUPPORT. The registers of a DMA channel (R144 to R148, R175, R178): what a channel command, a fetch and the end of a drain do, case by case.
-/
namespace Sys2Proof.Machine

/-! ### A channel's state and its setter -/

@[simp] theorem State.chan_setChan (s : State) (h k : Nat) (c : Chan) : (s.setChan h k c).chan h k = c := Tbl.get_set_same _ _ _ _

theorem State.wakeHive_chans (s : State) (g : Nat) : (s.wakeHive g).chans = s.chans :=
  Keeps.same_chans (pm := { cmdParts.all with chans := false }) (by apply @State.wakeHive_keeps <;> first | exact Keeps.refl _ _ | rfl) rfl
theorem State.wakeHive_mgmt (s : State) (g : Nat) : (s.wakeHive g).mgmt = s.mgmt :=
  Keeps.same_mgmt (pm := { cmdParts.all with mgmt := false }) (by apply @State.wakeHive_keeps <;> first | exact Keeps.refl _ _ | rfl) rfl
theorem State.wakeHive_nextId (s : State) (g : Nat) : (s.wakeHive g).nextId = s.nextId :=
  Keeps.same_nextId (pm := { cmdParts.all with nextId := false }) (by apply @State.wakeHive_keeps <;> first | exact Keeps.refl _ _ | rfl) rfl
theorem State.wakeHive_chan (s : State) (g h k : Nat) : (s.wakeHive g).chan h k = s.chan h k := by
  unfold State.chan
  rw [State.wakeHive_chans]
theorem State.wakeHive_chCtx (s : State) (g h k : Nat) : (s.wakeHive g).chCtx h k = s.chCtx h k := by
  unfold State.chCtx State.pv
  rw [State.wakeHive_mgmt]

/-! ### A register reaches its channel (R145) -/

/-- PAUSE at a channel that it reaches (R178). -/
def State.chanPause (s : State) (h k : Nat) : State :=
  if (s.chan h k).st = .run then (s.setChan h k { s.chan h k with pausing := true }).pauseTry h k else s

/-- CONTINUE at a channel that it reaches (R178). -/
def State.chanContinue (s : State) (h k : Nat) : State :=
  if (s.chan h k).st = .paused then (s.setChan h k { s.chan h k with st := .run }).chanFetch h k else s

/-- A channel command of an owner whose accesses nothing keeps acts at once, on a Hive that it wakes. -/
theorem State.chanCmd_free {s : State} {h : HiveId} {k : ChanId} {o : CtxId} (ho : s.chCtx h.val k.val = o.val) (hf : s.cmdFree h o) (i : Instr)
    (go : State → State) : s.chanCmd h.val k.val i go = go (s.wakeHive h.val) := by
  unfold State.chanCmd
  rw [ho, hf.go]
  exact if_pos hf.1

section
variable {s : State} {h : HiveId} {k : ChanId} {o : CtxId} (ho : s.chCtx h.val k.val = o.val) (hf : s.cmdFree h o)
include ho hf

theorem exec_chanEnable_free : exec (.chanEnable h k) s = .next ((s.wakeHive h.val).chanEnable h.val k.val) :=
  congrArg _ (State.chanCmd_free ho hf (.chanEnable h k) (fun s => s.chanEnable h.val k.val))

theorem exec_chanDisable_free : exec (.chanDisable h k) s = .next ((s.wakeHive h.val).chanDisable h.val k.val) :=
  congrArg _ (State.chanCmd_free ho hf (.chanDisable h k) (fun s => s.chanDisable h.val k.val))

theorem exec_ringTailWrite_free (v : BitVec 16) : exec (.ringTailWrite h k v) s = .next ((s.wakeHive h.val).tailWrite h.val k.val v.toNat) :=
  congrArg _ (State.chanCmd_free ho hf (.ringTailWrite h k v) (fun s => s.tailWrite h.val k.val v.toNat))

theorem exec_chanResume_free : exec (.chanResume h k) s = .next ((s.wakeHive h.val).chanResume h.val k.val) :=
  congrArg _ (State.chanCmd_free ho hf _ _)

theorem exec_chanSkip_free : exec (.chanSkip h k) s = .next ((s.wakeHive h.val).chanSkip h.val k.val) :=
  congrArg _ (State.chanCmd_free ho hf _ _)

theorem exec_chanAbort_free : exec (.chanAbort h k) s = .next ((s.wakeHive h.val).chanAbort h.val k.val) :=
  congrArg _ (State.chanCmd_free ho hf _ _)

theorem exec_chanPause_free : exec (.chanPause h k) s = .next ((s.wakeHive h.val).chanPause h.val k.val) :=
  congrArg _ (State.chanCmd_free ho hf (.chanPause h k) (fun s => s.chanPause h.val k.val))

theorem exec_chanContinue_free : exec (.chanContinue h k) s = .next ((s.wakeHive h.val).chanContinue h.val k.val) :=
  congrArg _ (State.chanCmd_free ho hf (.chanContinue h k) (fun s => s.chanContinue h.val k.val))

end

/-! ### The read of a ring slot and the fetch (R146 to R148) -/

/-- The read of ring slot i of a channel that stands as `c`, for context `ctx`: the channel halts where the ring's handle refuses it. -/
def State.slotRead (s : State) (h k ctx : Nat) (c : Chan) (i : Nat) : State :=
  match s.checkHandle h ctx c.ringRef.toNat true false (some (c.slotOff i, c.slotOff i + 63)) with
  | some f => s.chanHandleHalt h k i f (s.refGa h ctx c.ringRef.toNat (c.slotOff i))
  | none => s.chanReq h k (s.refGa h ctx c.ringRef.toNat (c.slotOff i)) .read 0 fullMask 0 0 .ringFetch i

/-- What keeps a channel from fetching its next slot. -/
def State.chanHeld (s : State) (h k : Nat) : Prop :=
  let c := s.chan h k
  s.ctlOpen h = false ∨ c.en = false ∨ c.st ≠ .run ∨ c.pausing = true ∨ c.next = c.tail ∨ (∃ d ∈ c.descs, d.sentAll = false) ∨
    s.fetchHeld h (s.chCtx h k) = true ∨ s.jFull = true ∨ (c.fenceWait = true ∧ c.descs ≠ []) ∨ s.tagFree h 3 k = false ∨ s.throttled 0 = true ∨
    s.movedRef h (s.chCtx h k) c.ringRef.toNat = true

/-- The channel with its next slot among the descriptors under way. -/
def Chan.fetched (c : Chan) : Chan := { c with descs := c.descs ++ [{ idx := c.next.toNat }], next := c.next + 1, fenceWait := false, desc := c.next }

theorem State.chanFetch_eq (s : State) (h k : Nat) [Decidable (s.chanHeld h k)] : s.chanFetch h k = if s.chanHeld h k then s else
    (s.setChan h k (s.chan h k).fetched).slotRead h k (s.chCtx h k) (s.chan h k) (s.chan h k).next.toNat := by
  unfold State.chanFetch
  refine ite_congr (propext ?_) (fun _ => rfl) (fun _ => rfl)
  simp [State.chanHeld, or_assoc]

theorem State.chanFetch_held {s : State} {h k : Nat} (hh : s.chanHeld h k) : s.chanFetch h k = s := by
  classical rw [State.chanFetch_eq, if_pos hh]

theorem State.chanFetch_free {s : State} {h k : Nat} (hh : ¬s.chanHeld h k) : s.chanFetch h k =
    (s.setChan h k (s.chan h k).fetched).slotRead h k (s.chCtx h k) (s.chan h k) (s.chan h k).next.toNat := by
  classical rw [State.chanFetch_eq, if_neg hh]

/-- A request of a channel that waits for DXP takes its turn where DXP is free and has the tag (R56, R64, R159). -/
theorem State.dxpSend_eq (s : State) (x : Xact) : s.dxpSend x =
    if s.dxpFree x.srcUnit = false ∨ 1024 < s.tagsHeld x.srcUnit 3 ∨ 64 < s.chanTags x.srcUnit x.srcChan then s
    else (s.occupy (dxpKey x.srcUnit) 1).issue (x.stamped s.clk.now) true := by
  unfold State.dxpSend
  simp [or_assoc]

/-! ### What each command does to a channel -/

/-- The channel stands at a row boundary: no row of a tile, fill or copy is begun (R178). -/
def Chan.atEdge (c : Chan) : Prop := ∀ d, c.head? = some d → d.phase ≠ .issued ∨ (d.wrLine = 0 ∧ dOp d.w ≠ 4)

section
variable {a : State} {h k ctx : Nat} {c : Chan} (hc : a.chan h k = c)
include hc

theorem State.chanEnable_enabled (he : c.en = true) : a.chanEnable h k = a := by
  unfold State.chanEnable
  rw [hc]
  exact if_pos he

theorem State.chanEnable_disabled (he : c.en = false) : a.chanEnable h k = (a.setChan h k
    { c with en := true, st := (if c.st = .idle then .run else c.st), failed := 0, next := (if c.descs.isEmpty then c.done else c.next) }).chanFetch h k := by
  unfold State.chanEnable
  rw [hc]
  exact if_neg (by simp [he])

theorem State.chanIdle_chan : (a.chanIdle h k).chan h k = { c with st := if c.st = .run ∧ c.en = false ∧ c.descs = [] then .idle else c.st } := by
  unfold State.chanIdle
  rw [hc]
  by_cases hi : c.st = .run ∧ c.en = false ∧ c.descs = []
  · simp [hi]
  · rw [if_neg hi, if_neg (by simpa [and_assoc] using hi), hc]

theorem State.chanDisable_chan : (a.chanDisable h k).chan h k = { c with en := false, st := if c.st = .run ∧ c.descs = [] then .idle else c.st } := by
  unfold State.chanDisable
  rw [State.chanIdle_chan (State.chan_setChan _ _ _ _), hc]
  simp

theorem State.tailWrite_past {v : Nat} (hv : 2^c.lsize < (v + 65536 - c.done.toNat) % 65536) : a.tailWrite h k v = a := by
  unfold State.tailWrite
  rw [hc]
  exact if_pos hv

theorem State.tailWrite_inRing {v : Nat} (hv : (v + 65536 - c.done.toNat) % 65536 ≤ 2^c.lsize) :
    a.tailWrite h k v = (a.setChan h k { c with tailPend := c.tailPend ++ [(v, a.nextId)] }).tailApply h k := by
  unfold State.tailWrite
  rw [hc]
  exact if_neg (by omega)

/-- The only tail in line becomes the channel's where no write of its context's ports is under way (R147). -/
theorem State.tailApply_only {p : Nat × Nat} (hp : c.tailPend = [p]) (hx : a.chCtx h k = ctx)
    (hw : ∀ x ∈ a.flight, x.srcUnit = h → x.ctx = ctx → x.srcChip = none → isWr x.kind = true →
      x.srcPort ≠ 0 ∧ x.srcPort ≠ 1 ∧ x.srcPort ≠ 2 ∧ x.srcPort ≠ 6) :
    a.tailApply h k = (a.setChan h k { c with tail := BitVec.ofNat 16 p.1, tailPend := [] }).chanFetch h k := by
  unfold State.tailApply
  dsimp only
  rw [hc, hx, hp]
  rw [List.dropWhile_cons_of_pos]
  · rfl
  · rw [Bool.not_eq_true', List.any_eq_false]
    intro x hm
    simp only [Bool.and_eq_true, Bool.or_eq_true, decide_eq_true_eq, Option.isNone_iff_eq_none]
    rintro ⟨⟨⟨⟨⟨⟨⟨hunit, hctx⟩, hchip⟩, hkind⟩, -⟩, hport⟩, -⟩, -⟩
    obtain ⟨h0, h1, h2, h6⟩ := hw x hm hunit hctx hchip hkind
    exact hport.elim (fun h => h.elim (fun h => h.elim h0 h1) h2) h6

theorem State.chanResume_notHalted (hh : c.st ≠ .halted) : a.chanResume h k = a := by
  unfold State.chanResume
  rw [hc]
  exact if_pos hh

theorem State.chanResume_halted {d : Desc} (hh : c.st = .halted) (hd : c.desc? c.desc.toNat = some d) (hx : a.chCtx h k = ctx) :
    a.chanResume h k = ((a.setChan h k { c with st := .run }).setDesc h k
      { d with phase := .fetching, resumed := d.phase = .issued || d.phase = .presented || d.resumed, src := [] }).slotRead h k ctx c c.desc.toNat := by
  unfold State.chanResume
  dsimp only
  rw [hc, hx, hd]
  exact if_neg (not_not_intro hh)

theorem State.chanSkip_notHalted (hh : c.st ≠ .halted) : a.chanSkip h k = a := by
  unfold State.chanSkip
  rw [hc]
  exact if_pos hh

theorem State.chanSkip_halted {d : Desc} (hh : c.st = .halted) (hd : c.desc? c.desc.toNat = some d) :
    let d' := { d with phase := .complete, noAct := true }
    let v := ((a.setChan h k { c with st := .run, failed := c.failed + 1 }).setDesc h k d').footEnd h k d.idx
    a.chanSkip h k = (if d.jseq.isSome then v.descJournal h k d' jFailed c.code.toNat else v).chanAdvance h k := by
  unfold State.chanSkip
  dsimp only
  rw [hc, hd]
  exact if_neg (not_not_intro hh)

theorem State.chanAbort_ignored (hi : c.st = .idle ∨ c.st = .draining) : a.chanAbort h k = a := by
  unfold State.chanAbort
  rw [hc]
  exact if_neg (by rcases hi with hi | hi <;> simp [hi])

theorem State.chanAbort_drains (hs : c.st = .run ∨ c.st = .halted ∨ c.st = .paused) :
    let u := (a.chanStop h k true).setChan h k { c with st := .draining, pausing := false }
    a.chanAbort h k = { u with hives := { u.hives with moves := u.hives.moves.filter (fun m => !(m.slot / 512 = h && m.chan = k)) } }.sxpRetry h := by
  unfold State.chanAbort
  dsimp only
  rw [hc]
  exact if_pos (by simpa [or_assoc] using hs)

theorem State.chanPause_notRun (hr : c.st ≠ .run) : a.chanPause h k = a := by
  unfold State.chanPause
  rw [hc]
  exact if_neg hr

theorem State.pauseTry_edge (hp : c.pausing = true) (hr : c.st = .run) (he : c.atEdge) :
    (a.pauseTry h k).chan h k = { c with st := .paused, pausing := false } := by
  unfold State.pauseTry
  dsimp only
  rw [hc]
  cases hd : c.head? with
  | none => simp [hp, hr]
  | some d =>
    have hedge : (d.phase ≠ .issued || (d.wrLine = 0 && dOp d.w ≠ 4 : Bool)) = true := by
      simp only [Bool.or_eq_true, Bool.and_eq_true, decide_eq_true_eq]
      exact he d hd
    simp only [hp, hr, hedge, decide_true, Bool.and_true, if_true, State.chan_setChan]

theorem State.pauseTry_inRow (he : ¬c.atEdge) : a.pauseTry h k = a := by
  unfold State.pauseTry
  dsimp only
  rw [hc]
  cases hd : c.head? with
  | none => exact absurd (fun d hd' => nomatch hd.symm.trans hd') he
  | some d =>
    have hrow : ¬(d.phase ≠ .issued ∨ (d.wrLine = 0 ∧ dOp d.w ≠ 4)) := fun hb => he fun e hd' => Option.some.inj (hd.symm.trans hd') ▸ hb
    refine if_neg ?_
    simp only [Bool.and_eq_true, Bool.or_eq_true, decide_eq_true_eq]
    exact fun hgo => hrow hgo.2

theorem State.chanPause_run (hr : c.st = .run) : a.chanPause h k = (a.setChan h k { c with pausing := true }).pauseTry h k := by
  unfold State.chanPause
  rw [hc]
  exact if_pos hr

theorem State.chanPause_edge (hr : c.st = .run) (he : c.atEdge) : (a.chanPause h k).chan h k = { c with st := .paused, pausing := false } := by
  rw [State.chanPause_run hc hr, State.pauseTry_edge (State.chan_setChan _ _ _ { c with pausing := true }) rfl hr he]

theorem State.chanPause_inRow (hr : c.st = .run) (he : ¬c.atEdge) : (a.chanPause h k).chan h k = { c with pausing := true } := by
  rw [State.chanPause_run hc hr, State.pauseTry_inRow (State.chan_setChan _ _ _ { c with pausing := true }) he, State.chan_setChan]

theorem State.chanContinue_notPaused (hp : c.st ≠ .paused) : a.chanContinue h k = a := by
  unfold State.chanContinue
  rw [hc]
  exact if_neg hp

theorem State.chanContinue_paused (hp : c.st = .paused) : a.chanContinue h k = (a.setChan h k { c with st := .run }).chanFetch h k := by
  unfold State.chanContinue
  rw [hc]
  exact if_pos hp

end

/-! ### The end of a drain (R175, R178) -/

theorem exec_chanDrainEnd_drained {s : State} {h : HiveId} {k : ChanId} {c : Chan} (hc : s.chan h.val k.val = c) (hr : s.clk.rootOn = true)
    (hd : c.st = .draining) (hx : ∀ x ∈ s.flight, x.ofChan h.val k.val = true → x.stage = .mirrorQueue) :
    ∃ t, exec (.chanDrainEnd h k) s = .next t ∧ t.chan h.val k.val =
      { c with st := .idle, en := false, failed := c.failed + (c.tail - c.done), done := c.tail, next := c.tail, descs := [], fenceWait := false } := by
  subst hc
  have hdue : ¬(!s.clk.rootOn || (s.chan h.val k.val).st ≠ .draining ||
      s.flight.any (fun x => x.ofChan h.val k.val && x.stage ≠ .mirrorQueue)) = true := by
    simpa [hr, hd] using hx
  exact ⟨_, congrArg Host.Outcome.next (if_neg hdue), State.chan_setChan _ _ _ _⟩

/-- Settles O28: each command acts at once on the woken Hive (`State.chanCmd_free`), where its case of the channel's state says what it does; a fetch is
kept, also while an earlier descriptor has lines to present (log entry 56), or reads the next slot (`State.chanFetch_held`, `State.chanFetch_free`). -/
theorem channelsTakeCommands : Obligations.ChannelsTakeCommands := by
  unfold Obligations.ChannelsTakeCommands
  intro s h k o
  refine ⟨fun ho hf => ?_, ⟨State.chanFetch_held, State.chanFetch_free, fun u ga kind code mask data w p tag y hy => ?_⟩,
    exec_chanDrainEnd_drained rfl⟩
  · have hc := State.wakeHive_chan s h.val h.val k.val
    have hx := (State.wakeHive_chCtx s h.val h.val k.val).trans ho
    have hn := State.wakeHive_nextId s h.val
    refine ⟨fun he => ?_, fun he => ?_, ⟨_, exec_chanDisable_free ho hf, State.chanDisable_chan hc⟩, fun v => ⟨fun hv => ?_, fun hv => ?_⟩,
      fun hh => ⟨?_, ?_⟩, fun hh d hd => ⟨?_, ?_⟩, fun hi => ?_, fun hr => ?_, fun hr => ?_, fun hr => ?_, fun hp => ?_, fun hp => ?_⟩
    · rw [exec_chanEnable_free ho hf, State.chanEnable_enabled hc he]
    · rw [exec_chanEnable_free ho hf, State.chanEnable_disabled hc he]
    · rw [exec_ringTailWrite_free ho hf, State.tailWrite_past hc hv]
    · have hw : exec (.ringTailWrite h k v) s = _ := (exec_ringTailWrite_free ho hf v).trans (congrArg _ (State.tailWrite_inRing hc hv))
      rw [hn] at hw
      refine ⟨hw, fun ht hq => hw.trans (congrArg _ ?_)⟩
      have hq' : ∀ x ∈ (s.wakeHive h.val).flight, _ := (State.wakeHive_flight s h.val).symm ▸ hq
      rw [ht, List.nil_append, State.tailApply_only (State.chan_setChan _ _ _ _) rfl hx hq', BitVec.ofNat_toNat, BitVec.setWidth_eq, ← ht]
    · rw [exec_chanResume_free ho hf, State.chanResume_notHalted hc hh]
    · rw [exec_chanSkip_free ho hf, State.chanSkip_notHalted hc hh]
    · rw [exec_chanResume_free ho hf, State.chanResume_halted hc hh hd hx]
      rfl
    · rw [exec_chanSkip_free ho hf, State.chanSkip_halted hc hh hd]
    · rw [exec_chanAbort_free ho hf, State.chanAbort_ignored hc hi]
    · rw [exec_chanAbort_free ho hf, State.chanAbort_drains hc hr]
    · rw [exec_chanPause_free ho hf, State.chanPause_notRun hc hr]
    · exact ⟨_, exec_chanPause_free ho hf, State.chanPause_edge hc hr, State.chanPause_inRow hc hr⟩
    · rw [exec_chanContinue_free ho hf, State.chanContinue_notPaused hc hp]
    · rw [exec_chanContinue_free ho hf, State.chanContinue_paused hc hp]
  · rw [← State.dxpSend_eq]
    unfold State.chanReq
    dsimp only
    rw [hy]

end Sys2Proof.Machine
end

section
/-!
SUPPORT. Lines and completions of the DMA engine (R159, R163, R165, R166, R174 to R176, R341): which line a channel offers, what a DXP request without
any does, how a unit runs a fill or copy command, and how a descriptor completes.
-/
namespace Sys2Proof.Machine

/-! ### The line a channel offers (R159, R163) -/

/-- A MOVE in its final pass keeps the lines of a descriptor that uses its handle at issue (R141). -/
def State.descMoved (s : State) (h k : Nat) (d : Desc) : Prop := ∃ i < 64, descUses d i = true ∧ s.movedRef h (s.chCtx h k) i = true

/-- A descriptor offers no line: its channel does not run or pauses at its row, or it is not issued or waits for its journal or a MOVE. -/
def State.descShut (s : State) (h k : Nat) (d : Desc) : Prop :=
  (s.chan h k).st ≠ .run ∨ d.phase ≠ .issued ∨ d.jwait = true ∨ (dOp d.w = 4 ∧ s.moveOf h k d = none) ∨
    (dOp d.w ≠ 4 ∧ (s.descMoved h k d ∨ ((s.chan h k).pausing = true ∧ d.wrLine = 0)))

/-- A line fits a request: its kind, the banks it has left, and the wheel or the throttle. -/
def State.lineFits (s : State) (h : Nat) (used : List Nat) (sched : Bool) (o : Offer) : Bool :=
  o.sched = sched && !used.contains (lineBank o.x) && s.lineMatch h o.x && (o.sched || !s.throttled 0)

/-- The source line a channel may read ahead of its writes: it fits, and no write of the channel that stands unpresented meets it. -/
def State.readAhead (s : State) (h k : Nat) (d : Desc) (used : List Nat) (sched : Bool) : Option Offer :=
  (s.offerRead h k d).filter (fun o => s.lineFits h used sched o && !s.flight.any (fun x => x.ofChan h k && isWr x.kind && x.unsent &&
    decide (x.lo < o.x.hi) && decide (o.x.lo < x.hi)))

/-- What a channel offers where its next write stands as given. -/
def State.offerOf (n : Nat) (s : State) (h k : Nat) (d : Desc) (used : List Nat) (sched : Bool) : WriteStep → State × Option Offer
  | .skip d' => State.chanOffer n (s.setDesc h k d') h k used sched
  | .halt code ga => (s.chanHalt h k d.idx code (dSrcRef d.w % 64) ga, none)
  | .none => (s, s.readAhead h k d used sched)
  | .offer o => if s.lineFits h used sched o && decide ((s.chan h k).ahead + o.lines ≤ 65) && !s.chanStalled h k then (s, some o)
    else (s, s.readAhead h k d used sched)

theorem State.any_moved_iff (s : State) (h k : Nat) (d : Desc) :
    (List.range 64).any (fun i => descUses d i && s.movedRef h (s.chCtx h k) i) = true ↔ s.descMoved h k d := by
  simp [State.descMoved]

section
variable {s : State} {h k n : Nat} {used : List Nat} {sched : Bool} {d : Desc} {o : Offer}

theorem State.lineFits_iff : s.lineFits h used sched o = true ↔
    o.sched = sched ∧ lineBank o.x ∉ used ∧ s.lineMatch h o.x = true ∧ (o.sched = true ∨ s.throttled 0 = false) := by
  simp [State.lineFits, and_assoc]

theorem State.chanOffer_noHead (hd : (s.chan h k).head? = none) : State.chanOffer (n + 1) s h k used sched = (s, none) := by
  rw [State.chanOffer]
  simp only [hd]

theorem State.chanOffer_shut (hd : (s.chan h k).head? = some d) (hs : s.descShut h k d) :
    State.chanOffer (n + 1) s h k used sched = (s, none) := by
  rw [State.chanOffer]
  simp only [hd]
  refine if_pos ?_
  simp only [Bool.or_eq_true, Bool.and_eq_true, State.any_moved_iff]
  unfold State.descShut at hs
  by_cases hop : dOp d.w = 4 <;> simpa [hop, or_assoc] using hs

section
variable (hd : (s.chan h k).head? = some d) (ho : ¬s.descShut h k d) (hop : dOp d.w ≠ 4)
include hd ho hop

theorem State.chanOffer_open : State.chanOffer (n + 1) s h k used sched = State.offerOf n s h k d used sched (s.nextWrite h k d) := by
  have hgo : ¬((s.chan h k).st ≠ .run ∨ d.phase ≠ .issued ∨ d.jwait = true ∨ s.descMoved h k d ∨ ((s.chan h k).pausing = true ∧ d.wrLine = 0)) := by
    unfold State.descShut at ho
    simpa [hop] using ho
  rw [State.chanOffer]
  simp only [hd, hop, if_false, Option.isNone_none, Bool.true_and]
  refine (if_neg ?_).trans ?_
  · simp only [Bool.or_eq_true, State.any_moved_iff]
    simpa [hop, or_assoc] using hgo
  · cases s.nextWrite h k d <;> rfl

theorem State.chanOffer_write (hw : s.nextWrite h k d = .offer o) (hf : s.lineFits h used sched o = true) (ha : (s.chan h k).ahead + o.lines ≤ 65)
    (hs : s.chanStalled h k = false) : State.chanOffer (n + 1) s h k used sched = (s, some o) := by
  rw [State.chanOffer_open hd ho hop, hw]
  exact if_pos (by simp [hf, ha, hs])

theorem State.chanOffer_read (hw : s.nextWrite h k d = .none) (hr : s.offerRead h k d = some o) (hf : s.lineFits h used sched o = true)
    (hx : ∀ x ∈ s.flight, x.ofChan h k = true → isWr x.kind = true → x.unsent = true → o.x.hi ≤ x.lo ∨ x.hi ≤ o.x.lo) :
    State.chanOffer (n + 1) s h k used sched = (s, some o) := by
  rw [State.chanOffer_open hd ho hop, hw]
  have hmeets : s.flight.any (fun x => x.ofChan h k && isWr x.kind && x.unsent && decide (x.lo < o.x.hi) && decide (o.x.lo < x.hi)) = false := by
    rw [List.any_eq_false]
    intro x hm
    have := hx x hm
    simp only [Bool.and_eq_true, decide_eq_true_eq]
    rintro ⟨⟨⟨⟨hof, hwr⟩, hun⟩, hlo⟩, hhi⟩
    have := this hof hwr hun
    omega
  simp [State.offerOf, State.readAhead, hr, hf, hmeets]

theorem State.chanOffer_halt {code ga : Nat} (hw : s.nextWrite h k d = .halt code ga) :
    State.chanOffer (n + 1) s h k used sched = (s.chanHalt h k d.idx code (dSrcRef d.w % 64) ga, none) := by
  rw [State.chanOffer_open hd ho hop, hw]
  rfl

end
end

/-! ### A DXP request (R159) -/

/-- A channel without a line on offer adds none to a request. -/
theorem dxpTake_none {s : State} {h k : Nat} {sched : Bool} (hn : State.chanOffer 64 s h k [] sched = (s, none)) :
    dxpTake h sched (s, [], none) k = (s, [], none) := by
  have hl : State.chanLines 8 s h k 0 [] sched = (s, []) := by
    rw [State.chanLines]
    simp only [hn]
  unfold dxpTake
  split
  · rfl
  · simp [hl]

theorem State.dxpRequest_none {s : State} {h : Nat} (hn : ∀ j < 16, ∀ b, State.chanOffer 64 s h j [] b = (s, none)) : s.dxpRequest h = s := by
  have hfold : ∀ b (l : List Nat), (∀ j ∈ l, j < 16) → l.foldl (dxpTake h b) (s, [], none) = (s, [], none) := by
    intro b l hl
    induction l with
    | nil => rfl
    | cons j l ih =>
      rw [List.foldl_cons, dxpTake_none (hn j (hl j List.mem_cons_self) b)]
      exact ih (fun i hi => hl i (List.mem_cons_of_mem _ hi))
  have horder : ∀ j ∈ s.chanOrder h, j < 16 := by
    intro j hj
    obtain ⟨i, -, rfl⟩ := List.mem_map.mp hj
    exact Nat.mod_lt _ (by decide)
  unfold State.dxpRequest
  simp only [hfold _ _ horder]
  rfl

section
variable {s : State} {h : HiveId}

theorem exec_dmaLinePresent_shut (ho : s.ctlOpen h.val = false) : exec (.dmaLinePresent h) s = .next s :=
  congrArg Host.Outcome.next (if_pos (by rw [ho]; rfl))

theorem exec_dmaLinePresent_busy (ho : s.ctlOpen h.val = true) (hf : (s.dxpPump h.val).dxpFree h.val = false) :
    exec (.dmaLinePresent h) s = .next ((s.dxpPump h.val).chanPump h.val) := by
  change execDmaLinePresent h s = _
  simp [execDmaLinePresent, ho, hf]

theorem exec_dmaLinePresent_free (ho : s.ctlOpen h.val = true) (hf : (s.dxpPump h.val).dxpFree h.val = true) :
    exec (.dmaLinePresent h) s = .next (((s.dxpPump h.val).dxpRequest h.val).chanPump h.val) := by
  change execDmaLinePresent h s = _
  simp [execDmaLinePresent, ho, hf]

end

/-! ### Fill and copy commands at their unit (R165, R166) -/

/-- A fill or copy command that its unit has taken. -/
def Xact.taken (x : Xact) : Xact := { x with stage := .bankFirst, unit := x.loc.unit, by_ := 0, mask := 0 }

/-- A command that is due at its unit reads each line of its source, or writes each line of its destination. -/
theorem exec_fillCmdRecv_due {s : State} {x : Xact} (hx : s.xact x.id = some x) (hr : s.clk.rootOn = true) (hf : x.isFill = true)
    (hq : x.half = .request) (hs : x.stage = .mipHeld ∨ x.stage = .edgeIngress) (ht : x.ready ≤ s.clk.now) : exec (.fillCmdRecv x.id) s = .next (
      if x.code = 1 then (List.range ((x.taken.runSrc + x.taken.runLen - 1) / 64 - x.taken.runSrc / 64 + 1)).foldl
        (fun s j => s.runAccess x.taken .read (64 * (x.taken.runSrc / 64 + j)) j fullMask 0) (s.setX x.taken)
      else (List.range x.taken.runCount).foldl (fun s i => s.cmdLineWrite x.taken x.taken.fillBytes i) (s.setX x.taken)) := by
  change execFillCmdRecv x.id s = _
  unfold execFillCmdRecv
  rw [hx]
  exact congrArg Host.Outcome.next (if_pos (by simpa [hr, hf, hq, ht] using hs))

/-- The access of a command's line as it goes on its way: dynamic, with its command's place in the order of its source (log entry 84). -/
def State.runLineX (u : State) (y : Xact) (kind : AccKind) (ga i : Nat) (mask : Dword) (data : Line) : Xact :=
  { y with id := u.nextId, kind := kind, code := 0, sched := false, ga := BitVec.ofNat 48 ga, mask := mask, data := data, tag := i, loc := u.locate ga,
           purpose := .run y.id, unit := y.loc.unit, born := u.clk.now, since := u.clk.now, ready := u.clk.now, by_ := 0, wbase := 0,
           stage := .edgeIngress, inp := 0, dir := 0, mesh := true }

theorem State.runAccess_eq (u : State) (y : Xact) (kind : AccKind) (ga i : Nat) (mask : Dword) (data : Line) (hb : ∀ x ∈ u.flight, x.id < u.nextId) :
    ∃ t : State, let z := u.runLineX y kind ga i mask data
      t.xact u.nextId = some z ∧ t.mem = u.mem ∧ u.runAccess y kind ga i mask data = if y.loc.unit < 256 then t.mipCheck z else t := by
  refine ⟨(u.addX { u.runLineX y kind ga i mask data with id := y.id, seq := y.seq }).setX (u.runLineX y kind ga i mask data),
    State.xact_setX_same (State.xact_addX_same _ hb) rfl, rfl, ?_⟩
  unfold State.runAccess
  dsimp only
  rw [State.xact_addX_same _ hb]
  rfl

/-- A command with its line `x` ended: the line is noted as written, or its fault. -/
def Xact.noted (y x : Xact) : Xact :=
  if x.result = .ok then { y with mask := y.mask ||| BitVec.ofNat 64 (2^x.tag) } else y.runFault x.tag false x.result x.ga.toNat

theorem Xact.noted_id (y x : Xact) : (y.noted x).id = y.id := by
  unfold Xact.noted Xact.runFault
  split
  · rfl
  · split <;> rfl

/-- The command in flight stands as its ended line leaves it. -/
theorem State.xact_noted {s : State} {y : Xact} {cmd : Nat} (hy : s.xact cmd = some y) (x : Xact) : (s.setX (y.noted x)).xact cmd = some (y.noted x) :=
  State.xact_setX_same hy ((y.noted_id x).trans (State.xact_id hy))

/-- A written line is noted at its command, and the last one ends the command with an answer. -/
theorem State.runLineEnd_write {s : State} {x y : Xact} {cmd : Nat} (hy : s.xact cmd = some y) (hw : isWr x.kind = true) :
    s.runLineEnd x cmd = if (s.setX (y.noted x)).runs cmd = [] then (s.setX (y.noted x)).answer (y.noted x) (y.noted x).loc.unit 1
      else s.setX (y.noted x) := by
  have hdone : s.runLineEnd x cmd = (s.setX (y.noted x)).runDone cmd := by
    unfold State.runLineEnd
    rw [hy]
    exact if_pos hw
  rw [hdone, State.runDone, State.xact_noted hy x]
  exact ite_congr (propext List.isEmpty_iff) (fun _ => rfl) (fun _ => rfl)

/-! ### The end of a descriptor (R174, R175, R341) -/

theorem State.setDesc_chan {s : State} {h k : Nat} {c : Chan} {d e : Desc} {l : List Desc} (hc : s.chan h k = c) (hl : c.descs = d :: l)
    (hu : ∀ e ∈ l, e.idx ≠ d.idx) (he : e.idx = d.idx) : (s.setDesc h k e).chan h k = { c with descs := e :: l } := by
  have hrest : l.map (fun x => if x.idx = e.idx then e else x) = l :=
    (List.map_congr_left (fun x hx => if_neg (by rw [he]; exact hu x hx))).trans (List.map_id l)
  unfold State.setDesc
  rw [State.chan_setChan, hc, hl, List.map_cons, if_pos he.symm, hrest]

/-- RING_DONE passes the oldest descriptor, complete and journaled, and stops at the next where that is not. -/
theorem State.descPop_chan {s : State} {h k n : Nat} {c : Chan} {d : Desc} {l : List Desc} (hc : s.chan h k = c) (hl : c.descs = d :: l)
    (hp : d.phase = .complete) (hj : d.jwait = false) (hn : ∀ e, l.head? = some e → e.phase ≠ .complete ∨ e.jwait = true) :
    (State.descPop (n + 2) s h k).chan h k = { c with descs := l, done := c.done + 1 } := by
  have hfront : State.descPop (n + 2) s h k =
      State.descPop (n + 1) ((s.footEnd h k d.idx).setChan h k { c with descs := l, done := c.done + 1 }) h k := by
    rw [State.descPop]
    simp only [hc, hl, hp, hj]
    rfl
  rw [hfront, State.descPop]
  simp only [State.chan_setChan]
  cases l with
  | nil => exact State.chan_setChan _ _ _ _
  | cons e l =>
    have hstop : ¬(decide (e.phase = .complete) && !e.jwait) = true := by
      simp only [Bool.and_eq_true, decide_eq_true_eq, Bool.not_eq_true']
      rintro ⟨hcomplete, hnone⟩
      exact (hn e rfl).elim (fun h => h hcomplete) (fun h => nomatch hnone.symm.trans h)
    exact (congrArg (fun t : State => t.chan h k) (if_neg hstop)).trans (State.chan_setChan _ _ _ _)

section
variable {s : State} {h k : Nat} {d : Desc}

theorem State.descAction_none (ha : dCmpl d.w = 0) :
    s.descAction h k d = (s.setDesc h k { d with phase := .complete, jwait := false }).chanAdvance h k :=
  if_pos (by simp [ha])

theorem State.descAction_adds (ha : dCmpl d.w ≠ 0) (hn : d.noAct = false) : let ga := s.refGa h (s.chCtx h k) (dCmplRef d.w) (8 * dCmplWord d.w)
    s.descAction h k d =
      (s.setDesc h k { d with jwait := false, noAct := true }).chanReq h k ga .atomic 2 (byteMask (ga % 64) 8) 1 d.w .completion d.idx :=
  if_neg (by simp [ha, hn])

end

/-- The oldest descriptor of a channel has ended: its writes have completed, and nothing keeps its completion. -/
structure State.descEnded (s : State) (h k : Nat) (d : Desc) : Prop where
  root : s.clk.rootOn = true
  sent : d.phase = .presented
  done : d.open_ = []
  idle : d.jwait = false
  runs : (s.chan h k).st ≠ .draining
  owed : d.noAct = false
  good : (s.chan h k).st = .halted → (s.chan h k).desc.toNat ≠ d.idx
  free : s.movedRef h (s.chCtx h k) (dCmplRef d.w) = false

section
variable {s : State} {h : HiveId} {k : ChanId} {d : Desc} {l : List Desc} (hl : (s.chan h.val k.val).descs = d :: l) (he : s.descEnded h.val k.val d)
include hl he

theorem exec_descComplete_ended : exec (.descComplete h k) s = .next (match d.jseq with
    | some n => if jState (s.jEntry n) = jDone then s.descAction h.val k.val d
      else if (s.persisted h.val k.val d).2 then (s.persisted h.val k.val d).1.descJournal h.val k.val d jDone 0 else (s.persisted h.val k.val d).1
    | none => s.descAction h.val k.val d) := by
  obtain ⟨root, sent, done, idle, runs, owed, good, free⟩ := he
  change execDescComplete h k s = _
  unfold execDescComplete
  dsimp only
  rw [hl]
  exact congrArg Host.Outcome.next ((if_neg (by simpa [root, sent, done, idle, runs, owed, free] using good)).trans (by cases d.jseq <;> rfl))

theorem exec_descComplete_action (hj : d.jseq = none ∨ ∃ n, d.jseq = some n ∧ jState (s.jEntry n) = jDone) :
    exec (.descComplete h k) s = .next (s.descAction h.val k.val d) := by
  rw [exec_descComplete_ended hl he]
  obtain hj | ⟨n, hj, hs⟩ := hj
  · rw [hj]
  · rw [hj]
    exact congrArg _ (if_pos hs)

theorem exec_descComplete_journal {n : Nat} (hj : d.jseq = some n) (hs : jState (s.jEntry n) ≠ jDone) : let p := s.persisted h.val k.val d
    exec (.descComplete h k) s = .next (if p.2 then p.1.descJournal h.val k.val d jDone 0 else p.1) := by
  rw [exec_descComplete_ended hl he, hj]
  exact congrArg _ (if_neg hs)

end

/-- Settles O30: DXP's request and the offer of a channel case by case (`State.dxpRequest_none`, `State.chanOffer_write`, `State.chanOffer_read`); a line of
a command goes as `State.runLineX`, one access a line and dynamic (log entry 84); a descriptor that ended acts or writes its journal entry first. -/
theorem linesGoOutAndDescriptorsComplete : Obligations.LinesGoOutAndDescriptorsComplete := by
  unfold Obligations.LinesGoOutAndDescriptorsComplete
  intro s h k
  refine ⟨exec_dmaLinePresent_shut, exec_dmaLinePresent_busy, fun ho hf => ⟨exec_dmaLinePresent_free ho hf, fun hn => ?_⟩,
    fun used sched n => ⟨fun hs => ?_, fun d hd hr hi hj hop hm hp => ?_⟩, fun x hx hr hf hq hs ht => ⟨fun hc => ?_, fun hc => ?_⟩,
    fun u y kind ga i mask data hb => ?_, fun u x y cmd hy hw => ?_, fun d l hl hu hr hp ho hj hd hn hh hm => ?_⟩
  · rw [exec_dmaLinePresent_free ho hf, State.dxpRequest_none hn]
  · cases hd : (s.chan h.val k.val).head? with
    | none => exact State.chanOffer_noHead hd
    | some d => exact State.chanOffer_shut hd (hs d hd)
  · have hopen : ¬s.descShut h.val k.val d := by
      unfold State.descShut
      simp only [hr, hi, hj, hop, ne_eq, not_true_eq_false, Bool.false_eq_true, false_and, not_false_eq_true, true_and, false_or]
      rintro (hheld | ⟨hpause, hline⟩)
      · exact hm hheld
      · exact hp.elim (fun hp => by simp [hp] at hpause) (fun hp => hp hline)
    exact ⟨fun o hw hf ha hs => State.chanOffer_write hd hopen hop hw (State.lineFits_iff.mpr hf) ha hs,
      fun o ho hf hw hx => State.chanOffer_read hd hopen hop hw ho (State.lineFits_iff.mpr hf) hx, fun code ga => State.chanOffer_halt hd hopen hop⟩
  · rw [exec_fillCmdRecv_due hx hr hf hq hs ht, if_neg hc]
    rfl
  · rw [exec_fillCmdRecv_due hx hr hf hq hs ht, if_pos hc]
    rfl
  · obtain ⟨t, hz, hmem, hrun⟩ := u.runAccess_eq y kind ga i mask data hb
    exact ⟨_, t, hz, hmem, hrun, rfl, rfl, rfl, rfl, rfl, rfl, rfl, rfl, rfl, rfl, rfl⟩
  · have hv := State.xact_noted hy x
    unfold Xact.noted at hv
    dsimp only
    rw [hv]
    exact State.runLineEnd_write hy hw
  · have hend : s.descEnded h.val k.val d := ⟨hr, hp, ho, hj, hd, hn, hh, hm⟩
    refine ⟨fun hs => ⟨fun ha hnext => ?_, fun ha => ?_⟩, fun n => exec_descComplete_journal hl hend⟩
    · have hfront := State.setDesc_chan (s := s) rfl hl hu (e := { d with phase := .complete, jwait := false }) rfl
      refine ⟨?_, State.descPop_chan (c := { s.chan h.val k.val with descs := _ :: l }) hfront rfl rfl rfl hnext⟩
      rw [exec_descComplete_action hl hend hs, State.descAction_none ha]
      rfl
    · have hfront := State.setDesc_chan (s := s) rfl hl hu (e := { d with jwait := false, noAct := true }) rfl
      refine ⟨?_, hfront.trans (by rw [hj])⟩
      rw [exec_descComplete_action hl hend hs, State.descAction_adds ha hn]

end Sys2Proof.Machine
end

section
/-!
SUPPORT. Fences (R214) and the sync-page array (R227, R234, R235): when a fence is done and what it then leaves, what an arrival makes of its
barrier, and the answer of a granted access of a barrier's ARRIVE.
-/
namespace Sys2Proof.Machine

/-! ### Where an address is served, after a report -/

theorem locateBy_congr {c : Nat} {raw raw' : Nat → Nat → Option Nat} (h1 : raw 1 = raw' 1) (h2 : raw 2 = raw' 2) : locateBy c raw = locateBy c raw' := by
  funext ga
  unfold locateBy
  rw [h1, h2]

/-- Two predicates that agree on a list find the same member of it. -/
theorem find_congr {α : Type} {p q : α → Bool} : ∀ {l : List α}, (∀ x ∈ l, p x = q x) → l.find? p = l.find? q
  | [], _ => rfl
  | x :: l, h => by
    rw [List.find?_cons, List.find?_cons, h x List.mem_cons_self, find_congr (fun y hy => h y (List.mem_cons_of_mem x hy))]

theorem regionBy_congr {region region' : Nat → Nat × Nat × Nat} (h : ∀ e < 64, region e = region' e) {tier : Nat} (ht : tier ≤ 2) (off : Nat) :
    regionBy region tier off = regionBy region' tier off := by
  have hentry : ∀ i ∈ List.range 32, region (32 * (tier - 1) + i) = region' (32 * (tier - 1) + i) := fun i hi =>
    h _ (by have := List.mem_range.mp hi; omega)
  unfold regionBy
  rw [find_congr (fun i hi => congrArg (fun r => regionCovers r off) (hentry i hi))]
  cases hf : (List.range 32).find? (fun i => regionCovers (region' (32 * (tier - 1) + i)) off) with
  | none => rfl
  | some i => exact hentry i (List.mem_of_find?_eq_some hf)

/-- A report leaves the places of addresses as they were: it writes no parameter but the trigger states. -/
theorem Faulted.locate {s t : State} (h : Faulted s t) (ga : Nat) : t.locate ga = s.locate ga := by
  have hpool : t.poolC = s.poolC := by
    unfold State.poolC State.tiered
    rw [h.pv 0x1000 0 (by decide) (by decide), h.pv 0x1001 0 (by decide) (by decide)]
  have hregion : ∀ e < 64, t.region e = s.region e := fun e he => by
    unfold State.region
    rw [h.pv 0x1100 e (by decide) (by omega)]
  have hraw : ∀ tier ≤ 2, t.rawOf tier = s.rawOf tier := fun tier ht => funext fun off => by
    unfold State.rawOf State.regionAt
    rw [regionBy_congr hregion ht]
  unfold State.locate
  rw [hpool, locateBy_congr (hraw 1 (by decide)) (hraw 2 (by decide))]

/-! ### What a completion add leaves of the Hives (R79, R119) -/

/-- A change of the Hives that leaves the control pages and the fences under way. -/
structure KeepsFences (s t : State) : Prop where
  pages  : t.hives.pages = s.hives.pages
  fences : t.hives.fences = s.hives.fences

theorem KeepsFences.refl (s : State) : KeepsFences s s := ⟨rfl, rfl⟩

theorem KeepsFences.trans {a b c : State} (h : KeepsFences a b) (k : KeepsFences b c) : KeepsFences a c :=
  ⟨k.pages.trans h.pages, k.fences.trans h.fences⟩

theorem KeepsFences.of_hives {s t : State} (h : t.hives = s.hives) : KeepsFences s t := ⟨by rw [h], by rw [h]⟩

theorem State.wakeHive_keepsFences (s : State) (h : Nat) : KeepsFences s (s.wakeHive h) := by
  unfold State.wakeHive
  dsimp only
  split <;> exact ⟨rfl, rfl⟩

theorem State.addX_keepsFences (s : State) (x : Xact) : KeepsFences s (s.addX x) := .of_hives rfl
theorem State.setX_keepsFences (s : State) (x : Xact) : KeepsFences s (s.setX x) := .of_hives rfl

theorem State.present_keepsFences (s : State) (x : Xact) : KeepsFences s (s.present x) := by
  have hwoken : KeepsFences s ((s.wakeHive x.srcUnit).countReq x) :=
    (s.wakeHive_keepsFences _).trans (.of_hives (State.countReq_hives _ x))
  unfold State.present
  dsimp only
  split
  · exact hwoken.trans (State.setX_keepsFences _ _)
  · exact hwoken.trans (State.setX_keepsFences _ _)

theorem State.addCell_keepsFences (s : State) (cell : Nat) (p : Party) : KeepsFences s (s.addCell cell p) := by
  have hpost : ∀ d, KeepsFences s (s.postCell p.unit cell .atomic d p) := fun d => by
    unfold State.postCell
    dsimp only
    split
    · split
      · refine .trans ?_ (State.setX_keepsFences _ _)
        refine .trans ?_ (State.wakeHive_keepsFences _ _)
        exact State.addX_keepsFences _ _
      · refine .trans ?_ (State.present_keepsFences _ _)
        exact State.addX_keepsFences _ _
    · refine .trans ?_ (State.setX_keepsFences _ _)
      exact State.addX_keepsFences _ _
  unfold State.addCell
  split
  · split
    · exact .refl s
    · exact hpost 1
  · exact .refl s

/-! ### The test of a fence (R214) -/

/-- From `s` to `t` the add of 1 to the cell at an address enters flight, under the next number. -/
def AddsToCell (s t : State) (ga : Nat) : Prop :=
  ∃ z, t.xact s.nextId = some z ∧ z.purpose = .cellAdd ∧ z.kind = .atomic ∧ z.code = 2 ∧ z.ga = BitVec.ofNat 48 ga ∧ z.data = 1

/-- Every count of the fence is covered or its chip lost, and its context has no line left to send to a chip that the fence concerns. -/
def State.fenceDone (s : State) (f : Fence) : Bool :=
  f.need.all (fun n => decide (n.2 ≤ (Tbl.get s.hives.sent {} (ctxChip f.hive f.ctx n.1)).acked) || s.fxps.lost.contains n.1) &&
    !s.fencePend f (fun c => (f.all || f.need.any (fun n => n.1 = c)) && !s.fxps.lost.contains c)

/-- A chip of the fence was lost short of its count. -/
def State.fenceLost (s : State) (f : Fence) : Bool :=
  f.need.any (fun n => s.fxps.lost.contains n.1 && decide ((Tbl.get s.hives.sent {} (ctxChip f.hive f.ctx n.1)).acked < n.2))

/-- The fence taken from the list, with its status as it ends. -/
def State.fenceEnd (s : State) (f : Fence) (keep : Nat) : State :=
  { s with hives := { s.hives with fences := s.hives.fences.filter (fun g => g ≠ f) } }.setStatus f.hive f.ctx 0x320
    (if s.fenceLost f then 3 else 2) keep

section
variable {s : State} {f : Fence}

theorem State.fenceTry_open (by_ : Party) (hd : s.fenceDone f = false) : s.fenceTry f by_ = s := by
  have hopen : ∀ covered pending : Bool, (covered && !pending) = false → (!covered || pending) = true := by decide
  exact if_pos (hopen _ _ hd)

/-- A fence that is done ends with its status, its trace record and the add to its cell. -/
theorem State.fenceTry_done (by_ : Party) (hd : s.fenceDone f = true) : ∃ keep tr p,
    s.fenceTry f by_ = ((s.fenceEnd f keep).traceGen tr).addCell ((s.page f.hive f.ctx 0x328).toNat % 2^48) p := by
  have hlost : (f.need.filter (fun n => s.fxps.lost.contains n.1 &&
      decide ((Tbl.get s.hives.sent {} (ctxChip f.hive f.ctx n.1)).acked < n.2))).isEmpty = !s.fenceLost f := by
    unfold State.fenceLost
    rw [Bool.eq_iff_iff]
    simp
  have hshut : ∀ covered pending : Bool, (covered && !pending) = true → ¬(!covered || pending) = true := by decide
  have hst : ∀ b : Bool, (if (!b) = true then 2 else 3) = (if b = true then 3 else 2) := by decide
  unfold State.fenceTry
  dsimp only
  rw [if_neg (hshut _ _ hd), hlost, hst]
  refine ⟨_, _, _, congrArg (fun v : Dword => State.addCell _ (v.toNat % 2^48) _) ?_⟩
  exact State.page_setPage_other _ _ _ _ _ _ (by decide)

/-- What is left by a fence that is done: its status, the other fences, and the add of 1 to its cell in flight. -/
theorem State.fenceTry_ends (by_ : Party) (hd : s.fenceDone f = true) :
    let t := s.fenceTry f by_
    let g0 := (s.page f.hive f.ctx 0x328).toNat % 2^48
    t.status f.hive f.ctx 0x320 = (if s.fenceLost f then 3 else 2) ∧ t.hives.fences = s.hives.fences.filter (fun g => g ≠ f) ∧
      ∀ g w, (∀ x ∈ s.flight, x.id < s.nextId) → s.locate g0 = .sync g w → g0 ≠ 0 → AddsToCell s t g0 := by
  obtain ⟨keep, tr, p, he⟩ := State.fenceTry_done by_ hd
  dsimp only
  rw [he]
  have hrep := (s.fenceEnd f keep).traceGen_reported tr
  have hadd := ((s.fenceEnd f keep).traceGen tr).addCell_keepsFences ((s.page f.hive f.ctx 0x328).toNat % 2^48) p
  have hend := (KeepsFences.of_hives hrep.hives).trans hadd
  have hst : (if s.fenceLost f then 3 else 2) < 16 := by split <;> decide
  refine ⟨?_, hend.fences, fun g w hn hl hz => ?_⟩
  · rw [State.status_pages hend.pages]
    exact State.status_setStatus _ _ _ _ _ _ hst
  · have hflight : ((s.fenceEnd f keep).traceGen tr).flight = s.flight := hrep.flight
    have hnext : ((s.fenceEnd f keep).traceGen tr).nextId = s.nextId := hrep.faulted.nextId
    have hloc : ((s.fenceEnd f keep).traceGen tr).locate ((s.page f.hive f.ctx 0x328).toNat % 2^48) = .sync g w :=
      (hrep.faulted.locate _).trans ((State.locate_congr rfl _).trans hl)
    obtain ⟨z, hx, hp, hk, hc, hga, hdata, -⟩ := State.addCell_spec _ _ p (by rw [hflight, hnext]; exact hn) hloc hz
    rw [hnext] at hx
    exact ⟨z, hx, hp, hk, hc, hga, hdata⟩

end

/-! ### A write of RFENCE (R214) -/

/-- The fence that a write of RFENCE begins: over every chip the context has sent to, or over one. -/
def State.newFence (s : State) (h c : Nat) (all : Bool) (chip : Nat) : Fence :=
  { hive := h, ctx := c,
    need := if all then (s.hives.sent.filter (fun e => e.1 / 1024 = 8 * h + c)).map (fun e => (e.1 % 1024, e.2.sent))
      else [(chip, (Tbl.get s.hives.sent {} (ctxChip h c chip)).sent)],
    lost := [], all := all, since := s.clk.now }

/-- The state with a fence begun: busy, and listed. -/
def State.fenceBegun (s : State) (f : Fence) (chip : Nat) : State :=
  let u := s.setStatus f.hive f.ctx 0x320 1 chip
  { u with hives := { u.hives with fences := u.hives.fences ++ [f] } }

/-- The place of the cell staged for a context's fence, as it is checked. -/
def State.fenceCell (s : State) (h c : Nat) : Nat := (s.page h c 0x328).toNat % 2^48 / 8 * 8

section
variable {s : State} {h c : Nat} {all : Bool} {chip : Nat}

theorem State.rfence_busy (hb : s.status h c 0x320 = 1) : s.rfence h c all chip = s := by
  unfold State.rfence
  exact if_pos (by simp [hb])

theorem State.rfence_refused (ho : s.ctlOpen h = true) (hb : s.status h c 0x320 ≠ 1)
    (hc : (s.wakeHive h).cellOk ((s.wakeHive h).fenceCell h c) = false) :
    s.rfence h c all chip = (s.wakeHive h).setStatus h c 0x320 4 chip := by
  unfold State.rfence
  rw [if_neg (by simp [ho, hb])]
  exact if_pos (by rw [Bool.not_eq_true']; exact hc)

theorem State.rfence_begins (ho : s.ctlOpen h = true) (hb : s.status h c 0x320 ≠ 1)
    (hc : (s.wakeHive h).cellOk ((s.wakeHive h).fenceCell h c) = true) :
    s.rfence h c all chip = ((s.wakeHive h).fenceBegun ((s.wakeHive h).newFence h c all chip) chip).fenceTry
      ((s.wakeHive h).newFence h c all chip) {} := by
  unfold State.rfence
  rw [if_neg (by simp [ho, hb])]
  exact if_neg (by rw [Bool.not_eq_true', Bool.not_eq_false]; exact hc)

end

section
variable (s : State) (f : Fence) (chip : Nat)

theorem State.fenceBegun_fences : (s.fenceBegun f chip).hives.fences = s.hives.fences ++ [f] := rfl
theorem State.fenceBegun_flight : (s.fenceBegun f chip).flight = s.flight := rfl
theorem State.fenceBegun_nextId : (s.fenceBegun f chip).nextId = s.nextId := rfl
theorem State.fenceBegun_status : (s.fenceBegun f chip).status f.hive f.ctx 0x320 = 1 := State.status_setStatus _ _ _ _ _ _ (by decide)
theorem State.fenceBegun_cell : (s.fenceBegun f chip).page f.hive f.ctx 0x328 = s.page f.hive f.ctx 0x328 :=
  State.page_setPage_other _ _ _ _ _ _ (by decide)
theorem State.fencePend_begun (p : Nat → Bool) : (s.fenceBegun f chip).fencePend f p = s.fencePend f p := by
  unfold State.fencePend
  rfl
theorem State.fenceDone_begun : (s.fenceBegun f chip).fenceDone f = s.fenceDone f := by
  unfold State.fenceDone
  rw [State.fencePend_begun]
  rfl
theorem State.fenceLost_begun : (s.fenceBegun f chip).fenceLost f = s.fenceLost f := rfl

end

/-- A fence begun is listed and busy, or done at once: what a write of RFENCE with a cell in a sync page leaves, `a` being the state with its
Hive awake. -/
theorem State.rfence_tested {s a : State} {h c : Nat} {all : Bool} {chip : Nat} {f : Fence} (ha : s.wakeHive h = a) (ho : s.ctlOpen h = true)
    (hb : s.status h c 0x320 ≠ 1) (hc : a.cellOk (a.fenceCell h c) = true) (hf : a.newFence h c all chip = f) :
    (s.rfence h c all chip).status h c 0x320 = (if a.fenceDone f then if a.fenceLost f then 3 else 2 else 1) ∧
      (a.fenceDone f = false → (s.rfence h c all chip).hives.fences = s.hives.fences ++ [f]) ∧
      (a.fenceDone f = true → (s.rfence h c all chip).hives.fences = s.hives.fences.filter (fun g => g ≠ f) ∧
        ∀ g w, s.Inv → a.locate ((a.page h c 0x328).toNat % 2^48) = .sync g w → (a.page h c 0x328).toNat % 2^48 ≠ 0 →
          AddsToCell s (s.rfence h c all chip) ((a.page h c 0x328).toNat % 2^48)) := by
  have ht : s.rfence h c all chip = (a.fenceBegun f chip).fenceTry f {} := by
    subst ha hf
    exact State.rfence_begins ho hb hc
  have hhive : f.hive = h := hf ▸ rfl
  have hctx : f.ctx = c := hf ▸ rfl
  have hflight : (a.fenceBegun f chip).flight = s.flight := by rw [State.fenceBegun_flight, ← ha, State.wakeHive_flight]
  have hnext : (a.fenceBegun f chip).nextId = s.nextId := by rw [State.fenceBegun_nextId, ← ha, State.wakeHive_nextId]
  have hlist : (a.fenceBegun f chip).hives.fences = s.hives.fences ++ [f] := by
    rw [State.fenceBegun_fences, ← ha, (s.wakeHive_keepsFences h).fences]
  rw [ht]
  cases hd : a.fenceDone f with
  | false =>
    rw [State.fenceTry_open {} ((a.fenceDone_begun f chip).trans hd)]
    have hst := a.fenceBegun_status f chip
    rw [hhive, hctx] at hst
    exact ⟨hst, fun _ => hlist, nofun⟩
  | true =>
    obtain ⟨hst, hrest, hadd⟩ := State.fenceTry_ends {} ((a.fenceDone_begun f chip).trans hd)
    rw [State.fenceLost_begun, hhive, hctx] at hst
    rw [State.fenceBegun_cell, hhive, hctx, hflight] at hadd
    unfold AddsToCell at hadd ⊢
    rw [hnext] at hadd
    refine ⟨hst, nofun, fun _ => ⟨?_, fun g w hi hl hz => ?_⟩⟩
    · rw [hrest, hlist]
      simp
    · obtain ⟨-, -, -, hnum⟩ := hi
      have hloc : ∀ ga, (a.fenceBegun f chip).locate ga = a.locate ga := State.locate_congr rfl
      exact hadd g w hnum ((hloc _).trans hl) hz

/-! ### What an arrival makes of its barrier (R235) -/

@[simp] theorem State.barrier_setBarrier (s : State) (h b : Nat) (x : Barrier) : (s.setBarrier h b x).barrier h b = x := Tbl.get_set_same _ _ _ _

theorem State.barrier_of_hives {s t : State} (e : t.hives.barriers = s.hives.barriers) (h b : Nat) : t.barrier h b = s.barrier h b := by
  unfold State.barrier
  rw [e]

@[simp] theorem State.barrier_barrierLog (s : State) (code h b p disc : Nat) (src : Party) (g c : Nat) :
    (s.barrierLog code h b p disc src).barrier g c = s.barrier g c :=
  State.barrier_of_hives (by rw [State.barrierLog, (State.faultAt_faulted _ _ _ _).hives]) g c

@[simp] theorem State.barrier_traceGen (s : State) (f : TraceF) (h b : Nat) : (s.traceGen f).barrier h b = s.barrier h b :=
  State.barrier_of_hives (by rw [(s.traceGen_reported f).hives]) h b

/-- Trace records made one after the other leave the barriers. -/
theorem State.barrier_traces {α : Type} (g : State → α → TraceF) (l : List α) (s : State) (h b : Nat) :
    (l.foldl (fun s e => s.traceGen (g s e)) s).barrier h b = s.barrier h b :=
  State.barrier_of_hives (by rw [((Reported.refl s).foldl (fun u e _ => u.traceGen_reported (g u e))).hives]) h b

@[simp] theorem State.barrier_queuePass (s : State) (g cell : Nat) (p : Party) (h b : Nat) : (s.queuePass g cell p).barrier h b = s.barrier h b := rfl

/-- A bit of a number whose mask meets it is set there. -/
theorem or_bit_of_and_ne_zero {a : Dword} {p : Nat} (h : a &&& BitVec.ofNat 64 (2^p) ≠ 0) : a ||| BitVec.ofNat 64 (2^p) = a := by
  have hbit : BitVec.ofNat 64 (2^p) = BitVec.twoPow 64 p := BitVec.eq_of_toNat_eq (by simp [BitVec.toNat_twoPow])
  rw [hbit] at h ⊢
  rw [BitVec.and_twoPow] at h
  have hset : a.getLsbD p = true := Decidable.byContradiction (fun hn => h (if_neg hn))
  refine BitVec.eq_of_getLsbD_eq (fun i _ => ?_)
  rw [BitVec.getLsbD_or, BitVec.getLsbD_twoPow]
  by_cases hi : p = i
  · subst hi; simp [hset]
  · simp [hi]

/-- Two barriers hold the same MASK, ARRIVED, held arrivals and generation. -/
structure Barrier.Same (v c : Barrier) : Prop where
  mask : v.mask = c.mask
  rest : v.gen = c.gen ∧ v.arrived = c.arrived ∧ v.held = c.held

/-- The generation of a barrier completes where its MASK is not zero and all in it have arrived. -/
def Barrier.nextGen (b : Barrier) : Barrier :=
  if b.mask ≠ 0 ∧ b.arrived = b.mask then { b with gen := b.gen + 1, arrived := b.held, held := 0 } else b

/-- The barrier with participant p among those that have arrived. -/
def Barrier.counted (b : Barrier) (p first : Nat) : Barrier := { b with arrived := b.arrived ||| BitVec.ofNat 64 (2^p), first := first }

theorem Barrier.settle_eq (b : Barrier) : b.settle = b.nextGen.nextGen := rfl

section
variable {b : Barrier}

theorem Barrier.nextGen_open (ha : b.arrived ≠ b.mask) : b.nextGen = b := if_neg (fun h => ha h.2)

theorem Barrier.nextGen_full (hm : b.mask ≠ 0) (ha : b.arrived = b.mask) : b.nextGen = { b with gen := b.gen + 1, arrived := b.held, held := 0 } :=
  if_pos ⟨hm, ha⟩

theorem Barrier.nextGen_mask (b : Barrier) : b.nextGen.mask = b.mask := by
  unfold Barrier.nextGen
  split <;> rfl

theorem Barrier.settle_mask (b : Barrier) : b.settle.mask = b.mask := by
  rw [Barrier.settle_eq, Barrier.nextGen_mask, Barrier.nextGen_mask]

/-- A MASK with a participant in it is not zero. -/
theorem Barrier.mask_ne_zero {bit : Dword} (hm : b.mask &&& bit ≠ 0) : b.mask ≠ 0 := fun h => hm (by rw [h]; exact BitVec.zero_and)

theorem Barrier.settle_open (ha : b.arrived ≠ b.mask) : b.settle = b := by
  rw [Barrier.settle_eq, Barrier.nextGen_open ha, Barrier.nextGen_open ha]

/-- One generation is complete, and the held arrivals count in the next. -/
theorem Barrier.settle_once (hm : b.mask ≠ 0) (ha : b.arrived = b.mask) (hh : b.held ≠ b.mask) :
    b.settle = { b with gen := b.gen + 1, arrived := b.held, held := 0 } := by
  rw [Barrier.settle_eq, Barrier.nextGen_full hm ha]
  exact Barrier.nextGen_open hh

/-- The held arrivals complete the next generation too. -/
theorem Barrier.settle_twice (hm : b.mask ≠ 0) (ha : b.arrived = b.mask) (hh : b.held = b.mask) :
    b.settle = { b with gen := b.gen + 1 + 1, arrived := 0, held := 0 } := by
  rw [Barrier.settle_eq, Barrier.nextGen_full hm ha]
  exact Barrier.nextGen_full hm hh

end

section
variable {s : State} {h b p : Nat} {src : Party} {e : Barrier} (he : s.barrier h b = e)
include he

/-- A participant outside MASK changes nothing. -/
theorem State.arrive_outside (hm : e.mask &&& BitVec.ofNat 64 (2^p) = 0) : (s.arrive h b p src).barrier h b = e := by
  unfold State.arrive
  dsimp only
  rw [he, if_pos hm, State.barrier_barrierLog, he]

/-- A participant that has arrived is held for the next generation; one held already is held still. -/
theorem State.arrive_again (hm : e.mask &&& BitVec.ofNat 64 (2^p) ≠ 0) (ha : e.arrived &&& BitVec.ofNat 64 (2^p) ≠ 0) :
    ((s.arrive h b p src).barrier h b).Same { e with held := e.held ||| BitVec.ofNat 64 (2^p) } := by
  unfold State.arrive
  dsimp only
  rw [he, if_neg hm, if_neg ha]
  split
  · rw [State.barrier_barrierLog, State.barrier_setBarrier]
    exact ⟨rfl, rfl, rfl, rfl⟩
  · next hh =>
    rw [State.barrier_traceGen, State.barrier_barrierLog, or_bit_of_and_ne_zero hh, he]
    exact ⟨rfl, rfl, rfl, rfl⟩

section
variable (hm : e.mask &&& BitVec.ofNat 64 (2^p) ≠ 0) (ha : e.arrived &&& BitVec.ofNat 64 (2^p) = 0)
include hm ha

/-- A participant that has not arrived is counted, and the generations it completes with it. -/
theorem State.arrive_counted : ∃ first, ((s.arrive h b p src).barrier h b).Same (e.counted p first).settle := by
  unfold State.arrive
  dsimp only
  rw [he, if_neg hm, if_pos ha]
  generalize (if e.arrived = 0 then s.clk.now else e.first) = first
  refine ⟨first, ?_⟩
  unfold Barrier.counted
  generalize Barrier.settle _ = c
  split
  · rw [State.barrier_setBarrier]
    exact ⟨rfl, rfl, rfl, rfl⟩
  · rw [State.barrier_queuePass, State.barrier_traces, State.barrier_traceGen, State.barrier_setBarrier]
    exact ⟨rfl, rfl, rfl, rfl⟩

/-- The arrival of one of several that are still due is counted. -/
theorem State.arrive_short (ho : e.arrived ||| BitVec.ofNat 64 (2^p) ≠ e.mask) :
    ((s.arrive h b p src).barrier h b).Same { e with arrived := e.arrived ||| BitVec.ofNat 64 (2^p) } := by
  obtain ⟨first, hmask, hrest⟩ := State.arrive_counted (src := src) he hm ha
  rw [Barrier.settle_open (b := e.counted p first) ho] at hmask hrest
  exact ⟨hmask, hrest⟩

/-- The last arrival of a generation begins the next, in which those held count. -/
theorem State.arrive_last (hf : e.arrived ||| BitVec.ofNat 64 (2^p) = e.mask) (hh : e.held ≠ e.mask) :
    ((s.arrive h b p src).barrier h b).Same { e with gen := e.gen + 1, arrived := e.held, held := 0 } := by
  obtain ⟨first, hmask, hrest⟩ := State.arrive_counted (src := src) he hm ha
  rw [Barrier.settle_once (b := e.counted p first) (Barrier.mask_ne_zero hm) hf hh] at hmask hrest
  exact ⟨hmask, hrest⟩

/-- The last arrival of a generation completes the next too where all of MASK are held. -/
theorem State.arrive_lastTwice (hf : e.arrived ||| BitVec.ofNat 64 (2^p) = e.mask) (hh : e.held = e.mask) :
    ((s.arrive h b p src).barrier h b).Same { e with gen := e.gen + 2, arrived := 0, held := 0 } := by
  obtain ⟨first, hmask, hgen, hrest⟩ := State.arrive_counted (src := src) he hm ha
  rw [Barrier.settle_twice (b := e.counted p first) (Barrier.mask_ne_zero hm) hf hh] at hmask hgen hrest
  exact ⟨hmask, hgen.trans (BitVec.add_assoc e.gen 1 1), hrest⟩

end

theorem State.arrive_mask : ((s.arrive h b p src).barrier h b).mask = e.mask := by
  by_cases hm : e.mask &&& BitVec.ofNat 64 (2^p) = 0
  · rw [State.arrive_outside he hm]
  by_cases ha : e.arrived &&& BitVec.ofNat 64 (2^p) = 0
  · obtain ⟨first, hmask, -⟩ := State.arrive_counted (src := src) he hm ha
    exact hmask.trans (Barrier.settle_mask _)
  · exact (State.arrive_again he hm ha).mask

end

/-! ### A granted write of a barrier's ARRIVE (R227, R234) -/

/-- A word of a barrier cell whose check byte differs from the code by nothing decodes clean. -/
theorem State.decodeGran_syncRaw_clean {s : State} {h w : Nat} (hw : 8064 ≤ w) (hc : (s.syncAt h w).chk = 0) :
    decodeGran (s.syncRaw h w).data (s.syncRaw h w).chk = .clean := by
  have hraw : s.syncRaw h w = { data := s.syncRead h w, chk := checkByte (s.syncRead h w) ^^^ (s.syncAt h w).chk } :=
    if_neg (by omega)
  simp [hraw, hc, decodeGran]

/-- A write of ARRIVE is an arrival of the participant it names; an atomic returns STATE from before. -/
theorem State.syncAccess_arrive {s : State} {x : Xact} {h w : Nat} (m : Byte) (d : Dword) (hk : isWr x.kind = true) (hw : 8064 ≤ w)
    (h4 : (w - 8064) % 4 = 0) (hc : (s.syncAt h w).chk = 0) : ∃ src cyc, s.syncAccess x h w m d =
      { s := s.arrive h ((w - 8064) / 4) (d.toNat % 64) src, data := if x.kind = .atomic then (s.barrier h ((w - 8064) / 4)).state else 0,
        bad := false, cyc := cyc } := by
  have hcell : ¬w < 8064 := by omega
  unfold State.syncAccess
  simp only [State.decodeGran_syncRaw_clean hw hc, hk, h4, hcell, Bool.not_true, Bool.false_and, Bool.false_eq_true, ne_eq, not_true_eq_false,
    decide_false, Bool.and_false, if_false]
  cases x.kind <;> exact ⟨_, _, rfl⟩

@[simp] theorem State.barrier_answer (s : State) (x : Xact) (unit grant h b : Nat) : (s.answer x unit grant).barrier h b = s.barrier h b :=
  State.barrier_of_hives (congrArg Hives.barriers (Keeps.same_hives (pm := { cmdParts.all with hives := false })
    (by apply @State.answer_keeps <;> first | exact Keeps.refl _ _ | rfl) rfl)) h b

@[simp] theorem State.barrier_countGrant (s : State) (u : Nat) (x : Xact) (be : Bool) (h b : Nat) :
    (s.countGrant u x be).barrier h b = s.barrier h b :=
  State.barrier_of_hives (congrArg Hives.barriers (Keeps.same_hives (pm := { cmdParts.all with hives := false })
    (by apply @State.countGrant_keeps <;> first | exact Keeps.refl _ _ | rfl) rfl)) h b

@[simp] theorem State.barrier_occupy (s : State) (k n h b : Nat) : (s.occupy k n).barrier h b = s.barrier h b := rfl

theorem State.countGrant_flight (s : State) (u : Nat) (x : Xact) (be : Bool) : (s.countGrant u x be).flight = s.flight :=
  Keeps.sameFlight (by apply @State.countGrant_keeps <;> first | exact Keeps.refl _ _ | rfl)

theorem State.arrive_flight (s : State) (h b p : Nat) (src : Party) : (s.arrive h b p src).flight = s.flight :=
  Keeps.sameFlight (by apply @State.arrive_keeps <;> first | exact Keeps.refl _ _ | rfl)

/-- A request that its unit answers is in flight as an answer, with the data it was given. -/
theorem State.answer_xact {s : State} {x y : Xact} {n : Nat} (hx : s.xact n = some y) (hn : x.id = n) (unit grant : Nat) :
    ∃ z, (s.answer x unit grant).xact n = some z ∧ z.half = .answer ∧ z.data = x.data := by
  unfold State.answer State.answerMesh
  repeat' split
  all_goals exact ⟨_, State.xact_setX_same hx hn, rfl, rfl⟩

/-- A request of one word at the sync-page array: that word's access, and the answer. -/
theorem State.grantSync_word (s : State) (x : Xact) (h w g : Nat) (hg : x.syncWords = [g]) : ∃ y : Xact, ∃ n m,
    let o := s.syncAccess x h (w / 8 * 8 + g) m (if x.kind = .atomic then BitVec.ofNat 64 (x.data.toNat % 2^64) else Line.gran x.data g)
    s.grantSync x h w = ((o.s.countGrant h x false).occupy x.loc.arb o.cyc).answer y h n ∧ y.id = x.id ∧
      (x.kind = .atomic → y.data = Line.setGran 0 g o.data) := by
  unfold State.grantSync
  rw [hg]
  simp only [List.foldl_cons, List.foldl_nil, syncWord, Nat.zero_add]
  exact ⟨_, _, _, rfl, rfl, fun hk => by simp [hk]⟩

/-- A granted write of ARRIVE leaves its arrival at the barrier and its answer in flight. -/
theorem State.grant_arrive {s : State} {x : Xact} {h w : Nat} (hl : x.loc = .sync h w) (hg : x.syncWords = [w % 8]) (hw : 8064 ≤ w)
    (h4 : (w - 8064) % 4 = 0) (hk : isWr x.kind = true) (hx : s.xact x.id = some x) (hc : (s.syncAt h w).chk = 0) :
    let b := (w - 8064) / 4
    let d : Dword := if x.kind = .atomic then BitVec.ofNat 64 (x.data.toNat % 2^64) else Line.gran x.data (w % 8)
    ∃ u src z, u.barrier h b = s.barrier h b ∧ (s.grant x).barrier h b = (State.arrive u h b (d.toNat % 64) src).barrier h b ∧
      (s.grant x).xact x.id = some z ∧ z.half = .answer ∧ (x.kind = .atomic → z.data = Line.setGran 0 (w % 8) (s.barrier h b).state) := by
  intro b d
  have hgrant : s.grant x = ((s.noteGrant x.loc.arb x.sched).active h).grantSync x h w := by
    unfold State.grant
    rw [hl]
  have hsame : ((s.noteGrant x.loc.arb x.sched).active h).barrier h b = s.barrier h b := rfl
  have hin : ((s.noteGrant x.loc.arb x.sched).active h).xact x.id = some x := hx
  have hcheck : (((s.noteGrant x.loc.arb x.sched).active h).syncAt h w).chk = 0 := hc
  rw [hgrant]
  generalize (s.noteGrant x.loc.arb x.sched).active h = u at hsame hin hcheck
  obtain ⟨y, n, m, hsync, hid, hdata⟩ := u.grantSync_word x h w (w % 8) hg
  rw [Nat.div_add_mod'] at hsync hdata
  obtain ⟨src, cyc, hacc⟩ := State.syncAccess_arrive m d hk hw h4 hcheck
  rw [hacc] at hsync hdata
  rw [hsync]
  have hflight : (((u.arrive h b (d.toNat % 64) src).countGrant h x false).occupy x.loc.arb cyc).flight = u.flight :=
    (State.countGrant_flight _ _ _ _).trans (State.arrive_flight _ _ _ _ _)
  obtain ⟨z, hz, hhalf, hzd⟩ := State.answer_xact ((State.xact_flight hflight x.id).trans hin) hid h n
  refine ⟨u, src, z, hsame, ?_, hz, hhalf, fun ha => ?_⟩
  · rw [State.barrier_answer, State.barrier_occupy, State.barrier_countGrant]
  · rw [hzd, hdata ha, if_pos ha, ← hsame]

/-- BARRIER_ARRIVE grants the access where it is the first of its array and the array is free. -/
theorem exec_barrierArrive_first {s : State} {x : Xact} {h w : Nat} (hr : s.clk.rootOn = true) (hl : x.loc = .sync h w) (hw : 8064 ≤ w)
    (h4 : (w - 8064) % 4 = 0) (hfree : s.freeAt x.loc.arb ≤ s.clk.now)
    (hfirst : firstBy s.bankOrder ((s.before x.loc.arb).filter s.eligible) = some x) (hx : s.xact x.id = some x) :
    exec (.barrierArrive x.id) s = .next (s.grant x) := by
  change execBarrierArrive x.id s = _
  unfold execBarrierArrive
  rw [hx]
  dsimp only
  rw [hfirst]
  simp [hl, hr, hw, h4, hl ▸ hfree]

/-- Settles O25: a write of RFENCE is `rfence_busy`, `rfence_refused` or a fence begun and tested once (`fenceTry_open`, `fenceTry_ends`); a granted
write of ARRIVE is one arrival (`grant_arrive`), whose cases are those of `arrive` and `Barrier.settle`. -/
theorem fencesAndBarriersCount : Obligations.FencesAndBarriersCount := by
  unfold Obligations.FencesAndBarriersCount
  intro s h c
  refine ⟨?_, ?_⟩
  · intro hfree a g0 cell begins
    have hbegins : ∀ n all, begins (.next (s.rfence h.val c.val all n)) n all := by
      intro n all
      refine ⟨fun hb => by rw [State.rfence_busy hb], fun hb hc => ?_, fun hb hc => ?_⟩
      · rw [State.rfence_refused hfree.1 hb hc]
        exact ⟨_, rfl, State.status_setStatus _ _ _ _ _ _ (by decide), (s.wakeHive_keepsFences h.val).fences⟩
      · intro need acked f done lost
        have hf : a.newFence h.val c.val all n = f := by
          unfold State.newFence
          rw [State.wakeHive_clk]
        exact ⟨_, rfl, State.rfence_tested rfl hfree.1 hb hc hf⟩
    have hfence : exec (.fence h c) s = .next (s.rfence h.val c.val true 0) := congrArg _ (hfree.go (.fence h c) _)
    have hchip : ∀ chip, exec (.fenceChip h c chip) s = .next (s.rfence h.val c.val false chip.val) :=
      fun chip => congrArg _ (hfree.go (.fenceChip h c chip) _)
    refine ⟨?_, fun chip => ?_⟩
    · rw [hfence]
      exact hbegins 0 true
    · rw [hchip]
      exact hbegins chip.val false
  · intro x w hr hl hg hw h4 hk hfree hfirst hx hc b d p e bit
    obtain ⟨u, src, z, hu, hv, hz, hhalf, hdata⟩ := State.grant_arrive hl hg hw h4 hk hx hc
    refine ⟨_, z, exec_barrierArrive_first hr hl hw h4 hfree hfirst hx, hz, hhalf, hdata, ?_⟩
    rw [hv]
    exact ⟨State.arrive_mask hu, State.arrive_outside hu, fun hm ha ho => (State.arrive_short hu hm ha ho).rest,
      fun hm ha hf hh => (State.arrive_last hu hm ha hf hh).rest, fun hm ha hf hh => (State.arrive_lastTwice hu hm ha hf hh).rest,
      fun hm ha => (State.arrive_again hu hm ha).rest⟩

end Sys2Proof.Machine
end

section
/-!
SUPPORT. Wait registrations (R228 to R233): which of them a Hive has free, armed or done, what WAIT_OP and WAIT_RESULT do to them, and what a
release pass makes of those on its cell.
-/
namespace Sys2Proof.Machine

/-! ### Registrations and their setter -/

theorem State.wait_of_hives {s t : State} (e : t.hives.waits = s.hives.waits) (h n : Nat) : t.wait h n = s.wait h n := by
  unfold State.wait
  rw [e]

@[simp] theorem State.wait_setWait (s : State) (h n : Nat) (w : WaitReg) : (s.setWait h n w).wait h n = w := Tbl.get_set_same _ _ _ _

theorem State.wait_setWait_other (s : State) (h : Nat) {n m : Nat} (w : WaitReg) (hn : m ≠ n) : (s.setWait h n w).wait h m = s.wait h m :=
  Tbl.get_set_other _ _ _ _ _ (by omega)

@[simp] theorem State.wait_setPage (s : State) (g c off : Nat) (v : Dword) (h n : Nat) : (s.setPage g c off v).wait h n = s.wait h n := rfl
@[simp] theorem State.wait_setStatus (s : State) (g c off st keep h n : Nat) : (s.setStatus g c off st keep).wait h n = s.wait h n :=
  State.wait_of_hives (s.setStatus_hives_waits g c off st keep) h n
@[simp] theorem State.wait_cmdData (s : State) (g c off : Nat) (v : Dword) (h n : Nat) : (s.cmdData g c off v).wait h n = s.wait h n := rfl
@[simp] theorem State.page_cmdData (s : State) (g d off : Nat) (v : Dword) (h c o : Nat) : (s.cmdData g d off v).page h c o = s.page h c o := rfl

/-- The wake of a Hive touches no register of its control pages, no registration and no pass. -/
theorem State.wakeHive_hives (s : State) (h : Nat) :
    (s.wakeHive h).hives = { s.hives with active := (s.wakeHive h).hives.active, clock := (s.wakeHive h).hives.clock } := by
  unfold State.wakeHive State.active
  dsimp only
  split <;> rfl

theorem State.wakeHive_waits (s : State) (h : Nat) : (s.wakeHive h).hives.waits = s.hives.waits := by rw [State.wakeHive_hives]
theorem State.wakeHive_passes (s : State) (h : Nat) : (s.wakeHive h).hives.passes = s.hives.passes := by rw [State.wakeHive_hives]
theorem State.wakeHive_armNo (s : State) (h : Nat) : (s.wakeHive h).hives.armNo = s.hives.armNo := by rw [State.wakeHive_hives]
@[simp] theorem State.wakeHive_wait (s : State) (g h n : Nat) : (s.wakeHive g).wait h n = s.wait h n :=
  State.wait_of_hives (s.wakeHive_waits g) h n

theorem Faulted.waits {s t : State} (h : Faulted s t) : t.hives.waits = s.hives.waits := by rw [h.hives]
theorem Faulted.passes {s t : State} (h : Faulted s t) : t.hives.passes = s.hives.passes := by rw [h.hives]
theorem Faulted.barriers {s t : State} (h : Faulted s t) : t.hives.barriers = s.hives.barriers := by rw [h.hives]

theorem State.mem_waitsIn {s : State} {h st n : Nat} : n ∈ s.waitsIn h st ↔ n < 128 ∧ (s.wait h n).state = st := by
  simp [State.waitsIn]

@[simp] theorem State.wakeHive_waitsIn (s : State) (g h st : Nat) : (s.wakeHive g).waitsIn h st = s.waitsIn h st := by
  simp only [State.waitsIn, State.wakeHive_wait]

@[simp] theorem State.wakeHive_waitDone (s : State) (g h c : Nat) : (s.wakeHive g).waitDone h c = s.waitDone h c := by
  simp only [State.waitDone, State.wakeHive_wait]

@[simp] theorem State.wakeHive_waitArmed (s : State) (g h c : Nat) : (s.wakeHive g).waitArmed h c = s.waitArmed h c := by
  simp only [State.waitArmed, State.wakeHive_waitsIn, State.wakeHive_wait]

theorem State.passFull_iff {s : State} {h : Nat} : s.passFull h = true ↔ 16 ≤ (Tbl.get s.hives.passes [] h).length := decide_eq_true_iff

@[simp] theorem State.wakeHive_passFull (s : State) (g h : Nat) : (s.wakeHive g).passFull h = s.passFull h := by
  unfold State.passFull
  rw [State.wakeHive_passes]

/-! ### WAIT and WAITDEC (R230) -/

/-- No registration of the Hive is free. -/
theorem State.waitsIn_noneFree {s : State} {h : Nat} (hn : ∀ n < 128, (s.wait h n).state ≠ 0) : (s.waitsIn h 0).head? = none := by
  unfold State.waitsIn
  rw [List.head?_filter, List.find?_range_eq_none]
  simpa using hn

/-- The lowest free registration of the Hive (log entry 58). -/
theorem State.waitsIn_lowestFree {s : State} {h n : Nat} (hn : n < 128) (hfree : (s.wait h n).state = 0)
    (hlow : ∀ m < n, (s.wait h m).state ≠ 0) : (s.waitsIn h 0).head? = some n := by
  unfold State.waitsIn
  rw [List.head?_filter, List.find?_range_eq_some]
  exact ⟨decide_eq_true hfree, List.mem_range.mpr hn, fun m hm => by simpa using hlow m hm⟩

theorem waitRefused_iff {dec : Bool} {cond : Fin 8} {cell : Nat} {arg : Dword} :
    waitRefused (if dec then 0 else cond.val) cell dec arg.toNat = true ↔
      if dec then arg = 0 ∨ 8064 ≤ cell else cond = 7 ∨ (8064 ≤ cell ∧ cell % 4 ≠ 1) := by
  cases dec with
  | true => simp [waitRefused, ← BitVec.toNat_inj]
  | false =>
    have hcond : cond = 7 ↔ cond.val = 7 := Fin.ext_iff
    simp only [waitRefused, isBarState, hcond, Bool.false_eq_true, if_false, Bool.or_eq_true, Bool.and_eq_true, Bool.not_eq_true',
      Bool.and_eq_false_iff, decide_eq_true_eq, decide_eq_false_iff_not, ne_eq]
    omega

/-- The registration that a WAIT or WAITDEC arms. -/
def State.newWait (s : State) (h c cond cell tmo : Nat) (dec : Bool) : WaitReg :=
  { state := 1, ctx := c, cond := if dec then 0 else cond, dec := dec, cell := cell, tmo := tmo, value := s.page h c 0x300,
    order := s.hives.armNo + 1, armed := s.clk.now }

/-- Registration n armed in the newest place of the order, its number told with status 2, and a pass queued on its cell. -/
def State.armWait (s : State) (h c n : Nat) (w : WaitReg) : State :=
  ((State.setWait { s with hives := { s.hives with armNo := s.hives.armNo + 1 } } h n w).setStatus h c 0x308 2 (n * 2^46)).queuePass h w.cell
    { chip := s.chipId, unit := h, ctx := c, port := 7 }

section
variable {s : State} {h c cond cell tmo : Nat} {dec : Bool} {i : Instr} (ho : s.ctlOpen h = true)
include ho

/-- A refused WAIT or WAITDEC tells status 4 and changes no registration; the one that finds no registration free makes a record too. -/
theorem State.waitArm_refused (hr : waitRefused cond cell dec ((s.wakeHive h).page h c 0x300).toNat = true ∨ (s.waitsIn h 0).head? = none) :
    (s.waitArm h c cond cell tmo dec i).status h c 0x308 = 4 ∧ (s.waitArm h c cond cell tmo dec i).hives.waits = s.hives.waits := by
  have hst : ((s.wakeHive h).setStatus h c 0x308 4 0).status h c 0x308 = 4 := State.status_setStatus _ _ _ _ _ _ (by decide)
  have hw : ((s.wakeHive h).setStatus h c 0x308 4 0).hives.waits = s.hives.waits := s.wakeHive_waits h
  unfold State.waitArm
  rw [if_neg (by simp [ho])]
  dsimp only
  split
  · exact ⟨hst, hw⟩
  · next hok =>
    rw [State.wakeHive_waitsIn, hr.resolve_left hok]
    have hrec : ∀ r, Faulted ((s.wakeHive h).setStatus h c 0x308 4 0) (((s.wakeHive h).setStatus h c 0x308 4 0).faultAccess h h c r) :=
      fun r => State.faultAccess_faulted _ h h c r _
    exact ⟨(State.status_pages (hrec _).pages _ _ _).trans hst, (hrec _).waits.trans hw⟩

section
variable {n : Nat} (hok : ¬waitRefused cond cell dec ((s.wakeHive h).page h c 0x300).toNat = true) (hn : (s.waitsIn h 0).head? = some n)
include hok hn

/-- A WAIT or WAITDEC that is good and finds registration n free arms it; with the queue of passes full it stays first in its context's line. -/
theorem State.waitArm_good : s.waitArm h c cond cell tmo dec i = if s.passFull h then (s.wakeHive h).cmdHold h c i
    else (s.wakeHive h).armWait h c n ((s.wakeHive h).newWait h c cond cell tmo dec) := by
  unfold State.waitArm
  rw [if_neg (by simp [ho])]
  dsimp only
  rw [if_neg hok, State.wakeHive_waitsIn, hn, ← State.wakeHive_passFull s h h]
  rfl

end
end

@[simp] theorem State.page_queuePass (s : State) (g cell : Nat) (p : Party) (h c off : Nat) : (s.queuePass g cell p).page h c off = s.page h c off := rfl

/-- The number that WAIT_OP tells with its status. -/
theorem fld_waitReg {st n : Nat} (hn : n < 128) : fld (dwordOf [(63, 60, st), (59, 0, n * 2^46)]).toNat 52 46 = n := by
  unfold dwordOf pack pack pack fld
  rw [BitVec.toNat_ofNat]
  simp only [Nat.reduceAdd, Nat.reduceSub, Nat.reducePow]
  omega

section
variable (s : State) (h c n : Nat) (w : WaitReg)

theorem State.armWait_page : (s.armWait h c n w).page h c 0x308 = dwordOf [(63, 60, 2), (59, 0, n * 2^46)] := by
  unfold State.armWait State.setStatus
  rw [State.page_queuePass, State.page_setPage]

theorem State.armWait_status : (s.armWait h c n w).status h c 0x308 = 2 := by
  unfold State.status
  rw [State.armWait_page, fld_status _ _ (by decide)]

theorem State.armWait_reg (hn : n < 128) : fld ((s.armWait h c n w).page h c 0x308).toNat 52 46 = n := by
  rw [State.armWait_page, fld_waitReg hn]

theorem State.armWait_armNo : (s.armWait h c n w).hives.armNo = s.hives.armNo + 1 := rfl

theorem State.armWait_wait : (s.armWait h c n w).wait h n = w :=
  State.wait_setWait { s with hives := { s.hives with armNo := s.hives.armNo + 1 } } h n w

theorem State.armWait_wait_other {m : Nat} (hm : m ≠ n) : (s.armWait h c n w).wait h m = s.wait h m :=
  State.wait_setWait_other { s with hives := { s.hives with armNo := s.hives.armNo + 1 } } h w hm

theorem State.armWait_passes {cell : Nat} (hc : w.cell = cell) : ∃ p : Pass, p.cell = cell ∧
    Tbl.get (s.armWait h c n w).hives.passes [] h = Tbl.get s.hives.passes [] h ++ [p] :=
  ⟨⟨w.cell, _⟩, hc, Tbl.get_set_same _ _ _ _⟩

end

/-! ### The commands of a context (R230, R232, R233) -/

section
variable {s : State} {h : HiveId} {c : CtxId} (hf : s.cmdFree h c)
include hf

theorem exec_waitOp_free (dec : Bool) (cond : Fin 8) (tmo : BitVec 24) (cell : BitVec 13) :
    let i := if dec then Instr.waitdec h c tmo cell else .wait h c cond tmo cell
    exec i s = .next (s.waitArm h.val c.val (if dec then 0 else cond.val) cell.toNat tmo.toNat dec i) := by
  cases dec with
  | true => exact congrArg _ (hf.go (.waitdec h c tmo cell) _)
  | false => exact congrArg _ (hf.go (.wait h c cond tmo cell) _)

theorem exec_waitCancel_free (r : Fin 128) : let a := s.wakeHive h.val
    exec (.waitCancel h c r) s = .next (
      if (s.wait h.val r.val).state = 1 ∧ (s.wait h.val r.val).ctx = c.val then
        (a.setWait h.val r.val {}).setStatus h.val c.val 0x308 0 (r.val * 2^46)
      else a.setStatus h.val c.val 0x308 4 (r.val * 2^46)) := by
  refine congrArg Host.Outcome.next ((hf.go (.waitCancel h c r) _).trans ?_)
  rw [if_neg (by simp [hf.1])]
  dsimp only
  rw [State.wakeHive_wait]
  by_cases hm : (s.wait h.val r.val).state = 1 ∧ (s.wait h.val r.val).ctx = c.val
  · rw [if_pos hm]
    exact if_neg (by simp [hm])
  · rw [if_neg hm]
    exact if_pos (by simpa [Decidable.imp_iff_not_or] using hm)

/-- WAIT_RESULT returns and frees the registration that is done. -/
theorem exec_waitResultRead_done {n : Nat} (hd : s.waitDone h.val c.val = some n) :
    let r := dwordOf [(63, 62, (s.wait h.val n).state), (6, 0, n)]
    exec (.waitResultRead h c) s = .next (((((s.wakeHive h.val).setWait h.val n {}).setPage h.val c.val 0x310 r).setPage h.val c.val 0x318
      (s.wait h.val n).value).cmdData h.val c.val 0x310 r) := by
  refine congrArg Host.Outcome.next ((hf.go (.waitResultRead h c) _).trans ?_)
  rw [if_neg (by simp [hf.1])]
  dsimp only
  rw [State.wakeHive_waitDone, hd]
  dsimp only
  rw [State.wakeHive_wait]

theorem exec_waitResultRead_none (hd : s.waitDone h.val c.val = none) : let a := s.wakeHive h.val
    exec (.waitResultRead h c) s = .next (if s.waitArmed h.val c.val then a.cmdHold h.val c.val (.waitResultRead h c)
      else (a.setPage h.val c.val 0x310 0).cmdData h.val c.val 0x310 0) := by
  refine congrArg Host.Outcome.next ((hf.go (.waitResultRead h c) _).trans ?_)
  rw [if_neg (by simp [hf.1])]
  dsimp only
  rw [State.wakeHive_waitDone, hd, ← State.wakeHive_waitArmed s h.val]

end

section
variable {s : State} {h c : Nat}

theorem State.waitDone_lowest {n : Nat} (hn : n < 128) (hst : 2 ≤ (s.wait h n).state) (hc : (s.wait h n).ctx = c)
    (hlow : ∀ m < n, (s.wait h m).state < 2 ∨ (s.wait h m).ctx ≠ c) : s.waitDone h c = some n := by
  unfold State.waitDone
  rw [List.find?_range_eq_some]
  exact ⟨by simp [hst, hc], List.mem_range.mpr hn, fun m hm => by simpa [Decidable.imp_iff_not_or] using hlow m hm⟩

theorem State.waitDone_none (hn : ∀ m < 128, (s.wait h m).state < 2 ∨ (s.wait h m).ctx ≠ c) : s.waitDone h c = none := by
  unfold State.waitDone
  rw [List.find?_range_eq_none]
  exact fun m hm => by simpa [Decidable.imp_iff_not_or] using hn m hm

theorem State.waitArmed_iff : s.waitArmed h c = true ↔ ∃ m < 128, (s.wait h m).state = 1 ∧ (s.wait h m).ctx = c := by
  simp [State.waitArmed, State.mem_waitsIn, and_assoc]

end

/-! ### A timeout (R233) -/

/-- An armed registration whose timeout has come ends in state 3; records and signals apart, nothing else changes. -/
theorem exec_waitTimeout_due {s : State} {h : HiveId} {n : Fin 128} (ho : s.ctlOpen h.val = true) (hst : (s.wait h.val n.val).state = 1)
    (ht : (s.wait h.val n.val).tmo ≠ 0) (hd : 256 * (s.wait h.val n.val).tmo ≤ s.clk.now - (s.wait h.val n.val).armed) :
    ∃ t, exec (.waitTimeout h n) s = .next t ∧ Faulted (s.setWait h.val n.val { s.wait h.val n.val with state := 3 }) t := by
  refine ⟨_, congrArg Host.Outcome.next (if_neg ?_), (State.faultAccess_faulted _ _ _ _ _ _).trans (State.traceGen_reported _ _).faulted⟩
  simp [ho, hst, ht, hd]

/-! ### Registrations on a cell, in arming order (R231) -/

/-- A registration of a kind is armed on a cell. -/
def State.OnCell (s : State) (h cell : Nat) (dec : Bool) (m : Nat) : Prop :=
  m < 128 ∧ (s.wait h m).state = 1 ∧ (s.wait h m).cell = cell ∧ (s.wait h m).dec = dec

theorem State.insertOrder_perm (s : State) (h n : Nat) : ∀ l, (s.insertOrder h n l).Perm (n :: l)
  | [] => .refl _
  | m :: l => by
    unfold State.insertOrder
    split
    · exact .refl _
    · exact ((s.insertOrder_perm h n l).cons m).trans (.swap n m l)

theorem State.armedOn_perm (s : State) (h cell : Nat) (dec : Bool) :
    (s.armedOn h cell dec).Perm ((s.waitsIn h 1).filter (fun n => (s.wait h n).cell = cell && (s.wait h n).dec = dec)) := by
  unfold State.armedOn
  generalize (s.waitsIn h 1).filter _ = l
  induction l with
  | nil => exact .refl _
  | cons n l ih => exact (s.insertOrder_perm h n _).trans (ih.cons n)

section
variable {s : State} {h cell : Nat} {dec : Bool}

theorem State.mem_armedOn {m : Nat} : m ∈ s.armedOn h cell dec ↔ s.OnCell h cell dec m := by
  rw [(s.armedOn_perm h cell dec).mem_iff]
  simp [State.mem_waitsIn, State.OnCell, and_assoc]

theorem State.armedOn_nodup : (s.armedOn h cell dec).Nodup :=
  (s.armedOn_perm h cell dec).nodup_iff.mpr ((List.nodup_range.filter _).filter _)

theorem State.armedOn_nil (hn : ∀ m, ¬s.OnCell h cell dec m) : s.armedOn h cell dec = [] :=
  List.eq_nil_iff_forall_not_mem.mpr (fun m hm => hn m (State.mem_armedOn.mp hm))

theorem State.armedOn_single {n : Nat} (hn : ∀ m, s.OnCell h cell dec m ↔ m = n) : s.armedOn h cell dec = [n] := by
  rw [← List.perm_singleton, List.perm_ext_iff_of_nodup State.armedOn_nodup (List.pairwise_singleton _ n)]
  exact fun m => (State.mem_armedOn.trans (hn m)).trans List.mem_singleton.symm

end

/-! ### What a release leaves (R231, R232) -/

/-- From `s` to `t` no word of a sync page, no barrier and no queue of passes changes. -/
structure SameCells (s t : State) : Prop where
  sync     : t.mem.sync = s.mem.sync
  barriers : t.hives.barriers = s.hives.barriers
  passes   : t.hives.passes = s.hives.passes

theorem SameCells.refl (s : State) : SameCells s s := ⟨rfl, rfl, rfl⟩

theorem SameCells.trans {a b c : State} (h : SameCells a b) (k : SameCells b c) : SameCells a c :=
  ⟨k.sync.trans h.sync, k.barriers.trans h.barriers, k.passes.trans h.passes⟩

theorem SameCells.syncRead {s t : State} (e : SameCells s t) (h cell : Nat) : t.syncRead h cell = s.syncRead h cell := by
  unfold State.syncRead State.syncAt State.barrier
  rw [e.sync, e.barriers]

theorem SameCells.syncVal {s t : State} (e : SameCells s t) (h cell : Nat) : t.syncVal h cell = s.syncVal h cell := by
  have hraw : t.syncRaw h cell = s.syncRaw h cell := by
    unfold State.syncRaw State.syncAt
    rw [e.syncRead, e.sync]
  unfold State.syncVal
  rw [hraw]

theorem State.setWait_sameCells (s : State) (h n : Nat) (w : WaitReg) : SameCells s (s.setWait h n w) := ⟨rfl, rfl, rfl⟩

section
variable (s : State) (h n : Nat) (v : Dword) (src : Party)

/-- A release stores the registration; its signal and its trace record change nothing that a pass reads. -/
theorem State.release_faulted : Faulted (s.setWait h n { s.wait h n with state := 2, value := v }) (s.release h n v src) :=
  (State.pulse_faulted _ h _).trans (State.traceGen_reported _ _).faulted

theorem State.release_sameCells : SameCells s (s.release h n v src) := by
  have hf := s.release_faulted h n v src
  exact (s.setWait_sameCells h n _).trans ⟨congrArg Mem.sync hf.mem, hf.barriers, hf.passes⟩

theorem State.release_wait (m : Nat) :
    (s.release h n v src).wait h m = if m = n then { s.wait h n with state := 2, value := v } else s.wait h m := by
  rw [State.wait_of_hives ((s.release_faulted h n v src).waits)]
  split
  · next hm => rw [hm, State.wait_setWait]
  · next hm => exact State.wait_setWait_other s h _ hm

end

/-! ### The phases of a pass (R231) -/

theorem State.passWaits_cons (s : State) (h cell : Nat) (src : Party) (n : Nat) (ns : List Nat) : s.passWaits h cell src (n :: ns) = State.passWaits
    (if condHolds (s.wait h n).cond (s.syncVal h cell) (s.wait h n).value then s.release h n (s.syncVal h cell) src else s) h cell src ns := rfl

theorem State.passWaits_sameCells (s : State) (h cell : Nat) (src : Party) (ns : List Nat) : SameCells s (s.passWaits h cell src ns) := by
  induction ns generalizing s with
  | nil => exact .refl s
  | cons n ns ih =>
    rw [State.passWaits_cons]
    refine SameCells.trans ?_ (ih _)
    split
    · exact s.release_sameCells h n _ src
    · exact .refl s

/-- Of the registrations listed, those whose condition holds are released with the cell's value. -/
theorem State.passWaits_wait (s : State) (h cell : Nat) (src : Party) {ns : List Nat} (hns : ns.Nodup) (m : Nat) :
    (s.passWaits h cell src ns).wait h m =
      if m ∈ ns ∧ condHolds (s.wait h m).cond (s.syncVal h cell) (s.wait h m).value = true then
        { s.wait h m with state := 2, value := s.syncVal h cell } else s.wait h m := by
  induction ns generalizing s with
  | nil => exact (if_neg (by simp)).symm
  | cons n ns ih =>
    obtain ⟨hnotin, hns⟩ := List.nodup_cons.mp hns
    rw [State.passWaits_cons, ih _ hns]
    by_cases hc : condHolds (s.wait h n).cond (s.syncVal h cell) (s.wait h n).value = true
    · rw [if_pos hc, (s.release_sameCells h n _ src).syncVal, State.release_wait]
      by_cases hm : m = n
      · subst hm; simp [hnotin, hc]
      · simp [hm]
    · rw [if_neg hc]
      by_cases hm : m = n
      · subst hm; simp [hnotin, hc]
      · simp [hm]

section
variable {s : State} {h cell n : Nat} {src : Party}

theorem State.passDecs_fits (hv : (s.wait h n).value.toNat ≤ (s.syncVal h cell).toNat) : s.passDecs h cell src [n] =
    (s.setSync h cell (s.syncVal h cell - (s.wait h n).value)).release h n (s.syncVal h cell) src := if_pos hv

theorem State.passDecs_short (hv : ¬(s.wait h n).value.toNat ≤ (s.syncVal h cell).toNat) : s.passDecs h cell src [n] = s := if_neg hv

/-- A lone WAITDEC is released where its operand is not more than the cell's value. -/
theorem State.passDecs_wait (m : Nat) : (s.passDecs h cell src [n]).wait h m =
    if m = n ∧ (s.wait h n).value.toNat ≤ (s.syncVal h cell).toNat then { s.wait h n with state := 2, value := s.syncVal h cell }
    else s.wait h m := by
  by_cases hv : (s.wait h n).value.toNat ≤ (s.syncVal h cell).toNat
  · rw [State.passDecs_fits hv, State.release_wait]
    simp only [hv, and_true]
    rfl
  · rw [State.passDecs_short hv, if_neg (fun hm => hv hm.2)]

/-- A released WAITDEC takes its operand off the cell. -/
theorem State.passDecs_syncRead (hc : cell < 8064) (hv : (s.wait h n).value.toNat ≤ (s.syncVal h cell).toNat) :
    (s.passDecs h cell src [n]).syncRead h cell = s.syncVal h cell - (s.wait h n).value := by
  rw [State.passDecs_fits hv, (State.release_sameCells _ h n _ src).syncRead]
  unfold State.syncRead State.syncAt State.setSync
  rw [if_pos hc, Tbl.get_set_same]

end

/-- No phase of a pass touches the queues of passes. -/
theorem State.passDecs_passes (s : State) (h cell : Nat) (src : Party) (ns : List Nat) : (s.passDecs h cell src ns).hives.passes = s.hives.passes := by
  induction ns generalizing s with
  | nil => rfl
  | cons n ns ih =>
    rw [State.passDecs]
    split
    · exact (ih _).trans (State.release_sameCells (s.setSync h cell (s.syncVal h cell - (s.wait h n).value)) h n _ src).passes
    · rfl

/-! ### A pass -/

theorem State.pass_passes (s : State) (h cell : Nat) (src : Party) : (s.pass h cell src).hives.passes = s.hives.passes := by
  have hwaits := fun (u : State) ns => (u.passWaits_sameCells h cell src ns).passes
  have hdecs : ∀ (u : State) ns, (if cell < 8064 then u.passDecs h cell src ns else u).hives.passes = u.hives.passes := by
    intro u ns
    split
    · exact u.passDecs_passes h cell src ns
    · rfl
  have htwo := (hdecs (s.passWaits h cell src (s.armedOn h cell false)) (s.armedOn h cell true)).trans (hwaits s _)
  unfold State.pass
  dsimp only
  generalize (if cell < 8064 then _ else _ : State) = u at htwo ⊢
  split
  · exact htwo
  · exact (hwaits u _).trans htwo

section
variable {s : State} {h cell n : Nat} {src : Party}

/-- With no WAITDEC on its cell a pass is its first phase. -/
theorem State.pass_waitsOnly (hd : ∀ m, ¬s.OnCell h cell true m) : s.pass h cell src = s.passWaits h cell src (s.armedOn h cell false) := by
  have hphase : ∀ u : State, (if cell < 8064 then u.passDecs h cell src [] else u) = u := fun u => ite_self u
  unfold State.pass
  rw [State.armedOn_nil hd]
  dsimp only
  rw [hphase]
  exact if_pos ((s.passWaits_sameCells h cell src _).syncRead h cell)

/-- With a lone WAITDEC on its cell a pass is its second phase: the third finds no WAIT there either. -/
theorem State.pass_decOnly (hc : cell < 8064) (hw : ∀ m, ¬s.OnCell h cell false m) (hd : ∀ m, s.OnCell h cell true m ↔ m = n) :
    s.pass h cell src = s.passDecs h cell src [n] := by
  have hafter : ∀ m, ¬(s.passDecs h cell src [n]).OnCell h cell false m := by
    intro m hm
    unfold State.OnCell at hm
    rw [State.passDecs_wait] at hm
    split at hm
    · obtain ⟨-, hst, -⟩ := hm
      exact absurd (show 2 = 1 from hst) (by decide)
    · exact hw m hm
  unfold State.pass
  rw [State.armedOn_nil hw, State.armedOn_single hd]
  dsimp only
  rw [if_pos hc]
  change (if (s.passDecs h cell src [n]).syncRead h cell = s.syncRead h cell then s.passDecs h cell src [n]
    else (s.passDecs h cell src [n]).passWaits h cell src ((s.passDecs h cell src [n]).armedOn h cell false)) = _
  rw [State.armedOn_nil hafter]
  exact ite_self _

end

/-- A pass begun: it has left the queue, which keeps `q`, and its Hive is taken for a cycle of each registration on its cell. -/
def State.passBegun (s : State) (h cell : Nat) (q : List Pass) : State :=
  State.occupy { s with hives := { s.hives with passes := Tbl.set s.hives.passes [] h q } } (passKey h)
    ((s.armedOn h cell false).length + (s.armedOn h cell true).length)

theorem State.passBegun_passes (s : State) (h cell : Nat) (q : List Pass) : Tbl.get (s.passBegun h cell q).hives.passes [] h = q :=
  Tbl.get_set_same _ _ _ _

theorem exec_releasePass_next {s : State} {h : HiveId} {p : Pass} {q : List Pass} (hq : Tbl.get s.hives.passes [] h.val = p :: q)
    (ho : s.ctlOpen h.val = true) (hh : s.power.hold = false) (hf : s.freeAt (passKey h.val) ≤ s.clk.now) :
    exec (.releasePass h) s = .next ((s.passBegun h.val p.cell q).pass h.val p.cell (unpackParty p.src)) := by
  change execReleasePass h s = _
  unfold execReleasePass
  rw [hq]
  exact congrArg Host.Outcome.next (if_neg (by simp [ho, hh, hf]))

/-- Settles O27: WAIT and WAITDEC case by case (`State.waitArm_refused`, `State.waitArm_good`), CANCEL and WAIT_RESULT by the registration they
find, a timeout (`exec_waitTimeout_due`), and a release pass by its phases (`State.pass_waitsOnly`, `State.pass_decOnly`). The registration
taken is the lowest free one, and those that a pass releases go in arming order (log entry 58). -/
theorem waitsArmAndRelease : Obligations.WaitsArmAndRelease := by
  unfold Obligations.WaitsArmAndRelease
  intro s h c
  refine ⟨fun hf => ⟨fun dec cond tmo cell => ?_, fun r => ?_, fun n hn hst hc hlow => ?_, fun hnone => ⟨fun harmed => ?_, fun hfree => ?_⟩⟩,
    fun n => ?_, fun p q hq ho hh hb => ?_⟩
  · have hexec := exec_waitOp_free hf dec cond tmo cell
    refine ⟨fun hbad => ?_, fun n hn hok hfree hlow => ?_⟩
    · exact ⟨_, hexec, State.waitArm_refused hf.1 (hbad.imp waitRefused_iff.mpr State.waitsIn_noneFree)⟩
    · have harm := State.waitArm_good (tmo := tmo.toNat) (i := if dec then Instr.waitdec h c tmo cell else .wait h c cond tmo cell) hf.1
        (fun hr => hok (waitRefused_iff.mp hr)) (State.waitsIn_lowestFree hn hfree hlow)
      rw [← State.passFull_iff, ← Nat.not_le, ← State.passFull_iff]
      refine ⟨fun hp => hexec.trans (congrArg _ (harm.trans (if_pos hp))), fun hp => ⟨_, hexec.trans (congrArg _ (harm.trans (if_neg hp))), ?_⟩⟩
      refine ⟨State.armWait_status _ _ _ _ _, State.armWait_reg _ _ _ _ _ hn, ?_, ?_, fun m hm => ?_, ?_⟩
      · rw [State.armWait_armNo, State.wakeHive_armNo]
      · rw [State.armWait_wait, State.newWait, State.wakeHive_armNo, State.wakeHive_clk]
        cases dec <;> rfl
      · rw [State.armWait_wait_other _ _ _ _ _ hm, State.wakeHive_wait]
      · rw [← s.wakeHive_passes h.val]
        exact State.armWait_passes _ _ _ _ _ rfl
  · intro mine
    rw [exec_waitCancel_free hf r]
    by_cases hm : mine
    · rw [if_pos hm]
      refine ⟨_, rfl, fun _ => ⟨State.status_setStatus _ _ _ _ _ _ (by decide), ?_⟩, fun hn => absurd hm hn, fun m hne => ?_⟩
      · rw [State.wait_setStatus, State.wait_setWait]
      · rw [State.wait_setStatus, State.wait_setWait_other _ _ _ hne, State.wakeHive_wait]
    · rw [if_neg hm]
      refine ⟨_, rfl, fun hn => absurd hn hm, fun _ => ⟨State.status_setStatus _ _ _ _ _ _ (by decide), ?_⟩, fun m _ => ?_⟩
      · rw [State.setStatus_hives_waits, State.wakeHive_waits]
      · rw [State.wait_setStatus, State.wakeHive_wait]
  · refine ⟨_, exec_waitResultRead_done hf (State.waitDone_lowest hn hst hc hlow), ?_, ?_, ?_, fun m hm => ?_⟩
    · rw [State.page_cmdData, State.page_setPage_other _ _ _ _ _ _ (by decide), State.page_setPage]
    · rw [State.page_cmdData, State.page_setPage]
    · rw [State.wait_cmdData, State.wait_setPage, State.wait_setPage, State.wait_setWait]
    · rw [State.wait_cmdData, State.wait_setPage, State.wait_setPage, State.wait_setWait_other _ _ _ hm, State.wakeHive_wait]
  · exact (exec_waitResultRead_none hf (State.waitDone_none hnone)).trans (congrArg _ (if_pos (State.waitArmed_iff.mpr harmed)))
  · have hidle : ¬s.waitArmed h.val c.val = true := by
      rw [State.waitArmed_iff]
      rintro ⟨m, hm, hst, hc⟩
      exact (hfree m hm).elim (fun h0 => by omega) (fun hne => hne hc)
    refine ⟨_, (exec_waitResultRead_none hf (State.waitDone_none hnone)).trans (congrArg _ (if_neg hidle)), ?_, s.wakeHive_waits h.val⟩
    rw [State.page_cmdData, State.page_setPage]
  · intro w ho hst ht hd
    obtain ⟨t, hexec, hfault⟩ := exec_waitTimeout_due ho hst ht hd
    have hwait := State.wait_of_hives hfault.waits h.val
    exact ⟨t, hexec, (hwait n.val).trans (State.wait_setWait _ _ _ _), fun m hm => (hwait m).trans (State.wait_setWait_other s _ _ hm),
      congrArg Mem.sync hfault.mem⟩
  · intro on v
    have hwaits := fun hnone : ∀ m, ¬on true m =>
      State.pass_waitsOnly (s := s.passBegun h.val p.cell q) (src := unpackParty p.src) hnone
    have hdec := fun n hc (hnone : ∀ m, ¬on false m) (hone : ∀ m, on true m ↔ m = n) =>
      State.pass_decOnly (s := s.passBegun h.val p.cell q) (n := n) (src := unpackParty p.src) hc hnone hone
    refine ⟨_, exec_releasePass_next hq ho hh hb, ?_, fun hnone => ?_, fun n hc hnone hone m => ?_, fun n hc hnone hone hv => ?_⟩
    · rw [State.pass_passes, State.passBegun_passes]
    · rw [hwaits hnone]
      refine ⟨(State.passWaits_sameCells _ _ _ _ _).sync, fun m => ?_⟩
      refine (State.passWaits_wait _ _ _ _ State.armedOn_nodup m).trans ?_
      exact ite_congr (propext (and_congr_left (fun _ => State.mem_armedOn))) (fun _ => rfl) (fun _ => rfl)
    · rw [hdec n hc hnone hone]
      exact State.passDecs_wait m
    · rw [hdec n hc hnone hone]
      exact State.passDecs_syncRead hc hv

end Sys2Proof.Machine
end

section
/-!
SUPPORT. Mirrored regions and kept copies (R320 to R325, R337): what a write of MIRROR_REGION and of MIRROR_RESERVE does, case by case, and what
a seed read and the end of a pass of a restoration do.
-/
namespace Sys2Proof.Machine

/-! ### A region or a copy just stored -/

@[simp] theorem State.setRegion_mregion (s : State) (i : Nat) (q : Quad) : (s.setRegion i q).mregion i = q := Tbl.get_set_same _ _ _ _

@[simp] theorem State.setReserve_mreserve (s : State) (i : Nat) (q : Quad) : (s.setReserve i q).mreserve i = q := Tbl.get_set_same _ _ _ _

theorem State.setReserve_mirror_prog (s : State) (i : Nat) (q : Quad) : (s.setReserve i q).mirror.prog = s.mirror.prog := rfl

/-! ### A write of MIRROR_REGION (R320, R322) -/

/-- The pages of the write meet another enabled region. -/
def State.regionMeets (s : State) (i : Nat) (v : Quad) : Prop :=
  ∃ j, j < 64 ∧ j ≠ i ∧ mrEn (s.mregion j) = true ∧ runsMeet (mrBase v) (mrPages v) (mrBase (s.mregion j)) (mrPages (s.mregion j)) = true

/-- The write asks for other pages than the element has, or for another copy of them. -/
def regionMoved (v old : Quad) : Prop := mrBase v ≠ mrBase old ∨ mrPages v ≠ mrPages old ∨ mrCopy v ≠ mrCopy old

/-- What R320 refuses. -/
def State.regionBad (s : State) (i : Nat) (v : Quad) : Prop :=
  mrPages v = 0 ∨ s.regionFits (mrBase v) (mrPages v) = false ∨ s.regionMeets i v ∨
    (mrEn v = true ∧ regionMoved v (s.mregion i) ∧ mrState (s.mregion i) ≠ 0)

/-- The element as an accepted write stores it: it keeps its state. -/
def State.regionNew (s : State) (i : Nat) (v : Quad) : Quad :=
  BitVec.ofNat 128 (pack [(127, 125, mrState (s.mregion i)), (124, 124, b2n (mrSync v)), (123, 123, b2n (mrEn v)), (99, 64, mrCopy v),
    (63, 36, mrPages v), (35, 0, mrBase v)])

/-- A partner is there to take setups and fences (R322). -/
def State.partnerUp (s : State) : Prop := s.paired = true ∨ s.mirror.st = .restoring

theorem State.setRegion_partnerUp (s : State) (i : Nat) (q : Quad) : (s.setRegion i q).partnerUp ↔ s.partnerUp := Iff.rfl

/-- What follows an accepted write v that has made q of element i, which was `old`: it goes by the enable bit before and after. -/
def State.regionFollow (s : State) (i : Nat) (old q v : Quad) : State :=
  let up := s.paired || s.mirror.st = .restoring
  if mrEn v && !mrEn old then
    if up then s.sendSetup i else s.setRegion i (withMrState q 3)
  else if !mrEn v && mrEn old then
    if up && mrState old ≠ 3 then s.sendSeq 0x45 i 0 64 0 0 [] [.disable i] false else s.setRegion i (withMrState q 0)
  else s

section
variable {s : State} {i : Nat} {v : Quad}

theorem State.regionWrite_refused (hb : s.regionBad i v) : (s.regionWrite i v).1 = s := by
  unfold State.regionWrite
  refine congrArg Prod.fst (if_pos ?_)
  simpa [State.regionBad, State.regionMeets, regionMoved, or_assoc, and_assoc] using hb

theorem State.regionWrite_accepted (hb : ¬s.regionBad i v) :
    (s.regionWrite i v).1 = (s.setRegion i (s.regionNew i v)).regionFollow i (s.mregion i) (s.regionNew i v) v := by
  unfold State.regionWrite
  dsimp only
  rw [if_neg]
  · simp only [apply_ite Prod.fst, State.regionFollow, State.regionNew]
    rfl
  · simpa [State.regionBad, State.regionMeets, regionMoved, or_assoc, and_assoc] using hb

end

section
variable {s : State} {i : Nat} {old q v : Quad}

theorem State.partnerUp_iff : s.partnerUp ↔ (s.paired || decide (s.mirror.st = .restoring)) = true := by
  simp [State.partnerUp]

theorem State.regionFollow_setup (hv : mrEn v = true) (ho : mrEn old = false) (hup : s.partnerUp) :
    s.regionFollow i old q v = s.sendSetup i := by
  simp [State.regionFollow, hv, ho, State.partnerUp_iff.mp hup]

theorem State.regionFollow_solo (hv : mrEn v = true) (ho : mrEn old = false) (hup : ¬s.partnerUp) :
    s.regionFollow i old q v = s.setRegion i (withMrState q 3) := by
  simp [State.regionFollow, hv, ho, mt State.partnerUp_iff.mpr hup]

theorem State.regionFollow_fence (hv : mrEn v = false) (ho : mrEn old = true) (hup : s.partnerUp) (hst : mrState old ≠ 3) :
    s.regionFollow i old q v = s.sendSeq 0x45 i 0 64 0 0 [] [.disable i] false := by
  simp [State.regionFollow, hv, ho, State.partnerUp_iff.mp hup, hst]

theorem State.regionFollow_off (hv : mrEn v = false) (ho : mrEn old = true) (h : ¬s.partnerUp ∨ mrState old = 3) :
    s.regionFollow i old q v = s.setRegion i (withMrState q 0) := by
  rcases h with hup | hst
  · simp [State.regionFollow, hv, ho, mt State.partnerUp_iff.mpr hup]
  · simp [State.regionFollow, hv, ho, hst]

theorem State.regionFollow_sameEnable (he : mrEn v = mrEn old) : s.regionFollow i old q v = s := by
  simp [State.regionFollow, he]

end

theorem exec_mirrorRegionWrite_eq {s : State} (hp : s.mgmt.por = false) (i : Fin 64) (v : Quad) :
    exec (.mirrorRegionWrite i v) s = .next (s.regionWrite i.val v).1 := by
  change execMirrorRegionWrite i v s = _
  simp [execMirrorRegionWrite, hp]

/-! ### A write of MIRROR_RESERVE (R321) -/

/-- The run of the write lies inside an extent that is kept for copies. -/
def State.reserveInside (s : State) (v : Quad) : Prop :=
  ∃ e ∈ s.err.extents, e.kind = 6 ∧ e.base ≤ 4096 * mrBase v ∧ 4096 * mrBase v + 4096 * mrPages v ≤ e.base + e.len

/-- The run of the write meets another element that is not OFF. -/
def State.reserveMeets (s : State) (i : Nat) (v : Quad) : Prop :=
  ∃ j, j < 64 ∧ j ≠ i ∧ mrState (s.mreserve j) ≠ 0 ∧ runsMeet (mrBase v) (mrPages v) (mrBase (s.mreserve j)) (mrPages (s.mreserve j)) = true

/-- The element as an accepted write stores it. -/
def reserveNew (v : Quad) : Quad :=
  BitVec.ofNat 128 (pack [(127, 125, if mrPages v = 0 then 0 else 1), (99, 64, mrCopy v), (63, 36, mrPages v), (35, 0, mrBase v)])

section
variable {s : State} {i : Nat} {v : Quad}

theorem State.reserveWrite_inUse (ho : 2 ≤ mrState (s.mreserve i)) : (s.reserveWrite i v).1 = s := by
  simp [State.reserveWrite, ho]

theorem State.reserveWrite_frees (ho : mrState (s.mreserve i) < 2) (hv : mrPages v = 0) : (s.reserveWrite i v).1 = s.setReserve i 0 := by
  simp [State.reserveWrite, Nat.not_le_of_lt ho, hv]

theorem State.reserveWrite_sized (ho : mrState (s.mreserve i) < 2) (hv : mrPages v ≠ 0) :
    (¬s.reserveInside v ∨ s.reserveMeets i v → (s.reserveWrite i v).1 = s) ∧
    (s.reserveInside v → ¬s.reserveMeets i v → (s.reserveWrite i v).1 = s.setReserve i (reserveNew v)) := by
  have hinside : s.err.extents.any (fun e => e.kind = 6 && decide (e.base ≤ 4096 * mrBase v) &&
      decide (4096 * mrBase v + 4096 * mrPages v ≤ e.base + e.len)) = true ↔ s.reserveInside v := by
    simp [State.reserveInside, and_assoc]
  have hmeets : (List.range 64).any (fun j => j ≠ i && mrState (s.mreserve j) ≠ 0 &&
      runsMeet (mrBase v) (mrPages v) (mrBase (s.mreserve j)) (mrPages (s.mreserve j))) = true ↔ s.reserveMeets i v := by
    simp [State.reserveMeets, and_assoc]
  unfold State.reserveWrite
  dsimp only
  rw [if_neg (Nat.not_le_of_lt ho), if_neg hv, ← hinside, ← hmeets]
  refine ⟨fun h => congrArg Prod.fst (if_pos ?_), fun hi hm => congrArg Prod.fst (if_neg ?_)⟩
  · simpa using h
  · simpa [hi] using hm

end

theorem exec_mirrorReserveWrite_eq {s : State} (hp : s.mgmt.por = false) (i : Fin 64) (v : Quad) :
    exec (.mirrorReserveWrite i v) s = .next (s.reserveWrite i.val v).1 := by
  change execMirrorReserveWrite i v s = _
  simp [execMirrorReserveWrite, hp]

/-! ### The seeding of a region (R322 step 3, R324) -/

/-- How far the seeding of region i has come. -/
def State.seedAt (s : State) (i : Nat) : MProg := Tbl.get s.mirror.prog {} i

/-- The address of the next line that the seeding of region i reads. -/
def State.seedGa (s : State) (i : Nat) : Nat := 4096 * mrBase (s.mregion i) + 64 * (s.seedAt i).next

/-- What a seed read of region i needs. -/
def State.seedMay (s : State) (i : Nat) : Prop :=
  let q := s.mregion i
  let loc := s.locate (s.seedGa i)
  s.throttled 2 = false ∧ mrState q = 1 ∧ mrEn q = true ∧ (s.seedAt i).next < 64 * mrPages q ∧ s.fwdQueue loc.unit < 1024 ∧
    (loc.rowId = none ∨ s.freeAt loc.arb ≤ s.clk.now)

/-- The copy by which a seed read of region i passes its line on; the region's last line is marked. -/
def State.seedCopy (s : State) (i : Nat) : Xact :=
  { kind := .write, ga := BitVec.ofNat 48 (s.seedGa i), mask := fullMask, data := (s.peek (s.seedGa i)).1, unit := (s.locate (s.seedGa i)).unit,
    dest := i, dir := b2n ((s.seedAt i).next + 1 = 64 * mrPages (s.mregion i)), purpose := .mirrorSeed i }

/-- The seeding of region i one line further, the row's bank taken for the read. -/
def State.seedStepped (s : State) (i : Nat) : State :=
  let loc := s.locate (s.seedGa i)
  let u := if loc.rowId.isSome = true then s.occupy loc.arb 1 else s
  { u with mirror := { u.mirror with prog := Tbl.set u.mirror.prog {} i { s.seedAt i with next := (s.seedAt i).next + 1 } } }

theorem exec_mirrorSeedRead_eq {s : State} (hr : s.clk.rootOn = true) (i : Fin 64) [Decidable (s.seedMay i.val)] :
    exec (.mirrorSeedRead i) s = .next (if s.seedMay i.val then (s.seedStepped i.val).putCopy (s.seedCopy i.val) else s) := by
  change execMirrorSeedRead i s = _
  refine congrArg Host.Outcome.next ((ite_congr (propext ?_) (fun _ => rfl) (fun _ => rfl)).trans (ite_not _ _ _))
  simp only [State.seedMay, State.seedGa, State.seedAt, Classical.not_and_iff_not_or_not, not_or]
  simp [hr, or_assoc, Option.isSome_iff_ne_none]

/-! ### The passes of a restoration (R337) -/

/-- The restoration of element i. -/
def State.restoreAt (s : State) (i : Nat) : MProg := Tbl.get s.mirror.prog {} (64 + i)

/-- The lines that the pass of element i sends. -/
def State.restoreTodo (s : State) (i : Nat) : List Nat :=
  if (s.restoreAt i).pass = 0 then List.range (64 * mrPages (s.mreserve i)) else (s.restoreAt i).todo

/-- The lines as they are sent: the final pass sends the last line of the run where none is due, so that a last line is marked. -/
def State.restoreLines (s : State) (i : Nat) : List Nat :=
  if (s.restoreAt i).final && (s.restoreTodo i).isEmpty then [64 * mrPages (s.mreserve i) - 1] else s.restoreTodo i

/-- The lines of a pass of element i go out as MRET, the last line of the final pass marked. -/
def State.restoreSend (s : State) (i : Nat) (lines : List Nat) : State :=
  (lines.zipIdx).foldl (fun (t : State) e =>
    t.sendSeq 0x48 i 0 (if (s.restoreAt i).final && e.2 + 1 = lines.length then 4 else 0) (64 * e.1) fullMask
      [(t.peek (4096 * mrBase (s.mreserve i) + 64 * e.1)).1] [] false) s

/-- The pass that follows the present one of element i: the lines written since are due in it, and it is the final one once they are few or the
passes are used up. -/
def State.restoreNext (s : State) (i : Nat) : MProg :=
  let p := s.restoreAt i
  { next := 0, pass := p.pass + 1, final := decide (p.dirty.length ≤ s.pv 0x1014 0) || decide (s.pv 0x1015 0 ≤ p.pass + 1), dirty := [], todo := p.dirty }

section
variable {s : State} {i : Fin 64}

theorem exec_mirrorRestorePassEnd_held (h : ¬(mrState (s.mreserve i.val) = 5 ∧ s.mayMirror = true)) :
    exec (.mirrorRestorePassEnd i) s = .next s := by
  change execMirrorRestorePassEnd i s = _
  refine congrArg Host.Outcome.next (if_pos ?_)
  rw [Classical.not_and_iff_not_or_not] at h
  simpa [or_assoc] using Or.inr h

/-- The final pass has gone out: the element is HOLDING, and its restoration is forgotten. -/
def State.restoreEnded (s : State) (i : Nat) (q : Quad) : State :=
  let v := s.setReserve i (withMrState q 3)
  State.restoredTry { v with mirror := { v.mirror with prog := Tbl.erase s.mirror.prog (64 + i) } }

theorem State.restoreEnded_eq (s : State) (i : Nat) (q : Quad) :
    let v := s.setReserve i (withMrState q 3)
    s.restoreEnded i q = State.restoredTry { v with mirror := { v.mirror with prog := Tbl.erase v.mirror.prog (64 + i) } } := by
  dsimp only
  rw [State.setReserve_mirror_prog, State.restoreEnded]

/-- A pass that was not the final one has gone out. -/
def State.restoreGoesOn (s : State) (i : Nat) (p : MProg) : State :=
  { s with mirror := { s.mirror with prog := Tbl.set s.mirror.prog {} (64 + i) p } }

theorem exec_mirrorRestorePassEnd_due (hr : s.clk.rootOn = true) (h : mrState (s.mreserve i.val) = 5 ∧ s.mayMirror = true) :
    exec (.mirrorRestorePassEnd i) s = .next (if (s.restoreAt i.val).final
      then (s.restoreSend i.val (s.restoreLines i.val)).restoreEnded i.val (s.mreserve i.val)
      else (s.restoreSend i.val (s.restoreLines i.val)).restoreGoesOn i.val (s.restoreNext i.val)) := by
  change execMirrorRestorePassEnd i s = _
  refine congrArg Host.Outcome.next ((if_neg (by simp [hr, h])).trans ?_)
  unfold State.restoreSend State.restoreEnded State.restoreGoesOn State.restoreNext State.restoreLines State.restoreTodo State.restoreAt
  rfl

theorem exec_mirrorRestorePassEnd_more (hr : s.clk.rootOn = true) (h : mrState (s.mreserve i.val) = 5 ∧ s.mayMirror = true)
    (hf : (s.restoreAt i.val).final = false) : exec (.mirrorRestorePassEnd i) s =
      .next ((s.restoreSend i.val (s.restoreTodo i.val)).restoreGoesOn i.val (s.restoreNext i.val)) := by
  have hl : s.restoreLines i.val = s.restoreTodo i.val := by simp [State.restoreLines, hf]
  rw [exec_mirrorRestorePassEnd_due hr h, hl, if_neg (by simp [hf])]

theorem exec_mirrorRestorePassEnd_final (hr : s.clk.rootOn = true) (h : mrState (s.mreserve i.val) = 5 ∧ s.mayMirror = true)
    (hf : (s.restoreAt i.val).final = true) : exec (.mirrorRestorePassEnd i) s =
      .next ((s.restoreSend i.val (if s.restoreTodo i.val = [] then [64 * mrPages (s.mreserve i.val) - 1] else s.restoreTodo i.val)).restoreEnded i.val
        (s.mreserve i.val)) := by
  have hl : s.restoreLines i.val = if s.restoreTodo i.val = [] then [64 * mrPages (s.mreserve i.val) - 1] else s.restoreTodo i.val := by
    simp [State.restoreLines, hf]
  rw [exec_mirrorRestorePassEnd_due hr h, hl, if_pos hf]

end

/-- Settles O48: the writes of MIRROR_REGION and MIRROR_RESERVE by what the element was and what is asked of it (`State.regionWrite_accepted`,
`State.reserveWrite_sized`); a seed read that may go is one step of `State.seedStepped` and its copy (`exec_mirrorSeedRead_eq`); a pass that ends is
the final one or leaves `State.restoreNext`. A region with en = 0 is stored as written (log entry 60), a pass is one step (log entry 59). -/
theorem mirrorRegionsSeedAndRestore : Obligations.MirrorRegionsSeedAndRestore := by
  unfold Obligations.MirrorRegionsSeedAndRestore
  intro s i hp hr
  refine ⟨fun v => ?_, fun v => ?_, fun v => ⟨State.setRegion_mregion s _ v, State.setReserve_mreserve s _ v⟩, ?_, ?_⟩
  · intro old new moved meets bad up t go
    have hgo : go = .next (s.regionWrite i.val v).1 := exec_mirrorRegionWrite_eq hp i v
    have hstored : ¬bad → go = .next (t.regionFollow i.val old new v) := fun hb => hgo.trans (congrArg _ (State.regionWrite_accepted hb))
    have hup : t.partnerUp ↔ up := State.setRegion_partnerUp s i.val new
    refine ⟨fun hb => ?_, fun hb hv ho => ⟨fun hu => ?_, fun hu => ?_⟩, fun hb hv ho => ⟨fun hu hst => ?_, fun h => ?_⟩, fun hb he => ?_⟩
    · rw [hgo, State.regionWrite_refused hb]
    · rw [hstored hb, State.regionFollow_setup hv ho (hup.mpr hu)]
    · rw [hstored hb, State.regionFollow_solo hv ho (mt hup.mp hu)]
    · rw [hstored hb, State.regionFollow_fence hv ho (hup.mpr hu) hst]
    · rw [hstored hb, State.regionFollow_off hv ho (h.imp_left (mt hup.mp))]
    · rw [hstored hb, State.regionFollow_sameEnable he]
  · intro old new lo hi inside meets go
    have hgo : go = .next (s.reserveWrite i.val v).1 := exec_mirrorReserveWrite_eq hp i v
    refine ⟨fun ho => ?_, fun ho hv => ?_, fun ho hv => ⟨fun h => ?_, fun hin hmeet => ?_⟩⟩
    · rw [hgo, State.reserveWrite_inUse ho]
    · rw [hgo, State.reserveWrite_frees ho hv]
    · rw [hgo, (State.reserveWrite_sized ho hv).1 h]
    · rw [hgo, (State.reserveWrite_sized ho hv).2 hin hmeet]
      rfl
  · intro q p ga loc x may
    classical
    exact ⟨fun hm => (exec_mirrorSeedRead_eq hr i).trans (congrArg _ (if_neg hm)),
      fun hm => (exec_mirrorSeedRead_eq hr i).trans (congrArg _ (if_pos hm))⟩
  · intro q p may
    refine ⟨exec_mirrorRestorePassEnd_held, ?_⟩
    intro todo send
    have hsend : ∀ lines, send lines = s.restoreSend i.val lines := fun lines => by
      simp [send, State.restoreSend, State.restoreAt, p, q]
    refine ⟨fun hm hf => ?_, fun hm hf => ?_⟩
    · rw [hsend]
      exact exec_mirrorRestorePassEnd_more hr hm hf
    · rw [hsend]
      exact (exec_mirrorRestorePassEnd_final hr hm hf).trans (congrArg _ (State.restoreEnded_eq _ _ _))

end Sys2Proof.Machine
end

section
/-!
SUPPORT. The journal goes on (R339 to R345) and so does a replay (R347 to R350): what the completed write of an entry leads to by the entry's state,
what a write of tail does, and what an input does that is due or not.
-/
namespace Sys2Proof.Machine

/-! ### The completed write of an entry (R341) -/

/-- What R341 orders after the completed write of entry `seq`, by who waits for it. -/
def State.entryFollow (s : State) (seq : Nat) : JNext → State
  | .host n => s.hostEntryDone seq n
  | .desc h k idx => s.descEntryDone h k idx
  | .handle slot => s.handleEntryDone seq slot
  | .win slot _ => s.winEntryDone seq slot
  | .none => s

/-- What keeps the write of entry `seq` from completing. -/
def State.entryHeld (s : State) (seq : Nat) : Prop := s.jWaits seq = true ∨ s.power.hold = true ∨ s.clk.rootOn = false

section
variable {s : State} {seq : BitVec 48}

theorem exec_journalEntryComplete_none (he : s.journal.pending.find? (fun p => p.1 = seq.toNat) = none) :
    exec (.journalEntryComplete seq) s = .next s := by
  change execJournalEntryComplete seq s = _
  simp [execJournalEntryComplete, he]

theorem exec_journalEntryComplete_some {p : Nat × JNext} (he : s.journal.pending.find? (fun p => p.1 = seq.toNat) = some p)
    [Decidable (s.entryHeld seq.toNat)] : exec (.journalEntryComplete seq) s = .next (if s.entryHeld seq.toNat then s else
      State.jPump 16 (State.jAdvance 65536
        (State.entryFollow { s with journal := { s.journal with pending := s.journal.pending.erase p } } seq.toNat p.2))) := by
  change execJournalEntryComplete seq s = _
  obtain ⟨n, next⟩ := p
  rw [execJournalEntryComplete, he]
  refine congrArg Host.Outcome.next (ite_congr (propext ?_) (fun _ => rfl) (fun _ => ?_))
  · simp [State.entryHeld, or_assoc]
  · cases next <;> rfl

end

/-! ### What follows by the state of the entry -/

section
variable {s : State} {seq n slot : Nat}

/-- A YPP request's entry: accepted, started, or final (R341, R428). -/
theorem State.hostEntryDone_cases {r : YReq} (hr : s.yreq n = some r) :
    (jState (s.jEntry seq) = 1 → s.hostEntryDone seq n = s.jChange seq jStarted 0 (.host n)) ∧
    (jState (s.jEntry seq) = 2 → s.hostEntryDone seq n = s.setReq { r with go := true }) ∧
    (jState (s.jEntry seq) ≠ 1 → jState (s.jEntry seq) ≠ 2 → s.hostEntryDone seq n = s.respond r) := by
  unfold State.hostEntryDone
  rw [hr]
  refine ⟨fun h => ?_, fun h => ?_, fun h1 h2 => ?_⟩
  · simp only [h]
  · simp only [h]
  · dsimp only
    split
    · next h => exact absurd h h1
    · next h => exact absurd h h2
    · rfl

/-- The state field of the entry as the journaled operations read it. -/
def State.entrySt (s : State) (seq : Nat) : Nat := fld (s.jEntry seq).toNat 463 461

/-- The operand that the entry of a journaled HANDLE_OP or WIN_OP holds. -/
def State.entryArg (s : State) (seq : Nat) : Quad := BitVec.ofNat 128 (fld (s.jEntry seq).toNat 319 192)

/-- The status that a final entry gives its command. -/
def finalStatus (st : Nat) : Nat := if st = 3 then 2 else 4

theorem finalStatus_cases {st : Nat} (h : 3 ≤ st) : (st = 3 ∧ finalStatus st = 2) ∨ ∃ k, st = k + 4 ∧ finalStatus st = 4 := by
  rcases Nat.eq_or_lt_of_le h with rfl | h4
  · exact .inl ⟨rfl, rfl⟩
  · exact .inr ⟨st - 4, by omega, if_neg (by omega)⟩

theorem State.handleEntryDone_accepted (h : s.entrySt seq = 1) : s.handleEntryDone seq slot =
    if s.draining (slot / 512) (slot / 64 % 8) (slot % 64) = true ∨ s.loadRefused (s.entryArg seq) = true
    then s.jChange seq jFailed 0 (.handle slot) else s.jChange seq jStarted 0 (.handle slot) := by
  unfold State.entrySt at h
  simp only [State.handleEntryDone, h, State.entryArg]
  exact ite_congr (Bool.or_eq_true _ _) (fun _ => rfl) (fun _ => rfl)

theorem State.handleEntryDone_started (h : s.entrySt seq = 2) : s.handleEntryDone seq slot =
    s.startDrain slot { entry := s.entryArg seq, since := s.clk.now, ctl := true, jseq := some seq, again := false } := by
  unfold State.entrySt at h
  simp only [State.handleEntryDone, h, State.entryArg]

theorem State.handleEntryDone_final (h : 3 ≤ s.entrySt seq) :
    s.handleEntryDone seq slot = s.handleStatus (slot / 512) (finalStatus (s.entrySt seq)) := by
  rcases finalStatus_cases h with ⟨hst, hs⟩ | ⟨k, hst, hs⟩
  all_goals
    rw [hs]
    unfold State.entrySt at hst
    simp only [State.handleEntryDone, hst]

theorem State.winEntryDone_accepted (h : s.entrySt seq = 1) : s.winEntryDone seq slot =
    let e := (s.jEntry seq).toNat
    s.jChange seq (if s.winRefused (slot / 32) (fld e 435 433) (slot % 32) (fld e 191 188) (s.entryArg seq) then jFailed else jStarted) 0
      (.win slot (fld e 191 188)) := by
  unfold State.entrySt at h
  simp only [State.winEntryDone, h, State.entryArg]
  exact (apply_ite (fun st => s.jChange seq st 0 _) _ _ _).symm

theorem State.winEntryDone_started (h : s.entrySt seq = 2) : s.winEntryDone seq slot =
    let e := (s.jEntry seq).toNat
    s.winEffect (slot / 32) (fld e 435 433) (slot % 32) (fld e 191 188) (s.entryArg seq) (some seq) := by
  unfold State.entrySt at h
  simp only [State.winEntryDone, h, State.entryArg]

theorem State.winEntryDone_final (h : 3 ≤ s.entrySt seq) : s.winEntryDone seq slot =
    s.setStatus (slot / 32) (fld (s.jEntry seq).toNat 435 433) 0x230 (finalStatus (s.entrySt seq)) (slot % 32) := by
  rcases finalStatus_cases h with ⟨hst, hs⟩ | ⟨k, hst, hs⟩
  all_goals
    rw [hs]
    unfold State.entrySt at hst
    simp only [State.winEntryDone, hst]

end

/-! ### A write of tail (R342) -/

/-- The write goes back, passes head, or passes an entry that is not final. -/
def State.tailBad (s : State) (v : Nat) : Prop :=
  v < s.journal.tail ∨ s.journal.head < v ∨ ∃ k, k < v - s.journal.tail ∧ jFinal (s.jEntry (s.journal.tail + k)) = false

theorem exec_journalTailWrite_refused {s : State} {v : Dword} (h : s.mgmt.por = true ∨ s.tailBad v.toNat) :
    exec (.journalTailWrite v) s = .next s := by
  change execJournalTailWrite v s = _
  rw [execJournalTailWrite, State.jTail]
  rcases h with hp | hb
  · simp [hp]
  · refine congrArg Host.Outcome.next ((ite_congr rfl (fun _ => rfl) (fun _ => ?_)).trans (ite_self s))
    refine congrArg Prod.fst (if_pos ?_)
    simpa [State.tailBad, or_assoc] using hb

theorem exec_journalTailWrite_accepted {s : State} {v : Dword} (hp : s.mgmt.por = false) (hb : ¬s.tailBad v.toNat) :
    exec (.journalTailWrite v) s = .next (State.jPump 16
      { s with journal := { s.journal with tail := v.toNat, fullSaid := s.journal.fullSaid && v.toNat = s.journal.tail } }) := by
  change execJournalTailWrite v s = _
  rw [execJournalTailWrite, hp, State.jTail]
  refine congrArg Host.Outcome.next (congrArg Prod.fst (if_neg ?_))
  simpa [State.tailBad, or_assoc] using hb

/-! ### REPLAY_INPUT (R348, R350) -/

/-- The input is the one that is due, and its cycle has come. Kinds 1 and 2 are presented by their own rows (log entry 54). -/
def State.replayFits (s : State) (e : RecE) (i : RecInput) : Prop :=
  s.clk.rootOn = true ∧ e.kind = i.kind.toNat ∧ e.unit = i.unit.toNat ∧ e.tag = i.tag.toNat ∧ e.cycle ≤ s.recCycle ∧ 3 ≤ e.kind

/-- The due input applied, by its kind. -/
def State.replayApply (s : State) (e : RecE) : State :=
  match e.kind with
  | 3 => s.fromRecord (fun u => u.frameReplay (Fin.ofNat 4 e.unit) (s.replayData e))
  | 4 => s.yppReplay (s.replayData e)
  | 5 => if s.mgmt.phase = 7 then s.epochEdge else s
  | 6 => s.tsync
  | 7 => s.fromRecord State.holdReplay
  | _ => s

section
variable {s : State} {i : RecInput} {e : RecE}

theorem exec_replayInput_none (hd : s.replayDue = none) : exec (.replayInput i) s = .next s := by
  change execReplayInput i s = _
  rw [execReplayInput, hd]

theorem exec_replayInput_due (hd : s.replayDue = some e) [Decidable (s.replayFits e i)] :
    exec (.replayInput i) s = .next (if s.replayFits e i then (s.replayApply e).replayNext e i.hash else s) := by
  change execReplayInput i s = _
  rw [execReplayInput, hd]
  refine congrArg Host.Outcome.next ((ite_congr (propext ?_) (fun _ => rfl) (fun _ => rfl)).trans (ite_not _ _ _))
  simp only [State.replayFits, Classical.not_and_iff_not_or_not]
  simp [or_assoc]

theorem State.replayApply_other (hk : 7 < e.kind) : s.replayApply e = s := by
  unfold State.replayApply
  split
  case h_6 => rfl
  all_goals omega

end

/-- Settles O49: the completed write of an entry by what keeps it from completing (`exec_journalEntryComplete_some`) and by the state that the entry
tells (`State.hostEntryDone_cases`, `State.handleEntryDone_final`, `State.winEntryDone_final`); a write of tail by `State.tailBad`; a due input by its
kind (`State.replayApply`), where kinds 1 and 2 are left to the stacks' and cartridges' own rows (log entry 54). -/
theorem journalAndReplayGoOn : Obligations.JournalAndReplayGoOn := by
  unfold Obligations.JournalAndReplayGoOn
  classical
  intro s
  refine ⟨fun seq => ?_, fun seq n r hr => State.hostEntryDone_cases hr, fun seq slot => ?_, fun v => ?_, fun i => ⟨exec_replayInput_none, ?_⟩⟩
  · intro e go
    refine ⟨fun h => ?_, fun p he hw hh hr => ?_⟩
    · cases he : e with
      | none => exact exec_journalEntryComplete_none he
      | some p => exact (exec_journalEntryComplete_some he).trans (congrArg _ (if_pos (h.resolve_left (by simp [he]))))
    · refine (exec_journalEntryComplete_some he).trans (congrArg _ ((if_neg ?_).trans ?_))
      · simp [State.entryHeld, hw, hh, hr]
      · obtain ⟨k, next⟩ := p
        cases next <;> rfl
  · intro e q bad no
    refine ⟨State.handleEntryDone_started, fun h => ⟨fun hb => ?_, fun hb => ?_, State.winEntryDone_accepted h⟩, State.winEntryDone_started,
      fun h => ⟨State.handleEntryDone_final h, State.winEntryDone_final h⟩⟩
    · exact (State.handleEntryDone_accepted h).trans (if_pos hb)
    · exact (State.handleEntryDone_accepted h).trans (if_neg hb)
  · exact ⟨exec_journalTailWrite_refused, exec_journalTailWrite_accepted⟩
  · intro e hd fits
    refine ⟨fun h => (exec_replayInput_due hd).trans (congrArg _ (if_neg h)), fun h => ?_⟩
    have hgo : exec (.replayInput i) s = .next ((s.replayApply e).replayNext e i.hash) := (exec_replayInput_due hd).trans (congrArg _ (if_pos h))
    refine ⟨fun hk => ?_, fun hk => ?_, fun hk => ?_, fun hk => ?_, fun hk => ?_, fun hk => ?_⟩
    · simpa only [State.replayApply, hk] using hgo
    · simpa only [State.replayApply, hk] using hgo
    · simpa only [State.replayApply, hk] using hgo
    · simpa only [State.replayApply, hk] using hgo
    · simpa only [State.replayApply, hk] using hgo
    · rw [hgo, State.replayApply_other hk]

end Sys2Proof.Machine
end

section
/-!
SUPPORT. Every command and every step: each command gives a next state, keeps the invariant and changes only the parts that `cmdParts` lists;
a step is a command run on the queue's rest, or a cycle.
-/
namespace Sys2Proof.Machine

/-- Each row of the opcode table gives a next state that keeps the invariant and differs from the old one in the row's parts alone. -/
theorem exec_keeps (c : Instr) (s : State) : ∃ t, exec c s = .next t ∧ Keeps (cmdParts c) s t := by
  -- closes the side conditions of each command's lemma: that a part it changes is listed
  have listed : true = true := rfl
  cases c with
  | portRequest => exact execPortRequest_keeps (.refl _ s)
  | sxpAccess => exact execSxpAccess_keeps (.refl _ s)
  | registerWrite => exact execRegisterWrite_keeps (.refl _ s)
  | mipInbound => exact execMipInbound_keeps (.refl _ s)
  | scoreboardStallEnd => exact execScoreboardStallEnd_keeps (.refl _ s)
  | ringSlotStallEnd => exact execRingSlotStallEnd_keeps (.refl _ s)
  | bankGrant => exact execBankGrant_keeps (.refl _ s)
  | requestExpire => exact execRequestExpire_keeps (.refl _ s)
  | responseDeliver => exact execResponseDeliver_keeps (.refl _ s)
  | writeComplete => exact execWriteComplete_keeps (.refl _ s)
  | flcFill => exact execFlcFill_keeps (.refl _ s)
  | flcWritebackDone => exact execFlcWritebackDone_keeps (.refl _ s)
  | flcFlush => exact execFlcFlush_keeps (.refl _ s)
  | flcInval => exact execFlcInval_keeps (.refl _ s)
  | flcFlushAll => exact execFlcFlushAll_keeps (.refl _ s)
  | flcInvalAll => exact execFlcInvalAll_keeps (.refl _ s)
  | flcOpDone => exact execFlcOpDone_keeps (.refl _ s)
  | bankOwnerWrite => exact execBankOwnerWrite_keeps (.refl _ s)
  | handoverDrainEnd => exact execHandoverDrainEnd_keeps (.refl _ s)
  | handoverClearEnd => exact execHandoverClearEnd_keeps (.refl _ s)
  | arbCommitGo => exact execArbCommitGo_keeps (.refl _ s)
  | commitChecksDone => exact execCommitChecksDone_keeps (.refl _ s)
  | commitSwitch => exact execCommitSwitch_keeps (.refl _ s)
  | commitNoEpoch => exact execCommitNoEpoch_keeps (.refl _ s)
  | epochEdge => exact execEpochEdge_keeps (.refl _ s)
  | epochStart => exact execEpochStart_keeps (.refl _ s)
  | epochEnd => exact execEpochEnd_keeps (.refl _ s)
  | routerForward => exact execRouterForward_keeps (.refl _ s)
  | fxpSchedRelease => exact execFxpSchedRelease_keeps (.refl _ s)
  | hiveIdleGate => exact execHiveIdleGate_keeps (.refl _ s)
  | hiveWakeEnd => exact execHiveWakeEnd_keeps (.refl _ s)
  | powerIntentGate => exact execPowerIntentGate_keeps (.refl _ s)
  | powerIntentWake => exact execPowerIntentWake_keeps (.refl _ s)
  | regWindowBoundary => exact execRegWindowBoundary_keeps (.refl _ s)
  | t1Slot => exact execT1Slot_keeps (.refl _ s)
  | t1RefreshForced => exact execT1RefreshForced_keeps (.refl _ s)
  | handleLoad => exact execHandleLoad_keeps (.refl _ s)
  | handleDrop => exact execHandleDrop_keeps (.refl _ s)
  | handleRead => exact execHandleRead_keeps (.refl _ s)
  | handleDrainEnd => exact execHandleDrainEnd_keeps (.refl _ s)
  | hierarchyModeWrite => exact execHierarchyModeWrite_keeps (.refl _ s)
  | poolContribWrite => exact execPoolContribWrite_keeps (.refl _ s)
  | chipIdWrite => exact execChipIdWrite_keeps (.refl _ s)
  | winOpen => exact execWinOpen_keeps (.refl _ s)
  | winClose => exact execWinClose_keeps (.refl _ s)
  | winRevoke => exact execWinRevoke_keeps (.refl _ s)
  | winForward => exact execWinForward_keeps (.refl _ s)
  | winRead => exact execWinRead_keeps (.refl _ s)
  | winCloseTimeout => exact execWinCloseTimeout_keeps (.refl _ s)
  | rwriteRecv => exact execRwriteRecv_keeps (.refl _ s)
  | raccRecv => exact execRaccRecv_keeps (.refl _ s)
  | ratomicRecv => exact execRatomicRecv_keeps (.refl _ s)
  | rackRecv => exact execRackRecv_keeps (.refl _ s)
  | creditReqRecv => exact execCreditReqRecv_keeps (.refl _ s)
  | creditGrantRecv => exact execCreditGrantRecv_keeps (.refl _ s)
  | creditReturnRecv => exact execCreditReturnRecv_keeps (.refl _ s)
  | closingRecv => exact execClosingRecv_keeps (.refl _ s)
  | revokeRecv => exact execRevokeRecv_keeps (.refl _ s)
  | redirectRecv => exact execRedirectRecv_keeps (.refl _ s)
  | redirectAckRecv => exact execRedirectAckRecv_keeps (.refl _ s)
  | switchMarkRecv => exact execSwitchMarkRecv_keeps (.refl _ s)
  | rackTimer => exact execRackTimer_keeps (.refl _ s)
  | movePassEnd => exact execMovePassEnd_keeps (.refl _ s)
  | ctxSave => exact execCtxSave_keeps (.refl _ s)
  | ctxSaveDone => exact execCtxSaveDone_keeps (.refl _ s)
  | ctxRestore => exact execCtxRestore_keeps (.refl _ s)
  | fxDelivered => exact execFxDelivered_keeps (.refl _ s)
  | fxLost => exact execFxLost_keeps (.refl _ s)
  | t1cFlush => exact execT1cFlush_keeps (.refl _ s)
  | t1cFlushDone => exact execT1cFlushDone_keeps (.refl _ s)
  | persist => exact execPersist_keeps (.refl _ s)
  | persistDone => exact execPersistDone_keeps (.refl _ s)
  | msync => exact execMsync_keeps (.refl _ s)
  | chanEnable => exact execChanEnable_keeps (.refl _ s)
  | chanDisable => exact execChanDisable_keeps (.refl _ s)
  | ringTailWrite => exact execRingTailWrite_keeps (.refl _ s)
  | descFetch => exact execDescFetch_keeps (.refl _ s)
  | dmaTile => exact execDmaTile_keeps (.refl _ s)
  | dmaFill => exact execDmaFill_keeps (.refl _ s)
  | dmaCopy => exact execDmaCopy_keeps (.refl _ s)
  | dmaMove => exact execDmaMove_keeps (.refl _ s)
  | dmaNop => exact execDmaNop_keeps (.refl _ s)
  | boundWordReturn => exact execBoundWordReturn_keeps (.refl _ s)
  | dmaLinePresent => exact execDmaLinePresent_keeps (.refl _ s)
  | fillCmdRecv => exact execFillCmdRecv_keeps (.refl _ s)
  | descComplete => exact execDescComplete_keeps (.refl _ s)
  | chanResume => exact execChanResume_keeps (.refl _ s)
  | chanSkip => exact execChanSkip_keeps (.refl _ s)
  | chanAbort => exact execChanAbort_keeps (.refl _ s)
  | chanPause => exact execChanPause_keeps (.refl _ s)
  | chanContinue => exact execChanContinue_keeps (.refl _ s)
  | chanDrainEnd => exact execChanDrainEnd_keeps (.refl _ s)
  | jobSubmit => exact execJobSubmit_keeps (.refl _ s)
  | jobQueueAccept => exact execJobQueueAccept_keeps (.refl _ s)
  | jobRelease => exact execJobRelease_keeps (.refl _ s)
  | scarabJobStart => exact execScarabJobStart_keeps (.refl _ s)
  | scarabSliceReturn => exact execScarabSliceReturn_keeps (.refl _ s)
  | scarabJobComplete => exact execScarabJobComplete_keeps (.refl _ s)
  | fence => exact execFence_keeps (.refl _ s)
  | fenceChip => exact execFenceChip_keeps (.refl _ s)
  | ringDeclare => exact execRingDeclare_keeps (.refl _ s)
  | ringUndeclare => exact execRingUndeclare_keeps (.refl _ s)
  | ringRead => exact execRingRead_keeps (.refl _ s)
  | ringTimeout => exact execRingTimeout_keeps (.refl _ s)
  | wait => exact execWait_keeps (.refl _ s)
  | waitdec => exact execWaitdec_keeps (.refl _ s)
  | waitCancel => exact execWaitCancel_keeps (.refl _ s)
  | releasePass => exact execReleasePass_keeps (.refl _ s)
  | waitTimeout => exact execWaitTimeout_keeps (.refl _ s)
  | waitResultRead => exact execWaitResultRead_keeps (.refl _ s)
  | barrierArrive => exact execBarrierArrive_keeps (.refl _ s)
  | outerRegionWrite => exact execOuterRegionWrite_keeps (.refl _ s)
  | t1Request => exact execT1Request_keeps (.refl _ s)
  | t1ReadData => exact execT1ReadData_keeps (.refl _ s)
  | t1ParityErr => exact execT1ParityErr_keeps (.refl _ s)
  | t1Cattrip => exact execT1Cattrip_keeps (.refl _ s)
  | t1RowIdlePrecharge => exact execT1RowIdlePrecharge_keeps (.refl _ s)
  | pageBufferIdleClose => exact execPageBufferIdleClose_keeps (.refl _ s)
  | pageBufferCloseDone => exact execPageBufferCloseDone_keeps (.refl _ s)
  | outerDecodeDone => exact execOuterDecodeDone_keeps (.refl _ s)
  | t1EcsRead => exact execT1EcsRead_keeps (.refl _ s)
  | t1MrrData => exact execT1MrrData_keeps (.refl _ s)
  | t2Request => exact execT2Request_keeps (.refl _ s)
  | cxlResponse => exact execCxlResponse_keeps (.refl _ s)
  | cartLinkLost => exact execCartLinkLost_keeps (.refl _ s)
  | cartAttach => exact execCartAttach_keeps (.refl _ s)
  | cartAttachEnd => exact execCartAttachEnd_keeps (.refl _ s)
  | cartTrust => exact execCartTrust_keeps (.refl _ s)
  | cartDetach => exact execCartDetach_keeps (.refl _ s)
  | cartDetachDrop => exact execCartDetachDrop_keeps (.refl _ s)
  | cartDetachEnd => exact execCartDetachEnd_keeps (.refl _ s)
  | cartHealthPoll => exact execCartHealthPoll_keeps (.refl _ s)
  | heatDecayEpoch => exact execHeatDecayEpoch_keeps (.refl _ s)
  | promoteCandidate => exact execPromoteCandidate_keeps (.refl _ s)
  | blockMoveDone => exact execBlockMoveDone_keeps (.refl _ s)
  | errTableAck => exact execErrTableAck_keeps (.refl _ s)
  | weevilScrubRead => exact execWeevilScrubRead_keeps (.refl _ s)
  | weevilWriteback => exact execWeevilWriteback_keeps (.refl _ s)
  | weevilPageScrub => exact execWeevilPageScrub_keeps (.refl _ s)
  | scrubShortfall => exact execScrubShortfall_keeps (.refl _ s)
  | rowRepair => exact execRowRepair_keeps (.refl _ s)
  | retireGraceExpire => exact execRetireGraceExpire_keeps (.refl _ s)
  | retireHiveStripe => exact execRetireHiveStripe_keeps (.refl _ s)
  | retireMatrixStripe => exact execRetireMatrixStripe_keeps (.refl _ s)
  | retireVectorStripe => exact execRetireVectorStripe_keeps (.refl _ s)
  | retireT1Page => exact execRetireT1Page_keeps (.refl _ s)
  | retireT1Bank => exact execRetireT1Bank_keeps (.refl _ s)
  | retireT2Page => exact execRetireT2Page_keeps (.refl _ s)
  | repairMapWrite => exact execRepairMapWrite_keeps (.refl _ s)
  | manifestWrite => exact execManifestWrite_keeps (.refl _ s)
  | readRaw => exact execReadRaw_keeps (.refl _ s)
  | writeRaw => exact execWriteRaw_keeps (.refl _ s)
  | testReadBlock => exact execTestReadBlock_keeps (.refl _ s)
  | testWriteBlock => exact execTestWriteBlock_keeps (.refl _ s)
  | pairJoin => exact execPairJoin_keeps (.refl _ s)
  | pairLeave => exact execPairLeave_keeps (.refl _ s)
  | mheartSend => exact execMheartSend_keeps (.refl _ s)
  | heartbeatTimeout => exact execHeartbeatTimeout_keeps (.refl _ s)
  | mwriteRecv => exact execMwriteRecv_keeps (.refl _ s)
  | maccRecv => exact execMaccRecv_keeps (.refl _ s)
  | mjournalRecv => exact execMjournalRecv_keeps (.refl _ s)
  | mheartRecv => exact execMheartRecv_keeps (.refl _ s)
  | mackRecv => exact execMackRecv_keeps (.refl _ s)
  | mfenceRecv => exact execMfenceRecv_keeps (.refl _ s)
  | msetupRecv => exact execMsetupRecv_keeps (.refl _ s)
  | mreqRecv => exact execMreqRecv_keeps (.refl _ s)
  | mretRecv => exact execMretRecv_keeps (.refl _ s)
  | mirrorRegionWrite => exact execMirrorRegionWrite_keeps (.refl _ s)
  | mirrorReserveWrite => exact execMirrorReserveWrite_keeps (.refl _ s)
  | mirrorSeedRead => exact execMirrorSeedRead_keeps (.refl _ s)
  | mackTimer => exact execMackTimer_keeps (.refl _ s)
  | mirrorLag => exact execMirrorLag_keeps (.refl _ s)
  | fenceAck => exact execFenceAck_keeps (.refl _ s)
  | selfFenced => exact execSelfFenced_keeps (.refl _ s)
  | fenceTimeout => exact execFenceTimeout_keeps (.refl _ s)
  | failoverReplayDone => exact execFailoverReplayDone_keeps (.refl _ s)
  | mirrorRestorePassEnd => exact execMirrorRestorePassEnd_keeps (.refl _ s)
  | journalEntryComplete => exact execJournalEntryComplete_keeps (.refl _ s)
  | journalTailWrite => exact execJournalTailWrite_keeps (.refl _ s)
  | replayInput => exact execReplayInput_keeps (.refl _ s)
  | estimatorWindowEnd => exact execEstimatorWindowEnd_keeps (.refl _ s)
  | railTelemetrySample => exact execRailTelemetrySample_keeps (.refl _ s)
  | telemetryLost => exact execTelemetryLost_keeps (.refl _ s)
  | pwrDivergence => exact execPwrDivergence_keeps (.refl _ s)
  | capUnmet => exact execCapUnmet_keeps (.refl _ s)
  | powerCapWrite => exact execPowerCapWrite_keeps (.refl _ s)
  | pwrDivAck => exact execPwrDivAck_keeps (.refl _ s)
  | droopTrip d => exact execDroopTrip_keeps (_d := d) (.refl _ s)
  | droopReleaseStep => exact execDroopReleaseStep_keeps (.refl _ s)
  | supplyWarning => exact execSupplyWarning_keeps (.refl _ s)
  | supplyRecovery => exact execSupplyRecovery_keeps (.refl _ s)
  | supplyStall => exact execSupplyStall_keeps (.refl _ s)
  | supplyReset => exact execSupplyReset_keeps (.refl _ s)
  | temperPeriodEnd => exact execTemperPeriodEnd_keeps (.refl _ s)
  | temperStepUp m => exact execTemperStepUp_keeps (_m := m) (.refl _ s)
  | hivePowerWrite => exact execHivePowerWrite_keeps (.refl _ s)
  | domainDrainEnd => exact execDomainDrainEnd_keeps (.refl _ s)
  | domainWakeEnd => exact execDomainWakeEnd_keeps (.refl _ s)
  | snap => exact execSnap_keeps (.refl _ s)
  | thaw => exact execThaw_keeps (.refl _ s)
  | snapEdge => exact execSnapEdge_keeps (.refl _ s)
  | snapshotTake => exact execSnapshotTake_keeps (.refl _ s)
  | traceLongExpire => exact execTraceLongExpire_keeps (.refl _ s)
  | traceAppend => exact execTraceAppend_keeps (.refl _ s)
  | appenderPadTimeout => exact execAppenderPadTimeout_keeps (.refl _ s)
  | traceMark => exact execTraceMark_keeps (.refl _ s)
  | traceModeWrite => exact execTraceModeWrite_keeps (.refl _ s)
  | triggerAction => exact execTriggerAction_keeps (.refl _ s)
  | wfgBuild => exact execWfgBuild_keeps (.refl _ s)
  | wfgBuildDone => exact execWfgBuildDone_keeps (.refl _ s)
  | tsprobeSend => exact execTsprobeSend_keeps (.refl _ s)
  | tsprobeRecv => exact execTsprobeRecv_keeps (.refl _ s)
  | tsyncEdge => exact execTsyncEdge_keeps (.refl _ s)
  | quenchRequest => exact execQuenchRequest_keeps (.refl _ s)
  | quenchCtlWrite => exact execQuenchCtlWrite_keeps (.refl _ s)
  | quenchTake => exact execQuenchTake_keeps (.refl _ s)
  | quenchRefresh => exact execQuenchRefresh_keeps (.refl _ s)
  | quenchUnitRead => exact execQuenchUnitRead_keeps (.refl _ s)
  | quenchMemRead => exact execQuenchMemRead_keeps (.refl _ s)
  | queueOccClear => exact execQueueOccClear_keeps (.refl _ s)
  | mctpMessage => exact execMctpMessage_keeps (.refl _ s)
  | yppRead => exact execYppRead_keeps (.refl _ s)
  | yppWrite => exact execYppWrite_keeps (.refl _ s)
  | yppReadBlock => exact execYppReadBlock_keeps (.refl _ s)
  | yppWriteBlock => exact execYppWriteBlock_keeps (.refl _ s)
  | yppCommit => exact execYppCommit_keeps (.refl _ s)
  | yppDescribe => exact execYppDescribe_keeps (.refl _ s)
  | yppSubscribe => exact execYppSubscribe_keeps (.refl _ s)
  | mbGo => exact execMbGo_keeps (.refl _ s)
  | mbRspack => exact execMbRspack_keeps (.refl _ s)
  | mbEvack => exact execMbEvack_keeps (.refl _ s)
  | lifecycleChange => exact execLifecycleChange_keeps (.refl _ s)
  | dbgAuthChange => exact execDbgAuthChange_keeps (.refl _ s)
  | porAssert => exact execPorAssert_keeps (.refl _ s)
  | porRelease => exact execPorRelease_keeps (.refl _ s)
  | warmReset => exact execWarmReset_keeps (.refl _ s)
  | romCheckDone => exact execRomCheckDone_keeps (.refl _ s)
  | imageBegin => exact execImageBegin_keeps (.refl _ s)
  | imageData => exact execImageData_keeps (.refl _ s)
  | imageEnd => exact execImageEnd_keeps (.refl _ s)
  | startGo => exact execStartGo_keeps (.refl _ s)
  | startReload => exact execStartReload_keeps (.refl _ s)
  | startPhaseEnd => exact execStartPhaseEnd_keeps (.refl _ s)
  | t1TrainDone => exact execT1TrainDone_keeps (.refl _ s)
  | t1TrainTimeout => exact execT1TrainTimeout_keeps (.refl _ s)
  | cartAttachTimeout => exact execCartAttachTimeout_keeps (.refl _ s)
  | irqClear => exact execIrqClear_keeps (.refl _ s)
  | t2LinkRetrain => exact execT2LinkRetrain_keeps (.refl _ s)
  | warmResetRelease => exact execWarmResetRelease_keeps (.refl _ s)

theorem exec_keeps_inv {c : Instr} {s t : State} (h : exec c s = .next t) (hi : s.Inv) : t.Inv :=
  (Keeps.ofNext (exec_keeps c s) h).1 hi

theorem State.tick_keeps_inv {s : State} (hi : s.Inv) : s.tick.Inv :=
  have listed : true = true := rfl
  (State.tick_keeps (.refl cmdParts.all s)).1 hi

theorem State.cmdReady_keeps_inv {s t : State} {c : Instr} (h : s.cmdReady = some (c, t)) (hi : s.Inv) : t.Inv :=
  have listed : true = true := rfl
  (State.cmdReady_keeps (.refl cmdParts.all s) h).1 hi

/-- With no command waiting a step runs a stalled CMD access that may go on, or lets a cycle pass. -/
theorem State.idle_keeps_inv {s t : State} (h : s.idle = .next t) (hi : s.Inv) : t.Inv := by
  unfold State.idle at h
  split at h
  next c u hc =>
    refine exec_keeps_inv h ?_
    split at hc
    · exact State.cmdReady_keeps_inv hc hi
    · contradiction
  next =>
    cases h
    exact State.tick_keeps_inv hi

theorem step_front {c : Instr} {rest : List Instr} {s : State} (h : s.pending = c :: rest) : step s = exec c { s with pending := rest } := by
  rw [step, h]

theorem step_empty {s : State} (h : s.pending = []) : step s = s.idle := by
  rw [step, h]

/-- Settles O1: the front command of the queue is the one that `step` runs. -/
theorem stepRunsFrontCommand : Obligations.StepRunsFrontCommand := by
  unfold Obligations.StepRunsFrontCommand
  exact fun _ _ _ => step_front

/-- Settles O3: at reset every table of memory is empty, nothing is in flight and the phase is 0. -/
theorem resetMeetsInvariant : Obligations.ResetMeetsInvariant := by
  unfold Obligations.ResetMeetsInvariant State.Inv Mem.wf State.phaseLegal numbered
  decide

/-- Settles O5: `exec_keeps` gives the next state of each row; the queue is no part that a command may change. -/
theorem everyCommandGivesNextState : Obligations.EveryCommandGivesNextState := by
  unfold Obligations.EveryCommandGivesNextState
  intro c s
  obtain ⟨t, ht, -, honly⟩ := exec_keeps c s
  exact ⟨t, ht, honly.pending⟩

/-- Settles O6: the frame half of `exec_keeps`. -/
theorem commandsChangeOnlyTheirParts : Obligations.CommandsChangeOnlyTheirParts := by
  unfold Obligations.CommandsChangeOnlyTheirParts
  exact fun c s _ => Keeps.only (exec_keeps c s)

/-- Settles O4: a step runs its front command on a state that differs in the queue alone (`exec_keeps_inv`), or the block goes on by itself
(`State.idle_keeps_inv`); the invariant does not read the queue. -/
theorem everyStepKeepsInvariant : Obligations.EveryStepKeepsInvariant := by
  unfold Obligations.EveryStepKeepsInvariant
  intro s t hi h
  cases hq : s.pending with
  | nil => exact State.idle_keeps_inv ((step_empty hq).symm.trans h) hi
  | cons c rest =>
    have hrest : State.Inv { s with pending := rest } := hi
    exact exec_keeps_inv ((step_front hq).symm.trans h) hrest

end Sys2Proof.Machine
end

section
/-!
SUPPORT. Writes of HIVE_POWER (R358 to R361): which are refused, what an accepted one makes of each domain, and the four outcomes of the command.
-/
namespace Sys2Proof.Machine

/-! ### The combination of fields (R359) -/

/-- The combinations of fields that R359 refuses. -/
def PowerBad (f : Nat → Nat) : Prop :=
  (∃ d, d < 14 ∧ f d = 3) ∨ (f 0 ≠ 0 ∧ ∃ d, 1 ≤ d ∧ d < 14 ∧ f d = 0) ∨ (f 0 = 2 ∧ ∃ d, 1 ≤ d ∧ d < 14 ∧ f d ≠ 2)

/-- Some domain below the logic, counted from 1. -/
theorem exists_below_logic {p : Nat → Prop} : (∃ j < 13, p (j + 1)) ↔ ∃ d, 1 ≤ d ∧ d < 14 ∧ p d := by
  constructor
  · rintro ⟨j, hj, h⟩
    exact ⟨j + 1, by omega, by omega, h⟩
  · rintro ⟨d, hd, hd', h⟩
    obtain ⟨j, rfl⟩ : ∃ j, d = j + 1 := ⟨d - 1, by omega⟩
    exact ⟨j, by omega, h⟩

theorem powerRefused_iff (v : Nat) : powerRefused v = true ↔ PowerBad (powerField v) := by
  have hzero := exists_below_logic (p := fun d => powerField v d = 0)
  have htwo := exists_below_logic (p := fun d => ¬powerField v d = 2)
  simp only [powerRefused, PowerBad, ne_eq, ← hzero, ← htwo]
  simp only [Bool.or_eq_true, Bool.and_eq_true, List.any_eq_true, List.mem_range, decide_eq_true_eq, or_assoc]
  refine or_congr_right (or_congr_left ⟨?_, ?_⟩)
  · rintro ⟨j, hj, h0, hf⟩
    exact ⟨hf, j, hj, h0⟩
  · rintro ⟨hf, j, hj, h0⟩
    exact ⟨j, hj, h0, hf⟩

theorem powerField_lt (v d : Nat) : powerField v d < 4 := by
  unfold powerField fld
  split
  · exact Nat.mod_lt _ (by decide)
  · split
    · exact Nat.mod_lt _ (by decide)
    · have hw : 2 * (d - 1) + 1 + 1 - 2 * (d - 1) = 2 := by omega
      rw [hw]
      exact Nat.mod_lt _ (by decide)

/-- Every code but 0b11 has a state (R358). -/
theorem domOf_some {n : Nat} (h : n < 3) : ∃ t, domOf n = some t := by
  interval_cases n
  · exact ⟨.on, rfl⟩
  · exact ⟨.ember, rfl⟩
  · exact ⟨.cold, rfl⟩

theorem domOf_powerField {v d : Nat} (hg : ¬PowerBad (powerField v)) (hd : d < 14) : ∃ t, domOf (powerField v d) = some t := by
  have h3 : powerField v d ≠ 3 := fun h => hg (.inl ⟨d, hd, h⟩)
  have := powerField_lt v d
  exact domOf_some (by omega)

/-! ### The transition of a domain (R360, R361) -/

/-- Domain x as it starts for state t at timestamp ts; one that is there already stays. -/
def Domain.starts (x : Domain) (t : Dom) (ts : Nat) : Domain :=
  if x.st = t then x
  else { x with target := t, phase := if x.st = .cold then .queued else if x.st = .ember ∧ t = .on then .waking (ts + 1500) else .draining }

/-- A write's field for domain d takes effect. -/
def State.startField (v h : Nat) (s : State) (d : Nat) : State :=
  match domOf (powerField v d) with
  | some t => s.startDomain h d t
  | none => s

section
variable (s : State) (h d : Nat)

theorem State.setDomain_domain_same (x : Domain) : (s.setDomain h d x).domain h d = x := Tbl.get_set_same _ _ _ _

theorem State.setDomain_domain_other {x : Domain} {e : Nat} (hd : e ≠ d) : (s.setDomain h d x).domain h e = s.domain h e :=
  Tbl.get_set_other _ _ _ _ _ (by omega)

/-- Starting a transition stores the domain's new value, where it has one. -/
theorem State.startDomain_eq (t : Dom) :
    s.startDomain h d t = if (s.domain h d).st = t then s else s.setDomain h d ((s.domain h d).starts t s.clk.ts.toNat) := by
  unfold State.startDomain Domain.starts
  dsimp only
  split
  · rfl
  · cases hst : (s.domain h d).st <;> cases t <;> simp_all

theorem State.startDomain_domain_same (t : Dom) : (s.startDomain h d t).domain h d = (s.domain h d).starts t s.clk.ts.toNat := by
  rw [State.startDomain_eq]
  split
  next hst => exact (if_pos hst).symm
  next => exact s.setDomain_domain_same h d _

theorem State.startDomain_domain_other (t : Dom) {e : Nat} (hd : e ≠ d) : (s.startDomain h d t).domain h e = s.domain h e := by
  rw [State.startDomain_eq]
  split
  · rfl
  · exact s.setDomain_domain_other h d hd

theorem State.startDomain_clk (t : Dom) : (s.startDomain h d t).clk = s.clk := by
  rw [State.startDomain_eq]
  split <;> rfl

theorem State.startDomain_pwrRes (t : Dom) : (s.startDomain h d t).hives.pwrRes = s.hives.pwrRes := by
  rw [State.startDomain_eq]
  split <;> rfl

variable (v : Nat)

theorem State.startField_clk : (s.startField v h d).clk = s.clk := by
  unfold State.startField
  split
  · exact s.startDomain_clk h d _
  · rfl

theorem State.startField_pwrRes : (s.startField v h d).hives.pwrRes = s.hives.pwrRes := by
  unfold State.startField
  split
  · exact s.startDomain_pwrRes h d _
  · rfl

theorem State.startField_domain_other {e : Nat} (hd : e ≠ d) : (s.startField v h d).domain h e = s.domain h e := by
  unfold State.startField
  split
  · exact s.startDomain_domain_other h d _ hd
  · rfl

theorem State.startField_domain_same {v : Nat} {t : Dom} (ht : domOf (powerField v d) = some t) :
    (s.startField v h d).domain h d = (s.domain h d).starts t s.clk.ts.toNat := by
  rw [State.startField, ht]
  exact s.startDomain_domain_same h d t

end

/-! ### The fields of a write, one after another -/

section
variable {s : State} {v h d : Nat} {l : List Nat}

theorem State.startFields_pwrRes : (l.foldl (State.startField v h) s).hives.pwrRes = s.hives.pwrRes := by
  induction l generalizing s with
  | nil => rfl
  | cons e l ih => exact ih.trans (s.startField_pwrRes h e v)

theorem State.startFields_domain_other (hd : d ∉ l) : (l.foldl (State.startField v h) s).domain h d = s.domain h d := by
  induction l generalizing s with
  | nil => rfl
  | cons e l ih =>
    obtain ⟨he, hl⟩ : d ≠ e ∧ d ∉ l := by simpa using hd
    exact (ih hl).trans (s.startField_domain_other h e v he)

/-- A domain whose field is listed once starts from where it stood, whatever the other fields do. -/
theorem State.startFields_domain {t : Dom} (hl : l.Nodup) (hd : d ∈ l) (ht : domOf (powerField v d) = some t) :
    (l.foldl (State.startField v h) s).domain h d = (s.domain h d).starts t s.clk.ts.toNat := by
  induction l generalizing s with
  | nil => cases hd
  | cons e l ih =>
    obtain ⟨he, hl⟩ := List.nodup_cons.mp hl
    rw [List.foldl_cons]
    by_cases hde : d = e
    · subst hde
      rw [State.startFields_domain_other he, s.startField_domain_same h d ht]
    · have hdl : d ∈ l := (List.mem_cons.mp hd).resolve_left hde
      rw [ih hl hdl, s.startField_domain_other h e v hde, s.startField_clk h e v]

end

/-! ### The command -/

/-- The result of the last write of a Hive's HIVE_POWER (R359). -/
def State.powerResult (s : State) (h r : Nat) : State :=
  { s with hives := { s.hives with pwrRes := Tbl.set s.hives.pwrRes 0 h r } }

/-- The write would take a domain from ON that must stay ON (R360). -/
def State.powerMust (s : State) (h : Nat) (f : Nat → Nat) : Prop :=
  ∃ d, d < 14 ∧ s.domLive h d = true ∧ f d ≠ 0 ∧ (if d = 0 then s.logicBusy h else s.segBusy h d) = true

section
variable {s : State} {p : RegPath} {h : HiveId} {v : Dword}

/-- A write that reaches its Hive is taken at once on either path: ignored, refused, or acted on. -/
theorem exec_hivePowerWrite_eq [Decidable (PowerBad (powerField v.toNat))] [Decidable (s.powerMust h.val (powerField v.toNat))]
    (hr : s.clk.rootOn = true) (hp : s.mgmt.por = false) (hu : s.hiveUp h.val = true)
    (hf : p = .ctl → s.cmdFree h 0) :
    exec (.hivePowerWrite p h v) s = .next (
      if s.pwrBusy h.val then s
      else if PowerBad (powerField v.toNat) then s.powerResult h.val 2
      else if s.powerMust h.val (powerField v.toNat) then s.powerResult h.val 3
      else ((List.range 14).foldl (State.startField v.toNat h.val) (s.powerResult h.val 0)).admitWakes) := by
  have hmust : ((List.range 14).any fun d => s.domLive h.val d && powerField v.toNat d ≠ 0 &&
      (if d = 0 then s.logicBusy h.val else s.segBusy h.val d)) = true ↔ s.powerMust h.val (powerField v.toNat) := by
    simp [State.powerMust, and_assoc]
  change execHivePowerWrite p h v s = _
  unfold execHivePowerWrite
  dsimp only
  refine congrArg Host.Outcome.next ?_
  have hgo : ∀ g : State → State, (if p = .ctl then s.cmd h.val 0 (.hivePowerWrite p h v) g else g s) = g s := by
    intro g
    split
    next hc => exact (hf hc).go _ g
    next => rfl
  rw [hgo]
  simp only [hr, hp, hu, powerRefused_iff, hmust, Bool.not_true, Bool.or_false, Bool.false_or, Bool.and_false]
  rfl

end

/-- Settles O41: a write that reaches its Hive is `exec_hivePowerWrite_eq`; an accepted one makes of each domain what its own field asks
(`State.startFields_domain`). -/
theorem hivePowerWritesAreChecked : Obligations.HivePowerWritesAreChecked := by
  unfold Obligations.HivePowerWritesAreChecked
  classical
  intro s p h v hr hp hu hf f go res bad must
  have hgo := exec_hivePowerWrite_eq (v := v) hr hp hu hf
  refine ⟨fun hb => ?_, fun hb hbad => ?_, fun hb hbad hm => ?_, fun hb hbad hm => ?_⟩
  · exact hgo.trans (congrArg _ (if_pos hb))
  · exact hgo.trans (congrArg _ ((if_neg (by simp [hb])).trans (if_pos hbad)))
  · exact hgo.trans (congrArg _ (((if_neg (by simp [hb])).trans (if_neg hbad)).trans (if_pos hm)))
  · refine ⟨hgo.trans (congrArg _ (((if_neg (by simp [hb])).trans (if_neg hbad)).trans (if_neg hm))), ?_, fun d hd => ?_⟩
    · have h0 := State.startFields_pwrRes (s := s.powerResult h.val 0) (v := v.toNat) (h := h.val) (l := List.range 14)
      exact (congrArg (Tbl.get · 0 h.val) h0).trans (Tbl.get_set_same s.hives.pwrRes 0 h.val 0)
    · obtain ⟨t, ht⟩ := domOf_powerField hbad hd
      exact ⟨t, ht, State.startFields_domain (s := s.powerResult h.val 0) List.nodup_range (List.mem_range.mpr hd) ht⟩

end Sys2Proof.Machine
end

section
/-!
SUPPORT. The power controller and Temper (R366 to R375, R381): what the end of an estimator window makes of the cap level, the duties and the
thermal level, and the controller's other commands case by case.
-/
namespace Sys2Proof.Machine

/-! ### The cap level (R368) -/

section
variable {level c : Nat} {p : Int × Nat}

theorem nextCap_over (h : uwLt (uwMw (1000 * c)) p = true) : nextCap level p c ≤ 15 ∧ min 15 (level + 1) ≤ nextCap level p c := by
  unfold nextCap
  simp only [h, if_true]
  generalize ceilDiv _ _ = n
  omega

theorem nextCap_within (h : uwLt (uwMw (1000 * c)) p = false) :
    nextCap level p c = if uwLt (p.1 * 100, p.2) ((uwMw (1000 * c)).1 * 97, 1) then level - 1 else level := by
  simp [nextCap, h]

end

/-! ### The parts of a window's end -/

theorem State.cadd_power (s : State) (p i n : Nat) : (s.cadd p i n).power = s.power := (s.cadd_faulted p i n).power

theorem State.cadd_clk (s : State) (p i n : Nat) : (s.cadd p i n).clk = s.clk := (s.cadd_faulted p i n).clk

theorem State.cadd_mem (s : State) (p i n : Nat) : (s.cadd p i n).mem = s.mem := (s.cadd_faulted p i n).mem

/-- Each group's duty moves one step, within 4 and 16 (R369 step 3). -/
theorem State.moveDuties_duty (s : State) (ph : Nat) (p : Nat → Int × Nat) (aon : Int × Nat) {g : Nat} (hg : g < 3) :
    (s.moveDuties ph p aon).duty g = if s.overShare ph g (p g) aon then max 4 (s.duty g - 1) else min 16 (s.duty g + 1) := by
  have hr : List.range 3 = [0, 1, 2] := rfl
  have hother {t : Tbl Nat} {j k v : Nat} (h : j ≠ k) : Tbl.get (Tbl.set t 16 k v) 16 j = Tbl.get t 16 j := Tbl.get_set_other _ _ _ _ _ h
  rw [State.duty, State.moveDuties, hr]
  simp only [List.foldl_cons, List.foldl_nil]
  interval_cases g
  · rw [hother (by decide), hother (by decide), Tbl.get_set_same]
  · rw [hother (by decide), Tbl.get_set_same]
  · rw [Tbl.get_set_same]

theorem State.divTest_eq (s : State) (est meas : Int × Nat) :
    ∃ r o d, s.divTest est meas = { s with power := { s.power with divRun := r, divOk := o, div := d } } := by
  unfold State.divTest
  split
  · exact ⟨_, _, _, rfl⟩
  · split
    · exact ⟨_, _, _, rfl⟩
    · exact ⟨_, _, _, rfl⟩

/-- The thermal level moves by at most one, and a first rise is reported (R375). -/
theorem State.thermal_reported (s : State) (temps : List Nat) :
    ∃ l b, Reported { s with clk := { s.clk with thermal := l }, power := { s.power with hotSaid := b } } (s.thermal temps) ∧
      (l = s.clk.thermal ∨ l = min 15 (s.clk.thermal + 1) ∨ l = s.clk.thermal - 1) := by
  unfold State.thermal
  dsimp only
  split
  · split
    · exact ⟨_, _, Reported.refl _, .inr (.inl rfl)⟩
    · exact ⟨_, _, State.raise_reported _ _, .inr (.inl rfl)⟩
  · split
    · exact ⟨_, _, Reported.refl _, .inr (.inr rfl)⟩
    · exact ⟨_, _, Reported.refl _, .inl rfl⟩

/-- What a window's end does last: the divergence test, the temperatures, and a waiting cap where no epoch gives it its time. -/
def State.windowTail (s : State) (est meas : Int × Nat) (temps : List Nat) : State :=
  let t := (s.divTest est meas).thermal temps
  match t.power.capPend with
  | some c => if t.determ then t else { t with power := { t.power with capNow := c, capPend := none } }
  | none => t

/-- Of the cap level, the window and the duties `windowTail` changes nothing; the thermal level moves by at most one. -/
structure WindowTail (s t : State) : Prop where
  winAt : t.power.winAt = s.power.winAt
  events : t.power.events = s.power.events
  duty : t.power.duty = s.power.duty
  cap : t.clk.cap = s.clk.cap
  mem : t.mem = s.mem
  thermal : t.clk.thermal = s.clk.thermal ∨ t.clk.thermal = min 15 (s.clk.thermal + 1) ∨ t.clk.thermal = s.clk.thermal - 1

theorem State.windowTail_keeps (s : State) (est meas : Int × Nat) (temps : List Nat) : WindowTail s (s.windowTail est meas temps) := by
  obtain ⟨r, o, d, hd⟩ := s.divTest_eq est meas
  obtain ⟨l, b, ht, hl⟩ := (s.divTest est meas).thermal_reported temps
  rw [hd] at ht hl
  have htail : WindowTail s ((s.divTest est meas).thermal temps) := by
    constructor
    all_goals rw [hd]; simp only [ht.power, ht.clk, ht.mem]
    exact hl
  unfold State.windowTail
  dsimp only
  split
  · split
    · exact htail
    · exact ⟨htail.winAt, htail.events, htail.duty, htail.cap, htail.mem, htail.thermal⟩
  · exact htail

/-! ### The end of an estimator window -/

/-- P_ctl of the window that ends (R368, R372). -/
def State.pCtl (s : State) : Int × Nat :=
  let est := uwAdd (uwAdd (s.estOf 0) (s.estOf 1)) (s.estOf 2)
  let all := uwAdd (uwAdd (uwAdd (s.measured 0) (s.measured 1)) (s.measured 2)) (s.measured 3)
  let margin := uwMw (1000 * s.pv 0x4004 0)
  if !s.power.tlost.isEmpty then (if s.power.div then uwAdd est margin else est) else if s.power.div then uwAdd all margin else uwMax est all

/-- The state a window's end hands to `windowTail`: the next window has begun, with its cap level and duties. -/
structure WindowBegun (s u : State) : Prop where
  winAt : u.power.winAt = s.power.winAt + 200
  events : u.power.events = []
  cap : u.clk.cap = nextCap s.clk.cap s.pCtl s.power.capNow
  thermal : u.clk.thermal = s.clk.thermal
  mem : u.mem = s.mem
  duty : ∀ g, g < 3 → u.duty g = max 4 (s.duty g - 1) ∨ u.duty g = min 16 (s.duty g + 1)

/-- Counting and learning, before the duties move, change no part of the power controller but the learned needs. -/
structure WindowLearnt (s t : State) : Prop where
  clk : t.clk = s.clk
  mem : t.mem = s.mem
  power : t.power = { s.power with need := t.power.need }

theorem State.windowLearn_keeps {s c : State} (learn : Bool) (ph : Nat) (p : Nat → Int × Nat) (hc : c.clk = s.clk) (hm : c.mem = s.mem)
    (hp : c.power = s.power) : WindowLearnt s (if learn then c.learnNeed ph p else c) := by
  refine ⟨?_, ?_, ?_⟩
  · split
    · exact hc
    · exact hc
  · split
    · exact hm
    · exact hm
  · split
    · simp only [State.learnNeed, hp]
    · exact hp ▸ rfl

theorem State.windowEnd_begins (s : State) (temps : List Nat) :
    ∃ u est meas, WindowBegun s u ∧ s.windowEnd temps = u.windowTail est meas temps := by
  unfold State.windowEnd
  refine ⟨_, _, _, ?_, rfl⟩
  dsimp only
  have hlearnt := State.windowLearn_keeps (s := s)
    (c := ((s.cadd 0x6500 5 (b2n (s.clk.thermal ≠ 0))).cadd 0x6500 6 (b2n ((List.range 3).any (fun g => s.duty g ≠ 16)))).cadd 0x6500 7 (b2n s.power.div))
    (!!s.power.tlost.isEmpty && !s.power.div) (s.phaseOf s.power.winAt) (fun g => s.estOf g)
    (by simp only [State.cadd_clk]) (by simp only [State.cadd_mem]) (by simp only [State.cadd_power])
  generalize (if (!!s.power.tlost.isEmpty && !s.power.div) = true then _ else _) = v at hlearnt ⊢
  have hcap : v.power.capNow = s.power.capNow := by rw [hlearnt.power]
  have hduty (g : Nat) : v.duty g = s.duty g := by rw [State.duty, hlearnt.power, State.duty]
  have hthermal : v.clk.thermal = s.clk.thermal := by rw [hlearnt.clk]
  constructor
  · exact congrArg (fun q => q.winAt + 200) hlearnt.power
  · rfl
  · show nextCap v.clk.cap s.pCtl v.power.capNow = _
    rw [hlearnt.clk, hcap]
  · exact hthermal
  · exact hlearnt.mem
  · intro g hg
    have hmove := v.moveDuties_duty (v.phaseOf (v.power.winAt + 200)) s.estOf (s.measured 3) hg
    rw [hduty] at hmove
    split at hmove
    · exact .inl hmove
    · exact .inr hmove

/-! ### The commands -/

section
variable {s : State}

theorem exec_estimatorWindowEnd_early {temps : List Nat} (h : s.clk.hnow < s.power.winAt + 200) :
    exec (.estimatorWindowEnd temps) s = .next s := by
  change execEstimatorWindowEnd temps s = _
  simp [execEstimatorWindowEnd, h]

theorem exec_estimatorWindowEnd_due {temps : List Nat} (hp : s.mgmt.por = false) (h : s.power.winAt + 200 ≤ s.clk.hnow) :
    exec (.estimatorWindowEnd temps) s = .next (s.windowEnd temps) := by
  change execEstimatorWindowEnd temps s = _
  simp [execEstimatorWindowEnd, hp, Nat.not_lt.mpr h]

theorem exec_railTelemetrySample_eq {r : RailId} {mw : BitVec 20} (hp : s.mgmt.por = false) :
    let w := max 1 (s.clk.hnow - Tbl.get s.power.lastSmp 0 r.val)
    let a := Tbl.get s.power.mean (0, 0) r.val
    exec (.railTelemetrySample r mw) s = .next { s with power := { s.power with
      mean := Tbl.insert s.power.mean r.val (a.1 + mw.toNat * w, a.2 + w)
      lastMw := Tbl.set s.power.lastMw 0 r.val mw.toNat
      lastSmp := Tbl.set s.power.lastSmp 0 r.val s.clk.hnow
      tlost := without s.power.tlost r.val } } := by
  intro w a
  change execRailTelemetrySample r mw s = _
  simp [execRailTelemetrySample, hp, w, a]

theorem contains_without (l : List Nat) (x : Nat) : (without l x).contains x = false := by
  simp [without]

/-- A rail without a sample for 800 cycles is lost, once (R366). -/
theorem exec_telemetryLost_due {r : RailId} (hp : s.mgmt.por = false)
    (h : s.power.tlost.contains r.val = false ∧ Tbl.get s.power.lastSmp 0 r.val + 800 ≤ s.clk.hnow) :
    exec (.telemetryLost r) s = .next (({ s with power := { s.power with tlost := addOnce s.power.tlost r.val } } : State).raise
      { code := 0x84, unit := uHearth, obj := r.val }) := by
  change execTelemetryLost r s = _
  rw [execTelemetryLost, hp, h.1, decide_eq_false (Nat.not_lt.mpr h.2)]
  rfl

theorem exec_telemetryLost_early {r : RailId}
    (h : ¬(s.power.tlost.contains r.val = false ∧ Tbl.get s.power.lastSmp 0 r.val + 800 ≤ s.clk.hnow)) :
    exec (.telemetryLost r) s = .next s := by
  change execTelemetryLost r s = _
  refine congrArg Host.Outcome.next (if_pos ?_)
  by_cases hc : s.power.tlost.contains r.val = true
  · simp only [hc, Bool.or_true, Bool.true_or]
  · have hl : s.clk.hnow < Tbl.get s.power.lastSmp 0 r.val + 800 := by
      by_contra hl
      exact h ⟨by simpa using hc, by omega⟩
    simp only [hl, decide_true, Bool.or_true]

theorem exec_pwrDivergence_rest (h : s.power.div = true ∨ s.power.divRun < s.pv 0x4005 0) : exec .pwrDivergence s = .next s := by
  change execPwrDivergence s = _
  refine congrArg Host.Outcome.next (if_pos ?_)
  rcases h with h | h
  · simp only [h, Bool.or_true, Bool.true_or]
  · simp only [h, decide_true, Bool.or_true]

/-- A divergence starts, and is reported (R373). -/
theorem exec_pwrDivergence_raises (hp : s.mgmt.por = false) (hd : s.power.div = false) (h : s.pv 0x4005 0 ≤ s.power.divRun) :
    ∃ f, exec .pwrDivergence s = .next (({ s with power := { s.power with div := true, divRun := 0, divOk := 0 } } : State).raise f) := by
  have hdue : ¬(s.mgmt.por || s.power.div || decide (s.power.divRun < s.pv 0x4005 0)) = true := by simp [hp, hd, h]
  change ∃ f, execPwrDivergence s = _
  rw [execPwrDivergence, if_neg hdue]
  exact ⟨_, rfl⟩

theorem exec_pwrDivergence_starts (hp : s.mgmt.por = false) (hd : s.power.div = false) (h : s.pv 0x4005 0 ≤ s.power.divRun) :
    ∃ t, exec .pwrDivergence s = .next t ∧ t.power = { s.power with div := true, divRun := 0, divOk := 0 } := by
  obtain ⟨f, hf⟩ := exec_pwrDivergence_raises hp hd h
  exact ⟨_, hf, (State.raise_reported _ f).power⟩

theorem exec_pwrDivAck_eq (hp : s.mgmt.por = false) : exec .pwrDivAck s = .next s.divAck := by
  change execPwrDivAck s = _
  simp [execPwrDivAck, hp]

theorem exec_capUnmet_rest (h : s.power.capSaid = true ∨ s.power.over15 < 16) : exec .capUnmet s = .next s := by
  change execCapUnmet s = _
  refine congrArg Host.Outcome.next (if_pos ?_)
  rcases h with h | h
  · simp only [h, Bool.or_true, Bool.true_or]
  · simp only [h, decide_true, Bool.or_true]

theorem exec_capUnmet_said (hp : s.mgmt.por = false) (hs : s.power.capSaid = false) (h : 16 ≤ s.power.over15) :
    ∃ t, exec .capUnmet s = .next t ∧ t.power = { s.power with capSaid := true } := by
  have hdue : ¬(s.mgmt.por || s.power.capSaid || decide (s.power.over15 < 16)) = true := by simp [hp, hs, h]
  change ∃ t, execCapUnmet s = .next t ∧ _
  rw [execCapUnmet, if_neg hdue]
  exact ⟨_, rfl, (State.raise_reported _ _).power⟩

theorem exec_powerCapWrite_refused {v : BitVec 16} (h : v.toNat < 40 ∨ 320 < v.toNat) : exec (.powerCapWrite v) s = .next s := by
  change execPowerCapWrite v s = _
  simp [execPowerCapWrite, State.capWrite, h]

theorem exec_powerCapWrite_waits {v : BitVec 16} (hp : s.mgmt.por = false) (hl : 40 ≤ v.toNat) (hh : v.toNat ≤ 320) :
    exec (.powerCapWrite v) s = .next (({ s with power := { s.power with capPend := some v.toNat } } : State).setPv 0x4000 0 v.toNat) := by
  change execPowerCapWrite v s = _
  have hv : ¬(v.toNat < 40 ∨ 320 < v.toNat) := by omega
  simp [execPowerCapWrite, State.capWrite, hp, hv]

end

/-! ### Temper (R381) -/

section
variable {s : State} {slack : Nat}

theorem State.pv_setPv_same (s : State) (p i v : Nat) : (s.setPv p i v).pv p i = v := Tbl.get_set_same _ _ _ _

theorem State.temperStep_margin (m : Nat) : (s.temperStep m slack).margin = m := by
  unfold State.temperStep State.margin
  rw [(State.raise_reported _ _).pv _ _ (by decide) (by decide)]
  exact State.pv_setPv_same _ _ _ _

theorem State.temperStep_power (m : Nat) : (s.temperStep m slack).power = { s.power with marginAt := s.clk.ts.toNat } :=
  (State.raise_reported _ _).power

theorem State.temperRestart_margin : s.temperRestart.margin = s.margin := rfl

/-- The period's conditions for a lower margin. -/
def State.temperGood (s : State) (slack : Nat) : Prop :=
  s.pv 0x4072 0 ≤ slack ∧ s.power.droops ≤ s.pv 0x4073 0 ∧ s.power.warns = 0 ∧ 15 < s.margin

theorem exec_temperPeriodEnd_early (h : ¬3600 * secNs * s.pv 0x4071 0 ≤ s.power.liveNs) : exec (.temperPeriodEnd slack) s = .next s := by
  change execTemperPeriodEnd slack s = _
  refine congrArg Host.Outcome.next (if_pos ?_)
  simp only [Nat.lt_of_not_le h, decide_true, Bool.or_true]

theorem exec_temperPeriodEnd_elapsed (hp : s.mgmt.por = false) (h : 3600 * secNs * s.pv 0x4071 0 ≤ s.power.liveNs) [Decidable (s.temperGood slack)] :
    exec (.temperPeriodEnd slack) s =
      .next (if s.temperGood slack then s.temperRestart.temperStep (s.margin - 5) slack else s.temperRestart) := by
  change execTemperPeriodEnd slack s = _
  refine congrArg Host.Outcome.next ((if_neg ?_).trans (if_congr ?_ rfl rfl))
  · simp [hp, h]
  · simp [State.temperGood, State.temperRestart_margin, and_assoc]
    exact fun _ _ _ => decide_eq_true_iff

/-- A monitor is read now and reports slack below half of the parameter. -/
def State.temperLow (s : State) (slack : Nat) : Prop :=
  s.clk.rootOn = true ∧ s.stretch = 0 ∧ (s.power.marginAt = 0 ∨ s.power.marginAt + 100 * usNs ≤ s.clk.ts.toNat) ∧ 2 * slack < s.pv 0x4072 0

theorem exec_temperStepUp_eq {m : Fin 16} [Decidable (s.temperLow slack)] :
    exec (.temperStepUp m slack) s =
      .next (if s.temperLow slack then (if s.margin < 45 then s.temperRestart.temperStep (s.margin + 5) slack else s.temperRestart) else s) := by
  change execTemperStepUp m slack s = _
  refine congrArg Host.Outcome.next ((ite_congr (propext ?_) (fun _ => rfl) (fun _ => rfl)).trans (ite_not _ _ _))
  simp only [State.temperLow, Classical.not_and_iff_not_or_not]
  simp [or_assoc]

end

/-- Settles O50: the end of a window is `State.windowEnd_begins`, after which `State.windowTail_keeps` leaves cap level and duties; the level moves by
`nextCap_over` and `nextCap_within`; the other commands are their cases. How powers are rounded (log entry 7) bears on none of it; the levels of
the cap compare exactly and the reports come once per episode (log entries 29, 30); TEMPER takes the least slack from its operand (log entry 32). -/
theorem powerControllerRuns : Obligations.PowerControllerRuns := by
  unfold Obligations.PowerControllerRuns
  classical
  intro s hp est all margin ctl
  have hctl : ctl = s.pCtl := by
    have htlost : (!s.power.tlost.isEmpty) = true ↔ s.power.tlost ≠ [] := by simp
    exact if_congr htlost.symm rfl rfl
  refine ⟨fun temps => ⟨exec_estimatorWindowEnd_early, fun h => ?_⟩, fun level c p => ⟨nextCap_over, nextCap_within⟩, fun r mw => ?_,
    fun r => ⟨exec_telemetryLost_early, fun h => ?_⟩, exec_pwrDivergence_rest, exec_pwrDivergence_starts hp, exec_pwrDivAck_eq hp,
    exec_capUnmet_rest, exec_capUnmet_said hp, fun v => ⟨exec_powerCapWrite_refused, fun hl hh => ?_⟩, fun slack => ?_, fun m slack => ?_,
    fun m slack => ⟨State.temperStep_margin m, State.temperStep_power m⟩, rfl⟩
  · obtain ⟨u, e, me, hu, hw⟩ := s.windowEnd_begins temps
    have ht := u.windowTail_keeps e me temps
    refine ⟨_, exec_estimatorWindowEnd_due hp h, ?_⟩
    rw [hw]
    refine ⟨ht.winAt.trans hu.winAt, ?_, ht.events.trans hu.events, ht.mem.trans hu.mem, fun g hg => ?_, hu.thermal ▸ ht.thermal⟩
    · rw [hctl]
      exact ht.cap.trans hu.cap
    · have hd : (u.windowTail e me temps).duty g = u.duty g := congrArg (fun t => Tbl.get t 16 g) ht.duty
      rw [hd]
      exact hu.duty g hg
  · exact ⟨_, exec_railTelemetrySample_eq hp, rfl, rfl, Tbl.get_set_same _ _ _ _, Tbl.get_set_same _ _ _ _, contains_without _ _, rfl⟩
  · exact ⟨_, exec_telemetryLost_due hp h, congrArg Power.tlost (State.raise_reported _ _).power, (State.raise_reported _ _).mem⟩
  · exact ⟨_, exec_powerCapWrite_waits hp hl hh, rfl, rfl⟩
  · intro good elapsed
    refine ⟨exec_temperPeriodEnd_early, fun he hg => ?_, fun he hg => ?_⟩
    · exact (exec_temperPeriodEnd_elapsed hp he).trans (congrArg _ (if_pos hg))
    · exact (exec_temperPeriodEnd_elapsed hp he).trans (congrArg _ (if_neg hg))
  · intro low
    refine ⟨fun hl => ?_, fun hl hm => ?_, fun hl hm => ?_⟩
    · exact exec_temperStepUp_eq.trans (congrArg _ (if_neg hl))
    · exact exec_temperStepUp_eq.trans (congrArg _ ((if_pos hl).trans (if_pos hm)))
    · exact exec_temperStepUp_eq.trans (congrArg _ ((if_pos hl).trans (if_neg (Nat.not_lt.mpr hm))))

end Sys2Proof.Machine
end

section
/-!
SUPPORT. Snapshots, the trace and triggers (R389 to R404): what writes of the trace's own lines leave of its mode, and each command case by case.
-/
namespace Sys2Proof.Machine

/-! ### The mode of the trace stands while its lines are written -/

/-- The trace is in the mode it was in, and frozen as it was. -/
structure SameTraceMode (s t : State) : Prop where
  mode : t.trace.mode = s.trace.mode
  frozen : t.trace.frozen = s.trace.frozen

theorem SameTraceMode.refl (s : State) : SameTraceMode s s := ⟨rfl, rfl⟩

theorem SameTraceMode.trans {a b c : State} (h : SameTraceMode a b) (k : SameTraceMode b c) : SameTraceMode a c :=
  ⟨k.mode.trans h.mode, k.frozen.trans h.frozen⟩

theorem SameTraceMode.foldl {α : Type} {s : State} {f : State → α → State} {l : List α} (hf : ∀ s x, SameTraceMode s (f s x)) :
    SameTraceMode s (l.foldl f s) := by
  induction l generalizing s with
  | nil => exact SameTraceMode.refl s
  | cons x l ih => exact (hf s x).trans ih

theorem Reported.sameTraceMode {s t : State} (h : Reported s t) : SameTraceMode s t := by
  constructor
  all_goals rw [h.trace]

theorem State.setApp_sameTraceMode (s : State) (k : Nat) (a : Appender) : SameTraceMode s (s.setApp k a) := ⟨rfl, rfl⟩

theorem State.extentWrite_trace (s : State) (u ga : Nat) (d : Line) (p : Purpose) : (s.extentWrite u ga d p).trace = s.trace :=
  (State.extentWrite_keeps (.refl { flight := true, nextId := true } s) rfl rfl).same_trace rfl

theorem State.extentWrite_sameTraceMode (s : State) (u ga : Nat) (d : Line) (p : Purpose) : SameTraceMode s (s.extentWrite u ga d p) := by
  constructor
  all_goals rw [State.extentWrite_trace]

theorem State.headerPut_sameTraceMode (s : State) (k : Nat) (force : Bool) : SameTraceMode s (s.headerPut k force) := by
  unfold State.headerPut
  dsimp only
  split
  · exact SameTraceMode.refl s
  · exact (s.setApp_sameTraceMode k _).trans (State.extentWrite_sameTraceMode _ _ _ _ _)

theorem State.appDrop_sameTraceMode (s : State) (k cause : Nat) (r : Rec) : SameTraceMode s (s.appDrop k cause r) :=
  (s.setApp_sameTraceMode k _).trans (State.dropSaid_reported _ _ _).sameTraceMode

theorem State.fillTest_sameTraceMode (s : State) (k : Nat) : SameTraceMode s (s.fillTest k) := by
  unfold State.fillTest
  dsimp only
  split
  · exact SameTraceMode.refl s
  · exact (State.testTriggers_reported _ _ _ _).sameTraceMode

theorem State.appDrops_sameTraceMode (s : State) (k cause : Nat) (rs : List Rec) :
    SameTraceMode s (rs.foldl (fun s r => s.appDrop k cause r) s) :=
  SameTraceMode.foldl fun s r => s.appDrop_sameTraceMode k cause r

/-- A line goes into its sub-ring. -/
theorem State.linePut_sameTraceMode {s v : State} {k : Nat} (hv : SameTraceMode s v) (a : Appender) (buf : Tbl Rec) (ga : Nat) (d : Line) :
    SameTraceMode s (State.fillTest (State.extentWrite
      { v.setApp k a with trace := { (v.setApp k a).trace with buffer := buf } } (uT1 k) ga d .observe) k) :=
  have hbuf : SameTraceMode s { v.setApp k a with trace := { (v.setApp k a).trace with buffer := buf } } := ⟨hv.mode, hv.frozen⟩
  (hbuf.trans (State.extentWrite_sameTraceMode _ _ _ _ _)).trans (State.fillTest_sameTraceMode _ _)

theorem State.lineOut_sameTraceMode (s : State) (k : Nat) (a b : Rec) : SameTraceMode s (s.lineOut k a b) := by
  unfold State.lineOut
  dsimp only
  have hold {u v : State} (huv : SameTraceMode u v) (c : Prop) [Decidable c] (rs : List Rec) :
      SameTraceMode u (if c then v else rs.foldl (fun s r => s.appDrop k 4 r) v) := by
    split
    · exact huv
    · exact huv.trans (v.appDrops_sameTraceMode k 4 rs)
  split
  · exact State.linePut_sameTraceMode (hold (SameTraceMode.refl s) _ _) _ _ _ _
  · split
    · exact State.linePut_sameTraceMode (hold (s.setApp_sameTraceMode k _) _ _) _ _ _ _
    · split
      · exact s.appDrops_sameTraceMode k 4 _
      · exact (s.setApp_sameTraceMode k _).trans (State.appDrops_sameTraceMode _ k 3 _)

theorem State.appWrite_sameTraceMode (n : Nat) (s : State) (k : Nat) (pad : Bool) : SameTraceMode s (State.appWrite n s k pad) := by
  induction n generalizing s with
  | zero => exact SameTraceMode.refl s
  | succ n ih =>
    unfold State.appWrite
    dsimp only
    split
    · split
      · exact SameTraceMode.refl s
      · exact ((s.setApp_sameTraceMode k _).trans (State.lineOut_sameTraceMode _ _ _ _)).trans (ih _)
    · split
      · exact SameTraceMode.refl s
      · exact (s.setApp_sameTraceMode k _).trans (State.lineOut_sameTraceMode _ _ _ _)
    · exact SameTraceMode.refl s

/-! ### Snapshots (R390, R391) -/

section
variable {s : State} {e : Nat}

theorem State.snapAsk_frozen (h : s.count.frozen = true) : s.snapAsk e =
    { s with count := { s.count with ignored := if s.count.ignored = 255 then 255 else s.count.ignored + 1 } } := if_pos h

/-- A request while a snapshot is due is part of that request (log entry 33). -/
theorem State.snapAsk_due (hf : s.count.frozen = false) (h : s.count.pend ≠ none) : s.snapAsk e = s := by
  simp [State.snapAsk, hf, Option.isSome_iff_ne_none.mpr h]

theorem State.snapAsk_asks (hf : s.count.frozen = false) (h : s.count.pend = none) :
    s.snapAsk e = { s with count := { s.count with pend := some (e + 16) } } := by
  simp [State.snapAsk, hf, h]

theorem exec_snap_eq (hp : s.mgmt.por = false) : exec .snap s = .next (s.snapAsk s.clk.now) := by
  change execSnap s = _
  simp [execSnap, hp]

theorem exec_snapEdge_eq (hr : s.clk.rootOn = true) : exec .snapEdge s = .next (s.snapAsk s.clk.now) := by
  change execSnapEdge s = _
  simp [execSnapEdge, hr]

theorem exec_thaw_eq (hp : s.mgmt.por = false) : exec .thaw s = .next s.thawNow := by
  change execThaw s = _
  simp [execThaw, hp]

theorem exec_snapshotTake_none (h : s.count.pend = none) : exec .snapshotTake s = .next s := by
  change execSnapshotTake s = _
  rw [execSnapshotTake, h]

theorem exec_snapshotTake_some (hr : s.clk.rootOn = true) {c : Nat} (h : s.count.pend = some c) :
    exec .snapshotTake s = .next (if c ≤ s.clk.now then s.snapTake else s) := by
  change execSnapshotTake s = _
  simp [execSnapshotTake, h, hr]

end

/-! ### Open waits, marks, the mode (R392, R396, R401, R405) -/

section
variable {s : State}

theorem exec_traceLongExpire_none {u : UnitId} {x : Nat} (h : (s.openWaits u.val).find? (fun w => w.id = x) = none) :
    exec (.traceLongExpire u x) s = .next s := by
  change execTraceLongExpire u x s = _
  simp only [execTraceLongExpire, h]

/-- The wait was recorded already, or is not old enough. -/
def State.longRests (s : State) (w : OpenWait) : Prop :=
  s.trace.longSaid.contains w.key = true ∨ s.clk.now < w.since + s.pv 0x6007 0

theorem exec_traceLongExpire_rests {u : UnitId} {x : Nat} {w : OpenWait} (h : (s.openWaits u.val).find? (fun w => w.id = x) = some w)
    (hw : s.longRests w) : exec (.traceLongExpire u x) s = .next s := by
  change execTraceLongExpire u x s = _
  simp only [execTraceLongExpire, h]
  refine congrArg Host.Outcome.next (if_pos ?_)
  rcases hw with hw | hw
  · simp only [hw, Bool.or_true, Bool.true_or]
  · simp only [hw, decide_true, Bool.or_true]

theorem exec_traceLongExpire_says {u : UnitId} {x : Nat} {w : OpenWait} (hr : s.clk.rootOn = true)
    (h : (s.openWaits u.val).find? (fun w => w.id = x) = some w) (hs : s.trace.longSaid.contains w.key = false)
    (ha : w.since + s.pv 0x6007 0 ≤ s.clk.now) :
    let keep := s.trace.longSaid.filter (fun k => k / 2^104 % 512 ≠ u.val || (s.openWaits u.val).any (fun v => v.key = k))
    exec (.traceLongExpire u x) s = .next (({ s with trace := { s.trace with longSaid := keep ++ [w.key] } } : State).traceGen w.trec) := by
  change execTraceLongExpire u x s = _
  simp only [execTraceLongExpire, h]
  refine congrArg Host.Outcome.next (if_neg ?_)
  simp only [hr, hs, decide_eq_false (Nat.not_lt.mpr ha), Bool.not_true, Bool.or_false, Bool.false_eq_true, not_false_eq_true]

theorem exec_traceMark_eq {h : HiveId} {c : CtxId} {v : Dword} (hf : s.cmdFree h c) : exec (.traceMark h c v) s = .next (s.traceGen
    { kind := 0x0C, unit := h.val, ctx := c.val, port := 7, layer := fld v.toNat 63 48, oper := fld v.toNat 47 32, aux := fld v.toNat 31 0 }) := by
  change execTraceMark h c v s = _
  rw [execTraceMark, hf.go]
  exact congrArg _ (if_pos hf.1)

theorem exec_traceModeWrite_eq {v : Byte} (hp : s.mgmt.por = false) : exec (.traceModeWrite v) s = .next (s.traceModeSet v.toNat).1 := by
  change execTraceModeWrite v s = _
  simp [execTraceModeWrite, hp]

theorem State.traceModeSet_refused {v : Nat} (h : 2 < v) : s.traceModeSet v = (s, false) := if_pos h

/-- The trace goes off: what is staged is written out first, then the headers. -/
theorem State.traceModeSet_off (h : s.trace.mode ≠ 0) :
    let w := (List.range 8).foldl (fun s k => State.appWrite 256 s k true) s
    (s.traceModeSet 0).1 = ((List.range 8).foldl (fun (s : State) k => s.headerPut k true)
      { w with trace := { w.trace with mode := 0, dropSaid := false, frozen := false } }).setPv 0x6000 0 0 := by
  simp [State.traceModeSet, h]

/-- The trace is off and goes on: the buffer starts empty. -/
theorem State.traceModeSet_on {v : Nat} (hv : v ≤ 2) (h0 : v ≠ 0) (h : s.trace.mode = 0) :
    (s.traceModeSet v).1 = ({ s with trace := { s.trace with mode := v, dropSaid := false, frozen := false, apps := [], buffer := [] } } : State).setPv 0x6000 0 v := by
  simp [State.traceModeSet, h, h0, Nat.not_lt.mpr hv]

/-- The trace stays off, or stays on. -/
theorem State.traceModeSet_stays {v : Nat} (hv : v ≤ 2) (h : v = 0 ↔ s.trace.mode = 0) :
    (s.traceModeSet v).1 = ({ s with trace := { s.trace with mode := v, dropSaid := false, frozen := false } } : State).setPv 0x6000 0 v := by
  simp [State.traceModeSet, ← h, Nat.not_lt.mpr hv]

/-- What an accepted mode leaves of the trace. -/
structure ModeSet (s t : State) (v : Nat) : Prop where
  param : t.pv 0x6000 0 = v
  mode : t.trace.mode = v
  thawed : t.trace.frozen = false
  empty : s.trace.mode = 0 → v ≠ 0 → t.trace.buffer = [] ∧ t.trace.apps = []

theorem State.traceModeSet_modeSet {v : Nat} (hv : v ≤ 2) : ModeSet s (s.traceModeSet v).1 v := by
  by_cases hm : s.trace.mode = 0
  · by_cases h0 : v = 0
    · rw [State.traceModeSet_stays hv (by simp [hm, h0])]
      exact ⟨State.pv_setPv_same _ _ _ _, rfl, rfl, fun _ h => absurd h0 h⟩
    · rw [State.traceModeSet_on hv h0 hm]
      exact ⟨State.pv_setPv_same _ _ _ _, rfl, rfl, fun _ _ => ⟨rfl, rfl⟩⟩
  · by_cases h0 : v = 0
    · subst h0
      rw [State.traceModeSet_off hm]
      refine ⟨State.pv_setPv_same _ _ _ _, ?_, ?_, fun h => absurd h hm⟩
      · rw [State.setPv_trace, (SameTraceMode.foldl fun s k => s.headerPut_sameTraceMode k true).mode]
      · rw [State.setPv_trace, (SameTraceMode.foldl fun s k => s.headerPut_sameTraceMode k true).frozen]
    · rw [State.traceModeSet_stays hv (by simp [hm, h0])]
      exact ⟨State.pv_setPv_same _ _ _ _, rfl, rfl, fun h => absurd h hm⟩

end

/-! ### Appenders (R397, R398) -/

section
variable {s : State} {k : StackId}

/-- An appender writes what it holds as whole lines, and its header. -/
def State.appDone (s : State) (k : Nat) : State := (State.appWrite 256 s k (s.trace.mode = 0)).headerPut k (s.trace.mode = 0)

/-- The mode that the header's write goes by is the same before and after the lines. -/
theorem State.appDone_eq (s : State) (k : Nat) : s.appDone k =
    (State.appWrite 256 s k (s.trace.mode = 0)).headerPut k ((State.appWrite 256 s k (s.trace.mode = 0)).trace.mode = 0) := by
  rw [(State.appWrite_sameTraceMode 256 s k _).mode]
  rfl

/-- The first unit of appender k with records sends a packet while the trace is on (R397). -/
def State.appFeed (s : State) (k : Nat) : State :=
  match s.trace.staging.find? (fun e => appenderOf e.1 = k) with
  | some e =>
    if s.trace.mode = 0 then s
    else ((s.obsPacket e.1).2.cadd 0x6700 (8 * e.1 + 7) (32 * (s.obsPacket e.1).1.length)).obsSend k (s.obsPacket e.1).1 (obsRoute e.1 k)
  | none => s

theorem State.appFeed_none {s : State} {k : Nat} (h : s.trace.staging.find? (fun e => appenderOf e.1 = k) = none ∨ s.trace.mode = 0) :
    s.appFeed k = s := by
  unfold State.appFeed
  split
  next e he => exact if_pos (h.resolve_left (by simp [he]))
  next => rfl

theorem State.appFeed_some {s : State} {k : Nat} {e : Nat × Staging} (h : s.trace.staging.find? (fun e => appenderOf e.1 = k) = some e)
    (hm : s.trace.mode ≠ 0) : s.appFeed k =
      ((s.obsPacket e.1).2.cadd 0x6700 (8 * e.1 + 7) (32 * (s.obsPacket e.1).1.length)).obsSend k (s.obsPacket e.1).1 (obsRoute e.1 k) := by
  simp only [State.appFeed, h, if_neg hm]

theorem exec_traceAppend_eq (hr : s.clk.rootOn = true) :
    exec (.traceAppend k) s = .next (((s.obsRetry k.val).appFeed k.val).appDone k.val) := by
  have hon : ¬(!s.clk.rootOn) = true := by simp [hr]
  exact congrArg Host.Outcome.next (if_neg hon)

/-- A line has held one record for 256 cycles. -/
def State.padDue (s : State) (k : Nat) : Prop := (s.app k).staged.length = 1 ∧ (s.app k).since + 256 ≤ s.clk.now

theorem exec_appenderPadTimeout_eq (hr : s.clk.rootOn = true) [Decidable (s.padDue k.val)] : exec (.appenderPadTimeout k) s =
    .next (if s.padDue k.val then (State.appWrite 1 s k.val true).headerPut k.val false else s) := by
  change execAppenderPadTimeout k s = _
  refine congrArg Host.Outcome.next (if_congr ?_ rfl rfl)
  simp [State.padDue, hr]

end

/-! ### Triggers (R404, R405) -/

section
variable {s : State} {i : Fin 4}

/-- The cycle in which a trigger that fired acts: 8 cycles after for QUENCH, 24 after for the others. -/
def State.triggerDue (s : State) (i t : Nat) : Nat := t + (if fld (s.trigger i) 62 61 = 0 then 8 else 24)

/-- A trigger that acted is listed no more. -/
def State.unfire (s : State) (f : Nat × Nat × Nat) : State :=
  { s with trace := { s.trace with fires := s.trace.fires.filter (fun g => g ≠ f) } }

/-- TRIGGER_FIRED is told of a trigger (R404). -/
def State.triggerSay (s : State) (i : Nat) (f : Nat × Nat × Nat) : State :=
  s.raise { code := 0x92, unit := uHearth, obj := i, aux := f.2.2 / 2^224, ga := f.2.2 % 2^48 }

/-- What a trigger's action does: it asks for a Quench, freezes the trace, takes a snapshot, or nothing. -/
def State.triggerActs (s : State) (act i : Nat) (f : Nat × Nat × Nat) : State :=
  if act = 0 then s.quenchAsk 3 i (f.2.1 + 8)
  else State.triggerSay (
    if act = 1 then
      (List.range 8).foldl (fun (s : State) k => s.headerPut k true) { s with trace := { s.trace with frozen := true } }
    else if act = 2 then
      if s.count.frozen then s.snapAsk 0 else s.snapTake
    else s) i f

theorem exec_triggerAction_none (h : s.trace.fires.find? (fun f => f.1 = i.val) = none) : exec (.triggerAction i) s = .next s := by
  change execTriggerAction i s = _
  simp only [execTriggerAction, h]

variable {f : Nat × Nat × Nat} (h : s.trace.fires.find? (fun f => f.1 = i.val) = some f)
include h

theorem exec_triggerAction_early (hd : s.clk.now < s.triggerDue i.val f.2.1) : exec (.triggerAction i) s = .next s := by
  change execTriggerAction i s = _
  simp only [execTriggerAction, h]
  refine congrArg Host.Outcome.next (if_pos ?_)
  rw [← apply_ite (f.2.1 + ·)]
  exact (Bool.or_eq_true _ _).mpr (.inr (decide_eq_true hd))

/-- A trigger acts when due, and is told of when its action takes effect (log entry 34). -/
theorem exec_triggerAction_acts (hr : s.clk.rootOn = true) (hd : s.triggerDue i.val f.2.1 ≤ s.clk.now) :
    exec (.triggerAction i) s = .next ((s.unfire f).triggerActs (fld (s.trigger i.val) 62 61) i.val f) := by
  change execTriggerAction i s = _
  simp only [execTriggerAction, h]
  refine congrArg Host.Outcome.next (if_neg ?_)
  rw [← apply_ite (f.2.1 + ·), hr]
  intro hc
  have hlt : decide (s.clk.now < s.triggerDue i.val f.2.1) = true := hc
  exact Nat.not_lt.mpr hd (of_decide_eq_true hlt)

end

section
variable {s : State} {i : Nat} {f : Nat × Nat × Nat}

theorem State.triggerActs_quench : s.triggerActs 0 i f = s.quenchAsk 3 i (f.2.1 + 8) := if_pos rfl

theorem State.triggerActs_freeze : s.triggerActs 1 i f =
    State.triggerSay ((List.range 8).foldl (fun s k => s.headerPut k true) { s with trace := { s.trace with frozen := true } }) i f := by
  rw [State.triggerActs, if_neg (by decide), if_pos rfl]

theorem State.triggerActs_snapshot : s.triggerActs 2 i f = State.triggerSay (if s.count.frozen then s.snapAsk 0 else s.snapTake) i f := by
  rw [State.triggerActs, if_neg (by decide), if_neg (by decide), if_pos rfl]

theorem State.triggerActs_none : s.triggerActs 3 i f = s.triggerSay i f := by
  rw [State.triggerActs, if_neg (by decide), if_neg (by decide), if_neg (by decide)]

end

/-- Settles O52: a request for a snapshot by `State.snapAsk` (one while a snapshot is due is part of it, log entry 33), a wait by whether it is old
and unsaid, a mode by what it leaves and enters, an appender by `State.appFeed` and `State.appDone`, a trigger by `State.triggerActs`
(told of when its action takes effect, log entry 34). -/
theorem snapshotsAndTraceRun : Obligations.SnapshotsAndTraceRun := by
  unfold Obligations.SnapshotsAndTraceRun
  classical
  intro s hp hr
  have hsnap {i : Instr} (hi : i = .snap ∨ i = .snapEdge) : exec i s = .next (s.snapAsk s.clk.now) := by
    rcases hi with rfl | rfl
    · exact exec_snap_eq hp
    · exact exec_snapEdge_eq hr
  refine ⟨fun i hi => ?_, exec_thaw_eq hp, exec_snapshotTake_none, fun c hc => ?_, fun _ _ => rfl, fun u x => ?_,
    fun h c v hf => exec_traceMark_eq hf, fun v => ?_, fun k => ?_, fun k => ?_, fun i => ?_⟩
  · rw [hsnap hi]
    exact ⟨fun hf => congrArg _ (State.snapAsk_frozen hf), fun hf h => congrArg _ (State.snapAsk_due hf h),
      fun hf h => congrArg _ (State.snapAsk_asks hf h)⟩
  · rw [exec_snapshotTake_some hr hc]
    exact ⟨fun hl => congrArg _ (if_neg (Nat.not_le.mpr hl)), fun hl => congrArg _ (if_pos hl)⟩
  · intro e go
    exact ⟨exec_traceLongExpire_none, fun w he => ⟨exec_traceLongExpire_rests he, exec_traceLongExpire_says hr he⟩⟩
  · rw [exec_traceModeWrite_eq hp]
    refine ⟨fun hv => congrArg _ (congrArg Prod.fst (State.traceModeSet_refused hv)), fun hv => ?_,
      fun hv hm => ?_⟩
    · obtain ⟨hpv, hmode, hthawed, hempty⟩ := State.traceModeSet_modeSet (s := s) hv
      exact ⟨_, rfl, hpv, hmode, hthawed, hempty⟩
    rw [hv]
    exact congrArg _ (State.traceModeSet_off hm)
  · intro v done
    have hdone (u : State) : u.appDone k.val = done u := u.appDone_eq k.val
    rw [exec_traceAppend_eq hr, hdone]
    exact ⟨fun h => congrArg (fun u => Host.Outcome.next (done u)) (State.appFeed_none h),
      fun e he hm => congrArg (fun u => Host.Outcome.next (done u)) (State.appFeed_some he hm)⟩
  · rw [exec_appenderPadTimeout_eq hr]
    exact ⟨fun h => congrArg _ (if_neg h), fun h => congrArg _ (if_pos h)⟩
  · intro e act go
    refine ⟨exec_triggerAction_none, fun f he => ?_⟩
    intro v due say
    refine ⟨exec_triggerAction_early he, fun hd => ?_⟩
    have hgo (n : Nat) (hn : act = n) : go = .next ((s.unfire f).triggerActs n i.val f) := hn ▸ exec_triggerAction_acts he hr hd
    exact ⟨fun ha => (hgo 0 ha).trans (congrArg _ State.triggerActs_quench), fun ha => (hgo 1 ha).trans (congrArg _ State.triggerActs_freeze),
      fun ha => (hgo 2 ha).trans (congrArg _ State.triggerActs_snapshot), fun ha => (hgo 3 ha).trans (congrArg _ State.triggerActs_none)⟩

end Sys2Proof.Machine
end

section
/-!
SUPPORT. The wait-for graph, the timestamps across chips and the Quench (R387, R405 to R419), each command case by case.
-/
namespace Sys2Proof.Machine

/-! ### The wait-for graph (R405 to R408) -/

section
variable {s : State}

theorem State.wfgCtl_build : (s.wfgCtl (2^56)).1 = if s.trace.wfgBusy = 1 then s else s.wfgStart := by
  have hop : fld (2^56) 59 56 = 1 := by decide
  simp only [State.wfgCtl, hop]
  rfl

theorem exec_wfgBuild_starts (hp : s.mgmt.por = false) (hb : s.trace.wfgBusy ≠ 1) : exec .wfgBuild s = .next s.wfgStart := by
  change execWfgBuild s = _
  rw [execWfgBuild, hp, State.wfgCtl_build, if_neg hb]
  rfl

theorem exec_wfgBuild_ignored (h : s.mgmt.por = true ∨ s.trace.wfgBusy = 1) : exec .wfgBuild s = .next s := by
  change execWfgBuild s = _
  rw [execWfgBuild, State.wfgCtl_build]
  refine congrArg Host.Outcome.next ?_
  rcases h with h | h
  · exact if_pos h
  · rw [if_pos h, ite_self]

theorem exec_wfgBuildDone_none (hb : s.trace.wfgBusy ≠ 1) : exec .wfgBuildDone s = .next s := congrArg Host.Outcome.next (if_neg hb)

theorem exec_wfgBuildDone_stores (hb : s.trace.wfgBusy = 1) :
    exec .wfgBuildDone s = .next { s with trace := { s.trace with wfg := s.wfgBlob, wfgBusy := 2 } } := congrArg Host.Outcome.next (if_pos hb)

end

/-! ### Timestamps across chips (R409, R410) -/

section
variable {s : State} {k : FxpId} {chip : ChipId}

/-- The FXP owes the chip a probe, and may send it. -/
def State.probeMay (s : State) (k : FxpId) (chip : ChipId) : Prop :=
  s.clk.rootOn = true ∧ s.mgmt.phase = 7 ∧ s.mirror.st ≠ .fenced ∧ s.probeRoll.fxps.probe.contains (k.val, chip.val) = true

/-- Why a probe is not sent. -/
theorem State.probeMay_iff : s.probeMay k chip ↔ ¬(!s.clk.rootOn || s.mgmt.phase ≠ 7 || s.mirror.st = .fenced ||
    !s.probeRoll.fxps.probe.contains (k.val, chip.val)) = true := by
  simp only [State.probeMay, Bool.or_eq_true, not_or, Bool.not_eq_true', Bool.not_eq_false, decide_eq_true_eq, ne_eq, not_not, and_assoc]

theorem exec_tsprobeSend_none (h : ¬s.probeMay k chip) : exec (.tsprobeSend k chip) s = .next s :=
  congrArg Host.Outcome.next (if_pos (not_not.mp (mt State.probeMay_iff.mpr h)))

/-- A probe that is owed goes out with the timestamp, and is owed no more. -/
theorem exec_tsprobeSend_sends (h : s.probeMay k chip) :
    ∃ (u : State) (f : Frame), exec (.tsprobeSend k chip) s = .next ((u.sendFrame 0x28 f).traceGen { kind := 0x0D, unit := uFx k.val, obj := chip.val }) ∧
      f.mask = u.clk.ts ∧ f.qos = fin8 7 ∧ u.fxps.probe = s.probeRoll.fxps.probe.filter (fun e => e ≠ (k.val, chip.val)) := by
  refine ⟨_, _, congrArg Host.Outcome.next (if_neg (State.probeMay_iff.mp h)), rfl, rfl, rfl⟩

theorem exec_tsprobeRecv_closed {f : Frame} (h : s.frameOpen f = false) : exec (.tsprobeRecv k f) s = .next s :=
  congrArg Host.Outcome.next (if_pos (by simp [h]))

theorem exec_tsprobeRecv_open {f : Frame} (h : s.frameOpen f = true) : exec (.tsprobeRecv k f) s = .next ((s.frameSeen k.val 0x28 f).traceGen
    { kind := 0x0E, unit := uFx k.val, src := { chip := f.srcChip.val, unit := f.srcHive.val }, aux := f.mask.toNat }) :=
  congrArg Host.Outcome.next (if_neg (by simp [h]))

end

section
variable {s : State}

/-- An edge of tsync_i loads the armed value. -/
def State.tsyncMay (s : State) : Prop :=
  s.mgmt.por = false ∧ s.clk.fclkOn = true ∧ s.replaying = false ∧ s.pv 0x6061 0 = 1 ∧ s.pv 0x6063 0 ≠ 0

theorem exec_tsyncEdge_none (h : ¬s.tsyncMay) : exec .tsyncEdge s = .next s := by
  change execTsyncEdge s = _
  refine congrArg Host.Outcome.next ?_
  by_cases hv : s.pv 0x6063 0 = 0
  · rw [State.tsync, if_pos hv, ite_self]
  · refine if_pos ?_
    by_contra hc
    simp only [Bool.or_eq_true, not_or, Bool.not_eq_true', Bool.not_eq_false, decide_eq_true_eq, ne_eq, not_not, Bool.not_eq_true] at hc
    obtain ⟨⟨⟨hp, hf⟩, hr⟩, hm⟩ := hc
    exact h ⟨hp, hf, hr, hm, hv⟩

/-- The value is armed for the ninth edge of fclk_i after the sample, and TS_LOAD is cleared (log entry 35). -/
theorem exec_tsyncEdge_loads (h : s.tsyncMay) :
    ∃ t, exec .tsyncEdge s = .next t ∧ t.clk = { s.clk with tsLoad := some (144, s.pv 0x6063 0) } ∧ t.pv 0x6063 0 = 0 ∧ t.mem = s.mem := by
  obtain ⟨hp, hf, hr, hm, hv⟩ := h
  change ∃ t, execTsyncEdge s = .next t ∧ _
  rw [execTsyncEdge, if_neg (by simp [hp, hf, hr, hm]), State.tsync, if_neg hv]
  obtain ⟨j, hrec⟩ := State.recInput_reported (({ s with clk := { s.clk with tsLoad := some (144, s.pv 0x6063 0) } } : State).setPv 0x6063 0 0) 6 0 0 [] false
  refine ⟨_, rfl, hrec.clk, ?_, hrec.mem⟩
  exact (hrec.pv 0x6063 0 (by decide) (by decide)).trans (State.pv_setPv_same _ _ _ _)

end

/-! ### The Quench (R411 to R417) -/

section
variable {s : State} {source trig r : Nat}

theorem State.quenchAsk_ignored (h : s.quench.st ≠ 0 ∨ s.clk.rootOn = false) : s.quenchAsk source trig r =
    { s with quench := { s.quench with ignored := if s.quench.ignored = BitVec.allOnes 32 then s.quench.ignored else s.quench.ignored + 1 } } :=
  if_pos (by simpa using h)

theorem State.quenchAsk_asks (h : s.quench.st = 0) (hr : s.clk.rootOn = true) : s.quenchAsk source trig r =
    { s with quench := { s.quench with st := 1, source := source, trig := trig, at_ := r + 16, out := true } } :=
  if_neg (by simp [h, hr])

theorem exec_quenchCtlWrite_asks {v : Byte} (hv : v = 1) (hr : s.clk.rootOn = true) :
    exec (.quenchCtlWrite v) s = .next (s.quenchAsk 2 0 s.clk.now) := by
  subst hv
  exact congrArg (fun p => Host.Outcome.next (Prod.fst p)) (if_pos ⟨rfl, hr⟩)

theorem exec_quenchCtlWrite_none {v : Byte} (h : v ≠ 1 ∨ s.clk.rootOn = false) : exec (.quenchCtlWrite v) s = .next s := by
  refine congrArg (fun p => Host.Outcome.next (Prod.fst p)) (if_neg ?_)
  rintro ⟨hv, hr⟩
  rcases h with h | h
  · exact h (BitVec.eq_of_toNat_eq hv)
  · simp [h] at hr

/-- Steps that each keep the banks keep them together: presenting a command on a channel is one such. -/
theorem State.foldl_banks {α : Type} {l : List α} {f : State → α → State} (hf : ∀ u a, (f u a).tiers.banks = u.tiers.banks) (s : State) :
    (l.foldl f s).tiers.banks = s.tiers.banks := by
  induction l generalizing s with
  | nil => rfl
  | cons a l ih => exact (ih _).trans (hf s a)

theorem State.prechargeAll_banks (s : State) : s.prechargeAll.tiers.banks = s.tiers.banks.map (fun e => (e.1, { e.2 with row := none })) := by
  refine State.foldl_banks (fun u k => State.foldl_banks (fun v c => ?_) u) _
  split <;> rfl

theorem State.prechargeAll_closed (s : State) : ∀ e ∈ s.prechargeAll.tiers.banks, e.2.row = none := by
  rw [State.prechargeAll_banks]
  intro e he
  obtain ⟨b, -, rfl⟩ := List.mem_map.mp he
  rfl

theorem State.prechargeAll_only (s : State) : Keeps { tiers := true } s s.prechargeAll := State.prechargeAll_keeps (.refl _ s) rfl

/-- The Quench that was asked for is due. -/
def State.quenchDue (s : State) : Prop := s.quench.st = 1 ∧ s.clk.rootOn = true ∧ s.quench.at_ ≤ s.clk.now

theorem State.quenchDue_iff : s.quenchDue ↔ ¬(s.quench.st ≠ 1 || !s.clk.rootOn || decide (s.clk.now < s.quench.at_)) = true := by
  simp only [State.quenchDue, Bool.or_eq_true, not_or, Bool.not_eq_true', Bool.not_eq_false, decide_eq_true_eq, ne_eq, not_not, and_assoc,
    Nat.not_lt]

theorem exec_quenchTake_early (h : ¬s.quenchDue) : exec .quenchTake s = .next s :=
  congrArg Host.Outcome.next (if_pos (not_not.mp (mt State.quenchDue_iff.mpr h)))

/-- The state that a Quench freezes: the clock root stopped, no snapshot due, and where the block stood kept. -/
def State.quenched (s : State) : State :=
  { s with
    clk := { s.clk with rootOn := false }
    count := { s.count with pend := none }
    quench := { s.quench with
      st := 2
      ts := s.clk.ts
      count := BitVec.ofNat 16 s.count16
      elem2 := dwordOf [(47, 0, s.sched.epoch.toNat), (63, 48, s.period)]
      elem3 := dwordOf [(7, 0, s.position.getD 0), (8, 8, b2n s.sched.running)] } }

/-- The record of a Quench: its status word (R416). -/
def State.quenchRec (s : State) : RecF :=
  let e := s.quenchStatus 0
  { code := 0x91, unit := uHearth, aux := e % 2^32, late := fld e 47 32, obj := fld e 63 48 }

/-- When a Quench is taken the banks are precharged, it is told, the graph starts, and the requests held are dropped (log entry 61). -/
theorem exec_quenchTake_takes (h : s.quenchDue) : exec .quenchTake s =
    .next ((s.quenched.prechargeAll.raise s.quenched.quenchRec).wfgStart.dropReqs.notice 0x7201 0 (natBytes 8 (s.quenched.quenchStatus 0))) := by
  change execQuenchTake s = _
  simp only [execQuenchTake, if_neg (State.quenchDue_iff.mp h), State.quenchRec, State.quenched]

/-- The graph's start, the drop and the notice touch the trace and the requests alone. -/
theorem State.quenchTail_eq (v : State) (bs : List Byte) : ∃ slots subs, v.wfgStart.dropReqs.notice 0x7201 0 bs =
    { v with trace := { v.trace with wfgBusy := 1, wfgAt := v.clk.ts.toNat }, mgmt := { v.mgmt with reqs := [], slots := slots, subs := subs } } :=
  ⟨_, _, rfl⟩

/-- The refresh keeper of a stack acts. -/
def State.refreshMay (s : State) (k : Nat) : Prop := s.quench.st = 2 ∧ s.clk.fclkOn = true ∧ s.tiers.ready.contains k = true

theorem State.refreshMay_iff {k : Nat} : s.refreshMay k ↔ ¬(s.quench.st ≠ 2 || !s.clk.fclkOn || !s.tiers.ready.contains k) = true := by
  simp only [State.refreshMay, Bool.or_eq_true, not_or, Bool.not_eq_true', Bool.not_eq_false, decide_eq_true_eq, ne_eq, not_not, and_assoc]

theorem exec_quenchRefresh_none {k : StackId} (h : ¬s.refreshMay k.val) : exec (.quenchRefresh k) s = .next s :=
  congrArg Host.Outcome.next (if_pos (not_not.mp (mt State.refreshMay_iff.mpr h)))

/-- Every channel of the stack that has not failed is given a REFAB for each half. -/
def State.refreshCmds (s : State) (k : Nat) : State :=
  ((List.range 32).filter (fun c => !s.t1Failed k c)).foldl (fun s c => (s.t1Cmd k c (cmdWord 7 0 0 0 0)).t1Cmd k c (cmdWord 7 1 0 0 0)) s

theorem State.refreshCmds_only (s : State) (k : Nat) : Keeps { tiers := true } s (s.refreshCmds k) :=
  (Keeps.refl _ s).foldl fun _ _ h => State.t1Cmd_keeps (State.t1Cmd_keeps h rfl) rfl

theorem exec_quenchRefresh_eq {k : StackId} (h : s.refreshMay k.val) :
    let u := s.refreshCmds k.val
    exec (.quenchRefresh k) s = .next { u with
      tiers := { u.tiers with banks := u.tiers.banks.map (fun e => if e.1 / 1024 = k.val then (e.1, { e.2 with row := none, owed := 0 }) else e) }
      quench := { u.quench with refAt := Tbl.set u.quench.refAt 0 k.val u.clk.ts.toNat } } :=
  congrArg Host.Outcome.next (if_neg (State.refreshMay_iff.mp h))

/-- The write clears a largest value. -/
def State.occMay (s : State) (i : Nat) (v : Dword) : Prop := s.mgmt.por = false ∧ i % 2 = 1 ∧ i < 8768 ∧ v = 0

theorem exec_queueOccClear_none {i : Nat} {v : Dword} (h : ¬s.occMay i v) : exec (.queueOccClear i v) s = .next s := by
  change execQueueOccClear i v s = _
  refine congrArg Host.Outcome.next ?_
  by_cases hp : s.mgmt.por = true
  · exact if_pos hp
  · refine (if_neg hp).trans (congrArg Prod.fst (if_neg ?_))
    rintro ⟨ho, hi, hv⟩
    exact h ⟨by simpa using hp, ho, hi, BitVec.eq_of_toNat_eq hv⟩

theorem exec_queueOccClear_clears {i : Nat} {v : Dword} (h : s.occMay i v) :
    exec (.queueOccClear i v) s = .next (s.setCounter 0x6600 i 0) := by
  obtain ⟨hp, ho, hi, rfl⟩ := h
  change execQueueOccClear i 0 s = _
  rw [execQueueOccClear, if_neg (by simp [hp])]
  exact congrArg (fun p => Host.Outcome.next (Prod.fst p)) (if_pos ⟨ho, hi, rfl⟩)

/-- The state that a Quench leaves. -/
structure QuenchTaken (s t : State) : Prop where
  clk : t.clk = { s.clk with rootOn := false }
  pend : t.count.pend = none
  quench : t.quench = s.quenched.quench
  reqs : t.mgmt.reqs = []
  busy : t.trace.wfgBusy = 1
  mem : t.mem = s.mem
  banks : ∀ e ∈ t.tiers.banks, e.2.row = none

/-- Precharging and the report of it leave what the Quench froze. -/
theorem QuenchTaken.of_reported {s a v : State} (bs : List Byte) (honly : Keeps { tiers := true } s.quenched a) (hraise : Reported a v)
    (hbanks : ∀ e ∈ a.tiers.banks, e.2.row = none) : QuenchTaken s (v.wfgStart.dropReqs.notice 0x7201 0 bs) := by
  obtain ⟨slots, subs, htail⟩ := v.quenchTail_eq bs
  rw [htail]
  constructor
  · exact hraise.clk.trans (honly.same_clk rfl)
  · exact congrArg Count.pend (hraise.count.trans (honly.same_count rfl))
  · exact hraise.quench.trans (honly.same_quench rfl)
  · rfl
  · rfl
  · exact hraise.mem.trans (honly.same_mem rfl)
  · exact fun e he => hbanks e (hraise.tiers ▸ he)

end

/-- Settles O53: the graph and QUENCH_CTL by their conditions, a probe by `State.probeMay`, an edge of tsync_i by `State.tsyncMay` (the timestamp is
loaded at its edge, log entry 35), a Quench by `State.quenchAsk` and `exec_quenchTake_takes` (which drops the requests held, log entry 61), a
refresh by `State.refreshCmds`. -/
theorem clocksGraphAndQuenchAct : Obligations.ClocksGraphAndQuenchAct := by
  unfold Obligations.ClocksGraphAndQuenchAct
  intro s
  refine ⟨exec_wfgBuild_starts, exec_wfgBuild_ignored, exec_wfgBuildDone_none, exec_wfgBuildDone_stores,
    fun k chip => ⟨exec_tsprobeSend_none, exec_tsprobeSend_sends⟩, fun k f => ⟨exec_tsprobeRecv_closed, exec_tsprobeRecv_open⟩,
    ⟨exec_tsyncEdge_none, exec_tsyncEdge_loads⟩, fun source trig r => ⟨State.quenchAsk_ignored, State.quenchAsk_asks⟩, rfl,
    fun v => ⟨exec_quenchCtlWrite_asks, exec_quenchCtlWrite_none⟩, ⟨exec_quenchTake_early, fun hd => ?_⟩,
    fun k => ⟨exec_quenchRefresh_none, fun hm => ?_⟩, fun i v => ⟨exec_queueOccClear_none, exec_queueOccClear_clears⟩⟩
  · obtain ⟨hclk, hpend, hquench, hreqs, hbusy, hmem, hbanks⟩ := QuenchTaken.of_reported (natBytes 8 (s.quenched.quenchStatus 0))
      s.quenched.prechargeAll_only (s.quenched.prechargeAll.raise_reported s.quenched.quenchRec) s.quenched.prechargeAll_closed
    exact ⟨_, exec_quenchTake_takes hd, hclk, hpend, hquench, hreqs, hbusy, hmem, hbanks⟩
  · have honly := s.refreshCmds_only k.val
    refine ⟨_, exec_quenchRefresh_eq hm, honly.same_clk rfl, honly.same_mem rfl, ?_, ?_⟩
    · exact (Tbl.get_set_same _ _ _ _).trans (congrArg (fun c => c.ts.toNat) (honly.same_clk rfl))
    · intro e he hk
      obtain ⟨b, -, rfl⟩ := List.mem_map.mp he
      split at hk
      next hb => rw [if_pos hb]; exact ⟨rfl, rfl⟩
      next hb => exact absurd hk hb

end Sys2Proof.Machine
end

section
/-!
SUPPORT. Requests of YPP (R424, R425, R428, R430, R431): where a message or a mailbox slot leads, the checks of stage A, and what becomes of a request.
-/
namespace Sys2Proof.Machine

/-! ### Stage A (R428) -/

section
variable {s : State} {r : YReq}

theorem State.stageA_bad : s.stageA true r = 0x01 := rfl

theorem State.stageA_noParam (h5 : r.op ≠ 5) (h7 : r.op ≠ 7) (hd : pdesc r.param = none) : s.stageA false r = 0x02 := by
  simp [State.stageA, hd, h5, h7]

/-- The checks of a request for a parameter that the dictionary lists, in their order. -/
theorem State.stageA_listed {d : PDesc} (hd : pdesc r.param = some d) : s.stageA false r =
    if (r.op ≠ 5 ∧ r.op ≠ 7) ∧ d.count ≤ r.index then 0x03
    else if r.op = 0 ∨ 7 < r.op ∨ ((r.op ≠ 5 ∧ r.op ≠ 7) ∧ writeOp r.op = true ∧ d.roAt r.index = true) then 0x04
    else if s.badLength d r = true then 0x05
    else if s.denied d r = true then 0x06
    else if s.quench.st = 2 ∧ quenchServes r = false then 0x07
    else if writeOp r.op = true ∧ 32 ≤ s.hostQueue then 0x0C
    else if s.logs r = true ∧ s.jFull = true then 0x0D
    else 0 := by
  simp only [State.stageA, hd, Bool.and_eq_true, Bool.or_eq_true, Bool.not_eq_true', Bool.or_eq_false_iff, decide_eq_true_eq, decide_eq_false_iff_not,
    Bool.false_eq_true, if_false, ne_eq, or_assoc, and_assoc]

end

/-! ### A request is taken (R428 to R430) -/

/-- In a replay an external write-class operation comes from the record, but for 0x7200 to 0x7204 and 0xFxxx (log entry 23). -/
def State.outsideReplay (s : State) (r : YReq) (free : Bool) : Prop :=
  free = false ∧ s.replaying = true ∧ writeOp r.op = true ∧ ¬(0x7200 ≤ r.param ∧ r.param ≤ 0x7204) ∧ r.param < 0xF000

/-- The answer of stage A. -/
def State.answerA (s : State) (r : YReq) (n : Nat) : State := s.sendRsp (r.rsp n [s.sched.result] r.index)

/-- The request is held, last, under the next number, and the journal's pump runs. -/
def State.holdReq (s : State) (r : YReq) : State :=
  State.logPump 32 { s with mgmt := { s.mgmt with
    reqs := s.mgmt.reqs ++ [{ r with no := s.mgmt.reqNo, go := !s.logs r }], reqNo := s.mgmt.reqNo + 1 } }

/-- A write-class operation is recorded with its bytes (R348). -/
def State.recordReq (s : State) (p : Path) (tag : Nat) (ic : Bool) (hdr : Nat) (pl : List Byte) : State :=
  if writeOp (yreqOf p tag ic hdr pl).op then s.recInput 4 0 0 (recorded p tag ic hdr pl) true else s

section
variable {s : State} {p : Path} {tag : Nat} {ic : Bool} {hdr : Nat} {pl : List Byte} {bad free : Bool}

theorem State.takeReq_leaving (hl : s.mirror.st = .leaving) (hs : leavingServes (yreqOf p tag ic hdr pl) = false) :
    s.takeReq p tag ic hdr pl bad free = s.slotDrop p :=
  if_pos (by simp [hl, hs])

/-- A request that the member serves goes by stage A, then by whether a replay takes its like from the record. -/
theorem State.takeReq_served [Decidable (s.outsideReplay (yreqOf p tag ic hdr pl) free)]
    (h : s.mirror.st ≠ .leaving ∨ leavingServes (yreqOf p tag ic hdr pl) = true) :
    s.takeReq p tag ic hdr pl bad free =
      let r := yreqOf p tag ic hdr pl
      let st := s.stageA bad r
      if st = 0x06 then (s.answerA r st).sayDenied r st
      else if st = 0x0D then (s.answerA r st).jSayFull
      else if st ≠ 0 then s.answerA r st
      else if s.outsideReplay r free then s.answerA r 0x0B
      else (s.recordReq p tag ic hdr pl).holdReq r := by
  have hserved : ¬((s.mirror.st = .leaving && !leavingServes (yreqOf p tag ic hdr pl)) = true) := by
    rcases h with h | h <;> simp [h]
  have hout : ((!free && s.replaying && writeOp (yreqOf p tag ic hdr pl).op && !(decide (0x7200 ≤ (yreqOf p tag ic hdr pl).param ∧
      (yreqOf p tag ic hdr pl).param ≤ 0x7204) || decide (0xF000 ≤ (yreqOf p tag ic hdr pl).param))) = true) ↔
      s.outsideReplay (yreqOf p tag ic hdr pl) free := by
    simp [State.outsideReplay, and_assoc]
    omega
  simp only [State.takeReq, if_neg hserved, hout]
  rfl

/-- Recording leaves the requests held as they were. -/
theorem State.recordReq_reqs : (s.recordReq p tag ic hdr pl).mgmt.reqs = s.mgmt.reqs ∧ (s.recordReq p tag ic hdr pl).mgmt.reqNo = s.mgmt.reqNo := by
  unfold State.recordReq
  split
  · obtain ⟨j, h⟩ := s.recInput_reported 4 0 0 (recorded p tag ic hdr pl) true
    constructor
    all_goals rw [h.mgmt]
  · exact ⟨rfl, rfl⟩

/-- The request is held behind those of a state with the same requests; whether it is journaled does not hang on its number. -/
theorem State.holdReq_eq {v : State} {r : YReq} (h : v.mgmt.reqs = s.mgmt.reqs ∧ v.mgmt.reqNo = s.mgmt.reqNo) :
    v.holdReq r = State.logPump 32 { v with mgmt := { v.mgmt with
      reqs := s.mgmt.reqs ++ [{ r with no := s.mgmt.reqNo, go := !v.logs { r with no := s.mgmt.reqNo } }], reqNo := s.mgmt.reqNo + 1 } } := by
  rw [← h.1, ← h.2]
  rfl

end

/-! ### Messages and mailbox slots (R424, R431) -/

section
variable {s : State} {eid : Byte} {tag : Fin 8} {bs : List Byte}

/-- The bytes of a message before its check. -/
def mctpBody (bs : List Byte) : List Byte := if bit (bytesAt bs 0 1) 7 then bs.take (bs.length - 4) else bs

/-- The message is of the type and the enterprise of YPP, whole, and its check holds. -/
def State.mctpOk (s : State) (bs : List Byte) : Prop :=
  bytesAt bs 0 1 % 128 = 0x7F ∧ bytesAt bs 1 1 * 2^24 + bytesAt bs 2 1 * 2^16 + bytesAt bs 3 1 * 2^8 + bytesAt bs 4 1 = s.pv 0x0004 0 ∧
    5 ≤ bs.length ∧ (bit (bytesAt bs 0 1) 7 = true → bytesAt bs (bs.length - 4) 4 = (crc32 (mctpBody bs)).toNat)

theorem exec_mctpMessage_eq (hu : s.yppUp = true) [Decidable (s.mctpOk bs)] : exec (.mctpMessage eid tag bs) s = .next (
    let hdr := bytesNat (((mctpBody bs).drop 5).take 32)
    if s.mctpOk bs then s.mctpReq eid tag.val (bit (bytesAt bs 0 1) 7) hdr ((mctpBody bs).drop 37)
      (badFrame hdr ((mctpBody bs).drop 37).length || decide ((mctpBody bs).length < 37)) else s) := by
  change execMctpMessage eid tag bs s = _
  refine congrArg Host.Outcome.next ((ite_congr (propext ?_) (fun _ => rfl) (fun _ => rfl)).trans (ite_not _ _ _))
  simp only [hu, State.mctpOk, Classical.not_and_iff_not_or_not, Classical.not_imp, mctpBody]
  simp [or_assoc]

theorem exec_mbGo_busy {k : Fin 3} (h : s.mbState k.val ≠ 0) : exec (.mbGo k bs) s = .next s :=
  congrArg Host.Outcome.next (if_pos (by simp [h]))

theorem exec_mbRspack_other {k : Fin 3} (h : s.mbState k.val ≠ 2) : exec (.mbRspack k) s = .next s :=
  congrArg Host.Outcome.next (if_neg h)

theorem exec_mbRspack_done {k : Fin 3} (h : s.mbState k.val = 2) :
    ∃ t, exec (.mbRspack k) s = .next t ∧ Tbl.get t.mgmt.slots {} k.val = { Tbl.get s.mgmt.slots {} k.val with st := 0, rsp := [] } :=
  ⟨_, congrArg Host.Outcome.next (if_pos h), Tbl.get_set_same _ _ _ _⟩

end

/-- A message of YPP that finds 16 held, or its tag outstanding, is answered BUSY before any check (log entry 21). -/
theorem State.mctpReq_many {s : State} {eid : Byte} {tag : Nat} {ic : Bool} {hdr : Nat} {pl : List Byte} {bad : Bool}
    (h : 16 ≤ s.mctpHeld.length ∨ s.mctpHeld.any (fun q => q.path = .mctp eid && q.tag = tag) = true) :
    s.mctpReq eid tag ic hdr pl bad = if s.mirror.st = .leaving ∧ leavingServes (yreqOf (.mctp eid) tag ic hdr pl) = false then s
      else s.answerA (yreqOf (.mctp eid) tag ic hdr pl) 0x0C := by
  refine (if_pos (by simpa using h)).trans (if_congr ?_ rfl rfl)
  simp

theorem State.mctpReq_few {s : State} {eid : Byte} {tag : Nat} {ic : Bool} {hdr : Nat} {pl : List Byte} {bad : Bool}
    (h : ¬(16 ≤ s.mctpHeld.length ∨ s.mctpHeld.any (fun q => q.path = .mctp eid && q.tag = tag) = true)) :
    s.mctpReq eid tag ic hdr pl bad = s.takeReq (.mctp eid) tag ic hdr pl bad false :=
  if_neg (by simpa using h)

theorem exec_mbGo_idle {s : State} {k : Fin 3} {bs : List Byte} (hu : s.yppUp = true) (h : s.mbState k.val = 0) :
    let hdr := bytesNat (bs.take 32)
    let n := min (fld hdr 95 80) 1024
    let slot : Slot := { Tbl.get s.mgmt.slots {} k.val with st := 1, req := bs }
    exec (.mbGo k bs) s = .next (State.takeReq { s with mgmt := { s.mgmt with slots := Tbl.set s.mgmt.slots {} k.val slot } } (.mb k) 0 false hdr
      (natBytes n (bytesNat ((bs.drop 32).take n))) (badFrame hdr (fld hdr 95 80)) false) := by
  intro hdr n slot
  exact congrArg Host.Outcome.next (if_neg (by simp [hu, h]))

/-- Settles O44: a message by `exec_mctpMessage_eq` (BUSY comes before the stages, log entry 21), a mailbox slot by its state, the checks of stage A by
`State.stageA_listed`, and a request by `State.takeReq_served` (a replay refuses outside writes, log entry 23). -/
theorem requestsArriveAndAreChecked : Obligations.RequestsArriveAndAreChecked := by
  unfold Obligations.RequestsArriveAndAreChecked
  classical
  intro s hu
  refine ⟨fun eid tag bs => ?_, fun k bs => ⟨exec_mbGo_busy, exec_mbGo_idle hu⟩, fun p tag ic hdr pl bad free => ?_, fun r => ?_,
    fun k => ⟨exec_mbRspack_other, exec_mbRspack_done⟩, fun k => ⟨_, rfl, rfl, rfl⟩⟩
  · intro ic body hdr ok r many gone go
    have hgo := exec_mctpMessage_eq (eid := eid) (tag := tag) (bs := bs) hu
    refine ⟨fun ho => hgo.trans (congrArg _ (if_neg ho)), fun ho hm hg => ?_, fun ho hm hg => ?_, fun ho hm => ?_⟩
    · exact hgo.trans (congrArg _ ((if_pos ho).trans ((State.mctpReq_many hm).trans (if_pos hg))))
    · exact hgo.trans (congrArg _ ((if_pos ho).trans ((State.mctpReq_many hm).trans (if_neg hg))))
    · exact hgo.trans (congrArg _ ((if_pos ho).trans (State.mctpReq_few hm)))
  · intro r st answer go outside
    refine ⟨State.takeReq_leaving, fun hs => ?_⟩
    have hgo := State.takeReq_served (bad := bad) (free := free) hs
    refine ⟨fun h6 => hgo.trans (if_pos h6), fun hd => ?_, fun h0 h6 hd => ?_, fun h0 ho => ?_, fun h0 ho => ?_⟩
    · have h6 : st ≠ 0x06 := by omega
      exact hgo.trans ((if_neg h6).trans (if_pos hd))
    · exact hgo.trans ((if_neg h6).trans ((if_neg hd).trans (if_pos h0)))
    all_goals
      have h6 : st ≠ 0x06 := by omega
      have hd : st ≠ 0x0D := by omega
      have hpass := hgo.trans ((if_neg h6).trans ((if_neg hd).trans (if_neg (not_not.mpr h0))))
    · exact hpass.trans (if_pos ho)
    · exact hpass.trans ((if_neg ho).trans (State.holdReq_eq State.recordReq_reqs))
  · refine ⟨State.stageA_bad, State.stageA_noParam, fun d hd => ?_⟩
    exact State.stageA_listed hd

end Sys2Proof.Machine
end
